-- ==== Sys2Proof/Word.lean ====
section
/-! DEFINITION. The words of the model: bytes, 32-bit register words, 48-bit device-local addresses,
the bit patterns of binary32 numbers, and saturating counts. -/

namespace Sys2Proof

/-- One byte. -/
abbrev Byte := BitVec 8

/-- A 32-bit register word (R10). -/
abbrev Word := BitVec 32

/-- A string of bytes, lowest address first. -/
abbrev Bytes := List Byte

/-- The bit pattern of an IEEE 754 binary32 number (R117). -/
abbrev F32 := BitVec 32

/-- A table from a unit, register or stream number to its entry: rising numbers, no default entry. -/
abbrev Tab (α : Type) := List (Nat × α)

/-- A count that saturates at `top`, after `n` more events. -/
def satAdd (top c n : Nat) : Nat := min top (c + n)

/-- The largest value of a 32-bit count. -/
def max32 : Nat := 0xFFFFFFFF

/-- The largest value of a 16-bit count. -/
def max16 : Nat := 0xFFFF

/-- The largest value of an 8-bit count. -/
def max8 : Nat := 0xFF

end Sys2Proof
end

