-- ==== Sys2Proof/Syntax.lean ====
section
/-! DEFINITION. The commands of the block: one constructor of `Instr` per row of spec/opcode_table.json, with the
row's operands (who acts, which unit, the bytes a read of host memory returned, the physical values). -/

namespace Sys2Proof

/-- Who makes a register or window access: a CXL.io requester on a UCIe link (R324, R325), the weaver core, or
the I3C target as identity slot 62 (R349). -/
inductive Who where
  | host (rid : BitVec 16) (link : Fin 8)
  | weaver
  | i3c
deriving DecidableEq, Repr

/-- A place in an integer datapath that carries a residue (R114): a dent product, a heddle accumulator, a drain operand, the
`nth` mending product of a column, an integer that a fuller or the sampler takes in or a shuttle expands a query to, a dot product of a shuttle. -/
inductive IntPlace where
  | product (heddle : Fin 64) (dent : Fin 8) (column : Fin 512)
  | accumulator (heddle : Fin 64) (column : Fin 512)
  | operand (heddle : Fin 64) (column : Fin 512)
  | mending (heddle : Fin 64) (column : Fin 512) (nth : Nat)
  | element (index : Nat)
  | dot (row position : Nat) (rotary : Bool)
deriving DecidableEq, Repr

/-- A physical event that strikes the work of one step: a conversion that reads another code, an integer and its residue that
come out otherwise, a running-statistic disagreement, bits that read flipped in the 64-byte unit at an address, in a 64-bit
word of weaver-core SRAM, or in a fuller table. -/
inductive Upset where
  | conv (heddle : Fin 64) (plane : Fin 8) (dent : Fin 8) (column : Fin 528) (code : Fin 128) (nearLo nearHi : Bool)
  | fault (at_ : IntPlace) (value : Int) (residue : Fin 8)
  | stat
  | flips (addr : BitVec 48) (bits : BitVec 512)
  | sram (bits : BitVec 64)
  | table (bits : BitVec 64)
deriving DecidableEq, Repr

/-- What a test window meets: what strikes its work, what the unit under test gives, and the reference that Adoraku computes for a
capture. -/
structure TestSeen where
  ups : List Upset
  output : Bytes
  reference : Bytes
deriving DecidableEq, Repr

/-- One piece of a remote operation: at most 4 KiB of payload and the tally received with it (R149). -/
structure Piece where
  data : Bytes
  tally : Word
deriving DecidableEq, Repr

/-- A remote operation: the header of Table 6.2 and its pieces. -/
structure RemoteOp where
  opc : Nat
  status : Nat
  srcPlace : Nat
  dstPlace : Nat
  context : Nat
  dstAddr : Nat
  srcAddr : Nat
  length : Nat
  tally : Word
  pieces : List Piece
deriving DecidableEq, Repr

/-- An Xeast flit (Table 6 of the links chapter, R334): its 252 covered bytes and its CRC. -/
structure Flit where
  bytes : Bytes
  crc : Word
deriving DecidableEq, Repr

/-- What the plan check learns of one other member of the plan group (R169, R171, PLAN_ID of Table 12.7). -/
structure MemberView where
  place : Nat
  group : Nat
  profile : Nat
  fwForm : Nat
  reachable : Bool
  leader : Nat
  aligned : Bool
deriving DecidableEq, Repr

/-- A window on an Xeast port as the modules of the port list it to each other (R169): outbound or RECV, and the destination
range of an outbound ADD's words. -/
structure PortWindow where
  outbound : Bool
  start : Nat
  len : Nat
  every : Nat
  phase : Nat
  adds : Option (Nat × Nat)
deriving DecidableEq, Repr

/-- The exchange of a plan check with the other members of the group (R169): what it learns of each, and for each port the
window list that the module at its other end sent. -/
structure GroupView where
  members : List MemberView
  windows : List (Nat × List PortWindow)
deriving DecidableEq, Repr

/-- What TWIN_PAIR learns of the peer (R306). -/
structure PeerView where
  profile : Nat
  fwForm : Nat
  side : Nat
  leader : Nat
  timeState : Nat
  contexts : List (Nat × Bool × Nat × Nat × Nat)
  ownHalves : Bool
deriving DecidableEq, Repr

/-- A request as a shadow record or a hand-over carries it (R307, R311). -/
structure ShadowReq where
  opcode : Nat
  noSpec : Bool
  tag : Nat
  prompt : List Nat
  maxNew : Nat
  seed : Nat
  temperature : F32
  topK : Nat
  topP : F32
  stop0 : Nat
  stop1 : Nat
  emitted : Nat
  ring : Nat
  tenant : Nat
deriving DecidableEq, Repr

/-- A shadow record (R307): stream map entry, page-table entries, COMMIT, last token, request; and the tenant that the
stream belongs to. -/
structure ShadowRec where
  stream : Nat
  context : Nat
  tenant : Nat
  smapEntry : Bytes
  ptEntries : List (Nat × Bytes)
  commit : Nat
  lastToken : Nat
  request : Option ShadowReq
  pendingOnly : Bool
deriving DecidableEq, Repr

/-- The stamps of a SYNC flit (R344), in quarter-nanoseconds, and the sender's time leader and alignment. -/
structure SyncStamps where
  pickSent : Nat
  phaseSent : Nat
  pickGot : Nat
  phaseGot : Nat
  leader : Nat
  aligned : Bool
  depth : Nat
  pickHere : Nat
  phaseHere : Nat
deriving DecidableEq, Repr

/-- The module reads of host memory that can fail (R327). -/
inductive HostRead where
  | mailbox (m : Fin 16)
  | ring (r : Fin 8192)
deriving DecidableEq, Repr

/-- Why the host site is shut down (R319). -/
inductive HsCause where
  | railCurrent
  | totalPower
  | therm
deriving DecidableEq, Repr

/-- Why a port's link has failed (R337). -/
inductive LinkCause where
  | retrainLate
  | wrongPeer
  | fourRetrains
deriving DecidableEq, Repr

/-- One chunk of a sealed stream: ciphertext and GCM tag (R228). -/
structure Chunk where
  data : Bytes
  tag : Bytes
deriving DecidableEq, Repr

/-- The host data of one open load (R230-R232): descriptor, elements, scales, tile map. -/
structure OpenData where
  descriptor : Bytes
  elements : Bytes
  scales : Bytes
  tileMap : Bytes
deriving DecidableEq, Repr

/-- The outcome of one BIST item on the hardware (R401): units tested, failed units, duration. -/
structure BistOutcome where
  failed : List Nat
  duration : Nat
deriving DecidableEq, Repr

/-- A remote fault notice (R312). -/
structure FaultNotice where
  place : Nat
  kind : Nat
  index : Nat
  detector : Nat
  originPick : Nat
  group : Nat
deriving DecidableEq, Repr

/-- The commands: one constructor per row of the opcode table, in its order. What a row meets beside its operand comes paired with it:
the upsets that strike a step's work with the step's index, the error of an ACK's or NACK's header tally, the struck words of what a
command reads from SRAM, the places whose acceptance a leader has heard. -/
inductive Instr where
  | powerOn (hsPresent : Bool) (bmAddr : Fin 8) (cfgRecoverLow cfgLineHigh : Bool)
  | inputPowerLoss
  | inputOutOfRange (mv : BitVec 32)
  | railFault (aon : Bool)
  | referenceOscillatorFail
  | pickBoundary
  | pickLengthChange
  | hubPickLoRead (who : Who)
  | bar0MisalignedAccess (who : Who) (write : Bool)
  | registerWrite (who : Who) (off : BitVec 26) (v : Word)
  | bar4Read (who : Who) (off : BitVec 36) (n : Fin 4097)
  | bar4Write (who : Who) (off : BitVec 36) (data : Bytes)
  | unassignedOpcode (m : Fin 16)
  | mvmStep (ctx : Fin 256) (list : Fin 5) (idx : BitVec 18) (ups : List Upset)
  | mendStep (ctx : Fin 256) (list : Fin 5) (idx : BitVec 18) (ups : List Upset)
  | fullStep (ctx : Fin 256) (list : Fin 5) (idx : BitVec 18) (ups : List Upset)
  | attnStep (ctx : Fin 256) (list : Fin 5) (idx : BitVec 18) (ups : List Upset)
  | putStep (ctx : Fin 256) (list : Fin 5) (idx : BitVec 18) (ups : List Upset)
  | getStep (ctx : Fin 256) (list : Fin 5) (idx : BitVec 18 × List Upset)
  | addStep (ctx : Fin 256) (list : Fin 5) (idx : BitVec 18) (ups : List Upset)
  | knotStep (ctx : Fin 256) (list : Fin 5) (idx : BitVec 18)
  | recvStep (ctx : Fin 256) (list : Fin 5) (idx : BitVec 18)
  | calStep (ctx : Fin 256) (list : Fin 5) (idx : BitVec 18)
  | testStep (ctx : Fin 256) (list : Fin 5) (idx : BitVec 18) (seen : TestSeen)
  | batchStep (ctx : Fin 256) (list : Fin 5) (idx : BitVec 18 × List Upset)
  | sampleStep (ctx : Fin 256) (list : Fin 5) (idx : BitVec 18) (ups : List Upset)
  | emitStep (ctx : Fin 256) (list : Fin 5) (idx : BitVec 18 × List Upset)
  | stepEnd (ctx : Fin 256) (list : Fin 5) (idx : BitVec 18)
  | unfilledSlotKnotSet (ctx : Fin 256) (list : Fin 5) (idx : BitVec 18)
  | put (op : RemoteOp) (path : BitVec 16)
  | get (op : RemoteOp) (path : BitVec 16)
  | getData (op : RemoteOp) (path : BitVec 16)
  | add48 (op : RemoteOp) (path : BitVec 16)
  | knotSet (op : RemoteOp) (path : BitVec 16)
  | ack (ctx : Fin 256) (list : Fin 5) (idx : BitVec 18 × Word)
  | nack (ctx : Fin 256) (list : Fin 5) (idx : BitVec 18 × Word) (status : Fin 5)
  | contextEnable (who : Who)
  | contextDisable (who : Who)
  | maskingSet (who : Who) (on : Bool)
  | strictSet (who : Who) (strict : Bool) (mask : BitVec 16)
  | twillSet (who : Who) (on : Bool)
  | checkComplete (ctx : Fin 256) (grp : GroupView)
  | armingReady (ctx : Fin 256)
  | armingHoldTimeout (ctx : Fin 256)
  | ready (group : BitVec 64) (place : Fin 4096) (pick : BitVec 64)
  | launch (group : BitVec 64) (l : BitVec 64)
  | abort (group : BitVec 64)
  | launchReadyTimeout (ctx : Fin 256)
  | armedTimeout (ctx : Fin 256)
  | launchCalWindow (ctx : Fin 256)
  | launchPick (ctx : Fin 256)
  | stop (group : BitVec 64) (pick : BitVec 64)
  | stopIterationEnd (ctx : Fin 256)
  | planLoad (m : Fin 16) (image : Bytes)
  | planUnload (m : Fin 16)
  | planStatus (m : Fin 16)
  | planMap (m : Fin 16)
  | sequencerCalWindow (h : Fin 4096)
  | fullTrim (who : Who)
  | fullTrimDone (h : Fin 4096)
  | harnessReqActive (who : Who)
  | harnessReqRetention (who : Who)
  | harnessReqOff (who : Who)
  | harnessTransitionDone (h : Fin 4096)
  | harnessReturnResume (h : Fin 4096)
  | harnessReset (who : Who)
  | scrubRowCompare (g : Fin 262144) (row : Fin 512) (ups : List Upset)
  | scrubRewrite (g : Fin 262144) (row : Fin 512)
  | scrubPassComplete (g : Fin 262144)
  | scrubLate (g : Fin 262144)
  | targetedScrub (g : Fin 262144) (dent : Fin 8) (ups : List Upset)
  | thermalUpdate
  | throttleGraceEnd
  | throttleEval
  | sensorConversion (n : Fin 944) (reading : BitVec 11)
  | tripRestart
  | monPeriodEnd (raw : List (BitVec 24 × Bool))
  | monAccLoRead (who : Who)
  | monClear (who : Who)
  | monSourceSet (who : Who) (src : Fin 4)
  | monCal (who : Who)
  | monPeriodSet (who : Who) (p : Fin 4)
  | monCalRestore (who : Who) (gain : Bool) (v : Word)
  | thmPeakClear (who : Who) (n : Fin 5)
  | pwrStateSet (m : Fin 16)
  | powerStateReached
  | budgetRefill
  | sqTailDoorbell (who : Who) (r : Fin 8192) (v : Word)
  | cqHeadDoorbell (who : Who) (r : Fin 8192) (v : Word)
  | generate (r : Fin 8192) (entry : Bytes) (prompt : List Word)
  | prefill (r : Fin 8192) (entry : Bytes) (prompt : List Word)
  | cancel (r : Fin 8192) (entry : Bytes)
  | hostReadFail (what : HostRead)
  | ringSetup (m : Fin 16)
  | ringTeardown (m : Fin 16)
  | streamOpen (m : Fin 16)
  | streamClose (m : Fin 16)
  | streamReset (m : Fin 16)
  | reqCancel (m : Fin 16)
  | roleSet (m : Fin 16)
  | kvMap (m : Fin 16)
  | kvUnmap (m : Fin 16)
  | ctxOpen (m : Fin 16) (recipe : Bytes)
  | ctxClose (m : Fin 16)
  | wgtKey (m : Fin 16) (record : Bytes)
  | wgtLoadSealed (m : Fin 16) (chunks : List Chunk)
  | wgtLoadOpen (m : Fin 16) (data : OpenData)
  | loadTierResume (ctx : Fin 256)
  | loadTierTimeout (ctx : Fin 256)
  | wgtCommit (m : Fin 16)
  | wgtStageOpen (m : Fin 16) (recipe : Bytes)
  | wgtStagePlan (m : Fin 16) (image : Bytes)
  | wgtSwitch (m : Fin 16) (grp : GroupView)
  | wgtStageDrop (m : Fin 16)
  | wgtRestore (m : Fin 16) (chunks : List Chunk) (data : OpenData × List (Fin 262144 × BitVec 64))
  | switchDrained (ctx : Fin 256)
  | drainLimit (ctx : Fin 256)
  | weightFlip (ctx : Fin 256)
  | drained (group : BitVec 64) (place : Fin 4096) (switchId : BitVec 64)
  | flip (group : BitVec 64) (f : BitVec 64) (switchLow : Word)
  | switchAcceptTimeout (ctx : Fin 256 × List (Fin 4096))
  | sealedHarnessRelease (h : Fin 4096)
  | spareCountSet (who : Who) (n : Fin 16)
  | hbmPatrol (block : BitVec 36) (units : List (Fin 64)) (bits : List (BitVec 512))
  | healthEventWrite
  | poweredSecond
  | healthDumapRead (m : Fin 16)
  | healthEventRead (m : Fin 16)
  | healthUnitRestore (m : Fin 16)
  | healthPackLoad (m : Fin 16) (object : Bytes)
  | healthPackUnload (m : Fin 16)
  | healthCaptureRead (m : Fin 16)
  | overrun (ctx : Fin 256) (list : Fin 5) (idx : BitVec 18)
  | starved (ctx : Fin 256) (list : Fin 5) (idx : BitVec 18)
  | memoryTimeout (channel : Fin 768)
  | tierTimeout (tier : Fin 32)
  | sequencerFault (loom : Fin 4)
  | hubWatchdog (function : Fin 8)
  | weaverHeartbeat
  | mailboxTimeout (m : Fin 16)
  | sramUncorrectable
  | lockStepMismatch
  | drainComplete (kind : Fin 12) (idx : BitVec 12)
  | dumpComplete (kind : Fin 12) (idx : BitVec 12) (absent : List Nat)
  | resetRelease (kind : Fin 12) (idx : BitVec 12)
  | restoreComplete (kind : Fin 12) (idx : BitVec 12)
  | restoreTimeout (kind : Fin 12) (idx : BitVec 12)
  | dumpRead (m : Fin 16 × List (BitVec 64))
  | dumpRelease (m : Fin 16)
  | errlogRead (m : Fin 16 × List (Nat × BitVec 64))
  | domainReset (m : Fin 16)
  | domainRetire (m : Fin 16)
  | moduleReturn (m : Fin 16)
  | twinPair (m : Fin 16) (bitmap : Bytes) (peer : PeerView)
  | twinDetach (m : Fin 16)
  | gstop (group : BitVec 64) (origin : Fin 4096) (cause : Fin 17) (pick : BitVec 64)
  | fault (notice : FaultNotice)
  | stormWindowClose
  | shadowRecordSend (stream : BitVec 16)
  | shadowRecord (rec : ShadowRec)
  | heartbeatSend
  | heartbeat (port : Fin 36)
  | peerLost
  | depart (port : Fin 36)
  | detach (port : Fin 36)
  | handover (port : Fin 36) (ctx : Fin 256) (h : BitVec 64)
  | hsResetRelease
  | hsThrottleEval (mw : Nat)
  | hsShutdown (cause : HsCause)
  | hsThermAssert
  | page (v : Byte)
  | voutCommand (v : BitVec 16)
  | readVout
  | readIout (raw : BitVec 16)
  | readPout (raw : BitVec 16)
  | statusWord
  | clearFaults
  | ucieLinkDown (link : Fin 8)
  | mbxClaim (who : Who) (m : Fin 16)
  | mbxRelease (who : Who) (m : Fin 16)
  | xeastFlit (port : Fin 36) (flit : Flit)
  | replayTimeout (port : Fin 36)
  | xlRetrain (who : Option Who) (port : Fin 36)
  | retrainComplete (port : Fin 36)
  | linkFailure (port : Fin 36) (cause : LinkCause)
  | portEnableSet (who : Who) (on : Bool)
  | portEqualised (port : Fin 36)
  | ident (port : Fin 36) (id : BitVec 64) (peerPort : Fin 64) (profile : BitVec 16) (fwForm : BitVec 64)
  | planId (port : Fin 36) (group : BitVec 64) (origin : Fin 4096) (leader : BitVec 64) (aligned : Bool)
  | syncSend (port : Fin 36)
  | syncReceive (port : Fin 36) (st : SyncStamps)
  | holdoverExpire
  | timeRoleSet (who : Who) (role : Fin 4) (upstream : Fin 64)
  | timeAlign (m : Fin 16)
  | timeQuery (port : Fin 36)
  | timeReply (port : Fin 36) (lead : BitVec 64) (busy : Bool)
  | timeAlignTimeout
  | timeStep (port : Fin 36) (at_ v : BitVec 64)
  | timeStepApply
  | picklenReq (port : Fin 36) (len : Fin 128)
  | picklen (port : Fin 36) (e : BitVec 64) (len : Fin 128) (byThermal byPower byScreen : Bool)
  | bmReset
  | i3cOffsetWrite (off : Word)
  | i3cRegisterAccess (write : Option Word)
  | i3cDynamicAddress (addr : BitVec 7)
  | romVerifyDone (pufOk : Bool)
  | bootStageDone (bist0 bist1 bist2 bist3 : BistOutcome)
  | bootPhaseLate
  | keyDerivationDone (keysMatch : Bool)
  | fwLoad (m : Fin 16) (object : Bytes)
  | adorakuStarted
  | certRead (m : Fin 16)
  | attest (m : Fin 16) (nonce bitmap : Bytes)
  | flashUpdate (m : Fin 16) (object : Bytes)
  | debugChallenge (m : Fin 16)
  | debugUnlock (m : Fin 16) (object : Bytes)
  | dbgScan (m : Fin 16) (data : Bytes)
  | dbgCore (m : Fin 16) (data : Bytes)
  | bistRun (m : Fin 16) (outcome : BistOutcome)
  | secRcvDataWrite (v : Word)
  | secRcvVerify
  | obsBusyLoRead (who : Who)
  | pmcRunSet (who : Who) (on : Bool)
  | pmcCntWrite (who : Who) (hi : Bool) (v : Word)
  | pmcCntLoRead (who : Who)
  | pmcTagSeedWrite (who : Who) (v : Word)
  | tagArm (who : Who) (v : Word)
  | tagRecordWrite
  | traceArm (who : Who) (v : Word)
  | traceStop (who : Who)
  | traceSample
  | obsDump (m : Fin 16)
  | monDump (m : Fin 16)
  | bmResetRelease
  | railsBackInRegulation
  | inputBackInRange
  | ucieLinkTrained (link : Fin 8) (half : Bool)
  | hsThermDeassert
deriving DecidableEq, Repr

end Sys2Proof
end

