-- ==== Sys2Proof/Config.lean ====
section
/-! DEFINITION. What the spec leaves open: functions and constants without a body, so that no statement can rest
on a value of theirs. Each is named in the assumption log. -/

namespace Sys2Proof.Config

/-- What the tables of a fuller table set give over their reduced domains (R120, Table 4.4), table set first. The spec gives
the tables' shapes, not their contents. The arguments are: of EXP2 the fractional part in units of 2^-149; of RECIP the
significand in [1, 2) and of RSQRT in [1, 4), in units of 2^-23; of TANH and ERF the magnitude; of SINCOS the part of a quarter
turn in units of 2^-32 turn, 0 to 2^30, the value being its sine. -/
opaque exp2Table (set fraction : Nat) : F32
opaque recipTable (set significand : Nat) : F32
opaque rsqrtTable (set significand : Nat) : F32
opaque tanhTable (set : Nat) (magnitude : F32) : F32
opaque erfTable (set : Nat) (magnitude : F32) : F32
opaque sinTable (set part : Nat) : F32

/-- Sign and payload of the quiet NaN an operation returns (R117 says only that it is a quiet NaN). -/
opaque nanBits (a b : F32) : BitVec 23

/-- The number of the adder tree's or converter's free choices: a fresh free value for each count. -/
opaque freeNat (tick : Nat) : Nat

/-- What a unit has in hand for byte `i` of an input whose read over the package fabric was refused (R150): the spec does not
say. -/
opaque refusedByte (tick i : Nat) : Byte

/-- Whether a walker lookup of an entry already seen hits, when more entries have been seen than the cache
holds (R130 gives sizes and no replacement rule). -/
opaque walkerHit (tick : Nat) : Bool

/-- The verdict of the two signatures of a signed object under the keys of a signer (R386, R387): the standards
named there, over the 64 header bytes. -/
opaque rsaVerifies (signer : Nat) (header sig : Bytes) : Bool
opaque slhVerifies (signer : Nat) (header sig : Bytes) : Bool

/-- The module's own signatures on an attestation report header (R402). -/
opaque rsaSign (tick : Nat) (header : Bytes) : Bytes
opaque slhSign (tick : Nat) (header : Bytes) : Bytes

/-- RSA-OAEP decryption and ML-KEM decapsulation with the module's private keys (R226): none on failure. -/
opaque oaepOpen (ct : Bytes) : Option Bytes
opaque mlkemOpen (ct : Bytes) : Option Bytes

/-- HKDF-SHA-256 with the salt of R226. -/
opaque hkdf (ikm info : Bytes) : Bytes

/-- AES-256-GCM: opening gives the plaintext or fails; the tag of an empty plaintext is a GMAC (R172, R226, R228). -/
opaque gcmOpen (key nonce aad ct tag : Bytes) : Option Bytes
opaque gmac (key iv aad : Bytes) : Bytes

/-- The fresh nonce DEBUG_CHALLENGE returns (R404). -/
opaque nonceByte (tick i : Nat) : Byte

/-- The DER SubjectPublicKeyInfo of the ID_RSA certificate in the certificate bundle (R385): the spec does not lay out a certificate. -/
opaque idRsaSpki (bundle : Bytes) : Bytes

/-- Bytes of tensor data, scale data and tile map that the open descriptor at a host address names (R230, R332). -/
opaque openDataLen (addr : Nat) : Nat

/-- PROFILE and VERSION of the module's own attestation report (R402 states neither). -/
opaque reportProfile : Nat
opaque reportVersion : Nat

/-- What an island's record in a dump holds after its registers (R298): its input and output queue entries, whose form the spec does
not give. The entries are listed as numbers. -/
opaque queueBytes (kind index : Nat) (entries : List (List Nat)) : Bytes

/-- What a scan or core access reads (R404): the spec does not give the islands' scan layout. -/
opaque scanByte (tick i : Nat) : Byte

/-- The calibration result of a converter whose measured counts on zero and reference are given (R378): the
spec says what is measured, not how OFFSET and GAIN follow. -/
opaque calOffset (zero ref : Int) : Int
opaque calGain (zero ref : Int) : Nat

/-- Power of a reading the spec does not scale: none; kept for measured values of PMBus (R320). -/
opaque pmbusVout (tick : Nat) : Nat

/-- What a test pack's body holds (R282): version, PACK_ID, arithmetic profile, and for each item its unit kind, its
length in picks, its input operands and the CRC-32C of the expected output. The spec says what stands there, not where. -/
opaque packVersion (body : Bytes) : Nat
opaque packIdOf (body : Bytes) : Nat
opaque packProfile (body : Bytes) : Nat
opaque packItems (body : Bytes) : List (Nat × Nat × Bytes × Word)

/-- Which of the four usual forms of a linear-feedback shift register the tagging LFSR has (R415 gives its
polynomial, not its form). -/
opaque lfsrForm : Nat

end Sys2Proof.Config
end

