-- ==== Sys2Proof/Machine/Bits.lean ====
section
/-! DEFINITION. Bit fields, byte order, two's complement, and the packing of register words. -/

namespace Sys2Proof.Machine

/-- Bits [lo + w - 1 : lo] of `v`. -/
def fld (v lo w : Nat) : Nat := v / 2 ^ lo % 2 ^ w

/-- Bit `i` of `v`. -/
def bitOf (v i : Nat) : Bool := Nat.testBit v i

/-- 1 for true, 0 for false. -/
def b2n (b : Bool) : Nat := if b then 1 else 0

/-- Bit numbers and picks: `note` keeps the pick in which a bit was set last, `notedNow` asks whether it is this one. -/
def notedNow (t : Tab Nat) (b now : Nat) : Bool := t.any (fun e => e.1 == b && e.2 == now)
def note (t : Tab Nat) (b now : Nat) : Tab Nat := t.filter (fun e => e.1 != b) ++ [(b, now)]

/-- Bit `b` of a register after a write of `v` that clears where `v` has a 1: hardware that has set the bit in this pick
wins (R12). -/
def w1c (old : Bool) (t : Tab Nat) (b now v : Nat) : Bool := old && (!bitOf v b || notedNow t b now)

/-- The register word whose fields, given as (low bit, width, value), are set and whose other bits are 0 (R11). -/
def packNat : List (Nat × Nat × Nat) → Nat
  | [] => 0
  | (lo, w, v) :: t => v % 2 ^ w * 2 ^ lo + packNat t

/-- `packNat` as a register word. -/
def pack (fs : List (Nat × Nat × Nat)) : Word := BitVec.ofNat 32 (packNat fs)

/-- Byte `i` of a byte string, 0 past its end. -/
def byteAt (bs : Bytes) (i : Nat) : Nat := (bs.getD i 0).toNat

/-- The little-endian number in `n` bytes. -/
def leNat : Bytes → Nat
  | [] => 0
  | b :: t => b.toNat + 256 * leNat t

/-- The little-endian number in the `n` bytes at offset `off`. -/
def le (bs : Bytes) (off n : Nat) : Nat := leNat ((bs.drop off).take n)

/-- The `n` bytes of `v`, lowest first. -/
def toLe : Nat → Nat → Bytes
  | 0, _ => []
  | n + 1, v => BitVec.ofNat 8 v :: toLe n (v / 256)

/-- The slice of `n` bytes at `off`, padded with zeros. -/
def slice (bs : Bytes) (off n : Nat) : Bytes :=
  let s := (bs.drop off).take n
  s ++ List.replicate (n - s.length) 0

/-- Whether every byte of the slice is 0. -/
def zeros (bs : Bytes) (off n : Nat) : Bool := ((bs.drop off).take n).all (fun b => b == 0)

/-- `v` read as a `w`-bit two's complement number. -/
def signed (w v : Nat) : Int :=
  let u := v % 2 ^ w
  if u < 2 ^ (w - 1) then (u : Int) else (u : Int) - (2 ^ w : Nat)

/-- The `w`-bit two's complement pattern of `i`. -/
def unsigned (w : Nat) (i : Int) : Nat := (i % ((2 ^ w : Nat) : Int)).toNat

/-- `i` clamped to [lo, hi]. -/
def clampInt (lo hi i : Int) : Int := if i < lo then lo else if hi < i then hi else i

/-- `x` before the first element that it does not come after. -/
def insertBy {α : Type} (le : α → α → Bool) (x : α) : List α → List α
  | [] => [x]
  | y :: t => if le x y then x :: y :: t else y :: insertBy le x t

/-- The list in ascending order of `le`; equals keep their order. -/
def sortBy {α : Type} (le : α → α → Bool) (l : List α) : List α := l.foldr (insertBy le) []

/-- ceil (a / b). -/
def ceilDiv (a b : Nat) : Nat := (a + b - 1) / b

/-- The largest power of `b` step: round `a` up to a multiple of `b`. -/
def roundUp (a b : Nat) : Nat := ceilDiv a b * b

/-- 32-bit little-endian words of a byte string. -/
def word32s : Nat → Bytes → List Nat
  | 0, _ => []
  | n + 1, bs => leNat (bs.take 4) :: word32s n (bs.drop 4)

/-- Sum of a list of integers. -/
def sumInt (l : List Int) : Int := l.foldl (· + ·) 0

/-- Sum of a list of numbers. -/
def sumNat (l : List Nat) : Nat := l.foldl (· + ·) 0

/-- The largest of a list, at least `d`. -/
def maxNat (d : Nat) (l : List Nat) : Nat := l.foldl Nat.max d

/-- Greatest common divisor and least common multiple of a list. -/
def lcmList (l : List Nat) : Nat := l.foldl Nat.lcm 1

/-- Whether [a, a+n) and [b, b+m) share an address. -/
def overlaps (a n b m : Nat) : Bool := decide (a < b + m ∧ b < a + n)

/-- Whether [a, a+n) lies inside [b, b+m). -/
def inside (a n b m : Nat) : Bool := decide (b ≤ a ∧ a + n ≤ b + m)

/-- The first `n` entries of the list padded with `d`. -/
def padTo {α : Type} (d : α) (n : Nat) (l : List α) : List α := l ++ List.replicate (n - l.length) d

end Sys2Proof.Machine
end

