-- ==== Sys2Proof/Machine/Float.lean ====
section
/-! DEFINITION. binary32 arithmetic (R117): every operation is exact on dyadic numbers and rounds once, to nearest,
ties to even; subnormal numbers are kept; a NaN operand gives a quiet NaN. -/

namespace Sys2Proof.Machine

def f32Zero : F32 := 0
def f32One : F32 := 0x3F800000
def f32NegInf : F32 := 0xFF800000
def f32Inf : F32 := 0x7F800000
/-- The largest finite binary32. -/
def f32Max : F32 := 0x7F7FFFFF
/-- log2 e = 1.4426950, the nearest binary32 (R119). -/
def f32Log2e : F32 := 0x3FB8AA3B

def f32Exp (x : F32) : Nat := fld x.toNat 23 8
def f32Frac (x : F32) : Nat := fld x.toNat 0 23
def f32Neg (x : F32) : Bool := bitOf x.toNat 31
def isNaN (x : F32) : Bool := f32Exp x == 255 && f32Frac x != 0
def isInf (x : F32) : Bool := f32Exp x == 255 && f32Frac x == 0
def isFinite (x : F32) : Bool := f32Exp x != 255
def isZero (x : F32) : Bool := f32Exp x == 0 && f32Frac x == 0

/-- Magnitude `m` and exponent `e` of a finite number: its size is m × 2^e. -/
def f32Mag (x : F32) : Nat × Int :=
  if f32Exp x = 0 then (f32Frac x, -149) else (2 ^ 23 + f32Frac x, (f32Exp x : Int) - 150)

/-- The finite number as a signed dyadic. -/
def f32Dy (x : F32) : Int × Int :=
  let (m, e) := f32Mag x
  (if f32Neg x then -(m : Int) else (m : Int), e)

/-- The pattern of sign, magnitude `m` below 2^24 + 1 and quantum exponent `q` at least -149. -/
def f32Pattern (neg : Bool) (m : Nat) (q : Int) : F32 :=
  let (m, q) := if 2 ^ 24 ≤ m then (m / 2, q + 1) else (m, q)
  let s := if neg then 2 ^ 31 else 0
  if m < 2 ^ 23 then BitVec.ofNat 32 (s + m)
  else
    let e := q + 150
    if 255 ≤ e then BitVec.ofNat 32 (s + 255 * 2 ^ 23)
    else BitVec.ofNat 32 (s + e.toNat * 2 ^ 23 + (m - 2 ^ 23))

/-- Round half to even after dropping `s` low bits of `m`; `sticky` says that more than `m` was there. -/
def dropBits (m s : Nat) (sticky : Bool) : Nat :=
  let q := m / 2 ^ s
  let r := m % 2 ^ s
  let half := if s = 0 then 1 else 2 ^ (s - 1)
  if s = 0 then q
  else if half < r || (r == half && (sticky || q % 2 == 1)) then q + 1 else q

/-- The binary32 nearest to (-1)^neg × m × 2^e, `sticky` adding less than one unit of m's last place. -/
def roundDy (neg : Bool) (m : Nat) (e : Int) (sticky : Bool) : F32 :=
  if m = 0 then (if neg then 0x80000000 else 0)
  else
    let len : Int := (Nat.log2 m : Int) + 1
    let q : Int := max (e + len - 24) (-149)
    if q ≤ e then f32Pattern neg (m * 2 ^ (e - q).toNat) q
    else f32Pattern neg (dropBits m (q - e).toNat sticky) q

/-- The quiet NaN of an operation on `a` and `b`: its sign and payload are free. -/
def qnan (a b : F32) : F32 :=
  let n := (Config.nanBits a b).toNat
  BitVec.ofNat 32 (n / 2 ^ 22 * 2 ^ 31 + 0x7FC00000 + n % 2 ^ 22)

/-- The binary32 nearest to the dyadic m × 2^e; an exact zero takes the sign `z`. -/
def ofDy (m e : Int) (z : Bool) : F32 :=
  if m = 0 then (if z then 0x80000000 else 0) else roundDy (decide (m < 0)) m.natAbs e false

/-- Integer to binary32. -/
def f32OfInt (i : Int) : F32 := ofDy i 0 false

def f32Flip (x : F32) : F32 := x ^^^ 0x80000000

def f32Abs (x : F32) : F32 := x &&& 0x7FFFFFFF

def f32Add (a b : F32) : F32 :=
  if isNaN a || isNaN b then qnan a b
  else if isInf a then (if isInf b && f32Neg a != f32Neg b then qnan a b else a)
  else if isInf b then b
  else
    let (ma, ea) := f32Dy a
    let (mb, eb) := f32Dy b
    let e := min ea eb
    ofDy (ma * 2 ^ (ea - e).toNat + mb * 2 ^ (eb - e).toNat) e (f32Neg a && f32Neg b)

def f32Sub (a b : F32) : F32 := if isNaN b then qnan a b else f32Add a (f32Flip b)

def f32Mul (a b : F32) : F32 :=
  let neg := f32Neg a != f32Neg b
  if isNaN a || isNaN b then qnan a b
  else if isInf a || isInf b then
    (if isZero a || isZero b then qnan a b else if neg then f32NegInf else f32Inf)
  else
    let (ma, ea) := f32Mag a
    let (mb, eb) := f32Mag b
    roundDy neg (ma * mb) (ea + eb) false

def f32Div (a b : F32) : F32 :=
  let neg := f32Neg a != f32Neg b
  if isNaN a || isNaN b then qnan a b
  else if isInf a then (if isInf b then qnan a b else if neg then f32NegInf else f32Inf)
  else if isInf b then (if neg then 0x80000000 else 0)
  else if isZero b then (if isZero a then qnan a b else if neg then f32NegInf else f32Inf)
  else
    let (ma, ea) := f32Mag a
    let (mb, eb) := f32Mag b
    let n := ma * 2 ^ 64
    roundDy neg (n / mb) (ea - eb - 64) (n % mb != 0)

/-- x × 2^n with one rounding. -/
def f32Scale (x : F32) (n : Int) : F32 :=
  if isNaN x then qnan x x
  else if isInf x || isZero x then x
  else let (m, e) := f32Mag x; roundDy (f32Neg x) m (e + n) false

/-- a < b, false when either is a NaN. -/
def f32Lt (a b : F32) : Bool :=
  if isNaN a || isNaN b then false
  else if isInf a then f32Neg a && !(isInf b && f32Neg b)
  else if isInf b then !f32Neg b
  else
    let (ma, ea) := f32Dy a
    let (mb, eb) := f32Dy b
    let e := min ea eb
    decide (ma * 2 ^ (ea - e).toNat < mb * 2 ^ (eb - e).toNat)

def f32Le (a b : F32) : Bool := !isNaN a && !isNaN b && !f32Lt b a
def f32Eq (a b : F32) : Bool := f32Le a b && f32Le b a

/-- The larger of two numbers; a NaN propagates (R117). Of −0 and +0 the first operand is taken (DESIGN CHOICE: no rule says which zero
max(x, 0) returns for x = −0). -/
def f32Max2 (a b : F32) : F32 :=
  if isNaN a || isNaN b then qnan a b else if f32Lt a b then b else a

/-- Round half to even to an integer: rne(x × 2^n) for finite x (R84). -/
def rneScaled (x : F32) (n : Int) : Int :=
  let (m, e0) := f32Mag x
  let e := e0 + n
  let r : Nat := if 0 ≤ e then m * 2 ^ e.toNat else dropBits m (-e).toNat false
  if f32Neg x then -(r : Int) else (r : Int)

/-- floor(log2 x) of a finite positive number. -/
def floorLog2 (x : F32) : Int := let (m, e) := f32Mag x; (Nat.log2 m : Int) + e

/-- The smallest k in [-127, 127] with rne(m × 2^-k) ≤ lim, if there is one (R84, R86, R134). -/
def smallestK (m : F32) (lim : Nat) : Option Int :=
  ((List.range 255).find? (fun i => decide (rneScaled m (127 - (i : Int)) ≤ (lim : Int)))).map
    (fun i => (i : Int) - 127)

/-- Adjacent pairs are added; a lone last element is kept. -/
def pairSums : List F32 → List F32
  | a :: b :: t => f32Add a b :: pairSums t
  | l => l

/-- The fixed tree over one block of 64 elements: six levels of adjacent pairs (R117). -/
def treeBlock (l : List F32) : F32 :=
  let r := pairSums (pairSums (pairSums (pairSums (pairSums (pairSums (padTo f32Zero 64 l))))))
  r.headD f32Zero

/-- `n` blocks of 64 elements. -/
def blocks64 {α : Type} : Nat → List α → List (List α)
  | 0, _ => []
  | n + 1, l => l.take 64 :: blocks64 n (l.drop 64)

/-- The tree sum of a vector: block sums added in ascending block order, from block 0 (R117). -/
def treeSum (l : List F32) : F32 :=
  match (blocks64 (ceilDiv l.length 64) l).map treeBlock with
  | [] => f32Zero
  | b :: bs => bs.foldl f32Add b

/-- A finite number in units of 2^-149, exactly. -/
def f32Units (x : F32) : Int := let (m, e) := f32Dy x; m * 2 ^ (e + 149).toNat

/-- EXP2 (R119, Table 4.4): +0 below -150, +infinity from 128 on, else the table's value of the fractional part, 1 at 0
(R140), with the integer part applied to the exponent. -/
def exp2 (set : Nat) (x : F32) : F32 :=
  if isNaN x then qnan x x
  else if f32Lt x (f32OfInt (-150)) then f32Zero
  else if f32Le (f32OfInt 128) x then f32Inf
  else
    let whole := f32Units x / 2 ^ 149
    let fraction := (f32Units x % 2 ^ 149).toNat
    f32Scale (if fraction = 0 then f32One else Config.exp2Table set fraction) whole

/-- The significand in [2^23, 2^24) and the exponent of a finite number other than 0: its size is significand × 2^(exponent - 23). -/
def f32Norm (x : F32) : Nat × Int :=
  let (m, e) := f32Mag x
  let k := 23 - Nat.log2 m
  (m * 2 ^ k, e - k + 23)

/-- `x` with its sign flipped when `neg`. -/
def f32Signed (neg : Bool) (x : F32) : F32 := if neg then f32Flip x else x

/-- RECIP (Table 4.4): 1/0 and 1/infinity as IEEE 754 has them, else the table's value of the significand, 1 at 1 (R140), scaled. -/
def recip (set : Nat) (x : F32) : F32 :=
  if isNaN x then qnan x x
  else if isZero x then f32Signed (f32Neg x) f32Inf
  else if isInf x then f32Signed (f32Neg x) f32Zero
  else
    let (m, e) := f32Norm x
    f32Signed (f32Neg x) (f32Scale (if m = 2 ^ 23 then f32One else Config.recipTable set m) (-e))

/-- RSQRT (Table 4.4): of a zero the infinity of its sign, of a negative number a NaN, of +infinity +0, else the table's value
of the significand in [1, 4), scaled. -/
def rsqrt (set : Nat) (x : F32) : F32 :=
  if isNaN x then qnan x x
  else if isZero x then f32Signed (f32Neg x) f32Inf
  else if f32Neg x then qnan x x
  else if isInf x then f32Zero
  else
    let (m, e) := f32Norm x
    f32Scale (Config.rsqrtTable set (m * 2 ^ (e % 2).toNat)) (-(e / 2))

/-- TANH: the table of |x| with the sign of x, ±1 from |x| = 9 on (Table 4.4). -/
def tanh32 (set : Nat) (x : F32) : F32 :=
  if isNaN x then qnan x x
  else f32Signed (f32Neg x) (if f32Lt (f32Abs x) (f32OfInt 9) then Config.tanhTable set (f32Abs x) else f32One)

/-- ERF: the table of |x| with the sign of x, ±1 from |x| = 4 on (Table 4.4). -/
def erf32 (set : Nat) (x : F32) : F32 :=
  if isNaN x then qnan x x
  else f32Signed (f32Neg x) (if f32Lt (f32Abs x) (f32OfInt 4) then Config.erfTable set (f32Abs x) else f32One)

/-- Sine and cosine of a phase in units of 2^-32 turn, from the table of one quarter turn by symmetry (Table 4.4). -/
def sinCos (set phase : Nat) : F32 × F32 :=
  let quarter := 2 ^ 30
  let part := phase % quarter
  let rising := Config.sinTable set part
  let falling := Config.sinTable set (quarter - part)
  match phase / quarter % 4 with
  | 0 => (rising, falling)
  | 1 => (falling, f32Flip rising)
  | 2 => (f32Flip rising, f32Flip falling)
  | _ => (f32Flip falling, rising)

/-- A number of `ew` exponent bits (bias `bias`) and `fw` fraction bits as binary32, exactly. The top exponent
is ordinary when `allFinite`. -/
def narrowToF32 (ew fw bias : Nat) (allFinite : Bool) (v : Nat) : F32 :=
  let neg := bitOf v (ew + fw)
  let ex := fld v fw ew
  let fr := fld v 0 fw
  if ex = 2 ^ ew - 1 ∧ allFinite = false then
    (if fr = 0 then (if neg then f32NegInf else f32Inf) else qnan 0x7FC00000 0x7FC00000)
  else if ex = 0 then roundDy neg fr (1 - (bias : Int) - fw) false
  else roundDy neg (2 ^ fw + fr) ((ex : Int) - bias - fw) false

end Sys2Proof.Machine
end

