-- ==== Sys2Proof/Machine/Hash.lean ====
section
/-! DEFINITION. CRC-32C of the tallies (R256), the CRC-32 of flits (R334), and SHA-256. -/

namespace Sys2Proof.Machine

/-- One bit of a reflected CRC with reflected polynomial `p`. -/
def crcBit (p c : Word) : Word := if c.getLsbD 0 then (c >>> 1) ^^^ p else c >>> 1

/-- One byte, least significant bit first. -/
def crcByte (p c : Word) (b : Byte) : Word :=
  let f := crcBit p
  f (f (f (f (f (f (f (f (c ^^^ (b.setWidth 32)))))))))

/-- CRC with initial value and final XOR of all ones. -/
def crcOf (p : Word) (bs : Bytes) : Word := (bs.foldl (crcByte p) 0xFFFFFFFF) ^^^ 0xFFFFFFFF

/-- CRC-32C: polynomial 0x1EDC_6F41, reflected (R256). -/
def crc32c (bs : Bytes) : Word := crcOf 0x82F63B78 bs

/-- CRC-32: polynomial 0x04C1_1DB7, reflected (R334). -/
def crc32 (bs : Bytes) : Word := crcOf 0xEDB88320 bs

/-! ## SHA-256: its constants are the first 32 fractional bits of roots of the first primes -/

/-- The largest root below 2^bits whose `k`-th power is at most `n`, bit by bit. -/
def rootBelow (k n : Nat) : Nat → Nat
  | 0 => 0
  | bits + 1 =>
    let r := 2 * rootBelow k (n / 2 ^ k) bits
    if (r + 1) ^ k ≤ n then r + 1 else r

/-- The 64 primes below 312. -/
def smallPrimes : List Nat :=
  (List.range 312).filter (fun p => decide (2 ≤ p) && ((List.range p).drop 2).all (fun d => p % d != 0))

/-- The first 32 fractional bits of the `k`-th root of `p`. -/
def rootFraction (k p : Nat) : Word := BitVec.ofNat 32 (rootBelow k (p * 2 ^ (32 * k)) 40)

/-- The words that the 64 rounds add: from cube roots. -/
def roundWords : List Word := smallPrimes.map (rootFraction 3)
/-- The hash of no block: from square roots. -/
def hashStart : List Word := (smallPrimes.take 8).map (rootFraction 2)

/-- The XOR of a word turned right by each of `ns`. -/
def turns (ns : List Nat) (x : Word) : Word := ns.foldl (fun y n => y ^^^ x.rotateRight n) 0

/-- A block as 16 words, most significant byte first. -/
def blockWords (block : Bytes) : List Word :=
  (List.range 16).map (fun i => BitVec.ofNat 32 (leNat ((block.drop (4 * i)).take 4).reverse))

/-- `n` more words of the schedule, where `w` holds the last 16, the oldest first. -/
def schedule : Nat → List Word → List Word
  | 0, _ => []
  | n + 1, w =>
    let near := w.getD 14 0
    let far := w.getD 1 0
    let x := w.headD 0 + (turns [7, 18] far ^^^ far >>> 3) + w.getD 9 0 + (turns [17, 19] near ^^^ near >>> 10)
    x :: schedule n (w.drop 1 ++ [x])

/-- The eight working words of a round. -/
structure HashState where
  a : Word
  b : Word
  c : Word
  d : Word
  e : Word
  f : Word
  g : Word
  h : Word
deriving DecidableEq, Repr

/-- A round, of which `k` is the schedule's word and the round's own added. -/
def HashState.round (s : HashState) (k : Word) : HashState :=
  let pick := s.g ^^^ (s.e &&& (s.f ^^^ s.g))
  let most := (s.a &&& s.b) ||| (s.c &&& (s.a ||| s.b))
  let x := k + pick + turns [6, 11, 25] s.e + s.h
  ⟨x + most + turns [2, 13, 22] s.a, s.a, s.b, s.c, s.d + x, s.e, s.f, s.g⟩

def HashState.ofWords (w : List Word) : HashState :=
  let at_ (i : Nat) : Word := w.getD i 0
  ⟨at_ 0, at_ 1, at_ 2, at_ 3, at_ 4, at_ 5, at_ 6, at_ 7⟩
def HashState.words (s : HashState) : List Word := [s.a, s.b, s.c, s.d, s.e, s.f, s.g, s.h]

/-- The hash after one more block of 64 bytes. -/
def hashBlock (start : List Word) (block : Bytes) : List Word :=
  let first := blockWords block
  let ks := (roundWords.zip (first ++ schedule 48 first)).map (fun x => x.1 + x.2)
  (start.zip ((ks.foldl HashState.round (HashState.ofWords start)).words)).map (fun x => x.1 + x.2)

/-- A message with its padding: a 1 bit, zeros, and the length in bits as 8 bytes. -/
def hashPadded (bs : Bytes) : Bytes :=
  bs ++ 0x80 :: List.replicate ((119 - bs.length % 64) % 64) 0 ++ (toLe 8 (8 * bs.length)).reverse

/-- SHA-256. -/
def sha256 (bs : Bytes) : Bytes :=
  let m := hashPadded bs
  let hash := (List.range (m.length / 64)).foldl (fun h i => hashBlock h ((m.drop (64 * i)).take 64)) hashStart
  hash.flatMap (fun w => (toLe 4 w.toNat).reverse)

end Sys2Proof.Machine
end

