-- ==== Sys2Proof/Machine/State.lean ====
section
/-! DEFINITION. The state of the JM2436 as plain data: every register, table, queue and counter the spec names,
block by block, the queue of waiting commands, and the state after power-on.
Times called "wall" are quarter-nanoseconds since power-on (R371, R372); temperatures are quarter degrees (R380). -/

namespace Sys2Proof.Machine

/-- A command never ends in a fault: detectors and status codes are effects on the state (R290, R434).
`absentAddress` is kept for an access the model could not place; no meaning raises it (safe). -/
inductive Fault where
  | absentAddress
deriving DecidableEq, Repr

/-- Why a command has no answer. `notModelled` is raised by exec for a row without a meaning (safe: the run
stops). -/
inductive Refusal where
  | notModelled (mnemonic : String)
deriving DecidableEq, Repr

/-! ## Time base (R26-R35, R371, R372) -/

/-- An entry of the pick log (R372). -/
structure PlogEntry where
  pick : Nat
  wall : Nat
  phase : Nat
  lenQ : Nat
  step : Bool
deriving DecidableEq, Repr

/-- The pick-counter master: counter, length, BY_ bits, log, wall clock. `reqLen` is the longest length requested now, `reqs`
are earlier ones with the pick at which each was given up. In every block `setAt` says in which elapsed pick hardware last set
a bit that a write clears, or a write last set a bit that hardware clears (R12). -/
structure Clock where
  pick : Nat := 0
  elapsed : Nat := 0
  wall : Nat := 0
  lenQ : Nat := 16
  byThermal : Bool := false
  byPower : Bool := false
  byScreen : Bool := false
  stretched : Bool := false
  lastChange : Nat := 0
  reqLen : Nat := 16
  reqs : List (Nat × Nat) := []
  plog : List PlogEntry := [⟨0, 0, 0, 16, false⟩]
  plogLost : Bool := false
  setAt : Tab Nat := []
deriving DecidableEq, Repr

/-- A change of pick length that waits for its switch pick (R347): the length, and the kinds of sources that PICKLEN names. -/
structure PickSwitch where
  pick : Nat
  len : Nat
  byThermal : Bool
  byPower : Bool
  byScreen : Bool
deriving DecidableEq, Repr

/-- The time domain of the module (R343-R347). `sched` lists the changes of length that are to come, earliest first. -/
structure TimeDomain where
  role : Nat := 0
  upstream : Nat := 0
  state : Nat := 0
  ahead : Bool := false
  lenRemote : Bool := false
  lateLen : Bool := false
  depth : Nat := 0
  ofs : Int := 0
  leader : Nat := 0
  upAligned : Bool := false
  holdoverSince : Option Nat := none
  remoteReqs : Tab Nat := []
  sched : List PickSwitch := []
  setAt : Tab Nat := []
  alignMbx : Option Nat := none
  alignSince : Nat := 0
  alignReplies : List (Nat × Nat × Bool) := []
  alignDone : Option Nat := none
  query : Bool := false
  step : Option (Nat × Nat) := none
deriving DecidableEq, Repr

/-! ## Input power, rails, power states (R318-R322, R348-R359) -/

/-- Board-management pins, straps, input and rails, power states, ceiling and capping. -/
structure Power where
  input : Bool := true
  inputLow : Bool := false
  oscFailed : Bool := false
  railFault : Bool := false
  bmResetHeld : Bool := false
  bmPwrgd : Bool := true
  bmAddr : Nat := 0
  cfgRecoverLow : Bool := false
  cfgLineHigh : Bool := false
  coldStart : Bool := false
  mode : Nat := 1
  target : Option Nat := none
  targetMbx : Option Nat := none
  enableAfter : List Nat := []
  tripped : Bool := false
  ceil : Nat := 3200
  engineCap : Bool := false
  inputCap : Bool := false
  capLimit : Bool := false
  capLen : Nat := 16
  capChange : Option Nat := none
  capFull : Nat := 0
  setAt : Tab Nat := []
deriving DecidableEq, Repr

/-- The host site: presence, rails, sideband signals and the rail-control bus (R318-R321). -/
structure HostSite where
  present : Bool := true
  railsOn : Bool := false
  pwrgd : Bool := false
  pwrgdWall : Nat := 0
  resetReleased : Bool := false
  throttle : Bool := false
  therm : Bool := false
  thermSince : Nat := 0
  shut : Bool := false
  pmbPage : Nat := 0
  setCore : Nat := 3277
  setSoc : Nat := 3277
  cml : Bool := false
  faultRail : Bool := false
deriving DecidableEq, Repr

/-! ## Identity, boot, flash (R381-R406) -/

/-- The NOR flash regions of Table 14.7 that hold data, but for the health history. -/
structure Flash where
  boot : Bytes := []
  record : Bytes := []
  certs : Bytes := []
  helper : Bytes := []
deriving DecidableEq, Repr

/-- One BIST result (Table 14.11). -/
structure Bist where
  run : Bool := false
  pass : Bool := false
  whenRun : Nat := 0
  failed : Nat := 0
  duration : Nat := 0
  tested : Nat := 0
  scope : Nat := 0
deriving DecidableEq, Repr

/-- Identity, boot stage, configuration, debug. `phaseLate`: the phase in progress has exceeded its limit; `halted` are the
weaver cores that DBG_CORE has halted. -/
structure Sec where
  stage : Nat := 0
  stageWall : Nat := 0
  bootCause : Nat := 0
  screen : Nat := 0
  recordOk : Bool := false
  pufOk : Bool := false
  keysReady : Bool := false
  derivation : Bool := false
  derivationEnded : Bool := false
  derivWall : Nat := 0
  identityBad : Bool := false
  debug : Bool := false
  bootLate : Bool := false
  phaseLate : Bool := false
  halted : List Nat := []
  revoked : Nat := 0
  minFw : Nat := 0
  moduleId : Nat := 0
  fwVer : Nat := 0
  fwImage : Bytes := []
  bootVer : Nat := 0
  bist : Tab Bist := []
  rcvAddr : Nat := 0
  rcvData : Nat := 0
  verifyFail : Bool := false
  nonce : Option Bytes := none
  tableSet : Nat := 0
  tblCorr : Nat := 0
  tblUncorr : Nat := 0
  flash : Flash := {}
  i3cOffset : Nat := 0
  i3cDyn : Option Nat := none
  setAt : Tab Nat := []
deriving DecidableEq, Repr

/-! ## Requesters, selectors, latches (R13, R34, R72, R325) -/

/-- An identity slot: UCH_RIDn and UCH_WIN. -/
structure Slot where
  rid : Nat := 0
  valid : Bool := false
  priv : Bool := false
  auto : Bool := false
  win : Nat := 0
deriving DecidableEq, Repr

/-- The latches of one requester for monitor reads (R376) and observation snapshots (R411). -/
structure Latches where
  pickHi : Nat := 0
  wall : Nat := 0
  accHi : Nat := 0
  monCount : Nat := 0
  monMin : Nat := 0
  monMax : Nat := 0
  busy : Nat := 0
  stall : Nat := 0
  idle : Nat := 0
  down : Nat := 0
  rsnKnot : Nat := 0
  rsnUnit : Nat := 0
  rsnTile : Nat := 0
  rsnVoid : Nat := 0
  snap : Nat := 0
deriving DecidableEq, Repr

/-- The selectors of one requester (R72 and its like). -/
structure Selectors where
  hdl : Nat := 0
  harn : Nat := 0
  flag : Nat := 0
  sat : Nat := 0
  sht : Nat := 0
  arena : Nat := 0
  ctx : Nat := 0
  ring : Nat := 0
  tenant : Nat := 0
  wgt : Nat := 0
  ecc : Nat := 0
  escKind : Nat := 0
  escIndex : Nat := 0
  port : Nat := 0
  thm : Nat := 0
  mon : Nat := 0
  plog : Nat := 0
  bist : Nat := 0
  eng : Nat := 0
  pmc : Nat := 0
deriving DecidableEq, Repr

/-- Requester identities, their selectors and latches; slot 64 stands for the weaver core. -/
structure Access where
  slots : Tab Slot := [(62, { priv := true })]
  autoPriv : Bool := false
  sels : Tab Selectors := []
  latches : Tab Latches := []
  linksUp : List Nat := []
  linksHalf : List Nat := []
  linksEver : List Nat := []
  retrains : Nat := 0
deriving DecidableEq, Repr

/-! ## Mailboxes (R329-R332) -/

/-- One mailbox (Table 12.5). -/
structure Mailbox where
  slot : Nat := 0
  held : Bool := false
  opcode : Nat := 0
  tag : Nat := 0
  busy : Bool := false
  done : Bool := false
  status : Nat := 0
  statTag : Nat := 0
  limit : Nat := 1000
  args : Tab Nat := []
  res : List Nat := []
  since : Nat := 0
  setAt : Tab Nat := []
deriving DecidableEq, Repr

/-! ## Device-local memory (R21, R256, R426) -/

/-- The bytes of HBM and loom store in canonical form (unlisted bytes read 0), and the error of each block's
stored tally (stored XOR correct), clean blocks unlisted. -/
structure Memory where
  bytes : List Host.Cell := []
  tallyErr : Tab Word := []
deriving DecidableEq, Repr

/-! ## Heddles, harnesses, looms (R40-R73, R101-R116) -/

/-- The record of the most recent uncorrected dent (Table 2.15). -/
structure LastFail where
  dent : Nat := 0
  plane : Nat := 0
  ovr : Bool := false
  valid : Bool := false
  da : Int := 0
  db : Nat := 0
deriving DecidableEq, Repr

/-- An accumulator tile (R107): accumulators and their residues, base exponent, saturation state. -/
structure Tile where
  acc : Tab Int := []
  res : Tab Nat := []
  eBase : Int := 0
  sat : Bool := false
deriving DecidableEq, Repr

/-- One heddle: contents, exponent store, status, counters, tiles. `zeroing`: contents of a sealed load that failed wait to be
programmed to zero (R238, R243). -/
structure Heddle where
  rows : Tab (BitVec 528) := []
  exps : Tab Nat := []
  width : Nat := 0
  tensor : Nat := 0
  rowFirst : Nat := 0
  rowsUsed : Nat := 0
  colFirst : Nat := 0
  colsUsed : Nat := 0
  eWmin : Nat := 0
  imageCrc : Nat := 0
  role : Nat := 0
  context : Nat := 0
  programmed : Bool := false
  zeroing : Bool := false
  repair : List Nat := []
  marginal : Bool := false
  patternLost : Bool := false
  corr : Nat := 0
  uncorr : Nat := 0
  ovr : Nat := 0
  convs : Nat := 0
  passCorr : Nat := 0
  passConvs : Nat := 0
  lastFail : LastFail := {}
  lastCompare : Nat := 0
  satFlag : Bool := false
  satBank : Nat := 0
  satCount : Nat := 0
  tile0 : Tile := {}
  tile1 : Tile := {}
  setAt : Tab Nat := []
deriving DecidableEq, Repr

/-- One harness (Tables 2.9, 2.17, 2.18). `trimOld`: the back-to-back trim in progress began before the loom's re-trim;
`wakeWall` is when its wake from Retention began. -/
structure Harness where
  req : Nat := 1
  state : Nat := 1
  goal : Option Nat := none
  held : Bool := false
  heldAt : Nat := 0
  resetBit : Bool := false
  trimBit : Bool := false
  trimBusy : Bool := false
  trimWindows : Nat := 0
  trimOld : Bool := false
  retrimWindows : Nat := 0
  wakeWall : Option Nat := none
  scrubBusy : Bool := false
  calBase : Nat := 0
  calAt : Option Nat := some 0
  reprogram : Bool := false
  zeroing : Bool := false
  setAt : Tab Nat := []
deriving DecidableEq, Repr

/-- One loom: trim reference, re-trim, per-loom counters (Tables 2.19, 4.7, 4.8), tag LFSR. -/
structure Loom where
  tRef : Int := 0
  retrimBusy : Bool := false
  retrimCount : Nat := 0
  resBeater : Nat := 0
  resMending : Nat := 0
  resFuller : Nat := 0
  resReduce : Nat := 0
  redSat : Nat := 0
deriving DecidableEq, Repr

/-- A targeted scrub asked for by an uncorrected dent (R52, R68) and what its health event waits on (Table 10.5):
the slots whose replay judges it, whether the scrub is done and whether it repaired a row. -/
structure Target where
  heddle : Nat
  dent : Nat
  ctx : Nat
  slots : List Nat
  detail : Nat
  data : Bytes
  scrubbed : Bool
  repaired : Bool
deriving DecidableEq, Repr

/-- A calibration window in progress (R55): its harness, the elapsed pick at which it ends, and whether it does a part of a full
trim and of the loom's re-trim (R58). -/
structure CalWindow where
  harness : Nat
  ends : Nat
  trim : Bool
  retrim : Bool
deriving DecidableEq, Repr

/-- The arrays and the configuration of scrub and of the marginal test (Tables 2.20-2.22); `scrubNext` are the late heddles that
scrub takes next (R67), `sealedCopies` the ranges in which the module has built copies of sealed weights (R229). -/
structure Arrays where
  heddles : Tab Heddle := []
  harnesses : Tab Harness := []
  looms : Tab Loom := []
  passS : Nat := 30
  scrubLate : Bool := false
  scrubLost : Bool := false
  mismatchRows : Nat := 0
  rateExp : Nat := 30
  spareCfg : Nat := 4
  targets : List Target := []
  windows : List CalWindow := []
  sealedCopies : List (Nat × Nat) := []
  scrubNext : List Nat := []
  setAt : Tab Nat := []
deriving DecidableEq, Repr

/-! ## Shuttles, walker, page table (R122-R147) -/

/-- One shuttle (Tables 5.11-5.13). -/
structure Shuttle where
  busy : Bool := false
  latent : Bool := false
  context : Nat := 0
  stat : Nat := 0
  residue : Nat := 0
  tally : Nat := 0
  page : Nat := 0
  empty : Nat := 0
deriving DecidableEq, Repr

/-- A context's KV arena (Tables 5.17, 5.18). -/
structure Arena where
  base : Nat := 0
  frames : Nat := 0
  frameBlk : Nat := 0
deriving DecidableEq, Repr

/-- A page command that waits for its stream's batch boundary (R132). -/
inductive PageCmd where
  | map (stream layer page frame : Nat) (shared : Bool) (knot : Nat)
  | unmap (stream layer page : Nat)
deriving DecidableEq, Repr

/-- A partial row of attention: running maximum, running sum, weighted values (R140). -/
structure Partial where
  m : F32
  l : F32
  acc : List F32
deriving DecidableEq, Repr

/-- The page-table walker and the KV arenas. `unpublished` are entries that wait for publication, with their knot and whether it
is set; `arrived` are the bytes of each block that puts have written since its frame was last published or unmapped, one bit a
byte (R39); `partials` are, by the address of a put partial, its rows as the segments gave them. -/
structure Kvt where
  shuttles : Tab Shuttle := []
  tableBase : Nat := 0
  smapBase : Nat := 0
  arenas : Tab Arena := []
  miss : Nat := 0
  faultCause : Nat := 0
  faultValid : Bool := false
  faultCtx : Nat := 0
  faultPage : Nat := 0
  faultStream : Nat := 0
  faultLayer : Nat := 0
  cachePt : List Nat := []
  cacheSm : List Nat := []
  waitingCmds : List (Nat × PageCmd) := []
  unpublished : List (Nat × Nat × Bool) := []
  arrived : Tab Nat := []
  partials : Tab (List (List Partial)) := []
deriving DecidableEq, Repr

/-! ## Contexts (R148-R187, R221-R254, R263-R274) -/

/-- An auxiliary tensor stored in the context's area, with its loom-store copies (R233). -/
structure AuxTensor where
  tensor : Nat
  addr : Nat
  length : Nat
  copies : List Nat
deriving DecidableEq, Repr

/-- A heddle image of a set: global heddle, tensor, position, CRC (R223, R240). -/
structure ImageAt where
  heddle : Nat
  tensor : Nat
  rowFirst : Nat
  rowsUsed : Nat
  colFirst : Nat
  colsUsed : Nat
  crc : Nat
deriving DecidableEq, Repr

/-- A weight set (R222). -/
structure WeightSet where
  committed : Bool := false
  recipe : Bytes := []
  harnesses : List Nat := []
  logical : List (Nat × Nat) := []
  images : List ImageAt := []
  aux : List AuxTensor := []
deriving DecidableEq, Repr

/-- A check accumulator of a batch slot (R263-R265) with what Table 10.4 and R267 need of the causes. -/
structure Check where
  dentBad : Bool := false
  corrected : Bool := false
  dentReplay : Bool := false
  residueBad : Bool := false
  tallyBad : Bool := false
  pageBad : Bool := false
  nackBad : Bool := false
  eccCorr : Bool := false
  linkRetry : Bool := false
  mendOvf : Bool := false
  accSat : Bool := false
  actSat : Bool := false
  fmt : Bool := false
  emptyRow : Bool := false
  twillCompared : Bool := false
  twillMismatch : Bool := false
  replays : Nat := 0
  notValid : Bool := false
  beyondPages : Bool := false
  suppressed : Bool := false
  hung : Bool := false
deriving DecidableEq, Repr

/-- A batch slot of a context (R199, R263). `attempt` gathers the failures of the attempt in progress;
`check` what stands; `runs` counts the prompt runs that have completed, `base` is the first position of the prompt run;
`raised` are the layers' flags and positions that the flag table has yet to count, `counted` those it has counted for the
token or prompt step in progress (R96). -/
structure BatchSlot where
  req : Option Nat := none
  firstPick : Nat := 0
  runs : Nat := 0
  base : Nat := 0
  check : Check := {}
  attempt : Check := {}
  replaying : Bool := false
  replayTargets : List (Nat × Nat) := []
  sigA : Word := 0
  sigB : Word := 0
  foldsA : List (Nat × Nat × Word) := []
  foldsB : List (Nat × Nat × Word) := []
  promptRuns : Nat := 0
  lastToken : Nat := 0
  raised : List (Nat × Nat) := []
  counted : List (Nat × Nat) := []
deriving DecidableEq, Repr

/-- The integrity and timing records of a context (Tables 7.4-7.7, 8.19, 10.9-10.12). -/
structure CtxRecords where
  hasRun : Bool := false
  stretched : Bool := false
  replayed : Bool := false
  stalled : Bool := false
  mapChanged : Bool := false
  stretchCnt : Nat := 0
  replayCnt : Nat := 0
  stallCnt : Nat := 0
  specWin : Nat := 0
  specAcc : Nat := 0
  specNone : Nat := 0
  chkOk : Nat := 0
  chkFail : Nat := 0
  chkHeld : Nat := 0
  lastChk : Word := 0
  lastStream : Nat := 0
  lastStatus : Nat := 0
  lastValid : Bool := false
  flagMend : Bool := false
  flagAct : Bool := false
  flagAcc : Bool := false
  flagFmt : Bool := false
  flagNonfinite : Bool := false
  lastLayer : Nat := 0
  setAt : Tab Nat := []
deriving DecidableEq, Repr

/-- A switch of weight sets (R246-R252): state 0 none pending, 3 draining, 4 drained; `idleFrom` is the first
draining iteration at whose start no request was admitted; `cands` and `unitMap` are what the check made of the staged
set; `drainedFrom` lists (place, SWITCH_ID); `programs` are the staged set's moved harnesses (old, new) that wait for their tier's
window (R251); `resetPending` are the requests at whose admission their stream is reset (R252). -/
structure Switch where
  state : Nat := 0
  drainIter : Nat := 0
  switchId : Nat := 0
  resetStreams : Bool := false
  fromIter : Nat := 0
  idleFrom : Option Nat := none
  flipPick : Option Nat := none
  acceptWall : Nat := 0
  drainedFrom : List (Nat × Nat) := []
  limitReached : Bool := false
  cands : List (Nat × List Nat) := []
  unitMap : List (Nat × Nat × Nat × Nat) := []
  reason : Nat := 0
  resetPending : List Nat := []
  programs : List (Nat × Nat) := []
deriving DecidableEq, Repr

/-- A load command in progress whose writes are held by the temperature window (R236, R238). -/
structure HeldLoad where
  mbx : Nat
  tiers : List Nat
  since : Nat
  staged : Bool
  before : WeightSet
  after : WeightSet
  writes : List (Nat × ImageAt × Bytes)
  result : List Nat
deriving DecidableEq, Repr

/-- The control part of a context: class, placement, plan, state, launch (R170-R176). -/
structure CtxCtl where
  opened : Bool := false
  device : Bool := false
  sealed : Bool := false
  auxBase : Nat := 0
  auxSize : Nat := 0
  gen : Nat := 0
  keyHeld : Bool := false
  key : Bytes := []
  plan : Option Bytes := none
  successor : Option Bytes := none
  state : Nat := 0
  checkFrom : Nat := 0
  maskReq : Bool := false
  maskEff : Bool := false
  strictReq : Bool := false
  strictEff : Bool := false
  strictMaskReq : BitVec 16 := 0x0780
  strictMaskEff : BitVec 16 := 0x0780
  twillReq : Bool := false
  twillEff : Bool := false
  reason : Nat := 0
  reasonList : Nat := 0
  reasonStep : Option Nat := none
  launchPick : Option Nat := none
  readyWall : Nat := 0
  readies : List (Nat × Nat) := []
  firstReadyWall : Option Nat := none
  stopEnd : Option Nat := none
  cut : Bool := false
  unitMap : List (Nat × Nat × Nat × Nat) := []
  candidates : List (Nat × List Nat) := []
  rowCopies : List (Nat × Nat) := []
  flips : List (Nat × Nat × Nat × Bool) := []
  lastRing : Nat := 8191
  loadLast : Nat := 0
  loadTier : Option Nat := none
deriving DecidableEq, Repr

/-- A context (R170, R221, R222). -/
structure Ctx where
  ctl : CtxCtl := {}
  recs : CtxRecords := {}
  cur : WeightSet := {}
  staged : Option WeightSet := none
  sw : Switch := {}
  held : Option HeldLoad := none
  slots : Tab BatchSlot := []
deriving DecidableEq, Repr

/-- A step that is due and has not started (R29, R158): its start pick, the picks at which its inputs completed,
its stalled picks; a void step never starts, and its SET knot is set at `voidEnd`. -/
structure Due where
  ctx : Nat
  list : Nat
  idx : Nat
  iter : Nat
  start : Nat
  void : Bool
  voidEnd : Nat
  knotAt : Option Nat
  unitAt : Option Nat
  tileAt : Option Nat
  stalls : Nat
deriving DecidableEq, Repr

/-- A step that runs (R29, R30, R152). -/
structure Run where
  ctx : Nat
  list : Nat
  idx : Nat
  iter : Nat
  start : Nat
  began : Nat
  engine : Nat
  tiles : List (Nat × Nat)
  outstanding : Nat
  ended : Option Nat
  tagged : Bool
  stretched : Bool
  reason : Nat
  knotOfs : Int
  unitOfs : Int
  tileOfs : Int
  midOfs : Option Int
  ackOfs : Option Int
deriving DecidableEq, Repr

/-- The sequencers: steps due, steps running, and the steps whose KNOT_SET to another module awaits its answer;
`last` is the last step that left each engine, and whether it was abandoned there as hung (R298). -/
structure Sched where
  due : List Due := []
  runs : List Run := []
  sets : List (Nat × Nat × Nat) := []
  unitEnd : Tab Nat := []
  tileEnd : Tab Nat := []
  last : List (Run × Bool) := []
  lfsrs : List Word := [1, 1, 3, 2, 5]
deriving DecidableEq, Repr

/-! ## Serving (R188-R220) -/

/-- A request (R193, R198). State 0 Pending, 1 Prompt, 2 Generating, 3 Handoff, 4 Done. -/
structure Request where
  id : Nat
  opcode : Nat
  noSpec : Bool
  stream : Nat
  tag : Nat
  prompt : List Nat
  maxNew : Nat
  seed : Nat
  temperature : F32
  topK : Nat
  topP : F32
  stop0 : Nat
  stop1 : Nat
  ring : Nat
  state : Nat
  ctx : Nat
  slot : Nat
  emitted : Nat
  cancelAt : Option Nat
  overflow : Bool
  drainEnd : Bool
  finalPick : Option Nat
deriving DecidableEq, Repr

/-- A completion record of the pick that runs: its place in the order of R196, the request that a cancel's own record names, the
record. -/
structure FreshRecord where
  order : Nat
  cancels : Option Nat
  bytes : Bytes
deriving DecidableEq, Repr

/-- A ring pair (R191, R196, R212); `fresh` are the records of this pick, which enter ring or spill area at its end, `spillNext` is
the spill entry written next. -/
structure Ring where
  up : Bool := false
  tenant : Nat := 0
  ctx : Nat := 0
  n : Nat := 0
  sqAddr : Nat := 0
  cqAddr : Nat := 0
  spillAddr : Nat := 0
  spillEntries : Nat := 0
  sqHead : Nat := 0
  sqTail : Nat := 0
  cqTail : Nat := 0
  cqHead : Nat := 0
  unread : Nat := 0
  phase : Bool := true
  spilled : List Bytes := []
  spillNext : Nat := 0
  fresh : List FreshRecord := []
  overflow : Bool := false
  badEntry : Bool := false
  fetchBlocked : Bool := false
  setAt : Tab Nat := []
deriving DecidableEq, Repr

/-- A stream's module-side record; its map entry lies in HBM (R128, R188). -/
structure Stream where
  opened : Bool := false
  ctx : Nat := 0
  tenant : Nat := 0
  recvPlace : Nat := 0xFFFF
  recvStream : Nat := 0
  layers : Nat := 0
deriving DecidableEq, Repr

/-- A tenant's budget (R203). -/
structure Tenant where
  rate : Nat := 0
  cap : Nat := 0
  bal : Int := 0
  writtenAt : Option Nat := none
  beforeRefill : Option (Nat × Int) := none
deriving DecidableEq, Repr

/-- The queue engine and admission engine; `refilled` is the last whole second at which balances were refilled. -/
structure Serving where
  rings : Tab Ring := []
  streams : Tab Stream := []
  tenants : Tab Tenant := []
  reqs : List Request := []
  nextReq : Nat := 0
  role : Nat := 0
  msixPick : Tab Nat := []
  refilled : Nat := 0
deriving DecidableEq, Repr

/-! ## Integrity and health (R255-R289) -/

/-- A health event record (Table 10.6). -/
structure HealthEvent where
  seq : Nat
  time : Nat
  kind : Nat
  unitKind : Nat
  context : Nat
  capture : Nat
  unit : Nat
  detail : Nat
  pick : Nat
deriving DecidableEq, Repr

/-- A capture slot (R285, R286). State 1 held, 2 reproduced, 3 transient; `tried` counts the windows that replayed it,
and the unit tried last stands last. -/
structure Capture where
  state : Nat
  order : Nat
  kind : Nat
  units : List (Nat × Nat)
  data : Bytes
  tried : Nat
deriving DecidableEq, Repr

/-- A test-pack item (R282). -/
structure PackItem where
  unitKind : Nat
  length : Nat
  input : Bytes
  crc : Word
deriving DecidableEq, Repr

/-- The health history, disabled-unit map, packs and captures, ECC and tally counts. A cursor is (unit kind, unit, item
among those of the kind, whether the item failed in the last window). -/
structure Health where
  events : List HealthEvent := []
  nextSeq : Nat := 0
  wrapped : Bool := false
  queue : List HealthEvent := []
  dumap : List (Nat × Nat) := []
  gen : Nat := 0
  dumapCrc : Word := 0
  perm : Bool := false
  seconds : Nat := 0
  flashSeconds : Nat := 0
  packId : Option Nat := none
  pack : List PackItem := []
  packLen : Nat := 0
  cursors : List (Nat × Nat × Nat × Bool) := []
  packRun : Nat := 0
  packFailed : Nat := 0
  captures : Tab Capture := []
  captureOrder : Nat := 0
  eccCorr : Tab Nat := []
  eccUncorr : Tab Nat := []
  tally : Tab Nat := []
  twillList : Nat := 0
  twillStep : Nat := 0
  twillCtx : Nat := 0
  twillValid : Bool := false
  setAt : Tab Nat := []
deriving DecidableEq, Repr

/-! ## Recovery (R290-R317) -/

/-- An island record of a dump (Table 11.7). -/
structure Island where
  unitKind : Nat
  index : Nat
  state : Nat
  list : Nat
  step : Nat
  iteration : Nat
  pick : Nat
  handshake : Nat
  outstanding : Nat
  data : Bytes
deriving DecidableEq, Repr

/-- A reset domain's recovery and escalation state (R293, R301); `restoreFrom` and `restoreWall` say when its restore began, in
elapsed picks and on the wall. -/
structure Domain where
  phase : Nat := 0
  detector : Nat := 0
  originPick : Nat := 0
  fencePick : Nat := 0
  logSeq : Nat := 0
  starts : List Nat := []
  undecided : List Nat := []
  drainBy : Nat := 0
  restoreFrom : Nat := 0
  restoreWall : Nat := 0
  retired : Bool := false
  doomed : Bool := false
  total : Nat := 0
  mbx : Option Nat := none
  gen : Nat := 0
  knots : List Nat := []
  islands : List Island := []
deriving DecidableEq, Repr

/-- An error log entry (Table 11.9, R435). -/
structure LogEntry where
  seq : Nat
  originPick : Nat
  place : Nat
  kind : Nat
  detector : Nat
  index : Nat
  isLocal : Bool
  root : Bool
  echo : Bool
  echoReset : Bool
  damaged : Bool
  dumpSeq : Nat
deriving DecidableEq, Repr

/-- A dump (Table 11.6). -/
structure Dump where
  kind : Nat
  detector : Nat
  index : Nat
  seq : Nat
  originPick : Nat
  fencePick : Nat
  endPick : Nat
  islands : List Island
  truncated : Bool
  root : Bool
  read : Bool
  damaged : Bool
  logSeq : Nat
  dumapGen : Nat
  knots : List (Nat × Nat)
deriving DecidableEq, Repr

/-- The error aggregator, dump engine, escalation, storms and cuts. -/
structure Recovery where
  domains : Tab Domain := []
  modStarts : List Nat := []
  modTotal : Nat := 0
  oos : Bool := false
  log : List LogEntry := []
  logSeq : Nat := 0
  dumps : List Dump := []
  dumpSeq : Nat := 0
  dumpDropped : Bool := false
  dumpDamaged : Bool := false
  stormOpen : Bool := false
  stormLast : Nat := 0
  latched : List LogEntry := []
  root : Option LogEntry := none
  rootProvisional : Bool := false
  rootValid : Bool := false
  echoes : Nat := 0
  cutCtx : Nat := 0
  cutCause : Nat := 0
  cutValid : Bool := false
  cuts : Nat := 0
  seenMsgs : List (Nat × Nat × Nat × Nat) := []
  alertThermal : Bool := false
  alertHsShutdown : Bool := false
  alertHsTherm : Bool := false
  alertLinkFail : Bool := false
  alertStorm : Bool := false
  setAt : Tab Nat := []
deriving DecidableEq, Repr

/-- The twin pair (R306-R311). State 0 unpaired, 1 paired, 2 adopted, 3 lost and not adopted. -/
structure Twin where
  state : Nat := 0
  side : Nat := 0
  adopt : Bool := false
  contexts : List Nat := []
  dropped : Nat := 0
  lastBeat : Nat := 0
  shadows : Tab ShadowRec := []
  dirty : List (Nat × Nat) := []
  sent : Tab Nat := []
  blocks : List (Nat × Bytes × Word) := []
  forwarded : List ShadowRec := []
  handed : List Nat := []
  adopted : List Nat := []
deriving DecidableEq, Repr

/-! ## Xeast ports (R333-R342) -/

/-- An Xeast port. State 0 Down, 1 Training, 2 Up, 3 Retired. Flits that wait are (virtual channel, context of the remote
operation or 256); unacknowledged ones have their SEQ before that; `rxSeq` is the SEQ expected next. `planPlace` gives for a
plan group the place at the other end, plus 1; `peerTime` the leader and alignment that places of groups have sent. -/
structure Port where
  enable : Bool := true
  retrain : Bool := false
  state : Nat := 0
  miswired : Bool := false
  peerPort : Nat := 0
  hop : Nat := 0
  peer : Nat := 0
  peerProfile : Nat := 0
  peerFw : Nat := 0
  crc : Nat := 0
  retrains : Nat := 0
  fails : Nat := 0
  retry : Nat := 0
  txSeq : Nat := 0
  waiting : List (Nat × Nat) := []
  unacked : List (Nat × Nat × Nat) := []
  ackPick : Nat := 0
  resends : Nat := 0
  rxSeq : Nat := 0
  nakOwed : Bool := false
  credits : List Nat := [32, 1024, 256]
  retrainStarts : List Nat := []
  retrainWall : Nat := 0
  equalised : Bool := false
  identSeen : Bool := false
  wrongPeer : Bool := false
  lastSyncPick : Nat := 0
  lastSyncPhase : Nat := 0
  lastSyncHere : Nat := 0
  leader : Nat := 0
  peerDepth : Nat := 0
  planPlace : Tab Nat := []
  peerTime : List (Nat × Nat × Nat × Bool) := []
  setAt : Tab Nat := []
deriving DecidableEq, Repr

/-! ## Thermal supervisor and monitor ADC (R360-R380) -/

/-- A temperature sensor (R360, R361). -/
structure Sensor where
  reading : Int := 0
  suspect : Bool := false
  far : Nat := 0
  near : Nat := 0
  hot : Nat := 0
deriving DecidableEq, Repr

/-- The thermal supervisor. -/
structure Thermal where
  sensors : Tab Sensor := []
  hot : Tab (Int × Nat) := []
  peak : Tab Int := []
  moduleHot : Int := 0
  request : Bool := false
  requestWall : Nat := 0
  enforce : Bool := false
  enforceCleared : Option Nat := none
  lastEval : Nat := 0
  thermLen : Nat := 16
  thermChange : Option Nat := none
  screenLen : Nat := 16
  tripCount : Nat := 0
  tripSensor : Nat := 0
  excluded : List Nat := []
  coolSince : Option Nat := none
deriving DecidableEq, Repr

/-- A monitor channel (Table 13.11); `ready` once its group has been calibrated. -/
structure Channel where
  source : Nat := 0
  stale : Bool := false
  ovr : Bool := false
  manual : Bool := false
  drift : Bool := false
  acc : Nat := 0
  count : Nat := 0
  min : Nat := 0
  max : Nat := 0
  ofs : Int := 0
  gain : Nat := 0
  clearNext : Bool := false
  wOfs : Option Int := none
  wGain : Option Nat := none
  zeroRaw : Int := 0
  last : Nat := 0
  ready : Bool := false
  setAt : Tab Nat := []
deriving DecidableEq, Repr

/-- The monitor ADC. `calPhase` counts the periods of the calibration in progress, two for each group. -/
structure Monitor where
  period : Nat := 0
  periodReq : Option Nat := none
  holdCal : Bool := false
  calBit : Bool := false
  calPhase : Option Nat := some 0
  calAgain : Bool := false
  tMcal : Int := 0
  chans : Tab Channel := []
  setAt : Tab Nat := []
deriving DecidableEq, Repr

/-! ## Observation (R407-R423) -/

/-- The always-on counts of one engine (R408, R409); idle picks are the picks elapsed less busy and stalled. -/
structure Engine where
  busy : Nat := 0
  stalled : Nat := 0
  down : Nat := 0
  rsnKnot : Nat := 0
  rsnUnit : Nat := 0
  rsnTile : Nat := 0
  rsnVoid : Nat := 0
deriving DecidableEq, Repr

/-- A performance counter (Table 15.8); `rest` are conversions that do not yet make a unit of 2^20; `inPick` the
increments of pick `inPickAt` (R413). -/
structure Pmc where
  event : Nat := 0
  loom : Nat := 7
  ctxF : Bool := false
  context : Nat := 0
  unitF : Bool := false
  engine : Nat := 0
  count : Nat := 0
  rest : Nat := 0
  wrap : Bool := false
  inPick : Nat := 0
  inPickAt : Nat := 0
deriving DecidableEq, Repr

/-- The trace buffer's registers (Table 15.9) and the tag buffer's (Table 15.8). -/
structure Buffer where
  on : Bool := false
  wrap : Bool := false
  full : Bool := false
  bad : Bool := false
  denied : Bool := false
  base : Nat := 0
  blocks : Nat := 0
  wptr : Nat := 0
  drop : Nat := 0
  seq : Nat := 0
  setAt : Tab Nat := []
deriving DecidableEq, Repr

/-- The observation block; `allDown` counts the picks in which every engine but the hub list's was down, `settled` holds the
reason counts that the present pick settled (engine, reason 1 KNOT, 2 UNIT, 3 TILE or 4 VOID, picks), `trcLast` is the last
sample pick. -/
structure Observe where
  engines : Tab Engine := []
  allDown : Nat := 0
  settled : List (Nat × Nat × Nat) := []
  run : Bool := false
  runReq : Option Bool := none
  pmcs : Tab Pmc := []
  pmcHi : Nat := 0
  tagBuf : Buffer := {}
  tagRate : Nat := 10
  tagCtxF : Bool := false
  tagCtx : Nat := 0
  tagKind : Nat := 0
  tagSeed : Nat := 1
  tagWaiting : List (Nat × Bytes) := []
  knotLog : Tab (List (Nat × Nat × Nat)) := []
  trcBuf : Buffer := {}
  trcMode : Nat := 0
  trcClasses : Nat := 0
  trcPeriod : Nat := 12
  trcCtxF : Bool := false
  trcCtx : Nat := 0
  trcStart : Nat := 0
  trcStop : Bool := false
  trcLast : Option Nat := none
deriving DecidableEq, Repr

/-! ## What the module reports and sends -/

/-- What a rule says is counted, recorded or reported in the error aggregator, without a register of its own. -/
inductive Report where
  | misaligned
  | prvDenied (slot : Nat)
  | wrongLink (link : Nat)
  | badBar4 (slot : Nat)
  | droppedWrite (what : Nat)
  | sealedRead
  | hubRegion
  | ignoredRequest (harness : Nat)
  | heldReturn (harness : Nat)
  | marginal (heddle : Nat)
  | patternLost (heddle : Nat)
  | scrubLate (heddle : Nat)
  | uncorrected (heddle dent plane : Nat)
  | residue (unitKind unit : Nat)
  | nonfinite (ctx : Nat)
  | overflow (ctx : Nat)
  | pageFault (cause stream layer page : Nat)
  | tallyFail (addr : Nat)
  | eccUncorr (addr : Nat)
  | pieceTally (addr : Nat)
  | headerTally
  | unknownOp (opc : Nat)
  | nackSent (status : Nat)
  | nackGot (status : Nat)
  | hostReadFail
  | hsShutdown
  | doorbell (ring : Nat)
  | mbxDrop (m : Nat)
  | patrol (addr : Nat)
deriving DecidableEq, Repr

/-- A control message as it leaves a port (R341, Table 12.7). -/
structure CtrlMsg where
  msg : Nat
  origin : Nat
  scope : Nat
  pick : Nat
  arg : Nat
  arg2 : Nat
deriving DecidableEq, Repr

/-- What leaves the module. A write of host memory goes on one UCIe link (R324). -/
inductive Output where
  | readData (slot : Nat) (v : Word)
  | readBytes (slot : Nat) (bs : Bytes)
  | hostWrite (link : Option Nat) (addr : Nat) (bs : Bytes)
  | msix (vector : Nat)
  | ctrl (port : Nat) (m : CtrlMsg)
  | remote (path : Nat) (op : RemoteOp)
  | resend (port seq : Nat)
  | nak (port ack : Nat)
  | sync (port pick phase gotPick gotPhase leader : Nat)
  | ibi (b : Nat)
  | pmbus (v : Nat)
  | shadow (port : Nat) (r : ShadowRec)
  | shadowPut (port addr : Nat) (bs : Bytes) (tally : Word)
  | pageOut (path place stream layer page offset : Nat) (bs : Bytes) (tally : Word)
  | windows (port : Nat) (list : List PortWindow)
deriving DecidableEq, Repr

/-- The whole module, and the queue of commands that wait, oldest first. -/
structure State where
  pending : List Instr := []
  tick : Nat := 0
  clk : Clock := {}
  time : TimeDomain := {}
  pwr : Power := {}
  hs : HostSite := {}
  sec : Sec := {}
  acc : Access := {}
  mbx : Tab Mailbox := []
  mem : Memory := {}
  arr : Arrays := {}
  kvt : Kvt := {}
  ctxs : Tab Ctx := []
  sched : Sched := {}
  srv : Serving := {}
  health : Health := {}
  rcv : Recovery := {}
  twin : Twin := {}
  ports : Tab Port := []
  thm : Thermal := {}
  mon : Monitor := {}
  obs : Observe := {}
  agg : List Report := []
  out : List Output := []
deriving DecidableEq, Repr

/-- The module right after power-on with a host die bonded (R14, R28, R319): every register at the value its Reset column
gives, every other field at the value its log entry names, no command waiting. -/
def State.reset : State := { hs := { railsOn := true, pwrgd := true } }

end Sys2Proof.Machine
end

