-- ==== Sys2Proof/Machine/Tab.lean ====
section
/-! DEFINITION. Tables: sorted association lists from numbers to entries, without default entries, so that equal
tables are equal data. -/

namespace Sys2Proof.Machine

/-- The entry of `k`, or `d` when the table lists none. -/
def Tab.getD {α : Type} (d : α) : Tab α → Nat → α
  | [], _ => d
  | (j, a) :: t, k => if j = k then a else Tab.getD d t k

/-- Remove the entry of `k`. -/
def Tab.del {α : Type} (k : Nat) : Tab α → Tab α
  | [] => []
  | (j, a) :: t => if j = k then Tab.del k t else (j, a) :: Tab.del k t

/-- Insert or replace the entry of `k`, keeping the order. -/
def Tab.ins {α : Type} (k : Nat) (v : α) : Tab α → Tab α
  | [] => [(k, v)]
  | (j, a) :: t =>
    if j = k then (k, v) :: t else if k < j then (k, v) :: (j, a) :: t else (j, a) :: Tab.ins k v t

/-- Set the entry of `k` to `v`; an entry equal to the default `d` is not listed. -/
def Tab.put {α : Type} [DecidableEq α] (d : α) (t : Tab α) (k : Nat) (v : α) : Tab α :=
  if v = d then Tab.del k t else Tab.ins k v t

/-- Change the entry of `k` by `f`. -/
def Tab.upd {α : Type} [DecidableEq α] (d : α) (t : Tab α) (k : Nat) (f : α → α) : Tab α :=
  Tab.put d t k (f (Tab.getD d t k))

/-- Numbers rise strictly from `lo` on, and no entry equals the default. -/
def Tab.okFrom {α : Type} [DecidableEq α] (d : α) : Nat → Tab α → Bool
  | _, [] => true
  | lo, (j, a) :: t => decide (lo ≤ j) && (decide (a ≠ d) && Tab.okFrom d (j + 1) t)

/-- The canonical form of a table. -/
def Tab.wf {α : Type} [DecidableEq α] (d : α) (t : Tab α) : Bool := Tab.okFrom d 0 t

/-- Change every listed entry by `f`, dropping those that become the default. -/
def Tab.mapAll {α : Type} [DecidableEq α] (d : α) (f : Nat → α → α) : Tab α → Tab α
  | [] => []
  | (j, a) :: t => let a' := f j a; if a' = d then Tab.mapAll d f t else (j, a') :: Tab.mapAll d f t

/-- Drop the entries whose number lies in [lo, hi). -/
def Tab.cut {α : Type} (lo hi : Nat) : Tab α → Tab α
  | [] => []
  | (j, a) :: t => if lo ≤ j ∧ j < hi then Tab.cut lo hi t else (j, a) :: Tab.cut lo hi t

end Sys2Proof.Machine
end

