-- ==== Sys2Proof/Machine/Ops.lean ====
section
/-! DEFINITION. Named operations over the state: the entry of a unit, a register or a stream; device-local memory and
its stored tallies; outputs and reports; error log entries, storm windows and FAULT notices; health events;
performance counters. -/

namespace Sys2Proof.Machine

/-! ## Entries of tables -/

def State.heddle (s : State) (g : Nat) : Heddle := Tab.getD {} s.arr.heddles g
def State.modHeddle (s : State) (g : Nat) (f : Heddle → Heddle) : State :=
  { s with arr := { s.arr with heddles := Tab.upd {} s.arr.heddles g f } }
def State.harness (s : State) (h : Nat) : Harness := Tab.getD {} s.arr.harnesses h
def State.modHarness (s : State) (h : Nat) (f : Harness → Harness) : State :=
  { s with arr := { s.arr with harnesses := Tab.upd {} s.arr.harnesses h f } }
def State.loom (s : State) (l : Nat) : Loom := Tab.getD {} s.arr.looms l
def State.modLoom (s : State) (l : Nat) (f : Loom → Loom) : State :=
  { s with arr := { s.arr with looms := Tab.upd {} s.arr.looms l f } }
def State.shuttle (s : State) (n : Nat) : Shuttle := Tab.getD {} s.kvt.shuttles n
def State.modShuttle (s : State) (n : Nat) (f : Shuttle → Shuttle) : State :=
  { s with kvt := { s.kvt with shuttles := Tab.upd {} s.kvt.shuttles n f } }
def State.arena (s : State) (c : Nat) : Arena := Tab.getD {} s.kvt.arenas c
def State.modArena (s : State) (c : Nat) (f : Arena → Arena) : State :=
  { s with kvt := { s.kvt with arenas := Tab.upd {} s.kvt.arenas c f } }
def State.ctx (s : State) (c : Nat) : Ctx := Tab.getD {} s.ctxs c
def State.modCtx (s : State) (c : Nat) (f : Ctx → Ctx) : State :=
  { s with ctxs := Tab.upd {} s.ctxs c f }
def State.modCtl (s : State) (c : Nat) (f : CtxCtl → CtxCtl) : State :=
  s.modCtx c fun x => { x with ctl := f x.ctl }
def State.modRecs (s : State) (c : Nat) (f : CtxRecords → CtxRecords) : State :=
  s.modCtx c fun x => { x with recs := f x.recs }
def State.batch (s : State) (c k : Nat) : BatchSlot := Tab.getD {} (s.ctx c).slots k
def State.modBatch (s : State) (c k : Nat) (f : BatchSlot → BatchSlot) : State :=
  s.modCtx c fun x => { x with slots := Tab.upd {} x.slots k f }
def State.mailbox (s : State) (m : Nat) : Mailbox := Tab.getD {} s.mbx m
def State.modMailbox (s : State) (m : Nat) (f : Mailbox → Mailbox) : State :=
  { s with mbx := Tab.upd {} s.mbx m f }
def State.slot (s : State) (j : Nat) : Slot := Tab.getD {} s.acc.slots j
def State.modSlot (s : State) (j : Nat) (f : Slot → Slot) : State :=
  { s with acc := { s.acc with slots := Tab.upd {} s.acc.slots j f } }
def State.sel (s : State) (j : Nat) : Selectors := Tab.getD {} s.acc.sels j
def State.modSel (s : State) (j : Nat) (f : Selectors → Selectors) : State :=
  { s with acc := { s.acc with sels := Tab.upd {} s.acc.sels j f } }
def State.latch (s : State) (j : Nat) : Latches := Tab.getD {} s.acc.latches j
def State.modLatch (s : State) (j : Nat) (f : Latches → Latches) : State :=
  { s with acc := { s.acc with latches := Tab.upd {} s.acc.latches j f } }
def State.ring (s : State) (r : Nat) : Ring := Tab.getD {} s.srv.rings r
def State.modRing (s : State) (r : Nat) (f : Ring → Ring) : State :=
  { s with srv := { s.srv with rings := Tab.upd {} s.srv.rings r f } }
def State.stream (s : State) (t : Nat) : Stream := Tab.getD {} s.srv.streams t
def State.modStream (s : State) (t : Nat) (f : Stream → Stream) : State :=
  { s with srv := { s.srv with streams := Tab.upd {} s.srv.streams t f } }
def State.tenant (s : State) (t : Nat) : Tenant := Tab.getD {} s.srv.tenants t
def State.modTenant (s : State) (t : Nat) (f : Tenant → Tenant) : State :=
  { s with srv := { s.srv with tenants := Tab.upd {} s.srv.tenants t f } }
def State.port (s : State) (p : Nat) : Port := Tab.getD {} s.ports p
def State.modPort (s : State) (p : Nat) (f : Port → Port) : State :=
  { s with ports := Tab.upd {} s.ports p f }
def State.sensor (s : State) (n : Nat) : Sensor := Tab.getD {} s.thm.sensors n
def State.modSensor (s : State) (n : Nat) (f : Sensor → Sensor) : State :=
  { s with thm := { s.thm with sensors := Tab.upd {} s.thm.sensors n f } }
def State.chan (s : State) (n : Nat) : Channel := Tab.getD {} s.mon.chans n
def State.modChan (s : State) (n : Nat) (f : Channel → Channel) : State :=
  { s with mon := { s.mon with chans := Tab.upd {} s.mon.chans n f } }
def State.engine (s : State) (n : Nat) : Engine := Tab.getD {} s.obs.engines n
def State.modEngine (s : State) (n : Nat) (f : Engine → Engine) : State :=
  { s with obs := { s.obs with engines := Tab.upd {} s.obs.engines n f } }
def State.pmc (s : State) (n : Nat) : Pmc := Tab.getD {} s.obs.pmcs n
def State.modPmc (s : State) (n : Nat) (f : Pmc → Pmc) : State :=
  { s with obs := { s.obs with pmcs := Tab.upd {} s.obs.pmcs n f } }

/-- The key of a reset domain in the domain table: kind and index (Table 11.2). -/
def domKey (kind idx : Nat) : Nat := kind * 65536 + idx
def State.domain (s : State) (kind idx : Nat) : Domain := Tab.getD {} s.rcv.domains (domKey kind idx)
def State.modDomain (s : State) (kind idx : Nat) (f : Domain → Domain) : State :=
  { s with rcv := { s.rcv with domains := Tab.upd {} s.rcv.domains (domKey kind idx) f } }

/-- Do `f` for each element in turn. -/
def State.each {α : Type} (l : List α) (f : State → α → State) (s : State) : State := l.foldl f s

/-! ## Numbering (R16) -/

def loomOfHeddle (g : Nat) : Nat := g / 65536
def tierOfHeddle (g : Nat) : Nat := g / 8192
def harnessOfHeddle (g : Nat) : Nat := g / 64
def loomOfHarness (h : Nat) : Nat := h / 1024
def tierOfHarness (h : Nat) : Nat := h / 128

/-! ## Power and boot conditions -/

/-- The module has power and its time base: not lost, not Tripped, the oscillator runs (R25, R350, R369). -/
def State.powered (s : State) : Bool := s.pwr.input && !s.pwr.tripped && !s.pwr.oscFailed
/-- The module is powered and no cause holds it in reset (R25, R348, R352). -/
def State.up (s : State) : Bool :=
  s.powered && !s.pwr.bmResetHeld && !s.pwr.railFault
/-- Boot has reached stage 4 (Table 14.3). -/
def State.ready (s : State) : Bool := s.up && s.sec.stage == 4
/-- Stage at which the boot stage or Adoraku runs. -/
def State.booted (s : State) : Bool := s.up && (s.sec.stage == 2 || s.sec.stage == 3 || s.sec.stage == 4)
/-- The power state lets looms, memory and ports work (Table 13.2). -/
def State.awake (s : State) : Bool := s.up && (s.pwr.mode == 1 && s.pwr.target.isNone)

/-! ## Outputs and reports -/

def State.emit (s : State) (o : Output) : State := { s with out := o :: s.out }
def State.report (s : State) (r : Report) : State := { s with agg := r :: s.agg }
def State.fresh (s : State) : State := { s with tick := s.tick + 1 }

/-- The bits of HUB_ALERT_STAT (Table 12.11). -/
def State.alertStat (s : State) : Nat :=
  b2n s.rcv.alertThermal + 2 * b2n s.rcv.oos + 4 * b2n s.rcv.alertHsShutdown + 8 * b2n s.rcv.alertHsTherm +
    16 * b2n s.rcv.alertLinkFail + 32 * b2n s.rcv.alertStorm

/-- What follows when a bit of HUB_ALERT_STAT becomes set (R328, R349): vector 0 and an in-band interrupt with the
bits as they then stand. -/
def State.alertRaised (s : State) : State := (s.emit (.msix 0)).emit (.ibi s.alertStat)

def State.alertThermal (s : State) : State :=
  let t : State := { s with rcv := { s.rcv with alertThermal := true, setAt := note s.rcv.setAt 0 s.clk.elapsed } }
  if s.rcv.alertThermal then t else t.alertRaised
def State.alertHsShutdown (s : State) : State :=
  let t : State := { s with rcv := { s.rcv with alertHsShutdown := true, setAt := note s.rcv.setAt 2 s.clk.elapsed } }
  if s.rcv.alertHsShutdown then t else t.alertRaised
def State.alertHsTherm (s : State) : State :=
  let t : State := { s with rcv := { s.rcv with alertHsTherm := true, setAt := note s.rcv.setAt 3 s.clk.elapsed } }
  if s.rcv.alertHsTherm then t else t.alertRaised
def State.alertLinkFail (s : State) : State :=
  let t : State := { s with rcv := { s.rcv with alertLinkFail := true, setAt := note s.rcv.setAt 4 s.clk.elapsed } }
  if s.rcv.alertLinkFail then t else t.alertRaised
def State.alertStorm (s : State) : State :=
  let t : State := { s with rcv := { s.rcv with alertStorm := true, setAt := note s.rcv.setAt 5 s.clk.elapsed } }
  if s.rcv.alertStorm then t else t.alertRaised
def State.setOos (s : State) : State :=
  if s.rcv.oos then s else { s with rcv := { s.rcv with oos := true } }.alertRaised

/-! ## Performance counters (R412-R414) -/

/-- The increments that a counter has had in pick `now`. -/
def Pmc.thisPick (p : Pmc) (now : Nat) : Nat := if p.inPickAt = now then p.inPick else 0

/-- A counter after `n` events of pick `now` that pass its filters: it wraps at 2^48 and then sets WRAP. -/
def Pmc.add (p : Pmc) (n now : Nat) : Pmc :=
  { p with
    count := (p.count + n) % 2 ^ 48, wrap := p.wrap || decide (2 ^ 48 ≤ p.count + n)
    inPick := p.thisPick now + n, inPickAt := now }

/-- Whether counter `p` counts event `ev` of loom `loom` (4 the hub), with the step's context and engine. -/
def Pmc.takes (p : Pmc) (ev loom : Nat) (ctx unit : Option Nat) : Bool :=
  p.event == ev && (p.loom == 7 || (p.loom == loom && decide (loom < 5))) && (!p.ctxF || ctx == some p.context) &&
    (!p.unitF || unit == some p.engine)

/-- `n` occurrences of a performance event. -/
def State.perf (s : State) (ev n loom : Nat) (ctx unit : Option Nat) : State :=
  if s.obs.run && n != 0 then
    let count (_ : Nat) (p : Pmc) : Pmc := if p.takes ev loom ctx unit then p.add n s.clk.elapsed else p
    { s with obs := { s.obs with pmcs := Tab.mapAll {} count s.obs.pmcs } }
  else s

/-! ## Device-local memory (R21, R256-R258, R426) -/

/-- First address after allocatable HBM, after the hub region, and after HBM (Table 16.2). -/
def hubBase : Nat := 0x011C40000000
def patternBase : Nat := 0x011DC0000000
def hbmEnd : Nat := 0x012000000000
def loomBase : Nat := 0x020000000000

/-- Where the verified Adoraku image lies in it (Table 16.4). -/
def imageBase : Nat := 0x011C40000000

/-- The loom store of loom `l`. -/
def loomStore (l : Nat) : Nat := loomBase + l * 0x10000000
def loomStoreSize : Nat := 0xC000000

/-- The UCIe link of an access of host memory at `addr` (R324): of the n links that are up, the one at position
(addr div 4,096) mod n; none without a link. -/
def State.hostLink (s : State) (addr : Nat) : Option Nat :=
  let up := (List.range 8).filter (fun l => s.acc.linksUp.contains l)
  up[addr / 4096 % up.length]?

/-- Whether [a, a+n) lies in one loom store. -/
def inLoomStore (a n : Nat) : Bool :=
  decide (loomBase ≤ a ∧ a + n ≤ loomBase + 4 * 0x10000000) &&
    decide ((a - loomBase) % 0x10000000 + n ≤ loomStoreSize)
/-- Whether [a, a+n) is mapped device-local memory. -/
def mapped (a n : Nat) : Bool := decide (a + n ≤ hbmEnd) || inLoomStore a n
/-- Whether [a, a+n) lies in allocatable HBM or loom store (R426). -/
def allocatable (a n : Nat) : Bool := decide (a + n ≤ hubBase) || inLoomStore a n
/-- The loom beside the memory that holds `a`. -/
def loomOfAddr (a : Nat) : Nat := if a < hbmEnd then a / 0xC00000000 / 6 else (a - loomBase) / 0x10000000
/-- The HBM channel that holds `a` (R427). -/
def channelOf (a : Nat) : Nat := a / 0x60000000
/-- ERR_ECC_SEL's number of the memory that holds `a` (Table 10.13). -/
def eccMemory (a : Nat) : Nat := if a < hbmEnd then a / 0xC00000000 else 24 + (a - loomBase) / 0x10000000
/-- Unit kind and index of the memory that holds `a` (Table 10.7). -/
def memUnit (a : Nat) : Nat × Nat :=
  if a < hbmEnd then (5, channelOf a)
  else (6, (a - loomBase) / 0x10000000 * 16 + (a - loomBase) % 0x10000000 / 0xC00000)

/-- The byte at `a`; an unlisted byte reads 0. -/
def Memory.byte (m : Memory) (a : Nat) : Byte := Tab.getD 0 m.bytes a
/-- The canonical form: rising addresses, no listed zero, no listed zero error. -/
def Memory.wf (m : Memory) : Bool := Tab.wf 0 m.bytes && Tab.wf 0 m.tallyErr
def Memory.setByte (m : Memory) (a : Nat) (b : Byte) : Memory := { m with bytes := Tab.put 0 m.bytes a b }
/-- Write bytes from `a` upward; stored tallies are updated so that their error stays (R257). -/
def Memory.writeBytes : Memory → Nat → Bytes → Memory
  | m, _, [] => m
  | m, a, b :: bs => Memory.writeBytes (m.setByte a b) (a + 1) bs
def Memory.readBytes (m : Memory) : Nat → Nat → Bytes
  | _, 0 => []
  | a, n + 1 => m.byte a :: Memory.readBytes m (a + 1) n
/-- XOR `e` into the error of the stored tally of the block at number `k`. -/
def Memory.addErr (m : Memory) (k : Nat) (e : Word) : Memory :=
  { m with tallyErr := Tab.upd 0 m.tallyErr k (fun x => x ^^^ e) }
/-- Store block `k` with a tally of error `e`. -/
def Memory.setErr (m : Memory) (k : Nat) (e : Word) : Memory := { m with tallyErr := Tab.put 0 m.tallyErr k e }
def Memory.clearErr (m : Memory) (k : Nat) : Memory := m.setErr k 0
/-- The numbers of the 4 KiB blocks that [a, a+n) touches. -/
def blocksOf (a n : Nat) : List Nat :=
  if n = 0 then [] else (List.range ((a + n - 1) / 4096 - a / 4096 + 1)).map (fun i => a / 4096 + i)
/-- The blocks that [a, a+n) covers whole. -/
def wholeBlocks (a n : Nat) : List Nat :=
  (blocksOf a n).filter (fun k => decide (a ≤ k * 4096 ∧ k * 4096 + 4096 ≤ a + n))
/-- Bytes [a, a+n) gone: they read 0 with correct tallies. -/
def Memory.zeroRange (m : Memory) (a n : Nat) : Memory :=
  { bytes := Tab.cut a (a + n) m.bytes
    tallyErr := Tab.cut ((a + 4095) / 4096) ((a + n) / 4096) m.tallyErr }

def State.byte (s : State) (a : Nat) : Byte := s.mem.byte a
def State.read (s : State) (a n : Nat) : Bytes := s.mem.readBytes a n
def State.readLe (s : State) (a n : Nat) : Nat := leNat (s.read a n)
def State.setMem (s : State) (m : Memory) : State := { s with mem := m }
/-- A write of less than whole blocks, or by the host: the stored tallies keep their error (R257). -/
def State.write (s : State) (a : Nat) (bs : Bytes) : State := s.setMem (s.mem.writeBytes a bs)
/-- A write by a unit: each block written whole gets the tally of its bytes (R257). -/
def State.unitWrite (s : State) (a : Nat) (bs : Bytes) : State :=
  s.setMem ((wholeBlocks a bs.length).foldl Memory.clearErr (s.mem.writeBytes a bs))
/-- A received piece with tally error `e`: each block it touches is stored with the tally of its new contents, XORed with
that error (R257). -/
def State.pieceWrite (s : State) (a : Nat) (bs : Bytes) (e : Word) : State :=
  s.setMem ((blocksOf a bs.length).foldl (fun m k => m.setErr k e) (s.mem.writeBytes a bs))
def State.zero (s : State) (a n : Nat) : State := s.setMem (s.mem.zeroRange a n)
def State.blockErr (s : State) (k : Nat) : Word := Tab.getD 0 s.mem.tallyErr k
/-- The sum of the errors of the blocks that [a, a+n) touches (R258). -/
def State.rangeErr (s : State) (a n : Nat) : Word := (blocksOf a n).foldl (fun e k => e ^^^ s.blockErr k) 0

/-- The stored tally of block `k` (R256). -/
def State.storedTally (s : State) (k : Nat) : Word := crc32c (s.read (k * 4096) 4096) ^^^ s.blockErr k

/-! ## Error-correcting codes (R260) -/

/-- What a code makes of flipped bits: how many errors it corrects, how many it detects and cannot correct, and the bits that
then still read flipped. -/
structure Decoded where
  corrected : Nat
  detected : Nat
  left : Nat
deriving DecidableEq, Repr

/-- SECDED over one 64-bit word: one bit is corrected. -/
def secded (bits : Nat) : Decoded :=
  match ((List.range 64).filter (bitOf bits)).length with
  | 0 => ⟨0, 0, 0⟩
  | 1 => ⟨1, 0, 0⟩
  | _ => ⟨0, 1, bits⟩

/-- The symbol code over a 64-byte access: an error confined to one 16-bit symbol is corrected. -/
def symbolCode (bits : Nat) : Decoded :=
  match ((List.range 32).filter (fun i => fld bits (16 * i) 16 != 0)).length with
  | 0 => ⟨0, 0, 0⟩
  | 1 => ⟨1, 0, 0⟩
  | _ => ⟨0, 1, bits⟩

/-- The code of the memory that holds the 64-byte unit at `a`: the HBM controllers' symbol code, or SECDED per 64 bits. -/
def decodeUnit (a bits : Nat) : Decoded :=
  if a < hbmEnd then symbolCode bits
  else (List.range 8).foldl (fun d i =>
    let w := secded (fld bits (64 * i) 64)
    ⟨d.corrected + w.corrected, d.detected + w.detected, d.left + w.left * 2 ^ (64 * i)⟩) ⟨0, 0, 0⟩

/-- The 64-byte unit that an upset strikes, and what its code makes of it. -/
def struckUnit : Upset → Option (Nat × Decoded)
  | .flips x bits => let a := x.toNat / 64 * 64; some (a, decodeUnit a bits.toNat)
  | _ => none

/-- The unit at `a` with bits flipped. -/
def Memory.flip (m : Memory) (a bits : Nat) : Memory :=
  (List.range 64).foldl (fun m i =>
    if fld bits (8 * i) 8 = 0 then m else m.setByte (a + i) (m.byte (a + i) ^^^ BitVec.ofNat 8 (fld bits (8 * i) 8))) m

/-- The memory as a step reads it: bits that no code corrects read flipped (R261). -/
def State.asRead (s : State) (ups : List Upset) : State :=
  s.setMem (ups.foldl (fun m u => match struckUnit u with
    | some (a, d) => if d.left = 0 then m else m.flip a d.left
    | none => m) s.mem)

/-! ## Error log and storm windows (R312-R314, R435) -/

def logCap : Nat := 16384

/-- Write an entry at the head of the log. -/
def State.pushLog (s : State) (e : LogEntry) : State :=
  { s with rcv := { s.rcv with log := (e :: s.rcv.log).take logCap, logSeq := s.rcv.logSeq + 1 } }

/-- The entry earlier in the order of R313. -/
def LogEntry.before (a b : LogEntry) : Bool :=
  let k (e : LogEntry) : List Nat := [e.originPick, if e.kind = 0 then 1 else 0, e.kind, e.place, e.index]
  decide (k a < k b)

/-- The first of a list of latched entries. -/
def firstOf : List LogEntry → Option LogEntry
  | [] => none
  | e :: t => match firstOf t with
    | none => some e
    | some f => if f.before e then some f else some e

def LogEntry.sameDomain (a b : LogEntry) : Bool := a.place == b.place && a.kind == b.kind && a.index == b.index

/-- Mark the log entries of the window: the root as ROOT, its followers as ECHO. -/
def markLog (root : Option LogEntry) (window : List Nat) (l : List LogEntry) : List LogEntry :=
  l.map fun e =>
    if window.contains e.seq then
      { e with root := (root.map (·.seq)) == some e.seq, echo := (root.map (·.seq)) != some e.seq }
    else e

/-- Place an entry that takes part in storms: open a window or join the open one (R313). -/
def State.storm (s : State) (e : LogEntry) : State :=
  let r := s.rcv
  if r.stormOpen then
    let known := r.latched.any (fun x => x.sameDomain e)
    let latched := if known then r.latched else r.latched ++ [e]
    let root := firstOf latched
    { s with rcv := { r with
        stormLast := s.clk.elapsed, latched := latched, root := root, rootProvisional := true, rootValid := true
        echoes := satAdd max32 r.echoes 1
        log := markLog root (e.seq :: latched.map (·.seq)) r.log } }
  else
    { s with rcv := { r with
        stormOpen := true, stormLast := s.clk.elapsed, latched := [e], root := some e, rootProvisional := true
        rootValid := true, log := markLog (some e) [e.seq] r.log } }.alertStorm

/-- An event entry of Table 11.16: no domain, no storm, no notice (R435). -/
def State.logEvent (s : State) (place detector index : Nat) : State :=
  (s.pushLog ⟨s.rcv.logSeq, s.clk.pick, place, 0, detector, index, true, false, false, false, false, max32⟩).emit
    (.msix 0)

/-! ## Health events (R275, R276) -/

/-- Queue a health event for flash; events of one kind against one unit in one powered second are one event (R276). -/
def State.healthEvent (s : State) (kind unitKind unit ctx capture detail : Nat) : State :=
  let h := s.health
  let same (e : HealthEvent) : Bool :=
    e.kind == kind && e.unitKind == unitKind && e.unit == unit && e.time == h.seconds
  if h.queue.any same || h.events.any same then s
  else { s with health := { h with queue := h.queue ++
      [⟨0, h.seconds, kind, unitKind, ctx, capture, unit, detail, s.clk.pick % 2 ^ 32⟩] } }

/-- The unit is on the disabled-unit map. -/
def State.disabled (s : State) (kind idx : Nat) : Bool := s.health.dumap.contains (kind, idx)

/-- Insert a pair into an ascending list without repeats (R280). -/
def insPair (p : Nat × Nat) : List (Nat × Nat) → List (Nat × Nat)
  | [] => [p]
  | q :: t => if q = p then q :: t else if p.1 < q.1 ∨ (p.1 = q.1 ∧ p.2 < q.2) then p :: q :: t else q :: insPair p t

/-! ## Bookkeeping of reads that check (R259, R261) -/

/-- A tally failure on a read of the block at address `a`, counted and reported. -/
def State.tallyCount (s : State) (a : Nat) : State :=
  let l := loomOfAddr a
  let s := { s with health := { s.health with
    tally := Tab.upd 0 s.health.tally l (fun c => satAdd max8 c 1) } }
  (s.report (.tallyFail a)).perf 0x1E 1 l none none
/-- The same, recorded against the memory. -/
def State.tallyFail (s : State) (a ctx : Nat) : State :=
  let (k, u) := memUnit a
  (s.tallyCount a).healthEvent 6 k u ctx 0xFF a

/-- A corrected ECC error in the memory numbered `m` (Table 10.13). -/
def State.eccCorrected (s : State) (m : Nat) : State :=
  ({ s with health := { s.health with
    eccCorr := Tab.upd 0 s.health.eccCorr m (fun c => satAdd 0xFFFFFF c 1) } }).perf 0x1F 1
      (if m < 24 then m / 6 else if m < 28 then m - 24 else 4) none none

/-- An uncorrectable ECC error in the memory numbered `m`. -/
def State.eccUncorrected (s : State) (m : Nat) : State :=
  { s with health := { s.health with eccUncorr := Tab.upd 0 s.health.eccUncorr m (fun c => satAdd max8 c 1) } }

/-! ## Flits (R335, R336, R340) -/

/-- The link state of a port that is Down or begins to train: registers and counts stay. -/
def Port.fresh (x : Port) (state : Nat) : Port :=
  { enable := x.enable, state := state, crc := x.crc, retrains := x.retrains, fails := x.fails, retry := x.retry }

/-- The waiting flit that goes next: VC0 before VC1 before VC2, each only with a credit. -/
def Port.next (x : Port) : Option (Nat × Nat) :=
  [0, 1, 2].findSome? (fun vc => if x.credits.getD vc 0 = 0 then none else x.waiting.find? (fun f => f.1 == vc))

/-- Send waiting flits while credits and the replay buffer allow; `now` is the pick. -/
def Port.pump (now : Nat) : Nat → Port → Port
  | 0, x => x
  | n + 1, x =>
    match x.next with
    | none => x
    | some f =>
      if (x.state = 1 ∨ x.state = 2) ∧ x.retrain = false ∧ x.unacked.length < 512 then
        Port.pump now n { x with
          waiting := x.waiting.erase f, unacked := x.unacked ++ [(x.txSeq, f)], txSeq := (x.txSeq + 1) % 4096
          credits := x.credits.set f.1 (x.credits.getD f.1 0 - 1), ackPick := if x.unacked.isEmpty then now else x.ackPick }
      else x

/-- Queue `n` sequenced flits of a virtual channel on port `p`; `c` is the context of their remote operation, or 256. -/
def State.sendFlits (s : State) (p vc n c : Nat) : State :=
  s.modPort p fun x =>
    let x : Port := { x with waiting := x.waiting ++ List.replicate n (vc, c) }
    x.pump s.clk.elapsed x.waiting.length

/-- Flits of a remote operation (R340). -/
def opFlits (op : RemoteOp) : Nat :=
  if op.opc = 1 ∨ op.opc = 3 ∨ op.opc = 4 then ceilDiv (32 + op.length + 4 * ceilDiv op.length 4096) 240 else 1

/-- A remote operation leaves on a path; on an Xeast port its flits go on VC1, an ACK's or NACK's on VC0. -/
def State.issue (s : State) (path : Nat) (op : RemoteOp) : State :=
  let s := s.emit (.remote path op)
  if path < 36 then
    s.sendFlits path (if op.opc = 6 ∨ op.opc = 7 then 0 else 1) (opFlits op)
      (if op.opc = 1 ∨ op.opc = 2 ∨ op.opc = 4 then op.context else 256)
  else s

/-- A shadow record on VC2. -/
def State.shadowSend (s : State) (p : Nat) (r : ShadowRec) : State := (s.emit (.shadow p r)).sendFlits p 2 1 256

/-! ## The time source (R346) -/

/-- The upstream port is no longer Up: holdover. -/
def State.upstreamDown (s : State) (p : Nat) : State :=
  if s.time.role = 2 ∧ s.time.upstream = p ∧ s.time.state ≠ 0 ∧ s.time.holdoverSince = none then
    { s with time := { s.time with state := 2, ahead := false, holdoverSince := some s.clk.wall } }
  else s

end Sys2Proof.Machine
end

