-- ==== Sys2Proof/Machine/Operands.lean ====
section
/-! DEFINITION. Operand forms: who makes an access (R13, R324, R325), a mailbox command's arguments and completion
(R329-R332, R425, R431), the host data it names, and the fields of a plan image (R154-R157). -/

namespace Sys2Proof.Machine

/-! ## Requesters -/

/-- The lowest-numbered UCIe link that is up (R324). -/
def State.barLink (s : State) : Option Nat := (List.range 8).find? (fun l => s.acc.linksUp.contains l)

/-- Privileged: the weaver core, or a slot with PRIV set (R325). -/
def State.priv (s : State) (j : Nat) : Bool := j == 64 || (s.slot j).priv

/-- The slot that holds requester ID `rid`. -/
def State.slotOfRid (s : State) (rid : Nat) : Option Nat :=
  (List.range 62).find? (fun j => (s.slot j).valid && (s.slot j).rid == rid)

/-- The slot of a host requester, assigned at first access: the lowest free slot from 8 to 61, else slot 63 (R325). -/
def State.assignSlot (s : State) (rid : Nat) : Nat × State :=
  match s.slotOfRid rid with
  | some j => (j, s)
  | none =>
    match (List.range 62).find? (fun j => decide (8 ≤ j) && !(s.slot j).valid) with
    | some j => (j, s.modSlot j fun x =>
        { x with rid := rid, valid := true, priv := s.acc.autoPriv, auto := true })
    | none => (63, s)

/-- The slot a BAR0 or BAR2 access acts as, none when it is dropped (R324). In recovery only the I3C target is
served (R400). -/
def State.access (s : State) (who : Who) : Option Nat × State :=
  if !s.up then (none, s)
  else match who with
  | .weaver => if s.sec.stage == 5 then (none, s) else (some 64, s)
  | .i3c => (some 62, s)
  | .host rid link =>
    if s.sec.stage == 5 then (none, s)
    else if s.barLink == some link.val then
      let (j, t) := s.assignSlot rid.toNat
      (some j, t)
    else (none, s.report (.wrongLink link.val))

/-- A write that any requester may make. -/
def State.anyWrite (s : State) (who : Who) (f : Nat → State → State) : State :=
  match s.access who with
  | (some j, t) => if t.sec.stage == 5 then t else f j t
  | (none, t) => t

/-- A write of a PRV field: an unprivileged requester's leaves it unchanged and is counted (R13). -/
def State.prvWrite (s : State) (who : Who) (f : Nat → State → State) : State :=
  s.anyWrite who fun j t => if t.priv j then f j t else t.report (.prvDenied j)

/-! ## Mailbox commands -/

/-- Argument word `i`, and the two-word argument at `i`, low word first (R331). -/
def Mailbox.arg (b : Mailbox) (i : Nat) : Nat := Tab.getD 0 b.args i
def Mailbox.arg2 (b : Mailbox) (i : Nat) : Nat := b.arg i + 2 ^ 32 * b.arg (i + 1)

/-- Completion: result words, STATUS, TAG, DONE set, BUSY cleared, vector 1 + m (R330). -/
def State.complete (s : State) (m status : Nat) (res : List Nat) : State :=
  (s.modMailbox m fun b =>
    { b with busy := false, done := true, status := status, statTag := b.tag, setAt := note b.setAt 1 s.clk.elapsed
             res := (res ++ List.replicate 8 0).take 8 }).emit (.msix (1 + m))

/-- Who serves mailboxes: the boot stage or Adoraku, not while hub function 0 is being recovered (Table 11.3). -/
def State.serves (s : State) : Bool :=
  s.booted && (s.domain 0xA 0).phase == 0 && !(s.domain 0xA 0).retired && (s.domain 0xB 0).phase == 0

/-- The refusals that hold for every opcode: an unprivileged holder (R329), the boot stage (R388), a module out of
service (R302), Retention (R355). -/
def State.cmdBarred (s : State) (m : Nat) (b : Mailbox) : Bool :=
  (!s.priv b.slot && b.opcode != 0x2002 && b.opcode != 0x3005) ||
  (s.sec.stage == 2 && !((m == 0 || m == 15) && (b.opcode == 0x5000 || b.opcode == 0x5001))) ||
  (s.sec.stage == 3) ||
  (s.rcv.oos && b.opcode / 4096 != 4 && b.opcode / 4096 != 5) ||
  (s.pwr.mode == 2 && (b.opcode / 4096 == 1 || b.opcode / 4096 == 3))

/-- Perform the command of mailbox `m` when it is BUSY with `opcode`; `f` completes it or leaves it BUSY. -/
def State.command (s : State) (m opcode : Nat) (f : Mailbox → State → State) : State :=
  let b := s.mailbox m
  if s.serves && b.busy && b.opcode == opcode then
    if s.cmdBarred m b then s.complete m 0x11 [] else f b s
  else s

/-- The assigned opcodes (Table 16.5). -/
def assignedOpcodes : List Nat :=
  [0x0010, 0x0020, 0x1000, 0x1001, 0x1002, 0x1003, 0x1004, 0x1005, 0x1006, 0x1007, 0x1008, 0x1009, 0x100A] ++
  [0x2000, 0x2001, 0x2002, 0x2003, 0x3000, 0x3001, 0x3002, 0x3003, 0x3004, 0x3005, 0x3006, 0x3020, 0x3021] ++
  [0x4000, 0x4001, 0x4002, 0x4003, 0x4004, 0x4005, 0x4010, 0x4011, 0x4012, 0x4013, 0x4014, 0x4015, 0x4016, 0x4017,
   0x4020] ++
  [0x5000, 0x5001, 0x5002, 0x5003, 0x5004, 0x5005, 0x5006, 0x5007, 0x6000, 0x6001]

/-- The transfer buffer in the hub region (Table 16.4). -/
def xferBase : Nat := 0x011C42000000
def xferSize : Nat := 0x1000000

/-- Host addresses of this command are offsets into the transfer buffer: mailbox 15 held by slot 62 (R425). -/
def viaXfer (m : Nat) (b : Mailbox) : Bool := m == 15 && b.slot == 62

/-- Offset plus length passes 16 MiB on a command that names the transfer buffer (R425). -/
def pastXfer (m : Nat) (b : Mailbox) (addr len : Nat) : Bool := viaXfer m b && decide (xferSize < addr + len)

/-- The `len` bytes at host address `addr`: what the read of host memory returned, or the transfer buffer's. -/
def State.hostData (s : State) (m : Nat) (b : Mailbox) (addr len : Nat) (given : Bytes) : Bytes :=
  if viaXfer m b then s.read (xferBase + addr) len else slice given 0 len

/-- Write a command's result in host memory. -/
def State.hostPut (s : State) (m : Nat) (b : Mailbox) (addr : Nat) (bs : Bytes) : State :=
  if viaXfer m b then s.write (xferBase + addr) bs else s.emit (.hostWrite (s.hostLink addr) addr bs)

/-- Complete with `bs` written at `addr`, when it fits `len` (R431) and the transfer buffer (R425). -/
def State.completeWith (s : State) (m : Nat) (b : Mailbox) (addr len : Nat) (bs : Bytes) (res : List Nat) : State :=
  if pastXfer m b addr len then s.complete m 0x11 []
  else if len < bs.length then s.complete m 0x11 [bs.length]
  else (s.hostPut m b addr bs).complete m 0 res

/-! ## Plan images -/

/-- A region entry (Table 6.4). -/
structure Region where
  base : Nat
  size : Nat
  type : Nat
  reserved : Nat
deriving DecidableEq, Repr

/-- A step record (Table 6.6). -/
structure PlanStep where
  start : Nat
  len : Nat
  kind : Nat
  flags : Nat
  unit : Nat
  every : Nat
  phase : Nat
  power : Nat
  param : Nat
  wait : Nat
  set : Nat
  waitCount : Nat
  slot : Nat
  length : Nat
  src : Nat
  dst : Nat
deriving DecidableEq, Repr

def planMode (img : Bytes) : Nat := le img 2 1
def planContext (img : Bytes) : Nat := le img 3 1
def planPeriod (img : Bytes) : Nat := le img 4 4
def planTableSet (img : Bytes) : Nat := le img 8 2
def planPlace (img : Bytes) : Nat := le img 0xC 2
def planPlaces (img : Bytes) : Nat := le img 0xE 2
def planGroup (img : Bytes) : Nat := le img 0x10 8
def planLead (img : Bytes) : Nat := le img 0x18 4
def planHop (img : Bytes) : Nat := le img 0x1C 2
def planWalkerShare (img : Bytes) : Nat := le img 0x1E 2
def planFabricShare (img : Bytes) : Nat := le img 0x20 1
def planStaticMw (img : Bytes) : Nat := le img 0x24 4
def planRegionOff (img : Bytes) : Nat := le img 0x28 4
def planRegionCount (img : Bytes) : Nat := le img 0x2C 4
def planListOff (img : Bytes) (l : Nat) : Nat := le img (0x30 + 8 * l) 4
def planListCount (img : Bytes) (l : Nat) : Nat := le img (0x34 + 8 * l) 4
def planDevice (img : Bytes) : Bool := bitOf (planMode img) 0

def planRegion (img : Bytes) (i : Nat) : Region :=
  let o := planRegionOff img + 16 * i
  ⟨le img o 8, le img (o + 8) 6, le img (o + 14) 1, le img (o + 15) 1⟩

def planRegions (img : Bytes) : List Region := (List.range (planRegionCount img)).map (planRegion img)

/-- The region of the plan that holds [a, a+n), if any. -/
def regionOf (img : Bytes) (a n : Nat) : Option Region :=
  (planRegions img).find? (fun r => inside a n r.base r.size)

/-- Parse the step record in the 64 bytes `r`. -/
def parseStep (r : Bytes) : PlanStep :=
  { start := le r 0 4, len := le r 4 4, kind := le r 8 1, flags := le r 9 1, unit := le r 0xA 2
    every := le r 0xC 2, phase := le r 0xE 2, power := le r 0x10 4, param := le r 0x14 4, wait := le r 0x18 8
    set := le r 0x20 8, waitCount := le r 0x28 2, slot := le r 0x2A 2, length := le r 0x2C 4, src := le r 0x30 8
    dst := le r 0x38 8 }

def planStep (img : Bytes) (l i : Nat) : PlanStep := parseStep (slice img (planListOff img l + 64 * i) 64)

/-- Steps of list `l` with their indices. -/
def planList (img : Bytes) (l : Nat) : List (Nat × PlanStep) :=
  (List.range (planListCount img l)).map (fun i => (i, planStep img l i))

/-- Every step of a plan: list, index, step; lists ascending, then indices. -/
def planSteps (img : Bytes) : List (Nat × Nat × PlanStep) :=
  (List.range 5).flatMap (fun l => (planList img l).map (fun p => (l, p.1, p.2)))

/-- The parameter block of a step, `n` bytes; all zero when PARAM is 0. -/
def stepParam (img : Bytes) (st : PlanStep) (n : Nat) : Bytes :=
  if st.param = 0 then List.replicate n 0 else slice img st.param n

/-- Place and device-local address of a plan address (R156). -/
def addrPlace (a : Nat) : Nat := fld a 48 12
def addrLocal (a : Nat) : Nat := fld a 0 48

/-- The Xeast port of path code `u` on loom `l`. -/
def pathPort (l u : Nat) : Option Nat := if u ≤ 8 then some (9 * l + u) else none

/-- The Xeast ports that a plan uses. -/
def planPorts (img : Bytes) : List Nat :=
  ((planSteps img).filterMap fun (l, _, st) =>
    if l < 4 ∧ (st.kind = 5 ∨ st.kind = 6 ∨ st.kind = 7 ∨ st.kind = 0xE) then pathPort l st.unit else none).eraseDups

/-- The engine index of a step: its unit, path or the hub list (Table 15.1). -/
def stepEngine (l : Nat) (st : PlanStep) : Nat :=
  if l = 4 then 0x1360
  else if st.kind = 1 ∨ st.kind = 9 then l * 1024 + st.unit
  else if st.kind = 2 then 0x1280 + l * 16 + st.unit
  else if st.kind = 3 then 0x1200 + l * 24 + st.unit
  else if st.kind = 4 then 0x1000 + l * 96 + st.unit
  else if st.kind = 0xE then 0x1300 + 9 * l + st.unit
  else if st.kind = 5 ∨ st.kind = 6 ∨ st.kind = 7 then
    (if st.unit ≤ 8 then 0x1300 + 9 * l + st.unit
     else 0x1340 + l * 4 + (if st.unit = 0x1F then 3 else st.unit - 0x10))
  else if st.kind = 0xA then
    (if st.unit < 0x500 then l * 1024 + (st.unit - 0x100)
     else if st.unit < 0x580 then 0x1000 + l * 96 + (st.unit - 0x500)
     else if st.unit < 0x5A0 then 0x1200 + l * 24 + (st.unit - 0x580)
     else 0x1280 + l * 16 + (st.unit - 0x5A0))
  else 0x1361

/-- Contexts in the table. -/
def State.ctxNums (s : State) : List Nat := s.ctxs.map (·.1)
/-- The image of context `c`, empty when none is loaded. -/
def State.image (s : State) (c : Nat) : Bytes := ((s.ctx c).ctl.plan).getD []
/-- Contexts that are not Disabled: their plan is enabled (R170). -/
def State.enabled (s : State) : List Nat := s.ctxNums.filter (fun c => (s.ctx c).ctl.state != 0)
/-- Contexts that run iterations: Running or Stopping. -/
def State.running (s : State) : List Nat :=
  s.ctxNums.filter (fun c => (s.ctx c).ctl.state == 4 || (s.ctx c).ctl.state == 5)
/-- Enabled contexts of a plan group. -/
def State.ofGroup (s : State) (g : Nat) : List Nat :=
  s.enabled.filter (fun c => planGroup (s.image c) == g && (s.ctx c).ctl.plan.isSome)
/-- This module's place: that of the lowest-numbered enabled plan, 0 with none. -/
def State.place (s : State) : Nat := ((s.enabled.head?).map (fun c => planPlace (s.image c))).getD 0

/-- Ports on which group messages of context `c` travel: its plan's ports (R341). -/
def State.groupPorts (s : State) (c : Nat) : List Nat := planPorts (s.image c)

/-- Send a control message on each of a list of ports. -/
def State.sendOn (s : State) (ports : List Nat) (msg : CtrlMsg) : State :=
  State.each ports (fun s p => (s.emit (.ctrl p msg)).sendFlits p 0 1 256) s

/-- Send a group message of context `c`. -/
def State.sendGroup (s : State) (c msg pick arg arg2 : Nat) : State :=
  s.sendOn (s.groupPorts c) ⟨msg, planPlace (s.image c), planGroup (s.image c), pick, arg, arg2⟩

/-- Up twin ports (R342). -/
def State.twinPorts (s : State) : List Nat := [32, 33, 34, 35].filter (fun p => (s.port p).state == 2)

/-- Send a twin message. -/
def State.sendTwin (s : State) (msg pick arg : Nat) : State := s.sendOn s.twinPorts ⟨msg, 0xFFFF, 0, pick, arg, 0⟩

end Sys2Proof.Machine
end

