-- ==== Sys2Proof/Machine/Recipe.lean ====
section
/-! DEFINITION. The recipe (R98, Tables 3.11-3.13), weight layout (R74-R76, R82), activation and outlier records
(R85-R91), reduction words (R108). -/

namespace Sys2Proof.Machine

/-! ## Recipe -/

def recVersion (r : Bytes) : Nat := le r 0 2
def recLayers (r : Bytes) : Nat := le r 2 2
def recTensors (r : Bytes) : Nat := le r 4 2
def recFlagTable (r : Bytes) : Nat := le r 8 8
/-- Byte offsets of layer record `i` and tensor record `k`. -/
def layerOff (i : Nat) : Nat := 64 + 32 * i
def tensorOff (r : Bytes) (k : Nat) : Nat := 64 + 32 * recLayers r + 16 * k
/-- Bytes of the whole recipe. -/
def recSize (r : Bytes) : Nat := tensorOff r (recTensors r)

def layActWidth (r : Bytes) (i : Nat) : Nat := le r (layerOff i) 1
def layActSpan (r : Bytes) (i : Nat) : Nat := le r (layerOff i + 1) 1
def layChannels (r : Bytes) (i : Nat) : Nat := le r (layerOff i + 0xC) 4
def laySlotsRaw (r : Bytes) (i : Nat) : Nat := le r (layerOff i + 2) 2
/-- Slot count S in effect (R89). -/
def laySlots (r : Bytes) (i : Nat) : Nat :=
  if laySlotsRaw r i = 0xFFFF then layChannels r i / 128 else laySlotsRaw r i
def layCands (r : Bytes) (i : Nat) : Nat := le r (layerOff i + 4) 2
def layThreshold (r : Bytes) (i : Nat) : F32 := BitVec.ofNat 32 (le r (layerOff i + 8) 4)
def layCandList (r : Bytes) (i : Nat) : Nat := le r (layerOff i + 0x10) 8
def layFirst (r : Bytes) (i : Nat) : Nat := le r (layerOff i + 0x18) 2
def layCount (r : Bytes) (i : Nat) : Nat := le r (layerOff i + 0x1A) 2

def tenWidth (r : Bytes) (k : Nat) : Nat := le r (tensorOff r k) 1
def tenSpan (r : Bytes) (k : Nat) : Nat := le r (tensorOff r k + 1) 1
def tenLayer (r : Bytes) (k : Nat) : Nat := le r (tensorOff r k + 2) 2
def tenScale (r : Bytes) (k : Nat) : F32 := BitVec.ofNat 32 (le r (tensorOff r k + 4) 4)
def tenRows (r : Bytes) (k : Nat) : Nat := le r (tensorOff r k + 8) 4
def tenCols (r : Bytes) (k : Nat) : Nat := le r (tensorOff r k + 0xC) 4

/-- The recipe that context `c` computes under: its current set's. -/
def State.recipe (s : State) (c : Nat) : Bytes := (s.ctx c).cur.recipe

/-! ## Weights in a heddle -/

/-- Output columns per heddle and blocks per dent at width `w` (Table 3.1). -/
def outCols (w : Nat) : Nat := 512 / max w 1
def blocksPerDent (w : Nat) : Nat := ceilDiv (outCols w) 16

/-- The weight integer that `w` stored bits of value `v` encode (R75, R76). -/
def weightInt (w v : Nat) : Int := if w = 1 then 2 * (v % 2 : Nat) - 1 else signed w v

/-- The row sum S(r) and the index-weighted sum T(r) mod 64 of 512 data bits (R48). -/
def rowSum (d : Nat) : Nat := sumNat ((List.range 512).map (fun c => b2n (bitOf d c)))
def rowIndexSum (d : Nat) : Nat := sumNat ((List.range 512).map (fun c => c * b2n (bitOf d c))) % 64

/-- A stored row: 512 data bits and the 16 selvage bits of R48. -/
def rowWithSelvage (d : Nat) : BitVec 528 :=
  let d := d % 2 ^ 512
  BitVec.ofNat 528 (d + rowSum d * 2 ^ 512 + rowIndexSum d * 2 ^ 522)

/-- Row `r` of a heddle. -/
def Heddle.row (h : Heddle) (r : Nat) : Nat := (Tab.getD (0 : BitVec 528) h.rows r).toNat
/-- Block exponent of block `j` of dent `d`. -/
def Heddle.exp (h : Heddle) (d j : Nat) : Nat := Tab.getD 0 h.exps (d * 32 + j)
/-- Block `j` of dent `d` holds a weight of the tensor (R105). -/
def Heddle.usedBlock (h : Heddle) (d j : Nat) : Bool := decide (64 * d < h.rowsUsed ∧ 16 * j < h.colsUsed)
/-- The exponent the beater takes for a block (R105). -/
def Heddle.expOf (h : Heddle) (d j : Nat) : Nat := if h.usedBlock d j then h.exp d j else h.eWmin

/-! ## Activation and outlier records -/

/-- Size of an activation block record at width `w` (R88). -/
def actSize (w : Nat) : Nat := if w = 8 then 128 else 64

/-- An activation block: 64 integers, exponent, status, removed mask. -/
structure ActBlock where
  elems : List Int
  exp : Nat
  status : Nat
  removed : Nat
deriving DecidableEq, Repr

/-- Tables 3.4 and 3.5. -/
def parseAct (w : Nat) (r : Bytes) : ActBlock :=
  if w = 8 then
    ⟨(List.range 64).map (fun i => signed 8 (byteAt r i)), byteAt r 0x40, byteAt r 0x41, le r 0x48 8⟩
  else
    ⟨(List.range 64).map (fun i => signed 4 (byteAt r (i / 2) / (if i % 2 = 0 then 1 else 16))), byteAt r 0x20,
      byteAt r 0x21, le r 0x28 8⟩

def actBytes (w : Nat) (b : ActBlock) : Bytes :=
  if w = 8 then
    b.elems.flatMap (fun x => toLe 1 (unsigned 8 x)) ++ toLe 1 b.exp ++ toLe 1 b.status ++ toLe 6 0 ++ toLe 8 b.removed ++
      toLe 0x30 0
  else
    (List.range 32).flatMap (fun i => toLe 1 (unsigned 4 (b.elems.getD (2 * i) 0) + 16 * unsigned 4 (b.elems.getD (2 * i + 1) 0))) ++
      toLe 1 b.exp ++ toLe 1 b.status ++ toLe 6 0 ++ toLe 8 b.removed ++ toLe 0x10 0

/-- The `n` activation records at the start of `bs`. -/
def parseActs (w : Nat) : Nat → Bytes → List ActBlock
  | 0, _ => []
  | n + 1, bs => parseAct w (bs.take (actSize w)) :: parseActs w n (bs.drop (actSize w))

/-- E_min: the smallest exponent of a vector (R86). -/
def eMinOf (bs : List ActBlock) : Nat :=
  match bs with
  | [] => 0
  | b :: t => t.foldl (fun m x => min m x.exp) b.exp

/-- An outlier (Table 3.6). -/
structure Outlier where
  channel : Nat
  value : Int
  exp : Nat
deriving DecidableEq, Repr

/-- The used outlier records among the `n` at the start of `bs`. -/
def parseOutliers : Nat → Bytes → List Outlier
  | 0, _ => []
  | n + 1, bs =>
    let rest := parseOutliers n (bs.drop 8)
    if bitOf (byteAt bs 5) 0 then ⟨le bs 0 2, signed 16 (le bs 2 2), byteAt bs 4⟩ :: rest else rest

def outlierBytes (o : Outlier) : Bytes :=
  toLe 2 o.channel ++ toLe 2 (unsigned 16 o.value) ++ toLe 1 o.exp ++ [1] ++ toLe 2 0

/-! ## Reduction words -/

/-- A reduction word (Table 4.2). -/
structure RedWord where
  val : Int
  res : Nat
  fail : Bool
deriving DecidableEq, Repr

/-- x mod 7 in 0 to 6 (R114). -/
def mod7 (x : Int) : Nat := (x % 7).toNat

/-- An integer of the main datapath with the residue that the narrow datapath maintains for it (R114, R115). -/
structure Resd where
  val : Int
  res : Nat
deriving DecidableEq, Repr

/-- An integer whose residue comes from a lookup. -/
def Resd.of (v : Int) : Resd := ⟨v, mod7 v⟩
/-- A check of R114: the residue agrees with the value's own bits. -/
def Resd.ok (x : Resd) : Bool := x.res == mod7 x.val
def Resd.add (x y : Resd) : Resd := ⟨x.val + y.val, (x.res + y.res) % 7⟩
def Resd.neg (x : Resd) : Resd := ⟨-x.val, (7 - x.res) % 7⟩
def Resd.mul (x y : Resd) : Resd := ⟨x.val * y.val, x.res * y.res % 7⟩
/-- A left shift by `k` multiplies the residue by 1, 2 or 4. -/
def Resd.shl (x : Resd) (k : Nat) : Resd := ⟨x.val * 2 ^ k, x.res * 2 ^ (k % 3) % 7⟩
def Resd.sum (l : List Resd) : Resd := l.foldl Resd.add ⟨0, 0⟩
/-- What stands at a place of an integer datapath once the faults of a step have struck it. -/
def Resd.struck (ups : List Upset) (p : IntPlace) (x : Resd) : Resd :=
  match ups.findSome? (fun u => match u with
    | .fault q v r => if q = p then some (Resd.mk v (r.val % 7)) else none
    | _ => none) with
  | some y => y
  | none => x

def parseRed (v : Nat) : RedWord := ⟨signed 56 v, fld v 56 3, bitOf v 59⟩
def redBytes (w : RedWord) : Bytes := toLe 8 (unsigned 56 w.val + w.res * 2 ^ 56 + b2n w.fail * 2 ^ 59)
def redBad (w : RedWord) : Bool := w.res != mod7 w.val
/-- The operand of an integer, with its residue. -/
def redOf (v : Int) : RedWord := ⟨v, mod7 v, false⟩
/-- The operand that a drain forms. -/
def Resd.operand (x : Resd) : RedWord := ⟨x.val, x.res, false⟩

/-- R110: both residues checked, 56-bit sum, residue sum mod 7, failures ORed. -/
def redAdd (old op : RedWord) : RedWord :=
  let v := signed 56 (unsigned 56 (old.val + op.val))
  let r := (old.res + op.res) % 7
  ⟨v, r, old.fail || op.fail || redBad op || r != mod7 v⟩

/-- R113: STORE replaces the word; its residue is checked first. -/
def redStore (op : RedWord) : RedWord := { op with fail := op.fail || redBad op }

def State.redWord (s : State) (a : Nat) : RedWord := parseRed (s.readLe a 8)
/-- Add or store one operand at `a`, indivisibly; the block's tally keeps its error (R257). -/
def State.redPut (s : State) (store : Bool) (a : Nat) (op : RedWord) : State :=
  s.write a (redBytes (if store then redStore op else redAdd (s.redWord a) op))

/-! ## Pattern copies (R240) -/

def patternAddr (g : Nat) : Nat := patternBase + g * 0x9000
def State.patternRow (s : State) (g r : Nat) : Nat := leNat (s.read (patternAddr g + 0x40 + 64 * r) 64)
def State.patternExps (s : State) (g d : Nat) : Bytes := s.read (patternAddr g + 0x40 + 32768 + 32 * d) 32

end Sys2Proof.Machine
end

