-- ==== Sys2Proof/Machine/Blocks.lean ====
section
/-! DEFINITION. Parameter blocks (Tables 6.8 to 6.10, 8.5 and those of SAMPLE and EMIT) and the memory that a step names by its
record and its block. -/

namespace Sys2Proof.Machine

/-! ## MVM, MEND, FULL -/

/-- Parameters of MVM and MEND (Table 6.8). -/
def mvmLayer (p : Bytes) : Nat := le p 0 2
def mvmTensor (p : Bytes) : Nat := le p 2 2
def mvmBank (p : Bytes) : Nat := fld (byteAt p 4) 0 1
def mvmOpmode (p : Bytes) : Nat := fld (byteAt p 4) 1 2
def mvmWref (p : Bytes) : Nat := byteAt p 5
def mendHarness (p : Bytes) : Nat := le p 6 2
def mvmHeddles (p : Bytes) : Nat := le p 8 8

/-- Parameters of FULL (Table 6.9). -/
def fullFn (p : Bytes) : Nat := byteAt p 0
def fullGlu (p : Bytes) : Nat := byteAt p 1
def fullLayer (p : Bytes) : Nat := le p 2 2
def fullTensor (p : Bytes) : Nat := le p 4 2
def fullWref (p : Bytes) : Nat := byteAt p 6
def fullN (p : Bytes) : Nat := le p 8 4
def fullEps (p : Bytes) : F32 := BitVec.ofNat 32 (le p 0xC 4)
def fullAux1 (p : Bytes) : Nat := le p 0x10 8
def fullAux2 (p : Bytes) : Nat := le p 0x18 8

/-- The ranges a FULL step reads: main input, AUX1, AUX2 (Table 6.9). -/
def fullReads (r p : Bytes) (src : Nat) : List (Nat × Nat) :=
  let n := fullN p
  let a1 := addrLocal (fullAux1 p)
  let a2 := addrLocal (fullAux2 p)
  let f := fullFn p
  if f = 1 then
    [(a1, layChannels r (fullLayer p) / 64 * actSize (layActWidth r (fullLayer p))), (src, 8 * n)]
  else if f = 2 ∨ f = 3 ∨ f = 10 then [(src, 4 * n), (a1, 4 * n)]
  else if f = 4 then [(src, 4 * n), (a1, 4 * n), (a2, 4 * n)]
  else if f = 11 then [(src, 4 * n), (a1, 2 * n)]
  else [(src, 4 * n)]

/-! ## ATTN (Table 6.10) -/

/-- The parameter block of an attention step, parsed. -/
structure AttnParam where
  latent : Bool
  kvHeads : Nat
  g : Nat
  keyWidth : Nat
  headroom : Nat
  keySpan : Nat
  valSpan : Nat
  qSpan : Nat
  spec : Bool
  partials : Nat
  dim : Nat
  rope : Nat
  smScale : F32
  window : Nat
  layer : Nat
  firstKv : Nat
  setKv : Nat
  segFirst : Nat
  segCount : Nat
  leadLoom : Nat
  rank : Nat
  merge : Nat
  mask : Nat
  wUk : Nat
  wUv : Nat
deriving DecidableEq, Repr

def parseAttn (p : Bytes) : AttnParam :=
  { latent := byteAt p 0 == 1, kvHeads := byteAt p 1, g := byteAt p 2, keyWidth := byteAt p 3, headroom := byteAt p 4
    keySpan := fld (byteAt p 5) 0 4, valSpan := fld (byteAt p 5) 4 4, qSpan := fld (byteAt p 6) 0 4, spec := bitOf (byteAt p 6) 4
    partials := byteAt p 7, dim := le p 8 2, rope := le p 0xA 2, smScale := BitVec.ofNat 32 (le p 0xC 4)
    window := le p 0x10 4, layer := le p 0x14 2, firstKv := byteAt p 0x16, setKv := byteAt p 0x17, segFirst := le p 0x18 4
    segCount := le p 0x1C 2, leadLoom := byteAt p 0x1E, rank := byteAt p 0x1F, merge := le p 0x20 8, mask := le p 0x28 8, wUk := le p 0x30 8
    wUv := le p 0x38 8 }

/-- Query heads of the head set. -/
def AttnParam.heads (a : AttnParam) : Nat := if a.latent then a.g else a.setKv * a.g
/-- Value channels of a partial: d, or r in latent mode. -/
def AttnParam.vdim (a : AttnParam) : Nat := a.dim

/-! ## SAMPLE, EMIT, BATCH -/

def sampleVocab (p : Bytes) : Nat := le p 0 4
def samplePositions (p : Bytes) : Nat := byteAt p 4
def sampleProposer (p : Bytes) : Bool := bitOf (byteAt p 5) 0
def sampleWref (p : Bytes) : Nat := byteAt p 6
def sampleLayer (p : Bytes) : Nat := le p 8 2
def sampleTensor (p : Bytes) : Nat := le p 0xA 2
def sampleAct (p : Bytes) : Nat := le p 0x10 8

def emitMain (p : Bytes) : Nat := le p 0 8
def emitProp (p : Bytes) : Nat := le p 8 8
def emitW (p : Bytes) : Nat := byteAt p 0x10

def batchFirst (p : Bytes) : Nat := le p 0 2
def batchCount (p : Bytes) : Nat := le p 2 2
def batchSpecW (p : Bytes) : Nat := byteAt p 4
def batchChunk (p : Bytes) : Nat := le p 6 2

/-- The parameter block of the BATCH step that covers slot `k`, zeros when none does. -/
def batchParam (img : Bytes) (k : Nat) : Bytes :=
  match ((planList img 4).map (·.2)).find? (fun st =>
      let p := stepParam img st 16
      st.kind == 0xB && decide (batchFirst p ≤ k ∧ k < batchFirst p + batchCount p)) with
  | some st => stepParam img st 16
  | none => List.replicate 16 0

/-! ## Memory -/

/-- Bytes of the activation records of a layer. -/
def recordsLen (r : Bytes) (layer : Nat) : Nat := layChannels r layer / 64 * actSize (layActWidth r layer)

/-- Elements of one row at SRC of an attention step: the queries of its head set, then the row to append. -/
def attnRowLen (r : Bytes) (aux : List AuxTensor) (a : AttnParam) : Nat :=
  if a.latent then
    let cols := ((aux.find? (fun t => t.copies.contains (addrLocal a.wUk))).map (fun t => tenCols r t.tensor)).getD 0
    a.g * (cols / max a.g 1 + a.rope) + a.dim + a.rope
  else a.heads * a.dim + 2 * a.setKv * a.dim

/-- Plan addresses that a step names, with their lengths in bytes, and whether each may lie on another place: of an MVM over
heddles whose columns end at `cols`, of a step that serves at most `pos` positions. -/
def namedMemory (img r : Bytes) (aux : List AuxTensor) (cols pos : Nat) (st : PlanStep) : List (Nat × Nat × Bool) :=
  let common := (if st.waitCount = 0 then [] else [(st.wait, 8, false)]) ++ [(st.set, 8, true)]
  let own : List (Nat × Nat × Bool) :=
    match st.kind with
    | 1 => [(st.src, recordsLen r (mvmLayer (stepParam img st 16)), false), (st.dst, 8 * cols, false)]
    | 2 => [(st.src, 8 * max 1 (laySlots r (mvmLayer (stepParam img st 16))), false)]
    | 3 =>
      let p := stepParam img st 32
      let n := fullN p
      let f := fullFn p
      let out := if f = 12 then recordsLen r (fullLayer p) + 8 * laySlots r (fullLayer p) else 4 * n
      let aux1 := if f = 1 then recordsLen r (fullLayer p) else if f = 11 then 2 * n else 4 * n
      [(st.src, if f = 1 then 8 * n else 4 * n, false), (st.dst, out, false), (fullAux1 p, aux1, false), (fullAux2 p, 4 * n, false)]
    | 4 =>
      let a := parseAttn (stepParam img st 64)
      let part := roundUp (4 * a.heads * pos * (a.vdim + 2)) 64
      let tensor (x : Nat) : Nat × Nat × Bool :=
        (x, ((aux.find? (fun t => t.copies.contains (addrLocal x))).map (·.length)).getD 1, false)
      [(st.src, 4 * pos * attnRowLen r aux a, false), (st.dst, 4 * pos * a.heads * a.dim, false), (a.merge, part * a.partials, false),
        (a.mask, 64 * (a.segFirst + a.segCount), false), tensor a.wUk, tensor a.wUv]
    | 5 => [(st.src, st.length, false), (st.dst, st.length, true)]
    | 6 => [(st.src, st.length, true), (st.dst, st.length, false)]
    | 7 => [(st.src, st.length, false), (st.dst, st.length, true)]
    | 0xC =>
      let p := stepParam img st 32
      [(st.src, 8 * sampleVocab p * samplePositions p, false), (st.dst, 4 * samplePositions p, false),
        (sampleAct p, recordsLen r (sampleLayer p), false)]
    | 0xD =>
      let p := stepParam img st 32
      [(emitMain p, 4 * emitW p, false), (emitProp p, 4 * emitW p, false)]
    | _ => []
  (common ++ own).filter (fun m => m.1 != 0)

end Sys2Proof.Machine
end

