-- ==== Sys2Proof/Machine/Rings.lean ====
section
/-! DEFINITION. Stream map entries (R128), completion records and their placement in ring or spill area (R195, R196,
R211, R212), ring vectors (R328), the end of a request and its bookkeeping (R198). -/

namespace Sys2Proof.Machine

/-! ## Stream map -/

/-- Address of the stream map entry of stream `t` (R128). -/
def State.smapAddr (s : State) (t : Nat) : Nat := s.kvt.smapBase + 16 * t
def State.smapPtBase (s : State) (t : Nat) : Nat := fld (s.readLe (s.smapAddr t) 4) 0 21
def State.smapPages (s : State) (t : Nat) : Nat := s.readLe (s.smapAddr t + 4) 2
def State.smapCtx (s : State) (t : Nat) : Nat := s.readLe (s.smapAddr t + 6) 1
def State.smapValid (s : State) (t : Nat) : Bool := bitOf (s.readLe (s.smapAddr t + 7) 1) 0
/-- The stream's COMMIT. -/
def State.commitOf (s : State) (t : Nat) : Nat := s.readLe (s.smapAddr t + 8) 4
/-- Write COMMIT of stream `t` (R202); the entry lies in one block, whose tally keeps its error (R257). -/
def State.setCommit (s : State) (t v : Nat) : State := s.write (s.smapAddr t + 8) (toLe 4 v)

/-! ## Rings -/

/-- The host cannot be reached: hub function 6 is fenced, resetting or retired (Table 11.3). -/
def State.hostDown (s : State) : Bool := (s.domain 0xA 6).phase != 0 || (s.domain 0xA 6).retired

/-- Requests of ring `r` that hold a reserved spill entry: admitted and not Done (R212). -/
def State.admittedOf (s : State) (r : Nat) : List Request :=
  s.srv.reqs.filter (fun q => q.ring == r && (q.state == 1 || q.state == 2 || q.state == 3))
def State.pendingOf (s : State) (r : Nat) : List Request :=
  s.srv.reqs.filter (fun q => q.ring == r && q.state == 0)

/-- The free entries of the completion ring that a record may go to: none while records wait in the spill area or the host cannot be
reached. -/
def State.ringFree (s : State) (r : Nat) : Nat :=
  let g := s.ring r
  if g.spilled.isEmpty && !s.hostDown then 2 ^ g.n - g.unread else 0
/-- Free spill entries that no admitted request has reserved, the records of this pick that will spill apart. -/
def State.spillLeft (s : State) (r : Nat) : Nat :=
  let g := s.ring r
  g.spillEntries - g.spilled.length - (s.admittedOf r).length - (g.fresh.length - s.ringFree r)

/-- Free completion entries plus free spill entries that no admitted request has reserved (R212). -/
def State.room (s : State) (r : Nat) : Nat :=
  let g := s.ring r
  (2 ^ g.n - g.unread) + (g.spillEntries - g.spilled.length - (s.admittedOf r).length) - g.fresh.length

/-- The spill area has an entry that no admitted request has reserved (R200 condition 8). -/
def State.spillFree (s : State) (r : Nat) : Bool := decide (0 < s.spillLeft r)

/-- The 32 bytes of a completion record (Table 8.2), PHASE clear. -/
def recordBytes (tag status flags stream token check position index pick : Nat) : Bytes :=
  toLe 4 tag ++ toLe 1 status ++ toLe 1 flags ++ toLe 2 stream ++ toLe 4 token ++ toLe 4 check ++ toLe 4 position ++
    toLe 4 index ++ toLe 8 pick

/-- The record with its PHASE bit set to `p`. -/
def withPhase (p : Bool) (bs : Bytes) : Bytes :=
  bs.set 5 (BitVec.ofNat 8 (byteAt bs 5 + 2 * b2n p))

/-- Send ring vector 17 + (r mod 2,031), at most once per 256 picks (R328). -/
def State.ringVector (s : State) (r : Nat) : State :=
  let v := 17 + r % 2031
  let last := Tab.getD 0 s.srv.msixPick v
  if last != 0 && decide (s.clk.elapsed + 1 < last + 256) then s
  else ({ s with srv := { s.srv with msixPick := Tab.put 0 s.srv.msixPick v (s.clk.elapsed + 1) } }).emit (.msix v)

/-- Put a record at the ring's tail (R196). -/
def State.ringPut (s : State) (r : Nat) (bs : Bytes) : State :=
  let g := s.ring r
  let next := (g.cqTail + 1) % 2 ^ g.n
  ((s.modRing r fun g =>
      { g with cqTail := next, unread := g.unread + 1, phase := if next = 0 then !g.phase else g.phase }).emit
    (.hostWrite (s.hostLink (g.cqAddr + 32 * g.cqTail)) (g.cqAddr + 32 * g.cqTail) (withPhase g.phase bs))).ringVector r

/-- Put a record into the spill area, behind those that wait there. -/
def State.spillPut (s : State) (r : Nat) (bs : Bytes) : State :=
  let g := s.ring r
  (s.write (g.spillAddr + 32 * g.spillNext) bs).modRing r fun g =>
    { g with spilled := g.spilled ++ [bs], spillNext := (g.spillNext + 1) % max g.spillEntries 1 }

/-- Place a record: in the ring, or in the spill area when the ring is full, records wait there already, or the host cannot be
reached (R212). -/
def State.placeRecord (s : State) (r : Nat) (bs : Bytes) : State :=
  if 0 < s.ringFree r then s.ringPut r bs else s.spillPut r bs

/-- The end of a pick: its records enter the ring in the order of R196. -/
def State.flushRing (s : State) (r : Nat) : State :=
  let l := sortBy (fun x y => decide (x.order ≤ y.order)) (s.ring r).fresh
  State.each l (fun s x => s.placeRecord r x.bytes) (s.modRing r fun g => { g with fresh := [] })

/-- Every ring with records of the pick that ends. -/
def State.flushRings (s : State) : State :=
  State.each ((s.srv.rings.filter (fun e => !e.2.fresh.isEmpty)).map (·.1)) State.flushRing s

/-- Write a record of this pick on ring `r` (R211). -/
def State.putRecord (s : State) (r order : Nat) (cancels : Option Nat) (bs : Bytes) : State :=
  if (s.ring r).up then s.modRing r fun g => { g with fresh := g.fresh ++ [⟨order, cancels, bs⟩] } else s

/-- The place of a request's record among those of a pick: by slot, then by INDEX; one that holds no slot comes last. A cancel's own
record, of place 0, comes before all of them (R196). -/
def recordPlace (q : Request) (index : Nat) : Nat := 1 + (if q.state = 0 then 4096 else q.slot) * 2 ^ 33 + index

/-- Move the spilled records that fit into the ring, oldest first (R212). -/
def unspill (r : Nat) : Nat → State → State
  | 0, s => s
  | k + 1, s =>
    let g := s.ring r
    match g.spilled with
    | [] => s
    | b :: t => if decide (g.unread < 2 ^ g.n) && !s.hostDown
        then unspill r k ((s.modRing r fun g => { g with spilled := t }).ringPut r b) else s

/-! ## Requests -/

def State.request (s : State) (id : Nat) : Option Request := s.srv.reqs.find? (fun q => q.id == id)
def State.modRequest (s : State) (id : Nat) (f : Request → Request) : State :=
  { s with srv := { s.srv with reqs := s.srv.reqs.map (fun q => if q.id = id then f q else q) } }
/-- The request whose slot is slot `k` of context `c`, not Done. -/
def State.slotReq (s : State) (c k : Nat) : Option Request :=
  match (s.batch c k).req with
  | none => none
  | some id => (s.request id).bind (fun q => if q.state == 4 then none else some q)

/-- POSITION of a record without a token: the stream's COMMIT, 0 when the stream is not open (R195). -/
def State.barePosition (s : State) (t : Nat) : Nat := if (s.stream t).opened then s.commitOf t else 0

/-- The record at a byte offset with another status. -/
def withStatus (v : Nat) (bs : Bytes) : Bytes := bs.set 4 (BitVec.ofNat 8 v)

/-- The final record of request `id` is written in this pick: a cancel accepted in it was too late (R213, Table 8.9). -/
def State.lateCancels (s : State) (id : Nat) : State :=
  let late (x : FreshRecord) : FreshRecord := if x.cancels = some id then { x with bytes := withStatus 0x12 x.bytes } else x
  { s with srv := { s.srv with rings := Tab.mapAll {} (fun _ g => { g with fresh := g.fresh.map late }) s.srv.rings } }

/-- Write a FINAL record without a token at pick `p` and take the request to Done (R197, R198). A Done request leaves
the request table; its batch slot keeps its number until the slot is released. -/
def State.finish (s : State) (q : Request) (status p : Nat) : State :=
  let s := (s.lateCancels q.id).putRecord q.ring (recordPlace q q.emitted) none
    (recordBytes q.tag status 1 q.stream max32 0 (s.barePosition q.stream) q.emitted p)
  s.modRequest q.id fun q => { q with state := 4, finalPick := some p }

/-- A Done request whose slot has been released, or that never had one, leaves the request table. -/
def State.prune (s : State) : State :=
  let keep (q : Request) : Bool := q.state != 4 || (s.batch q.ctx q.slot).req == some q.id
  { s with srv := { s.srv with reqs := s.srv.reqs.filter keep } }

/-- A balance after a refill: never above CAP by it, and one at or above CAP stays (R203). -/
def Tenant.refill (x : Tenant) : Tenant :=
  if x.bal < (x.cap : Int) then { x with bal := min (x.bal + x.rate) x.cap } else x

/-- A window's charge to a tenant in elapsed pick `now`, saturating at -2^31 (R203, R204). A refill of the same pick comes after it,
and a value that a write of ADM_TEN_BAL has put there in this pick stands (Table 8.18). -/
def Tenant.charged (x : Tenant) (n now : Nat) : Tenant :=
  let less (b : Int) : Int := max (b - n) (-(2 ^ 31 : Int))
  if x.writtenAt = some now then x
  else match x.beforeRefill with
    | some (p, b) =>
      if p = now then { ({ x with bal := less b } : Tenant).refill with beforeRefill := some (p, less b) }
      else { x with bal := less x.bal }
    | none => { x with bal := less x.bal }
def State.charge (s : State) (t n : Nat) : State := s.modTenant t fun x => x.charged n s.clk.elapsed

end Sys2Proof.Machine
end

