-- ==== Sys2Proof/Machine/Knots.lean ====
section
/-! DEFINITION. Trace and tag buffers (R417), knots and what waits on them (R152), knot-event records (R420, R421),
publication of KV pages (R132, R39). -/

namespace Sys2Proof.Machine

/-! ## Buffers -/

/-- Place one record: a record never straddles the end, a full buffer drops it (R417). The new buffer, the address to
write at, and the zero bytes that fill an unused tail. -/
def Buffer.place (b : Buffer) (n now : Nat) : Buffer × Option (Nat × Option (Nat × Nat)) :=
  let size := b.blocks * 4096
  let dropped := { b with drop := satAdd max32 b.drop 1, full := b.full || !b.wrap
                          setAt := if b.wrap then b.setAt else note b.setAt 1 now }
  if size < n then (dropped, none)
  else if b.wptr + n ≤ size then
    let w := b.wptr + n
    if b.full && !b.wrap then (dropped, none)
    else ({ b with wptr := if w = size ∧ b.wrap then 0 else w, seq := b.seq + 1 }, some (b.base + b.wptr, none))
  else if b.wrap then
    ({ b with wptr := if n = size then 0 else n, seq := b.seq + 1 },
      some (b.base, some (b.base + b.wptr, size - b.wptr)))
  else (dropped, none)

/-- The write of a placed record, and of the zeros that fill an unused tail. -/
def State.placeWrite (s : State) (at? : Option (Nat × Option (Nat × Nat))) (bs : Bytes) : State :=
  match at? with
  | none => s
  | some (a, none) => s.write a bs
  | some (a, some (z, n)) => (s.write z (List.replicate n 0)).write a bs

/-- Append a record to the trace buffer. -/
def State.traceRecord (s : State) (bs : Bytes) : State :=
  let (b, w) := s.obs.trcBuf.place bs.length s.clk.elapsed
  ({ s with obs := { s.obs with trcBuf := b } }).placeWrite w bs

/-- Append a record to the tag buffer. -/
def State.tagRecord (s : State) (bs : Bytes) : State :=
  let (b, w) := s.obs.tagBuf.place bs.length s.clk.elapsed
  ({ s with obs := { s.obs with tagBuf := b } }).placeWrite w bs

/-! ## Knot events -/

/-- A knot's count. -/
def State.knot (s : State) (a : Nat) : Nat := s.readLe a 8

/-- Knot events are recorded, and the context filter admits knot `a` (R420). -/
def State.tracesKnot (s : State) (a : Nat) : Bool :=
  s.obs.trcBuf.on && s.obs.trcMode == 2 &&
    (!s.obs.trcCtxF || (regionOf (s.image s.obs.trcCtx) a 8).isSome)

/-- A knot event record (Table 15.6). -/
def knotRecord (event list place step pick knot path count : Nat) : Bytes :=
  toLe 1 event ++ toLe 1 list ++ toLe 2 place ++ toLe 4 step ++ toLe 8 pick ++ toLe 6 knot ++ toLe 2 path ++ toLe 8 count

/-- Who makes a set: a local step, or an operation that arrived from a place on a path. -/
inductive Setter where
  | step (list idx : Nat)
  | arrived (place path : Nat)
deriving DecidableEq, Repr

/-- The threshold of a step's wait in iteration `n` (R152): WAIT_COUNT × (r + 1), where r = n div EVERY is the number
of its runs since launch before this one. -/
def waitThreshold (st : PlanStep) (n : Nat) : Nat := st.waitCount * (n / max st.every 1 + 1)

/-- The step's wait is satisfied; a step without a wait is never delayed by one. -/
def State.waitMet (s : State) (st : PlanStep) (n : Nat) : Bool :=
  st.waitCount == 0 || decide (waitThreshold st n ≤ s.knot (addrLocal st.wait))

/-- The sets of knot `a` so far, newest first: count after, pick, place. -/
def State.knotSets (s : State) (a : Nat) : List (Nat × Nat × Nat) := Tab.getD [] s.obs.knotLog a

/-- Pick at which the knot first reached `t`, if the record of its sets shows it. -/
def State.knotReached (s : State) (a t : Nat) : Option Nat :=
  ((s.knotSets a).reverse.find? (fun e => decide (t ≤ e.1))).map (fun e => e.2.1)

/-- Record a satisfied wait (EVENT 3): the place of the latest set that reaches the threshold. -/
def State.traceWait (s : State) (list idx : Nat) (st : PlanStep) (n : Nat) : State :=
  let a := addrLocal st.wait
  if st.waitCount != 0 && s.tracesKnot a then
    let t := waitThreshold st n
    let pl := ((s.knotSets a).find? (fun e => decide (t ≤ e.1))).map (·.2.2)
    s.traceRecord (knotRecord 3 list (pl.getD s.place) idx s.clk.pick a 0xFFFF t)
  else s

/-- Waits that the set of knot `a` has just satisfied: note the pick and record the event. -/
def State.wake (s : State) (a : Nat) : State :=
  let noted (d : Due) : Bool :=
    let st := planStep (s.image d.ctx) d.list d.idx
    !d.void && d.knotAt.isNone && st.waitCount != 0 && addrLocal st.wait == a && s.waitMet st d.iter
  let hits := s.sched.due.filter noted
  let s := State.each hits (fun s d => s.traceWait d.list d.idx (planStep (s.image d.ctx) d.list d.idx) d.iter) s
  { s with sched := { s.sched with
    due := s.sched.due.map (fun d => if noted d then { d with knotAt := some s.clk.pick } else d) } }

/-! ## Page-table entries -/

def State.ptAddr (s : State) (i : Nat) : Nat := s.kvt.tableBase + 16 * i
def State.ptEntry (s : State) (i : Nat) : Bytes := s.read (s.ptAddr i) 16
def ptValid (e : Bytes) : Bool := bitOf (byteAt e 0) 0
def ptPublished (e : Bytes) : Bool := bitOf (byteAt e 0) 1
def ptShared (e : Bytes) : Bool := bitOf (byteAt e 0) 2
def ptCtx (e : Bytes) : Nat := byteAt e 1
def ptFill (e : Bytes) : Nat := fld (le e 2 2) 0 9
def ptFrame (e : Bytes) : Nat := fld (le e 4 5) 0 36 * 4096
def ptLayer (e : Bytes) : Nat := fld (le e 9 2) 0 14
def ptStream (e : Bytes) : Nat := le e 11 2
def ptPage (e : Bytes) : Nat := le e 13 2
/-- The 16 bytes of an entry (Table 5.7). -/
def ptBytes (valid published shared : Bool) (ctx fill frame layer stream page : Nat) : Bytes :=
  toLe 1 (b2n valid + 2 * b2n published + 4 * b2n shared) ++ toLe 1 ctx ++ toLe 2 fill ++ toLe 5 (frame / 4096 % 2 ^ 36) ++
    toLe 2 (layer % 2 ^ 14) ++ toLe 2 stream ++ toLe 2 page ++ [0]

/-- Index of page `n` of attention layer `a` of stream `t` (R129). -/
def State.ptIndex (s : State) (t a n : Nat) : Nat := s.smapPtBase t + a * s.smapPages t + n
/-- The 16 bytes of a stream map entry (Table 5.6). -/
def smapBytes (ptBase pages ctx commit : Nat) (valid : Bool) : Bytes :=
  toLe 4 (ptBase % 2 ^ 21) ++ toLe 2 pages ++ toLe 1 ctx ++ toLe 1 (b2n valid) ++ toLe 4 commit ++ toLe 4 0

/-- Bytes of one frame of context `c`'s arena, 0 without an arena (Table 5.18). -/
def State.frameSize (s : State) (c : Nat) : Nat := if (s.arena c).frames = 0 then 0 else (s.arena c).frameBlk * 4096
def State.inArena (s : State) (c a n : Nat) : Bool :=
  s.frameSize c != 0 && inside a n (s.arena c).base ((s.arena c).frames * s.frameSize c)
/-- The blocks of the frame that entry `i` maps. -/
def State.frameBlocks (s : State) (i : Nat) : List Nat :=
  let e := s.ptEntry i
  blocksOf (ptFrame e) (s.frameSize (ptCtx e))

/-! ## Publication -/

/-- Every byte of block `k` has arrived and its tally is clean (R39). -/
def State.blockArrived (s : State) (k : Nat) : Bool := Tab.getD 0 s.kvt.arrived k == 2 ^ 4096 - 1 && s.blockErr k == 0

/-- What has arrived of the blocks counts no longer. -/
def State.forgetArrived (s : State) (blocks : List Nat) : State :=
  { s with kvt := { s.kvt with arrived := s.kvt.arrived.filter (fun e => !blocks.contains e.1) } }

/-- Set PUBLISHED of page-table entry `i` (R132). -/
def State.publish (s : State) (i : Nat) : State :=
  (s.write (s.ptAddr i) (toLe 1 ((s.readLe (s.ptAddr i) 1) ||| 2))).forgetArrived (s.frameBlocks i)

/-- Publish the waiting entries whose knot is set and whose blocks have all arrived clean. -/
def State.publishReady (s : State) : State :=
  let ready (e : Nat × Nat × Bool) : Bool := e.2.2 && (s.frameBlocks e.1).all s.blockArrived
  let go := s.kvt.unpublished.filter ready
  let s := { s with kvt := { s.kvt with unpublished := s.kvt.unpublished.filter (fun e => !ready e) } }
  State.each go (fun s e => s.publish e.1) s

/-- Note that knot `a` is set for pages that wait on it. -/
def State.publishKnot (s : State) (a : Nat) : State :=
  let hit (e : Nat × Nat × Bool) : Nat × Nat × Bool := if e.2.1 = a then (e.1, e.2.1, true) else e
  ({ s with kvt := { s.kvt with unpublished := s.kvt.unpublished.map hit } }).publishReady

/-- The bits of the bytes that [a, a+n) has in block `k`. -/
def coverage (a n k : Nat) : Nat :=
  let lo := max a (k * 4096)
  let hi := min (a + n) (k * 4096 + 4096)
  (2 ^ (hi - lo) - 1) * 2 ^ (lo - k * 4096)

/-- Note the bytes [a, a+n) that a put has written in a KV arena (R39, R132). -/
def State.arrived (s : State) (a n : Nat) : State :=
  let mine := (blocksOf a n).filter (fun k => (s.kvt.arenas.map (·.1)).any (fun c => s.inArena c (k * 4096) 4096))
  ({ s with kvt := { s.kvt with
    arrived := mine.foldl (fun t k => Tab.upd 0 t k (fun b => b ||| coverage a n k)) s.kvt.arrived } }).publishReady

/-! ## Setting a knot -/

/-- Add `n` to the knot at `a` indivisibly (R152), with what a set brings about: the event record, the performance
event, the waits it satisfies and the pages it publishes. `ctx` is the setter's context. -/
def State.setKnot (s : State) (a n ctx : Nat) (by_ : Setter) : State :=
  let c := (s.knot a + n) % 2 ^ 64
  let place := match by_ with | .step _ _ => s.place | .arrived p _ => p
  let s := s.write a (toLe 8 c)
  let s := { s with obs := { s.obs with
    knotLog := Tab.upd [] s.obs.knotLog a (fun l => (c, s.clk.pick, place) :: l) } }
  let s := if s.tracesKnot a then
      match by_ with
      | .step l i => s.traceRecord (knotRecord 1 l s.place i s.clk.pick a 0xFFFF c)
      | .arrived p path => s.traceRecord (knotRecord 2 0xFF p max32 s.clk.pick a path c)
    else s
  let s := s.perf 0x19 1 (loomOfAddr a) (some ctx) none
  (s.wake a).publishKnot a

/-- The path code that leads from list `l` to the memory of address `a`: local, a neighbour, or the hub link. -/
def fabricPath (l a : Nat) : Nat :=
  let t := loomOfAddr a
  if l = 4 then 0x012
  else if t = l then 0x01F
  else if l + t = 3 then 0x012
  else
    let lower := if l = 0 then 1 else if l = 3 then 1 else 0
    if t = lower then 0x010 else 0x011

/-- The header bytes 0x00–0x1B of a remote operation (Table 6.2). -/
def opHeader (o : RemoteOp) : Bytes :=
  toLe 1 o.opc ++ toLe 1 o.status ++ toLe 2 o.srcPlace ++ toLe 2 o.dstPlace ++ toLe 1 o.context ++ [0] ++
    toLe 8 o.dstAddr ++ toLe 8 o.srcAddr ++ toLe 4 o.length

/-- The operation with its header tally (R149). -/
def sealOp (o : RemoteOp) : RemoteOp := { o with tally := crc32c (opHeader o) }

/-- The port of context `c`'s plan whose peer is the named place (R169). -/
def State.portTo (s : State) (c place : Nat) : Option Nat :=
  (s.groupPorts c).find? (fun p => Tab.getD 0 (s.port p).planPlace (planGroup (s.image c)) == place + 1)

/-- A step's SET (R152): a knot in this module's own memory is set at once, one on another module by a KNOT_SET over
the step's own port or the port to that place. -/
def State.setOf (s : State) (c l i : Nat) (st : PlanStep) : State :=
  let img := s.image c
  let a := addrLocal st.set
  if st.set = 0 then s
  else if addrPlace st.set = planPlace img then
    (if l < 4 ∧ loomOfAddr a ≠ l then s.setKnot a 1 c (.arrived (planPlace img) (fabricPath l a))
     else s.setKnot a 1 c (.step l i))
  else
    let path := if st.unit ≤ 8 ∧ (st.kind = 5 ∨ st.kind = 6 ∨ st.kind = 7) then 9 * l + st.unit
      else (s.portTo c (addrPlace st.set)).getD 0xFFFF
    ({ s with sched := { s.sched with sets := s.sched.sets ++ [(c, l, i)] } }).issue path (sealOp
      { opc := 5, status := 0, srcPlace := planPlace img, dstPlace := addrPlace st.set, context := c
        dstAddr := a, srcAddr := 0, length := 1, tally := 0, pieces := [] })

end Sys2Proof.Machine
end

