-- ==== Sys2Proof/Machine/Sequencer.lean ====
section
/-! DEFINITION. The sequencers: physical units of a step (R167), steps that fall due, their input handshakes (R29,
R158), void steps (R160, R294), starting and ending a step (R30, R152), tagging (R415, R416) and the always-on
counts (R408, R409). -/

namespace Sys2Proof.Machine

/-! ## Units -/

/-- The physical unit of logical unit `u` of unit kind `k` on loom `l` in context `c` (R167). -/
def State.physUnit (s : State) (c k l u : Nat) : Nat :=
  match (s.ctx c).ctl.unitMap.find? (fun e => e.1 == k && e.2.1 == l && e.2.2.1 == u) with
  | some e => e.2.2.2
  | none => u

/-- The step with its UNIT made physical. -/
def State.physStep (s : State) (c l : Nat) (st : PlanStep) : PlanStep :=
  let u := st.unit
  let unit :=
    if st.kind = 1 ∨ st.kind = 9 then s.physUnit c 1 l u
    else if st.kind = 2 then s.physUnit c 4 l u
    else if st.kind = 3 then s.physUnit c 3 l u
    else if st.kind = 4 then s.physUnit c 2 l u
    else if st.kind = 0xA then
      (if u < 0x500 then 0x100 + s.physUnit c 1 l (u - 0x100)
       else if u < 0x580 then 0x500 + s.physUnit c 2 l (u - 0x500)
       else if u < 0x5A0 then 0x580 + s.physUnit c 3 l (u - 0x580)
       else 0x5A0 + s.physUnit c 4 l (u - 0x5A0))
    else u
  { st with unit := unit }

/-- The step of a plan as its unit runs it. -/
def State.stepAt (s : State) (c l i : Nat) : PlanStep := s.physStep c l (planStep (s.image c) l i)

/-- What a step occupies while it runs: its unit or path; a hub step its function; a RECV step
the inbound side of its port; a KNOT step nothing (R158, R169). -/
def unitKey (l : Nat) (st : PlanStep) : Option Nat :=
  if st.kind = 8 then none else if l = 4 then some (0x2000 + st.kind)
  else if st.kind = 0xE then some (0x3000 + 9 * l + st.unit) else some (stepEngine l st)

/-- The accumulator tiles a step names: heddle and bank (R107, R164). -/
def stepTiles (img : Bytes) (l : Nat) (st : PlanStep) : List (Nat × Nat) :=
  if st.kind = 1 then
    let p := stepParam img st 16
    let heddles := le p 8 8
    ((List.range 64).filter (fun i => bitOf heddles i)).map (fun i => ((l * 1024 + st.unit) * 64 + i, le p 4 1 % 2))
  else if st.kind = 0xA ∧ st.unit < 0x500 then
    let bank := le (stepParam img st 16) 0 1 % 2
    (List.range 64).map (fun i => ((l * 1024 + (st.unit - 0x100)) * 64 + i, bank))
  else []

def State.unitBusy (s : State) (key : Option Nat) : Bool :=
  match key with
  | none => false
  | some k => (decide (k < 4096) && (s.harness k).trimBusy) ||
      s.sched.runs.any (fun r => r.ended.isNone && unitKey r.list (s.stepAt r.ctx r.list r.idx) == some k)

def State.tilesBusy (s : State) (ts : List (Nat × Nat)) : Bool :=
  s.sched.runs.any (fun r => r.ended.isNone && r.tiles.any (fun t => ts.contains t))

/-- The unit is not free for a step due at pick `p`: it runs one, or an earlier step of it has yet to run (R158). -/
def State.unitTaken (s : State) (key : Option Nat) (p : Nat) : Bool :=
  s.unitBusy key || (key.isSome && s.sched.due.any (fun d =>
    !d.void && decide (d.start < p) && unitKey d.list (s.stepAt d.ctx d.list d.idx) == key))

/-! ## Domains of steps -/

/-- The hub function that runs a hub step: BATCH the admission engine, SAMPLE the sampler, EMIT and KNOT the queue
engine (Table 11.3). -/
def hubFunction (kind : Nat) : Nat := if kind = 0xB then 2 else if kind = 0xC then 4 else 1

/-- The domain of the unit of a step (Table 11.1, detector 0x01). -/
def stepDomain (l : Nat) (st : PlanStep) : Nat × Nat :=
  if l = 4 then (0xA, hubFunction st.kind)
  else if st.kind = 1 ∨ st.kind = 9 then (1, l * 1024 + st.unit)
  else if st.kind = 4 then (2, l * 96 + st.unit)
  else if st.kind = 0xA then
    (if st.unit < 0x500 then (1, l * 1024 + (st.unit - 0x100))
     else if st.unit < 0x580 then (2, l * 96 + (st.unit - 0x500)) else (9, l))
  else if (st.kind = 5 ∨ st.kind = 6 ∨ st.kind = 7) ∧ st.unit ≤ 8 then (7, 9 * l + st.unit)
  else if st.kind = 0xE then (7, 9 * l + st.unit)
  else (9, l)

/-- A domain and the larger domains that contain it (Table 11.2). -/
def enclosing (kind idx : Nat) : List (Nat × Nat) :=
  (match kind with
   | 1 => [(1, idx), (8, idx / 128), (9, idx / 1024)]
   | 2 => [(2, idx), (9, idx / 96)]
   | 5 => [(5, idx), (9, idx / 192)]
   | 7 => [(7, idx), (9, idx / 9)]
   | 8 => [(8, idx), (9, idx / 8)]
   | k => [(k, idx)]) ++ (if kind = 0xB then [] else [(0xB, 0)])

/-- A domain, or one that contains it, is fenced, resetting or retired. -/
def State.troubled (s : State) (kind idx : Nat) : Bool :=
  (enclosing kind idx).any (fun d => (s.domain d.1 d.2).phase != 0 || (s.domain d.1 d.2).retired)

/-- The memory that holds `a` is in trouble: its loom, or its HBM channel. -/
def State.memTroubled (s : State) (a : Nat) : Bool :=
  if a < hbmEnd then s.troubled 5 (channelOf a) else s.troubled 9 (loomOfAddr a)

/-- The unit, or a domain that holds it, is on the disabled-unit map. -/
def State.outOfUse (s : State) (kind idx : Nat) : Bool := (enclosing kind idx).any (fun d => s.disabled d.1 d.2)

/-- The step's mending or fuller unit, which has no domain of its own, is on the disabled-unit map. -/
def State.stepDisabled (s : State) (l : Nat) (st : PlanStep) : Bool :=
  decide (l < 4) && ((st.kind == 2 && s.disabled 4 (l * 16 + st.unit)) || (st.kind == 3 && s.disabled 3 (l * 24 + st.unit)))

/-- The domains of the memory at [a, a+n): its HBM channels, or its loom. -/
def memDomains (a n : Nat) : List (Nat × Nat) :=
  if hbmEnd ≤ a then [(9, loomOfAddr a)]
  else (List.range (channelOf (a + max n 1 - 1) - channelOf a + 1)).map (fun i => (5, channelOf a + i))

/-- The ranges of this module's memory that a step names by its record and its parameter block (R294). -/
def State.stepMemory (s : State) (c l : Nat) (st : PlanStep) : List (Nat × Nat) :=
  let img := s.image c
  let p := stepParam img st 16
  let heddles := if st.kind = 1 then (List.range 64).filter (fun i => bitOf (mvmHeddles p) i) else []
  let cols := maxNat 1 (heddles.map (fun i =>
    let h := s.heddle ((l * 1024 + st.unit) * 64 + i)
    h.colFirst + h.colsUsed))
  let bp := batchParam img st.slot
  let named := namedMemory img (s.recipe c) (s.ctx c).cur.aux cols (max 1 (max (batchChunk bp) (batchSpecW bp))) st
  (named.filter (fun m => addrPlace m.1 == planPlace img)).map (fun m => (addrLocal m.1, m.2.1))

/-- The domains that a step names: its unit or the port of its path, the loom that runs it, and the memory it depends on. -/
def State.stepNeeds (s : State) (c l : Nat) (st : PlanStep) : List (Nat × Nat) :=
  stepDomain l st :: ((if l < 4 then [(9, l)] else []) ++ (s.stepMemory c l st).flatMap (fun m => memDomains m.1 m.2))

/-- R294: the step names a domain in trouble, or a unit that is out of use. -/
def State.suppresses (s : State) (c l : Nat) (st : PlanStep) : Bool :=
  (s.stepNeeds c l st).any (fun d => s.troubled d.1 d.2) || s.stepDisabled l st

/-- The step names the domain (kind, idx) itself. -/
def State.stepNames (s : State) (c l : Nat) (st : PlanStep) (kind idx : Nat) : Bool :=
  (s.stepNeeds c l st).any (fun d => (enclosing d.1 d.2).contains (kind, idx))

/-! ## Slots -/

/-- The filled slots of context `c` that a step of SLOT `k` serves: one, or all when it is 0xFFFF (R263). -/
def State.servedSlots (s : State) (c k : Nat) : List Nat :=
  if k = 0xFFFF then ((s.ctx c).slots.map (·.1)).filter (fun i => (s.slotReq c i).isSome)
  else if (s.slotReq c k).isSome then [k] else []

/-- Do `f` to the running attempt's checks of every slot that a step serves. -/
def State.check (s : State) (c k : Nat) (f : Check → Check) : State :=
  State.each (s.servedSlots c k) (fun s i => s.modBatch c i fun b => { b with attempt := f b.attempt }) s

/-- The slot of a step is unfilled at start pick `p`: no request that is not Done, or one whose steps run only from
a later pick (R160, R201). -/
def State.unfilled (s : State) (c : Nat) (st : PlanStep) (p : Nat) : Bool :=
  st.slot != 0xFFFF &&
    (match s.slotReq c st.slot with
     | none => true
     | some q => decide (p < (s.batch c st.slot).firstPick) && q.state != 4)

/-! ## Tagging -/

/-- The next value of a tagging LFSR with polynomial x^32 + x^22 + x^2 + x + 1, in its free form (R415). -/
def lfsrNext (w : Word) : Word :=
  let b (i : Nat) : Bool := w.getLsbD i
  let fed (x : Bool) : Word := if x then 1 else 0
  match Config.lfsrForm % 4 with
  | 0 => (w <<< 1) ||| fed (b 31 ^^ b 21 ^^ b 1 ^^ b 0)
  | 1 => (w >>> 1) ||| (fed (b 0 ^^ b 10 ^^ b 30 ^^ b 31) <<< 31)
  | 2 => (w <<< 1) ^^^ (if b 31 then 0x00400007 else 0)
  | _ => (w >>> 1) ^^^ (if b 0 then 0xE0000200 else 0)

/-- RATE_LOG2 in effect: 4 to 20 (Table 15.8). -/
def State.tagRateEff (s : State) : Nat := max 4 (min 20 s.obs.tagRate)

/-- Advance list `l`'s LFSR for a step started or dropped; whether the step is tagged. -/
def State.tagDraw (s : State) (c l kind : Nat) : Bool × State :=
  if s.obs.tagBuf.on then
    let w := lfsrNext (s.sched.lfsrs.getD l 0)
    let t := { s with sched := { s.sched with lfsrs := s.sched.lfsrs.set l w } }
    ((w.toNat % 2 ^ s.tagRateEff == 0) && (!s.obs.tagCtxF || s.obs.tagCtx == c) &&
      (s.obs.tagKind == 0 || s.obs.tagKind == kind), t)
  else (false, s)

/-- A pick offset as a signed 32-bit field; 0x7FFF_FFFF for an event that did not occur (R416). -/
def ofsField : Option Int → Nat
  | none => 0x7FFFFFFF
  | some i => unsigned 32 i

/-- A tag record (Table 15.3); its SEQ is filled in when it is written. -/
def tagBytes (c l i kind unit iter reason flags planStart : Nat) (knot unitO tile start mid fin ack set : Option Int) :
    Bytes :=
  toLe 1 l ++ toLe 1 kind ++ toLe 2 unit ++ toLe 4 i ++ toLe 4 iter ++ toLe 1 c ++ toLe 1 reason ++ toLe 1 flags ++ [0] ++
    toLe 8 planStart ++ toLe 4 (ofsField knot) ++ toLe 4 (ofsField unitO) ++ toLe 4 (ofsField tile) ++
    toLe 4 (ofsField start) ++ toLe 4 (ofsField mid) ++ toLe 4 (ofsField fin) ++ toLe 4 (ofsField ack) ++
    toLe 4 (ofsField set)

/-- Queue a tag record for the tag buffer. -/
def State.tagQueue (s : State) (bs : Bytes) : State :=
  if s.obs.tagBuf.on then
    { s with obs := { s.obs with tagWaiting := s.obs.tagWaiting ++ [(s.clk.elapsed, bs)] } }
  else s

/-! ## Falling due -/

/-- Start pick and budgeted end pick of a step in iteration `n` (R157). -/
def State.stepStart (s : State) (c : Nat) (st : PlanStep) (n : Nat) : Nat :=
  ((s.ctx c).ctl.launchPick).getD 0 + n * planPeriod (s.image c) + st.start
def State.stepEndPick (s : State) (c : Nat) (st : PlanStep) (n : Nat) : Nat := s.stepStart c st n + st.len

/-- The inputs of a waiting step as they stand: a handshake that is complete now completed at its own last event,
before pick `p`. -/
def State.inputs (s : State) (c l : Nat) (st : PlanStep) (n p : Nat) : Option Nat × Option Nat × Option Nat :=
  let launch := ((s.ctx c).ctl.launchPick).getD 0
  let seen (o : Option Nat) : Nat := min (o.getD launch) (p - 1)
  let tiles := stepTiles (s.image c) l st
  (if s.waitMet st n then
      some (if st.waitCount = 0 then p - 1 else seen (s.knotReached (addrLocal st.wait) (waitThreshold st n)))
    else none,
   if s.unitTaken (unitKey l st) p then none
    else some (seen ((unitKey l st).map (fun k => Tab.getD launch s.sched.unitEnd k))),
   if s.tilesBusy tiles then none
    else some (min (maxNat launch (tiles.map (fun t => Tab.getD launch s.sched.tileEnd (t.1 * 2 + t.2)))) (p - 1)))

/-- A step of context `c` reaches its start pick `p` in iteration `n`. -/
def State.fallDue (s : State) (c l i n p : Nat) : State :=
  let st := s.stepAt c l i
  let stop := s.stepEndPick c st n
  let put (d : Due) (s : State) : State := { s with sched := { s.sched with due := s.sched.due ++ [d] } }
  if s.unfilled c st p then put ⟨c, l, i, n, p, true, stop, none, none, none, 0⟩ s
  else if s.suppresses c l st then
    put ⟨c, l, i, n, p, true, stop, none, none, none, 0⟩
      ((s.tagDraw c l st.kind).2.check c st.slot fun k => { k with suppressed := true })
  else
    let (k, u, t) := s.inputs c l st n p
    let s := put ⟨c, l, i, n, p, false, stop, k, u, t, 0⟩ s
    if k.isSome then s.traceWait l i st n else s

/-- The steps of context `c` that start at pick `p` (R157); none past the stop iteration, none after a cut. -/
def State.dueAt (s : State) (c p : Nat) : State :=
  let k := (s.ctx c).ctl
  let img := s.image c
  match k.launchPick with
  | none => s
  | some lp =>
    let period := planPeriod img
    if k.cut || period == 0 || decide (p < lp) || (k.stopEnd.map (fun e => decide (e ≤ p))).getD false then s
    else
      let n := (p - lp) / period
      let o := (p - lp) % period
      let hits := (planSteps img).filter (fun x =>
        x.2.2.start == o && decide (n % max x.2.2.every 1 = x.2.2.phase))
      State.each hits (fun s x => s.fallDue c x.1 x.2.1 n p) s

/-! ## Void steps -/

/-- A reason of engine `e` is settled for `n` stalled picks: its count has them from the end of the pick (R409, R411). -/
def State.settleReason (s : State) (e reason n : Nat) : State :=
  { s with obs := { s.obs with settled := s.obs.settled ++ [(e, reason, n)] } }

/-- An engine's reason count grows. -/
def Engine.addReason (x : Engine) (reason n : Nat) : Engine :=
  match reason with
  | 1 => { x with rsnKnot := x.rsnKnot + n }
  | 2 => { x with rsnUnit := x.rsnUnit + n }
  | 3 => { x with rsnTile := x.rsnTile + n }
  | _ => { x with rsnVoid := x.rsnVoid + n }

/-- The settled reasons enter their counts. -/
def State.enterReasons (s : State) : State :=
  let s' := State.each s.obs.settled (fun s r => s.modEngine r.1 fun x => x.addReason r.2.1 r.2.2) s
  { s' with obs := { s'.obs with settled := [] } }

/-- Stalled picks of a step that never starts enter the VOID count (R409). -/
def State.voidStalls (s : State) (d : Due) : State :=
  if d.stalls = 0 then s else s.settleReason (stepEngine d.list (s.stepAt d.ctx d.list d.idx)) 4 d.stalls

/-- The record of a tagged step that is dropped (R416). -/
def State.dropTag (s : State) (d : Due) (supp : Bool) : State :=
  let st := s.stepAt d.ctx d.list d.idx
  let (tag, t) := s.tagDraw d.ctx d.list st.kind
  if tag then
    let img := t.image d.ctx
    t.tagQueue (tagBytes d.ctx d.list d.idx st.kind (planStep img d.list d.idx).unit (d.iter % 2 ^ 32) 4
      (2 * b2n supp) d.start (d.knotAt.map (fun (k : Nat) => (k : Int) - d.start))
      (d.unitAt.map (fun (k : Nat) => (k : Int) - d.start))
      (d.tileAt.map (fun (k : Nat) => (k : Int) - d.start)) none none none none none)
  else t

/-- The unit and tile inputs of waiting steps as they now stand (R158): complete once the unit or the tiles are free, open again
when another step has taken them. -/
def State.refresh (s : State) : State :=
  let p := s.clk.pick
  let upd (d : Due) : Due :=
    if d.void then d
    else
      let st := s.stepAt d.ctx d.list d.idx
      let free (taken : Bool) (o : Option Nat) : Option Nat := if taken then none else some (o.getD (p - 1))
      { d with
        unitAt := free (s.unitTaken (unitKey d.list st) d.start) d.unitAt
        tileAt := free (s.tilesBusy (stepTiles (s.image d.ctx) d.list st)) d.tileAt }
  { s with sched := { s.sched with due := s.sched.due.map upd } }

/-- Drop waiting steps that `p` selects: their stalls are VOID; with `supp` they are suppressed (R294): their slots are
marked and their knot is set at the budgeted end pick, or at once if that has passed. -/
def State.dropDue (s : State) (p : Due → Bool) (supp : Bool) : State :=
  let hits := s.sched.due.filter (fun d => !d.void && p d)
  let rest := s.sched.due.filter (fun d => d.void || !p d)
  let s := { s with sched := { s.sched with due := rest } }
  State.each hits (fun s d =>
    let st := s.stepAt d.ctx d.list d.idx
    let s := (s.voidStalls d).dropTag d supp
    if supp then
      let s := s.check d.ctx st.slot fun k => { k with suppressed := true }
      if d.voidEnd ≤ s.clk.pick then s.setOf d.ctx d.list d.idx st
      else { s with sched := { s.sched with due := s.sched.due ++ [{ d with void := true }] } }
    else s) s |>.refresh

/-! ## Starting -/

def sameStep (c l i : Nat) (d : Due) : Bool := d.ctx == c && d.list == l && d.idx == i

/-- The waiting step that may start now: its start pick has come and every input completed before this pick (R29); its unit
and its tiles are free (R158). -/
def State.startable (s : State) (c l i : Nat) : Option Due :=
  let before (o : Option Nat) : Bool := match o with | none => false | some k => decide (k < s.clk.pick)
  s.sched.due.find? (fun d =>
    let st := s.stepAt d.ctx d.list d.idx
    sameStep c l i d && !d.void && decide (d.start ≤ s.clk.pick) && before d.knotAt && before d.unitAt && before d.tileAt &&
      !s.unitTaken (unitKey d.list st) d.start && !s.tilesBusy (stepTiles (s.image d.ctx) d.list st))

/-- The reason of a stall: the input that completed last, KNOT before UNIT before TILE (R409); 0 without a stall. -/
def Due.reason (d : Due) : Nat :=
  let k := d.knotAt.getD 0
  let u := d.unitAt.getD 0
  let t := d.tileAt.getD 0
  if d.stalls = 0 then 0 else if u ≤ k ∧ t ≤ k then 1 else if t ≤ u then 2 else 3

/-- Settle a stall's picks on its reason. -/
def State.settle (s : State) (d : Due) (l : Nat) (st : PlanStep) (c : Nat) : State :=
  let e := stepEngine l st
  let n := d.stalls
  if n = 0 then s
  else match d.reason with
    | 1 => (s.settleReason e 1 n).perf 0x06 n l (some c) (some e)
    | 2 => s.settleReason e 2 n
    | _ => (s.settleReason e 3 n).perf 0x07 n l (some c) (some e)

/-- Start a step: it leaves the waiting list and runs, with `out` remote operations outstanding (R29, R30). -/
def State.startRun (s : State) (d : Due) (out : Nat) (mid : Option Int) : State :=
  let c := d.ctx
  let l := d.list
  let st := s.stepAt c l d.idx
  let (tag, s) := s.tagDraw c l st.kind
  let s := s.settle d l st c
  let ofs (o : Option Nat) : Int := (o.getD d.start : Int) - d.start
  let r : Run :=
    { ctx := c, list := l, idx := d.idx, iter := d.iter, start := d.start, began := s.clk.pick
      engine := stepEngine l st, tiles := stepTiles (s.image c) l st, outstanding := out, ended := none
      tagged := tag, stretched := decide (16 < s.clk.lenQ), reason := d.reason
      knotOfs := ofs d.knotAt, unitOfs := ofs d.unitAt, tileOfs := ofs d.tileAt, midOfs := mid, ackOfs := none }
  let s := { s with sched := { s.sched with
    due := s.sched.due.filter (fun x => !(sameStep c l d.idx x && x.iter == d.iter)), runs := s.sched.runs ++ [r] } }
  s.refresh.perf 0x03 1 l (some c) (some (stepEngine l st))

/-- Do the work of a step when it may start: `f` computes its whole effect on the state in which it runs; `out` is the
number of remote operations it issues. -/
def State.runStep (s : State) (c l i kind out : Nat) (mid : Option Int) (f : Due → PlanStep → State → State) : State :=
  match s.startable c l i with
  | none => s
  | some d =>
    let st := s.stepAt c l i
    if st.kind = kind ∧ s.up then f d st (s.startRun d out mid) else s

/-! ## Ending -/

def sameRun (c l i : Nat) (r : Run) : Bool := r.ctx == c && r.list == l && r.idx == i

/-- The tag record of a step that has run. -/
def State.runTag (s : State) (r : Run) (hung : Bool) (fin : Option Int) : State :=
  if r.tagged then
    let st := s.stepAt r.ctx r.list r.idx
    let flags := b2n (decide (r.began + st.len < s.clk.pick)) + 4 * b2n hung +
      8 * b2n (st.slot != 0xFFFF && (s.batch r.ctx st.slot).replaying) + 16 * b2n (r.stretched || decide (16 < s.clk.lenQ))
    let knot : Option Int := if st.waitCount = 0 then none else some r.knotOfs
    let set : Option Int := if st.set = 0 then none else some ((s.clk.pick : Int) - r.start)
    s.tagQueue (tagBytes r.ctx r.list r.idx st.kind (planStep (s.image r.ctx) r.list r.idx).unit (r.iter % 2 ^ 32)
      r.reason flags r.start knot (some r.unitOfs) (some r.tileOfs) (some ((r.began : Int) - r.start)) r.midOfs fin
      r.ackOfs set)
  else s

/-- A run leaves its engine, whose last step it is from now on. -/
def State.leaves (s : State) (r : Run) (hung : Bool) : State :=
  { s with sched := { s.sched with
    runs := s.sched.runs.filter (fun x => !(sameRun r.ctx r.list r.idx x && x.iter == r.iter))
    last := (r, hung) :: s.sched.last.filter (fun x => x.1.engine != r.engine) } }

/-- The step has ended and its operations are acknowledged: it sets its knot and leaves (R152). -/
def State.closeRun (s : State) (r : Run) : State :=
  let st := s.stepAt r.ctx r.list r.idx
  let s := s.leaves r false
  let s := s.setOf r.ctx r.list r.idx st
  s.runTag r false (r.ended.map (fun (e : Nat) => (e : Int) - r.start))

/-- The unit and tiles of a run are free from now on. -/
def State.freeUnit (s : State) (r : Run) : State :=
  let p := s.clk.pick
  let st := s.stepAt r.ctx r.list r.idx
  let ue := match unitKey r.list st with
    | none => s.sched.unitEnd
    | some k => Tab.put 0 s.sched.unitEnd k p
  { s with sched := { s.sched with
    unitEnd := ue, tileEnd := r.tiles.foldl (fun t x => Tab.put 0 t (x.1 * 2 + x.2) p) s.sched.tileEnd } }

/-- A step ends (R30, R152): its unit is free; it closes once its operations are acknowledged. -/
def State.endRun (s : State) (r : Run) : State :=
  let st := s.stepAt r.ctx r.list r.idx
  let s := s.perf 0x04 (b2n (decide (r.began + st.len < s.clk.pick))) r.list (some r.ctx) (some r.engine)
  let r' := { r with ended := some s.clk.pick }
  let swap (x : Run) : Run := if sameRun r.ctx r.list r.idx x && x.iter == r.iter then r' else x
  let s := ({ s with sched := { s.sched with runs := s.sched.runs.map swap } }).freeUnit r
  (if r.outstanding = 0 then s.closeRun r' else s).refresh

/-- A hung step is abandoned: its knot is set now, its unit's work is lost, its slots are marked (R294, R295). -/
def State.abandon (s : State) (r : Run) : State :=
  let st := s.stepAt r.ctx r.list r.idx
  let s := ((s.leaves r true).freeUnit r).setOf r.ctx r.list r.idx st
  let s := s.check r.ctx st.slot fun k => { k with hung := true }
  (s.runTag r true none).refresh

/-! ## Engines -/

/-- The engines of Table 15.1 in ascending index. -/
def allEngines : List Nat :=
  List.range 0x1000 ++ (List.range 384).map (· + 0x1000) ++ (List.range 96).map (· + 0x1200) ++
    (List.range 64).map (· + 0x1280) ++ (List.range 36).map (· + 0x1300) ++ (List.range 16).map (· + 0x1340) ++ [0x1360]

def isEngine (e : Nat) : Bool :=
  decide (e < 0x1180) || decide (0x1200 ≤ e ∧ e < 0x1260) || decide (0x1280 ≤ e ∧ e < 0x12C0) ||
    decide (0x1300 ≤ e ∧ e < 0x1324) || decide (0x1340 ≤ e ∧ e < 0x1350) || e == 0x1360

/-- The domain of an engine's unit. -/
def engineDomain (e : Nat) : Nat × Nat :=
  if e < 0x1000 then (1, e)
  else if e < 0x1180 then (2, e - 0x1000)
  else if e < 0x1260 then (9, (e - 0x1200) / 24)
  else if e < 0x12C0 then (9, (e - 0x1280) / 16)
  else if e < 0x1324 then (7, e - 0x1300)
  else if e < 0x1350 then (9, (e - 0x1340) / 4)
  else (0xB, 0)

/-- The engine is fenced, resetting, retired, in Retention or Off, or unpowered (R408). -/
def State.engineDown (s : State) (e : Nat) : Bool :=
  let d := engineDomain e
  s.troubled d.1 d.2 || !s.up || (e != 0x1360 && !s.awake) || (decide (e < 0x1000) && (s.harness e).state != 1)

/-- Class of an engine now: 0 idle, 1 busy, 2 stalled, 3 down (R408). -/
def State.engineClass (s : State) (e : Nat) : Nat :=
  if s.sched.runs.any (fun r => r.ended.isNone && r.engine == e) then 1
  else if s.sched.due.any (fun d => !d.void && decide (d.start ≤ s.clk.pick) &&
      stepEngine d.list (s.stepAt d.ctx d.list d.idx) == e) then 2
  else if s.engineDown e then 3 else 0

/-- Engines to count as down one by one: none when nothing is out of the ordinary. -/
def State.downList (s : State) : List Nat :=
  if s.arr.harnesses.all (fun h => h.2.state == 1) && s.rcv.domains.all (fun d => d.2.phase == 0 && !d.2.retired) then []
  else allEngines.filter (fun e => s.engineClass e == 3)

/-- Count the classes of the pick that ends, and the reasons that it settled (R408, R409). An engine that is busy or stalled is never down. -/
def State.countClasses (s : State) : State :=
  let s := s.enterReasons
  let busy := (s.sched.runs.filter (fun r => r.ended.isNone && isEngine r.engine)).map (·.engine) |>.eraseDups
  let waiting := s.sched.due.filter (fun d => !d.void && decide (d.start ≤ s.clk.pick))
  let eng (d : Due) : Nat := stepEngine d.list (s.stepAt d.ctx d.list d.idx)
  let stalled := ((waiting.map eng).filter (fun e => isEngine e && !busy.contains e)).eraseDups
  let s := State.each busy (fun s e => s.modEngine e fun x => { x with busy := x.busy + 1 }) s
  let s := State.each stalled (fun s e => s.modEngine e fun x => { x with stalled := x.stalled + 1 }) s
  let s := State.each waiting (fun s d =>
    (s.modRecs d.ctx fun r => { r with stalled := true, stallCnt := satAdd max32 r.stallCnt 1 }).perf 0x05 1 d.list
      (some d.ctx) (some (eng d))) s
  let pick := s.clk.pick
  let one (d : Due) : Due := if !d.void && decide (d.start ≤ pick) then { d with stalls := d.stalls + 1 } else d
  let s := { s with sched := { s.sched with due := s.sched.due.map one } }
  let down (es : List Nat) (s : State) : State := State.each es (fun s e => s.modEngine e fun x => { x with down := x.down + 1 }) s
  let hub := if s.up || busy.contains 0x1360 || stalled.contains 0x1360 then [] else [0x1360]
  let live := (busy ++ stalled).filter (fun e => e != 0x1360)
  if s.awake then down s.downList s
  else if live.isEmpty then down hub { s with obs := { s.obs with allDown := s.obs.allDown + 1 } }
  else down (allEngines.filter (fun e => e != 0x1360 && !live.contains e) ++ hub) s

end Sys2Proof.Machine
end

