-- ==== Sys2Proof/Machine/Slots.lean ====
section
/-! DEFINITION. Batch slots: the positions that a run of a slot's steps
serves (R201, R214), and the end of a layer's work (R96). -/

namespace Sys2Proof.Machine

/-- SPEC_W and PROMPT_CHUNK of slot `k` of context `c`. -/
def State.specW (s : State) (c k : Nat) : Nat := batchSpecW (batchParam (s.image c) k)
def State.chunk (s : State) (c k : Nat) : Nat := max (batchChunk (batchParam (s.image c) k)) 1

/-- Prompt positions already run of the request in a slot. -/
def State.promptDone (s : State) (c k : Nat) : Nat := (s.batch c k).promptRuns * s.chunk c k

/-- Positions that this run of the slot's steps writes: the rest of the prompt up to a chunk, or the window. -/
def State.runPositions (s : State) (c k : Nat) : Nat :=
  match s.slotReq c k with
  | none => 0
  | some q =>
    if q.state = 1 then min (s.chunk c k) (q.prompt.length - s.promptDone c k) else max (s.specW c k) 1

/-- The first position of the run of slot `k`'s steps for its request: of the prompt run, or the stream's COMMIT (R214). -/
def State.runBase (s : State) (c k : Nat) (q : Request) : Nat :=
  if q.state = 1 then (s.batch c k).base else s.commitOf q.stream

/-- The input tokens of this run of slot `k`'s steps (R201, R214): the next chunk of the prompt, or the last emitted token and the
proposals of the window. The spec does not say by what memory or field a plan's steps take them. -/
def State.runInputs (s : State) (c k : Nat) (proposals : List Nat) : List Nat :=
  match s.slotReq c k with
  | none => []
  | some q =>
    if q.state = 1 then (q.prompt.drop (s.promptDone c k)).take (s.chunk c k)
    else ((s.batch c k).lastToken :: proposals).take (max (s.specW c k) 1)

/-- The first position of the run of slot `k`'s steps, 0 for an unfilled slot. -/
def State.slotBase (s : State) (c k : Nat) : Nat := ((s.slotReq c k).map (fun q => s.runBase c k q)).getD 0

/-- The main inputs, in order of START, of the steps that do on list `l` for a run's positions what `st` does for its own: the
same slot, kind and leading parameters. -/
def positionSources (img : Bytes) (l : Nat) (st : PlanStep) : List Nat :=
  let key (x : PlanStep) : Bytes := (stepParam img x 16).take (if st.kind = 3 then 6 else 4)
  let same := ((planList img l).map (·.2)).filter (fun x => x.slot == st.slot && x.kind == st.kind && key x == key st)
  ((sortBy (fun x y => decide (x.start ≤ y.start)) same).map (·.src)).eraseDups

/-- Which position of its run an MVM, MEND or FULL step serves, counted from the run's first: the run's positions fall to the
main inputs in order of START. -/
def State.stepOffset (s : State) (c l : Nat) (st : PlanStep) : Nat :=
  let srcs := positionSources (s.image c) l st
  srcs.idxOf st.src * max (s.runPositions c st.slot) 1 / max srcs.length 1

/-- The position that an MVM, MEND or FULL step serves. -/
def State.slotPos (s : State) (c l : Nat) (st : PlanStep) : Nat :=
  (((s.servedSlots c st.slot).head?).map (s.slotBase c)).getD 0 + s.stepOffset c l st

/-- The layer record for which a step works, if any (Tables 6.8 to 6.11). -/
def stepLayer (img : Bytes) (st : PlanStep) : Option Nat :=
  let p := stepParam img st 32
  match st.kind with
  | 1 | 2 => some (le p 0 2)
  | 3 => some (le p 2 2)
  | 4 => some (le p 0x14 2)
  | 0xC => some (le p 8 2)
  | _ => none

/-- Step `i` of list `l` is the one whose budgeted end closes the work for slot `k` of its layer in iteration `n` (R96). -/
def closesLayer (img : Bytes) (k l i n : Nat) : Bool :=
  let me := planStep img l i
  let end_ (st : PlanStep) : Nat := st.start + st.len
  (planSteps img).all (fun x =>
    let st := x.2.2
    stepLayer img st != stepLayer img me || (st.slot != k && st.slot != 0xFFFF) || n % max st.every 1 != st.phase ||
      decide (end_ st < end_ me ∨ (end_ st = end_ me ∧ (x.1 < l ∨ (x.1 = l ∧ x.2.1 ≤ i)))))

/-- The slot's request is in its prompt. -/
def State.inPrompt (s : State) (c k : Nat) : Bool := ((s.slotReq c k).map (fun q => q.state == 1)).getD false

end Sys2Proof.Machine
end

