-- ==== Sys2Proof/Machine/Flags.lean ====
section
/-! DEFINITION. Every flag and count that checks raise: format flags (R95, R96), checked reads (R258, R259, R261),
residue failures (R116), consumption of reduction words (R112), captures (R285), check accumulators and the check
word (R263-R266), performance units. -/

namespace Sys2Proof.Machine

/-! ## Format flags -/

/-- The four flags of a layer, in the order of Table 3.7. -/
inductive FormatFlag where
  | mendOvf | actSat | accSat | fmtMismatch
deriving DecidableEq, Repr

def FormatFlag.index : FormatFlag → Nat
  | .mendOvf => 0
  | .actSat => 1
  | .accSat => 2
  | .fmtMismatch => 3

/-- Add 1 to a counter of the flag table (R96). -/
def State.flagCount (s : State) (c layer f : Nat) : State :=
  let a := recFlagTable (s.recipe c) + 32 * layer + 8 * f
  if layer < recLayers (s.recipe c) ∧ allocatable a 8 then s.write a (toLe 8 ((s.readLe a 6 + 1) % 2 ^ 48)) else s

/-- A layer raises a flag for every slot that the step serves, at each position `base + o`, `base` the first of the slot's run
(R95-R97): MND_FLAG_STAT, the check accumulators, and what the flag table is to count. -/
def State.raise (s : State) (c slot layer : Nat) (offs : List Nat) (f : FormatFlag) : State :=
  let now := s.clk.elapsed
  let s := s.modRecs c fun r =>
    { r with
      flagMend := r.flagMend || f == .mendOvf, flagAct := r.flagAct || f == .actSat
      flagAcc := r.flagAcc || f == .accSat, flagFmt := r.flagFmt || f == .fmtMismatch, lastLayer := layer
      setAt := note r.setAt f.index now }
  let s := s.check c slot fun k =>
    { k with
      mendOvf := k.mendOvf || f == .mendOvf, actSat := k.actSat || f == .actSat
      accSat := k.accSat || f == .accSat, fmt := k.fmt || f == .fmtMismatch }
  let s := if f = .mendOvf then s.perf 0x0D 1 4 (some c) none else s
  let key := layer * 4 + f.index
  State.each (s.servedSlots c slot) (fun s i =>
    let base := s.slotBase c i
    s.modBatch c i fun b => { b with
      raised := b.raised ++ (offs.map (fun o => (key, base + o))).filter (fun x => !b.raised.contains x) }) s

/-- The end of the work of the layers that `p` selects for slot `k` (R96): each flag they have raised for a position enters the
flag table, once for the position, a replay included. -/
def State.countFlags (s : State) (c k : Nat) (p : Nat → Bool) : State :=
  let b := s.batch c k
  let mine := b.raised.filter (fun x => p (x.1 / 4))
  let new := (mine.filter (fun x => !b.counted.contains x)).eraseDups
  let s := s.modBatch c k fun b => { b with raised := b.raised.filter (fun x => !p (x.1 / 4)), counted := b.counted ++ new }
  State.each new (fun s x => s.flagCount c (x.1 / 4) (x.1 % 4)) s

/-- A step has ended: where it closes its layer's work for a slot, the layer's flags are counted. -/
def State.layerEnd (s : State) (c l i n : Nat) : State :=
  let img := s.image c
  let st := planStep img l i
  match stepLayer img st with
  | none => s
  | some layer =>
    State.each ((s.servedSlots c st.slot).filter (fun k => closesLayer img k l i n)) (fun s k =>
      s.countFlags c k (fun x => x == layer)) s

/-- A quantiser or fuller of context `c` has met a NaN or infinite element (R87, R117). -/
def State.raiseNonfinite (s : State) (c layer : Nat) : State :=
  (s.modRecs c fun r =>
    { r with flagNonfinite := true, lastLayer := layer, setAt := note r.setAt 4 s.clk.elapsed }).report (.nonfinite c)

/-! ## Captures -/

/-- Capture a failure's inputs (R285): the first free of 64 slots, else the oldest that is reproduced or ruled
transient, else dropped (slot 0xFF). -/
def State.capture (s : State) (kind : Nat) (units : List (Nat × Nat)) (data : Bytes) : Nat × State :=
  let h := s.health
  let put (i : Nat) : Nat × State :=
    (i, { s with health := { h with
      captures := Tab.ins i ⟨1, h.captureOrder, kind, units, data.take 8192, 0⟩ h.captures
      captureOrder := h.captureOrder + 1 } })
  match (List.range 64).find? (fun i => !h.captures.any (fun e => e.1 == i)) with
  | some i => put i
  | none =>
    let old := h.captures.filter (fun e => e.2.state != 1)
    match old with
    | [] => (0xFF, s)
    | e :: t => put (t.foldl (fun m x => if x.2.order < m.2.order then x else m) e).1

/-! ## Checked reads -/

/-- 64-byte units of HBM that an access of [a, a+n) touches. -/
def hbmUnits (a n : Nat) : Nat := if a < hbmEnd ∧ n ≠ 0 then (a + n - 1) / 64 - a / 64 + 1 else 0

/-- A read of the block at `a` fails its check (R259); one that a fenced channel or loom answers with an error gives no health
event (R295). -/
def State.readFail (s : State) (a ctx : Nat) : State :=
  if s.memTroubled a then s.tallyCount a else s.tallyFail a ctx

/-- The units of [a, a+n) that upsets strike. -/
def struckUnits (ups : List Upset) (a n : Nat) : List (Nat × Decoded) :=
  (ups.filterMap struckUnit).filter (fun x => decide (0 < n) && overlaps x.1 64 a n)

/-- ECC events on the units of a read (R261): corrected and uncorrectable errors are counted, the latter recorded against the
memory. -/
def State.eccEvents (s : State) (ctx : Nat) (units : List (Nat × Decoded)) : State :=
  State.each units (fun s x =>
    let m := eccMemory x.1
    let s := State.each (List.range x.2.corrected) (fun s _ => s.eccCorrected m) s
    State.each (List.range x.2.detected) (fun s _ =>
      let (k, i) := memUnit x.1
      (s.eccUncorrected m).healthEvent 7 k i ctx 0xFF x.1) s) s

/-- The blocks of [a, a+n) whose check fails on a read (R258): their stored tally is off, a bit that no code corrects is in
them, or their channel or loom answers with an error. -/
def State.failingBlocks (s : State) (ups : List Upset) (a n : Nat) : List Nat :=
  (blocksOf a n).filter (fun k => s.blockErr k != 0 || s.memTroubled (k * 4096) ||
    (struckUnits ups a n).any (fun x => x.2.detected != 0 && x.1 / 4096 == k))

/-- A read by a step of context `c` that feeds computation (R258): each block that fails its check is counted, reported and set
against the path (R259); ECC events on the range act as R261 says. -/
def State.checkedRead (s : State) (c slot a n : Nat) (ups : List Upset) : State :=
  let bad := s.failingBlocks ups a n
  let units := struckUnits ups a n
  let s := (s.perf 0x13 (hbmUnits a n) (loomOfAddr a) none none).eccEvents c units
  let s := if units.any (fun x => x.2.corrected != 0) then s.check c slot fun k => { k with eccCorr := true } else s
  State.each bad (fun s k => (s.readFail (k * 4096) c).check c slot fun k => { k with tallyBad := true }) s

/-- A write of `n` bytes by a unit at `a`, with its count of HBM bytes written. -/
def State.countWrite (s : State) (a n : Nat) : State := s.perf 0x14 (hbmUnits a n) (loomOfAddr a) none none

/-! ## Accesses of units (R22, R23, R148, R150) -/

/-- A region type admits an operation (Table 6.5). -/
def admits (type opc : Nat) : Bool :=
  (opc == 1 && (type == 0 || type == 2 || type == 3)) || (opc == 2 && (type == 0 || type == 2)) ||
    (opc == 4 && type == 2) || (opc == 5 && type == 1)

/-- The STATUS with which the memory at [a, a+n) refuses an operation of a step of context `c` run by loom `l` (4 the hub), 0
where it takes it: a unit reads and writes its own loom's memory directly, every other access is a remote operation over the
package fabric. -/
def State.fabricStatus (s : State) (c l opc a n : Nat) : Nat :=
  if loomOfAddr a = l then 0
  else if s.memTroubled a then 3
  else if s.inArena c a n || ((regionOf (s.image c) a n).map (fun r => admits r.type opc)).getD false then 0
  else if s.enabled.any (fun e => e != c && ((regionOf (s.image e) a n).isSome || s.inArena e a n)) then 2
  else 1

/-- An operation of step `st` refused within the package: both ends report, the path is marked (R150). -/
def State.refusedHere (s : State) (c l : Nat) (st : PlanStep) (status : Nat) : State :=
  let s := (s.report (.nackSent status)).report (.nackGot status)
  (s.check c st.slot fun k => { k with nackBad := true }).perf 0x17 1 l (some c) (some (stepEngine l st))

/-- The memory as a unit of list `l` reads it over `reads`: bits that no code corrects read flipped, and where a read is refused
it has what it has in hand. -/
def State.seenBy (s : State) (c l : Nat) (ups : List Upset) (reads : List (Nat × Nat)) : State :=
  s.setMem (reads.foldl (fun m x =>
    if s.fabricStatus c l 2 x.1 x.2 = 0 then m
    else m.writeBytes x.1 ((List.range x.2).map (Config.refusedByte s.tick))) (s.asRead ups).mem)

/-- What such a read brings about: its checks, or its refusal. -/
def State.unitRead (s : State) (c l : Nat) (st : PlanStep) (a n : Nat) (ups : List Upset) : State :=
  let status := s.fabricStatus c l 2 a n
  if n = 0 then s else if status = 0 then s.checkedRead c st.slot a n ups else (s.refusedHere c l st status).fresh

/-- A unit of list `l` writes `bs` at `a`, or is refused. -/
def State.unitStore (s : State) (c l : Nat) (st : PlanStep) (a : Nat) (bs : Bytes) : State :=
  let status := s.fabricStatus c l 1 a bs.length
  if status = 0 then (s.unitWrite a bs).countWrite a bs.length else s.refusedHere c l st status

/-! ## Residue failures -/

/-- What is captured of a failing unit's step (R285): the step record, then its input blocks. -/
def State.stepRecord (s : State) (c l i : Nat) : Bytes := slice (s.image c) (planListOff (s.image c) l + 64 * i) 64
def State.stepCapture (s : State) (c l i : Nat) (inputs : Bytes) : Bytes := s.stepRecord c l i ++ inputs

/-- The counted paths of BTR_RES_CNT (Table 4.7), and the shuttles' own counts (Table 5.12). -/
inductive ResPath where
  | beater | mending | fuller | reduce | shuttle
deriving DecidableEq, Repr

/-- A residue failure (R116): counted for its loom, reported, set against the path, recorded against the unit with the
unit's inputs captured. `kind` is its event kind: 4, 5 or 8. -/
def State.residueFail (s : State) (c slot : Nat) (path : ResPath) (l kind uk unit : Nat) (data : Bytes) : State :=
  let s := s.modLoom l fun x =>
    match path with
    | .beater => { x with resBeater := satAdd max8 x.resBeater 1 }
    | .mending => { x with resMending := satAdd max8 x.resMending 1 }
    | .fuller => { x with resFuller := satAdd max8 x.resFuller 1 }
    | .reduce => { x with resReduce := satAdd max8 x.resReduce 1 }
    | .shuttle => x
  let s := (s.report (.residue uk unit)).check c slot fun k => { k with residueBad := true }
  let (cap, s) := s.capture kind [(uk, unit)] data
  let engine := if uk = 1 then some unit else if uk = 2 then some (0x1000 + unit) else if uk = 3 then some (0x1200 + unit)
    else if uk = 4 then some (0x1280 + unit) else none
  (s.healthEvent kind uk unit c cap 0).perf 0x0B 1 l (some c) engine

/-! ## Consuming reduction words -/

/-- A unit consumes the word at `a` (R112): its value, clamped to 48 bits. -/
def State.consumed (s : State) (a : Nat) : Int := clampInt (-(2 ^ 47 : Int)) (2 ^ 47 - 1) (s.redWord a).val

/-- What consuming the word at `a` brings about: a failed word, a value out of range, the zero word of CLEAR. -/
def State.consume (s : State) (c slot layer : Nat) (offs : List Nat) (rec_ : Bytes) (a : Nat) (clear : Bool) : State :=
  let w := s.redWord a
  let l := loomOfAddr a
  let s := if w.fail || redBad w then
      let (k, u) := memUnit a
      s.residueFail c slot .reduce l 4 k u (rec_ ++ s.read a 8)
    else s
  let s := if w.val < -(2 ^ 47 : Int) ∨ (2 ^ 47 : Int) ≤ w.val then
      (s.modLoom l fun x => { x with redSat := satAdd max32 x.redSat 1 }).raise c slot layer offs .accSat
    else s
  if clear then s.write a (toLe 8 0) else s

/-- Consume `n` words from `a` upward. -/
def State.consumeAll (s : State) (c slot layer : Nat) (offs : List Nat) (rec_ : Bytes) (a n : Nat) (clear : Bool) :
    State :=
  State.each (List.range n) (fun s i => s.consume c slot layer offs rec_ (a + 8 * i) clear) s

/-- The integers that consuming `n` words from `a` gives, as the unit's datapath has them (R114). -/
def State.consumedAll (s : State) (ups : List Upset) (a n : Nat) : List Resd :=
  (List.range n).map (fun i => (Resd.of (s.consumed (a + 8 * i))).struck ups (.element i))

/-! ## Check accumulators -/

/-- The attempt stands: its checks join the accumulator. -/
def Check.join (a b : Check) : Check :=
  { dentBad := a.dentBad || b.dentBad, corrected := a.corrected || b.corrected
    dentReplay := a.dentReplay || b.dentReplay, residueBad := a.residueBad || b.residueBad
    tallyBad := a.tallyBad || b.tallyBad, pageBad := a.pageBad || b.pageBad, nackBad := a.nackBad || b.nackBad
    eccCorr := a.eccCorr || b.eccCorr, linkRetry := a.linkRetry || b.linkRetry, mendOvf := a.mendOvf || b.mendOvf
    accSat := a.accSat || b.accSat, actSat := a.actSat || b.actSat, fmt := a.fmt || b.fmt
    emptyRow := a.emptyRow || b.emptyRow, twillCompared := a.twillCompared || b.twillCompared
    twillMismatch := a.twillMismatch || b.twillMismatch, replays := a.replays + b.replays
    notValid := a.notValid || b.notValid, beyondPages := a.beyondPages || b.beyondPages
    suppressed := a.suppressed || b.suppressed, hung := a.hung || b.hung }

/-- The attempt is replayed (R264): of it, only corrections, ECC corrections and link retries stand, and the replay
itself. -/
def Check.replayed (a attempt : Check) : Check :=
  { a with
    corrected := a.corrected || attempt.corrected, eccCorr := a.eccCorr || attempt.eccCorr
    linkRetry := a.linkRetry || attempt.linkRetry, dentReplay := a.dentReplay || attempt.dentBad
    replays := a.replays + 1 }

/-- The attempt failed in a way that one replay may mend (R52, R116, R141, R146, R273, R295). -/
def Check.replays? (k : Check) : Bool :=
  k.dentBad || k.residueBad || k.tallyBad || k.twillMismatch || k.suppressed || k.hung

/-- Bit [3], [4] as they stand. -/
def Check.residueClean (k : Check) : Bool := !k.residueBad
def Check.tallyClean (k : Check) : Bool := !(k.tallyBad || k.pageBad || k.nackBad)

/-- The check word (Table 10.3); the profile byte is that of stepping B1. -/
def Check.word (k : Check) : Word :=
  pack [(0, 1, b2n !k.dentBad), (1, 1, b2n k.corrected), (2, 1, b2n k.dentReplay), (3, 1, b2n k.residueClean),
    (4, 1, b2n k.tallyClean), (5, 1, b2n k.eccCorr), (6, 1, b2n k.linkRetry), (7, 1, b2n k.mendOvf),
    (8, 1, b2n k.accSat), (9, 1, b2n k.actSat), (10, 1, b2n k.fmt), (11, 1, b2n k.emptyRow),
    (12, 1, b2n k.twillCompared), (13, 1, b2n k.twillMismatch), (14, 2, min k.replays 3), (16, 8, 0x03)]

/-- A check word is failed (R266). -/
def wordFailed (w : Word) : Bool := !w.getLsbD 0 || !w.getLsbD 3 || !w.getLsbD 4 || w.getLsbD 13

/-- The status from checks of Table 10.4: the lowest code that applies. -/
def Check.checkStatus (k : Check) : Nat :=
  if k.dentBad then 0x20 else if k.residueBad then 0x21 else if k.tallyBad then 0x22
  else if k.pageBad then 0x23 else if k.nackBad then 0x24 else if k.twillMismatch then 0x25 else 0

/-- STRICT_MASK selects a set bit of the word; bits 15:14 count as set when REPLAYS is not 0 (R269). -/
def strictHit (mask : BitVec 16) (w : Word) : Bool :=
  (List.range 16).any fun i => mask.getLsbD i &&
    (if i = 14 ∨ i = 15 then w.getLsbD 14 || w.getLsbD 15 else w.getLsbD i)

/-! ## Conversions counted in units of 2^20 -/

/-- `n` dent conversions reach the counters of event 0x08. -/
def State.perfConversions (s : State) (n loom : Nat) (ctx unit : Option Nat) : State :=
  if s.obs.run then
    let count (_ : Nat) (p : Pmc) : Pmc :=
      if p.takes 0x08 loom ctx unit then
        ({ p with rest := (p.rest + n) % 2 ^ 20 }).add ((p.rest + n) / 2 ^ 20) s.clk.elapsed
      else p
    { s with obs := { s.obs with pmcs := Tab.mapAll {} count s.obs.pmcs } }
  else s

/-! ## Twill signatures (R272) -/

/-- Fold an output digest into the strand's signature of every slot the step serves; `hub` folds name step 0xFFFF
and loom 4. -/
def State.fold (s : State) (c slot : Nat) (second : Bool) (loom idx iter : Nat) (out : Bytes) : State :=
  if !(s.ctx c).ctl.twillEff then s
  else
    let f := crc32c (toLe 4 (crc32c out).toNat ++ toLe 4 idx ++ toLe 4 loom ++ toLe 4 iter)
    State.each (s.servedSlots c slot) (fun s i => s.modBatch c i fun b =>
      if second then { b with sigB := b.sigB ^^^ f, foldsB := b.foldsB ++ [(loom, idx, f)] }
      else { b with sigA := b.sigA ^^^ f, foldsA := b.foldsA ++ [(loom, idx, f)] }) s

/-- Fold a loom step's output: steps N/2 and up are strand B, numbered as their twins. -/
def State.foldStep (s : State) (c l i iter slot : Nat) (out : Bytes) : State :=
  let half := planListCount (s.image c) l / 2
  s.fold c slot (decide (half ≤ i)) l (if half ≤ i then i - half else i) (iter % 2 ^ 32) out

end Sys2Proof.Machine
end

