-- ==== Sys2Proof/Machine/Quant.lean ====
section
/-! DEFINITION. Quantisers: activation vectors with outliers (R86, R87, R90, R91), one open-weight tile (R84), one
tensor block for keys, values and queries (R134, R135, R137). -/

namespace Sys2Proof.Machine

/-- rne(x × 2^-k) of a binary32. -/
def quantTo (x : F32) (k : Int) : Int := rneScaled x (-k)

/-- The finite elements' largest magnitude among those `keep` selects; +0 for none. -/
def largestAbs (xs : List F32) (keep : F32 → Bool) : F32 :=
  xs.foldl (fun m x => if isFinite x && keep x && f32Lt m (f32Abs x) then f32Abs x else m) f32Zero

/-- The block exponent of largest magnitude `m` (R86 step 2): -127 for 0, 127 where no exponent fits. -/
def blockExp (m : F32) (qmax : Nat) : Nat :=
  if isZero m then 0 else (((smallestK m qmax).getD 127) + 127).toNat

/-- Raise every exponent below the largest minus `span` to that floor (R86 step 3, R134 step 3). -/
def floorExps (span : Nat) (es : List Nat) : List Nat := es.map (fun e => max e (maxNat 0 es - span))

/-! ## Activation vectors -/

/-- The candidates above T, largest first, ties to the lower channel (R90). -/
def rankedOutliers (xs : List F32) (cands : List Nat) (t : F32) : List Nat :=
  let above := cands.filter (fun c => isFinite (xs.getD c f32Zero) && f32Lt t (f32Abs (xs.getD c f32Zero)))
  sortBy (fun a b =>
    let x := f32Abs (xs.getD a f32Zero)
    let y := f32Abs (xs.getD b f32Zero)
    f32Lt y x || (!f32Lt x y && decide (a ≤ b))) above

/-- Stored element of channel `c` (R86 step 4). -/
def storedElem (x t : F32) (removed : Bool) (qmax : Nat) (e : Nat) : Int :=
  let sgn : Int := if f32Neg x then -1 else 1
  if removed || isNaN x then 0
  else if isInf x || f32Lt t (f32Abs x) then sgn * qmax
  else quantTo x ((e : Int) - 127)

/-- What a quantiser gives: blocks, outliers, and whether mending overflow, saturation and non-finite were met. -/
structure Quantised where
  blocks : List ActBlock
  outliers : List Outlier
  ovf : Bool
  sat : Bool
  nonfinite : Bool
deriving DecidableEq, Repr

/-- R86, R87, R90: quantise `xs` (a multiple of 64 channels). -/
def quantise (w span slots : Nat) (cands : List Nat) (t : F32) (xs : List F32) : Quantised :=
  let qmax := if w = 8 then 127 else 7
  let ranked := rankedOutliers xs cands t
  let removed := ranked.take slots
  let n := xs.length / 64
  let blocks := blocks64 n xs
  let es := floorExps span (blocks.map (fun b => blockExp (largestAbs b (fun x => !f32Lt t (f32Abs x))) qmax))
  let eMin := match es with | [] => 0 | e :: r => r.foldl min e
  let one (j : Nat) : ActBlock :=
    let ch := (List.range 64).map (fun i => 64 * j + i)
    let x (c : Nat) : F32 := xs.getD c f32Zero
    let e := es.getD j 0
    let big (c : Nat) : Bool := isFinite (x c) && f32Lt t (f32Abs (x c)) && !removed.contains c
    let sat := ch.any (fun c => (big c && !ranked.contains c) || !isFinite (x c))
    let ovf := ch.any (fun c => big c && ranked.contains c)
    { elems := ch.map (fun c => storedElem (x c) t (removed.contains c) qmax e)
      exp := e
      status := b2n sat + 2 * b2n ovf + 4 * b2n (ch.any (fun c => !isFinite (x c))) + 8 * b2n (ch.any removed.contains)
      removed := sumNat (ch.map (fun c => if removed.contains c then 2 ^ (c - 64 * j) else 0)) }
  let bs := (List.range n).map one
  let outlier (c : Nat) : Outlier :=
    let x := xs.getD c f32Zero
    let e := max (blockExp (f32Abs x) 32767) eMin
    ⟨c, quantTo x ((e : Int) - 127), e⟩
  { blocks := bs
    outliers := (sortBy (fun a b => decide (a ≤ b)) removed).map outlier
    ovf := bs.any (fun b => bitOf b.status 1)
    sat := bs.any (fun b => bitOf b.status 0)
    nonfinite := bs.any (fun b => bitOf b.status 2) }

/-- The `slots` outlier records: used ones first, unused ones zero (R91). -/
def outlierList (slots : Nat) (os : List Outlier) : Bytes :=
  os.flatMap outlierBytes ++ List.replicate (8 * (slots - os.length)) 0

/-! ## Signed bytes by block (R135, R137) -/

/-- Quantise one row of blocks of 64 to 8 bits: per-block exponents under `span` of the largest, integers; a NaN gives
0, an infinity ±127; and whether a non-finite element was met. -/
def quantRow (span : Nat) (xs : List F32) : List Nat × List Int × Bool :=
  let bs := blocks64 (ceilDiv xs.length 64) xs
  let es := floorExps span (bs.map (fun b => blockExp (largestAbs b (fun _ => true)) 127))
  (es,
   (List.range xs.length).map (fun i =>
     let x := xs.getD i f32Zero
     if isNaN x then 0 else if isInf x then (if f32Neg x then -127 else 127)
     else quantTo x ((es.getD (i / 64) 0 : Int) - 127)),
   xs.any (fun x => !isFinite x))

/-! ## Open weights (R84) -/

/-- Exponent of a width-1 block: the mean scale, clamped (R84). -/
def meanExp (ys : List F32) : Nat :=
  let mu := f32Div (ys.foldl (fun a y => f32Add a (f32Abs y)) f32Zero) (f32OfInt ys.length)
  if isZero mu || ys.isEmpty then 0
  else if isInf mu then 254
  else
    let f := floorLog2 mu
    let up := f32Le (roundDy false 3 (f - 1) false) mu
    (clampInt (-127) 127 (if up then f + 1 else f) + 127).toNat

/-- One weight quantised under exponent `e`, as its `w` stored bits. -/
def weightBits (w e : Nat) (y : F32) : Nat :=
  if w = 1 then (if f32Lt y f32Zero then 0 else 1)
  else
    let qmax : Int := 2 ^ (w - 1) - 1
    unsigned w (clampInt (-qmax) qmax (quantTo y ((e : Int) - 127)))

/-- A tile `y[o][r]` of quotients as the rows and exponents of a heddle image (R82, R84); none when it is refused.
`rows` and `cols` are those used. A block that exists at the width and holds no weight of the tensor takes the floor, emax less the span
(DESIGN CHOICE: R84 gives it no exponent). -/
def quantTile (w span rows cols : Nat) (y : Nat → Nat → F32) : Option (List Nat × List Nat) :=
  let nb := blocksPerDent w
  let qmax : Nat := 2 ^ (w - 1) - 1
  let block (d j : Nat) : List F32 :=
    (List.range 64).flatMap (fun i => ((List.range 16).filter (fun k => decide (64 * d + i < rows ∧ 16 * j + k < cols))).map
      (fun k => y (16 * j + k) (64 * d + i)))
  let ids := (List.range 8).flatMap (fun d => (List.range nb).map (fun j => (d, j)))
  let all := (List.range rows).flatMap (fun r => (List.range cols).map (fun o => y o r))
  let tooBig (p : Nat × Nat) : Bool :=
    decide ((qmax : Int) < rneScaled (largestAbs (block p.1 p.2) (fun _ => true)) (-127))
  if all.any (fun v => !isFinite v) || (w != 1 && ids.any tooBig) then none
  else
    let es := floorExps span (ids.map (fun p =>
      if w = 1 then meanExp (block p.1 p.2) else blockExp (largestAbs (block p.1 p.2) (fun _ => true)) qmax))
    let e (r o : Nat) : Nat := es.getD (r / 64 * nb + o / 16) 0
    some ((List.range 512).map (fun r =>
        if r < rows then
          sumNat ((List.range cols).map (fun o => weightBits w (e r o) (y o r) * 2 ^ (o * w)))
        else 0),
      (List.range 256).map (fun i => if i % 32 < nb then es.getD (i / 32 * nb + i % 32) 0 else 0))

end Sys2Proof.Machine
end

