-- ==== Sys2Proof/Machine/Fuller.lean ====
section
/-! DEFINITION. FULL steps: the fuller functions of Table 4.3 in binary32 (R117-R120) and the quantiser. -/

namespace Sys2Proof.Machine

def f32Half : F32 := 0x3F000000
/-- 0.7978846, 0.044715 and 0.70710678, nearest binary32. -/
def f32GeluA : F32 := 0x3F4C422A
def f32GeluB : F32 := 0x3D372713
def f32InvSqrt2 : F32 := 0x3F3504F3

/-! ## Functions -/

def silu (set : Nat) (x : F32) : F32 :=
  f32Mul x (recip set (f32Add f32One (exp2 set (f32Mul (f32Flip x) f32Log2e))))
def geluTanh (set : Nat) (x : F32) : F32 :=
  let cube := f32Mul (f32Mul x x) x
  f32Mul (f32Mul f32Half x)
    (f32Add f32One (tanh32 set (f32Mul f32GeluA (f32Add x (f32Mul f32GeluB cube)))))
def geluErf (set : Nat) (x : F32) : F32 :=
  f32Mul (f32Mul f32Half x) (f32Add f32One (erf32 set (f32Mul x f32InvSqrt2)))
def relu (x : F32) : F32 := f32Max2 x f32Zero
def relu2 (x : F32) : F32 := f32Mul (relu x) (relu x)

/-- The function that GLU applies to its gate (Table 6.9). -/
def gluFn (set f : Nat) (x : F32) : F32 :=
  if f = 5 then silu set x else if f = 6 then geluTanh set x else if f = 7 then geluErf set x else x

def rmsNorm (set : Nat) (eps : F32) (x g : List F32) : List F32 :=
  let ms := f32Div (treeSum (x.map (fun v => f32Mul v v))) (f32OfInt x.length)
  let r := rsqrt set (f32Add ms eps)
  List.zipWith (fun v w => f32Mul (f32Mul v r) w) x g

def layerNorm (set : Nat) (eps : F32) (x g b : List F32) : List F32 :=
  let n := f32OfInt x.length
  let mu := f32Div (treeSum x) n
  let d := x.map (fun v => f32Sub v mu)
  let v := f32Div (treeSum (d.map (fun w => f32Mul w w))) n
  let r := rsqrt set (f32Add v eps)
  List.zipWith f32Add (List.zipWith (fun w k => f32Mul (f32Mul w r) k) d g) b

/-- The phase products pos × f_i of a ROPE step as its datapath has them (R114, R119). -/
def ropeProducts (ups : List Upset) (pos : Nat) (fs : List Nat) : List Resd :=
  (List.range fs.length).map (fun i => ((Resd.of pos).mul (Resd.of (fs.getD i 0))).struck ups (.element i))

/-- Rotate adjacent pairs by their phases: the low 32 bits of the products, in units of 2^-32 turn (R119). -/
def rope (set : Nat) : List F32 → List Resd → List F32
  | x0 :: x1 :: t, p :: ps =>
    let (s, c) := sinCos set (unsigned 32 p.val)
    f32Sub (f32Mul x0 c) (f32Mul x1 s) :: f32Add (f32Mul x0 s) (f32Mul x1 c) :: rope set t ps
  | _, _ => []

/-- A result beyond the largest finite number becomes it, with its sign (R118). -/
def clampFinite (x : F32) : F32 := if isInf x then (if f32Neg x then 0xFF7FFFFF else f32Max) else x

/-- The three roundings of R118; whether one went beyond the largest finite number. -/
def convertWord (eMin wref : Nat) (st : F32) (v : Int) : F32 × Bool :=
  let a := f32Scale (f32OfInt v) ((eMin + wref : Nat) - 254)
  let b := f32Mul (clampFinite a) st
  (clampFinite b, isInf a || isInf b)

/-! ## The step -/

def f32s : Nat → Bytes → List F32
  | 0, _ => []
  | n + 1, bs => BitVec.ofNat 32 (leNat (bs.take 4)) :: f32s n (bs.drop 4)
def f32Bytes (xs : List F32) : Bytes := xs.flatMap (fun x => toLe 4 x.toNat)

def State.vec (s : State) (a n : Nat) : List F32 := f32s n (s.read a (4 * n))

/-- The bytes a FULL step writes; whether CONVERT overflowed, the quantiser raised its flags, a NaN was met; and whether a
residue of an integer it took in or formed disagreed. -/
structure FullOut where
  bytes : Bytes
  overflow : Bool
  ovf : Bool
  sat : Bool
  nonfinite : Bool
  residueBad : Bool
deriving DecidableEq, Repr

/-- A vector result. -/
def vecOut (ins ys : List F32) : FullOut :=
  ⟨f32Bytes ys, false, false, false, ins.any isNaN || ys.any isNaN, false⟩

/-- Compute a FULL step (R119) for position `pos`, with the faults that strike its integers. -/
def State.fullCompute (s : State) (c pos : Nat) (st : PlanStep) (p : Bytes) (ups : List Upset) : FullOut :=
  let r := s.recipe c
  let n := fullN p
  let set := s.sec.tableSet
  let src := addrLocal st.src
  let x := s.vec src n
  let a := s.vec (addrLocal (fullAux1 p)) n
  let layer := fullLayer p
  match fullFn p with
  | 1 =>
    let w := layActWidth r layer
    let k := layChannels r layer / 64
    let acts := parseActs w k (s.read (addrLocal (fullAux1 p)) (k * actSize w))
    let vs := s.consumedAll ups src n
    let ys := vs.map (fun v => convertWord (eMinOf acts) (fullWref p) (tenScale r (fullTensor p)) v.val)
    { vecOut [] (ys.map (·.1)) with overflow := ys.any (·.2), residueBad := !vs.all Resd.ok }
  | 2 => vecOut (x ++ a) (List.zipWith f32Add x a)
  | 3 => vecOut (x ++ a) (rmsNorm set (fullEps p) x a)
  | 4 => let b := s.vec (addrLocal (fullAux2 p)) n; vecOut (x ++ a ++ b) (layerNorm set (fullEps p) x a b)
  | 5 => vecOut x (x.map (silu set))
  | 6 => vecOut x (x.map (geluTanh set))
  | 7 => vecOut x (x.map (geluErf set))
  | 8 => vecOut x (x.map relu)
  | 9 => vecOut x (x.map relu2)
  | 10 => vecOut (x ++ a) (List.zipWith (fun u g => f32Mul (gluFn set (fullGlu p) g) u) x a)
  | 11 =>
    let ps := ropeProducts ups (pos % 2 ^ 32) (word32s (n / 2) (s.read (addrLocal (fullAux1 p)) (2 * n)))
    { vecOut x (rope set x ps) with residueBad := !ps.all Resd.ok }
  | 12 =>
    let cands := (((s.ctx c).ctl.candidates.find? (fun e => e.1 == layer)).map (·.2)).getD []
    let q := quantise (layActWidth r layer) (layActSpan r layer) (laySlots r layer) cands (layThreshold r layer) x
    ⟨q.blocks.flatMap (actBytes (layActWidth r layer)) ++ outlierList (laySlots r layer) q.outliers, false, q.ovf, q.sat,
      q.nonfinite, false⟩
  | _ => vecOut [] []

/-- Fuller-table ECC events (R120): a corrected error is counted, a double-bit error is a residue failure of the fuller
path, and the tables are reloaded before the next step. -/
def State.tableEcc (s : State) (c slot l unit : Nat) (data : Bytes) (ups : List Upset) : State :=
  State.each ups (fun s u =>
    match u with
    | .table bits =>
      let d := secded bits.toNat
      let s : State := { s with sec := { s.sec with
        tblCorr := satAdd max8 s.sec.tblCorr d.corrected, tblUncorr := satAdd max8 s.sec.tblUncorr d.detected } }
      if d.detected = 0 then s else s.residueFail c slot .fuller l 8 3 (l * 24 + unit) data
    | _ => s) s

/-- The whole work of a FULL step. -/
def State.fullWork (s : State) (c l : Nat) (d : Due) (st : PlanStep) (ups : List Upset) : State :=
  let p := stepParam (s.image c) st 32
  let layer := fullLayer p
  let n := fullN p
  let src := addrLocal st.src
  let offs := [s.stepOffset c l st]
  let reads := fullReads (s.recipe c) p src
  let seen := s.seenBy c l ups reads
  let o := seen.fullCompute c (s.slotPos c l st) st p ups
  let data := s.stepCapture c l d.idx (reads.flatMap (fun x => seen.read x.1 x.2))
  let taken := s.fabricStatus c l 2 src (8 * n) == 0
  let s := State.each reads (fun s x => s.unitRead c l st x.1 x.2 ups) s
  let s := if fullFn p = 1 ∧ taken then
      s.consumeAll c st.slot layer offs (s.stepRecord c l d.idx) src n (bitOf st.flags 1)
    else s
  let s := s.tableEcc c st.slot l st.unit data ups
  let s := if o.residueBad then s.residueFail c st.slot .fuller l 4 3 (l * 24 + st.unit) data else s
  let s := if o.overflow then s.report (.overflow c) else s
  let s := if o.ovf then s.raise c st.slot layer offs .mendOvf else s
  let s := if o.sat then s.raise c st.slot layer offs .actSat else s
  let s := if o.nonfinite then s.raiseNonfinite c layer else s
  let s := s.unitStore c l st (addrLocal st.dst) o.bytes
  let s := s.perf 0x0E n l (some c) (some (stepEngine l st))
  s.foldStep c l d.idx d.iter st.slot o.bytes

def execFullStep (c : Fin 256) (l : Fin 5) (i : BitVec 18) (ups : List Upset) (s : State) :
    Host.Outcome State Fault Refusal :=
  .next (if l.val < 4 then s.runStep c.val l.val i.toNat 3 0 none (fun d st s => s.fullWork c.val l.val d st ups) else s)

end Sys2Proof.Machine
end

