-- ==== Sys2Proof/Machine/Pages.lean ====
section
/-! DEFINITION. KV pages (R125-R127), page-table entries and the walker (R129, R130), page faults (R146), appends
(R134-R136), the host-read filter (R133). -/

namespace Sys2Proof.Machine

/-! ## Layout -/

/-- Geometry of a page: mode 1 is latent; `dim` is d or r. -/
structure PageGeom where
  latent : Bool
  width : Nat
  heads : Nat
  dim : Nat
  rope : Nat
deriving DecidableEq, Repr

/-- Channels of a row. -/
def PageGeom.chans (g : PageGeom) : Nat := if g.latent then g.dim + g.rope else g.heads * g.dim
def PageGeom.keyRow (g : PageGeom) : Nat := g.chans * g.width / 8
/-- Offset of value exponents (Table 5.3) or latent exponents (Table 5.4). -/
def PageGeom.ve (g : PageGeom) : Nat := if g.latent then 0x1000 else 0x1000 + 256 * g.keyRow
/-- Offset of value rows, or of latent rows. -/
def PageGeom.vd (g : PageGeom) : Nat := g.ve + roundUp (4 * g.chans) 4096
def PageGeom.size (g : PageGeom) : Nat := roundUp (g.vd + 256 * g.chans) 4096
def PageGeom.expRow (g : PageGeom) : Nat := g.chans / 64

/-- The geometry a page header states (Table 5.5). -/
def headerGeom (h : Bytes) : PageGeom := ⟨byteAt h 0 == 1, byteAt h 1, byteAt h 2, le h 4 2, le h 6 2⟩

/-- Ranges of page bytes that pad a region to its 4 KiB boundary, and the rest of the header block (Tables 5.3, 5.4). -/
def PageGeom.padding (g : PageGeom) : List (Nat × Nat) :=
  let tail (lo hi : Nat) : Nat × Nat := (lo, hi - lo)
  [tail (if g.latent then 0x80 else 0x80 + g.chans) 0x1000, tail (g.ve + 256 * g.expRow) g.vd, tail (g.vd + 256 * g.chans) g.size]

/-- The 128 header bytes. -/
def headerBytes (g : PageGeom) (room ctx stream layer page sat : Nat) : Bytes :=
  toLe 1 (b2n g.latent) ++ toLe 1 g.width ++ toLe 1 g.heads ++ toLe 1 room ++ toLe 2 g.dim ++ toLe 2 g.rope ++ toLe 1 ctx ++
    [0] ++ toLe 2 stream ++ toLe 2 layer ++ toLe 2 page ++ toLe 2 sat ++ List.replicate 110 0

/-- Ranges of page bytes, as offset and length, that hold the row of page position `t`. -/
def PageGeom.rowRanges (g : PageGeom) (t : Nat) : List (Nat × Nat) :=
  (if g.latent then [] else [(0x1000 + t * g.keyRow, g.keyRow)]) ++
    [(g.ve + t * g.expRow, g.expRow), (g.vd + t * g.chans, g.chans)]

/-! ## Frames -/

/-- `a` is a frame boundary of context `c`'s arena. -/
def State.frameBoundary (s : State) (c a : Nat) : Bool :=
  s.inArena c a (s.frameSize c) && (a - (s.arena c).base) % max (s.frameSize c) 1 == 0

/-! ## The walker (R130) -/

/-- Note a lookup in the cache: whether it missed. -/
def State.walkerNote (s : State) (t i : Nat) : State :=
  let hit (cap : Nat) (l : List Nat) (x : Nat) : Bool := l.contains x && (decide (l.length ≤ cap) || Config.walkerHit s.tick)
  let h := hit 4096 s.kvt.cacheSm t && hit 16384 s.kvt.cachePt i
  let add (l : List Nat) (x : Nat) : List Nat := if l.contains x then l else x :: l
  let s := { s with kvt := { s.kvt with
    cacheSm := add s.kvt.cacheSm t, cachePt := add s.kvt.cachePt i
    miss := if h then s.kvt.miss else satAdd max32 s.kvt.miss 1 } }
  if h then s.fresh else s.fresh.perf 0x12 1 4 (some (s.smapCtx t)) none

/-- The fault of a lookup of page `n` by context `c`, if any; without an arena every lookup faults with cause 5 (Table 5.18),
else causes in the order of the checks. -/
def State.lookupFault (s : State) (ups : List Upset) (c t a n : Nat) : Option Nat :=
  let i := s.ptIndex t a n
  let e := (s.asRead ups).ptEntry i
  let fails (x : Nat) : Bool := !(s.failingBlocks ups x 16).isEmpty
  if s.frameSize c = 0 then some 5
  else if fails (s.smapAddr t) then some 8
  else if !s.smapValid t then some 1
  else if s.smapCtx t != c then some 4
  else if s.smapPages t ≤ n then some 9
  else if fails (s.ptAddr i) then some 8
  else if !ptValid e then some 1
  else if ptStream e != t || ptLayer e != a || ptPage e != n then some 3
  else if ptCtx e != c then some 4
  else if !ptPublished e then some 2
  else none

/-- The block whose failed check makes a lookup fault with cause 8. -/
def State.lookupBlock (s : State) (ups : List Upset) (t a n : Nat) : Nat :=
  if (s.failingBlocks ups (s.smapAddr t) 16).isEmpty then s.ptAddr (s.ptIndex t a n) / 4096 * 4096
  else s.smapAddr t / 4096 * 4096

/-- The fault of the page header against the entry and the step's geometry (R130). The header of a SHARED page names the stream
that wrote it; one of a narrower key is read at its own width. -/
def State.headerFault (s : State) (ups : List Upset) (c t a n frame : Nat) (shared : Bool) (g : PageGeom) : Option Nat :=
  let h := (s.asRead ups).read frame 128
  let hg := headerGeom h
  if !(s.failingBlocks ups frame 4096).isEmpty then some 8
  else if (!shared && le h 0xA 2 != t) || le h 0xC 2 != a || le h 0xE 2 != n then some 3
  else if byteAt h 8 != c then some 4
  else if byteAt h 0 != b2n g.latent || hg.heads != g.heads || hg.dim != g.dim || hg.rope != g.rope then some 5
  else if (hg.width != 8 && hg.width != 4) || decide (s.frameSize c < hg.size) then some 5
  else if g.width < hg.width then some 6
  else none

/-- Record a page fault of shuttle `n` (R146): fault registers, the shuttle's count, the report, the path's check. -/
def State.pageFault (s : State) (c slot shuttle cause t a page : Nat) : State :=
  let s := { s with kvt := { s.kvt with
    faultCause := cause, faultValid := true, faultCtx := c, faultPage := page % 65536, faultStream := t
    faultLayer := a % 2 ^ 14 } }
  let s := s.modShuttle shuttle fun x =>
    if cause = 8 then { x with tally := satAdd max8 x.tally 1 } else { x with page := satAdd max8 x.page 1 }
  (s.report (.pageFault cause t a page)).check c slot fun k =>
    if cause = 1 then { k with notValid := true }
    else if cause = 9 then { k with beyondPages := true }
    else if cause = 8 then { k with tallyBad := true }
    else { k with pageBad := true }

/-- A failed check of the block at `addr` found by a page access: the counts of R259 beside the fault of cause 8. -/
def State.pageTally (s : State) (c slot shuttle t a page addr : Nat) : State :=
  (s.readFail addr c).pageFault c slot shuttle 8 t a page

/-! ## Appends (R134-R136) -/

/-- Write `bs` at `a` block by block: a block of `bad` is not written back; a written block gets a fresh tally. -/
def State.blockWrite (s : State) (bad : List Nat) (a : Nat) (bs : Bytes) : State :=
  State.each (blocksOf a bs.length) (fun s k =>
    if bad.contains k then s
    else
      let lo := max a (k * 4096)
      let hi := min (a + bs.length) (k * 4096 + 4096)
      let s := s.write lo ((bs.drop (lo - a)).take (hi - lo))
      s.setMem (s.mem.clearErr k)) s

/-- The key channel exponents of a page set at its position 0 (R134 steps 1-3): `rows` are the rows that govern. -/
def keyExps (g : PageGeom) (limit span : Nat) (heads first : Nat) (rows : List (List F32)) : List Nat :=
  (List.range heads).flatMap (fun h =>
    floorExps span ((List.range g.dim).map (fun i =>
      blockExp (largestAbs (rows.map (fun r => r.getD (h * g.dim + i) f32Zero)) (fun _ => true)) limit))) |>.drop first

/-- A key element stored under exponent `e` (R134 step 4), and whether it clamped. -/
def keyElem (qmax e : Nat) (x : F32) : Int × Bool :=
  if isNaN x then (0, false)
  else if isInf x then (if f32Neg x then -(qmax : Int) else qmax, false)
  else
    let v := quantTo x ((e : Int) - 127)
    (clampInt (-(qmax : Int)) qmax v, decide (v < -(qmax : Int) ∨ (qmax : Int) < v))

/-- Pack key elements of width 8 or 4 from channel `c0` on: the byte offset in the row and the bytes. -/
def keyBytes (width : Nat) (es : List Int) : Bytes :=
  if width = 8 then es.flatMap (fun x => toLe 1 (unsigned 8 x))
  else (List.range (es.length / 2)).flatMap (fun i =>
    toLe 1 (unsigned 4 (es.getD (2 * i) 0) + 16 * unsigned 4 (es.getD (2 * i + 1) 0)))

/-- Append parameters: page geometry of the step, headroom, spans, whether it is a prompt step, heads written. -/
structure AppendSpec where
  geom : PageGeom
  headroom : Nat
  keySpan : Nat
  valSpan : Nat
  prompt : Bool
  first : Nat
  count : Nat
deriving DecidableEq, Repr

/-- The header of a page that is opened: a page already open for the same stream, layer and page keeps its SAT_COUNT. -/
def State.openHeader (s : State) (g : PageGeom) (room c t a n frame : Nat) : Bytes :=
  let old := s.read frame 128
  let same := headerBytes g room c t a n (le old 0x10 2) == old
  headerBytes g room c t a n (if same then le old 0x10 2 else 0)

/-- Open a page (R127): its header, and 0 in every padding byte (R125, R126). -/
def State.openPage (s : State) (bad : List Nat) (g : PageGeom) (room c t a n frame : Nat) : State :=
  State.each g.padding (fun s (r : Nat × Nat) => s.blockWrite bad (frame + r.1) (List.replicate r.2 0))
    (s.blockWrite bad frame (s.openHeader g room c t a n frame))

/-- What the append of one row brought: its clamped key elements, whether it held a non-finite element, the bytes of its rows and
block exponents. -/
abbrev Appended := Nat × Bool × Bytes

/-- Append one row of a standard page at page position `t` under the page's key exponents. -/
def State.appendRow (s : State) (bad : List Nat) (sp : AppendSpec) (g : PageGeom) (frame t : Nat) (exps : List Nat)
    (r : List F32 × List F32) : State × Appended :=
  let qmax := if g.width = 8 then 127 else 7
  let c0 := sp.first * g.dim
  let ks := (List.range (sp.count * g.dim)).map (fun i => keyElem qmax (exps.getD i 0) (r.1.getD i f32Zero))
  let vals := (List.range sp.count).map (fun h => quantRow sp.valSpan ((r.2.drop (h * g.dim)).take g.dim))
  let key := keyBytes g.width (ks.map (·.1))
  let es := vals.flatMap (fun v => v.1.flatMap (toLe 1))
  let qs := vals.flatMap (fun v => v.2.1.flatMap (fun x => toLe 1 (unsigned 8 x)))
  let s := s.blockWrite bad (frame + 0x1000 + t * g.keyRow + c0 * g.width / 8) key
  let s := s.blockWrite bad (frame + g.ve + t * g.expRow + c0 / 64) es
  let s := s.blockWrite bad (frame + g.vd + t * g.chans + c0) qs
  (s, (ks.filter (·.2)).length, vals.any (fun v => v.2.2) || r.1.any (fun x => !isFinite x), key ++ es ++ qs)

/-- Append one latent row at page position `t`. -/
def State.appendLatent (s : State) (bad : List Nat) (sp : AppendSpec) (g : PageGeom) (frame t : Nat) (r : List F32) :
    State × Appended :=
  let (exps, elems, nf) := quantRow sp.valSpan r
  let es := exps.flatMap (toLe 1)
  let qs := elems.flatMap (fun x => toLe 1 (unsigned 8 x))
  let s := s.blockWrite bad (frame + g.ve + t * g.expRow) es
  (s.blockWrite bad (frame + g.vd + t * g.chans) qs, 0, nf, es ++ qs)

/-- Append rows to one page (R134-R136): `o` is the page offset of the first, each row is (keys, values) of the heads
written, or (row, []) in latent mode; blocks of `bad` are not written back. What each row brought. HEADROOM of a page whose exponents a full prompt step sets, without H, is
0, and of a latent page the step's H (DESIGN CHOICE: Table 5.5 does not say). -/
def State.appendPage (s : State) (bad : List Nat) (sp : AppendSpec) (c t a n frame o : Nat) (rows : List (List F32 × List F32)) :
    State × List Appended :=
  let full := sp.prompt && o = 0 && rows.length == 256
  let room := if full then 0 else sp.headroom
  let s := if o = 0 then s.openPage bad sp.geom room c t a n frame else s
  let g := if o = 0 then sp.geom else headerGeom (s.read frame 128)
  let c0 := sp.first * g.dim
  let s := if o = 0 && !g.latent then
      let govern := if sp.prompt then rows.map (·.1) else [(rows.headD ([], [])).1]
      let qmax := if g.width = 8 then 127 else 7
      s.blockWrite bad (frame + 0x80 + c0) ((keyExps g (qmax / 2 ^ room) sp.keySpan sp.count 0 govern).flatMap (toLe 1))
    else s
  let exps := (List.range (sp.count * g.dim)).map (fun i => (s.byte (frame + 0x80 + c0 + i)).toNat)
  let (s, out) := rows.zipIdx.foldl (fun (x : State × List Appended) (r, j) =>
    let (s, y) := if g.latent then x.1.appendLatent bad sp g frame (o + j) r.1 else x.1.appendRow bad sp g frame (o + j) exps r
    (s, x.2 ++ [y])) (s, [])
  let clamps := sumNat (out.map (·.1))
  let sat := satAdd max16 (le (s.read frame 128) 0x10 2) clamps
  (if clamps = 0 then s else s.blockWrite bad (frame + 0x10) (toLe 2 sat), out)

/-- FILL of entry `i` grows to `n` positions (Table 5.7). -/
def State.fillTo (s : State) (i n : Nat) : State :=
  if ptFill (s.ptEntry i) < n then s.write (s.ptAddr i + 2) (toLe 2 n) else s

/-! ## The host-read filter (R133) -/

/-- The context in whose arena `a` lies. -/
def State.arenaOf (s : State) (a : Nat) : Option Nat := ((s.kvt.arenas.map (·.1)).find? (fun c => s.inArena c a 1))

/-- The frame of context `c`'s arena that holds `a`. -/
def State.frameAt (s : State) (c a : Nat) : Nat :=
  let b := (s.arena c).base
  b + (a - b) / max (s.frameSize c) 1 * s.frameSize c

/-- The entry that a frame's header names, when it is VALID, not SHARED and points at this frame: stream and header. -/
def State.frameOwner (s : State) (frame : Nat) : Option (Nat × Bytes) :=
  let h := s.read frame 128
  let t := le h 0xA 2
  let i := s.ptIndex t (le h 0xC 2) (le h 0xE 2)
  let e := s.ptEntry i
  if decide (i < 2097152) && ptValid e && !ptShared e && ptFrame e == frame then some (t, h) else none

/-- The page position whose row holds offset `x`, if any. -/
def PageGeom.posAt (g : PageGeom) (x : Nat) : Option Nat :=
  let within (base n : Nat) : Option Nat := if n ≠ 0 ∧ base ≤ x ∧ x < base + 256 * n then some ((x - base) / n) else none
  match (if g.latent then none else within 0x1000 g.keyRow) with
  | some q => some q
  | none => match within g.ve g.expRow with
    | some q => some q
    | none => within g.vd g.chans

/-- The byte that a filtered read gives at `a` (R133). -/
def State.filteredByte (s : State) (a : Nat) : Byte :=
  match s.arenaOf a with
  | none => s.byte a
  | some c =>
    let f := s.frameAt c a
    match s.frameOwner f with
    | none => s.byte a
    | some (t, h) =>
      match (headerGeom h).posAt (a - f) with
      | some q => if s.commitOf t ≤ 256 * le h 0xE 2 + q then 0 else s.byte a
      | none => s.byte a

/-- The page-table entries whose first byte is not 0. -/
def State.listedEntries (s : State) : List Nat :=
  ((s.mem.bytes.map (·.1)).filter (fun a => decide (s.kvt.tableBase ≤ a ∧ a < s.kvt.tableBase + 0x2000000) &&
    (a - s.kvt.tableBase) % 16 == 0)).map (fun a => (a - s.kvt.tableBase) / 16)

/-- [a, a+n) touches a frame whose entry is VALID with PUBLISHED 1: host writes and puts into it are dropped (R133). -/
def State.frameClosed (s : State) (a n : Nat) : Bool :=
  s.listedEntries.any (fun i =>
    let e := s.ptEntry i
    ptValid e && ptPublished e && s.frameSize (ptCtx e) != 0 && overlaps a n (ptFrame e) (s.frameSize (ptCtx e)))

end Sys2Proof.Machine
end

