-- ==== Sys2Proof/Machine/Attention.lean ====
section
/-! DEFINITION. ATTN steps (R122-R146): appends, integer scores, online softmax over segments, merging of partials,
latent expansion, edge cases and page faults. -/

namespace Sys2Proof.Machine

def AttnParam.geom (a : AttnParam) : PageGeom :=
  ⟨a.latent, if a.latent then 8 else a.keyWidth, if a.latent then 1 else a.kvHeads, a.dim, if a.latent then a.rope else 0⟩
/-! ## Expansion tensors (R143, R233) -/

/-- Rows, columns and tensor scale of the auxiliary tensor that lies at loom-store address `x` in context `c`. -/
def State.auxAt (s : State) (c x : Nat) : Nat × Nat × F32 :=
  match (s.ctx c).cur.aux.find? (fun t => t.copies.contains x) with
  | some t => (tenRows (s.recipe c) t.tensor, tenCols (s.recipe c) t.tensor, tenScale (s.recipe c) t.tensor)
  | none => (0, 0, f32Zero)

/-- Integer and exponent of weight row `r`, column `o` of an auxiliary tensor of `rows` rows in bytes `bs`. -/
def auxInt (bs : Bytes) (rows o r : Nat) : Int := signed 8 (byteAt bs (o * (rows + rows / 64) + r))
def auxExp (bs : Bytes) (rows o r : Nat) : Nat := byteAt bs (o * (rows + rows / 64) + rows + r / 64)

/-- Round an integer × 2^e to the nearest integer, ties to even. -/
def rneInt (v : Int) (e : Int) : Int :=
  let m : Nat := if 0 ≤ e then v.natAbs * 2 ^ e.toNat else dropBits v.natAbs (-e).toNat false
  if v < 0 then -(m : Int) else m

/-- A quantised query: exponents per 64 elements and integers. -/
structure Query where
  exps : List Nat
  ints : List Int
deriving DecidableEq, Repr

/-- q′ = W_uk^T × q, exact, for latent element `i` (R143 step 1). -/
def expandExact (bs : Bytes) (rows d head : Nat) (q : Query) (i : Nat) : Resd :=
  Resd.sum ((List.range d).map (fun o =>
    ((Resd.of (auxInt bs rows (head * d + o) i)).mul (Resd.of (q.ints.getD o 0))).shl
      (auxExp bs rows (head * d + o) i + q.exps.getD (o / 64) 0)))

/-- q′ rounded per block of 64 to 16 bits (R143 step 2); the exponents are codes of Table 3.2. -/
def roundQuery (xs : List Int) : Query :=
  let blockK (j : Nat) : Nat :=
    let m := maxNat 0 (((xs.drop (64 * j)).take 64).map Int.natAbs)
    if m = 0 then 0
    else (((List.range 255).find? (fun (k : Nat) => decide (rneInt m (-254 - ((k : Int) - 127)) ≤ 32767))).getD 254)
  let es := (List.range (ceilDiv xs.length 64)).map blockK
  ⟨es, (List.range xs.length).map (fun i => rneInt (xs.getD i 0) (-254 - ((es.getD (i / 64) 0 : Int) - 127)))⟩

/-- o = W_uv × u (R143 step 5) for one head. -/
def expandValue (bs : Bytes) (rows d head : Nat) (scale : F32) (u : List F32) : List F32 :=
  (List.range d).map (fun o =>
    let c := head * d + o
    f32Mul (treeSum ((List.range rows).map (fun i =>
      f32Mul (ofDy (auxInt bs rows c i) ((auxExp bs rows c i : Int) - 127) false) (u.getD i f32Zero)))) scale)

/-! ## Scores (R138, R143) -/

/-- Exact integer dot product of two quantised vectors over their exponents: the sum with its residue, and the base (R138
step 1). -/
def scaledDot (q k : List (Int × Nat)) : Resd × Nat :=
  let es := List.zipWith (fun a b => a.2 + b.2) q k
  let base := match es with | [] => 0 | e :: t => t.foldl min e
  (Resd.sum (List.zipWith (fun a b => ((Resd.of a.1).mul (Resd.of b.1)).shl (a.2 + b.2 - base)) q k), base)

/-- rne to binary32, then × 2^(base - 254). -/
def dotF32 (v : Int) (base : Nat) : F32 := f32Scale (f32OfInt v) ((base : Int) - 254)

def Query.pairs (q : Query) : List (Int × Nat) := q.ints.zipIdx.map (fun x => (x.1, q.exps.getD (x.2 / 64) 0))

/-! ## Online softmax (R140) -/

def emptyPartial (n : Nat) : Partial := ⟨f32NegInf, f32Zero, List.replicate n f32Zero⟩

/-- One 64-position block: scores and values of its positions, none where masked. -/
def softBlock (set n : Nat) (r : Partial) (b : List (Option (F32 × List F32))) : Partial :=
  let u := b.filterMap (fun x => x)
  match u with
  | [] => r
  | _ =>
    let mn := u.foldl (fun m x => f32Max2 m x.1) r.m
    let ex (x : F32) : F32 := exp2 set (f32Mul (f32Sub x mn) f32Log2e)
    let a := if f32Eq r.m mn then f32One else ex r.m
    let p := b.map (fun x => match x with | some y => ex y.1 | none => f32Zero)
    { m := mn
      l := f32Add (f32Mul r.l a) (treeSum p)
      acc := (List.range n).map (fun i =>
        f32Add (f32Mul (r.acc.getD i f32Zero) a)
          (treeSum (List.zipWith (fun w x => match x with
            | some y => f32Mul w (y.2.getD i f32Zero)
            | none => f32Zero) p b))) }

/-- merge(x, y), x covering earlier positions. -/
def mergePartial (set : Nat) (x y : Partial) : Partial :=
  if y.m = f32NegInf then x
  else if x.m = f32NegInf then y
  else
    let mn := f32Max2 x.m y.m
    let ax := exp2 set (f32Mul (f32Sub x.m mn) f32Log2e)
    let ay := exp2 set (f32Mul (f32Sub y.m mn) f32Log2e)
    ⟨mn, f32Add (f32Mul x.l ax) (f32Mul y.l ay),
      List.zipWith (fun a b => f32Add (f32Mul a ax) (f32Mul b ay)) x.acc y.acc⟩

/-- merge over a list of partials in ascending order, from the first (R140). -/
def mergeAll (set n : Nat) : List Partial → Partial
  | [] => emptyPartial n
  | x :: t => t.foldl (mergePartial set) x

/-- out[i] = acc[i] × recip(l), +0 for an empty row. -/
def finishRow (set : Nat) (r : Partial) : List F32 :=
  if r.m = f32NegInf then r.acc.map (fun _ => f32Zero) else r.acc.map (fun a => f32Mul a (recip set r.l))

def partialBytes (r : Partial) : Bytes := f32Bytes (r.m :: r.l :: r.acc)
def parsePartial (n : Nat) (bs : Bytes) : Partial :=
  ⟨BitVec.ofNat 32 (le bs 0 4), BitVec.ofNat 32 (le bs 4 4), f32s n (bs.drop 8)⟩

/-! ## Reading positions -/

/-- Where a page of a step stands: frame and fault. -/
structure PageView where
  page : Nat
  frame : Nat
  fault : Option Nat
  geom : PageGeom
deriving DecidableEq, Repr

/-- Look one page up and check its header, on a page that is read (R130). -/
def State.viewPage (s : State) (ups : List Upset) (c t a n : Nat) (g : PageGeom) : PageView :=
  let e := (s.asRead ups).ptEntry (s.ptIndex t a n)
  let f := ptFrame e
  match s.lookupFault ups c t a n with
  | some x => ⟨n, f, some x, g⟩
  | none => ⟨n, f, s.headerFault ups c t a n f (ptShared e) g, headerGeom ((s.asRead ups).read f 128)⟩

/-- The blocks of position `q` of a page that fail their check. -/
def State.badRow (s : State) (ups : List Upset) (v : PageView) (q : Nat) : List Nat :=
  (v.geom.rowRanges q).flatMap (fun r => s.failingBlocks ups (v.frame + r.1) r.2)

/-- Key of KV head `h` at page position `q`, as integers with exponents; in latent mode the whole row. -/
def State.keyAt (s : State) (v : PageView) (h q : Nat) : List (Int × Nat) :=
  let g := v.geom
  if g.latent then
    (List.range g.chans).map (fun i => (signed 8 (s.byte (v.frame + g.vd + q * g.chans + i)).toNat,
      (s.byte (v.frame + g.ve + q * g.expRow + i / 64)).toNat))
  else
    (List.range g.dim).map (fun i =>
      let c := h * g.dim + i
      let b := (s.byte (v.frame + 0x1000 + q * g.keyRow + c * g.width / 8)).toNat
      (if g.width = 8 then signed 8 b else signed 4 (b / (if c % 2 = 0 then 1 else 16)),
       (s.byte (v.frame + 0x80 + c)).toNat))

/-- Value of KV head `h` at page position `q`; in latent mode the latent elements. -/
def State.valAt (s : State) (v : PageView) (h q : Nat) : List F32 :=
  let g := v.geom
  let c0 := if g.latent then 0 else h * g.dim
  (List.range g.dim).map (fun i =>
    ofDy (signed 8 (s.byte (v.frame + g.vd + q * g.chans + c0 + i)).toNat)
      (((s.byte (v.frame + g.ve + q * g.expRow + (c0 + i) / 64)).toNat : Int) - 127) false)

/-- Position `t` is masked for a query at `qp` (R139); `bound` is the step's visible bound. -/
def State.masked (s : State) (a : AttnParam) (bound qp t : Nat) : Bool :=
  decide (qp < t) || (a.window != 0 && decide (t + a.window ≤ qp)) || decide (bound ≤ t) ||
    (a.mask != 0 && bitOf (s.byte (addrLocal a.mask + t / 8)).toNat (t % 8))

/-! ## The step -/

/-- The first position and number of positions of a run of step `i` of list `l`: a slot's whole run, or one position
of the window where several steps of the slot serve the same head set and segments, in order of START (R214). -/
def State.attnSpan (s : State) (c l i : Nat) (st : PlanStep) (a : AttnParam) : Nat × Nat :=
  let n := s.runPositions c st.slot
  let img := s.image c
  let same := (planList img l).filter (fun x => x.2.kind == 4 && x.2.slot == st.slot &&
    (let b := parseAttn (stepParam img x.2 64)
     b.layer == a.layer && b.firstKv == a.firstKv && b.rank == a.rank && b.spec))
  let me := (same.filter (fun x => decide (x.2.start < (planStep img l i).start))).length
  if a.spec && decide (1 < same.length) && !s.inPrompt c st.slot then (me, 1) else (0, n)

/-- Row length at SRC: the queries of the head set, then the row to append. -/
def State.attnRow (s : State) (c : Nat) (a : AttnParam) : Nat × Nat :=
  if a.latent then
    let (_, cols, _) := s.auxAt c (addrLocal a.wUk)
    (a.g * (cols / max a.g 1 + a.rope), a.dim + a.rope)
  else (a.heads * a.dim, 2 * a.setKv * a.dim)

/-- The query of query row `i` of the step, head `h` of a position whose row is `row` (R137, R143): the main part, the rotary
part, and whether the residues of the expansion agree. The two parts are quantised apart, each with a QUERY_EXP_SPAN floor of its own
(DESIGN CHOICE: R143 does not say whether they share one). -/
def State.attnQuery (s : State) (c : Nat) (ups : List Upset) (a : AttnParam) (row : List F32) (i h : Nat) : Query × Query × Bool :=
  if a.latent then
    let x := addrLocal a.wUk
    let (rows, cols, _) := s.auxAt c x
    let d := cols / max a.g 1
    let q := (row.drop (h * (d + a.rope))).take (d + a.rope)
    let (es, is_, _) := quantRow a.qSpan (q.take d)
    let (er, ir, _) := quantRow a.qSpan (q.drop d)
    let w := s.read x (cols * (rows + rows / 64))
    let exact := (List.range rows).map (fun k => (expandExact w rows d h ⟨es, is_⟩ k).struck ups (.element (i * rows + k)))
    (roundQuery (exact.map (·.val)), ⟨er, ir⟩, exact.all Resd.ok)
  else
    let (es, is_, _) := quantRow a.qSpan ((row.drop (h * a.dim)).take a.dim)
    (⟨es, is_⟩, ⟨[], []⟩, true)

/-- The integer dot products of query row `i` against the key at position `t`: the main one, and the rotary one. -/
def attnDots (ups : List Upset) (a : AttnParam) (q : Query × Query × Bool) (k : List (Int × Nat)) (i t : Nat) :
    List (Resd × Nat) :=
  let dot (rotary : Bool) (q : Query) (k : List (Int × Nat)) : Resd × Nat :=
    let (d, base) := scaledDot q.pairs k
    (d.struck ups (.dot i t rotary), base)
  if a.latent then dot false q.1 (k.take a.dim) :: (if a.rope = 0 then [] else [dot true q.2.1 (k.drop a.dim)])
  else [dot false q.1 k]

/-- The score of a query against a key from its dot products (R138, R143 step 3). -/
def attnScore (a : AttnParam) (ukScale : F32) (dots : List (Resd × Nat)) : F32 :=
  let f (d : Resd × Nat) : F32 := dotF32 d.1.val d.2
  f32Mul (match dots with
    | [] => f32Zero
    | d :: t => t.foldl (fun x y => f32Add x (f y)) (if a.latent then f32Mul (f d) ukScale else f d)) a.smScale

/-- The pages of the step's segments up to position `last`. -/
def attnPages (a : AttnParam) (last : Nat) : List Nat :=
  ((List.range (2 * a.segCount)).map (fun i => 2 * a.segFirst + i)).filter (fun n => decide (256 * n ≤ last))

/-- A query row of a step: its number among the step's, its position, its head and its query. -/
structure QueryRow where
  index : Nat
  pos : Nat
  head : Nat
  query : Query × Query × Bool
deriving DecidableEq, Repr

/-- Position `p` of a page takes part in query row `r`. -/
def State.attnTakes (s : State) (ups : List Upset) (a : AttnParam) (bound : Nat) (r : QueryRow) (v : PageView) (p : Nat) : Bool :=
  v.fault.isNone && !(s.asRead ups).masked a bound r.pos (256 * v.page + p) && (s.badRow ups v p).isEmpty

/-- The KV head that a query head reads. -/
def AttnParam.kvHead (a : AttnParam) (h : Nat) : Nat := a.firstKv + (if a.latent then 0 else h / max a.g 1)

/-- The dot products of query row `r` against position `p` of a page, from the memory `m` as it is read. -/
def State.rowDots (m : State) (ups : List Upset) (a : AttnParam) (r : QueryRow) (v : PageView) (p : Nat) : List (Resd × Nat) :=
  attnDots ups a r.query (m.keyAt v (a.kvHead r.head) p) r.index (256 * v.page + p)

/-- Block `b` (64 positions) of a page for query row `r`: score and value of each position that takes part. -/
def State.attnBlock (s : State) (ups : List Upset) (a : AttnParam) (ukScale : F32) (bound : Nat) (r : QueryRow) (v : PageView)
    (b : Nat) : List (Option (F32 × List F32)) :=
  let m := s.asRead ups
  (List.range 64).map (fun j =>
    let p := 64 * b + j
    if s.attnTakes ups a bound r v p then some (attnScore a ukScale (m.rowDots ups a r v p), m.valAt v (a.kvHead r.head) p)
    else none)

/-- One query row over the step's pages: the partial of each segment of two pages, in ascending order (R140). -/
def State.attnSegments (s : State) (ups : List Upset) (a : AttnParam) (ukScale : F32) (bound : Nat) (r : QueryRow)
    (views : List PageView) : List Partial :=
  let page (x : Partial) (v : PageView) : Partial :=
    (List.range 4).foldl (fun x b => softBlock s.sec.tableSet a.dim x (s.attnBlock ups a ukScale bound r v b)) x
  ((views.map (fun v => v.page / 2)).eraseDups).map (fun g =>
    (views.filter (fun v => v.page / 2 == g)).foldl page (emptyPartial a.dim))

/-- Some integer of the step's dot products or query expansions fails its check (R114). -/
def State.attnResidueBad (s : State) (ups : List Upset) (a : AttnParam) (bound : Nat) (rows : List QueryRow) (views : List PageView) :
    Bool :=
  rows.any (fun r => !r.query.2.2) ||
    ups.any (fun u => match u with
      | .fault (.dot i t rot) v res =>
        decide (res.val % 7 ≠ mod7 v) && (!rot || (a.latent && a.rope != 0)) && rows.any (fun r => r.index == i &&
          views.any (fun w => w.page == t / 256 && s.attnTakes ups a bound r w (t % 256)))
      | _ => false)

/-- A page that a step touches: the faults recorded for it, and the blocks of it that failed. -/
structure PageNote where
  page : Nat
  causes : List Nat
  blocks : List Nat
deriving DecidableEq, Repr

/-- Record a fault of a page once in a step (R130, R146): a failed block once for each block, any other cause once. -/
def State.notePage (s : State) (c slot shuttle t a : Nat) (notes : List PageNote) (page : Nat) (cause : Nat) (block : Nat) :
    State × List PageNote :=
  let x := (notes.find? (fun x => x.page == page)).getD ⟨page, [], []⟩
  let rest := notes.filter (fun x => x.page != page)
  if cause = 8 then
    if x.blocks.contains block then (s, notes)
    else (s.pageTally c slot shuttle t a page (block * 4096), { x with blocks := block :: x.blocks } :: rest)
  else if x.causes.contains cause then (s, notes)
  else (s.pageFault c slot shuttle cause t a page, { x with causes := cause :: x.causes } :: rest)

/-- The walker's one lookup of a page in a step (R130). -/
def State.lookUp (s : State) (c t a n : Nat) (ups : List Upset) : State :=
  let i := s.ptIndex t a n
  ((s.eccEvents c (struckUnits ups (s.smapAddr t) 16 ++ struckUnits ups (s.ptAddr i) 16)).walkerNote t i).perf 0x11 1 4 (some c) none

/-- What an attention step needs at each of its pages. -/
structure AttnEnv where
  ctx : Nat
  slot : Nat
  shuttle : Nat
  stream : Nat
  par : AttnParam
  prompt : Bool
  base : Nat
  off : Nat
  bound : Nat
deriving DecidableEq, Repr

/-- The fault of an append to page `n` at page offset `o` (R130, R146). -/
def State.appendFault (s : State) (ups : List Upset) (e : AttnEnv) (n o : Nat) : Option Nat :=
  let en := (s.asRead ups).ptEntry (s.ptIndex e.stream e.par.layer n)
  match s.lookupFault ups e.ctx e.stream e.par.layer n with
  | some x => some x
  | none =>
    match (if o = 0 then (if s.frameSize e.ctx < e.par.geom.size then some 5 else none)
        else s.headerFault ups e.ctx e.stream e.par.layer n (ptFrame en) (ptShared en) e.par.geom) with
    | some x => some x
    | none => if ptShared en then some 7 else none

/-- The block that a fault of cause 8 at page `n` names: of the lookup, else the header block. -/
def State.faultBlock (s : State) (ups : List Upset) (e : AttnEnv) (n frame : Nat) : Nat :=
  if s.lookupFault ups e.ctx e.stream e.par.layer n = some 8 then s.lookupBlock ups e.stream e.par.layer n / 4096 else frame / 4096

/-- Append to page `n` the rows of the run's positions `js`, at `base + off + j` (R134, R136). The flags of attention layer a count in
the flag-table entry of layer record a (DESIGN CHOICE: an attention step names no layer record). -/
def State.appendTo (s : State) (ups : List Upset) (e : AttnEnv) (notes : List PageNote) (n : Nat) (js : List Nat)
    (rows : List (List F32 × List F32)) : State × List PageNote × Bytes :=
  let a := e.par
  let o := (e.base + e.off + js.headD 0) % 256
  let i := s.ptIndex e.stream a.layer n
  let f := ptFrame ((s.asRead ups).ptEntry i)
  let fault := s.appendFault ups e n o
  let block := s.faultBlock ups e n f
  match fault with
  | some x =>
    let (s, notes) := s.notePage e.ctx e.slot e.shuttle e.stream a.layer notes n x block
    (s, notes, [])
  | none =>
    let g := if o = 0 then a.geom else headerGeom (s.read f 128)
    let ranges := (if o = 0 then (0, 0x1000) :: g.padding else []) ++
      (List.range js.length).flatMap (fun j => g.rowRanges (o + j))
    let bad := (ranges.flatMap (fun r => s.failingBlocks ups (f + r.1) r.2)).eraseDups
    let (s, notes) := bad.foldl (fun (x : State × List PageNote) k =>
      x.1.notePage e.ctx e.slot e.shuttle e.stream a.layer x.2 n 8 k) (s, notes)
    let sp : AppendSpec := ⟨a.geom, a.headroom, a.keySpan, a.valSpan, e.prompt, a.firstKv, a.setKv⟩
    let (s, out) := s.appendPage bad sp e.ctx e.stream a.layer n f o rows
    let s := (s.fillTo i (o + js.length)).perf 0x10 js.length (loomOfAddr f) (some e.ctx) (some (0x1000 + e.shuttle))
    let s := s.countWrite f (js.length * (g.keyRow + g.expRow + g.chans))
    let sat := (List.range js.length).filter (fun j => (out.getD j (0, false, [])).1 != 0 || (out.getD j (0, false, [])).2.1)
    let s := if sat.isEmpty then s else s.raise e.ctx e.slot a.layer (sat.map (fun j => e.off + js.getD j 0)) .actSat
    (if out.any (·.2.1) then s.raiseNonfinite e.ctx a.layer else s, notes, out.flatMap (·.2.2))

/-- Append the rows of the run's positions that lie in the step's segments, page by page, each after its lookup. The bytes of the
appended rows come back for the step's output digest (R272). -/
def State.attnAppend (s : State) (ups : List Upset) (e : AttnEnv) (rows : List (List F32)) : State × List PageNote × Bytes :=
  let a := e.par
  let (qlen, _) := s.attnRow e.ctx a
  let p0 := e.base + e.off
  let kv (r : List F32) : List F32 × List F32 :=
    let x := r.drop qlen
    if a.latent then (x, []) else (x.take (a.setKv * a.dim), x.drop (a.setKv * a.dim))
  let mine := (List.range rows.length).filter (fun j =>
    decide (512 * a.segFirst ≤ p0 + j ∧ p0 + j < 512 * (a.segFirst + a.segCount)))
  ((mine.map (fun j => (p0 + j) / 256)).eraseDups).foldl (fun (x : State × List PageNote × Bytes) n =>
    let js := mine.filter (fun j => (p0 + j) / 256 == n)
    let notes := if x.2.1.any (fun y => y.page == n) then x.2.1 else ⟨n, [], []⟩ :: x.2.1
    let (s, notes, bs) := (x.1.lookUp e.ctx e.stream a.layer n ups).appendTo ups e notes n js (js.map (fun j => kv (rows.getD j [])))
    (s, notes, x.2.2 ++ bs)) (s, [], [])

/-- Faults, flags and ECC events that reading the step's pages brings (R145, R146, R259, R261); a page that the step has
appended to has had its lookup. -/
def State.attnReadEvents (s : State) (ups : List Upset) (e : AttnEnv) (notes : List PageNote) (n : Nat) (views : List PageView) :
    State :=
  let a := e.par
  (views.foldl (fun (x : State × List PageNote) v =>
    let s := if x.2.any (fun y => y.page == v.page) then x.1 else x.1.lookUp e.ctx e.stream a.layer v.page ups
    match v.fault with
    | some z => s.notePage e.ctx e.slot e.shuttle e.stream a.layer x.2 v.page z (s.faultBlock ups e v.page v.frame)
    | none =>
      let qs := (List.range 256).filter (fun q => !((s.asRead ups).masked a e.bound (e.bound - 1) (256 * v.page + q)))
      let ranges := (0, 0x1000) :: qs.flatMap v.geom.rowRanges
      let units := (ranges.flatMap (fun r => struckUnits ups (v.frame + r.1) r.2)).eraseDups
      let bad := ((qs.flatMap (s.badRow ups v))).eraseDups
      let s := s.eccEvents e.ctx units
      let s := if units.any (fun u => u.2.corrected != 0) then s.check e.ctx e.slot fun k => { k with eccCorr := true } else s
      let (s, notes) := bad.foldl (fun (x : State × List PageNote) k =>
        x.1.notePage e.ctx e.slot e.shuttle e.stream a.layer x.2 v.page 8 k) (s, x.2)
      let s := if v.geom.width < a.geom.width then
          s.raise e.ctx e.slot a.layer ((List.range n).map (fun j => e.off + j)) .fmtMismatch
        else s
      ((s.perf 0x0F qs.length (loomOfAddr v.frame) (some e.ctx) (some (0x1000 + e.shuttle))).perf 0x13
        (ceilDiv (qs.length * (v.geom.keyRow + v.geom.expRow + v.geom.chans)) 64) (loomOfAddr v.frame) none none, notes))
    (s, notes)).1

/-- The ranges beside its pages that an ATTN step reads: SRC, the mask bitmap, the expansion tensors, and in the lead the
partials of the others, of `unit` bytes each. -/
def State.attnReads (s : State) (c : Nat) (st : PlanStep) (a : AttnParam) (n unit bound : Nat) : List (Nat × Nat) :=
  let (qlen, rlen) := s.attnRow c a
  let aux (x : Nat) : Nat × Nat := let t := s.auxAt c x; (x, t.2.1 * (t.1 + t.1 / 64))
  (addrLocal st.src, 4 * (qlen + rlen) * n) :: (if a.mask = 0 then [] else [(addrLocal a.mask, ceilDiv bound 8)]) ++
    (if a.latent then [aux (addrLocal a.wUk), aux (addrLocal a.wUv)] else []) ++
    (if bitOf st.flags 0 then ((List.range a.partials).filter (fun k => k != a.rank)).map (fun k => (addrLocal a.merge + k * unit, unit))
     else [])

/-- A failed check of a shuttle's integers, or of its running statistics (R114, R141): its own count, then as R116 says. -/
def State.shuttleFails (s : State) (c l : Nat) (st : PlanStep) (shuttle : Nat) (residue stat : Bool) (data : Bytes) : State :=
  let s := if stat then
      (s.modShuttle shuttle fun x => { x with stat := satAdd max8 x.stat 1 }).residueFail c st.slot .shuttle l 5 2 shuttle data
    else s
  if residue then
    (s.modShuttle shuttle fun x => { x with residue := satAdd max8 x.residue 1 }).residueFail c st.slot .shuttle l 4 2 shuttle data
  else s

/-- The step's output digest covers the rows it appended, `kept`, and what it writes here: page headers, which name the layer, are not
in it (DEDUCED: twin layers have their own, so no two strands could agree). A step that does not lead puts its merged partials into
the lead's loom store (R142); the segments' partials behind them are what the lead's fold takes, so that the row is R140's one fold in
ascending order however the segments are split (DEDUCED: a merge of merged partials, as R142 words it, could give other bits). -/
def State.putPartials (s : State) (c l : Nat) (d : Due) (st : PlanStep) (at_ : Nat) (segs : List (List Partial)) (kept bytes : Bytes) :
    State :=
  let taken := s.fabricStatus c l 1 at_ bytes.length == 0
  let s := s.unitStore c l st at_ bytes
  let s := if taken then { s with kvt := { s.kvt with partials := Tab.ins at_ segs s.kvt.partials } } else s
  s.foldStep c l d.idx d.iter st.slot (kept ++ bytes)

/-- The segments' partials of row `i` that the lead takes from the buffer entry at `x`: those behind the put partial, or the
entry itself where it holds other bytes. -/
def State.takenPartials (s : State) (set n x i : Nat) : List Partial :=
  let own := parsePartial n (s.read (x + i * 4 * (2 + n)) (4 * (2 + n)))
  let segs := (Tab.getD [] s.kvt.partials x).getD i []
  if segs ≠ [] ∧ mergeAll set n segs = own then segs else [own]

/-- The output row of query row `i` (R140, R143, R144): `m` is the memory as it is read. -/
def State.finishOut (m : State) (c : Nat) (a : AttnParam) (i : Nat) (r : Partial) : List F32 :=
  let set := m.sec.tableSet
  if a.latent then
    let (rows, cols, scale) := m.auxAt c (addrLocal a.wUv)
    let d := cols / max a.g 1
    if r.m = f32NegInf then List.replicate d f32Zero
    else expandValue (m.read (addrLocal a.wUv) (cols * (rows + rows / 64))) rows d (i % max a.heads 1) scale (finishRow set r)
  else finishRow set r

/-- The lead merges every segment's partials in ascending order and writes the rows to OUT (R140, R142-R144). -/
def State.leadRows (s : State) (c l : Nat) (d : Due) (st : PlanStep) (a : AttnParam) (shuttle unit : Nat) (m : State)
    (segs : List (List Partial)) (kept : Bytes) : State :=
  let set := s.sec.tableSet
  let row (i : Nat) : Partial := mergeAll set a.dim ((List.range (max a.partials 1)).flatMap (fun k =>
    if k = a.rank then segs.getD i [] else m.takenPartials set a.dim (addrLocal a.merge + k * unit) i))
  let merged := (List.range segs.length).map row
  let outs := merged.zipIdx.flatMap (fun x => m.finishOut c a x.2 x.1)
  let empty := (merged.filter (fun r => r.m == f32NegInf)).length
  let s := if empty = 0 then s else
    (s.modShuttle shuttle fun x => { x with empty := satAdd max32 x.empty empty }).check c st.slot fun k =>
      { k with emptyRow := true }
  let s := if outs.any isNaN then s.raiseNonfinite c a.layer else s
  let bytes := f32Bytes outs
  (s.unitStore c l st (addrLocal st.dst) bytes).foldStep c l d.idx d.iter st.slot (kept ++ bytes)

/-- The whole work of an ATTN step: append, score, merge, write. -/
def State.attnWork (s : State) (c l : Nat) (d : Due) (st : PlanStep) (ups : List Upset) : State :=
  let a := parseAttn (stepParam (s.image c) st 64)
  let shuttle := l * 96 + st.unit
  match s.slotReq c st.slot with
  | none => s
  | some q =>
    let (off, n) := s.attnSpan c l d.idx st a
    let base := s.runBase c st.slot q
    let e : AttnEnv := ⟨c, st.slot, shuttle, q.stream, a, s.inPrompt c st.slot, base, off, base + off + n⟩
    let (qlen, rlen) := s.attnRow c a
    let len := qlen + rlen
    let unit := roundUp (n * a.heads * 4 * (2 + a.dim)) 64
    let reads := s.attnReads c st a n unit e.bound
    let seen := s.seenBy c l ups reads
    let rows := (List.range n).map (fun j => seen.vec (addrLocal st.src + 4 * len * j) len)
    let data := s.stepCapture c l d.idx (seen.read (addrLocal st.src) (4 * len * n))
    let s := s.modShuttle shuttle fun x => { x with latent := a.latent, context := c }
    let s := State.each reads (fun s x => s.unitRead c l st x.1 x.2 ups) s
    let (s, notes, kept) := s.attnAppend ups e rows
    let views := (attnPages a (e.bound - 1)).map (fun p => s.viewPage ups c e.stream a.layer p a.geom)
    let m := s.seenBy c l ups reads
    let queries := (List.range n).flatMap (fun j => (List.range a.heads).map (fun h =>
      (⟨j * a.heads + h, base + off + j, h, m.attnQuery c ups a (rows.getD j []) (j * a.heads + h) h⟩ : QueryRow)))
    let segs := queries.map (fun r => s.attnSegments ups a (s.auxAt c (addrLocal a.wUk)).2.2 e.bound r views)
    let bad := s.attnResidueBad ups a e.bound queries views
    let s := s.attnReadEvents ups e notes n views
    let s := s.shuttleFails c l st shuttle bad (ups.contains .stat) data
    if bitOf st.flags 0 then s.leadRows c l d st a shuttle unit m segs kept
    else s.putPartials c l d st (addrLocal a.merge + a.rank * unit) segs kept
      (segs.flatMap (fun x => partialBytes (mergeAll s.sec.tableSet a.dim x)))

def execAttnStep (c : Fin 256) (l : Fin 5) (i : BitVec 18) (ups : List Upset) (s : State) :
    Host.Outcome State Fault Refusal :=
  .next (if l.val < 4 then s.runStep c.val l.val i.toNat 4 0 none (fun d st s => s.attnWork c.val l.val d st ups) else s)

end Sys2Proof.Machine
end

