-- ==== Sys2Proof/Machine/Beater.lean ====
section
/-! DEFINITION. MVM and MEND steps: conversion and selvage check (R40-R54), dent products (R101-R103), alignment and
saturating accumulation (R105, R106), mending (R92-R94), drain into reduction words (R109, R110, R113). -/

namespace Sys2Proof.Machine

/-! ## One dent of one bit-plane -/

/-- A conversion: code and near field (R44, R45). -/
structure Conv where
  code : Nat
  lo : Bool
  hi : Bool
deriving DecidableEq, Repr

/-- The conversion of an undisturbed segment holding `n` units. -/
def cleanConv (n : Nat) : Conv := ⟨n, false, false⟩

/-- Count of a conversion with the substitute of R53. -/
def Conv.count (c : Conv) : Nat := if c.code ≤ 64 then c.code else 0
def Conv.over (c : Conv) : Bool := decide (64 < c.code)

/-- The conversion is flagged for e (R50). -/
def Conv.flagged (c : Conv) (e : Int) : Bool :=
  if c.lo && c.hi then false
  else if e = 1 then c.lo && c.code != 0
  else if e = -1 then c.hi && c.code != 64
  else false

/-- DA and DB of 528 conversions (R49). -/
def syndromeA (cs : List Conv) : Int :=
  (sumNat ((cs.take 512).map Conv.count) : Int) -
    sumNat ((List.range 10).map (fun j => 2 ^ j * (cs.getD (512 + j) (cleanConv 0)).count))
def syndromeB (cs : List Conv) : Nat :=
  let n := sumNat ((List.range 512).map (fun c => c * (cs.getD c (cleanConv 0)).count))
  let q := sumNat ((List.range 6).map (fun k => 2 ^ k * (cs.getD (522 + k) (cleanConv 0)).count))
  (n + 64 * q - q) % 64

/-- What becomes of a dent (R50): used as read, one column corrected by -e, or uncorrected. -/
inductive DentResult where
  | clean
  | corrected (column : Nat) (e : Int)
  | uncorrected
deriving DecidableEq, Repr

/-- Candidate columns and their e for a syndrome pair (Table 2.4). -/
def candidates (da : Int) (db : Nat) : List (Nat × Int) :=
  if da = 1 ∨ da = -1 then
    let c0 := unsigned 6 (da * db)
    (List.range 8).map (fun t => (c0 + 64 * t, da)) ++ (if db = 0 then [(512, -da)] else [])
  else if da = 0 then
    (List.range 6).flatMap (fun k =>
      (if db = 2 ^ k then [(522 + k, (-1 : Int))] else []) ++ (if db = 64 - 2 ^ k then [(522 + k, 1)] else []))
  else if db = 0 then
    (List.range 9).flatMap (fun j =>
      if da = 2 ^ (j + 1) then [(513 + j, (-1 : Int))] else if da = -(2 ^ (j + 1) : Int) then [(513 + j, 1)] else [])
  else []

/-- Resolve one dent of one bit-plane (R50, Table 2.4). -/
def resolve (cs : List Conv) : DentResult :=
  let da := syndromeA cs
  let db := syndromeB cs
  if cs.any Conv.over then .uncorrected
  else if da = 0 ∧ db = 0 then .clean
  else
    match (candidates da db).filter (fun x => (cs.getD x.1 (cleanConv 0)).flagged x.2) with
    | [(c, e)] => .corrected c e
    | _ => .uncorrected

/-- The counts that go on to the combining stages (R47, R53). -/
def dentCounts (cs : List Conv) : List Nat :=
  match resolve cs with
  | .corrected c e => (cs.map Conv.count).set c ((cs.getD c (cleanConv 0)).code - e).toNat
  | _ => cs.map Conv.count

/-! ## One heddle -/

/-- The rows of dent `d` that plane `b` drives 1 (R41, R94), from the dent's activation block. -/
def drivenRows (blk : Option ActBlock) (w b : Nat) : List Nat :=
  match blk with
  | none => []
  | some a => (List.range 64).filter (fun i =>
      !bitOf a.removed i && bitOf (unsigned w (a.elems.getD i 0)) b)

/-- The true counts of dent `d` (R40). -/
def trueCounts (h : Heddle) (d : Nat) (driven : List Nat) : List Nat :=
  let rows := driven.map (fun i => h.row (64 * d + i))
  (List.range 528).map (fun c => (rows.filter (fun r => bitOf r c)).length)

/-- The conversions of dent `d`, plane `b` of heddle `i` of its harness, with the upsets that strike them. -/
def dentConvs (h : Heddle) (i d b : Nat) (driven : List Nat) (ups : List Upset) : List Conv :=
  ups.foldl (fun cs u =>
    match u with
    | .conv g p dn col code lo hi =>
      if g.val = i ∧ p.val = b ∧ dn.val = d then
        let plain := decide (code.val ≤ 64)
        cs.set col.val ⟨code.val, lo && plain && code.val != 0, hi && plain⟩
      else cs
    | _ => cs) ((trueCounts h d driven).map cleanConv)

/-- A plane's product of output column `o` with its residue (R101, R102, R115); `a` rows were driven 1. -/
def planeProduct (w a : Nat) (counts : List Nat) (o : Nat) : Resd :=
  let n (i : Nat) : Resd := Resd.of (counts.getD (o * w + i) 0 : Nat)
  if w = 1 then ((n 0).shl 1).add (Resd.of a).neg
  else Resd.sum ((List.range w).map (fun i => if i + 1 = w then ((n i).shl i).neg else (n i).shl i))

/-- What the beater learns of one dent over all planes: the products of its output columns with their residues, and per plane
the result, the syndromes and whether a code was over range. -/
structure DentWork where
  products : List Resd
  results : List (DentResult × Int × Nat × Bool)
deriving DecidableEq, Repr

/-- The dent product of column `o` from the planes' driven rows and counts, planes in ascending order (R101). -/
def dentProduct (w : Nat) (planes : List (Nat × List Nat)) (o : Nat) : Resd :=
  Resd.sum ((List.range planes.length).map (fun b =>
    let p := planes.getD b (0, [])
    let x := (planeProduct w p.1 p.2 o).shl b
    if b + 1 = planes.length then x.neg else x))

/-- Convert, check and combine dent `d` (R42-R53, R101). -/
def dentWork (h : Heddle) (i : Fin 64) (d w aw : Nat) (blk : Option ActBlock) (ups : List Upset) : DentWork :=
  let planes := (List.range aw).map (fun b =>
    let driven := drivenRows blk aw b
    (driven.length, dentConvs h i.val d b driven ups))
  let counts := planes.map (fun p => (p.1, dentCounts p.2))
  { products := (List.range h.colsUsed).map (fun o =>
      (dentProduct w counts o).struck ups (.product i (Fin.ofNat 8 d) (Fin.ofNat 512 o)))
    results := planes.map (fun p => (resolve p.2, syndromeA p.2, syndromeB p.2, p.2.any Conv.over)) }

/-- An accumulator with its residue; whether a clamp has occurred, and whether a check has failed. -/
structure Acc where
  sum : Resd := ⟨0, 0⟩
  sat : Bool := false
  bad : Bool := false
deriving DecidableEq, Repr

/-- sat32 (R106): the value is checked before a clamp, and the residue goes on from the bound (R115). Whether it clamped, and
whether the check then failed. -/
def sat32 (x : Resd) : Resd × Bool × Bool :=
  let v := clampInt (-(2 ^ 31 : Int)) (2 ^ 31 - 1) x.val
  if v = x.val then (x, false, false) else (Resd.of v, true, !x.ok)

/-- A 32-bit saturating add (R106). -/
def Acc.add (a : Acc) (c : Resd) : Acc :=
  let (c', clampedC, badC) := sat32 c
  let (t, clampedT, badT) := sat32 (a.sum.add c')
  ⟨t, a.sat || clampedC || clampedT, a.bad || badC || badT⟩

/-- The stage-8 check of an accumulator, after the faults that strike it (R104). -/
def Acc.verify (ups : List Upset) (i : Fin 64) (o : Nat) (a : Acc) : Acc :=
  let x := a.sum.struck ups (.accumulator i (Fin.ofNat 512 o))
  { a with sum := x, bad := a.bad || !x.ok }

/-- The mending contributions of column `o` to heddle `h`, in ascending channel order: each outlier of the heddle's
rows times its weight, from the 96-byte row copy that `copy` gives (R92, R93, R105). -/
def mendContribs (h : Heddle) (i : Fin 64) (w eBase : Nat) (outs : List Outlier) (copy : Nat → Bytes) (ups : List Upset)
    (o : Nat) : List Resd :=
  let mine := outs.filter (fun x => decide (h.rowFirst ≤ x.channel ∧ x.channel < h.rowFirst + h.rowsUsed))
  (List.range mine.length).map (fun n =>
    let x := mine.getD n ⟨0, 0, 0⟩
    let bs := copy (x.channel - h.rowFirst)
    let q := weightInt w (fld (le bs 0 64) (o * w) w)
    (((Resd.of x.value).mul (Resd.of q)).struck ups (.mending i (Fin.ofNat 512 o) n)).shl
      (x.exp + byteAt bs (64 + o / 16) - eBase))

/-- The accumulator of column `o` (R106): dents in order, then mending. -/
def columnAcc (h : Heddle) (eMin : Nat) (exps : List Nat) (dents : List (List Resd)) (mend : Nat → List Resd) (o : Nat) : Acc :=
  let eBase := h.eWmin + eMin
  let dentPart := (List.range 8).map (fun d =>
    ((dents.getD d []).getD o ⟨0, 0⟩).shl (h.expOf d (o / 16) + exps.getD d eMin - eBase))
  (dentPart ++ mend o).foldl Acc.add {}

/-! ## Effects of one heddle's conversions -/

/-- The uncorrected planes of dent `d`, ascending. -/
def badPlanes (d : Nat) (w : DentWork) : List LastFail :=
  (List.range w.results.length).filterMap (fun b =>
    match w.results[b]? with
    | some (DentResult.uncorrected, da, db, ov) => some ⟨d, b, ov, true, da, db⟩
    | _ => none)
def correctedPlanes (w : DentWork) : Nat :=
  (w.results.filter (fun r => match r.1 with | DentResult.corrected _ _ => true | _ => false)).length

/-- HDL_LAST_FAIL as a word (Table 2.15). -/
def LastFail.word (f : LastFail) : Word :=
  pack [(0, 3, f.dent), (3, 3, f.plane), (6, 1, b2n f.ovr), (7, 1, b2n f.valid),
    (8, 16, unsigned 16 (clampInt (-32768) 32767 f.da)), (24, 6, f.db)]

/-- One uncorrected dent and plane (R54). -/
def State.dentFail (s : State) (g : Nat) (f : LastFail) : State :=
  s.modHeddle g fun h =>
    { h with uncorr := satAdd max16 h.uncorr 1, ovr := satAdd max16 h.ovr (b2n f.ovr), lastFail := f }

/-- An uncorrected dent (R52), `f` its latest record: with masking on, the slots in their first attempt wait for a targeted
scrub, and for those in their replay the event is reported; with masking off the scrub is asked for and the event reported.
`data` are the dent's activation planes. -/
def State.uncorrectedDent (s : State) (c slot g : Nat) (f : LastFail) (data : Bytes) : State :=
  let detail := f.word.toNat
  let d := f.dent
  let slots := s.servedSlots c slot
  let again := slots.filter (fun i => (s.batch c i).replaying)
  let first := slots.filter (fun i => !(s.batch c i).replaying)
  let masked := (s.ctx c).ctl.maskEff
  let s := s.check c slot fun k => { k with dentBad := true }
  let s := if again.isEmpty then s
    else
      let (cap, s) := s.capture 1 [(1, harnessOfHeddle g)] (toLe 4 g ++ data)
      (s.report (.uncorrected g d f.plane)).healthEvent 1 1 (harnessOfHeddle g) c cap detail
  if masked && first.isEmpty && !again.isEmpty then s
  else
    let waits := if masked then first else []
    let s := State.each waits (fun s i => s.modBatch c i fun b => { b with replayTargets := b.replayTargets ++ [(g, d)] }) s
    let s := if waits.isEmpty then s.report (.uncorrected g d f.plane) else s
    let t : Target := ⟨g, d, c, waits, detail, toLe 4 g ++ data, false, false⟩
    ({ s with arr := { s.arr with targets := s.arr.targets ++ [t] } }).modHarness (harnessOfHeddle g) fun h =>
      { h with scrubBusy := true }

/-- The activation planes of a dent as 8 bytes a plane, for a capture. -/
def planeBytes (blk : Option ActBlock) (aw : Nat) : Bytes :=
  (List.range aw).flatMap (fun b => toLe 8 (sumNat ((drivenRows blk aw b).map (fun i => 2 ^ i))))

/-- Counts, flags and events of the dents of heddle `g` (R51, R52, R54); HDL_LAST_FAIL takes the failures plane by plane, as the
conversions come, and within a plane by dent. -/
def State.dentEvents (s : State) (c slot l g aw : Nat) (ws : List (DentWork × Option ActBlock)) : State :=
  let n := 8 * 528 * aw
  let corr := sumNat (ws.map (fun w => correctedPlanes w.1))
  let e := some (harnessOfHeddle g)
  let s := s.modHeddle g fun h =>
    { h with
      convs := h.convs + n, passConvs := h.passConvs + n
      corr := satAdd max32 h.corr corr, passCorr := h.passCorr + corr }
  let s := (s.perfConversions n l (some c) e).perf 0x09 corr l (some c) e
  let s := if corr = 0 then s else s.check c slot fun k => { k with corrected := true }
  let bad (d : Nat) : List LastFail := ((ws[d]?).map (fun w => badPlanes d w.1)).getD []
  let all := (List.range ws.length).flatMap bad
  let s := State.each ((List.range aw).flatMap (fun b => all.filter (fun f => f.plane == b))) (fun s f => s.dentFail g f) s
  let s := s.perf 0x0A all.length l (some c) e
  State.each (List.range ws.length) (fun s d =>
    match (bad d).getLast?, ws[d]? with
    | some f, some w => s.uncorrectedDent c slot g f (planeBytes w.2 aw)
    | _, _ => s) s

/-! ## The MVM step -/

/-- The MEND steps of a context that serve an MVM of harness `u` of list `l` in iteration `n`: same layer, tensor and
slot (R104 stage 7, Table 6.8). -/
def State.mendsOf (s : State) (c l u n slot layer tensor : Nat) : List PlanStep :=
  ((planList (s.image c) l).map (·.2)).filter (fun st =>
    let p := stepParam (s.image c) st 16
    st.kind == 2 && s.physUnit c 1 l (mendHarness p) == u && mvmLayer p == layer && mvmTensor p == tensor &&
      st.slot == slot && decide (n % max st.every 1 = st.phase))

/-- The 96-byte row copy of row `r` of heddle `g` (R93), zeros where none was built. -/
def State.rowCopy (s : State) (c g r : Nat) : Bytes :=
  match (s.ctx c).ctl.rowCopies.find? (fun x => x.1 == g * 512 + r) with
  | some (_, a) => s.read a 96
  | none => List.replicate 96 0

/-- The activation block that drives dent `d` of a heddle, none for rows the layer does not use (R41, R105). -/
def blockOf (h : Heddle) (acts : List ActBlock) (d : Nat) : Option ActBlock :=
  if 64 * d < h.rowsUsed then acts[h.rowFirst / 64 + d]? else none

/-- The accumulators of one heddle, one for each used output column (R105, R106), as stage 8 leaves them. -/
def heddleAccs (h : Heddle) (i : Fin 64) (w eMin : Nat) (acts : List ActBlock) (ws : List DentWork) (outs : List Outlier)
    (copy : Nat → Bytes) (ups : List Upset) : List Acc :=
  let exps := (List.range 8).map (fun d => ((blockOf h acts d).map (·.exp)).getD eMin)
  (List.range h.colsUsed).map (fun o =>
    (columnAcc h eMin exps (ws.map (·.products)) (mendContribs h i w (h.eWmin + eMin) outs copy ups) o).verify ups i o)

/-- The tile that a step leaves (R107). -/
def tileOf (accs : List Acc) (eBase : Int) : Tile :=
  let put (f : Acc → Int) : Tab Int := (List.range accs.length).foldl (fun t o => Tab.put 0 t o (f (accs.getD o {}))) []
  { acc := put (·.sum.val)
    res := (List.range accs.length).foldl (fun t o => Tab.put 0 t o (accs.getD o {}).sum.res) []
    eBase := eBase, sat := accs.any (·.sat) }

/-- The operands of a heddle's accumulators (R109, R114). -/
def drainOperands (h : Heddle) (i : Fin 64) (wref : Nat) (accs : List Acc) (ups : List Upset) : List Resd :=
  (List.range accs.length).map (fun o =>
    ((accs.getD o {}).sum.shl (h.eWmin - wref)).struck ups (.operand i (Fin.ofNat 512 o)))

/-- Heddle `g` has filled the tile of a bank (R107); a clamp shows in its saturation flag and count (R106, R121). -/
def State.noteTile (s : State) (g bank : Nat) (accs : List Acc) (eBase : Int) : State :=
  let sat := accs.any (·.sat)
  let tile := tileOf accs eBase
  let now := s.clk.elapsed
  s.modHeddle g fun h =>
    { h with
      tile0 := if bank = 0 then tile else h.tile0, tile1 := if bank = 0 then h.tile1 else tile
      satFlag := h.satFlag || sat, satBank := if sat then bank else h.satBank
      satCount := satAdd max16 h.satCount (b2n sat), setAt := if sat then note h.setAt 0 now else h.setAt }

/-- The drain of one heddle from word `a` on: its operands enter the reduction words of its columns (R109, R110, R113), by
remote adds or puts where the words lie beside another loom (R22). -/
def State.drain (s : State) (c l : Nat) (st : PlanStep) (a : Nat) (store : Bool) (ops : List Resd) : State :=
  let n := 8 * ops.length
  let status := s.fabricStatus c l (if store then 1 else 4) a n
  if status = 0 then
    (State.each (List.range ops.length) (fun s o => s.redPut store (a + 8 * o) (ops.getD o ⟨0, 0⟩).operand) s).countWrite a n
  else s.refusedHere c l st status

/-- What a selected heddle of an MVM works on. -/
structure MvmIn where
  layer : Nat
  offs : List Nat
  width : Nat
  aw : Nat
  acts : List ActBlock
  outs : List Outlier
  bank : Nat
  wref : Nat
  dst : Nat
  store : Bool
deriving DecidableEq, Repr

/-- The dents of a heddle. -/
def heddleDents (h : Heddle) (i : Fin 64) (x : MvmIn) (ups : List Upset) : List DentWork :=
  (List.range 8).map (fun d => dentWork h i d x.width x.aw (blockOf h x.acts d) ups)

/-- One selected heddle of an MVM: its conversions, its tile, its operands (R104). A check of stages 4 and 8 that fails is of
the beater path; the second result says so. -/
def State.mvmHeddle (s : State) (c l : Nat) (st : PlanStep) (x : MvmIn) (i : Fin 64) (g : Nat) (copy : Nat → Bytes)
    (ups : List Upset) : State × Bool :=
  let slot := st.slot
  let h := s.heddle g
  let ws := heddleDents h i x ups
  let eMin := eMinOf x.acts
  let accs := heddleAccs h i x.width eMin x.acts ws x.outs copy ups
  let s := s.dentEvents c slot l g x.aw ((List.range 8).map (fun d => (ws.getD d ⟨[], []⟩, blockOf h x.acts d)))
  let s := s.noteTile g x.bank accs (h.eWmin + eMin)
  let s := if accs.any (·.sat) then s.raise c slot x.layer x.offs .accSat else s
  (s.drain c l st (x.dst + 8 * h.colFirst) x.store (drainOperands h i x.wref accs ups),
    ws.any (fun w => !w.products.all Resd.ok) || accs.any (·.bad))

/-- The activation vector of an MVM. -/
def State.mvmActs (s : State) (c : Nat) (st : PlanStep) : List ActBlock :=
  let r := s.recipe c
  let layer := mvmLayer (stepParam (s.image c) st 16)
  let n := layChannels r layer / 64
  parseActs (layActWidth r layer) n (s.read (addrLocal st.src) (n * actSize (layActWidth r layer)))

/-- The MEND steps that serve an MVM, and the ranges of their outlier records. -/
def State.mvmMends (s : State) (c l iter : Nat) (st : PlanStep) : List (Nat × Nat) :=
  let p := stepParam (s.image c) st 16
  (s.mendsOf c l st.unit iter st.slot (mvmLayer p) (mvmTensor p)).map (fun m =>
    (addrLocal m.src, 8 * laySlots (s.recipe c) (mvmLayer p)))

/-- What each selected heddle of an MVM works on, as the memory stands. -/
def State.mvmIn (s : State) (c l iter : Nat) (st : PlanStep) : MvmIn :=
  let p := stepParam (s.image c) st 16
  let r := s.recipe c
  { layer := mvmLayer p, offs := [s.stepOffset c l st], width := tenWidth r (mvmTensor p), aw := layActWidth r (mvmLayer p)
    acts := s.mvmActs c st
    outs := (s.mvmMends c l iter st).flatMap (fun m => parseOutliers (m.2 / 8) (s.read m.1 m.2))
    bank := mvmBank p, wref := mvmWref p, dst := addrLocal st.dst, store := mvmOpmode p == 1 }

/-- The range of the activation records of an MVM. -/
def State.mvmSource (s : State) (c : Nat) (st : PlanStep) : Nat × Nat :=
  let layer := mvmLayer (stepParam (s.image c) st 16)
  (addrLocal st.src, layChannels (s.recipe c) layer / 64 * actSize (layActWidth (s.recipe c) layer))

/-- A fault of a step's mending products whose residue disagrees. -/
def mendFaults (ups : List Upset) : List Upset :=
  ups.filter (fun u => match u with
    | .fault (.mending _ _ _) v r => r.val % 7 != mod7 v
    | _ => false)

/-- The memory as an MVM step reads it. -/
def State.mvmSeen (s : State) (c l iter : Nat) (st : PlanStep) (ups : List Upset) : State :=
  s.seenBy c l ups (s.mvmSource c st :: s.mvmMends c l iter st)

/-- The whole work of an MVM step (R104). -/
def State.mvmWork (s : State) (c l : Nat) (d : Due) (st : PlanStep) (ups : List Upset) : State :=
  let seen := s.mvmSeen c l d.iter st ups
  let x := seen.mvmIn c l d.iter st
  let harness := l * 1024 + st.unit
  let (src, n) := s.mvmSource c st
  let data := s.stepCapture c l d.idx (seen.read src n)
  let s := s.unitRead c l st src n ups
  let (s, bad) := ((List.finRange 64).filter (fun i => bitOf (mvmHeddles (stepParam (s.image c) st 16)) i.val)).foldl (fun r i =>
    let (t, b) := r.1.mvmHeddle c l st x i (harness * 64 + i.val) (seen.rowCopy c (harness * 64 + i.val)) ups
    (t, r.2 || b)) (s, false)
  if bad then s.residueFail c st.slot .beater l 4 1 harness data else s

/-- A replay does not read a heddle until its targeted scrubs are done (R52). -/
def State.scrubbing (s : State) (c slot harness : Nat) : Bool :=
  (s.servedSlots c slot).any (fun i => (s.batch c i).replaying &&
    (s.batch c i).replayTargets.any (fun t => harnessOfHeddle t.1 == harness))

/-- MVM_STEP. -/
def State.mvmStep (s : State) (c l i : Nat) (ups : List Upset) : State :=
  let st := s.stepAt c l i
  if l < 4 ∧ !s.scrubbing c st.slot (l * 1024 + st.unit) then
    s.runStep c l i 1 0 none (fun d st s => s.mvmWork c l d st ups)
  else s

def execMvmStep (c : Fin 256) (l : Fin 5) (i : BitVec 18) (ups : List Upset) (s : State) :
    Host.Outcome State Fault Refusal := .next (s.mvmStep c.val l.val i.toNat ups)

/-! ## The MEND step -/

/-- The heddles of the served harness whose rows an outlier's channel crosses. -/
def State.mendHeddles (s : State) (harness tensor : Nat) : List Nat :=
  ((List.range 64).map (fun i => harness * 64 + i)).filter (fun g => (s.heddle g).programmed && (s.heddle g).tensor == tensor)

/-- The work of a MEND step (R92): it reads the outlier records and the row copies they name and checks its products (R114),
which join stage 7 of the MVM that it serves. -/
def State.mendWork (s : State) (c l : Nat) (d : Due) (st : PlanStep) (ups : List Upset) : State :=
  let p := stepParam (s.image c) st 16
  let r := s.recipe c
  let n := laySlots r (mvmLayer p)
  let src := addrLocal st.src
  let seen := s.seenBy c l ups [(src, 8 * n)]
  let outs := parseOutliers n (seen.read src (8 * n))
  let data := s.stepCapture c l d.idx (seen.read src (8 * n))
  let harness := l * 1024 + s.physUnit c 1 l (mendHarness p)
  let heddles := s.mendHeddles harness (mvmTensor p)
  let copies := heddles.flatMap (fun g =>
    let h := s.heddle g
    outs.filterMap (fun x =>
      if h.rowFirst ≤ x.channel ∧ x.channel < h.rowFirst + h.rowsUsed then
        ((s.ctx c).ctl.rowCopies.find? (fun y => y.1 == g * 512 + (x.channel - h.rowFirst))).map (·.2)
      else none))
  let s := s.unitRead c l st src (8 * n) ups
  let s := State.each copies (fun s a => s.unitRead c l st a 96 ups) s
  let s := s.perf 0x0C outs.length l (some c) (some (stepEngine l st))
  if (mendFaults ups).isEmpty then s else s.residueFail c st.slot .mending l 4 4 (l * 16 + st.unit) data

def execMendStep (c : Fin 256) (l : Fin 5) (i : BitVec 18) (ups : List Upset) (s : State) :
    Host.Outcome State Fault Refusal :=
  .next (if l.val < 4 then s.runStep c.val l.val i.toNat 2 0 none (fun d st s => s.mendWork c.val l.val d st ups) else s)

end Sys2Proof.Machine
end

