-- ==== Sys2Proof/Machine/Remote.lean ====
section
/-! DEFINITION. Remote memory operations (R148-R151): the issuing steps PUT, GET, ADD, KNOT and RECV, and the arrivals
PUT, GET, GET_DATA, ADD48, KNOT_SET, ACK and NACK. -/

namespace Sys2Proof.Machine

/-! ## Sealed data (R229, R153) -/

/-- Heddle `g` holds, or still has to be cleared of, weights of a sealed context. -/
def State.sealedHeddle (s : State) (g : Nat) : Bool :=
  ((s.heddle g).role == 1 || (s.heddle g).role == 2) && (s.ctx (s.heddle g).context).ctl.sealed ||
    (s.harness (harnessOfHeddle g)).zeroing || (s.heddle g).zeroing

/-- `a` holds weight data of a sealed context: a pattern copy, the auxiliary area, an auxiliary or mending row copy, an older one
included (R229). -/
def State.sealedAt (s : State) (a : Nat) : Bool :=
  (decide (patternBase ≤ a ∧ a < hbmEnd) && s.sealedHeddle ((a - patternBase) / 0x9000)) ||
    s.arr.sealedCopies.any (fun x => decide (x.1 ≤ a ∧ a < x.1 + x.2)) ||
    s.ctxNums.any (fun c =>
      let k := (s.ctx c).ctl
      k.sealed &&
        (decide (k.auxBase ≤ a ∧ a < k.auxBase + k.auxSize) ||
          k.rowCopies.any (fun x => decide (x.2 ≤ a ∧ a < x.2 + 96)) ||
          ((s.ctx c).cur.aux ++ (((s.ctx c).staged.map (·.aux)).getD [])).any (fun t =>
            t.copies.any (fun b => b != 0 && decide (b ≤ a ∧ a < b + t.length)))))

/-- The byte an outside reader gets at `a` (R133, R229). -/
def State.outsideByte (s : State) (a : Nat) : Byte := if s.sealedAt a then 0 else s.filteredByte a
def State.outsideBytes (s : State) (a n : Nat) : Bytes := (List.range n).map (fun i => s.outsideByte (a + i))

/-- Count an access to sealed data in the aggregator. -/
def State.noteSealed (s : State) (a n : Nat) : State :=
  if (List.range n).any (fun i => s.sealedAt (a + i)) then s.report .sealedRead else s

/-! ## Acceptance (R150) -/

/-- The context's plan is enabled and one of its regions, or its KV arena, takes [a, a+n); nothing but a get reaches a frame whose
entry is VALID and PUBLISHED (R133), and nothing the pattern area (R241). -/
def State.takes (s : State) (c opc a n : Nat) : Bool :=
  (s.ctx c).ctl.state != 0 && allocatable a n && (opc == 2 || !s.frameClosed a n) &&
    (match regionOf (s.image c) a n with
     | some r => admits r.type opc
     | none => s.inArena c a n && (opc == 2 || opc == 1))

/-- 0 when the operation is accepted, else the STATUS of its NACK (Table 6.2). -/
def State.nackStatus (s : State) (c opc a n : Nat) : Nat :=
  if s.memTroubled a then 3
  else if s.takes c opc a n then 0
  else if s.enabled.any (fun e => e != c && ((regionOf (s.image e) a n).isSome || s.inArena e a n)) then 2
  else 1

/-! ## Pieces (R149, R151, R257, R258) -/

/-- Cut `n` bytes at `a` into pieces of 4 KiB, read from `seen`; each carries the tally that the stored tallies give it, with the
summed errors of its source blocks, so that a bit which no code corrected makes it fail (R258, R261). -/
def State.cutPieces (s seen : State) (get : State → Nat → Nat → Bytes) (a n : Nat) : List Piece :=
  (List.range (ceilDiv n 4096)).map (fun j =>
    let len := min 4096 (n - 4096 * j)
    ⟨get seen (a + 4096 * j) len, crc32c (get s (a + 4096 * j) len) ^^^ s.rangeErr (a + 4096 * j) len⟩)

/-- The pieces with their addresses. -/
def placePieces : Nat → List Piece → List (Nat × Piece)
  | _, [] => []
  | a, p :: t => (a, p) :: placePieces (a + p.data.length) t

/-- A piece's error: the received tally XOR the tally recomputed (R257). -/
def pieceErr (p : Piece) : Word := p.tally ^^^ crc32c p.data

/-- A failed piece is reported, and recorded against the port it came by. -/
def State.pieceFail (s : State) (a path : Nat) : State :=
  let s := s.report (.pieceTally a)
  if path < 36 then s.healthEvent 6 7 path 0xFF 0xFF a else s

/-- Write received pieces: as received, or by STORE of whole words where the region holds reduction words. -/
def State.applyPut (s : State) (words : Bool) (path a : Nat) (ps : List Piece) : State :=
  let s := State.each (placePieces a ps) (fun s x =>
    let e := pieceErr x.2
    let s := if e = 0 then s else s.pieceFail x.1 path
    let s := s.countWrite x.1 x.2.data.length
    if words && e == 0 then
      State.each (List.range (x.2.data.length / 8)) (fun s j =>
        s.redPut true (x.1 + 8 * j) (parseRed (le x.2.data (8 * j) 8))) s
    else s.pieceWrite x.1 x.2.data e) s
  s.arrived a (sumNat (ps.map (fun p => p.data.length)))

/-- Add received operands; a failed piece sets RES_FAIL in each of its words instead (R151). -/
def State.applyAdd (s : State) (path a : Nat) (ps : List Piece) : State :=
  State.each (placePieces a ps) (fun s x =>
    let bad := pieceErr x.2 != 0
    let s := if bad then s.pieceFail x.1 path else s
    State.each (List.range (x.2.data.length / 8)) (fun s j =>
      let w := x.1 + 8 * j
      if bad then s.write w (redBytes { s.redWord w with fail := true })
      else s.redPut false w (parseRed (le x.2.data (8 * j) 8))) s) s

/-- The region that holds `a` in context `c`'s plan keeps reduction words. -/
def State.wordRegion (s : State) (c a n : Nat) : Bool := ((regionOf (s.image c) a n).map (fun r => r.type == 2)).getD false

/-! ## Issuing steps -/

/-- Count an issued operation of step `st`. -/
def State.perfIssued (s : State) (c l : Nat) (st : PlanStep) : State :=
  (s.perf 0x15 1 l (some c) (some (stepEngine l st))).perf 0x16 (ceilDiv st.length 64) l (some c) (some (stepEngine l st))

/-- Send an operation of step `st` through an Xeast port. -/
def State.sendStepOp (s : State) (c l opc dst dstAddr srcAddr : Nat) (st : PlanStep) (ps : List Piece) : State :=
  s.issue (9 * l + st.unit) (sealOp
    { opc := opc, status := 0, srcPlace := planPlace (s.image c), dstPlace := dst, context := c, dstAddr := dstAddr
      srcAddr := srcAddr, length := st.length, tally := 0, pieces := ps })

/-- Pieces reach memory of this module: added, stored as words, or written. -/
def State.land (s : State) (opc : Nat) (words : Bool) (a : Nat) (ps : List Piece) : State :=
  if opc = 4 then s.applyAdd 0xFFFF a ps else s.applyPut words 0xFFFF a ps

/-- The VALID entries of stream `t`, by index. -/
def State.streamEntries (s : State) (t : Nat) : List (Nat × Bytes) :=
  ((List.range ((s.stream t).layers * s.smapPages t)).map (fun j => (s.smapPtBase t + j, s.ptEntry (s.smapPtBase t + j)))).filter
    (fun e => ptValid e.2 && ptStream e.2 == t)

/-- The request that a PUT step serves, when its pages move to another module (Table 8.8). -/
def State.handingOff (s : State) (c : Nat) (st : PlanStep) : Option Request :=
  (s.slotReq c st.slot).bind (fun q => if q.state = 3 then some q else none)

/-- What step (l, i), one of the slot's PUT steps, moves for the request of its slot: its share of the blocks of the stream's
committed pages, each with its layer, page and offset. The spec gives no order: the pages fall to the steps in turn (DESIGN CHOICE). -/
def State.handOffBlocks (s : State) (c l i : Nat) (st : PlanStep) : List (Nat × Nat × Nat × Nat) :=
  match s.handingOff c st with
  | none => []
  | some q =>
    let puts := ((planSteps (s.image c)).filter (fun x => x.2.2.kind == 5 && x.2.2.slot == st.slot)).map (fun x => (x.1, x.2.1))
    let pages := (s.streamEntries q.stream).filter (fun e => decide (256 * ptPage e.2 < s.commitOf q.stream))
    (pages.zipIdx.filter (fun x => x.2 % max puts.length 1 == puts.idxOf (l, i))).flatMap (fun x =>
      (List.range (s.frameSize c / 4096)).map (fun j =>
        (ptLayer x.1.2, ptPage x.1.2, 4096 * j, ptFrame x.1.2 + 4096 * j)))

/-- A PUT step of a slot in Handoff moves its share of the pages to the place and stream named at STREAM_OPEN, each block with its
stored tally (R39, R218). -/
def State.handOff (s : State) (c l i : Nat) (st : PlanStep) : State :=
  match s.handingOff c st with
  | none => s
  | some q =>
    let x := s.stream q.stream
    State.each (s.handOffBlocks c l i st) (fun s b =>
      (s.checkedRead c st.slot b.2.2.2 4096 []).emit (.pageOut (9 * l + st.unit) x.recvPlace x.recvStream b.1 b.2.1 b.2.2.1
        (s.read b.2.2.2 4096) (s.storedTally (b.2.2.2 / 4096)))) s

/-- PUT (opcode 1) and ADD (opcode 4): the source is read as a unit of the loom reads it (R148), the destination is local, in the
package or remote. On the local path the unit itself writes; a destination beside another loom is then reached as R23 says. -/
def State.putWork (s : State) (c l opc : Nat) (st : PlanStep) (ups : List Upset) : State :=
  let src := addrLocal st.src
  let dst := addrLocal st.dst
  let n := st.length
  let ps := (s.seenBy c l [] [(src, n)]).cutPieces (s.seenBy c l ups [(src, n)]) State.read src n
  let s := (s.perfIssued c l st).unitRead c l st src n ups
  let words := s.wordRegion c dst n
  if st.unit ≤ 8 then s.sendStepOp c l opc (addrPlace st.dst) dst 0 st ps
  else if st.unit = 0x1F then
    let status := s.fabricStatus c l opc dst n
    if status != 0 then s.refusedHere c l st status
    else if opc = 4 ∨ words then s.land opc words dst ps
    else ((s.unitWrite dst (ps.flatMap (·.data))).countWrite dst n).arrived dst n
  else
    let status := s.nackStatus c opc dst n
    if status != 0 then s.refusedHere c l st status else s.land opc words dst ps

/-- GET: the source is remote, in the package or local, the destination local. -/
def State.getWork (s : State) (c l : Nat) (st : PlanStep) (ups : List Upset) : State :=
  let src := addrLocal st.src
  let dst := addrLocal st.dst
  let n := st.length
  let s := s.perfIssued c l st
  if st.unit ≤ 8 then s.sendStepOp c l 2 (addrPlace st.src) dst src st []
  else if st.unit = 0x1F then
    let data := (s.seenBy c l ups [(src, n)]).read src n
    (s.unitRead c l st src n ups).unitStore c l st dst data
  else
    let status := s.nackStatus c 2 src n
    if status != 0 then s.refusedHere c l st status
    else
      let ps := s.cutPieces (s.asRead ups) State.outsideBytes src n
      let s := (s.noteSealed src n).checkedRead c st.slot src n ups
      let status := s.fabricStatus c l 1 dst n
      if status != 0 then s.refusedHere c l st status else s.applyPut false 0xFFFF dst ps

/-- Remote operations that a step leaves outstanding: one through an Xeast port, none otherwise. -/
def opsOut (st : PlanStep) : Nat := if st.unit ≤ 8 then 1 else 0

/-- PUT. Each block of a page that the step hands off is an operation of its own, acknowledged like the step's. -/
def execPutStep (c : Fin 256) (l : Fin 5) (i : BitVec 18) (ups : List Upset) (s : State) :
    Host.Outcome State Fault Refusal :=
  .next (
    let st := s.stepAt c.val l.val i.toNat
    if l.val < 4 then s.runStep c.val l.val i.toNat 5 (opsOut st + (s.handOffBlocks c.val l.val i.toNat st).length) none
      (fun _ st s => (s.putWork c.val l.val 1 st ups).handOff c.val l.val i.toNat st)
    else s)

def execGetStep (c : Fin 256) (l : Fin 5) (i : BitVec 18 × List Upset) (s : State) : Host.Outcome State Fault Refusal :=
  .next (if l.val < 4 then s.runStep c.val l.val i.1.toNat 6 (opsOut (s.stepAt c.val l.val i.1.toNat)) none
    (fun _ st s => s.getWork c.val l.val st i.2) else s)

def execAddStep (c : Fin 256) (l : Fin 5) (i : BitVec 18) (ups : List Upset) (s : State) :
    Host.Outcome State Fault Refusal :=
  .next (if l.val < 4 then s.runStep c.val l.val i.toNat 7 (opsOut (s.stepAt c.val l.val i.toNat)) none
    (fun _ st s => s.putWork c.val l.val 4 st ups) else s)

/-- A KNOT step does nothing but wait and, at its end, set (Table 6.7). -/
def execKnotStep (c : Fin 256) (l : Fin 5) (i : BitVec 18) (s : State) : Host.Outcome State Fault Refusal :=
  .next (s.runStep c.val l.val i.toNat 8 0 none (fun _ _ s => s))

/-- A RECV step holds its port's inbound capacity while it runs (R169); nothing else changes. -/
def execRecvStep (c : Fin 256) (l : Fin 5) (i : BitVec 18) (s : State) : Host.Outcome State Fault Refusal :=
  .next (if l.val < 4 then s.runStep c.val l.val i.toNat 0xE 0 none (fun _ _ s => s) else s)

/-! ## Arrivals -/

/-- Answer an operation on its path. -/
def State.answer (s : State) (op : RemoteOp) (path opc status : Nat) (dstAddr : Nat) (ps : List Piece) : State :=
  s.issue path (sealOp
    { opc := opc, status := status, srcPlace := op.dstPlace, dstPlace := op.srcPlace, context := op.context
      dstAddr := dstAddr, srcAddr := 0, length := if opc = 3 then op.length else 0, tally := 0, pieces := ps })

/-- An arriving operation of opcode `opc` (R150, R151): a header whose tally fails, and an unknown opcode, are discarded
and reported; one that is not accepted is refused by NACK; `f` has the effect. -/
def State.arrive (s : State) (op : RemoteOp) (path opc a n : Nat) (f : State → State) : State :=
  if !s.awake then s
  else if op.tally != crc32c (opHeader op) then
    let s := s.report .headerTally
    if opc = 5 then s else s.answer op path 7 4 0 []
  else if op.opc = 0 ∨ 7 < op.opc then s.report (.unknownOp op.opc)
  else if op.opc != opc then s
  else
    let status := s.nackStatus op.context opc a n
    if status != 0 then (s.report (.nackSent status)).answer op path 7 status 0 []
    else f s

/-- A shadow put over a twin port (R307): while paired it is held for its shadow record; it goes to a whole block of
the arena of a shadowed context. -/
def State.shadowArrive (s : State) (op : RemoteOp) (path : Nat) : State :=
  let ok := s.twin.state == 1 && s.twin.contexts.contains op.context && s.inArena op.context op.dstAddr op.length
  if !s.awake then s
  else if crc32c (opHeader op) != op.tally then (s.report .headerTally).answer op path 7 4 0 []
  else if ok then
    let held := (placePieces op.dstAddr op.pieces).map (fun x => (x.1, x.2.data, pieceErr x.2))
    ({ s with twin := { s.twin with blocks := s.twin.blocks ++ held } }).answer op path 6 0 0 []
  else (s.report (.nackSent 1)).answer op path 7 1 0 []

/-- PUT arrives. -/
def execPut (op : RemoteOp) (path : BitVec 16) (s : State) : Host.Outcome State Fault Refusal :=
  .next (if 32 ≤ path.toNat ∧ path.toNat < 36 then s.shadowArrive op path.toNat
    else s.arrive op path.toNat 1 op.dstAddr op.length (fun s =>
      (s.applyPut (s.wordRegion op.context op.dstAddr op.length) path.toNat op.dstAddr op.pieces).answer op path.toNat 6 0 0 []))

/-- GET arrives: the data is read, checked and filtered, and sent back in a GET_DATA. -/
def execGet (op : RemoteOp) (path : BitVec 16) (s : State) : Host.Outcome State Fault Refusal :=
  .next (s.arrive op path.toNat 2 op.srcAddr op.length (fun s =>
    let ps := s.cutPieces s State.outsideBytes op.srcAddr op.length
    ((s.noteSealed op.srcAddr op.length).checkedRead op.context 0xFFFE op.srcAddr op.length []).answer op path.toNat 3 0
      op.dstAddr ps))

/-- The running GET step of context `c` on port `path` whose destination is `a`. -/
def State.getRun (s : State) (c path a : Nat) : Option Run :=
  s.sched.runs.find? (fun r =>
    let st := s.stepAt r.ctx r.list r.idx
    r.ctx == c && r.outstanding != 0 && st.kind == 6 && 9 * r.list + st.unit == path && addrLocal st.dst == a)

/-- A step's operation is acknowledged; once it has also ended it closes. -/
def State.acked (s : State) (r : Run) : State :=
  let r' := { r with outstanding := r.outstanding - 1, ackOfs := some ((s.clk.pick : Int) - r.start) }
  let swap (x : Run) : Run := if sameRun r.ctx r.list r.idx x && x.iter == r.iter then r' else x
  let s := { s with sched := { s.sched with runs := s.sched.runs.map swap } }
  if r'.outstanding = 0 ∧ r.ended.isSome then s.closeRun r' else s

/-- GET_DATA arrives: its pieces are written at the GET step's own destination, which completes the operation. -/
def execGetData (op : RemoteOp) (path : BitVec 16) (s : State) : Host.Outcome State Fault Refusal :=
  .next (
    if !s.awake then s
    else if op.tally != crc32c (opHeader op) then s.report .headerTally
    else if op.opc = 0 ∨ 7 < op.opc then s.report (.unknownOp op.opc)
    else if op.opc != 3 then s
    else match s.getRun op.context path.toNat op.dstAddr with
      | none => s
      | some r => (s.applyPut false path.toNat op.dstAddr op.pieces).acked r)

/-- ADD48 arrives: each operand is added indivisibly (R110). -/
def execAdd48 (op : RemoteOp) (path : BitVec 16) (s : State) : Host.Outcome State Fault Refusal :=
  .next (s.arrive op path.toNat 4 op.dstAddr op.length (fun s =>
    (s.applyAdd path.toNat op.dstAddr op.pieces).answer op path.toNat 6 0 0 []))

/-- KNOT_SET arrives: LENGTH is added to the knot (R152). -/
def execKnotSet (op : RemoteOp) (path : BitVec 16) (s : State) : Host.Outcome State Fault Refusal :=
  .next (s.arrive op path.toNat 5 op.dstAddr 8 (fun s =>
    (s.setKnot op.dstAddr op.length op.context (.arrived op.srcPlace path.toNat)).answer op path.toNat 6 0 0 []))

/-- The run of step (c, l, i) with operations outstanding. -/
def State.outRun (s : State) (c l i : Nat) : Option Run := s.sched.runs.find? (fun r => sameRun c l i r && r.outstanding != 0)

/-- The step's KNOT_SET to another module is answered. -/
def State.setAnswered (s : State) (c l i : Nat) : State :=
  { s with sched := { s.sched with sets := s.sched.sets.erase (c, l, i) } }

/-- An ACK or NACK arrives for an operation of the step: for its KNOT_SET of an earlier run, else for an operation of its run. A
header whose tally is off is discarded and reported (R151). `refused` marks the step's path where it is a NACK. -/
def State.answered (s : State) (c l i : Nat) (headerErr : Word) (refused : PlanStep → State → State) : State :=
  if headerErr ≠ 0 then s.report .headerTally
  else if s.sched.sets.contains (c, l, i) then refused (s.stepAt c l i) (s.setAnswered c l i)
  else match s.outRun c l i with
    | none => s
    | some r => (refused (s.stepAt r.ctx r.list r.idx) s).acked r

/-- ACK arrives for an operation of the step. -/
def execAck (c : Fin 256) (l : Fin 5) (i : BitVec 18 × Word) (s : State) : Host.Outcome State Fault Refusal :=
  .next (s.answered c.val l.val i.1.toNat i.2 (fun _ s => s))

/-- NACK arrives: the issuing step completes, the path is marked and the event reported (R150). -/
def execNack (c : Fin 256) (l : Fin 5) (i : BitVec 18 × Word) (status : Fin 5) (s : State) : Host.Outcome State Fault Refusal :=
  .next (s.answered c.val l.val i.1.toNat i.2 (fun st s =>
    ((s.report (.nackGot status.val)).check c.val st.slot fun k => { k with nackBad := true }).perf 0x17 1 l.val (some c.val)
      (some (stepEngine l.val st))))

end Sys2Proof.Machine
end

