-- ==== Sys2Proof/Machine/Sensors.lean ====
section
/-! DEFINITION. Temperature sensors: neighbours (R361), used values (R362), the programming window of a tier (R236),
the hottest values of dies, looms, the hub and the module (R363). -/

namespace Sys2Proof.Machine

/-- Neighbours in a grid of `cols` × `rows` whose sensors start at `base`. -/
def gridNear (base cols rows k : Nat) : List Nat :=
  (if k % cols = 0 then [] else [base + k - 1]) ++ (if k % cols + 1 < cols then [base + k + 1] else []) ++
    (if k < cols then [] else [base + k - cols]) ++ (if k + cols < cols * rows then [base + k + cols] else [])

/-- Neighbours of global sensor `n` (Table 13.5, R361). -/
def sensorNear (n : Nat) : List Nat :=
  if n < 768 then
    let t := n / 24
    gridNear (t * 24) 6 4 (n % 24) ++ (if t % 8 = 0 then [] else [n - 24]) ++ (if t % 8 = 7 then [] else [n + 24])
  else if n < 928 then gridNear (768 + (n - 768) / 40 * 40) 8 5 ((n - 768) % 40)
  else gridNear 928 4 4 (n - 928)

/-- The sensors of a tier, of a base die, of the hub die; the die of a sensor. -/
def tierSensors (t : Nat) : List Nat := (List.range 24).map (fun i => t * 24 + i)
def baseSensors (l : Nat) : List Nat := (List.range 40).map (fun i => 768 + l * 40 + i)
def hubSensors : List Nat := (List.range 16).map (fun i => 928 + i)
def dieSensors (n : Nat) : List Nat :=
  if n < 768 then tierSensors (n / 24) else if n < 928 then baseSensors ((n - 768) / 40) else hubSensors

/-- The largest of a list of readings. -/
def maxInt (l : List Int) : Option Int :=
  match l with
  | [] => none
  | x :: t => some (t.foldl max x)

/-- Readings of the sensors of a list that are not suspect. -/
def State.soundReadings (s : State) (l : List Nat) : List Int :=
  (l.filter (fun n => !(s.sensor n).suspect)).map (fun n => (s.sensor n).reading)

/-- The used value of a sensor, in quarter degrees (R362). -/
def State.used (s : State) (n : Nat) : Int :=
  let x := s.sensor n
  if !x.suspect then x.reading
  else match maxInt (s.soundReadings (sensorNear n)) with
    | some v => v + 8
    | none => match maxInt (s.soundReadings (dieSensors n)) with
      | some v => v + 40
      | none => 380

/-- Every sensor of the die that holds sensor `n` is suspect. -/
def State.dieBlind (s : State) (n : Nat) : Bool := (s.soundReadings (dieSensors n)).isEmpty

/-- The tier lies inside the 10–90 °C programming window, on every sensor (R236). -/
def State.tierInWindow (s : State) (t : Nat) : Bool :=
  (tierSensors t).all (fun n => decide (40 ≤ s.used n ∧ s.used n ≤ 360))

/-- The hottest used value of a list of sensors, and the lowest-numbered sensor that gives it. -/
def State.hottest (s : State) (l : List Nat) : Int × Nat :=
  match l with
  | [] => (0, 0)
  | n :: t => t.foldl (fun (m : Int × Nat) k => if m.1 < s.used k then (s.used k, k) else m) (s.used n, n)

/-- The 232 sensors of a loom (R58). -/
def loomSensors (l : Nat) : List Nat := (List.range 192).map (fun i => l * 192 + i) ++ baseSensors l

/-- The loom's hottest value now. -/
def State.loomHottest (s : State) (l : Nat) : Int := (s.hottest (loomSensors l)).1

end Sys2Proof.Machine
end

