-- ==== Sys2Proof/Machine/Harness.lean ====
section
/-! DEFINITION. Harnesses: which plans use a unit, calibration windows and trims (R55-R60), programming a heddle from
its pattern copy (R234, R240), row repair (R65), states and their transitions (R69, R70), and their commands. -/

namespace Sys2Proof.Machine

/-! ## Use -/

/-- A step of context `c`'s plan runs on a unit of domain (kind, idx). -/
def State.planNames (s : State) (c kind idx : Nat) : Bool :=
  (planSteps (s.image c)).any (fun x => (enclosing (stepDomain x.1 (s.physStep c x.1 x.2.2)).1
    (stepDomain x.1 (s.physStep c x.1 x.2.2)).2).contains (kind, idx))
/-- An enabled plan uses the harness. -/
def State.harnessInPlan (s : State) (h : Nat) : Bool := s.enabled.any (fun c => s.planNames c 1 h)
/-- A plan in Running or Stopping uses the harness. -/
def State.harnessRuns (s : State) (h : Nat) : Bool := s.running.any (fun c => s.planNames c 1 h)
/-- The harness runs a step now. -/
def State.harnessBusy (s : State) (h : Nat) : Bool := s.sched.runs.any (fun r => r.ended.isNone && r.engine == h)

/-! ## Calibration and trims -/

/-- Picks since the end of the harness's last calibration window (Table 2.18). -/
def State.sinceCal (s : State) (h : Nat) : Nat :=
  let x := s.harness h
  min 0xFFFFFF (x.calBase + (match x.calAt with | none => 0 | some a => s.clk.elapsed - a))

/-- A calibration window or a back-to-back trim of the harness in progress is abandoned. -/
def State.dropWindow (s : State) (h : Nat) : State :=
  ({ s with arr := { s.arr with windows := s.arr.windows.filter (fun w => w.harness != h) } }).modHarness h fun x =>
    { x with trimBusy := false, trimOld := false }

/-- The harness stops being Active: SINCE_CAL stands still; it starts again when Active returns. -/
def State.calStop (s : State) (h : Nat) : State :=
  (s.modHarness h fun x => { x with calBase := s.sinceCal h, calAt := none }).dropWindow h

/-- Active harnesses of a loom have all applied the re-trim. -/
def State.retrimDone (s : State) (l : Nat) : Bool :=
  (List.range 1024).all (fun i => (s.harness (l * 1024 + i)).state != 1 || decide (4 ≤ (s.harness (l * 1024 + i)).retrimWindows))

/-- A full re-trim of a loom begins (R58); windows and trims in progress are no part of it. -/
def State.retrimStart (s : State) (l : Nat) : State :=
  let t := s.loomHottest l
  let s := s.modLoom l fun x =>
    { x with tRef := t, retrimBusy := true, retrimCount := (x.retrimCount + 1) % 65536 }
  let clear (h : Nat) (x : Harness) : Harness :=
    if loomOfHarness h = l then { x with retrimWindows := 0, trimOld := x.trimBusy } else x
  let old (w : CalWindow) : CalWindow := if loomOfHarness w.harness = l then { w with retrim := false } else w
  { s with arr := { s.arr with harnesses := Tab.mapAll {} clear s.arr.harnesses, windows := s.arr.windows.map old } }

/-- The loom has drifted by more than 6 °C from its reference (R58). -/
def State.drifted (s : State) (l : Nat) : Bool :=
  decide (24 < s.loomHottest l - (s.loom l).tRef) || decide (24 < (s.loom l).tRef - s.loomHottest l)

/-- When the last Active harness has applied its trim the re-trim is complete; a drifted loom begins anew (R59). -/
def State.retrimCheck (s : State) (l : Nat) : State :=
  if (s.loom l).retrimBusy && s.retrimDone l then
    let s := s.modLoom l fun x => { x with retrimBusy := false }
    if s.drifted l then s.retrimStart l else s
  else s

/-- A back-to-back full trim of the harness is applied (R60): it serves a re-trim that was in progress when it began (R58, R71). A
FULL_TRIM written in the pick in which the trim ends wins over the clearing of its bit (R12), and another trim follows. -/
def State.trimmed (s : State) (h : Nat) : State :=
  let s := s.modHarness h fun x =>
    let again := x.trimBit && notedNow x.setAt 9 s.clk.elapsed
    { x with
      trimBit := again, trimBusy := again && x.state == 1, trimWindows := 0, trimOld := false
      retrimWindows := if x.trimOld then x.retrimWindows else 4, calBase := 0
      calAt := if x.state = 1 then some s.clk.elapsed else none }
  s.retrimCheck (loomOfHarness h)

/-- A calibration window of `n` picks begins (R55). -/
def State.calWindow (s : State) (h n : Nat) : State :=
  let w : CalWindow := ⟨h, s.clk.elapsed + n, (s.harness h).trimWindows != 0, (s.loom (loomOfHarness h)).retrimBusy⟩
  { s with arr := { s.arr with windows := s.arr.windows.filter (fun w => w.harness != h) ++ [w] } }

/-- A calibration window ends (R55, R58): SINCE_CAL counts from here, a full trim that is spread over four windows and a re-trim of
the loom advance, and the fourth applies them. The window ends with the pick before this boundary: a FULL_TRIM written in that pick wins
over the clearing of its bit (R12), and another trim follows. -/
def State.endWindow (s : State) (w : CalWindow) : State :=
  let s := s.modHarness w.harness fun x =>
    let last := w.trim && x.trimWindows == 1
    let again := last && x.trimBit && notedNow x.setAt 9 (s.clk.elapsed - 1)
    { x with
      calBase := 0, calAt := if x.state = 1 then some s.clk.elapsed else none
      trimWindows := if again then 4 else if w.trim then x.trimWindows - 1 else x.trimWindows
      trimBit := x.trimBit && (!last || again)
      retrimWindows := if w.retrim then min 4 (x.retrimWindows + 1) else x.retrimWindows }
  if w.retrim then s.retrimCheck (loomOfHarness w.harness) else s

/-- Windows that end at this pick boundary. -/
def State.endWindows (s : State) : State :=
  let done := s.arr.windows.filter (fun w => decide (w.ends ≤ s.clk.elapsed))
  let s := { s with arr := { s.arr with windows := s.arr.windows.filter (fun w => decide (s.clk.elapsed < w.ends)) } }
  State.each done State.endWindow s

/-! ## Rows and programming -/

/-- The row that the pattern copy gives (R64). -/
def State.rowExpected (s : State) (g r : Nat) : BitVec 528 := rowWithSelvage (s.patternRow g r)
def State.rowStored (s : State) (g r : Nat) : BitVec 528 := Tab.getD 0 (s.heddle g).rows r
/-- A row whose selvage bits do not agree with its own data (R66). -/
def State.selvageBad (s : State) (g r : Nat) : Bool := s.rowStored g r != rowWithSelvage (s.rowStored g r).toNat

/-- A scrub finds row `r` mismatched: it is counted and awaits a rewrite (R65). -/
def State.rowMismatch (s : State) (g r : Nat) : State :=
  let s := { s with arr := { s.arr with mismatchRows := satAdd max16 s.arr.mismatchRows 1 } }
  s.modHeddle g fun x => { x with repair := if x.repair.contains r then x.repair else x.repair ++ [r] }

/-- Rewrite a row from the pattern copy (R65). -/
def State.rowRewrite (s : State) (g r : Nat) : State :=
  let v := s.rowExpected g r
  s.modHeddle g fun x => { x with rows := Tab.put 0 x.rows r v, repair := x.repair.filter (· != r) }

/-- The tier of heddle `g` lies inside the programming window. -/
def State.writable (s : State) (g : Nat) : Bool := s.tierInWindow (tierOfHeddle g)

/-- The harness runs bit-plane slots now: an MVM, or a test. -/
def State.slotsRun (s : State) (h : Nat) : Bool :=
  s.sched.runs.any (fun r =>
    let k := (s.stepAt r.ctx r.list r.idx).kind
    r.ended.isNone && r.engine == h && (k == 1 || k == 0xA))

/-- Rows of heddle `g` may be rewritten: its tier is inside the programming window and its harness is Active (R65, R234). -/
def State.repairable (s : State) (g : Nat) : Bool := s.writable g && (s.harness (harnessOfHeddle g)).state == 1

/-- The rows of a list that differ from the pattern copy. -/
def State.badRows (s : State) (g : Nat) (rows : List Nat) : List Nat :=
  rows.filter (fun r => s.rowStored g r != s.rowExpected g r)

/-- Compare a list of rows with the pattern copy, and repair those that differ where they may be rewritten. Answers how many rows
it repaired. -/
def State.scrubRows (s : State) (g : Nat) (rows : List Nat) : State × Nat :=
  let bad := s.badRows g rows
  let s := State.each bad (fun s r => s.rowMismatch g r) s
  if s.repairable g then (State.each bad (fun s r => s.rowRewrite g r) s, bad.length) else (s, 0)

/-- A read of heddle `g`'s pattern copy: whether it reads cleanly, with the counts of R259 and R261. -/
def State.patternRead (s : State) (g : Nat) (ups : List Upset) : Bool × State :=
  let bad := s.failingBlocks ups (patternAddr g) 0x9000
  let s := s.eccEvents 0xFF (struckUnits ups (patternAddr g) 0x9000)
  (bad.isEmpty, State.each bad (fun s k => s.readFail (k * 4096) 0xFF) s)

/-- The pattern copy is lost: PATTERN_LOST of the heddle and of HDL_SCRUB_STAT, and the report (R66). -/
def State.patternGone (s : State) (g : Nat) : State :=
  let s := (s.modHeddle g fun x => { x with patternLost := true }).report (.patternLost g)
  { s with arr := { s.arr with scrubLost := true, setAt := note s.arr.setAt 1 s.clk.elapsed } }

/-- Scrub a list of rows (R64, R66): against the pattern copy, or, where it is lost, each row's selvage against its own data. How
many rows it repaired. -/
def State.scrubList (s : State) (g : Nat) (rows : List Nat) (ups : List Upset) : State × Nat :=
  let (ok, s) := s.patternRead g ups
  if ok then (s.modHeddle g fun x => { x with patternLost := false }).scrubRows g rows
  else (State.each (rows.filter (s.selvageBad g)) (fun s r => s.rowMismatch g r) (s.patternGone g), 0)

/-- Scrub every row of the programmed heddles of a harness (R71 step 4). -/
def State.scrubHarness (s : State) (h : Nat) : State :=
  State.each ((List.range 64).map (fun i => h * 64 + i)) (fun s g =>
    if (s.heddle g).programmed then (s.scrubList g (List.range 512) []).1 else s) s

/-- Program a heddle from its pattern copy (R234 steps 3-6): rows with selvage, exponents, position, e_wmin. Rows and columns that
the tensor does not use are programmed as the copy has them: no rule masks or refuses a sealed image whose unused part is not 0
(DESIGN CHOICE). -/
def State.programHeddle (s : State) (g : Nat) : State :=
  let h := s.read (patternAddr g) 64
  let rows := (List.range 512).foldl (fun t r => Tab.put (0 : BitVec 528) t r (s.rowExpected g r)) []
  let exps := (List.range 256).foldl (fun t j =>
    Tab.put 0 t j (s.byte (patternAddr g + 0x40 + 32768 + j)).toNat) []
  s.modHeddle g fun x =>
    { x with
      rows := rows, exps := exps, width := byteAt h 0x21, tensor := le h 0 2, rowFirst := le h 8 4, rowsUsed := le h 0xC 2
      colFirst := le h 0x10 4, colsUsed := le h 0x14 2, eWmin := byteAt h 0x22, imageCrc := le h 0x24 4
      programmed := true, zeroing := false, patternLost := false, repair := [], lastCompare := s.clk.wall }

/-- The sets' images that lie on a harness. -/
def State.imagesOn (s : State) (h : Nat) : List ImageAt :=
  s.ctxs.flatMap (fun c => (c.2.cur :: (match c.2.staged with | some w => [w] | none => [])).flatMap (fun w =>
    w.images.filter (fun i => harnessOfHeddle i.heddle == h)))

/-- Reprogram a harness whose cells were lost, from the pattern copies (Table 2.9). -/
def State.reprogram (s : State) (h : Nat) : State :=
  State.each (s.imagesOn h) (fun s i =>
    let (ok, s) := s.patternRead i.heddle []
    if ok then s.programHeddle i.heddle else s.patternGone i.heddle) s

/-! ## States -/

/-- Contents of a harness are lost. -/
def State.loseCells (s : State) (h : Nat) : State :=
  State.each ((List.range 64).map (fun i => h * 64 + i)) (fun s g => s.modHeddle g fun x =>
    { x with rows := [], exps := [], programmed := false, repair := [], tile0 := {}, tile1 := {} }) s

/-- Begin a return to Active: from Off it reprograms, and is held while the tier lies outside the window (R69). -/
def State.returnActive (s : State) (h : Nat) : State :=
  let x := s.harness h
  if x.state = 0 then
    let hold := !s.tierInWindow (tierOfHarness h)
    let s := s.modHarness h fun x => { x with state := 3, goal := some 1, reprogram := true, held := hold, heldAt := s.clk.wall }
    if hold then s.report (.heldReturn h) else s
  else s.modHarness h fun x => { x with state := 3, goal := some 1, wakeWall := some s.clk.wall }

/-- REQ_STATE asks for Active. Table 2.9 is silent on a request made while the harness is in transition: one that is on its way to
Retention or Off turns back (DESIGN CHOICE, here and in the two requests below). -/
def State.reqActive (s : State) (h : Nat) : State :=
  let s := s.modHarness h fun x => { x with req := 1 }
  let x := s.harness h
  if s.outOfUse 1 h then s.report (.ignoredRequest h)
  else if x.state = 0 ∨ x.state = 2 then s.returnActive h
  else if x.state = 3 ∧ x.goal ≠ some 1 ∧ !s.harnessInPlan h then
    s.modHarness h fun x => { x with goal := some 1, wakeWall := some s.clk.wall }
  else s

/-- REQ_STATE asks for Retention: ignored and counted when Off, or returning from Off, or used by an enabled plan. A harness in
transition otherwise changes its goal (DESIGN CHOICE). -/
def State.reqRetention (s : State) (h : Nat) : State :=
  let s := s.modHarness h fun x => { x with req := 2 }
  let x := s.harness h
  if x.state = 0 ∨ (x.state = 3 ∧ (x.reprogram ∨ x.goal = some 0)) ∨ s.harnessInPlan h then s.report (.ignoredRequest h)
  else if x.state = 1 then (s.calStop h).modHarness h fun x => { x with state := 3, goal := some 2 }
  else if x.state = 3 then s.modHarness h fun x => { x with goal := some 2 }
  else s

/-- REQ_STATE asks for Off: a held return is withdrawn; a harness that an enabled plan uses is left alone. A harness in transition
changes its goal (DESIGN CHOICE). -/
def State.reqOff (s : State) (h : Nat) : State :=
  let s := s.modHarness h fun x => { x with req := 0 }
  let x := s.harness h
  if x.held then s.modHarness h fun x => { x with state := 0, goal := none, held := false, reprogram := false }
  else if s.harnessInPlan h then s.report (.ignoredRequest h)
  else if x.state = 0 then s
  else if x.state = 1 then (s.calStop h).modHarness h fun x => { x with state := 3, goal := some 0 }
  else (s.dropWindow h).modHarness h fun x => { x with state := 3, goal := some 0 }

/-- The harness is Active again: the trim of its return is applied. -/
def State.nowActive (s : State) (h : Nat) : State :=
  ((s.modHarness h fun x => { x with state := 1, goal := none, reprogram := false, wakeWall := none }).trimmed h).refresh

/-- The programming engine brings a harness to Active before it writes (R234 step 1). -/
def State.wakeHarness (s : State) (h : Nat) : State :=
  if (s.harness h).state = 1 then s
  else
    let s := if (s.harness h).state = 0 ∨ (s.harness h).reprogram then s.reprogram h else s
    (s.modHarness h fun x => { x with req := 1, state := 1, goal := none, held := false, reprogram := false }).trimmed h

/-- A transition ends: once its last step has ended, its wake has finished, its reprogramming is done (R69, Table 2.9). A wake from
Retention ends with its full trim; after reprogramming the full trim begins, and its end makes the harness Active. -/
def State.transitionDone (s : State) (h : Nat) : State :=
  let x := s.harness h
  if x.state != 3 || x.held || x.trimBusy || s.harnessBusy h then s
  else match x.goal with
    | some 1 =>
      if !x.reprogram then s.nowActive h
      else if !s.tierInWindow (tierOfHarness h) then
        (s.modHarness h fun x => { x with held := true, heldAt := s.clk.wall }).report (.heldReturn h)
      else (s.reprogram h).modHarness h fun x => { x with trimBusy := true }
    | some 2 => (s.modHarness h fun x => { x with state := 2, goal := none }).retrimCheck (loomOfHarness h)
    | some _ => ((s.modHarness h fun x => { x with state := 0, goal := none, reprogram := false }).loseCells h).retrimCheck (loomOfHarness h)
    | none => s

/-! ## Commands -/

/-- A privileged write that acts on the requester's selected harness. -/
def State.onHarness (s : State) (who : Who) (f : Nat → State → State) : State :=
  s.prvWrite who fun j s => f (s.sel j).harn s

def execHarnessReqActive (who : Who) (s : State) : Host.Outcome State Fault Refusal :=
  .next (s.onHarness who fun h s => s.reqActive h)
def execHarnessReqRetention (who : Who) (s : State) : Host.Outcome State Fault Refusal :=
  .next (s.onHarness who fun h s => s.reqRetention h)
def execHarnessReqOff (who : Who) (s : State) : Host.Outcome State Fault Refusal :=
  .next (s.onHarness who fun h s => s.reqOff h)
def execHarnessTransitionDone (h : Fin 4096) (s : State) : Host.Outcome State Fault Refusal :=
  .next (if s.powered then s.transitionDone h.val else s)
/-- The tier is back inside the window: the held return goes on. -/
def execHarnessReturnResume (h : Fin 4096) (s : State) : Host.Outcome State Fault Refusal :=
  .next (if (s.harness h.val).held && s.tierInWindow (tierOfHarness h.val) then
    s.modHarness h.val fun x => { x with held := false } else s)

/-- FULL_TRIM (Table 2.17): over the next four windows while a Running or Stopping plan uses the harness, back to back
otherwise; outside Active the trim of its return serves. -/
def State.fullTrim (s : State) (h : Nat) : State :=
  let x := s.harness h
  let s := s.modHarness h fun x => { x with trimBit := true, setAt := note x.setAt 9 s.clk.elapsed }
  if x.state != 1 then s
  else if s.harnessRuns h then s.modHarness h fun x => { x with trimWindows := if x.trimWindows = 0 then 4 else x.trimWindows }
  else s.modHarness h fun x => { x with trimBusy := true }

def execFullTrim (who : Who) (s : State) : Host.Outcome State Fault Refusal :=
  .next (s.onHarness who fun h s => s.fullTrim h)
/-- 768 ns later the trim is applied and the harness takes plan steps again (R60); the trim that ends a return from Off makes it
Active. -/
def execFullTrimDone (h : Fin 4096) (s : State) : Host.Outcome State Fault Refusal :=
  .next (
    let x := s.harness h.val
    if x.trimBusy && s.powered then
      (if x.state == 3 && x.goal == some 1 && x.reprogram then s.nowActive h.val else (s.trimmed h.val).refresh)
    else s)

/-- The loom sequencer's window, every 250,000 picks, for an Active harness no Running or Stopping plan uses (R57). -/
def execSequencerCalWindow (h : Fin 4096) (s : State) : Host.Outcome State Fault Refusal :=
  .next (if s.awake && (s.harness h.val).state == 1 && !(s.harness h.val).trimBusy && !s.harnessRuns h.val &&
      !s.troubled 1 h.val && s.arr.windows.all (fun w => w.harness != h.val) && decide (250000 ≤ s.sinceCal h.val + 48) then s.calWindow h.val 48 else s)

/-- At L − 48 every harness of an Armed plan that knows L gets a window that ends at L (R57). -/
def execLaunchCalWindow (c : Fin 256) (s : State) : Host.Outcome State Fault Refusal :=
  .next (
    let k := (s.ctx c.val).ctl
    match k.launchPick with
    | some l =>
      if k.state = 3 ∧ s.up ∧ l = s.clk.pick + 48 then
        State.each (((planSteps (s.image c.val)).filterMap fun x =>
          let d := stepDomain x.1 (s.physStep c.val x.1 x.2.2)
          if d.1 = 1 then some d.2 else none).eraseDups) (fun s h => s.calWindow h 48) s
      else s
    | none => s)

/-- CAL_STEP (R55): the step's own length is the window. -/
def execCalStep (c : Fin 256) (l : Fin 5) (i : BitVec 18) (s : State) : Host.Outcome State Fault Refusal :=
  .next (if l.val < 4 then s.runStep c.val l.val i.toNat 9 0 none (fun _ st s => s.calWindow (l.val * 1024 + st.unit) st.len)
    else s)

end Sys2Proof.Machine
end

