-- ==== Sys2Proof/Machine/Kv.lean ====
section
/-! DEFINITION. Page commands (R132, Table 5.8) and the stream commands of Table 8.10. -/

namespace Sys2Proof.Machine

/-! ## Twin halves (R306) -/

/-- While paired, stream `t` and the frame number and entry number of a shadowed context lie in this module's half. -/
def State.ownHalf (s : State) (c x half : Nat) : Bool :=
  if s.twin.state = 1 ∧ s.twin.contexts.contains c then (decide (x < half) == (s.twin.side == 0)) else true
def State.ownStream (s : State) (c t : Nat) : Bool := s.twin.adopted.contains t || s.ownHalf c t 32768
def State.ownEntry (s : State) (c i : Nat) : Bool := s.ownHalf c i 1048576
def State.ownFrame (s : State) (c a : Nat) : Bool :=
  s.ownHalf c ((a - (s.arena c).base) / max (s.frameSize c) 1) ((s.arena c).frames / 2)

/-! ## Entries -/

/-- The stream has a request that holds a slot: it is in an admitted batch. -/
def State.inBatch (s : State) (t : Nat) : Bool :=
  s.srv.reqs.any (fun q => q.stream == t && (q.state == 1 || q.state == 2 || q.state == 3))
/-- The stream has a request Pending or admitted. -/
def State.streamBusy (s : State) (t : Nat) : Bool := s.srv.reqs.any (fun q => q.stream == t && q.state != 4)

/-- Rows of the frame at positions from COMMIT on read 0 from now on; a frame whose header names another page has
no row of this one. -/
def State.zeroRows (s : State) (t a n frame : Nat) : State :=
  let h := s.read frame 128
  let g := headerGeom h
  let first := s.commitOf t - 256 * n
  if le h 0xA 2 = t ∧ le h 0xC 2 = a ∧ le h 0xE 2 = n then
    State.each (List.range (256 - first)) (fun s j =>
      State.each (g.rowRanges (first + j)) (fun s (r : Nat × Nat) => s.write (frame + r.1) (List.replicate r.2 0)) s) s
  else s

/-- KV_UNMAP takes effect: rows zeroed unless SHARED, then VALID 0. -/
def State.unmapPage (s : State) (t a n : Nat) : State :=
  let i := s.ptIndex t a n
  let e := s.ptEntry i
  if ptValid e && ptStream e == t && ptLayer e == a && ptPage e == n then
    let s := if ptShared e then s else s.zeroRows t a n (ptFrame e)
    let s := { s with kvt := { s.kvt with unpublished := s.kvt.unpublished.filter (fun u => u.1 != i) } }
    let s := s.forgetArrived (s.frameBlocks i)
    s.write (s.ptAddr i) (toLe 1 (byteAt e 0 - 1))
  else s

/-- KV_MAP takes effect: the entry is written with VALID 1; without a publish knot it is published at once, else it waits
for the knot and for every block of the frame (R39). FILL, which the rule leaves to KV_MAP, becomes 256 for a SHARED page, which
is full, else 0 (DESIGN CHOICE). -/
def State.mapPage (s : State) (t a n frame : Nat) (shared : Bool) (knot : Nat) : State :=
  let c := s.smapCtx t
  let i := s.ptIndex t a n
  let s := s.write (s.ptAddr i) (ptBytes true (knot == 0) shared c (if shared then 256 else 0) frame a t n)
  let s := s.modStream t fun x => { x with layers := max x.layers (a + 1) }
  let rest := s.kvt.unpublished.filter (fun u => u.1 != i)
  let waits := if knot = 0 then [] else [(i, knot, false)]
  { s with kvt := { s.kvt with unpublished := rest ++ waits } }

/-- KV_MAP is refused: no VALID stream, an index past the table, a frame outside the arena or off a boundary, outside the
module's half, or SHARED over a page that is not committed whole. -/
def State.mapRefused (s : State) (t a n frame : Nat) (shared : Bool) : Bool :=
  let c := s.smapCtx t
  let h := s.read frame 128
  !(decide (t < 65536) && s.smapValid t) || decide (s.smapPages t ≤ n) || decide (16384 ≤ a) ||
    decide (2097152 ≤ s.ptIndex t a n) || !s.frameBoundary c frame ||
    !(s.twin.adopted.contains t || (s.ownFrame c frame && s.ownEntry c (s.ptIndex t a n))) ||
    (shared && decide (s.commitOf (le h 0xA 2) < 256 * le h 0xE 2 + 256))

/-- Carry out a page command. -/
def State.pageCmd (s : State) (c : PageCmd) : State :=
  match c with
  | .map t a n frame shared knot => s.mapPage t a n frame shared knot
  | .unmap t a n => s.unmapPage t a n

def PageCmd.ofStream (t : Nat) : PageCmd → Bool
  | .map u _ _ _ _ _ => u == t
  | .unmap u _ _ => u == t

/-- The batch boundary of stream `t`: the commands that wait for it take effect and complete, in order (R132). -/
def State.pageBoundary (s : State) (t : Nat) : State :=
  let mine := s.kvt.waitingCmds.filter (fun x => x.2.ofStream t)
  let s := { s with kvt := { s.kvt with waitingCmds := s.kvt.waitingCmds.filter (fun x => !x.2.ofStream t) } }
  State.each mine (fun s x => (s.pageCmd x.2).complete x.1 0 []) s

/-- Issue a page command: at once, or at the batch boundary of a stream in an admitted batch. -/
def State.pageIssue (s : State) (m t : Nat) (c : PageCmd) : State :=
  if s.inBatch t then { s with kvt := { s.kvt with waitingCmds := s.kvt.waitingCmds ++ [(m, c)] } }
  else (s.pageCmd c).complete m 0 []

/-- The command of the mailbox waits already. -/
def State.pageWaits (s : State) (m : Nat) : Bool := s.kvt.waitingCmds.any (fun x => x.1 == m)

def execKvMap (m : Fin 16) (s : State) : Host.Outcome State Fault Refusal :=
  .next (s.command m.val 0x3020 fun b s =>
    let t := b.arg 0
    let a := b.arg 1
    let n := b.arg 2
    let frame := b.arg2 3
    let shared := b.arg 5 == 1
    if s.pageWaits m.val then s
    else if decide (1 < b.arg 5) || s.mapRefused t a n frame shared then s.complete m.val 0x11 []
    else s.pageIssue m.val t (.map t a n frame shared (b.arg2 6)))

def execKvUnmap (m : Fin 16) (s : State) : Host.Outcome State Fault Refusal :=
  .next (s.command m.val 0x3021 fun b s =>
    let t := b.arg 0
    if s.pageWaits m.val then s
    else if 65536 ≤ t ∨ s.smapValid t = false ∨ s.smapPages t ≤ b.arg 2 ∨ 16384 ≤ b.arg 1 then s.complete m.val 0x11 []
    else s.pageIssue m.val t (.unmap t (b.arg 1) (b.arg 2)))

/-! ## Streams -/

/-- KV_UNMAP of every page of a stream. -/
def State.unmapAll (s : State) (t : Nat) : State :=
  State.each (List.range (s.stream t).layers) (fun s a =>
    State.each (List.range (s.smapPages t)) (fun s n => s.unmapPage t a n) s) s

/-- STREAM_RESET (R190, Table 8.10). -/
def State.resetStream (s : State) (t : Nat) : State := (s.unmapAll t).setCommit t 0

/-- STREAM_CLOSE: every page unmapped, VALID 0. -/
def State.closeStream (s : State) (t : Nat) : State :=
  let s := s.unmapAll t
  let s := s.write (s.smapAddr t + 7) [0]
  s.modStream t fun _ => {}

def execStreamOpen (m : Fin 16) (s : State) : Host.Outcome State Fault Refusal :=
  .next (s.command m.val 0x3002 fun b s =>
    let t := b.arg 0
    let c := b.arg 1
    if 65536 ≤ t ∨ 256 ≤ c ∨ 1024 ≤ b.arg 2 ∨ 2097152 ≤ b.arg 3 ∨ b.arg 4 = 0 ∨ 65536 ≤ b.arg 4 ∨ 65536 ≤ b.arg 6 ∨
        (s.stream t).opened ∨ (s.ctx c).ctl.opened = false ∨ s.ownStream c t = false then s.complete m.val 0x11 []
    else
      let s := s.write (s.smapAddr t) (smapBytes (b.arg 3) (b.arg 4) c (b.arg 5) true)
      (s.modStream t fun _ =>
        { opened := true, ctx := c, tenant := b.arg 2, recvPlace := b.arg 6, recvStream := b.arg 7 % 65536, layers := 0 }).complete
          m.val 0 [])

def execStreamClose (m : Fin 16) (s : State) : Host.Outcome State Fault Refusal :=
  .next (s.command m.val 0x3003 fun b s =>
    let t := b.arg 0
    if 65536 ≤ t ∨ (s.stream t).opened = false ∨ s.streamBusy t then s.complete m.val 0x11 []
    else (s.closeStream t).complete m.val 0 [])

def execStreamReset (m : Fin 16) (s : State) : Host.Outcome State Fault Refusal :=
  .next (s.command m.val 0x3004 fun b s =>
    let t := b.arg 0
    if 65536 ≤ t ∨ (s.stream t).opened = false ∨ s.streamBusy t then s.complete m.val 0x11 []
    else (s.resetStream t).complete m.val 0 [])

end Sys2Proof.Machine
end

