-- ==== Sys2Proof/Machine/SetOps.lean ====
section
/-! DEFINITION. Weight sets and the harnesses they use: free harnesses and spares (R243, R244), positions (R225),
release, mending row copies (R93) and auxiliary copies (R233), the flip of a set (R249). -/

namespace Sys2Proof.Machine

/-! ## Free harnesses and spares -/

/-- The sets of a context, current first. -/
def Ctx.sets (x : Ctx) : List WeightSet := x.cur :: (match x.staged with | some w => [w] | none => [])
/-- Some set uses the harness. -/
def State.harnessUsed (s : State) (h : Nat) : Bool := s.ctxs.any (fun c => c.2.sets.any (fun w => w.harnesses.contains h))
/-- Free: no set uses it, it is not on the disabled-unit map, and it does not wait to be zeroed. -/
def State.harnessFree (s : State) (h : Nat) : Bool :=
  !s.harnessUsed h && !s.outOfUse 1 h && !(s.harness h).zeroing
/-- Free harnesses of a tier, ascending. -/
def State.freeOfTier (s : State) (t : Nat) : List Nat :=
  ((List.range 128).map (fun i => t * 128 + i)).filter s.harnessFree
/-- The tier's spares: its highest-numbered free harnesses, up to the count. -/
def State.sparesOfTier (s : State) (t : Nat) : List Nat :=
  let f := s.freeOfTier t
  f.drop (f.length - min f.length s.arr.spareCfg)
def State.isSpare (s : State) (h : Nat) : Bool := (s.sparesOfTier (tierOfHarness h)).contains h
/-- SHORT: the tier has fewer spares than the count. -/
def State.tierShort (s : State) (t : Nat) : Bool := decide ((s.sparesOfTier t).length < s.arr.spareCfg)

/-! ## Release (R243) -/

/-- Heddles of a harness. -/
def heddlesOf (h : Nat) : List Nat := (List.range 64).map (fun i => h * 64 + i)

/-- A harness leaves its set: it becomes free, or for a sealed context waits to be zeroed. -/
def State.releaseHarness (s : State) (sealed_ : Bool) (h : Nat) : State :=
  if sealed_ then s.modHarness h fun x => { x with zeroing := true }
  else State.each (heddlesOf h) (fun s g => s.modHeddle g fun x =>
    { x with role := if s.outOfUse 1 h then 3 else 0, context := 0, programmed := false, marginal := false
             patternLost := false, repair := [] }) s

def State.releaseSet (s : State) (sealed_ : Bool) (w : WeightSet) : State :=
  State.each w.harnesses (fun s h => s.releaseHarness sealed_ h) s

/-- A heddle is programmed to zero and its pattern slot cleared. -/
def State.zeroHeddle (s : State) (g : Nat) : State :=
  (s.modHeddle g fun x =>
    { x with rows := [], exps := [], programmed := false, zeroing := false, marginal := false, patternLost := false, repair := [] }).zero
      (patternAddr g) 0x9000

/-- A sealed harness has been zeroed: every heddle programmed to zero, its pattern slots cleared, free again. -/
def State.zeroHarness (s : State) (h : Nat) : State :=
  let s := State.each (heddlesOf h) (fun s g =>
    (s.zeroHeddle g).modHeddle g fun x => { x with role := if s.outOfUse 1 h then 3 else 0, context := 0 }) s
  s.modHarness h fun x => { x with zeroing := false }

/-! ## Copies in loom store -/

/-- Intervals of loom store `l` that are taken: declared regions of enabled plans and of `c`, auxiliary copies, the
other contexts' row copies. -/
def State.storeTaken (s : State) (c l : Nat) (plan : Bytes) (w : WeightSet) : List (Nat × Nat) :=
  let here (x : Nat × Nat) : Bool := decide (loomStore l ≤ x.1 ∧ x.1 < loomStore l + loomStoreSize)
  let regions (img : Bytes) : List (Nat × Nat) := (planRegions img).map (fun r => (r.base, r.size))
  let aux (x : WeightSet) : List (Nat × Nat) := x.aux.flatMap (fun (t : AuxTensor) =>
    (t.copies.filter (· != 0)).map (fun (a : Nat) => (a, t.length)))
  let others := s.ctxNums.filter (fun e => e != c)
  (regions plan ++ aux w ++ others.flatMap (fun e =>
    (if (s.ctx e).ctl.state = 0 then [] else regions (s.image e)) ++ aux (s.ctx e).cur ++
      (s.ctx e).ctl.rowCopies.map (fun (x : Nat × Nat) => (x.2, 96)))).filter here

/-- Where the row copies of a loom lie, `n` bytes in all: the rules leave the place open, and the model takes one piece, the highest
of loom store `l` that is not taken, on a 32-byte boundary (DESIGN CHOICE). -/
def allocTop (l n : Nat) (taken : List (Nat × Nat)) : Option Nat :=
  let top := loomStore l + loomStoreSize
  let starts := (top :: taken.map (·.1)).filterMap (fun e => if loomStore l + n ≤ e then some ((e - n) / 32 * 32) else none)
  (sortBy (fun a b => decide (b ≤ a)) starts).find? (fun a =>
    decide (loomStore l ≤ a) && taken.all (fun t => !overlaps a n t.1 t.2))

/-- The rows to copy of a set on loom `l`: heddle and row, for each candidate of a layer that has mending slots (R93). -/
def copyRows (w : WeightSet) (cands : List (Nat × List Nat)) (l : Nat) : List (Nat × Nat) :=
  (w.images.filter (fun i => loomOfHeddle i.heddle == l)).flatMap (fun i =>
    let layer := tenLayer w.recipe i.tensor
    if laySlots w.recipe layer = 0 then []
    else ((((cands.find? (fun e => e.1 == layer)).map (·.2)).getD []).filter (fun ch =>
      decide (i.rowFirst ≤ ch ∧ ch < i.rowFirst + i.rowsUsed))).map (fun ch => (i.heddle, ch - i.rowFirst)))

/-- The candidate lists of a recipe as they lie in memory (R89). -/
def State.readCands (s : State) (r : Bytes) : List (Nat × List Nat) :=
  (List.range (recLayers r)).map (fun i =>
    (i, (List.range (layCands r i)).map (fun j => s.readLe (layCandList r i + 2 * j) 2)))

/-- Every row copy of a set has a place beside what its plan keeps in loom store. -/
def State.copiesFit (s : State) (c : Nat) (plan : Bytes) (w : WeightSet) (cands : List (Nat × List Nat)) : Bool :=
  (List.range 4).all (fun l =>
    let n := (copyRows w cands l).length
    n == 0 || (allocTop l (96 * n) (s.storeTaken c l plan w)).isSome)

/-- The module has built a copy of weights of context `c` at [a, a+n): one of a sealed context is kept from outside readers from
now on (R229). -/
def State.noteCopy (s : State) (c a n : Nat) : State :=
  let rest := s.arr.sealedCopies.filter (fun x => !overlaps a n x.1 x.2)
  { s with arr := { s.arr with sealedCopies := if (s.ctx c).ctl.sealed then rest ++ [(a, n)] else rest } }

/-- A copy builder reads the pieces `src` and writes them, one after another, at `a`; a piece that fails its check leaves its error
on the copy (R258). -/
def State.copyTo (s : State) (c a : Nat) (src : List (Nat × Nat)) : State :=
  let bytes := src.flatMap (fun x => s.read x.1 x.2)
  let e := src.foldl (fun e x => e ^^^ s.rangeErr x.1 x.2) 0
  let s := (State.each src (fun s x => s.checkedRead c 0xFFFE x.1 x.2 []) s).unitWrite a bytes
  s.setMem ((blocksOf a bytes.length).foldl (fun m k => m.addErr k e) s.mem)

/-- The pieces of the row copy of row `r` of heddle `g`: its 64 data bytes and its dent's 32 exponents (R93). -/
def rowPieces (g r : Nat) : List (Nat × Nat) :=
  [(patternAddr g + 0x40 + 64 * r, 64), (patternAddr g + 0x40 + 32768 + 32 * (r / 64), 32)]

/-- Build the row copies of a set from the pattern copies. -/
def State.buildRowCopies (s : State) (c : Nat) (plan : Bytes) (w : WeightSet) : State :=
  let cands := (s.ctx c).ctl.candidates
  let s := s.modCtl c fun k => { k with rowCopies := [] }
  State.each (List.range 4) (fun s l =>
    let rows := copyRows w cands l
    match allocTop l (96 * rows.length) (s.storeTaken c l plan w) with
    | none => s
    | some base =>
      State.each rows.zipIdx (fun s x =>
        let a := base + 96 * x.2
        (s.copyTo c a (rowPieces x.1.1 x.1.2)).modCtl c fun k =>
          { k with rowCopies := k.rowCopies ++ [(x.1.1 * 512 + x.1.2, a)] }) (s.noteCopy c base (96 * rows.length))) s

/-- Copy every auxiliary tensor of a set to each nonzero COPY address (R233). -/
def State.buildAuxCopies (s : State) (c : Nat) (w : WeightSet) : State :=
  State.each w.aux (fun s t =>
    State.each (t.copies.filter (· != 0)) (fun s a => (s.copyTo c a [(t.addr, t.length)]).noteCopy c a t.length) s) s

/-- Build at Arming and before a flip. -/
def State.buildCopies (s : State) (c : Nat) (plan : Bytes) (w : WeightSet) : State :=
  (s.buildRowCopies c plan w).buildAuxCopies c w

/-- Repair the blocks of context `c`'s copies whose tally fails (Table 10.2): each copy in such a block is built again from its
source, and the block gets the tally of what it then holds. -/
def State.repairCopies (s : State) (c : Nat) : State :=
  let x := s.ctx c
  let rows := x.ctl.rowCopies.map (fun y => (y.2, 96, rowPieces (y.1 / 512) (y.1 % 512)))
  let aux := x.cur.aux.flatMap (fun t => (t.copies.filter (· != 0)).map (fun a => (a, t.length, [(t.addr, t.length)])))
  let copies := rows ++ aux
  let bad := ((copies.flatMap (fun y => blocksOf y.1 y.2.1)).eraseDups).filter (fun k => s.blockErr k != 0)
  let s := s.setMem (bad.foldl Memory.clearErr s.mem)
  State.each (copies.filter (fun y => (blocksOf y.1 y.2.1).any bad.contains)) (fun s y => s.copyTo c y.1 y.2.2) s

/-! ## Positions (R225) -/

/-- The physical harness of logical harness `n` of a device-placed set: the one it has, else the lowest-numbered of the
tier that is neither a spare nor used nor disabled. -/
def State.mapHarness (s : State) (w : WeightSet) (n : Nat) : Option (Nat × WeightSet) :=
  match w.logical.find? (fun e => e.1 == n) with
  | some e => some (e.2, w)
  | none =>
    let t := tierOfHarness n
    match (s.freeOfTier t).find? (fun h => !s.isSpare h && !w.harnesses.contains h) with
    | some h => some (h, { w with logical := w.logical ++ [(n, h)], harnesses := w.harnesses ++ [h] })
    | none => none

/-! ## The flip (R249, R251) -/

/-- Give every heddle of a set's harnesses its role and owner. -/
def State.claimSet (s : State) (c role : Nat) (w : WeightSet) : State :=
  State.each w.harnesses (fun s h => State.each (heddlesOf h) (fun s g => s.modHeddle g fun x =>
    { x with role := role, context := c }) s) s

/-- A stream has a Pending request. -/
def State.hasPending (s : State) (t : Nat) : Bool := s.srv.reqs.any (fun q => q.stream == t && q.state == 0)

/-- The staged set becomes current: generation plus 1, the old set's harnesses released, streams reset where asked. A moved harness of
the set that a stop flips while it still waits for its tier's window (R251) is programmed once the window allows, as a spare is. -/
def State.flipSet (s : State) (c : Nat) : State :=
  let x := s.ctx c
  match x.staged with
  | none => s
  | some w =>
    let s := s.releaseSet x.ctl.sealed { x.cur with harnesses := x.cur.harnesses.filter (fun h => !w.harnesses.contains h) }
    let s := (s.modCtx c fun y => { y with cur := w, staged := none }).claimSet c 1 w
    let s := s.modCtl c fun k => { k with gen := (k.gen + 1) % 65536 }
    let open_ := (s.srv.streams.filter (fun e => e.2.opened && e.2.ctx == c)).map (·.1)
    let s := if x.sw.resetStreams then
        State.each (open_.filter (fun t => !s.hasPending t)) (fun s t => s.resetStream t) s
      else s
    s.modCtx c fun y => { y with
      ctl := { y.ctl with flips := y.ctl.flips ++ y.sw.programs.map (fun p => (1, p.1, p.2, false)) }
      sw := {
        reason := y.sw.reason
        resetPending := if x.sw.resetStreams then (s.srv.reqs.filter (fun q => q.state == 0 && open_.contains q.stream)).map (·.id)
          else [] } }

/-! ## The end of a load (R236, R238) -/

/-- Take a load back: the harnesses it took are released, the heddles it wrote are no longer programmed, those of a sealed context
wait to be zeroed (R243), and the set is as it was before. -/
def State.rollLoad (s : State) (c : Nat) (staged : Bool) (before after : WeightSet) : State :=
  let sealed_ := (s.ctx c).ctl.sealed
  let wrote := after.images.filter (fun i => !before.images.contains i)
  let s := State.each wrote (fun s i => s.modHeddle i.heddle fun x => { x with programmed := false, zeroing := sealed_ }) s
  let s := s.modCtx c fun x => if staged then { x with staged := some before } else { x with cur := before }
  State.each (after.harnesses.filter (fun h => !before.harnesses.contains h)) (fun s h => s.releaseHarness sealed_ h) s

/-- A held load is taken back, with the status that WGT_LOAD_LAST then shows. -/
def State.dropHeld (s : State) (c status : Nat) (tier : Option Nat) : State :=
  match (s.ctx c).held with
  | none => s
  | some h =>
    let s := s.modCtx c fun x => { x with held := none, ctl := { x.ctl with loadLast := status, loadTier := tier } }
    s.rollLoad c h.staged h.before h.after

/-- A held load ends with a status: it is taken back, and its mailbox completes. -/
def State.endHeld (s : State) (c status : Nat) (tier : Option Nat) : State :=
  match (s.ctx c).held with
  | none => s
  | some h => (s.dropHeld c status tier).complete h.mbx status []

/-- A pending switch ends without its flip: admission resumes on the old set, the staged set stays staged (R250). -/
def State.endSwitch (s : State) (c reason : Nat) : State :=
  let x := s.ctx c
  let drained := x.sw.state == 4
  let s := s.modCtx c fun y => { y with
    sw := { reason := reason, programs := y.sw.programs }
    ctl := if drained then { y.ctl with candidates := x.sw.cands } else y.ctl }
  if drained then s.buildCopies c (s.image c) (s.ctx c).cur else s

end Sys2Proof.Machine
end

