-- ==== Sys2Proof/Machine/Contexts.lean ====
section
/-! DEFINITION. How a context leaves what it does: to Disabled (Table 6.13, R251), stopped (R174), aborted (R173),
cut (R304, R305); messages that a member has seen before (R341). -/

namespace Sys2Proof.Machine

/-! ## Messages seen (R341) -/

/-- A group message relayed or originated before, by MSG, ORIGIN, SCOPE and PICK. -/
def State.seen (s : State) (msg origin scope pick : Nat) : Bool := s.rcv.seenMsgs.contains (msg, origin, scope, pick)
def State.noteMsg (s : State) (msg origin scope pick : Nat) : State :=
  { s with rcv := { s.rcv with seenMsgs := (msg, origin, scope, pick) :: s.rcv.seenMsgs } }

/-- Originate a group message of context `c`. -/
def State.originate (s : State) (c msg pick arg arg2 : Nat) : State :=
  (s.noteMsg msg (planPlace (s.image c)) (planGroup (s.image c)) pick).sendGroup c msg pick arg arg2

/-- Relay a group message on the plan ports of a context of the group. -/
def State.relay (s : State) (c msg origin scope pick arg arg2 : Nat) : State :=
  (s.noteMsg msg origin scope pick).sendOn (s.groupPorts c) ⟨msg, origin, scope, pick, arg, arg2⟩

/-! ## Page commands that waited for a batch -/

/-- Page commands whose stream is in no admitted batch any longer take effect. -/
def State.pageSettle (s : State) : State :=
  let streams := (s.kvt.waitingCmds.map (fun x => match x.2 with
    | .map t _ _ _ _ _ => t
    | .unmap t _ _ => t)).eraseDups
  State.each (streams.filter (fun t => !s.inBatch t)) (fun s t => s.pageBoundary t) s

/-! ## To Disabled -/

/-- A pending switch is made when the context reaches Disabled; no successor plan is launched (R251). -/
def State.flipAtStop (s : State) (c : Nat) : State :=
  let x := s.ctx c
  if x.sw.state = 3 ∨ x.sw.state = 4 then
    (s.modCtl c fun k =>
      { k with plan := (match k.successor with | some p => some p | none => k.plan), successor := none }).flipSet c
  else s

/-- The context goes to Disabled: its waiting steps never start, its slots are released, requested settings are in
effect for the next enable. -/
def State.disableCtx (s : State) (c : Nat) : State :=
  let s := s.dropDue (fun d => d.ctx == c) false
  let s := { s with sched := { s.sched with
    due := s.sched.due.filter (fun d => d.ctx != c), sets := s.sched.sets.filter (fun x => x.1 != c) } }
  let s := s.modCtx c fun x => { x with
    slots := []
    ctl := { x.ctl with
      state := 0, launchPick := none, cut := false, stopEnd := none, readies := [], firstReadyWall := none
      flips := [], maskEff := x.ctl.maskReq, strictEff := x.ctl.strictReq
      strictMaskEff := x.ctl.strictMaskReq } }
  ((s.flipAtStop c).pageSettle).prune

/-- To Disabled with a reason. -/
def State.failCtx (s : State) (c code : Nat) : State :=
  (s.disableCtx c).modCtl c fun k => { k with reason := code, reasonStep := none, reasonList := 0 }

/-- ABORT: every member returns to Disabled with 0x0707 (R173). -/
def State.abortCtx (s : State) (c : Nat) : State := (s.originate c 5 s.clk.pick 0 0).failCtx c 0x0707

/-! ## Stop (R174) -/

/-- End of the first iteration that ends at or after pick `p`. -/
def State.iterEnd (s : State) (c p : Nat) : Nat :=
  let lp := ((s.ctx c).ctl.launchPick).getD 0
  let period := max (planPeriod (s.image c)) 1
  lp + max 1 (ceilDiv (p - lp) period) * period

/-- Stop admission; the stop iteration is the first that ends LAUNCH_LEAD picks after pick `p`. -/
def State.stopAt (s : State) (c p : Nat) : State :=
  let e := s.iterEnd c (p + planLead (s.image c))
  s.modCtl c fun k => { k with state := 5, stopEnd := some e }

/-- Stop a Running context and send STOP. -/
def State.stopCtx (s : State) (c : Nat) : State :=
  if (s.ctx c).ctl.state = 4 then (s.originate c 6 s.clk.pick 0 0).stopAt c s.clk.pick else s

/-- ENABLE = 0 (Table 6.13). -/
def State.enableZero (s : State) (c : Nat) : State :=
  let k := (s.ctx c).ctl
  if k.state = 1 ∨ k.state = 2 then s.failCtx c 0
  else if k.state = 3 then s.abortCtx c
  else s.stopCtx c

/-! ## Cut (R304, R305) -/

/-- Admitted requests of a context that are not Done. -/
def State.admitted (s : State) (c : Nat) : List Request :=
  s.srv.reqs.filter (fun q => q.ctx == c && (q.state == 1 || q.state == 2 || q.state == 3))

/-- Steps of the context still run. -/
def State.stepsRun (s : State) (c : Nat) : Bool := s.sched.runs.any (fun r => r.ctx == c)

/-- A cut context whose last step has ended goes to Disabled; its reason is left unchanged. -/
def State.cutSettle (s : State) (c : Nat) : State :=
  if (s.ctx c).ctl.cut && !s.stepsRun c then s.disableCtx c else s

/-- Cut the context here and now: ERR_GSTOP records it, admitted requests end with 0x42, no step starts. A module reset
writes no records (R300). -/
def State.cut (s : State) (c cause : Nat) (records : Bool) : State :=
  let k := (s.ctx c).ctl
  if k.cut ∨ k.state = 0 then s
  else if k.state < 4 then s.disableCtx c
  else
    let s := { s with rcv := { s.rcv with
      cutCtx := c, cutCause := cause, cutValid := true, cuts := satAdd max16 s.rcv.cuts 1 } }
    let s := if records then State.each (s.admitted c) (fun s q => s.finish q 0x42 s.clk.pick) s else s
    let s := s.dropDue (fun d => d.ctx == c) false
    let s := { s with sched := { s.sched with due := s.sched.due.filter (fun d => d.ctx != c) } }
    (s.modCtl c fun k => { k with state := 5, cut := true }).cutSettle c

/-- Detect the cause of a cut: GSTOP goes out on every plan port, and the context is cut (R304). -/
def State.gstop (s : State) (c cause : Nat) (records : Bool) : State :=
  let k := (s.ctx c).ctl
  if k.state = 4 ∨ k.state = 5 then (s.originate c 7 s.clk.pick 0 cause).cut c cause records else s

end Sys2Proof.Machine
end

