-- ==== Sys2Proof/Machine/RegWords.lean ====
section
/-! DEFINITION. The register words of the units: heddles and harnesses (R73), looms (R121), shuttles and the walker
(R147), Xeast ports (R342), contexts (R176), the disabled-unit map (R280), and the islands' register blocks that a
dump lists (R298, R430). -/

namespace Sys2Proof.Machine

/-! ## Heddles and harnesses -/

def State.hdlStat (s : State) (g : Nat) : Word :=
  let x := s.heddle g
  let role := if s.outOfUse 1 (harnessOfHeddle g) then 3 else x.role
  pack [(0, 2, role), (2, 8, if role = 1 ∨ role = 2 then x.context else 0), (10, 1, b2n x.programmed),
    (11, 1, b2n (!x.repair.isEmpty)), (12, 1, b2n x.marginal), (13, 1, b2n x.patternLost)]
def Heddle.corrWord (x : Heddle) : Word := BitVec.ofNat 32 x.corr
def Heddle.failWord (x : Heddle) : Word := pack [(0, 16, x.uncorr), (16, 16, x.ovr)]
def Heddle.convWord (x : Heddle) : Word := BitVec.ofNat 32 (min max32 (x.convs / 2 ^ 20))
def Heddle.satWord (x : Heddle) : Word := pack [(0, 1, b2n x.satFlag), (1, 1, x.satBank), (16, 16, x.satCount)]

def State.harnCtrl (s : State) (h : Nat) : Word :=
  let x := s.harness h
  pack [(0, 2, x.req), (8, 1, b2n x.resetBit), (9, 1, b2n x.trimBit)]
/-- A scrub that a reset of the harness, or of a domain that holds it, has begun. -/
def State.resetScrub (s : State) (h : Nat) : Bool := (enclosing 1 h).any (fun d => (s.domain d.1 d.2).phase == 5)
/-- A wake from Retention has settled its bias, 9.232 µs, and runs its full trim (Table 2.9). -/
def State.wakeTrims (s : State) (x : Harness) : Bool :=
  x.state == 3 && x.goal == some 1 && !x.reprogram && (x.wakeWall.map (fun w => decide (w + 36928 ≤ s.clk.wall))).getD false
def State.harnStat (s : State) (h : Nat) : Word :=
  let x := s.harness h
  pack [(0, 2, x.state), (2, 1, b2n (x.trimBusy || x.trimWindows != 0 || s.wakeTrims x)), (3, 1, b2n (s.troubled 1 h)),
    (4, 1, b2n (x.scrubBusy || s.resetScrub h)), (8, 24, s.sinceCal h)]

/-! ## Looms -/

def Loom.trimWord (x : Loom) : Word :=
  pack [(0, 11, unsigned 11 x.tRef), (11, 1, b2n x.retrimBusy), (16, 16, x.retrimCount)]
def Loom.resWord (x : Loom) : Word :=
  pack [(0, 8, x.resBeater), (8, 8, x.resMending), (16, 8, x.resFuller), (24, 8, x.resReduce)]
def Loom.redSatWord (x : Loom) : Word := BitVec.ofNat 32 x.redSat

/-! ## Shuttles and the walker -/

def State.shtStat (s : State) (n : Nat) : Word :=
  let x := s.shuttle n
  let busy := s.sched.runs.any (fun r => r.ended.isNone && r.engine == 0x1000 + n)
  pack [(0, 1, b2n (decide (32 ≤ n % 96))), (1, 1, b2n busy), (2, 1, b2n x.latent), (3, 1, b2n (s.troubled 2 n)),
    (4, 8, x.context)]
def Shuttle.errWord (x : Shuttle) : Word :=
  pack [(0, 8, x.stat), (8, 8, x.residue), (16, 8, x.tally), (24, 8, x.page)]
def Kvt.faultStat (k : Kvt) : Word :=
  pack [(0, 4, k.faultCause), (4, 1, b2n k.faultValid), (8, 8, k.faultCtx), (16, 16, k.faultPage)]
def Kvt.faultLoc (k : Kvt) : Word := pack [(0, 16, k.faultStream), (16, 14, k.faultLayer)]
def Kvt.tableWord (k : Kvt) : Word := BitVec.ofNat 32 (fld k.tableBase 25 23)
def Kvt.smapWord (k : Kvt) : Word := BitVec.ofNat 32 (fld k.smapBase 20 28)
def Arena.baseWord (a : Arena) : Word := BitVec.ofNat 32 (fld a.base 16 32)
def Arena.sizeWord (a : Arena) : Word := pack [(0, 21, a.frames), (21, 11, a.frameBlk)]

/-! ## Ports -/

def Port.ctrlWord (x : Port) : Word := pack [(0, 1, b2n x.enable), (1, 1, b2n x.retrain)]
def Port.statWord (x : Port) : Word :=
  pack [(0, 2, x.state), (2, 1, b2n x.miswired), (3, 6, x.peerPort), (16, 16, x.hop)]
/-- XL_PEER: 0 while not Up. -/
def Port.peerId (x : Port) : Nat := if x.state = 2 then x.peer else 0
def Port.errWord (x : Port) : Word := pack [(0, 16, x.crc), (16, 8, x.retrains), (24, 8, x.fails)]
def Port.retryWord (x : Port) : Word := BitVec.ofNat 32 x.retry

/-! ## Contexts -/

def Ctx.statWord (x : Ctx) : Word :=
  pack [(0, 3, x.ctl.state), (3, 1, b2n x.ctl.device), (4, 1, b2n x.ctl.maskEff), (5, 1, b2n x.ctl.plan.isSome)]
def Ctx.reasonWord (x : Ctx) : Word :=
  pack [(0, 16, x.ctl.reason), (16, 3, x.ctl.reasonList), (19, 1, b2n x.ctl.reasonStep.isSome)]
def Ctx.rstepWord (x : Ctx) : Word := BitVec.ofNat 32 (x.ctl.reasonStep.getD 0)
/-- The launch pick as the registers show it: 0 but in Running and Stopping. -/
def Ctx.launchShown (x : Ctx) : Nat := if x.ctl.state = 4 ∨ x.ctl.state = 5 then x.ctl.launchPick.getD 0 else 0

/-! ## The disabled-unit map (R280) -/

def Health.mapBytes (h : Health) : Bytes :=
  toLe 4 h.dumap.length ++ toLe 4 0 ++ h.dumap.flatMap (fun e => toLe 1 e.1 ++ toLe 3 0 ++ toLe 4 e.2)
def State.dumapBytes (s : State) : Bytes := s.health.mapBytes
/-- HUB_DUMAP_CRC: what the last change of GEN stored there. -/
def State.dumapCrc (s : State) : Word := s.health.dumapCrc
/-- The map changes: GEN adds 1, and the CRC follows in the same access (Tables 7.8 and 7.9). -/
def Health.withMap (h : Health) (map : List (Nat × Nat)) : Health :=
  let h := { h with dumap := map, gen := (h.gen + 1) % 65536 }
  { h with dumapCrc := crc32c h.mapBytes }

/-! ## Islands -/

/-- The engine of an island, for those that run steps. -/
def islandEngine (kind i : Nat) : Option Nat :=
  match kind with
  | 1 => some i
  | 2 => some (0x1000 + i)
  | 3 => some (0x1200 + i)
  | 4 => some (0x1280 + i)
  | 7 => some (0x1300 + i)
  | _ => none

def wordBytes (w : Word) : Bytes := toLe 4 w.toNat

def Mailbox.ownWord (b : Mailbox) : Word := pack [(0, 6, b.slot), (6, 1, b2n b.held)]
def Mailbox.cmdWord (b : Mailbox) : Word := pack [(0, 16, b.opcode), (16, 15, b.tag)]
def Mailbox.statWord (b : Mailbox) : Word :=
  pack [(0, 1, b2n b.busy), (1, 1, b2n b.done), (8, 8, b.status), (16, 15, b.statTag)]
/-- A mailbox's block. -/
def Mailbox.block (b : Mailbox) : Bytes :=
  wordBytes b.ownWord ++ wordBytes b.cmdWord ++ wordBytes b.statWord ++ toLe 4 b.limit ++
    ((List.range 16).flatMap fun n => toLe 4 (b.arg n)) ++ ((List.range 8).flatMap fun n => toLe 4 (b.res.getD n 0))

def Ring.cfgWord (x : Ring) : Word :=
  if x.up then pack [(0, 1, 1), (1, 10, x.tenant), (11, 8, x.ctx), (19, 5, x.n)] else 0
def Ring.headWord (x : Ring) : Word := pack [(0, 16, x.sqHead), (16, 16, x.cqTail)]
def State.ringWord (s : State) (r : Nat) : Word :=
  let x := s.ring r
  let waiting := (s.srv.reqs.filter (fun q => q.ring == r && q.state == 0)).length
  pack [(0, 13, x.spilled.length), (13, 1, b2n x.overflow), (14, 1, b2n x.badEntry), (16, 16, min max16 waiting)]

def State.linkWord (s : State) : Word :=
  let bits (l : List Nat) : Nat := sumNat ((List.range 8).map (fun i => 2 ^ i * b2n (l.contains i)))
  pack [(0, 8, bits s.acc.linksUp), (8, 8, bits s.acc.linksHalf), (16, 3, s.barLink.getD 0), (24, 8, s.acc.retrains)]
def Slot.ridWord (x : Slot) : Word := pack [(0, 16, x.rid), (16, 1, b2n x.valid), (17, 1, b2n x.priv), (18, 1, b2n x.auto)]

/-- The registers of hub function `i`; a selected block gives the words of every unit that is set up. -/
def State.hubRegs (s : State) (i : Nat) : Bytes :=
  match i with
  | 0 => (List.range 16).flatMap (fun m => (s.mailbox m).block)
  | 1 => s.srv.rings.flatMap (fun e =>
      toLe 4 e.1 ++ wordBytes e.2.cfgWord ++ wordBytes e.2.headWord ++ wordBytes (s.ringWord e.1))
  | 2 => s.srv.tenants.flatMap (fun e =>
      toLe 4 e.1 ++ toLe 4 e.2.rate ++ toLe 4 e.2.cap ++ toLe 4 (unsigned 32 e.2.bal))
  | 3 =>
    wordBytes s.kvt.tableWord ++ wordBytes s.kvt.smapWord ++
      s.kvt.arenas.flatMap (fun e => toLe 4 e.1 ++ wordBytes e.2.baseWord ++ wordBytes e.2.sizeWord) ++
      toLe 4 s.kvt.miss ++ wordBytes s.kvt.faultStat ++ wordBytes s.kvt.faultLoc
  | 6 => ((List.range 64).flatMap fun n => wordBytes (s.slot n).ridWord) ++ wordBytes s.linkWord
  | _ => []

/-- The registers of an island in the order of its block (R298, R430). -/
def State.islandRegs (s : State) (kind i : Nat) : Bytes :=
  match kind with
  | 1 =>
    (heddlesOf i).flatMap (fun g =>
      let x := s.heddle g
      wordBytes (s.hdlStat g) ++ wordBytes x.corrWord ++ wordBytes x.failWord ++ wordBytes x.convWord ++
        wordBytes x.lastFail.word ++ wordBytes x.satWord) ++ wordBytes (s.harnCtrl i) ++ wordBytes (s.harnStat i)
  | 2 => wordBytes (s.shtStat i) ++ wordBytes (s.shuttle i).errWord ++ toLe 4 (s.shuttle i).empty
  | 7 =>
    let x := s.port i
    wordBytes x.ctrlWord ++ wordBytes x.statWord ++ toLe 8 x.peerId ++ wordBytes x.errWord ++ wordBytes x.retryWord
  | 0xC => wordBytes (s.loom i).trimWord ++ wordBytes (s.loom i).resWord ++ wordBytes (s.loom i).redSatWord
  | 0xA => s.hubRegs i
  | _ => []

/-- What waits at an island: the queue engine's request table, which a module dump keeps (R296), Adoraku's commands, the doorbells'
rings and spilled records of the host port, the flits a port has not yet had acknowledged, and the operations its step has
outstanding. -/
def State.islandQueue (s : State) (kind i : Nat) : List (List Nat) :=
  let ops := (s.sched.runs.filter (fun r => islandEngine kind i == some r.engine && r.outstanding != 0)).map (fun r =>
    [r.ctx, r.list, r.idx, r.iter, r.outstanding])
  ops ++ (match kind with
    | 7 => (s.port i).waiting.map (fun x => [x.1, x.2]) ++ (s.port i).unacked.map (fun x => [x.1, x.2.1, x.2.2])
    | 0xA =>
      (if i = 0 then (s.mbx.filter (fun e => e.2.busy)).map (fun e => [e.1, e.2.opcode, e.2.tag])
       else if i = 1 then s.srv.reqs.map (fun q =>
        [q.id, q.opcode, q.stream, q.tag, q.maxNew, q.seed, q.temperature.toNat, q.topK, q.topP.toNat, q.stop0, q.stop1, q.ring,
          q.state, q.ctx, q.slot, q.emitted] ++ q.prompt)
       else if i = 6 then s.srv.rings.flatMap (fun e => e.2.spilled.map (fun b => e.1 :: b.map (·.toNat))) else [])
    | _ => [])

/-- The data of an island's record: its registers, then its queue entries. -/
def State.islandData (s : State) (kind i : Nat) : Bytes :=
  s.islandRegs kind i ++ (if (s.islandQueue kind i).isEmpty then [] else Config.queueBytes kind i (s.islandQueue kind i))

/-- Islands of looms `lo` to `lo + n - 1`, smaller domains first (Table 11.2). -/
def loomIslands (lo n : Nat) : List (Nat × Nat) :=
  let of_ (kind per : Nat) : List (Nat × Nat) := (List.range (per * n)).map (fun i => (kind, per * lo + i))
  of_ 1 1024 ++ of_ 2 96 ++ of_ 5 192 ++ of_ 7 9 ++ of_ 0xD 8 ++ of_ 3 24 ++ of_ 4 16 ++ of_ 0xC 1

/-- The islands of a domain, in the order in which a dump keeps them (R298). -/
def domainIslands (kind i : Nat) : List (Nat × Nat) :=
  match kind with
  | 8 => (List.range 128).map (fun j => (1, i * 128 + j)) ++ [(0xD, i)]
  | 9 => loomIslands i 1
  | 0xB => loomIslands 0 4 ++ (List.range 8).map (fun j => (0xA, j))
  | k => [(k, i)]

/-- An island still runs a step, or waits for its acknowledgements, or the step it ran last was abandoned there as hung. -/
def State.islandHung (s : State) (kind i : Nat) : Bool :=
  match islandEngine kind i with
  | none => false
  | some e => s.sched.runs.any (fun r => r.engine == e) || s.sched.last.any (fun x => x.1.engine == e && x.2)

/-- An island's record: the step that runs on its engine, or else the last (Table 11.7). Of a last step the handshake bits are those
of one that is over. -/
def State.islandRecord (s : State) (kind i state : Nat) : Island :=
  let e := (islandEngine kind i).getD max32
  let base : Island := ⟨kind, i, state, 0xFF, 0, 0, s.clk.pick, 0, 0, if state = 2 then [] else s.islandData kind i⟩
  let of (r : Run) (shake : Nat) : Island := { base with
    list := r.list, step := r.idx, iteration := r.iter % 2 ^ 32, outstanding := r.outstanding, handshake := shake }
  match s.sched.runs.find? (fun r => r.engine == e), s.sched.last.find? (fun x => x.1.engine == e) with
  | some r, _ => of r (0xF + 16 * b2n r.ended.isSome + 32 * b2n (r.outstanding != 0))
  | none, some (r, hung) => of r (0xF + 16 * b2n (!hung || r.ended.isSome) + 32 * b2n (hung && r.outstanding != 0))
  | none, none => base

end Sys2Proof.Machine
end

