-- ==== Sys2Proof/Machine/Signed.lean ====
section
/-! DEFINITION. Signed objects (R386) and their verification (R387); the 64-bit form of an Adoraku version (R392). -/

namespace Sys2Proof.Machine

def objType (o : Bytes) : Nat := le o 4 2
def objBodyLen (o : Bytes) : Nat := le o 8 4
def objSigner (o : Bytes) : Nat := byteAt o 0xC
def objProfile (o : Bytes) : Nat := le o 0xE 2
def objVersion (o : Bytes) : Nat := le o 0x10 4
def objHeader (o : Bytes) : Bytes := slice o 0 64
def objBody (o : Bytes) : Bytes := slice o 64 (objBodyLen o)
def objRsa (o : Bytes) : Bytes := slice o (64 + objBodyLen o) 384
def objSlh (o : Bytes) : Bytes := slice o (64 + objBodyLen o + 384) 16224
/-- Bytes of the whole object. -/
def objSize (o : Bytes) : Nat := 64 + objBodyLen o + 384 + 16224

/-- MAGIC, FORMAT and reserved fields are as stated. -/
def objFormed (o : Bytes) : Bool :=
  le o 0 4 == 0x4A4D5347 && le o 6 2 == 1 && byteAt o 0xD == 0 && zeros o 0x14 4 && zeros o 0x38 8 &&
    decide (64 ≤ o.length ∧ objSize o ≤ o.length)

/-- The object proves its signer: well formed, its body matches, both signatures verify, its signer is not revoked. -/
def objProven (revoked : Nat) (o : Bytes) : Bool :=
  objFormed o && sha256 (objBody o) == slice o 0x18 32 && decide (objSigner o < 4) && !bitOf revoked (objSigner o) &&
    Config.rsaVerifies (objSigner o) (objHeader o) (objRsa o) && Config.slhVerifies (objSigner o) (objHeader o) (objSlh o)

/-- The arithmetic profile of this stepping (HUB_IDENT, R7). -/
def arithProfile : Nat := 3

/-- R387: 0 when the object verifies, else its status. A report of the module itself is never accepted. -/
def objStatus (revoked : Nat) (o : Bytes) : Nat :=
  if objType o = 7 ∨ objSigner o = 0xFF then 0x11
  else if !objProven revoked o then 0x18
  else if objProfile o ≠ 0 ∧ objProfile o ≠ arithProfile then 0x11
  else 0

/-- The 64-bit form of the running Adoraku's version (R392). -/
def State.fwForm (s : State) : Nat := s.sec.fwVer + s.sec.tableSet * 2 ^ 32

/-- The identifier of the module's time leader: its own when it leads. -/
def State.timeLeader (s : State) : Nat := if s.time.role = 1 then s.sec.moduleId else s.time.leader

end Sys2Proof.Machine
end

