-- ==== Sys2Proof/Machine/Twin.lean ====
section
/-! DEFINITION. The twin pair: pairing (R306), shadowing (R307), heartbeats (R308), adoption (R309), the end of a pairing
(R310), and the hand-over of one context (R311). -/

namespace Sys2Proof.Machine

/-! ## Sending the shadow (R307) -/

/-- The context's streams are shadowed. -/
def State.shadows (s : State) (c : Nat) : Bool := s.twin.state == 1 && s.twin.contexts.contains c

/-- EMIT, or a prompt run, has advanced a stream's COMMIT. -/
def State.shadowDirty (s : State) (c t : Nat) : State :=
  if s.shadows c && !s.twin.adopted.contains t && !s.twin.dirty.any (fun d => d.1 == t) then
    { s with twin := { s.twin with dirty := s.twin.dirty ++ [(t, s.clk.elapsed)] } }
  else s

/-- HUB_TWIN_LAG. -/
def State.twinLag (s : State) : Nat :=
  match s.twin.dirty with
  | [] => 0
  | d :: t => min max32 (s.clk.elapsed - t.foldl (fun m x => min m x.2) d.2)

/-- Blocks of the stream's pages that hold a row from `lo` to below `hi`, or their header. -/
def State.changedBlocks (s : State) (t lo hi : Nat) : List Nat :=
  ((s.streamEntries t).flatMap (fun (e : Nat × Bytes) =>
    let f := ptFrame e.2
    let n := ptPage e.2
    let g := headerGeom (s.read f 128)
    let rows := (List.range 256).filter (fun o => decide (lo ≤ 256 * n + o ∧ 256 * n + o < hi))
    if rows.isEmpty then []
    else (f / 4096) :: rows.flatMap (fun o => (g.rowRanges o).flatMap (fun (r : Nat × Nat) => blocksOf (f + r.1) r.2)))).eraseDups

/-- The twin port of stream `t`: position t mod n of those that are up (R342). -/
def State.twinPortOf (s : State) (t : Nat) : Option Nat := s.twinPorts[t % max s.twinPorts.length 1]?

/-- A request in the form of a shadow record; `rest` is what is left of its prompt. -/
def shadowOf (q : Request) (rest : List Nat) (tenant : Nat) : ShadowReq :=
  { opcode := q.opcode, noSpec := q.noSpec, tag := q.tag, prompt := rest, maxNew := q.maxNew, seed := q.seed
    temperature := q.temperature, topK := q.topK, topP := q.topP, stop0 := q.stop0, stop1 := q.stop1
    emitted := q.emitted, ring := q.ring, tenant := tenant }

/-- The shadow record of stream `t`. -/
def State.shadowRec (s : State) (t : Nat) : ShadowRec :=
  let x := s.stream t
  let q := s.srv.reqs.find? (fun q => q.stream == t && (q.state == 1 || q.state == 2 || q.state == 3))
  let last := match q with
    | some q => (s.batch q.ctx q.slot).lastToken
    | none => 0
  { stream := t, context := x.ctx, tenant := x.tenant, smapEntry := s.read (s.smapAddr t) 16
    ptEntries := s.streamEntries t, commit := s.commitOf t, lastToken := last
    request := q.map (fun q => shadowOf q (if q.state = 1 then q.prompt.drop (s.promptDone q.ctx q.slot) else []) x.tenant)
    pendingOnly := false }

/-- Put a block on VC2 with its stored tally; one that fails its check is counted and reported as it is read (R258). -/
def State.shadowBlock (s : State) (p a : Nat) : State :=
  let s := State.each (s.failingBlocks [] a 4096) (fun s k => s.readFail (k * 4096) 0xFF) s
  (s.emit (.shadowPut p a (s.read a 4096) (s.storedTally (a / 4096)))).sendFlits p 2 (ceilDiv (32 + 4096 + 4) 240) 256

/-- Put the changed blocks below COMMIT, then send the record. -/
def State.sendShadow (s : State) (t : Nat) : State :=
  match s.twinPortOf t with
  | none => s
  | some p =>
    let ks := s.changedBlocks t (Tab.getD 0 s.twin.sent t) (s.commitOf t)
    let s := State.each ks (fun s k => s.shadowBlock p (k * 4096)) s
    let s := s.shadowSend p (s.shadowRec t)
    { s with twin := { s.twin with
      dirty := s.twin.dirty.filter (fun d => d.1 != t), sent := Tab.put 0 s.twin.sent t (s.commitOf t) } }

def execShadowRecordSend (stream : BitVec 16) (s : State) : Host.Outcome State Fault Refusal :=
  .next (if s.awake && s.twin.state == 1 && s.twin.dirty.any (fun d => d.1 == stream.toNat) then s.sendShadow stream.toNat
    else s)

/-! ## Holding the shadow -/

/-- Apply a record in one update: its blocks, its entries unpublished, its map entry with VALID 0. -/
def State.applyShadow (s : State) (r : ShadowRec) : State :=
  let inFrame (a : Nat) : Bool :=
    r.ptEntries.any (fun e => decide (ptFrame e.2 ≤ a ∧ a < ptFrame e.2 + s.frameSize r.context))
  let mine := s.twin.blocks.filter (fun b => inFrame b.1)
  let s := State.each mine (fun s b => s.pieceWrite b.1 b.2.1 b.2.2) s
  let s := State.each r.ptEntries (fun s e =>
    s.write (s.ptAddr e.1) (BitVec.ofNat 8 (byteAt e.2 0 - 2 * b2n (ptPublished e.2)) :: (slice e.2 1 15))) s
  let s := s.write (s.smapAddr r.stream) (slice r.smapEntry 0 7 ++ [0] ++ toLe 4 r.commit ++ toLe 4 0)
  { s with twin := { s.twin with
    blocks := s.twin.blocks.filter (fun b => !inFrame b.1), shadows := Tab.ins r.stream r s.twin.shadows } }

/-- SHADOW_RECORD arrives: a Pending request that is handed over waits for its HANDOVER. -/
def execShadowRecord (r : ShadowRec) (s : State) : Host.Outcome State Fault Refusal :=
  .next (if s.awake && s.shadows r.context then
      (if r.pendingOnly then { s with twin := { s.twin with forwarded := s.twin.forwarded ++ [r] } } else s.applyShadow r)
    else s)

/-- Unmap and zero a shadow stream as KV_UNMAP does (R310). -/
def State.dropShadow (s : State) (r : ShadowRec) : State :=
  let s := State.each r.ptEntries (fun s e => s.unmapPage r.stream (ptLayer e.2) (ptPage e.2)) s
  s.write (s.smapAddr r.stream + 7) [0]

/-- Shadowing ends on both sides. -/
def State.unpair (s : State) (state : Nat) : State :=
  { s with twin := { s.twin with
    state := state, contexts := [], shadows := [], dirty := [], sent := [], blocks := [], forwarded := [], handed := [] } }

/-! ## Adoption (R309) -/

/-- The request of a shadow as it resumes here: the rest of its prompt, or the last emitted token. -/
def resumed (id : Nat) (r : ShadowRec) (q : ShadowReq) : Request :=
  { id := id, opcode := q.opcode, noSpec := q.noSpec, stream := r.stream, tag := q.tag
    prompt := if q.prompt.isEmpty then [r.lastToken] else q.prompt, maxNew := q.maxNew, seed := q.seed
    temperature := q.temperature, topK := q.topK, topP := q.topP, stop0 := q.stop0, stop1 := q.stop1, ring := q.ring
    state := 0, ctx := r.context, slot := 0, emitted := q.emitted, cancelAt := none, overflow := false, drainEnd := false
    finalPick := none }

/-- Place a request: Pending on the ring of the same index, or dropped and counted; `ahead` of its context's own. -/
def State.place? (s : State) (r : ShadowRec) (q : ShadowReq) : State × Option Request :=
  let g := s.ring q.ring
  if g.up ∧ g.tenant = q.tenant ∧ g.ctx = r.context then
    ({ s with srv := { s.srv with nextReq := s.srv.nextReq + 1 } }, some (resumed s.srv.nextReq r q))
  else ({ s with twin := { s.twin with dropped := satAdd max16 s.twin.dropped 1 } }, none)

/-- Place the requests of a list of records, in order. -/
def State.placeAll (s : State) : List ShadowRec → State × List Request
  | [] => (s, [])
  | r :: t =>
    match r.request with
    | none => s.placeAll t
    | some q =>
      let (s, x) := s.place? r q
      let (s, l) := s.placeAll t
      (s, x.toList ++ l)

/-- Make a shadow stream live: VALID 1 at the shadow COMMIT, its entries published. -/
def State.adoptStream (s : State) (r : ShadowRec) : State :=
  let s := s.write (s.smapAddr r.stream + 7) [1]
  let s := State.each r.ptEntries (fun s e => s.publish e.1) s
  let s := s.modStream r.stream fun x =>
    { x with opened := true, ctx := r.context, tenant := r.tenant, layers := maxNat x.layers (r.ptEntries.map (fun (e : Nat × Bytes) => ptLayer e.2 + 1)) }
  { s with twin := { s.twin with adopted := r.stream :: s.twin.adopted } }

/-- Adopt every shadowed stream and request that `p` selects; with `ahead` they come before their context's own. -/
def State.adopt (s : State) (p : ShadowRec → Bool) (ahead : Bool) : State :=
  let rs := (s.twin.shadows.map (·.2)).filter p
  let fw := s.twin.forwarded.filter p
  let s := State.each rs (fun s r => s.adoptStream r) s
  let (s, reqs) := s.placeAll (rs ++ fw)
  let ctxs := (rs ++ fw).map (·.context)
  let own (q : Request) : Bool := ahead && q.state == 0 && ctxs.contains q.ctx
  let old := s.srv.reqs
  let s := { s with srv := { s.srv with reqs := old.filter (fun q => !own q) ++ reqs ++ old.filter own } }
  { s with twin := { s.twin with
    shadows := s.twin.shadows.filter (fun e => !p e.2), forwarded := s.twin.forwarded.filter (fun r => !p r)
    blocks := if ahead then s.twin.blocks else [] } }

/-- The peer has left: its streams are adopted with ADOPT 1, else the shadow is kept (R309). -/
def State.peerGone (s : State) (always : Bool) : State :=
  if s.twin.state != 1 then s
  else if s.twin.adopt || always then (s.adopt (fun _ => true) false).unpair 2
  else { s with twin := { s.twin with state := 3, dirty := [], blocks := [] } }

/-- HEARTBEAT_SEND (R308): every 1,024 picks. -/
def execHeartbeatSend (s : State) : Host.Outcome State Fault Refusal :=
  .next (if s.up && s.twin.state == 1 && s.clk.pick % 1024 == 0 then s.sendTwin 0x10 s.clk.pick 0 else s)
def execHeartbeat (port : Fin 36) (s : State) : Host.Outcome State Fault Refusal :=
  .next (if s.up && decide (32 ≤ port.val) && s.twin.state == 1 then
    { s with twin := { s.twin with lastBeat := s.clk.elapsed } } else s)
/-- PEER_LOST: no heartbeat for 8,192 picks. -/
def execPeerLost (s : State) : Host.Outcome State Fault Refusal :=
  .next (if s.up && s.twin.state == 1 && decide (8192 ≤ s.clk.elapsed - s.twin.lastBeat) then s.peerGone false else s)
/-- DEPART arrives: the survivor adopts. -/
def execDepart (port : Fin 36) (s : State) : Host.Outcome State Fault Refusal :=
  .next (if s.up && decide (32 ≤ port.val) then s.peerGone true else s)

/-! ## The end of a pairing (R310) -/

/-- The shadow streams held for the other are unmapped and zeroed. -/
def State.detach (s : State) : State :=
  (State.each (s.twin.shadows.map (·.2)) (fun s r => s.dropShadow r) s).unpair 0

def execTwinDetach (m : Fin 16) (s : State) : Host.Outcome State Fault Refusal :=
  .next (s.command m.val 0x4017 fun _ s =>
    if s.twin.state = 1 ∨ s.twin.state = 3 then ((s.sendTwin 0x12 s.clk.pick 0).detach).complete m.val 0 []
    else s.complete m.val 0x11 [])
def execDetach (port : Fin 36) (s : State) : Host.Outcome State Fault Refusal :=
  .next (if s.up && decide (32 ≤ port.val) && (s.twin.state == 1 || s.twin.state == 3) then s.detach else s)

/-! ## Pairing (R306) -/

/-- The contexts that a 32-byte bitmap names. -/
def bitmapCtxs (bm : Bytes) : List Nat := (List.range 256).filter (fun c => bitOf (byteAt bm (c / 8)) (c % 8))

/-- A named context is open here with a committed current set, and the peer's view of it agrees. -/
def State.pairable (s : State) (pv : PeerView) (c : Nat) : Bool :=
  let k := (s.ctx c).ctl
  k.opened && (s.ctx c).cur.committed &&
    pv.contexts.contains (c, k.sealed, (s.arena c).base, (s.arena c).frames, (s.arena c).frameBlk)

/-- The module's streams and entries of context `c` lie in the half of side `side`. -/
def State.inHalf (s : State) (c side : Nat) : Bool :=
  let low (x half : Nat) : Bool := decide (x < half) == (side == 0)
  let open_ := (s.srv.streams.filter (fun e => e.2.opened && e.2.ctx == c)).map (·.1)
  open_.all (fun t => low t 32768 && (s.streamEntries t).all (fun (e : Nat × Bytes) => low e.1 1048576 &&
    low ((ptFrame e.2 - (s.arena c).base) / max (s.frameSize c) 1) ((s.arena c).frames / 2)))

def execTwinPair (m : Fin 16) (bitmap : Bytes) (peer : PeerView) (s : State) : Host.Outcome State Fault Refusal :=
  .next (s.command m.val 0x4016 fun b s =>
    let bm := s.hostData m.val b (b.arg2 1) 32 bitmap
    let cs := bitmapCtxs bm
    let side := b.arg 0
    let adopt := b.arg 3
    if pastXfer m.val b (b.arg2 1) 32 || decide (1 < side ∨ 1 < adopt) || s.twin.state == 1 || s.twinPorts.isEmpty ||
        peer.side == side || peer.profile != arithProfile || peer.fwForm != s.fwForm ||
        !cs.all (s.pairable peer) || !(cs.all (fun c => s.inHalf c side) && peer.ownHalves) ||
        s.time.role == 0 || peer.leader != s.timeLeader ||
        !(s.time.state == 1 || s.time.state == 2) || !(peer.timeState == 1 || peer.timeState == 2) then
      s.complete m.val 0x11 []
    else
      ({ s with twin :=
        { state := 1, side := side, adopt := adopt == 1, contexts := cs, dropped := s.twin.dropped
          lastBeat := s.clk.elapsed } }).complete m.val 0 [])

/-! ## Handing one context over (R311) -/

/-- The request leaves without a record on this module. -/
def State.dropRequest (s : State) (id : Nat) : State :=
  s.modRequest id fun q => { q with state := 4, finalPick := some s.clk.pick }

/-- A shadowed context with a twin port up can be handed over. -/
def State.canHand (s : State) (c : Nat) : Bool := s.shadows c && !s.twinPorts.isEmpty

/-- Hand context `c` over at pick H, now: its shadow is completed, its Pending requests follow as shadow records,
HANDOVER goes out, its requests end without a record here, and its streams are unmapped. -/
def State.handOver (s : State) (c : Nat) : State :=
  let open_ := (s.srv.streams.filter (fun e => e.2.opened && e.2.ctx == c && !s.twin.adopted.contains e.1)).map (·.1)
  let s := State.each open_ (fun s t => s.sendShadow t) s
  let waiting := s.srv.reqs.filter (fun q => q.ctx == c && q.state == 0 && open_.contains q.stream)
  let s := State.each waiting (fun s q =>
    match s.twinPortOf q.stream with
    | none => s
    | some p =>
      let r := s.shadowRec q.stream
      s.shadowSend p { r with request := some (shadowOf q q.prompt (s.ring q.ring).tenant), pendingOnly := true }) s
  let s := s.sendTwin 0x13 s.clk.pick c
  let gone := s.srv.reqs.filter (fun q => q.ctx == c && q.state != 4 && open_.contains q.stream)
  let s := State.each gone (fun s q => s.dropRequest q.id) s
  let s := s.pageSettle.prune
  let s := State.each open_ (fun s t => s.closeStream t) s
  { s with twin := { s.twin with handed := c :: s.twin.handed } }

/-- HANDOVER arrives: the named context's streams and requests are adopted; the pairing goes on. -/
def execHandover (port : Fin 36) (ctx : Fin 256) (_h : BitVec 64) (s : State) : Host.Outcome State Fault Refusal :=
  .next (if s.up && decide (32 ≤ port.val) && s.shadows ctx.val then s.adopt (fun r => r.context == ctx.val) true else s)

end Sys2Proof.Machine
end

