-- ==== Sys2Proof/Machine/Retire.lean ====
section
/-! DEFINITION. A unit leaves service: it joins the disabled-unit map (R277), its domain is retired (R301), the plans that
used it go on without it as Table 6.12 says (R168, R184, R251). -/

namespace Sys2Proof.Machine

/-! ## Moving a harness's images -/

/-- Claim a harness for the set that uses `old`: its heddles take the images' pattern copies, their role and owner. -/
def State.claimFor (s : State) (c role new : Nat) : State :=
  State.each (heddlesOf new) (fun s g => s.modHeddle g fun x => { x with role := role, context := c }) s

/-- Program harness `new` from the pattern copies of the images that a set keeps on `old`, or already lists on `new` (R234). -/
def State.programFrom (s : State) (old new : Nat) (w : WeightSet) : State :=
  let here := w.images.filter (fun i => harnessOfHeddle i.heddle == old || harnessOfHeddle i.heddle == new)
  State.each ((here.map (fun i => i.heddle % 64)).eraseDups) (fun s j =>
    let (ok, s) := s.patternRead (old * 64 + j) []
    if ok then
      (s.unitWrite (patternAddr (new * 64 + j)) (s.read (patternAddr (old * 64 + j)) 0x9000)).programHeddle (new * 64 + j)
    else s.patternGone (old * 64 + j)) (s.wakeHarness new)

/-- The set with harness `new` in place of `old`. -/
def WeightSet.swapHarness (w : WeightSet) (old new : Nat) : WeightSet :=
  { w with
    harnesses := (w.harnesses.filter (fun h => h != old && h != new)) ++ [new]
    logical := w.logical.map (fun e => if e.2 = old then (e.1, new) else e)
    images := w.images.map (fun i =>
      if harnessOfHeddle i.heddle = old then { i with heddle := new * 64 + i.heddle % 64 } else i) }

/-- Physical units of a kind (1 harness, 2 shuttle, 3 fuller, 4 mending) per loom. -/
def kindCount (kind : Nat) : Nat := if kind = 1 then 1024 else if kind = 2 then 96 else if kind = 3 then 24 else 16

/-- A mapping with physical unit `new` in place of `old`; both are numbered loom × count + unit. -/
def remapped (map : List (Nat × Nat × Nat × Nat)) (kind old new : Nat) : List (Nat × Nat × Nat × Nat) :=
  map.map (fun x => if x.1 = kind ∧ x.2.1 * kindCount kind + x.2.2.2 = old then (x.1, x.2.1, x.2.2.1, new % kindCount kind) else x)

/-- Row copies of the images of harness `old` are copies of those of `new`. -/
def recopied (copies : List (Nat × Nat)) (old new : Nat) : List (Nat × Nat) :=
  copies.map (fun x => if x.1 / 512 / 64 = old then ((new * 64 + x.1 / 512 % 64) * 512 + x.1 % 512, x.2) else x)

/-- The current set's mapping of `old` flips to `new` (R168). -/
def State.flipHarness (s : State) (c old new : Nat) : State :=
  (s.modCtx c fun x => { x with
    cur := x.cur.swapHarness old new
    ctl := { x.ctl with unitMap := remapped x.ctl.unitMap 1 old new, rowCopies := recopied x.ctl.rowCopies old new } }).releaseHarness
      (s.ctx c).ctl.sealed old

/-! ## Other units of a device-placed plan -/

/-- Units of a kind that the plans of a list of contexts hold, as loom × count + index. -/
def State.heldBy (s : State) (ctxs : List Nat) (kind : Nat) : List Nat :=
  ctxs.flatMap (fun c =>
    (planSteps (s.image c)).filterMap (fun x =>
      let st := s.physStep c x.1 x.2.2
      if x.1 < 4 then
        (if (kind = 1 ∧ (st.kind = 1 ∨ st.kind = 9)) ∨ (kind = 4 ∧ st.kind = 2) ∨ (kind = 3 ∧ st.kind = 3) ∨
            (kind = 2 ∧ st.kind = 4) then some (x.1 * kindCount kind + st.unit)
         else if st.kind = 0xA then
          (if kind = 1 ∧ st.unit < 0x500 then some (x.1 * 1024 + (st.unit - 0x100))
           else if kind = 2 ∧ 0x500 ≤ st.unit ∧ st.unit < 0x580 then some (x.1 * 96 + (st.unit - 0x500))
           else if kind = 3 ∧ 0x580 ≤ st.unit ∧ st.unit < 0x5A0 then some (x.1 * 24 + (st.unit - 0x580))
           else if kind = 4 ∧ 0x5A0 ≤ st.unit then some (x.1 * 16 + (st.unit - 0x5A0)) else none)
         else none)
      else none))

/-- Units of a kind that an enabled plan other than `except`'s holds. -/
def State.heldUnits (s : State) (kind : Nat) (except : Nat) : List Nat := s.heldBy (s.enabled.filter (fun c => c != except)) kind

/-- A unit may serve a plan: healthy, fenced by no domain (R167). -/
def State.eligible (s : State) (kind idx : Nat) : Bool :=
  !s.outOfUse kind idx &&
    (if kind = 1 ∨ kind = 2 then !s.troubled kind idx else !s.troubled 9 (idx / kindCount kind))

/-- The lowest-numbered unit of a kind on a loom that may serve context `c` and that it does not use. -/
def State.freeUnitOf (s : State) (c kind l : Nat) : Option Nat :=
  let mine := ((s.ctx c).ctl.unitMap.filter (fun e => e.1 == kind && e.2.1 == l)).map (·.2.2.2)
  let next := ((s.ctx c).ctl.flips.filter (fun f => f.1 == kind && f.2.2.1 / kindCount kind == l)).map (fun f => f.2.2.1 % kindCount kind)
  let held := s.heldUnits kind c
  (List.range (kindCount kind)).find? (fun u => s.eligible kind (l * kindCount kind + u) && !mine.contains u &&
    !next.contains u && !held.contains (l * kindCount kind + u))

/-! ## Table 6.12 -/

/-- Hand the context over where it is shadowed and masking is in effect. -/
def State.handMasked (s : State) (c : Nat) : State :=
  if (s.ctx c).ctl.maskEff && s.canHand c then s.handOver c else s

/-- A spare harness of the tier takes over harness `old` of a device-placed context: programmed now if the tier is inside
the window, else once it is. Without a spare the context is stopped. -/
def State.spareFor (s : State) (c old : Nat) : State :=
  match (s.sparesOfTier (tierOfHarness old)).head? with
  | none => s.enableZero c
  | some new =>
    let w := (s.ctx c).cur
    let s := s.modCtx c fun x => { x with cur := { x.cur with harnesses := x.cur.harnesses ++ [new] } }
    let s := s.claimFor c 1 new
    let ready := s.tierInWindow (tierOfHarness new)
    let s := if ready then (s.programFrom old new w).trimmed new else s
    s.modCtl c fun k => { k with flips := k.flips ++ [(1, old, new, ready)] }

/-- Spares that still wait to be programmed are programmed when their tier is back inside the window. -/
def State.flipPrograms (s : State) (c : Nat) : State :=
  let go := (s.ctx c).ctl.flips.filter (fun f => f.1 == 1 && !f.2.2.2 && s.tierInWindow (tierOfHarness f.2.2.1))
  State.each go (fun s f =>
    let s := (s.programFrom f.2.1 f.2.2.1 (s.ctx c).cur).trimmed f.2.2.1
    s.modCtl c fun k => { k with flips := k.flips.map (fun x => if x = f then (x.1, x.2.1, x.2.2.1, true) else x) }) s

/-- A batch boundary: mappings that are ready flip (R168). A context that was handed over admits again (R311). -/
def State.flipReady (s : State) (c : Nat) : State :=
  let go := (s.ctx c).ctl.flips.filter (fun f => f.2.2.2)
  let s := State.each go (fun s f =>
    if f.1 = 1 then s.flipHarness c f.2.1 f.2.2.1
    else s.modCtl c fun k => { k with unitMap := remapped k.unitMap f.1 f.2.1 f.2.2.1 }) s
  let s := s.modCtl c fun k => { k with flips := k.flips.filter (fun f => !f.2.2.2) }
  let s := if (s.ctx c).ctl.flips.isEmpty then
      { s with twin := { s.twin with handed := s.twin.handed.filter (· != c) } } else s
  s.flipPrograms c

/-- A shuttle, fuller or mending unit of a device-placed context is replaced by the lowest-numbered unit that may
serve it; without one the context is stopped. -/
def State.replaceUnit (s : State) (c kind idx : Nat) : State :=
  let l := idx / kindCount kind
  match s.freeUnitOf c kind l with
  | none => (s.handMasked c).enableZero c
  | some u => s.modCtl c fun k => { k with flips := k.flips ++ [(kind, idx, l * kindCount kind + u, true)] }

/-- An enabled plan names the unit. -/
def State.planUses (s : State) (c kind idx : Nat) : Bool :=
  if kind = 3 ∨ kind = 4 then
    (planSteps (s.image c)).any (fun x =>
      let st := s.physStep c x.1 x.2.2
      decide (x.1 < 4) && ((kind == 3 && st.kind == 3 && x.1 * 24 + st.unit == idx) ||
        (kind == 4 && st.kind == 2 && x.1 * 16 + st.unit == idx) ||
        (st.kind == 0xA && ((kind == 3 && decide (0x580 ≤ st.unit ∧ st.unit < 0x5A0) && x.1 * 24 + (st.unit - 0x580) == idx) ||
          (kind == 4 && decide (0x5A0 ≤ st.unit) && x.1 * 16 + (st.unit - 0x5A0) == idx)))))
  else s.planNames c kind idx

/-- The unit is gone for context `c`, whose enabled plan names it (Table 6.12). -/
def State.unitGoneFor (s : State) (c kind idx cause : Nat) : State :=
  let k := (s.ctx c).ctl
  if kind = 7 then s.gstop c cause true
  else if k.device then
    (if kind = 1 then
      (if k.maskEff then (s.handMasked c).spareFor c idx else s.enableZero c)
     else if kind = 2 ∨ kind = 3 ∨ kind = 4 then s.replaceUnit c kind idx
     else (s.handMasked c).enableZero c)
  else (s.handMasked c).enableZero c

/-- A free harness takes the place of one of the staged set (R251): programmed, and the old one released. -/
def State.stagedProgram (s : State) (c old new : Nat) (w : WeightSet) : State :=
  ((s.programFrom old new w).trimmed new).releaseHarness (s.ctx c).ctl.sealed old

/-- Harnesses of the staged set that wait for their tier's window are programmed once it is back inside (R251). -/
def State.stagedPrograms (s : State) (c : Nat) : State :=
  let go := (s.ctx c).sw.programs.filter (fun p => s.tierInWindow (tierOfHarness p.2))
  let s := State.each go (fun s p => s.stagedProgram c p.1 p.2 ((s.ctx c).staged.getD {})) s
  s.modCtx c fun x => { x with sw := { x.sw with programs := x.sw.programs.filter (fun p => !go.contains p) } }

/-- Programming that waits for a tier's window is taken up again where the window allows. -/
def State.windowPrograms (s : State) : State :=
  State.each s.ctxNums (fun s c => (s.flipPrograms c).stagedPrograms c) s

/-- A harness of a staged set is gone before its flip (R251): its mapping for the flip, and copies already built of its rows, go over
to the free harness that takes its place. -/
def State.stagedGone (s : State) (c h : Nat) : State :=
  let x := s.ctx c
  match x.staged with
  | none => s
  | some w =>
    if !w.harnesses.contains h then s
    else if x.ctl.device then
      match (s.freeOfTier (tierOfHarness h)).head? with
      | none => s
      | some new =>
        let s := s.claimFor c 2 new
        let ready := s.tierInWindow (tierOfHarness new)
        let s := if ready then s.stagedProgram c h new w else s
        s.modCtx c fun y => { y with
          staged := some (w.swapHarness h new)
          sw := { y.sw with
            unitMap := remapped y.sw.unitMap 1 h new
            programs := if ready then y.sw.programs else y.sw.programs ++ [(h, new)] }
          ctl := if y.sw.state = 4 then { y.ctl with rowCopies := recopied y.ctl.rowCopies h new } else y.ctl }
    else if x.sw.state = 3 ∨ x.sw.state = 4 then s.endSwitch c 0x0501
    else s

/-- What the plans and sets that use a unit do when it is gone. -/
def State.unitGone (s : State) (kind idx cause : Nat) : State :=
  let users := s.enabled.filter (fun c => s.planUses c kind idx)
  let s := State.each users (fun s c => s.unitGoneFor c kind idx cause) s
  let hs := if kind = 1 then [idx] else if kind = 8 then (List.range 128).map (fun i => idx * 128 + i)
    else if kind = 9 then (List.range 1024).map (fun i => idx * 1024 + i) else []
  State.each s.ctxNums (fun s c => State.each hs (fun s h => s.stagedGone c h) s) s

/-! ## The map (R277) -/

/-- The unit joins the disabled-unit map: GEN adds 1, PERM is set, running contexts record the change (Table 7.4). -/
def State.joinMap (s : State) (kind idx : Nat) : State :=
  if s.disabled kind idx then s
  else
    let s := { s with health := { s.health.withMap (insPair (kind, idx) s.health.dumap) with
      perm := true
      setAt := note s.health.setAt 2 s.clk.elapsed } }
    State.each s.running (fun s c => s.modRecs c fun r => { r with mapChanged := true }) s

/-- A harness on the map is Off, a port on it is Retired (R70, Table 12.8). -/
def State.takeDown (s : State) (kind idx : Nat) : State :=
  let off (s : State) (h : Nat) : State :=
    ((s.calStop h).modHarness h fun x =>
      { x with
        state := 0, goal := none, held := false, reprogram := false, trimBusy := false, trimWindows := 0
        resetBit := x.resetBit && notedNow x.setAt 8 s.clk.elapsed }).loseCells h
  let gone (s : State) (p : Nat) : State := (s.upstreamDown p).modPort p fun x => { x with state := 3, retrain := false }
  if kind = 1 then off s idx
  else if kind = 7 then gone s idx
  else if kind = 8 then State.each ((List.range 128).map (fun i => idx * 128 + i)) off s
  else if kind = 9 then
    State.each ((List.range 9).map (fun i => idx * 9 + i)) gone
      (State.each ((List.range 1024).map (fun i => idx * 1024 + i)) off s)
  else s

/-- Waiting steps that name a unit in trouble are suppressed (R294). -/
def State.suppressDue (s : State) : State :=
  s.dropDue (fun d => s.suppresses d.ctx d.list (s.stepAt d.ctx d.list d.idx)) true

/-- A unit is permanent: on the map, out of service, its work moved or stopped. -/
def State.permanent (s : State) (kind idx cause : Nat) : State :=
  if s.disabled kind idx then s
  else
    let s := (s.joinMap kind idx).takeDown kind idx
    let s := if kind = 3 ∨ kind = 4 ∨ kind = 6 then s
      else s.modDomain kind idx fun d => { d with retired := true, phase := 0, doomed := false }
    ((s.suppressDue).unitGone kind idx cause).refresh

/-- The module leaves service (R302): OOS, DEPART to the twin, Running contexts cut, the others Disabled. Streams that the twin takes
over under masking (Table 6.12) get no records here. -/
def State.leaveService (s : State) : State :=
  let s := s.setOos
  let taken := s.running.filter (fun c => (s.ctx c).ctl.maskEff && s.shadows c)
  let s := if s.twin.state = 1 then (s.sendTwin 0x11 s.clk.pick 0).unpair 0 else s
  let s := State.each s.enabled (fun s c => if (s.ctx c).ctl.state < 4 then s.disableCtx c else s) s
  State.each s.running (fun s c => s.gstop c 0 (!taken.contains c)) s

/-- A domain is retired (R301): the event of kind 0x0C, then as for any permanent unit; a hub function takes the module
out of service. A DOMAIN_RESET that waited for it completes (R432). -/
def State.retire (s : State) (kind idx cause : Nat) : State :=
  let waiting := (s.domain kind idx).mbx
  let s := s.modDomain kind idx fun d => { d with retired := true, phase := 0, doomed := false, mbx := none }
  let s := if kind = 0xA then s.leaveService
    else
      let s := s.healthEvent 0x0C kind idx 0xFF 0xFF 0
      if s.disabled kind idx then s else s.permanent kind idx cause
  match waiting with
  | some m => s.complete m 0 []
  | none => s

end Sys2Proof.Machine
end

