-- ==== Sys2Proof/Machine/Health.lean ====
section
/-! DEFINITION. The health history: events written to flash (R275-R279), powered time (R278), the map and its restoring
(R280, R281), test packs and captures in test windows (R282-R286), and the health commands (R288). -/

namespace Sys2Proof.Machine

/-! ## Events (R275-R277) -/

/-- Records that the event region holds (R279). -/
def eventCap : Nat := 131072

/-- Kinds that count toward three; kinds that make a unit permanent at once (Table 10.5). -/
def countingKind (k : Nat) : Bool := [1, 3, 4, 5, 6, 7, 8, 0xA].contains k
def permanentKind (k : Nat) : Bool := k == 0xB || k == 0xC

/-- Counting events of a unit, later than its newest restoring (R279, R281). -/
def Health.counted (h : Health) (kind idx : Nat) : List HealthEvent :=
  let mine := h.events.filter (fun e => e.unitKind == kind && e.unit == idx)
  let since := maxNat 0 ((mine.filter (fun e => e.kind == 0xD)).map (fun e => e.seq + 1))
  mine.filter (fun e => countingKind e.kind && decide (since ≤ e.seq))

/-- Three of the events lie within 30 days of powered time (R277). -/
def threeInSpan (es : List HealthEvent) : Bool :=
  es.any (fun e => decide (3 ≤ (es.filter (fun f => decide (e.time ≤ f.time ∧ f.time ≤ e.time + 2592000))).length))

/-- Write the oldest queued event to flash, with the powered time (R275, R278). -/
def Health.writeEvent (h : Health) : Health :=
  match h.queue with
  | [] => h
  | e :: t =>
    let all := h.events ++ [{ e with seq := h.nextSeq }]
    { h with
      queue := t, nextSeq := h.nextSeq + 1, flashSeconds := h.seconds
      events := all.drop (all.length - eventCap), wrapped := h.wrapped || decide (eventCap < all.length) }

/-- The oldest queued event is in flash, and its unit is permanent once Table 10.5 or three events say so. -/
def State.eventWritten (s : State) : State :=
  match s.health.queue with
  | [] => s
  | e :: _ =>
    let s := { s with health := s.health.writeEvent }
    if permanentKind e.kind || (countingKind e.kind && threeInSpan (s.health.counted e.unitKind e.unit)) then
      s.permanent e.unitKind e.unit 0
    else s

/-- HEALTH_EVENT_WRITE. -/
def execHealthEventWrite (s : State) : Host.Outcome State Fault Refusal :=
  .next (if s.up then s.eventWritten else s)

/-- POWERED_SECOND: counted while the module is powered, written to flash at each whole hour. -/
def execPoweredSecond (s : State) : Host.Outcome State Fault Refusal :=
  .next (
    if s.powered then
      let n := s.health.seconds + 1
      { s with health := { s.health with
          seconds := n, flashSeconds := if n % 3600 = 0 then n else s.health.flashSeconds } }
    else s)

/-- An event record (Table 10.6). -/
def HealthEvent.bytes (e : HealthEvent) : Bytes :=
  let b := toLe 4 e.seq ++ toLe 4 e.time ++ toLe 1 e.kind ++ toLe 1 e.unitKind ++ toLe 1 e.context ++ toLe 1 e.capture ++
    toLe 4 e.unit ++ toLe 8 e.detail ++ toLe 4 e.pick
  b ++ toLe 4 (crc32c b).toNat

/-! ## Commands (Table 10.8) -/

def execHealthDumapRead (m : Fin 16) (s : State) : Host.Outcome State Fault Refusal :=
  .next (s.command m.val 0x4000 fun b s =>
    s.completeWith m.val b (b.arg2 0) (b.arg 2) s.dumapBytes [s.health.dumap.length, s.health.gen])

/-- HEALTH_EVENT_READ: at most `count` records from SEQ on, in order; the lowest SEQ held, or the next to be assigned. -/
def execHealthEventRead (m : Fin 16) (s : State) : Host.Outcome State Fault Refusal :=
  .next (s.command m.val 0x4001 fun b s =>
    let es := (s.health.events.filter (fun e => decide (b.arg 0 ≤ e.seq))).take (b.arg 1)
    let bs := es.flatMap HealthEvent.bytes
    let lowest := (s.health.events.head?.map (fun e => e.seq)).getD s.health.nextSeq
    s.completeWith m.val b (b.arg2 2) bs.length bs [es.length, lowest])

/-- Units of Table 10.7: the number of each kind. -/
def unitCount (kind : Nat) : Nat := [0, 4096, 384, 96, 64, 768, 64, 36, 32, 4].getD kind 0

/-- The unit comes off the map: GEN adds 1 and its domain is in service again. -/
def State.leaveMap (s : State) (kind idx : Nat) : State :=
  if !s.disabled kind idx then s
  else
    let s := { s with health := s.health.withMap (s.health.dumap.filter (fun e => e != (kind, idx))) }
    let s := if kind = 3 ∨ kind = 4 ∨ kind = 6 then s else s.modDomain kind idx fun d => { d with retired := false }
    let back (s : State) (p : Nat) : State :=
      if s.outOfUse 7 p then s else s.modPort p fun x => { x with state := if x.enable then 1 else 0 }
    if kind = 7 then back s idx
    else if kind = 9 then State.each ((List.range 9).map (fun i => idx * 9 + i)) back s else s

/-- HEALTH_UNIT_RESTORE (R281). Its event is in flash, behind every event that waits, before the command completes: the counts are
those of events in flash, so they are cleared then. -/
def execHealthUnitRestore (m : Fin 16) (s : State) : Host.Outcome State Fault Refusal :=
  .next (s.command m.val 0x4002 fun b s =>
    if s.enabled ≠ [] ∨ unitCount (b.arg 0) ≤ b.arg 1 then s.complete m.val 0x11 []
    else
      let s := s.healthEvent 0xD (b.arg 0) (b.arg 1) 0xFF 0xFF 0
      let s := (State.each s.health.queue (fun s _ => s.eventWritten) s).leaveMap (b.arg 0) (b.arg 1)
      s.complete m.val 0 [s.health.gen])

/-- The test pack's place in the hub region (Table 16.4). -/
def packBase : Nat := 0x011C41000000

/-- The items of a pack, as far as R282 admits them. -/
def packOf (body : Bytes) : List PackItem :=
  let ok (x : PackItem) : Bool := decide (1 ≤ x.unitKind ∧ x.unitKind ≤ 4 ∧ 1 ≤ x.length ∧ x.length ≤ 65535)
  (((Config.packItems body).map (fun x => ⟨x.1, x.2.1, x.2.2.1, x.2.2.2⟩)).filter ok).take 65535

/-- HEALTH_PACK_LOAD (R282): checked as R387 says; a new pack replaces the old one and its cursors. -/
def execHealthPackLoad (m : Fin 16) (object : Bytes) (s : State) : Host.Outcome State Fault Refusal :=
  .next (s.command m.val 0x4003 fun b s =>
    if pastXfer m.val b (b.arg2 0) (b.arg 2) || decide (0x1000000 < b.arg 2) then s.complete m.val 0x11 []
    else
      let o := s.hostData m.val b (b.arg2 0) (b.arg 2) object
      let status := objStatus s.sec.revoked o
      if status ≠ 0 then s.complete m.val status []
      else if objType o ≠ 4 ∨ Config.packVersion (objBody o) ≠ 1 ∨ Config.packProfile (objBody o) ≠ arithProfile then
        s.complete m.val 0x11 []
      else
        let id := Config.packIdOf (objBody o) % 65536
        let s := s.unitWrite packBase o
        ({ s with health := { s.health with packId := some id, pack := packOf (objBody o), packLen := o.length, cursors := [] } }).complete
          m.val 0 [id])

def execHealthPackUnload (m : Fin 16) (s : State) : Host.Outcome State Fault Refusal :=
  .next (s.command m.val 0x4004 fun _ s =>
    ({ s with health := { s.health with packId := none, pack := [], packLen := 0, cursors := [] } }).complete m.val 0 [])

/-- HEALTH_CAPTURE_READ: the slot's 8 KiB and its state. -/
def execHealthCaptureRead (m : Fin 16) (s : State) : Host.Outcome State Fault Refusal :=
  .next (s.command m.val 0x4005 fun b s =>
    if 64 ≤ b.arg 0 then s.complete m.val 0x11 []
    else
      let bs : Bytes × Nat := match s.health.captures.find? (fun e => e.1 == b.arg 0) with
        | some e => (slice e.2.data 0 8192, e.2.state)
        | none => (List.replicate 8192 0, 0)
      s.completeWith m.val b (b.arg2 1) 8192 bs.1 [bs.2])

/-! ## Test windows (R283-R286) -/

/-- The unit that a TEST step tests: unit kind and index (Tables 6.11, 10.7). -/
def testUnit (l : Nat) (st : PlanStep) : Nat × Nat :=
  if st.unit < 0x500 then (1, l * 1024 + (st.unit - 0x100))
  else if st.unit < 0x580 then (2, l * 96 + (st.unit - 0x500))
  else if st.unit < 0x5A0 then (3, l * 24 + (st.unit - 0x580))
  else (4, l * 16 + (st.unit - 0x5A0))

/-- The capture waits for a window of unit `u`: the unit has not had its turn. -/
def Capture.waitsFor (x : Capture) (u : Nat × Nat) : Bool :=
  x.state == 1 && (if x.tried = 0 then x.units.contains u else x.units.head? == some u)

/-- The oldest capture that waits for a window of the unit, with its slot. -/
def Health.captureFor (h : Health) (u : Nat × Nat) : Option (Nat × Capture) :=
  (h.captures.filter (fun e => e.2.waitsFor u)).foldl (fun (m : Option (Nat × Capture)) e => match m with
    | none => some e
    | some x => if e.2.order < x.2.order then some e else some x) none

/-- The capture after a replay on unit `u`: reproduced, or tried once more; two windows without rule it transient. -/
def Capture.replayed (x : Capture) (u : Nat × Nat) (differs : Bool) : Capture :=
  { x with
    state := if differs then 2 else if 2 ≤ x.tried + 1 then 3 else 1
    tried := x.tried + 1, units := x.units.filter (fun v => v != u) ++ [u] }

/-- A capture is replayed on unit `u` (R286). -/
def State.replayCapture (s : State) (c i : Nat) (x : Capture) (u : Nat × Nat) (differs : Bool) : State :=
  let s := { s with health := { s.health with captures := Tab.ins i (x.replayed u differs) s.health.captures } }
  if differs then s.healthEvent 0xB u.1 u.2 c i 0 else s

/-- The unit's cursor: the item's number among those of its kind, and whether it failed in the last window. -/
def Health.cursor (h : Health) (u : Nat × Nat) : Nat × Bool :=
  match h.cursors.find? (fun e => e.1 == u.1 && e.2.1 == u.2) with
  | some e => e.2.2
  | none => (0, false)
def Health.setCursor (h : Health) (u : Nat × Nat) (n : Nat) (failed : Bool) : Health :=
  { h with cursors := h.cursors.filter (fun e => !(e.1 == u.1 && e.2.1 == u.2)) ++ [(u.1, u.2, n, failed)] }

/-- The item at the unit's cursor, if it fits a window of `len` picks. -/
def Health.itemFor (h : Health) (u : Nat × Nat) (len : Nat) : Option PackItem :=
  match (h.pack.filter (fun i => i.unitKind == u.1))[(h.cursor u).1]? with
  | some i => if i.length ≤ len then some i else none
  | none => none

/-- A pack item runs on unit `u` (R283, R284): one that fails stays for the next window; a second failure is
reproduction. -/
def State.runItem (s : State) (c : Nat) (u : Nat × Nat) (differs : Bool) : State :=
  let h := s.health
  let n := max (h.pack.filter (fun i => i.unitKind == u.1)).length 1
  let cur := h.cursor u
  let again := differs && !cur.2
  let h := { h with
    packRun := satAdd max16 h.packRun 1, packFailed := satAdd max16 h.packFailed (b2n differs) }
  let s := { s with health := h.setCursor u (if again then cur.1 else (cur.1 + 1) % n) again }
  if differs then s.healthEvent (if cur.2 then 0xB else 0xA) u.1 u.2 c 0xFF 0 else s

/-! ### Harness items (R283) -/

/-- No slot: what a test window does enters no token and no check word. -/
def noSlot : Nat := 0xFFFE

/-- Bit-planes of a harness item: 64 bytes to a plane, plane 0 first, bit i of a plane for row i, at most 8 planes. (DESIGN CHOICE:
no rule gives the format.) -/
def itemPlanes (input : Bytes) : Nat := min 8 (input.length / 64)
def itemBit (input : Bytes) (b r : Nat) : Bool := bitOf (byteAt input (64 * b + r / 8)) (r % 8)

/-- The item's planes as the activation blocks of the eight dents, of exponent 0. -/
def itemBlocks (input : Bytes) : List ActBlock :=
  let n := itemPlanes input
  (List.range 8).map fun d =>
    let elem (i : Nat) : Int := signed n (sumNat ((List.range n).map (fun b => 2 ^ b * b2n (itemBit input b (64 * d + i)))))
    ⟨(List.range 64).map elem, 0, 0, 0⟩

/-- A heddle under test drives all of its rows. -/
def Heddle.whole (h : Heddle) : Heddle := { h with rowFirst := 0, rowsUsed := 512 }

def itemDents (h : Heddle) (i : Fin 64) (input : Bytes) (ups : List Upset) : List DentWork :=
  (List.range 8).map (fun d => dentWork h i d h.width (itemPlanes input) (blockOf h (itemBlocks input) d) ups)
/-- The accumulators that the item gives in a heddle. -/
def itemAccs (h : Heddle) (i : Fin 64) (input : Bytes) (ups : List Upset) : List Acc :=
  heddleAccs h i h.width 0 (itemBlocks input) (itemDents h i input ups) [] (fun _ => []) ups

/-- The reference: the accumulators of the heddle as its pattern copy would program it. -/
def State.itemReference (s : State) (g : Nat) (i : Fin 64) (input : Bytes) : List Acc :=
  itemAccs (((s.programHeddle g).heddle g).whole) i input []

/-- One heddle of a harness under test: its conversions and checks, its tile, and the comparison of every accumulator with the
reference. Whether a residue check failed, and whether an accumulator differs. -/
def State.testHeddle (s : State) (c l bank : Nat) (input : Bytes) (i : Fin 64) (g : Nat) (ups : List Upset) : State × Bool × Bool :=
  let h := (s.heddle g).whole
  let ws := itemDents h i input ups
  let accs := itemAccs h i input ups
  let bad := ws.any (fun w => !w.products.all Resd.ok) || accs.any (·.bad)
  let r := ((s.dentEvents c noSlot l g (itemPlanes input) (ws.zip ((itemBlocks input).map some))).noteTile g bank accs
    h.eWmin).patternRead g ups
  (if r.1 then r.2 else r.2.patternGone g, bad,
   r.1 && accs.map (·.sum.val) != (r.2.itemReference g i input).map (·.sum.val))

/-- A harness item: through every programmed heddle, into the window's bank. -/
def State.testHarness (s : State) (c l bank harness : Nat) (record input : Bytes) (ups : List Upset) : State × Bool :=
  let held := (List.finRange 64).filter (fun i => (s.heddle (harness * 64 + i.val)).programmed)
  let r := held.foldl (fun r i =>
    let x := r.1.testHeddle c l bank input i (harness * 64 + i.val) ups
    (x.1, r.2.1 || x.2.1, r.2.2 || x.2.2)) (s, false, false)
  (if r.2.1 then r.1.residueFail c noSlot .beater l 4 1 harness (record ++ input) else r.1, r.2.2)

/-- The residue and table checks that stand beside a comparison of outputs, on the window's work (R114, R120, R141, R283). -/
def State.testChecks (s : State) (c l : Nat) (st : PlanStep) (u : Nat × Nat) (data : Bytes) (ups : List Upset) : State :=
  let bad := ups.any (fun x => match x with
    | .fault _ v r => r.val % 7 != mod7 v
    | _ => false)
  if u.1 = 2 then s.shuttleFails c l { st with slot := noSlot } u.2 bad (ups.contains .stat) data
  else if u.1 = 3 then
    let s := s.tableEcc c noSlot l (u.2 - 24 * l) data ups
    if bad then s.residueFail c noSlot .fuller l 4 3 u.2 data else s
  else if bad then s.residueFail c noSlot (if u.1 = 1 then .beater else .mending) l 4 u.1 u.2 data
  else s

/-! ### The window -/

/-- An item on its unit: the operands are read with the pack, in whose body no rule places them, and the output is compared with
its reference: a harness's accumulators with those that the pattern copies give, another unit's CRC-32C with the item's. -/
def State.itemWork (s : State) (c l : Nat) (d : Due) (st : PlanStep) (u : Nat × Nat) (x : PackItem) (output : Bytes)
    (ups : List Upset) : State :=
  let s := s.checkedRead c noSlot packBase s.health.packLen ups
  let record := s.stepRecord c l d.idx
  let bank := le (stepParam (s.image c) st 16) 0 1 % 2
  let (s, differs) :=
    if u.1 = 1 then s.testHarness c l bank u.2 record x.input ups
    else (s.testChecks c l st u (record ++ x.input) ups, crc32c output != x.crc)
  s.runItem c u differs

/-- What a test window runs: a capture that waits for the unit, with the reference that Adoraku computes, else the pack item at its
cursor, else nothing. -/
def State.testWork (s : State) (c l : Nat) (d : Due) (st : PlanStep) (seen : TestSeen) : State :=
  let u := testUnit l st
  match s.health.captureFor u with
  | some x => (s.testChecks c l st u x.2.data seen.ups).replayCapture c x.1 x.2 u (seen.output != seen.reference)
  | none =>
    match s.health.itemFor u st.len with
    | some x => s.itemWork c l d st u x seen.output seen.ups
    | none => s

def execTestStep (c : Fin 256) (l : Fin 5) (i : BitVec 18) (seen : TestSeen) (s : State) : Host.Outcome State Fault Refusal :=
  .next (if l.val < 4 then s.runStep c.val l.val i.toNat 0xA 0 none (fun d st s => s.testWork c.val l.val d st seen) else s)

end Sys2Proof.Machine
end

