-- ==== Sys2Proof/Machine/Faults.lean ====
section
/-! DEFINITION. Faults: the detectors (R290, R291), the log entry and the FAULT notice (R312), phase F1 (R293, R294),
GSTOP (R304), and the close of a storm window with the resets it decides (R301, R313, R314). -/

namespace Sys2Proof.Machine

/-! ## Declaring -/

/-- The log entry of a fault detected here now. -/
def State.entry (s : State) (kind idx det : Nat) (echo : Bool) : LogEntry :=
  { seq := s.rcv.logSeq, originPick := s.clk.pick, place := s.place, kind := kind, detector := det, index := idx
    isLocal := true, root := false, echo := echo, echoReset := false, damaged := false, dumpSeq := max32 }

/-- Vector 0, and the notice over the plan ports of every Running context (R312). -/
def State.notify (s : State) (e : LogEntry) : State :=
  State.each (s.ctxNums.filter (fun c => (s.ctx c).ctl.state == 4))
    (fun s c => s.originate c 8 e.originPick (e.kind + 256 * e.detector) e.index) (s.emit (.msix 0))

/-- Write a fault's log entry, which takes part in storms, and send its notice (R312, R313). -/
def State.declare (s : State) (kind idx det : Nat) : State :=
  let e := s.entry kind idx det false
  ((s.pushLog e).storm e).notify e

/-- An echo is counted and keeps an open storm window open; it is no candidate for its root, and opens none (R291). -/
def State.countEcho (s : State) : State :=
  { s with rcv := { s.rcv with
    echoes := satAdd max32 s.rcv.echoes 1, stormLast := if s.rcv.stormOpen then s.clk.elapsed else s.rcv.stormLast } }

/-- A fault charged to a domain that is already being recovered is logged as an echo (R291). -/
def State.declareEcho (s : State) (kind idx det : Nat) : State :=
  let e := s.entry kind idx det true
  (s.pushLog e).countEcho.notify e

/-- Steps in flight that name the domain. -/
def State.flights (s : State) (kind idx : Nat) : List Run :=
  s.sched.runs.filter (fun r => s.stepNames r.ctx r.list (s.stepAt r.ctx r.list r.idx) kind idx)

/-- F1 (R293): the domain is fenced, its waiting steps are suppressed, the drain limit is set, and the contexts that a
loom or a hub function takes with it are cut (Tables 11.2 and 11.3). -/
def State.fence (s : State) (kind idx det orig seq : Nat) : State :=
  let fl := s.flights kind idx
  let ends := fl.map (fun r => s.stepEndPick r.ctx (s.stepAt r.ctx r.list r.idx) r.iter)
  let by_ := if ends.isEmpty then s.clk.pick + 16 else min (maxNat 0 ends + 64) (s.clk.pick + 65536)
  let knots := (fl.flatMap (fun (r : Run) =>
    let st := s.stepAt r.ctx r.list r.idx
    let here (a : Nat) : List Nat := if a ≠ 0 ∧ addrPlace a = planPlace (s.image r.ctx) then [addrLocal a] else []
    (if st.waitCount = 0 then [] else here st.wait) ++ here st.set)).eraseDups
  let s := s.modDomain kind idx fun d =>
    { d with
      phase := 2, detector := det, originPick := orig, fencePick := s.clk.pick, logSeq := seq, drainBy := by_
      undecided := if kind = 0xB then [] else d.undecided ++ [s.clk.wall], total := satAdd max16 d.total 1
      gen := s.health.gen, knots := knots, islands := [] }
  let s := s.suppressDue
  if kind = 9 then
    State.each (s.running.filter (fun c => decide (planListCount (s.image c) idx ≠ 0))) (fun s c => s.gstop c 0 true) s
  else if kind = 0xA ∧ 1 ≤ idx ∧ idx ≤ 4 then State.each s.running (fun s c => s.gstop c 0 true) s
  else s

/-- Count a module reset (R302): the start times of the last two, the total, and OOS when it begins less than 3,600 s after
the first of those two. -/
def State.countModule (s : State) : State :=
  let out := match s.rcv.modStarts with
    | a :: _ :: _ => decide (s.clk.wall - a < 14400000000000)
    | _ => false
  let l := s.rcv.modStarts ++ [s.clk.wall]
  let s := { s with rcv := { s.rcv with
    modStarts := l.drop (l.length - 2), modTotal := satAdd max16 s.rcv.modTotal 1 } }
  if out then s.setOos else s

/-- The knots on this module that the steps of Running contexts wait on or set (R296). -/
def State.runningKnots (s : State) : List Nat :=
  (s.running.flatMap (fun c =>
    let img := s.image c
    let here (a : Nat) : List Nat := if a ≠ 0 ∧ addrPlace a = planPlace img then [addrLocal a] else []
    (planSteps img).flatMap (fun x => (if x.2.2.waitCount = 0 then [] else here x.2.2.wait) ++ here x.2.2.set))).eraseDups

/-- A module reset begins (R293, R302, R308): DEPART and the end of the pairing before F1, escalation, the cut of
Running contexts without records (R300). -/
def State.moduleReset (s : State) (det : Nat) : State :=
  let seq := s.rcv.logSeq
  if (s.domain 0xB 0).phase != 0 then s.declareEcho 0xB 0 det
  else
    let s := if s.twin.state = 1 then s.sendTwin 0x11 s.clk.pick 0 else s
    let s := if s.twin.state = 0 then s else s.unpair 0
    let s := s.declare 0xB 0 det
    let s := s.countModule
    let knots := s.runningKnots
    let s := State.each s.running (fun s c => s.gstop c 0 false) s
    (s.fence 0xB 0 det s.clk.pick seq).modDomain 0xB 0 fun d => { d with knots := knots }

/-- A fault charged to a domain: logged; a domain already being recovered, or retired, starts nothing (R291). -/
def State.fault (s : State) (kind idx det : Nat) : State :=
  if kind = 0xB then s.moduleReset det
  else
    let seq := s.rcv.logSeq
    if s.troubled kind idx then s.declareEcho kind idx det else (s.declare kind idx det).fence kind idx det s.clk.pick seq

/-! ## Detectors -/

/-- The domain charged for an overrun: the step's unit, or, when a remote operation holds it, the port or the target loom
of its path. -/
def overrunDomain (r : Run) (st : PlanStep) : Nat × Nat :=
  if r.ended.isNone then stepDomain r.list st
  else if st.unit ≤ 8 ∧ (st.kind = 5 ∨ st.kind = 6 ∨ st.kind = 7) then (7, 9 * r.list + st.unit)
  else (9, loomOfAddr (addrLocal (if st.kind = 6 then st.src else st.dst)))

/-- OVERRUN (detector 0x01, R294): the step is abandoned, and its island stands frozen from then on; in a cut context without a fault
(R305). The fence finds the step still in flight, so its knots are in the dump (R296). -/
def execOverrun (c : Fin 256) (l : Fin 5) (i : BitVec 18) (s : State) : Host.Outcome State Fault Refusal :=
  .next (
    match s.sched.runs.find? (fun r => sameRun c.val l.val i.toNat r) with
    | none => s
    | some r =>
      let st := s.stepAt r.ctx r.list r.idx
      if s.up && decide (r.began + st.len + 64 ≤ s.clk.pick) && !s.suppresses r.ctx r.list st then
        let d := overrunDomain r st
        let s := if (s.ctx c.val).ctl.cut then s else s.fault d.1 d.2 1
        (s.abandon r).cutSettle c.val
      else s)

/-- STARVED (detector 0x03): no domain is charged, the context is cut. -/
def execStarved (c : Fin 256) (l : Fin 5) (i : BitVec 18) (s : State) : Host.Outcome State Fault Refusal :=
  .next (
    if s.up && s.sched.due.any (fun d => sameStep c.val l.val i.toNat d && !d.void && decide (d.voidEnd + 64 ≤ s.clk.pick)) then
      (s.declare 0 0 3).gstop c.val 3 true
    else s)

def execMemoryTimeout (channel : Fin 768) (s : State) : Host.Outcome State Fault Refusal :=
  .next (if s.awake then s.fault 5 channel.val 5 else s)
def execTierTimeout (tier : Fin 32) (s : State) : Host.Outcome State Fault Refusal :=
  .next (if s.awake then s.fault 8 tier.val 6 else s)
def execSequencerFault (loom : Fin 4) (s : State) : Host.Outcome State Fault Refusal :=
  .next (if s.awake then s.fault 9 loom.val 7 else s)
def execHubWatchdog (f : Fin 8) (s : State) : Host.Outcome State Fault Refusal :=
  .next (if s.up then s.fault 0xA f.val 8 else s)
def execWeaverHeartbeat (s : State) : Host.Outcome State Fault Refusal :=
  .next (if s.ready then s.fault 0xA 0 9 else s)
/-- Words of the hub's SRAM are struck while a hub step of slot `slot` runs (R260, R261): corrections are counted and noted on the
slot's path, and a word that cannot be corrected is a fault of hub function 0. -/
def State.sramStruck (s : State) (c slot : Nat) (ups : List Upset) : State :=
  State.each ups (fun s u =>
    match u with
    | .sram bits =>
      let d := secded bits.toNat
      let s := if d.corrected = 0 then s else (s.eccCorrected 28).check c slot fun k => { k with eccCorr := true }
      if d.detected = 0 then s else (s.eccUncorrected 28).fault 0xA 0 0xB
    | _ => s) s

def execSramUncorrectable (s : State) : Host.Outcome State Fault Refusal :=
  .next (if s.up then (s.eccUncorrected 28).fault 0xA 0 0xB else s)
def execLockStepMismatch (s : State) : Host.Outcome State Fault Refusal :=
  .next (if s.up then s.moduleReset 0xC else s)

/-! ### Mailbox timeout (R332, R393) -/

/-- Bytes of host data that a command names. A recipe, which is far below 64 MiB, counts as its first 64 bytes; the data that an open
descriptor names counts as the descriptor says. -/
def hostDataOf (b : Mailbox) : Nat :=
  match b.opcode with
  | 0x1000 => if b.arg 2 = 0 then 64 else 0
  | 0x1002 => 2048
  | 0x1003 => b.arg 6 * 4194320
  | 0x1004 => 96 + Config.openDataLen (b.arg2 1)
  | 0x1006 => if b.arg2 1 = 0 then 0 else 64
  | 0x1007 => b.arg 3
  | 0x100A => if b.arg 1 = 1 then 96 + Config.openDataLen (b.arg2 2) else b.arg 6 * 4194320
  | 0x2000 => b.arg 3
  | 0x4000 => b.arg 2
  | 0x4001 => b.arg 1 * 32
  | 0x4003 => b.arg 2
  | 0x4005 => 8192
  | 0x4010 => b.arg 3
  | 0x4012 => b.arg 1 * 32
  | 0x4016 => 32
  | 0x5000 => b.arg 2
  | 0x5001 => b.arg 2
  | 0x5002 => 64 + b.arg 6
  | 0x5003 => b.arg 3
  | 0x5004 => 32
  | 0x5005 => b.arg 2
  | 0x5006 => b.arg 4
  | 0x5007 => b.arg 6
  | 0x6000 => b.arg 2
  | 0x6001 => b.arg 2
  | _ => 0

/-- The command's time limit in quarter-nanoseconds. -/
def mailboxLimit (b : Mailbox) : Nat := (max b.limit 1 + ceilDiv (hostDataOf b) 67108864) * 4000000

/-- When the limit starts: at GO, for a command that needs a private key not before derivation has ended. -/
def State.limitFrom (s : State) (b : Mailbox) : Option Nat :=
  if b.opcode = 0x1002 ∨ b.opcode = 0x5002 then
    (if s.sec.derivationEnded then some (max b.since s.sec.derivWall) else none)
  else some b.since

def execMailboxTimeout (m : Fin 16) (s : State) : Host.Outcome State Fault Refusal :=
  .next (
    let b := s.mailbox m.val
    match s.limitFrom b with
    | none => s
    | some t => if s.booted && b.busy && decide (mailboxLimit b ≤ s.clk.wall - t) then s.fault 0xA 0 0xA else s)

/-! ## Host requests (R71, R316, R432) -/

/-- Domains of a kind (Table 11.2); 0 for no kind. -/
def domainCount (kind : Nat) : Nat :=
  match kind with
  | 1 => 4096
  | 2 => 384
  | 5 => 768
  | 7 => 36
  | 8 => 32
  | 9 => 4
  | 0xA => 8
  | 0xB => 1
  | _ => 0

/-- RESET of a harness: a fault with detector 0x0D, handled as DOMAIN_RESET of kind 1 (Table 2.17). -/
def State.harnessReset (s : State) (h : Nat) : State :=
  (s.modHarness h fun x => { x with resetBit := true, setAt := note x.setAt 8 s.clk.elapsed }).fault 1 h 0xD

def execHarnessReset (who : Who) (s : State) : Host.Outcome State Fault Refusal :=
  .next (s.onHarness who fun h s => s.harnessReset h)

/-- DOMAIN_RESET: for the module and hub function 0 it completes before F1; else when the domain leaves F6 or is retired. -/
def execDomainReset (m : Fin 16) (s : State) : Host.Outcome State Fault Refusal :=
  .next (s.command m.val 0x4013 fun b s =>
    let k := b.arg 0
    let i := b.arg 1
    if domainCount k ≤ i then s.complete m.val 0x11 []
    else if k = 0xB ∨ (k = 0xA ∧ i = 0) then (s.complete m.val 0 []).fault k i 0xD
    else if s.rcv.domains.any (fun d => d.2.mbx == some m.val) then s
    else if (s.domain k i).retired then (s.fault k i 0xD).complete m.val 0 []
    else
      let s := s.fault k i 0xD
      if (s.domain k i).phase = 0 then s.complete m.val 0 [] else s.modDomain k i fun d => { d with mbx := some m.val })

/-- DOMAIN_RETIRE: at once; refused for kinds 0x0A and 0x0B. RES0 is the map's generation. -/
def execDomainRetire (m : Fin 16) (s : State) : Host.Outcome State Fault Refusal :=
  .next (s.command m.val 0x4014 fun b s =>
    let k := b.arg 0
    let i := b.arg 1
    if domainCount k ≤ i ∨ k = 0xA ∨ k = 0xB then s.complete m.val 0x11 []
    else
      let s := if (s.domain k i).retired then s else s.retire k i 0xD
      s.complete m.val 0 [s.health.gen])

/-! ## Notices and cuts from other members -/

/-- GSTOP arrives: the first for its group, origin and pick is forwarded, and the group's contexts are cut. -/
def execGstop (group : BitVec 64) (origin : Fin 4096) (cause : Fin 17) (pick : BitVec 64) (s : State) :
    Host.Outcome State Fault Refusal :=
  .next (
    let g := group.toNat
    if s.up && !s.seen 7 origin.val g pick.toNat then
      State.each (s.ofGroup g) (fun s c => (s.relay c 7 origin.val g pick.toNat 0 cause.val).cut c 0x10 true) s
    else s)

/-- FAULT arrives: logged as a remote entry and relayed once. -/
def execFault (n : FaultNotice) (s : State) : Host.Outcome State Fault Refusal :=
  .next (
    if s.up && !s.seen 8 n.place n.group n.originPick then
      let e : LogEntry :=
        { seq := s.rcv.logSeq, originPick := n.originPick, place := n.place, kind := n.kind, detector := n.detector
          index := n.index, isLocal := false, root := false, echo := false, echoReset := false, damaged := false
          dumpSeq := max32 }
      let s := ((s.pushLog e).storm e).emit (.msix 0)
      let s := s.noteMsg 8 n.place n.group n.originPick
      State.each (s.ofGroup n.group) (fun s c =>
        s.relay c 8 n.place n.group n.originPick (n.kind + 256 * n.detector) n.index) s
    else s)

/-! ## The close of a storm window -/

/-- Count one reset of a domain that began at wall time `t` (R301): a fourth within 600 s of the first of the last
three retires the domain, at the end of F3 if it has not passed it. -/
def State.countReset (s : State) (kind idx t : Nat) : State :=
  let d := s.domain kind idx
  let fourth := match d.starts with
    | [a, _, _] => decide (t - a < 2400000000000)
    | _ => false
  let l := d.starts ++ [t]
  let s := s.modDomain kind idx fun d => { d with starts := l.drop (l.length - 3) }
  if fourth then
    (if d.phase = 2 ∨ d.phase = 3 then s.modDomain kind idx fun d => { d with doomed := true }
     else if d.retired then s else s.retire kind idx d.detector)
  else s

/-- The root names the domain of this module. -/
def State.rootNames (s : State) (kind idx : Nat) : Bool :=
  match s.rcv.root with
  | none => false
  | some r => r.isLocal && r.kind == kind && r.index == idx

/-- The resets of one domain that waited for the close: counted, or echo resets (R314). -/
def State.decide? (s : State) (key from_ : Nat) : State :=
  let kind := key / 65536
  let idx := key % 65536
  let ts := (s.domain kind idx).undecided
  let s := s.modDomain kind idx fun d => { d with undecided := [] }
  if s.rootNames kind idx then State.each ts (fun s t => s.countReset kind idx t) s
  else
    let mark (e : LogEntry) : LogEntry :=
      if e.isLocal && e.kind == kind && e.index == idx && decide (from_ ≤ e.seq) then { e with echoReset := true } else e
    { s with rcv := { s.rcv with log := s.rcv.log.map mark } }

/-- STORM_WINDOW_CLOSE: 65,536 picks without an entry that takes part. The root is named from the latched entries, also where a module
reset has meanwhile cleared ERR_ROOT_. -/
def execStormWindowClose (s : State) : Host.Outcome State Fault Refusal :=
  .next (
    let r := s.rcv
    if s.powered && r.stormOpen && decide (65536 ≤ s.clk.elapsed - r.stormLast) then
      let from_ := (r.latched.map (·.seq)).foldl min r.logSeq
      let root := firstOf r.latched
      let mark (d : Dump) : Dump := if (root.map (·.seq)) = some d.logSeq then { d with root := true } else d
      let s := { s with rcv := { r with
        stormOpen := false, root := root, rootProvisional := false, rootValid := r.rootValid || r.root.isNone, latched := []
        dumps := r.dumps.map mark } }
      let keys := (r.domains.filter (fun d => !d.2.undecided.isEmpty)).map (·.1)
      State.each keys (fun s k => s.decide? k from_) s
    else s)

end Sys2Proof.Machine
end

