-- ==== Sys2Proof/Machine/Admission.lean ====
section
/-! DEFINITION. The batch boundary and admission (R200, R201): slots released, settings taken over (R168, R270), page
commands applied (R132), mappings flipped, eligible requests admitted with their frames mapped, others refused. -/

namespace Sys2Proof.Machine

/-! ## Frames of an admitted request (R132) -/

/-- The attention layers of a plan. -/
def attnLayers (img : Bytes) : List Nat :=
  ((planSteps img).filterMap (fun x =>
    if x.1 < 4 ∧ x.2.2.kind = 4 then some (parseAttn (stepParam img x.2.2 64)).layer else none)).eraseDups

/-- Frames of context `c`'s arena that some entry or shadow of the context names. -/
def State.usedFrames (s : State) (c : Nat) : List Nat :=
  let open_ := (s.srv.streams.filter (fun e => e.2.opened && e.2.ctx == c)).map (·.1)
  open_.flatMap (fun t => (s.streamEntries t).map (fun e => ptFrame e.2)) ++
    ((s.twin.shadows.map (·.2)).filter (fun r => r.context == c)).flatMap (fun r => r.ptEntries.map (fun e => ptFrame e.2))

/-- Free frames of context `c`, ascending. -/
def State.freeFrames (s : State) (c : Nat) : List Nat :=
  let used := s.usedFrames c
  ((List.range (s.arena c).frames).map (fun i => (s.arena c).base + i * s.frameSize c)).filter (fun f =>
    s.ownFrame c f && !used.contains f)

/-- The stream has its own entry for page `n` of layer `a`. -/
def State.hasPage (s : State) (t a n : Nat) : Bool :=
  let e := s.ptEntry (s.ptIndex t a n)
  ptValid e && ptStream e == t && ptLayer e == a && ptPage e == n

/-- The page holds a partial shared prefix, to be copied into a private frame. -/
def State.partialShared (s : State) (t a n : Nat) : Bool :=
  let p := s.commitOf t
  s.hasPage t a n && ptShared (s.ptEntry (s.ptIndex t a n)) && p / 256 == n && p % 256 != 0

/-- Layers and pages for which admission needs a frame, for positions from COMMIT to COMMIT + `len` - 1. -/
def State.framesWanted (s : State) (c t len : Nat) : List (Nat × Nat) :=
  let p := s.commitOf t
  (attnLayers (s.image c)).flatMap (fun a =>
    ((List.range ((p + len - 1) / 256 + 1 - p / 256)).map (fun j => (a, p / 256 + j))).filter (fun x =>
      !s.hasPage t x.1 x.2 || s.partialShared t x.1 x.2))

/-- Adoraku can map the frames. -/
def State.canMap (s : State) (c t len : Nat) : Bool :=
  let want := s.framesWanted c t len
  want.all (fun x => decide (x.2 < s.smapPages t ∧ s.ptIndex t x.1 x.2 < 2097152) && (s.twin.adopted.contains t || s.ownEntry c (s.ptIndex t x.1 x.2))) &&
    decide (want.length ≤ (s.freeFrames c).length)

/-- Map a new frame, or copy the partial prefix page into it under its own header; a block that fails its check leaves its error on
the copy (R258). -/
def State.mapFrame (s : State) (c t a n frame : Nat) : State :=
  if s.partialShared t a n then
    let old := ptFrame (s.ptEntry (s.ptIndex t a n))
    let bs := s.read old (s.frameSize c)
    let head := slice bs 0 8 ++ toLe 1 c ++ slice bs 9 1 ++ toLe 2 t ++ toLe 2 a ++ toLe 2 n ++ slice bs 16 112
    let errs := (List.range (s.frameSize c / 4096)).map (fun j => s.blockErr (old / 4096 + j))
    let s := (s.checkedRead c 0xFFFE old (s.frameSize c) []).unitWrite frame (head ++ bs.drop 128)
    let s := s.setMem (errs.zipIdx.foldl (fun m e => m.addErr (frame / 4096 + e.2) e.1) s.mem)
    s.write (s.ptAddr (s.ptIndex t a n)) (ptBytes true true false c (s.commitOf t % 256) frame a t n)
  else s.mapPage t a n frame false 0

def State.mapFrames (s : State) (c t len : Nat) : State :=
  State.each ((s.framesWanted c t len).zip (s.freeFrames c)) (fun s x => s.mapFrame c t x.1.1 x.1.2 x.2) s

/-! ## Eligibility (R200) -/

/-- The SAMPLE steps that serve slot `k`. -/
def samplesOf (img : Bytes) (k : Nat) : List PlanStep :=
  ((planList img 4).map (·.2)).filter (fun st => st.kind == 0xC && (st.slot == k || st.slot == 0xFFFF))
/-- The common VOCAB of the slot's SAMPLE steps. -/
def slotVocab (img : Bytes) (k : Nat) : Nat := ((samplesOf img k).head?.map (fun st => le (stepParam img st 32) 0 4)).getD 0

/-- Table 8.8: the module's role admits an OPCODE. -/
def roleAdmits (role opcode : Nat) : Bool := role == 0 || (role == 1 && opcode == 2) || (role == 2 && opcode == 1)

/-- Whether a reset by the last switch comes with the request's admission (R252). -/
def State.resetsFirst (s : State) (c id : Nat) : Bool := (s.ctx c).sw.resetPending.contains id

/-- Every page of the stream below COMMIT is PUBLISHED. -/
def State.allPublished (s : State) (c t : Nat) : Bool :=
  (attnLayers (s.image c)).all (fun a => (List.range (ceilDiv (s.commitOf t) 256)).all (fun n =>
    s.hasPage t a n && ptPublished (s.ptEntry (s.ptIndex t a n))))

/-- Conditions 1 to 5, 7 and 8 for slot `k`. -/
def State.mayFill (s : State) (c k : Nat) (q : Request) : Bool :=
  let bp := batchParam (s.image c) k
  let first := s.srv.reqs.find? (fun r => r.stream == q.stream && r.state == 0)
  q.state == 0 && !s.inBatch q.stream && (first.map (·.id)) == some q.id &&
    decide (1 ≤ (s.tenant (s.ring q.ring).tenant).bal) && (batchSpecW bp == 0 || !q.noSpec) &&
    (q.prompt.length == 1 || batchChunk bp != 0) && (s.resetsFirst c q.id || s.allPublished c q.stream) && s.spillFree q.ring

/-- Condition 6. -/
def State.condSix (s : State) (c k : Nat) (q : Request) : Bool :=
  roleAdmits s.srv.role q.opcode && q.prompt.all (fun t => decide (t < slotVocab (s.image c) k))

/-- Positions whose frames condition 9 covers. -/
def State.spanOf (s : State) (c k : Nat) (q : Request) : Nat := q.prompt.length + q.maxNew + (s.specW c k - 1)

/-- Condition 9: judged on the stream as it will be when a pending reset of it has been done. -/
def State.condNine (s : State) (c k : Nat) (q : Request) : Bool :=
  let s := if s.resetsFirst c q.id then s.resetStream q.stream else s
  (s.domain 0xA 0).phase == 0 && !(s.domain 0xA 0).retired && s.canMap c q.stream (s.spanOf c k q)

/-! ## Filling a slot -/

/-- Rings of a context in the order of search: from the one after `last`, wrapping (R200). -/
def State.ringOrder (s : State) (c last : Nat) : List Nat :=
  let mine := (s.srv.rings.filter (fun e => e.2.up && e.2.ctx == c)).map (·.1)
  mine.filter (fun r => decide (last < r)) ++ mine.filter (fun r => decide (r ≤ last))

/-- The request takes slot `k`; its steps run from pick `from_` on. -/
def State.admitReq (s : State) (c k from_ : Nat) (q : Request) : State :=
  let s := if s.resetsFirst c q.id then
      (s.resetStream q.stream).modCtx c fun x => { x with sw := { x.sw with resetPending := x.sw.resetPending.filter (· != q.id) } }
    else s
  let s := s.mapFrames c q.stream (s.spanOf c k q)
  let s := s.modRequest q.id fun q => { q with state := 1, slot := k }
  let base := s.commitOf q.stream
  let s := s.modBatch c k fun _ => { req := some q.id, firstPick := from_, base := base }
  (s.modCtl c fun x => { x with lastRing := q.ring }).perf 0x1A 1 4 (some c) none

/-- Search one ring for slot `k`, in fetch order (R200): the first request that is eligible is taken. Until one that meets conditions
1 to 5, 7 and 8 has been passed (`lead`), a request that only condition 6 keeps out is refused, as if it had never been Pending.
Whether the slot is filled. -/
def State.searchRing (c k b from_ : Nat) : Bool → List Request → State → State × Bool
  | _, [], s => (s, false)
  | lead, q :: t, s =>
    if s.mayFill c k q then
      (if s.condSix c k q then
        (if s.condNine c k q then (s.admitReq c k from_ q, true) else State.searchRing c k b from_ false t s)
       else if lead then State.searchRing c k b from_ true t (s.finish { q with state := 1, slot := k } 0x11 b).prune
       else State.searchRing c k b from_ false t s)
    else State.searchRing c k b from_ lead t s

/-- Search a list of rings. -/
def State.searchRings (c k b from_ : Nat) : List Nat → State → State
  | [], s => s
  | r :: t, s =>
    match State.searchRing c k b from_ true (s.pendingOf r) s with
    | (s, true) => s
    | (s, false) => State.searchRings c k b from_ t s

/-- The context's BATCH steps fill slots: it is Running, not draining for a switch from iteration `n` on, not handed over,
and Adoraku serves the module. -/
def State.fills (s : State) (c n : Nat) : Bool :=
  let x := s.ctx c
  x.ctl.state == 4 && !x.ctl.cut && !((x.sw.state == 3 || x.sw.state == 4) && decide (x.sw.fromIter ≤ n)) &&
    !s.twin.handed.contains c

/-- Visit one slot: release it when its request is Done, then fill it. -/
def State.visitSlot (s : State) (c k b from_ : Nat) (fill : Bool) : State :=
  let x := s.batch c k
  let gone := match x.req with
    | none => true
    | some id => match s.request id with
      | none => true
      | some q => q.state == 4
  let s := if gone then (s.modBatch c k fun _ => {}).prune else s
  if gone && fill then State.searchRings c k b from_ (s.ringOrder c (s.ctx c).ctl.lastRing) s else s

/-- What a batch boundary brings about for the context: requested settings (R168, R270), flips of the device mapping. -/
def State.batchBoundary (s : State) (c : Nat) : State :=
  (s.modCtl c fun k => { k with maskEff := k.maskReq, strictEff := k.strictReq, strictMaskEff := k.strictMaskReq }).flipReady c

/-- The streams of slots that a BATCH step covers, whose page commands take effect here. -/
def State.coveredStreams (s : State) (c first n : Nat) : List Nat :=
  (List.range n).filterMap (fun j => match (s.batch c (first + j)).req with
    | none => none
    | some id => (s.request id).map (·.stream))

/-- BATCH_STEP, whose pick b is its start pick in the iteration (R157, R200, R201). -/
def State.batchWork (s : State) (c : Nat) (d : Due) (st : PlanStep) (ups : List Upset) : State :=
  let p := stepParam (s.image c) st 16
  let b := d.start
  let s := (s.sramStruck c 0xFFFE ups).batchBoundary c
  let s := State.each (s.coveredStreams c (batchFirst p) (batchCount p)) (fun s t => s.pageBoundary t) s
  let fill := s.fills c d.iter
  State.each (List.range (batchCount p)) (fun s j => s.visitSlot c (batchFirst p + j) b (b + st.len) fill) s

def execBatchStep (c : Fin 256) (l : Fin 5) (i : BitVec 18 × List Upset) (s : State) : Host.Outcome State Fault Refusal :=
  .next (if l.val = 4 then s.runStep c.val 4 i.1.toNat 0xB 0 none (fun d st s => s.batchWork c.val d st i.2) else s)

end Sys2Proof.Machine
end

