-- ==== Sys2Proof/Machine/Sample.lean ====
section
/-! DEFINITION. SAMPLE steps (R205-R207): the logits converted, the seeded procedure, the twin logits of twill mode
(R272). -/

namespace Sys2Proof.Machine

/-! ## The procedure of R207 -/

/-- A NaN logit is taken as -infinity. -/
def soundLogit (x : F32) : F32 := if isNaN x then f32NegInf else x

/-- Order of candidates: larger first, ties to the lower index. -/
def candBefore (a b : F32 × Nat) : Bool := f32Lt b.1 a.1 || (f32Eq a.1 b.1 && decide (a.2 ≤ b.2))

/-- The indices of the `k` largest logits, largest first. -/
def topCands (k : Nat) (xs : List F32) : List (F32 × Nat) :=
  xs.zipIdx.foldr (fun x l => (insertBy candBefore x l).take k) []

/-- The lowest index of the largest logit. -/
def argMax (xs : List F32) : Nat :=
  match xs.zipIdx with
  | [] => 0
  | a :: t => (t.foldl (fun m x => if candBefore m x then m else x) a).2

/-- Sum in ascending order, one add at a time. -/
def addUp : List F32 → F32
  | [] => f32Zero
  | p :: t => t.foldl f32Add p

/-- Sum and count of the leading probabilities that are kept: up to the first sum at or above `limit`. -/
def nucleus (limit : F32) : F32 → Nat → List F32 → F32 × Nat
  | s, n, [] => (s, n)
  | s, n, p :: t =>
    let s' := f32Add s p
    if f32Le limit s' then (s', n + 1) else nucleus limit s' (n + 1) t

/-- The first index whose running sum passes `r`, among those kept. -/
def pick? (r : F32) : F32 → Nat → List F32 → Option Nat
  | _, _, [] => none
  | c, j, p :: t =>
    let c' := f32Add c p
    if f32Lt r c' then some j else pick? r c' (j + 1) t

/-- 2^-32 as a binary32. -/
def f32Two32Inv : F32 := 0x2F800000

/-- The draw of a seed and a position. -/
def drawOf (seed pos : Nat) (s : F32) : F32 :=
  let u := le (sha256 (toLe 8 seed ++ toLe 4 pos)) 0 4
  f32Mul (f32Mul (f32OfInt u) f32Two32Inv) s

/-- sample(x, temperature, top_k, top_p, seed, pos) of R207. -/
def sampleToken (set : Nat) (greedy : Bool) (temperature : F32) (topK : Nat) (topP : F32) (seed pos : Nat) (xs : List F32) :
    Nat :=
  let xs := xs.map soundLogit
  if greedy || isZero temperature then argMax xs
  else
    let k := if topK = 0 then 1024 else topK
    let cand := topCands (min k xs.length) xs
    let m := (cand.headD (f32NegInf, 0)).1
    if m == f32NegInf then (cand.headD (f32NegInf, 0)).2
    else
      let ps := cand.map (fun c => exp2 set (f32Mul (f32Div (f32Sub c.1 m) temperature) f32Log2e))
      let (s, keep) := nucleus (f32Mul topP (addUp ps)) f32Zero 0 ps
      let j := (pick? (drawOf seed pos s) f32Zero 0 (ps.take keep)).getD (keep - 1)
      (cand.getD j (f32NegInf, 0)).2

/-! ## The step -/

/-- Positions of the window that earlier SAMPLE steps of the slot and of the same model sample (R214). -/
def sampleOffset (img : Bytes) (st : PlanStep) : Nat :=
  let me := sampleProposer (stepParam img st 32)
  sumNat (((samplesOf img st.slot).filter (fun x => decide (x.start < st.start) && sampleProposer (stepParam img x 32) == me)).map
    (fun x => samplePositions (stepParam img x 32)))

/-- The twin of an address: the same offset in region i + REGIONS/2 (R271). -/
def twinAddr (img : Bytes) (a : Nat) : Nat :=
  let half := planRegionCount img / 2
  match (List.range half).find? (fun i => inside a 1 (planRegion img i).base (planRegion img i).size) with
  | none => a
  | some i => (planRegion img (i + half)).base + (a - (planRegion img i).base)

/-- The whole work of a SAMPLE step. In a prompt run the first word is the token sampled from the last prompt position's
logits. -/
def State.sampleWork (s : State) (c : Nat) (d : Due) (st : PlanStep) (ups : List Upset) : State :=
  let img := s.image c
  let p := stepParam img st 32
  match s.slotReq c st.slot with
  | none => s
  | some q =>
    let r := s.recipe c
    let layer := sampleLayer p
    let vocab := sampleVocab p
    let n := samplePositions p
    let w := layActWidth r layer
    let act := addrLocal (sampleAct p)
    let src := addrLocal st.src
    let twin := addrLocal (twinAddr img st.src)
    let seen := s.seenBy c 4 ups [(act, recordsLen r layer), (src, 8 * n * vocab), (twin, 8 * n * vocab)]
    let eMin := eMinOf (parseActs w (layChannels r layer / 64) (seen.read act (recordsLen r layer)))
    let conv := (seen.consumedAll [] src (n * vocab)).map (fun v => convertWord eMin (sampleWref p) (tenScale r (sampleTensor p)) v.val)
    let logits := conv.map (·.1)
    let base := s.runBase c st.slot q
    let off := if q.state = 1 then s.runPositions c st.slot - 1 else sampleOffset img st
    let token (j : Nat) : Nat :=
      sampleToken s.sec.tableSet (sampleProposer p) q.temperature q.topK q.topP q.seed (base + off + 1 + j)
        ((logits.drop (j * vocab)).take vocab)
    let out := (List.range n).flatMap (fun j => toLe 4 (token j))
    let consume (s : State) (layer a : Nat) : State :=
      if s.fabricStatus c 4 2 a (8 * n * vocab) = 0 then
        State.each (List.range n) (fun s j =>
          s.consumeAll c st.slot layer [off + j] (s.stepRecord c 4 d.idx) (a + 8 * vocab * j) vocab (bitOf st.flags 1)) s
      else s
    let s := (s.sramStruck c st.slot ups).unitRead c 4 st act (recordsLen r layer) ups
    let s := consume (s.unitRead c 4 st src (8 * n * vocab) ups) layer src
    let s := if conv.any (·.2) then s.report (.overflow c) else s
    let s := if logits.any isNaN then s.raiseNonfinite c layer else s
    let s := if (s.ctx c).ctl.twillEff then
        let s := consume (s.unitRead c 4 st twin (8 * n * vocab) ups) (layer + recLayers r / 2) twin
        (s.fold c st.slot false 4 0xFFFF (d.iter % 2 ^ 32) (seen.read src (8 * n * vocab))).fold c st.slot true 4 0xFFFF
          (d.iter % 2 ^ 32) (seen.read twin (8 * n * vocab))
      else s
    s.unitStore c 4 st (addrLocal st.dst) out

def execSampleStep (c : Fin 256) (l : Fin 5) (i : BitVec 18) (ups : List Upset) (s : State) :
    Host.Outcome State Fault Refusal :=
  .next (if l.val = 4 then s.runStep c.val 4 i.toNat 0xC 0 none (fun d st s => s.sampleWork c.val d st ups) else s)

end Sys2Proof.Machine
end

