-- ==== Sys2Proof/Machine/Scrub.lean ====
section
/-! DEFINITION. Scrub (R62-R68), what targeted scrubs and replays say of an uncorrected dent (Table 10.5), and the
patrol of HBM (R262). -/

namespace Sys2Proof.Machine

/-! ## Uncorrected dents and their health events -/

/-- The health event of an uncorrected dent: kind 2 when its scrub repaired a row and its replay checked clean, else
kind 1, whose inputs are captured (R285). -/
def State.judgeTarget (s : State) (t : Target) (clean : Bool) : State :=
  let h := harnessOfHeddle t.heddle
  if t.repaired && clean then s.healthEvent 2 1 h t.ctx 0xFF t.detail
  else
    let (cap, s) := s.capture 1 [(1, h)] t.data
    s.healthEvent 1 1 h t.ctx cap t.detail

/-- The replay of slot `k` of context `c` has ended: the dents that waited on it are judged. -/
def State.judgeTargets (s : State) (c k : Nat) (clean : Bool) : State :=
  let mine (t : Target) : Bool := t.ctx == c && t.slots.contains k && t.scrubbed
  let go := s.arr.targets.filter mine
  let s := { s with arr := { s.arr with targets := s.arr.targets.filter (fun t => !mine t) } }
  State.each go (fun s t => s.judgeTarget t clean) s

/-- Targeted scrub of dent `d` of heddle `g` completes (R68): waiting replays may read the heddle again; a dent that no
replay judges is judged now. -/
def State.targetDone (s : State) (g d : Nat) (fixed : Bool) : State :=
  let hit (t : Target) : Bool := t.heddle == g && t.dent == d && !t.scrubbed
  let lone := s.arr.targets.filter (fun t => hit t && t.slots.isEmpty)
  let rest := s.arr.targets.filter (fun t => !(hit t && t.slots.isEmpty))
  let mark (t : Target) : Target := if hit t then { t with scrubbed := true, repaired := fixed } else t
  let s := { s with arr := { s.arr with targets := rest.map mark } }
  let open_ (_ : Nat) (b : BatchSlot) : BatchSlot := { b with replayTargets := b.replayTargets.filter (fun x => x != (g, d)) }
  let s := State.each s.ctxNums (fun s c => s.modCtx c fun x => { x with slots := Tab.mapAll {} open_ x.slots }) s
  let busy := s.arr.targets.any (fun t => harnessOfHeddle t.heddle == harnessOfHeddle g && !t.scrubbed)
  let s := s.modHarness (harnessOfHeddle g) fun x => { x with scrubBusy := busy }
  if fixed then s else State.each lone (fun s t => s.judgeTarget t false) s

/-! ## Order -/

/-- Scrub works on the heddle: it is programmed, its harness has its contents, the module is powered (Table 13.2). -/
def State.scrubs (s : State) (g : Nat) : Bool :=
  s.up && (s.heddle g).programmed && (s.harness (harnessOfHeddle g)).state != 0 && s.pwr.mode != 3

/-- The background scrub may take heddle `g` now: a targeted scrub goes ahead of it (R68), and so does a late heddle (R67). -/
def State.scrubTurn (s : State) (g : Nat) : Bool :=
  s.arr.targets.all (fun t => t.scrubbed) && (s.arr.scrubNext.isEmpty || s.arr.scrubNext.head? == some g)

/-- Late heddles that scrub still has to take. -/
def State.scrubTaken (s : State) (g : Nat) : State :=
  { s with arr := { s.arr with scrubNext := s.arr.scrubNext.filter (fun x => x != g && s.scrubs x) } }

/-! ## Commands -/

/-- SCRUB_ROW_COMPARE (R64, R66): a mismatch awaits its rewrite. -/
def execScrubRowCompare (g : Fin 262144) (row : Fin 512) (ups : List Upset) (s : State) : Host.Outcome State Fault Refusal :=
  .next (
    if s.scrubs g.val && s.scrubTurn g.val then
      let (ok, s) := s.patternRead g.val ups
      if ok then
        State.each (s.badRows g.val [row.val]) (fun s r => s.rowMismatch g.val r)
          (s.modHeddle g.val fun x => { x with patternLost := false })
      else State.each ([row.val].filter (s.selvageBad g.val)) (fun s r => s.rowMismatch g.val r) (s.patternGone g.val)
    else s)

/-- SCRUB_REWRITE (R65): in a pick without a slot, inside the window, of an Active harness. -/
def execScrubRewrite (g : Fin 262144) (row : Fin 512) (s : State) : Host.Outcome State Fault Refusal :=
  .next (
    if s.scrubs g.val && (s.heddle g.val).repair.contains row.val && s.repairable g.val && !s.slotsRun (harnessOfHeddle g.val) then
      let (ok, s) := s.patternRead g.val []
      if ok then s.rowRewrite g.val row.val else s
    else s)

/-- The heddle is marginal: C at least 4 and C × 2^N above V (R62). -/
def State.isMarginal (s : State) (g : Nat) : Bool :=
  let x := s.heddle g
  decide (4 ≤ x.passCorr ∧ x.passConvs < x.passCorr * 2 ^ s.arr.rateExp)

/-- SCRUB_PASS_COMPLETE (R62). -/
def execScrubPassComplete (g : Fin 262144) (s : State) : Host.Outcome State Fault Refusal :=
  .next (
    if s.scrubs g.val && s.scrubTurn g.val then
      let m := s.isMarginal g.val
      let h := harnessOfHeddle g.val
      let s := (s.scrubTaken g.val).modHeddle g.val fun x => { x with marginal := m, passCorr := 0, passConvs := 0, lastCompare := s.clk.wall }
      if m then
        ((s.report (.marginal g.val)).healthEvent 3 1 h 0xFF 0xFF 0).modHarness h fun x => { x with trimWindows := 4 }
      else s
    else s)

/-- SCRUB_LATE (R67): 60 s without a completed comparison; scrub takes the heddle next. -/
def execScrubLate (g : Fin 262144) (s : State) : Host.Outcome State Fault Refusal :=
  .next (
    if s.scrubs g.val && decide (240000000000 < s.clk.wall - (s.heddle g.val).lastCompare) then
      ({ s with arr := { s.arr with
        scrubLate := true, scrubNext := s.arr.scrubNext.filter (fun x => x != g.val && s.scrubs x) ++ [g.val]
        setAt := note s.arr.setAt 0 s.clk.elapsed } }).report (.scrubLate g.val)
    else s)

/-- The rows of dent `d`. -/
def dentRows (d : Nat) : List Nat := (List.range 64).map (fun i => 64 * d + i)

/-- TARGETED_SCRUB (R68): the 64 rows of a dent that waits for it. A rewrite waits until no slot runs on the heddle (R65); a heddle
that holds no contents any more has nothing to compare. -/
def execTargetedScrub (g : Fin 262144) (dent : Fin 8) (ups : List Upset) (s : State) : Host.Outcome State Fault Refusal :=
  .next (
    let rows := dentRows dent.val
    if s.up && s.arr.targets.any (fun t => t.heddle == g.val && t.dent == dent.val && !t.scrubbed) then
      (if !s.scrubs g.val then s.targetDone g.val dent.val false
       else if s.slotsRun (harnessOfHeddle g.val) && s.repairable g.val && !(s.badRows g.val rows).isEmpty then s
       else
        let r := s.scrubList g.val rows ups
        r.1.targetDone g.val dent.val (r.2 != 0))
    else s)

/-- Struck bits in units of a block of HBM. -/
def patrolUpsets (block : Nat) (units : List (Fin 64)) (bits : List (BitVec 512)) : List Upset :=
  (units.zip bits).map (fun x => .flips (BitVec.ofNat 48 (block * 4096 + 64 * x.1.val)) x.2)

/-- HBM_PATROL (R262): each 64-byte unit of a block is read, corrected data is written back with the stored tally unchanged; a
block it cannot correct is reported and recorded against the channel. -/
def execHbmPatrol (block : BitVec 36) (units : List (Fin 64)) (bits : List (BitVec 512)) (s : State) :
    Host.Outcome State Fault Refusal :=
  .next (
    let a := block.toNat * 4096
    if s.up && decide (a < hbmEnd) && s.pwr.mode != 3 then
      let units := struckUnits (patrolUpsets block.toNat units bits) a 4096
      let s := s.eccEvents 0xFF units
      if units.any (fun x => x.2.detected != 0) then s.report (.patrol a) else s
    else s)

end Sys2Proof.Machine
end

