-- ==== Sys2Proof/Machine/Emit.lean ====
section
/-! DEFINITION. Runs of a slot's prompt steps (R201, R202), attempts and replays (R161, R264), twill comparison (R273,
R274), the status of a window (R267-R269) and the EMIT step (R208-R217). -/

namespace Sys2Proof.Machine

/-! ## Runs of a slot's steps -/

/-- Picks between two runs of a step. -/
def State.stride (s : State) (c : Nat) (st : PlanStep) : Nat := max (max st.every 1 * planPeriod (s.image c)) 1

/-- Start pick of the step's `j`-th run (from 1) whose start pick is at or after `from_` (R201). -/
def State.runStart (s : State) (c : Nat) (st : PlanStep) (from_ j : Nat) : Nat :=
  let first := s.stepStart c st st.phase
  first + (ceilDiv (from_ - first) (s.stride c st) + (j - 1)) * s.stride c st

/-- The `j`-th run since `from_` of step `i` of list `l` is over. -/
def State.runOver (s : State) (c l i from_ j : Nat) (st : PlanStep) : Bool :=
  let p := s.runStart c st from_ j
  decide (p ≤ s.clk.pick) && !s.sched.due.any (fun d => sameStep c l i d && decide (d.start ≤ p)) &&
    !s.sched.runs.any (fun r => sameRun c l i r && r.ended.isNone && decide (r.start ≤ p))

/-- The `j`-th run since `from_` of every step of slot `k` that `p` selects is over. -/
def State.slotOver (s : State) (c k from_ j : Nat) (p : PlanStep → Bool) : Bool :=
  (planSteps (s.image c)).all (fun x => x.2.2.slot != k || !p x.2.2 || s.runOver c x.1 x.2.1 from_ j (s.stepAt c x.1 x.2.1))

/-! ## Attempts -/

/-- A replay event of the context (R186). -/
def State.noteReplay (s : State) (c : Nat) : State :=
  s.modRecs c fun r => { r with replayed := true, replayCnt := satAdd max32 r.replayCnt 1 }

/-- The attempt in progress of a slot is judged: replayed once when masking is in effect and a check failed that a replay
may mend, after the copies in blocks that failed their tally are built anew (Table 10.2), else its checks stand. Whether it
stands. A flag that no closing step of its layer has counted is counted here (R96). -/
def State.judge (s : State) (c k : Nat) : State × Bool :=
  let b := s.batch c k
  if b.attempt.replays? && (s.ctx c).ctl.maskEff && !b.replaying then
    let s := if b.attempt.tallyBad then s.repairCopies c else s
    ((s.modBatch c k fun b =>
        { b with check := b.check.replayed b.attempt, attempt := {}, replaying := true }).noteReplay c, false)
  else
    let clean := b.replaying && !b.attempt.replays?
    (((s.countFlags c k (fun _ => true)).modBatch c k fun b =>
        { b with
          check := b.check.join b.attempt, attempt := {}, replaying := false, replayTargets := [], raised := [], counted := [] }).judgeTargets
      c k clean, true)

/-- COMMIT of a stream moves to `p` (R202), if it is not there. -/
def State.commitTo (s : State) (c t p : Nat) : State :=
  if s.commitOf t = p then s else (s.setCommit t p).shadowDirty c t

/-- The attempt in progress will be replayed as it stands. -/
def State.willReplay (s : State) (c k : Nat) : Bool :=
  let b := s.batch c k
  b.attempt.replays? && (s.ctx c).ctl.maskEff && !b.replaying

/-- A run of the slot's prompt steps is judged: when its checks stand, COMMIT is past the positions it wrote (R202). -/
def State.settlePrompt (s : State) (c k : Nat) : State :=
  match s.slotReq c k with
  | none => s
  | some q =>
    let n := s.runPositions c k
    let last := decide (q.prompt.length ≤ s.promptDone c k + n)
    let base := (s.batch c k).base
    let (s, stands) := s.judge c k
    let s := s.modBatch c k fun b => { b with runs := b.runs + 1 }
    if stands then
      let s := s.modBatch c k fun b => { b with promptRuns := b.promptRuns + 1, base := if last then b.base else b.base + n }
      s.commitTo c q.stream (base + n)
    else s

/-- A run of a twill slot's prompt steps has completed: COMMIT moves (R202). EMIT compares the strands and judges the run. -/
def State.commitPrompt (s : State) (c k : Nat) : State :=
  match s.slotReq c k with
  | none => s
  | some q => if s.willReplay c k then s else s.commitTo c q.stream ((s.batch c k).base + s.runPositions c k)

/-- The slot is in its prompt and has positions left to run. -/
def State.promptLeft (s : State) (c k : Nat) : Bool :=
  match s.slotReq c k with
  | none => false
  | some q => q.state == 1 && decide (s.promptDone c k < q.prompt.length)

/-- After a step of slot `k` has ended: its prompt run may have completed. -/
def State.promptCheck (s : State) (c k : Nat) : State :=
  if k != 0xFFFF && s.promptLeft c k && s.slotOver c k (s.batch c k).firstPick ((s.batch c k).runs + 1) (fun st => st.kind != 0xD) then
    (if (s.ctx c).ctl.twillEff then s.commitPrompt c k else s.settlePrompt c k)
  else s

/-! ## Twill -/

/-- The folds of one step in a strand's list, combined. -/
def foldAt (l : List (Nat × Nat × Word)) (key : Nat × Nat) : Word :=
  (l.filter (fun x => (x.1, x.2.1) == key)).foldl (fun w x => w ^^^ x.2.2) 0

/-- The lowest list and step whose folds differ between the strands (R274). -/
def firstDiffer (a b : List (Nat × Nat × Word)) : Option (Nat × Nat) :=
  let keys := ((a ++ b).map (fun x => (x.1, x.2.1))).eraseDups
  (keys.filter (fun k => foldAt a k != foldAt b k)).foldl (fun (m : Option (Nat × Nat)) k =>
    match m with
    | none => some k
    | some x => if k.1 < x.1 ∨ (k.1 = x.1 ∧ k.2 < x.2) then some k else some x) none

/-- Health unit of a FULL or ATTN step (Table 10.7). -/
def stepUnit (l : Nat) (st : PlanStep) : List (Nat × Nat) :=
  if st.kind = 3 then [(3, l * 24 + st.unit)] else if st.kind = 4 then [(2, l * 96 + st.unit)] else []

/-- The words that a slot's SAMPLE steps read, each followed by its twin's. -/
def State.logitsOf (s : State) (c k : Nat) : Bytes :=
  let img := s.image c
  (samplesOf img k).flatMap (fun st => s.read (addrLocal st.src) 4096 ++ s.read (addrLocal (twinAddr img st.src)) 4096)

/-- A mismatch: ERR_TWILL_LOC names the step pair, its inputs are captured, both units get an event of kind 0x09.
SAMPLE steps run on no unit of Table 10.7: a mismatch of theirs is captured and charged to none (DEDUCED). -/
def State.twillMismatch (s : State) (c k : Nat) (b : BatchSlot) : State :=
  match firstDiffer b.foldsA b.foldsB with
  | none => s
  | some (l, i) =>
    let s := { s with health := { s.health with twillList := l, twillStep := i, twillCtx := c, twillValid := true } }
    let pair := if l < 4 then [s.stepAt c l i, s.stepAt c l (i + planListCount (s.image c) l / 2)] else []
    let units := pair.flatMap (stepUnit l)
    let data := if l < 4 then pair.flatMap (fun x => s.read (addrLocal x.src) 4096) else s.logitsOf c k
    let (cap, s) := s.capture 9 units data
    State.each units (fun s u => s.healthEvent 9 u.1 u.2 c cap 0) s

/-- The two signatures of a slot are compared and cleared (R273). -/
def State.twillCompare (s : State) (c k : Nat) : State :=
  if (s.ctx c).ctl.twillEff then
    let b := s.batch c k
    let differ := b.sigA != b.sigB
    let s := s.modBatch c k fun b =>
      { b with
        attempt := { b.attempt with twillCompared := true, twillMismatch := b.attempt.twillMismatch || differ }
        sigA := 0, sigB := 0, foldsA := [], foldsB := [] }
    if differ then s.twillMismatch c k b else s
  else s

/-! ## Status (R267-R269) -/

/-- The status of a window without strict mode. -/
def Check.status (k : Check) : Nat :=
  if k.suppressed then 0x40 else if k.hung then 0x41
  else if k.notValid then 0x36 else if k.beyondPages then 0x37
  else if wordFailed k.word then k.checkStatus else 0

/-- Strict mode holds a word back (R269). -/
def State.strictHolds (s : State) (c : Nat) (k : Check) : Bool :=
  let x := (s.ctx c).ctl
  x.strictEff && (wordFailed k.word || strictHit x.strictMaskEff k.word)

/-- A window of status 0x20 to 0x26 is noted (Tables 10.10 to 10.12). -/
def State.noteStatus (s : State) (c stream status : Nat) (word : Word) (held : Bool) : State :=
  s.modRecs c fun r =>
    let r := if status = 0 then { r with chkOk := satAdd max32 r.chkOk 1 } else r
    let r := if 0x20 ≤ status ∧ status ≤ 0x25 then { r with chkFail := satAdd max32 r.chkFail 1 } else r
    let r := if held then { r with chkHeld := satAdd max32 r.chkHeld 1 } else r
    if 0x20 ≤ status ∧ status ≤ 0x26 then { r with lastChk := word, lastStream := stream, lastStatus := status, lastValid := true } else r

/-! ## EMIT -/

/-- The leading proposals that equal the main model's tokens (R214 step 3). -/
def matches? : List Nat → List Nat → Nat
  | d :: ds, y :: ys => if d = y then matches? ds ys + 1 else 0
  | _, _ => 0

/-- The tokens that a window emits, cut after the first stop token and after `left` tokens; whether it ends the request
(R208). -/
def cutTokens (stop0 stop1 : Nat) : Nat → List Nat → List Nat × Bool
  | 0, _ => ([], true)
  | _, [] => ([], false)
  | n + 1, y :: ys =>
    if y = stop0 ∨ y = stop1 then ([y], true)
    else if n = 0 then ([y], true)
    else
      let (l, f) := cutTokens stop0 stop1 n ys
      (y :: l, f)

/-- Entries that records without a reserved one may take now (R212). -/
def State.recordRoom (s : State) (r : Nat) : Nat :=
  let g := s.ring r
  s.ringFree r + (g.spillEntries - g.spilled.length - (s.admittedOf r).length) - g.fresh.length

/-- The accumulator is cleared after an EMIT that writes records (R263). -/
def State.clearChecks (s : State) (c k : Nat) : State :=
  s.modBatch c k fun b =>
    { b with check := {}, attempt := {}, replaying := false, replayTargets := [], raised := [], counted := [] }

/-- The end of a request by a cancel, an overflow or a drain limit at completion pick `w` (R212, R213, R248): charged 1, COMMIT
stays. -/
def State.emitCancelled (s : State) (c k w : Nat) (q : Request) (status : Nat) : State :=
  let b := s.batch c k
  let s := (s.countFlags c k (fun _ => true)).judgeTargets c k (b.replaying && !b.attempt.replays?)
  ((s.charge (s.ring q.ring).tenant 1).finish q status w).clearChecks c k

/-- Records of emitted tokens, of status 0 and completion pick `w` (R195, R211, R214). -/
def State.putTokens (s : State) (w : Nat) (q : Request) (word : Word) (pos index proposed : Nat) (final : Bool) : List Nat → State
  | [] => s
  | y :: ys =>
    let f := b2n (final && ys.isEmpty) + 4 * b2n (decide (0 < proposed))
    (s.putRecord q.ring (recordPlace q index) none (recordBytes q.tag 0 f q.stream y word.toNat pos index w)).putTokens w q word (pos + 1)
      (index + 1) (proposed - 1) final ys

/-- A window whose status is not 0 (R210, R268, R269): one FINAL record. -/
def State.emitFailed (s : State) (c k w : Nat) (q : Request) (status y pos a : Nat) (check : Check) (held : Bool) : State :=
  let word := check.word
  let carries := !held && decide (status < 0x40)
  let s := if carries then
      ((s.lateCancels q.id).putRecord q.ring (recordPlace q q.emitted) none
        (recordBytes q.tag status (1 + 4 * b2n (decide (0 < a))) q.stream y word.toNat pos q.emitted w)).modRequest
        q.id fun q => { q with state := 4, finalPick := some w }
    else s.finish q status w
  ((s.charge (s.ring q.ring).tenant 1).noteStatus c q.stream status word (held && decide (status < 0x30))).clearChecks c k

/-- A window of status 0: its records, COMMIT, its charge (R202, R204, R212). -/
def State.emitTokens (s : State) (c k w : Nat) (q : Request) (ys : List Nat) (pos a : Nat) (check : Check) (advance : Bool) :
    State :=
  let (out, final) := cutTokens q.stop0 q.stop1 (q.maxNew - q.emitted) ys
  let n := out.length
  let open_ := if final then n - 1 else n
  if s.recordRoom q.ring < open_ then
    (s.modRing q.ring fun g => { g with overflow := true, setAt := note g.setAt 13 s.clk.elapsed }).emitCancelled c k w q 0x32
  else
    let s := (if final then s.lateCancels q.id else s).putTokens w q check.word pos q.emitted a final out
    let s := if advance then s.setCommit q.stream (s.commitOf q.stream + n) else s
    let s := s.shadowDirty c q.stream
    let s := s.modRequest q.id fun q =>
      { q with state := if final then 4 else 2, emitted := q.emitted + n, finalPick := if final then some w else q.finalPick }
    let s := ((s.charge (s.ring q.ring).tenant (max n 1)).noteStatus c q.stream 0 check.word false).perf 0x1B n 4 (some c) none
    (s.clearChecks c k).modBatch c k fun b => { b with lastToken := out.getLastD b.lastToken }

/-- The proposals that a window accepts (R214 step 3). -/
def accepted (w : Nat) (prop main : List Nat) : Nat := min (matches? prop main) (w - 1)

/-- A window of a speculative slot has run, with `a` proposals accepted (R216). -/
def State.noteSpec (s : State) (c k : Nat) (q : Request) (a : Nat) : State :=
  if decide (1 < s.specW c k) && q.state == 2 then
    (s.modRecs c fun r => { r with
      specWin := satAdd max32 r.specWin 1, specAcc := satAdd max32 r.specAcc a
      specNone := satAdd max32 r.specNone (b2n (a == 0)) }).perf 0x1D a 4 (some c) none
  else s

/-- The window's own work once its attempt stands, at completion pick `p`: acceptance, status, records. -/
def State.emitWindow (s : State) (c k p : Nat) (q : Request) (w : Nat) (main prop : List Nat) : State :=
  let first := q.state != 2
  let ys := if q.state = 3 then [(s.batch c k).lastToken] else main
  let a := if first then 0 else accepted w prop ys
  let s := (s.noteSpec c k q a).perf 0x1C 1 4 (some c) none
  let check := (s.batch c k).check
  let status0 := check.status
  let held := s.strictHolds c check
  let status := if status0 = 0 && held then 0x26 else status0
  let cpos := s.commitOf q.stream
  let pos := if first then cpos else cpos + 1
  if status ≠ 0 then s.emitFailed c k p q status (ys.headD 0) (if held || decide (0x40 ≤ status) then cpos else pos) a check held
  else if q.state = 1 && q.opcode == 2 && s.srv.role == 1 && (s.stream q.stream).recvPlace != 0xFFFF then
    (s.modRequest q.id fun q => { q with state := 3 }).modBatch c k fun b =>
      { b with lastToken := ys.headD 0, firstPick := p + 1 }
  else s.emitTokens c k p q (ys.take (a + 1)) pos a check (!first)

/-- The pages of a PREFILL that hands off have moved (Table 8.8): the slot's PUT steps have run since, every put has been
acknowledged, and so the last publishing knot is set. -/
def State.handedOff (s : State) (c k : Nat) : Bool :=
  s.slotOver c k (s.batch c k).firstPick 1 (fun x => x.kind == 5) &&
    !s.sched.runs.any (fun r => r.ctx == c && (s.stepAt c r.list r.idx).slot == k && (s.stepAt c r.list r.idx).kind == 5)

/-- The whole work of an EMIT step, whose start pick in the iteration is its completion pick (R157, R211). -/
def State.emitWork (s : State) (c : Nat) (d : Due) (st : PlanStep) (ups : List Upset) : State :=
  let k := st.slot
  let p := stepParam (s.image c) st 32
  match s.slotReq c k with
  | none => s
  | some q =>
    let w := if q.state = 2 then max (emitW p) 1 else 1
    let a := addrLocal (emitMain p)
    let b := addrLocal (emitProp p)
    let reads := (if q.state = 3 then [] else [(a, 4 * w)]) ++ (if 1 < w then [(b, 4 * (w - 1))] else [])
    let seen := s.seenBy c 4 ups reads
    let main := word32s w (seen.read a (4 * w))
    let prop := if 1 < w then word32s (w - 1) (seen.read b (4 * (w - 1))) else []
    let cancelled := match q.cancelAt with
      | none => false
      | some x => decide (x < d.start)
    let s := (s.sramStruck c k ups).twillCompare c k
    if cancelled then
      (s.noteSpec c k q (accepted w prop main)).emitCancelled c k d.start q (if q.drainEnd then 0x33 else if q.overflow then 0x32 else 0x10)
    else
      let runs := (d.start - (s.batch c k).firstPick) / s.stride c st + 1
      let s := if s.promptLeft c k && decide ((s.batch c k).runs < runs) then s.settlePrompt c k else s
      if s.promptLeft c k then s
      else if q.state = 3 && !s.handedOff c k then s
      else
        let s := State.each reads (fun s x => s.unitRead c 4 st x.1 x.2 ups) s
        let (s, stands) := s.judge c k
        if stands then s.emitWindow c k d.start q w main prop
        else if q.state = 1 then s.modBatch c k fun b => { b with promptRuns := b.promptRuns - 1 } else s

def execEmitStep (c : Fin 256) (l : Fin 5) (i : BitVec 18 × List Upset) (s : State) : Host.Outcome State Fault Refusal :=
  .next (if l.val = 4 then s.runStep c.val 4 i.1.toNat 0xD 0 none (fun d st s => s.emitWork c.val d st i.2) else s)

end Sys2Proof.Machine
end

