-- ==== Sys2Proof/Machine/StepEnd.lean ====
section
/-! DEFINITION. The end of a step (R30, R152), and the knots of steps that never run (R160, R294). -/

namespace Sys2Proof.Machine

/-- STEP_END: the step's work is done; one that ends more than 64 picks after its budgeted end pick, because it started late,
is logged under detector 0x02; one that itself ran past LEN + 64 meets 0x01. A layer's work that it closes has its flags counted
(R96). -/
def execStepEnd (c : Fin 256) (l : Fin 5) (i : BitVec 18) (s : State) : Host.Outcome State Fault Refusal :=
  .next (
    match s.sched.runs.find? (fun r => sameRun c.val l.val i.toNat r && r.ended.isNone) with
    | none => s
    | some r =>
      if s.up then
        let st := s.stepAt r.ctx r.list r.idx
        let late := decide (s.stepEndPick r.ctx st r.iter + 64 < s.clk.pick ∧ s.clk.pick ≤ r.began + st.len + 64) &&
          !s.suppresses r.ctx r.list st
        let s := (s.endRun r).layerEnd c.val l.val i.toNat r.iter
        let s := if late then s.declare 0 0 2 else s
        (s.promptCheck c.val st.slot).cutSettle c.val
      else s)

/-- UNFILLED_SLOT_KNOT_SET: a step of an unfilled slot, or a suppressed one, has reached its budgeted end pick. -/
def execUnfilledSlotKnotSet (c : Fin 256) (l : Fin 5) (i : BitVec 18) (s : State) : Host.Outcome State Fault Refusal :=
  .next (
    match s.sched.due.find? (fun d => sameStep c.val l.val i.toNat d && d.void && decide (d.voidEnd ≤ s.clk.pick)) with
    | none => s
    | some d =>
      if s.up then
        let st := s.stepAt d.ctx d.list d.idx
        let s := { s with sched := { s.sched with due := s.sched.due.filter (fun x => x != d) } }
        (s.setOf d.ctx d.list d.idx st).promptCheck c.val st.slot
      else s)

end Sys2Proof.Machine
end

