-- ==== Sys2Proof/Machine/CheckBase.lean ====
section
/-! DEFINITION. What the consistency check works with (R171): steps that meet in time (R159), the largest demand over the
iteration cycle (R162, R165), the memory and the units a step names, device placement (R167), contributors (R111),
knots (R152) and the work of each kind of step (R162). -/

namespace Sys2Proof.Machine

/-- A step with its list and its index. -/
abbrev Listed := Nat × Nat × PlanStep

/-- The subject of a check: context, image, weight set, candidate lists as read, the plans that count as enabled, and the
exchange with the other members. -/
structure Exam where
  c : Nat
  img : Bytes
  set : WeightSet
  cands : List (Nat × List Nat)
  others : List Nat
  units : List (Nat × Nat × Nat × Nat)
  grp : GroupView
deriving DecidableEq, Repr

def Exam.steps (e : Exam) : List Listed := planSteps e.img
def Exam.period (e : Exam) : Nat := max (planPeriod e.img) 1
def Exam.recipe (e : Exam) : Bytes := e.set.recipe
def Exam.layers (e : Exam) : Nat := recLayers e.recipe
def Exam.tensors (e : Exam) : Nat := recTensors e.recipe

/-- Outcome of one case: none when it passes, else the failing step, if the case concerns one. -/
abbrev CaseOut := Option (Option (Nat × Nat))

def failIf (b : Bool) : CaseOut := if b then some none else none
/-- The first step, lowest list first, that fails. -/
def failAt (l : List Listed) (p : Listed → Bool) : CaseOut := (l.find? p).map (fun x => some (x.1, x.2.1))

/-! ## Time (R157, R159) -/

/-- Step `b` in iteration n + d shares a pick with step `a` in iteration n, for some n. -/
def meetsAt (period : Nat) (a b : PlanStep) (d : Int) : Bool :=
  let g : Int := Nat.gcd a.every b.every
  let b0 : Int := b.start + d * period
  decide (((a.phase : Int) + d - b.phase) % g = 0 ∧ max (a.start : Int) b0 < min ((a.start : Int) + a.len) (b0 + b.len))

/-- Two steps meet in time. -/
def meets (period : Nat) (a b : PlanStep) : Bool :=
  meetsAt period a b (-1) || meetsAt period a b 0 || meetsAt period a b 1

def sameListed (x y : Listed) : Bool := x.1 == y.1 && x.2.1 == y.2.1

/-- The first step that meets another with which `p` pairs it. -/
def clash (period : Nat) (l : List Listed) (p : Listed → Listed → Bool) : CaseOut :=
  failAt l fun x => l.any fun y => !sameListed x y && p x y && meets period x.2.2 y.2.2

/-- The step runs in iteration `n`. -/
def runsIn (st : PlanStep) (n : Nat) : Bool := n % max st.every 1 == st.phase

/-- The step is in flight at offset `x` of iteration `n` of a cycle of `cyc` iterations that repeats. -/
def inFlight (period cyc : Nat) (st : PlanStep) (n x : Nat) : Bool :=
  (runsIn st n && decide (st.start ≤ x ∧ x < st.start + st.len)) ||
    (runsIn st ((n + cyc - 1) % cyc) && decide (x + period < st.start + st.len))

/-- The cycle of iterations after which the pattern of running steps repeats. -/
def cycleOf (l : List PlanStep) : Nat := lcmList (l.map (fun st => max st.every 1))

/-- The largest sum of the weights of the steps in flight, over every pick of the cycle: it is reached where one starts. -/
def peakOf (period : Nat) (items : List (PlanStep × ℚ)) : ℚ :=
  let cyc := cycleOf (items.map (·.1))
  let at_ (n x : Nat) : ℚ :=
    ((items.filter (fun i => inFlight period cyc i.1 n x)).map (·.2)).foldl (· + ·) 0
  (List.range cyc).foldl (fun m n =>
    (items.filter (fun i => runsIn i.1 n)).foldl (fun m i => max m (at_ n i.1.start)) m) 0

/-! ## Harnesses and heddles of the set -/

/-- The harness within loom `l` that logical or physical harness `u` means (R167). -/
def Exam.harness (e : Exam) (l u : Nat) : Option Nat :=
  if planDevice e.img then (e.set.logical.find? (fun x => x.1 == l * 1024 + u)).map (·.2) else some (l * 1024 + u)

/-- The heddles an MVM selects. -/
def Exam.selected (e : Exam) (x : Listed) : List Nat :=
  match e.harness x.1 x.2.2.unit with
  | none => []
  | some h => ((List.range 64).filter (fun i => bitOf (mvmHeddles (stepParam e.img x.2.2 16)) i)).map (fun i => h * 64 + i)

def Exam.imageOf (e : Exam) (g : Nat) : Option ImageAt := e.set.images.find? (fun i => i.heddle == g)

/-- The heddles of the harness that a MEND step serves that hold its tensor. -/
def Exam.served (e : Exam) (x : Listed) : List ImageAt :=
  let p := stepParam e.img x.2.2 16
  match e.harness x.1 (mendHarness p) with
  | none => []
  | some h => e.set.images.filter (fun i => harnessOfHeddle i.heddle == h && i.tensor == mvmTensor p)

/-- e_wmin of a heddle's image, from its pattern copy (R105, R240). -/
def State.imageWmin (s : State) (g : Nat) : Nat := (s.byte (patternAddr g + 0x22)).toNat

/-! ## Slots -/

def Exam.batches (e : Exam) : List Listed := e.steps.filter (fun x => x.1 == 4 && x.2.2.kind == 0xB)
/-- The BATCH steps that cover slot `k`. -/
def Exam.covers (e : Exam) (k : Nat) : List Listed :=
  e.batches.filter (fun x =>
    let p := stepParam e.img x.2.2 16
    decide (batchFirst p ≤ k ∧ k < batchFirst p + batchCount p))
/-- Parameters of the BATCH step of slot `k`, zeros when none covers it. -/
def Exam.slotParam (e : Exam) (k : Nat) : Bytes :=
  match (e.covers k).head? with
  | some x => stepParam e.img x.2.2 16
  | none => List.replicate 16 0
/-- The most positions that one run of a step of the slot can serve. -/
def Exam.positions (e : Exam) (k : Nat) : Nat := max 1 (max (batchChunk (e.slotParam k)) (batchSpecW (e.slotParam k)))

/-! ## Memory a step names -/

/-- The plan address names an auxiliary copy of the set on loom `l` (R233). -/
def Exam.auxCopy (e : Exam) (l x : Nat) : Bool :=
  addrPlace x == planPlace e.img && e.set.aux.any (fun t => t.copies.getD l 0 != 0 && t.copies.getD l 0 == addrLocal x)

/-- The auxiliary tensor of the set whose copy lies at plan address `x`. -/
def Exam.auxTensor (e : Exam) (x : Nat) : Option AuxTensor := e.set.aux.find? (fun t => t.copies.contains (addrLocal x))

/-- The most positions that one run of the step can serve: of a step of the speculation window at most the window's. -/
def Exam.rowsOf (e : Exam) (x : Listed) : Nat :=
  if x.2.2.kind = 4 ∧ (parseAttn (stepParam e.img x.2.2 64)).spec then max 1 (batchSpecW (e.slotParam x.2.2.slot))
  else e.positions x.2.2.slot

/-- Plan addresses a step names, with their lengths in bytes, and whether each may lie on another place. -/
def Exam.memory (e : Exam) (x : Listed) : List (Nat × Nat × Bool) :=
  let cols := maxNat 1 ((e.selected x).map (fun g => ((e.imageOf g).map (fun i => i.colFirst + i.colsUsed)).getD 0))
  namedMemory e.img e.recipe e.set.aux cols (e.rowsOf x) x.2.2

/-- [a, a+n) lies in a region of the plan, of type `ty` where one is asked for. -/
def Exam.inRegion (e : Exam) (a n : Nat) (ty : Option Nat) : Bool :=
  (planRegions e.img).any (fun r => inside a n r.base r.size && (match ty with | none => true | some t => r.type == t))

/-! ## Reduction words (R111, R159) -/

/-- Ranges of words of this module that a step writes, and whether by add: every output that is stored into a reduction region
writes its words too, by STORE (R113, R159). -/
def Exam.wordWrites (e : Exam) (x : Listed) : List (Nat × Nat) × Bool :=
  let st := x.2.2
  let a := addrLocal st.dst
  let here := addrPlace st.dst == planPlace e.img
  if st.kind = 1 then
    ((e.selected x).filterMap (fun g => (e.imageOf g).map (fun i => (a + 8 * i.colFirst, 8 * i.colsUsed))),
      mvmOpmode (stepParam e.img st 16) == 0)
  else if st.kind = 7 then (if here then [(a, st.length)] else [], true)
  else
    let p := parseAttn (stepParam e.img st 64)
    let stored := (e.memory x).filter (fun m => addrPlace m.1 == planPlace e.img &&
      (m.1 == st.dst || (st.kind == 4 && m.1 == p.merge && decide (1 < p.partials))))
    ((stored.map (fun m => (addrLocal m.1, m.2.1))).filter (fun m =>
      (planRegions e.img).any (fun r => r.type == 2 && overlaps m.1 m.2 r.base r.size)), false)

def touches (l m : List (Nat × Nat)) : Bool := l.any (fun a => m.any (fun b => overlaps a.1 a.2 b.1 b.2))

/-- A window of a port as a step, for what the check says of steps that meet in time. -/
def windowStep (w : PortWindow) : PlanStep :=
  { parseStep [] with start := w.start, len := w.len, every := w.every, phase := w.phase }

/-- A step that adds into words of this module, local or of another place: ranges, and its window as a step. -/
def Exam.adders (e : Exam) : List (Option (Nat × Nat) × List (Nat × Nat) × PlanStep) :=
  (e.steps.filterMap fun x =>
    let w := e.wordWrites x
    if w.2 && !w.1.isEmpty then some (some (x.1, x.2.1), w.1, x.2.2) else none) ++
  (e.grp.windows.flatMap (·.2)).filterMap fun w =>
    if w.outbound then w.adds.map (fun r => (none, [r], (windowStep w))) else none

/-- The steps that read reduction words with CLEAR. -/
def Exam.clearers (e : Exam) : List ((Nat × Nat) × PlanStep) :=
  e.steps.filterMap fun x =>
    let st := x.2.2
    let n := if st.kind = 3 then (let p := stepParam e.img st 32; if fullFn p = 1 then fullN p else 0)
      else if st.kind = 0xC then (let p := stepParam e.img st 32; sampleVocab p * samplePositions p) else 0
    if bitOf st.flags 1 && n != 0 then some ((addrLocal st.src, 8 * n), st) else none

/-- The most contributors of one word in one reduction: from a CLEAR read to the next, every run counts whose window reaches
between them; without one, the runs of one iteration. -/
def contributors (period : Nat) (adds clears : List PlanStep) : Nat :=
  let cyc := cycleOf (adds ++ clears)
  if clears.isEmpty then
    maxNat 0 ((List.range cyc).map (fun n => (adds.filter (fun st => runsIn st n)).length))
  else
    let windows (l : List PlanStep) (lo n : Nat) : List (Nat × Nat) :=
      (List.range n).flatMap (fun i => (l.filter (fun st => runsIn st (lo + i))).map (fun st =>
        ((lo + i) * period + st.start, (lo + i) * period + st.start + st.len)))
    let reads := sortBy (fun a b => decide (a.1 ≤ b.1)) (windows clears cyc (2 * cyc + 1))
    let runs := windows adds 0 (4 * cyc)
    maxNat 0 ((reads.zip reads.tail).map (fun p => (runs.filter (fun r => decide (r.1 < p.2.2 ∧ p.1.1 < r.2))).length))

/-- The first step that contributes to a word with more than `limit` contributors. -/
def Exam.crowded (e : Exam) (limit : Nat) : CaseOut :=
  let adds := e.adders
  let clears := e.clearers
  let covers (a : Nat) (l : List (Nat × Nat)) : Bool := l.any (fun r => decide (r.1 ≤ a ∧ a < r.1 + r.2))
  let points := (adds.flatMap (fun x => x.2.1.map (·.1)) ++ clears.flatMap (fun x => [x.1.1, x.1.1 + x.1.2])).eraseDups
  let bad := points.filter (fun a =>
    decide (limit < contributors e.period ((adds.filter (fun x => covers a x.2.1)).map (·.2.2))
      ((clears.filter (fun x => covers a [x.1])).map (·.2))))
  if bad.isEmpty then none
  else some ((adds.find? (fun x => x.1.isSome && bad.any (fun a => covers a x.2.1))).bind (·.1))

/-! ## Knots (R152) -/

/-- Steps that set the knot at plan address `a`. -/
def Exam.setters (e : Exam) (a : Nat) : List Listed := e.steps.filter (fun x => x.2.2.set != 0 && x.2.2.set == a)

/-- Runs of the step in iterations 0 to `n`. -/
def runsThrough (st : PlanStep) (n : Nat) : Nat := (n + max st.every 1 - st.phase) / max st.every 1

/-- Sets of the step's knot by the runs of iterations 0 to `n`. -/
def Exam.setsThrough (e : Exam) (st : PlanStep) (n : Nat) : Nat :=
  sumNat ((e.setters st.wait).map (fun x => runsThrough x.2.2 n))

/-- Iterations after which the step and the setters of its knot repeat. -/
def Exam.waitCycle (e : Exam) (st : PlanStep) : Nat := cycleOf (st :: (e.setters st.wait).map (·.2.2))

/-- In some run of the step the sets of this iteration and those before it stay short of its threshold (R152). -/
def Exam.setsShort (e : Exam) (st : PlanStep) : Bool :=
  (List.range (e.waitCycle st)).any fun n => runsIn st n && decide (e.setsThrough st n < st.waitCount * runsThrough st n)

/-- The surplus of sets over the step's thresholds, in a cycle: 0 when both run at one rate. -/
def Exam.setSurplus (e : Exam) (st : PlanStep) : Int :=
  let n := e.waitCycle st - 1
  (e.setsThrough st n : Int) - (st.waitCount * runsThrough st n : Nat)

/-- Everything that `front` leads to by `next`. -/
def reachAll {α : Type} [BEq α] (next : α → List α) : Nat → List α → List α → List α
  | 0, seen, _ => seen
  | k + 1, seen, front =>
    let new := ((front.flatMap next).filter (fun x => !seen.contains x)).eraseDups
    if new.isEmpty then seen else reachAll next k (seen ++ new) new

/-- A chain of waits and sets leads from the step back to itself. -/
def Exam.onCycle (e : Exam) (x : Listed) : Bool :=
  let next (y : Nat × Nat) : List (Nat × Nat) :=
    let st := planStep e.img y.1 y.2
    if st.waitCount = 0 then [] else (e.setters st.wait).map (fun z => (z.1, z.2.1))
  (reachAll next (e.steps.length + 1) [] [(x.1, x.2.1)]).contains (x.1, x.2.1)

/-! ## Attention head sets (R123, R142) -/

def Exam.attns (e : Exam) : List Listed := e.steps.filter (fun x => x.2.2.kind == 4)
def Exam.attn (e : Exam) (x : Listed) : AttnParam := parseAttn (stepParam e.img x.2.2 64)

/-- Two steps serve the same query heads of the same KV heads of a layer for a slot. The head sets of a latent layer each have an
expansion tensor of their own, which tells them apart (DEDUCED: nothing else of Table 6.10 does). -/
def Exam.sameHeads (e : Exam) (x y : Listed) : Bool :=
  let a := e.attn x
  let b := e.attn y
  let tensor (z : Nat) : Option Nat := (e.auxTensor z).map (·.tensor)
  x.2.2.slot == y.2.2.slot && a.layer == b.layer && a.latent == b.latent && a.firstKv == b.firstKv && a.setKv == b.setKv &&
    a.g == b.g && a.spec == b.spec &&
    (!a.latent || (if (tensor a.wUk).isSome then tensor a.wUk == tensor b.wUk else a.wUk == b.wUk))

/-- Which of several like steps of a window this one is: they serve one position each, in order of START (R214). -/
def Exam.turn (e : Exam) (x : Listed) : Nat :=
  if (e.attn x).spec then
    (e.attns.filter (fun y => y.1 == x.1 && e.sameHeads x y && (e.attn y).rank == (e.attn x).rank &&
      decide (y.2.2.start < x.2.2.start))).length
  else 0

/-- The steps that share the step's head set. -/
def Exam.headSet (e : Exam) (x : Listed) : List Listed :=
  e.attns.filter (fun y => e.sameHeads x y && e.turn y == e.turn x)

/-- Segments that a query row can reach: those of the largest stream open in the context. -/
def State.reachable (s : State) (c : Nat) : Nat :=
  ceilDiv (maxNat 0 ((s.srv.streams.filter (fun t => t.2.opened && t.2.ctx == c)).map (fun t => s.smapPages t.1))) 2

/-- Attention layers that a plan names. -/
def Exam.attnLayers (e : Exam) : Nat := maxNat 0 (e.attns.map (fun x => (e.attn x).layer + 1))

/-! ## Units and device placement (R167) -/

/-- The unit of a step: kind of Table 10.7 and index, UNIT taken as physical. -/
def listedUnits (l : Nat) (st : PlanStep) : List (Nat × Nat) :=
  if l = 4 then []
  else if st.kind = 1 ∨ st.kind = 9 then [(1, l * 1024 + st.unit)]
  else if st.kind = 2 then [(4, l * 16 + st.unit)]
  else if st.kind = 3 then [(3, l * 24 + st.unit)]
  else if st.kind = 4 then [(2, l * 96 + st.unit)]
  else if st.kind = 0xE then [(7, 9 * l + st.unit)]
  else if st.kind = 5 ∨ st.kind = 6 ∨ st.kind = 7 then (if st.unit ≤ 8 then [(7, 9 * l + st.unit)] else [])
  else if st.kind = 0xA then
    (if st.unit < 0x500 then [(1, l * 1024 + (st.unit - 0x100))]
     else if st.unit < 0x580 then [(2, l * 96 + (st.unit - 0x500))]
     else if st.unit < 0x5A0 then [(3, l * 24 + (st.unit - 0x580))]
     else [(4, l * 16 + (st.unit - 0x5A0))])
  else []

/-- Units of a step and, for MEND, the harness it serves; those with a count per loom. -/
def Exam.namedUnits (e : Exam) (x : Listed) : List (Nat × Nat) :=
  listedUnits x.1 x.2.2 ++
    (if x.1 < 4 ∧ x.2.2.kind = 2 then [(1, x.1 * 1024 + mendHarness (stepParam e.img x.2.2 16))] else [])

/-- Logical units of a kind on a loom, ascending. -/
def Exam.logicalUnits (e : Exam) (kind l : Nat) : List Nat :=
  let us := ((e.steps.filter (fun x => x.1 == l)).flatMap e.namedUnits).filterMap (fun u =>
    if u.1 = kind then some (u.2 - l * kindCount kind) else none)
  sortBy (fun a b => decide (a ≤ b)) us.eraseDups

/-- The map of one kind on one loom: logical to physical, none where too few are eligible. -/
def State.mapKind (s : State) (e : Exam) (kind l : Nat) : Option (List (Nat × Nat × Nat × Nat)) :=
  let logical := e.logicalUnits kind l
  let physical : List Nat :=
    if kind = 1 then logical.filterMap (fun u => (e.harness l u).map (fun h => h - l * 1024))
    else
      let held := s.heldBy e.others kind
      ((List.range (kindCount kind)).filter (fun u =>
        s.eligible kind (l * kindCount kind + u) && !held.contains (l * kindCount kind + u))).take logical.length
  if physical.length = logical.length then some ((logical.zip physical).map (fun p => (kind, l, p.1, p.2))) else none

/-- The whole map of a device-placed plan. -/
def State.mapUnits (s : State) (e : Exam) : Option (List (Nat × Nat × Nat × Nat)) :=
  ([1, 2, 3, 4].flatMap (fun k => [0, 1, 2, 3].map (fun l => s.mapKind e k l))).foldl
    (fun (m : Option (List (Nat × Nat × Nat × Nat))) x =>
      match m, x with
      | some a, some b => some (a ++ b)
      | _, _ => none) (some [])

/-- Physical units of a step under the map. -/
def Exam.physUnits (e : Exam) (x : Listed) : List (Nat × Nat) :=
  (e.namedUnits x).map (fun u =>
    if u.1 = 7 then u
    else
      let n := kindCount u.1
      match e.units.find? (fun m => m.1 == u.1 && m.2.1 == u.2 / n && m.2.2.1 == u.2 % n) with
      | some m => (u.1, u.2 / n * n + m.2.2.2)
      | none => u)

/-- Harnesses that the plan uses. -/
def Exam.harnesses (e : Exam) : List Nat :=
  (e.steps.flatMap (fun x => (e.physUnits x).filterMap (fun u => if u.1 = 1 then some u.2 else none))).eraseDups

/-! ## Work (R162) -/

/-- Picks to move `n` bytes along the path of a step. Local memory moves at the loom's 12 TB/s, 48,000 bytes per nominal pick
(DEDUCED: R21 and R122 give that bandwidth, R162 names none for code 0x01F). -/
def Exam.moveWork (e : Exam) (st : PlanStep) : Nat :=
  let n := st.length
  if st.unit ≤ 8 then ceilDiv (ceilDiv (32 + n + 4 * ceilDiv n 4096) 240) 3 + planHop e.img
  else if st.unit = 0x1F then ceilDiv n 48000
  else ceilDiv (n * 64) (max ((if st.unit = 0x12 then 8000 else 16000) * planFabricShare e.img) 1)

/-- The most 4 KiB blocks that a range of `n` bytes touches. -/
def blocksAcross (n : Nat) : Nat := if n = 0 then 0 else ceilDiv (n - 1) 4096 + 1

/-- HBM bytes that appending `n` positions moves: each block it changes is read and written whole, the header block of each page
among them (R136). -/
def appendBytes (a : AttnParam) (n : Nat) : Nat :=
  let pages := ceilDiv (n - 1) 256 + 1
  let rows (row own : Nat) : Nat := blocksAcross ((n - 1) * row + own)
  let l := a.dim + a.rope
  let k := a.kvHeads * a.dim
  let s := a.setKv * a.dim
  let data := if a.latent then rows l l + rows (l / 64) (l / 64)
    else rows (k * a.keyWidth / 8) (s * a.keyWidth / 8) + rows k s + rows (k / 64) (s / 64)
  2 * 4096 * (pages + data)

/-- HBM bytes of a step (R122, R136): the rows and block exponents of its positions, the header block of each page, and the
append of the positions it may serve (DEDUCED: a figure in bytes counts every byte the layout makes the step read). -/
def Exam.attnBytes (e : Exam) (x : Listed) : Nat :=
  let a := e.attn x
  let l := a.dim + a.rope
  let row := if a.latent then l + l / 64 else a.setKv * (a.dim * a.keyWidth / 8 + a.dim + a.dim / 64)
  512 * a.segCount * row + 4096 * (2 * a.segCount) + appendBytes a (e.rowsOf x)

/-- Picks of an attention step: the largest of its figures of Table 5.1, and a lookup of 48 picks for each page. -/
def Exam.attnWork (e : Exam) (x : Listed) : Nat :=
  let a := e.attn x
  let broad := decide (x.2.2.unit < 32)
  let rows := e.rowsOf x * a.heads
  let macs := rows * (512 * a.segCount) * (a.dim + a.rope)
  let adds := rows * (512 * a.segCount) * a.vdim
  let work := max (ceilDiv macs (if broad then 32768 else 4096))
    (max (ceilDiv adds (if broad then 8192 else 2048)) (ceilDiv (e.attnBytes x) (if broad then 256 else 512)))
  work + 48 * (2 * a.segCount)

/-- The least LEN of a step; kinds with a code of their own need none here. -/
def Exam.work (e : Exam) (twill : Bool) (x : Listed) : Nat :=
  let st := x.2.2
  match st.kind with
  | 1 =>
    let p := stepParam e.img st 16
    let cols := sumNat ((e.selected x).map (fun g => ((e.imageOf g).map (·.colsUsed)).getD 0))
    4 * layActWidth e.recipe (mvmLayer p) + 10 + ceilDiv cols 64
  | 2 => ceilDiv (laySlots e.recipe (mvmLayer (stepParam e.img st 16)) * sumNat ((e.served x).map (·.colsUsed))) 512
  | 3 =>
    let p := stepParam e.img st 32
    let f := fullFn p
    (1 + if f = 3 then 1 else if f = 4 then 2 else 0) * ceilDiv (fullN p) 64
  | 4 => e.attnWork x
  | 5 => e.moveWork st
  | 6 => e.moveWork st
  | 7 => e.moveWork st
  | 0xC =>
    let p := stepParam e.img st 32
    (if twill then 2 else 1) * samplePositions p * (ceilDiv (sampleVocab p) 512 + 32)
  | 0xD => 4
  | _ => 1

/-- A path code of the package fabric. -/
def fabricCode (st : PlanStep) : Bool :=
  (st.kind == 5 || st.kind == 6 || st.kind == 7) && (st.unit == 0x10 || st.unit == 0x11 || st.unit == 0x12)

/-- Directed links of the package fabric that a step's traffic takes, node 4 the hub, with their bytes per nominal pick; the
hub crossbar is the link (9, 9). -/
def fabricLinks (l : Nat) (st : PlanStep) : List ((Nat × Nat) × Nat) :=
  let lower := if l = 0 ∨ l = 3 then 1 else 0
  let higher := if l = 0 ∨ l = 3 then 2 else 3
  let out : List ((Nat × Nat) × Nat) :=
    if st.unit = 0x12 then [((l, 4), 8000), ((4, 3 - l), 8000), ((9, 9), 32000)]
    else [((l, if st.unit = 0x10 then lower else higher), 16000)]
  if st.kind = 6 then out.map (fun k => ((k.1.2, k.1.1), k.2)) else out

/-! ## Windows on Xeast ports (R169) -/

/-- The windows that the plan lists for port `p`: those of its PUT, GET and ADD steps, an ADD with the destination range of its
words, and those of its RECV steps. -/
def Exam.portWindows (e : Exam) (p : Nat) : List PortWindow :=
  e.steps.filterMap fun x =>
    let st := x.2.2
    let out := st.kind == 5 || st.kind == 6 || st.kind == 7
    if decide (x.1 < 4 ∧ st.unit ≤ 8 ∧ 9 * x.1 + st.unit = p) && (out || st.kind == 0xE) then
      some ⟨out, st.start, st.len, st.every, st.phase, if st.kind = 7 then some (addrLocal st.dst, st.length) else none⟩
    else none

/-- The lists that the module sends, one for each port its plan uses. -/
def Exam.sentWindows (e : Exam) : List (Nat × List PortWindow) := (planPorts e.img).map (fun p => (p, e.portWindows p))

/-- Every run of the outbound window `w`, `hop` picks later, lies inside a run of one of the RECV windows `rs`. -/
def arrives (period hop : Nat) (rs : List PortWindow) (w : PortWindow) : Bool :=
  (List.range (cycleOf ((w :: rs).map windowStep))).all fun n =>
    !runsIn (windowStep w) n ||
      (let x := n * period + w.start + hop
       rs.any fun r => [x / period, x / period - 1].any fun m =>
         runsIn (windowStep r) m && inside x w.len (m * period + r.start) r.len)

/-- The outbound windows `out` arrive in the RECV windows among `ws`. -/
def allArrive (period hop : Nat) (out ws : List PortWindow) : Bool :=
  (out.filter (·.outbound)).all (arrives period hop (ws.filter (fun w => !w.outbound)))

/-- Both sides' lists of a port agree. -/
def Exam.windowsMatch (e : Exam) (p : Nat) : Bool :=
  let mine := e.portWindows p
  let theirs := (e.grp.windows.filter (fun w => w.1 == p)).flatMap (·.2)
  allArrive e.period (planHop e.img) mine theirs && allArrive e.period (planHop e.img) theirs mine

/-- The plan's peak power in mW (R165). -/
def State.planPeak (_s : State) (e : Exam) : ℚ :=
  let ports := (planPorts e.img).length
  let static_ := max (planStaticMw e.img) (120 * e.harnesses.length + 2500 * ports)
  (static_ : ℚ) + peakOf e.period (e.steps.map (fun x => (x.2.2, (x.2.2.power : ℚ))))

end Sys2Proof.Machine
end

