-- ==== Sys2Proof/Machine/PlanCheck.lean ====
section
/-! DEFINITION. The consistency check (R171): the cases of Table 6.14 in ascending code order, the twill rules (R271), and
CHECK_COMPLETE with the entry into Arming (Table 6.13). -/

namespace Sys2Proof.Machine

/-! ## Class 0x01 -/

/-- Parameter block size of a kind, 0 for none (Tables 6.7 to 6.10, 8.5 to 8.7). -/
def paramSize (kind : Nat) : Nat :=
  match kind with
  | 1 => 16
  | 2 => 16
  | 3 => 32
  | 4 => 64
  | 0xA => 16
  | 0xB => 16
  | 0xC => 32
  | 0xD => 32
  | _ => 0

/-- The header, the region table and the lists are as R154 and Tables 6.3 to 6.5 state. -/
def Exam.headerBad (e : Exam) : Bool :=
  let i := e.img
  let within (off size : Nat) : Bool := decide (128 ≤ off ∧ off + size ≤ i.length)
  let r := planRegionCount i
  let regionBad (g : Region) : Bool :=
    decide (3 < g.type) || g.size == 0 || g.size % 64 != 0 || g.base % (if g.type = 1 then 8 else 64) != 0 ||
      decide (2 ^ 48 ≤ g.base) || g.reserved != 0
  decide (i.length < 128) || le i 0 2 != 1 || decide (2 ≤ planMode i) || !zeros i 0xA 2 || !zeros i 0x21 3 || !zeros i 0x58 0x18 ||
    decide (planPeriod i < 64 ∨ 2 ^ 31 < planPeriod i) || decide (planPlaces i < 1 ∨ 4096 < planPlaces i) ||
    decide (planLead i < 16384 ∨ 2 ^ 24 < planLead i) || decide (planHop i < 1 ∨ 4096 < planHop i) ||
    decide (1024 < planWalkerShare i) || decide (64 < planFabricShare i) || decide (r < 1 ∨ 4096 < r) ||
    !within (planRegionOff i) (16 * r) ||
    (List.range 5).any (fun l => decide (262144 < planListCount i l) ||
      (planListCount i l != 0 && !within (planListOff i l) (64 * planListCount i l))) ||
    (planRegions i).any regionBad

/-- Twill: an address of strand B lies at the offset of its original in the twin of its region (R271). -/
def Exam.twinAddr (e : Exam) (a b : Nat) : Bool :=
  let half := planRegionCount e.img / 2
  if a = 0 ∨ b = 0 then a == b
  else if addrPlace a ≠ planPlace e.img then addrPlace a == addrPlace b
  else (List.range half).any (fun i =>
    let r := planRegion e.img i
    let q := planRegion e.img (i + half)
    inside (addrLocal a) 1 r.base r.size && addrPlace b == addrPlace a && addrLocal b == addrLocal a - r.base + q.base)

/-- Twill: step `y` of strand B is step `x` of strand A but for what R271 lets differ. -/
def Exam.twinStep (e : Exam) (x y : PlanStep) : Bool :=
  let lay := e.layers / 2
  let ten := e.tensors / 2
  let att := e.attnLayers / 2
  let p := stepParam e.img x (paramSize x.kind)
  let q := stepParam e.img y (paramSize y.kind)
  let same (lo n : Nat) : Bool := slice p lo n == slice q lo n
  let plus (lo n d : Nat) : Bool := le q lo n == le p lo n + d
  let addr (lo : Nat) : Bool := e.twinAddr (le p lo 8) (le q lo 8)
  x.len == y.len && x.kind == y.kind && x.flags == y.flags && x.every == y.every && x.phase == y.phase &&
    x.waitCount == y.waitCount && x.slot == y.slot && x.length == y.length && x.unit != y.unit &&
    e.twinAddr x.wait y.wait && e.twinAddr x.set y.set && e.twinAddr x.src y.src && e.twinAddr x.dst y.dst &&
    (match x.kind with
     | 1 => plus 0 2 lay && plus 2 2 ten && same 4 2
     | 2 => plus 0 2 lay && plus 2 2 ten && same 4 4
     | 3 => same 0 2 && plus 2 2 lay && plus 4 2 ten && same 6 10 && addr 0x10 && addr 0x18
     | 4 => same 0 0x14 && plus 0x14 2 att && same 0x16 10 && addr 0x20 && addr 0x28 && addr 0x30 && addr 0x38
     | _ => p == q)

/-- Twill: the plan address lies in a region of strand B. -/
def Exam.inStrandB (e : Exam) (a : Nat) : Bool :=
  ((planRegions e.img).drop (planRegionCount e.img / 2)).any (fun r => inside (addrLocal a) 1 r.base r.size)

/-- 0x0101, also for a SAMPLE step that names a logits region of strand B (DESIGN CHOICE: R271 refuses it and names no code). -/
def Exam.case0101 (e : Exam) (twill : Bool) : CaseOut :=
  if e.headerBad then some none
  else if !twill then none
  else
    let r := planRegionCount e.img
    let regionsBad := r % 2 != 0 || (List.range (r / 2)).any (fun i =>
      (planRegion e.img i).size != (planRegion e.img (i + r / 2)).size || (planRegion e.img i).type != (planRegion e.img (i + r / 2)).type)
    let listsOdd := (List.range 4).any (fun l => planListCount e.img l % 2 != 0)
    if regionsBad || listsOdd then some none
    else failAt (e.steps.filter (fun x => decide (x.1 = 4 ∨ planListCount e.img x.1 / 2 ≤ x.2.1))) fun x =>
      if x.1 = 4 then x.2.2.kind == 0xC && e.inStrandB x.2.2.src
      else !e.twinStep (planStep e.img x.1 (x.2.1 - planListCount e.img x.1 / 2)) x.2.2

/-- Reserved fields of a step's parameter block are 0 and its modes are known. -/
def paramClean (st : PlanStep) (p : Bytes) : Bool :=
  match st.kind with
  | 1 => decide (fld (byteAt p 4) 1 7 < 2) && zeros p 6 2
  | 2 => zeros p 4 2 && zeros p 8 8
  | 3 => zeros p 7 1
  | 4 => decide (byteAt p 6 < 32)
  | 0xA => decide (byteAt p 0 < 2) && zeros p 1 15 && (byteAt p 0 == 0 || decide (0x100 ≤ st.unit ∧ st.unit < 0x500))
  | 0xB =>
    zeros p 5 1 && zeros p 8 8 && decide (1 ≤ batchCount p ∧ batchFirst p + batchCount p ≤ 4096) &&
      (batchSpecW p == 0 || decide (2 ≤ batchSpecW p ∧ batchSpecW p ≤ 16)) && decide (batchChunk p ≤ 4096)
  | 0xC => decide (byteAt p 5 < 2) && zeros p 7 1 && zeros p 0xC 4 && zeros p 0x18 8 && decide (2 ≤ sampleVocab p ∧ sampleVocab p ≤ 262144)
  | 0xD => zeros p 0x11 15
  | _ => true

/-- Plan addresses in a step's parameter block; bits [63:60] of each are 0 (R156). -/
def paramAddrs (st : PlanStep) (p : Bytes) : List Nat :=
  match st.kind with
  | 3 => [le p 0x10 8, le p 0x18 8]
  | 4 => [le p 0x20 8, le p 0x28 8, le p 0x30 8, le p 0x38 8]
  | 0xC => [sampleAct p]
  | 0xD => [emitMain p, emitProp p]
  | _ => []

/-- Fields of a step record that are reserved, and its place in a list. -/
def Exam.stepBad (e : Exam) (x : Listed) : Bool :=
  let st := x.2.2
  let n := paramSize st.kind
  let high (a : Nat) : Bool := decide (2 ^ 60 ≤ a)
  let kinds := if x.1 = 4 then [8, 0xB, 0xC, 0xD] else [1, 2, 3, 4, 5, 6, 7, 8, 9, 0xA, 0xE]
  !kinds.contains st.kind || decide (4 ≤ st.flags) || high st.wait || high st.set || high st.src || high st.dst ||
    (paramAddrs st (stepParam e.img st n)).any high ||
    (st.length != 0 && !(st.kind == 5 || st.kind == 6 || st.kind == 7)) ||
    (st.param != 0 && decide (e.img.length < st.param + n)) || !paramClean st (stepParam e.img st n)

/-- R199 and R206: BATCH lengths, each slot under one BATCH step, the SAMPLE steps of a BATCH step's slots. -/
def Exam.slotBad (e : Exam) (x : Listed) : Bool :=
  let st := x.2.2
  if st.kind = 0xB then
    let p := stepParam e.img st 16
    let ks := (List.range (batchCount p)).map (fun i => batchFirst p + i)
    let samples := e.steps.filter (fun y => y.2.2.kind == 0xC && ks.contains y.2.2.slot)
    let par (y : Listed) : Bytes := stepParam e.img y.2.2 32
    let vocabs := (samples.map (fun y => sampleVocab (par y))).eraseDups
    decide (st.len < 16) || ks.any (fun k => (e.covers k).length != 1) || decide (1 < vocabs.length) ||
      (batchSpecW p != 0 && ks.any (fun k =>
        !(samples.any (fun y => y.2.2.slot == k && sampleProposer (par y)) && samples.any (fun y => y.2.2.slot == k && !sampleProposer (par y)))))
  else if st.slot = 0xFFFF then false
  else
    let w := batchSpecW (e.slotParam st.slot)
    (e.covers st.slot).length != 1 ||
      (st.kind == 0xC && !(samplePositions (stepParam e.img st 32) == 1 || samplePositions (stepParam e.img st 32) == max w 1)) ||
      (st.kind == 0xD && emitW (stepParam e.img st 32) != max w 1)

/-- 0x0102. -/
def Exam.case0102 (e : Exam) : CaseOut := failAt e.steps fun x => e.stepBad x || e.slotBad x

/-- 0x0103. -/
def Exam.case0103 (e : Exam) : CaseOut :=
  failAt e.steps fun x =>
    let st := x.2.2
    decide (planPeriod e.img ≤ st.start ∨ st.len = 0 ∨ planPeriod e.img < st.len ∨ st.every = 0 ∨ st.every ≤ st.phase)

/-- 0x0104: tiles, then reduction words that are not both written by add. -/
def Exam.case0104 (e : Exam) : CaseOut :=
  clash e.period e.steps fun x y =>
    (x.1 == y.1 && decide (x.1 < 4) && (stepTiles e.img x.1 x.2.2).any (fun t => (stepTiles e.img y.1 y.2.2).contains t)) ||
      (let a := e.wordWrites x
       let b := e.wordWrites y
       !(a.2 && b.2) && touches a.1 b.1)

/-- 0x0105. -/
def Exam.case0105 (e : Exam) : CaseOut :=
  clash e.period e.steps fun x y => (unitKey x.1 x.2.2).isSome && unitKey x.1 x.2.2 == unitKey y.1 y.2.2

/-- 0x0106. -/
def Exam.case0106 (e : Exam) : CaseOut := e.crowded 256

/-- 0x0107. Of one place the sets must reach each run's threshold by the runs of its own iteration and those before, and neither
outrun nor fall behind it (DEDUCED: a set of a later iteration comes too late for a run). With more than one place, sets may come
from plans that this module does not hold. -/
def Exam.case0107 (e : Exam) : CaseOut :=
  failAt e.steps fun x =>
    let st := x.2.2
    st.waitCount != 0 &&
      (addrPlace st.wait != planPlace e.img || addrLocal st.wait % 8 != 0 || !e.inRegion (addrLocal st.wait) 8 (some 1) ||
        (if planPlaces e.img = 1 then e.setsShort st || e.setSurplus st != 0 else decide (0 < e.setSurplus st)) ||
        e.onCycle x)

/-- 0x0108. -/
def Exam.case0108 (e : Exam) : CaseOut :=
  failAt e.attns fun x =>
    let a := e.attn x
    let group := e.headSet x
    let leads := group.filter (fun y => bitOf y.2.2.flags 0)
    let form :=
      if a.latent then decide (a.setKv = 1 ∧ a.firstKv = 0 ∧ 1 ≤ a.g ∧ a.g ≤ 16)
      else decide (1 ≤ a.g ∧ a.firstKv + a.setKv ≤ a.kvHeads) &&
        (decide (a.setKv = 1 ∧ a.g ≤ 16) || decide (2 ≤ a.setKv ∧ a.setKv ≤ 4 ∧ a.dim = 64 ∧ a.setKv * a.g ≤ 16))
    !form || a.segCount == 0 || a.partials != group.length || decide (16 < a.partials) || decide (a.partials ≤ a.rank) ||
      group.any (fun y => !sameListed x y && ((e.attn y).rank == a.rank ||
        decide ((e.attn y).rank < a.rank ∧ a.segFirst ≤ (e.attn y).segFirst))) ||
      leads.length != 1 || byteAt (stepParam e.img x.2.2 64) 0x1E != ((leads.head?).map (·.1)).getD 5 ||
      ((leads.head?).map (fun y => (e.attn y).merge)).getD 0 != a.merge && a.partials != 1

/-- 0x0109. -/
def State.case0109 (s : State) (e : Exam) : CaseOut :=
  let n := s.reachable e.c
  failAt e.attns fun x =>
    let a := e.attn x
    let group := (e.headSet x).map e.attn
    let covered (g : Nat) : Bool := group.any (fun b => decide (b.segFirst ≤ g ∧ g < b.segFirst + b.segCount))
    (e.headSet x).any (fun y => !sameListed x y && overlaps a.segFirst a.segCount (e.attn y).segFirst (e.attn y).segCount) ||
      ((0 :: group.map (fun b => b.segFirst + b.segCount)).filter (fun g => decide (g < n))).any (fun g => !covered g)

/-- 0x010A, with the regions that R426 lets lie nowhere and the expansion tensors that are no auxiliary copies (R233). -/
def Exam.case010A (e : Exam) : CaseOut :=
  let rs := planRegions e.img
  if rs.any (fun r => !allocatable r.base r.size) ||
      rs.zipIdx.any (fun a => rs.zipIdx.any (fun b => a.2 != b.2 && overlaps a.1.base a.1.size b.1.base b.1.size)) then some none
  else failAt e.steps fun x =>
    (e.memory x).any (fun m => if addrPlace m.1 = planPlace e.img then !e.inRegion (addrLocal m.1) (max m.2.1 1) none else !m.2.2) ||
      (x.2.2.kind == 4 && (e.attn x).latent && !(e.auxCopy x.1 (e.attn x).wUk && e.auxCopy x.1 (e.attn x).wUv))

/-- 0x010B: also where no image is loaded. -/
def State.case010B (s : State) (c : Nat) (img : Option Bytes) (w : WeightSet) : CaseOut :=
  failIf (!(s.ctx c).ctl.opened || img.isNone || w.recipe.isEmpty || !w.committed || planContext (img.getD []) != c)

/-- The UNIT, path or unit code of a step lies in its range (Tables 6.7, 6.11). -/
def unitOk (st : PlanStep) : Bool :=
  match st.kind with
  | 1 => decide (st.unit < 1024)
  | 2 => decide (st.unit < 16)
  | 3 => decide (st.unit < 24)
  | 4 => decide (st.unit < 96)
  | 5 => decide (st.unit ≤ 8) || [0x10, 0x11, 0x12, 0x1F].contains st.unit
  | 6 => decide (st.unit ≤ 8) || [0x10, 0x11, 0x12, 0x1F].contains st.unit
  | 7 => decide (st.unit ≤ 8) || [0x10, 0x11, 0x12, 0x1F].contains st.unit
  | 9 => decide (st.unit < 1024)
  | 0xA =>
    decide (0x100 ≤ st.unit ∧ st.unit < 0x560) || decide (0x580 ≤ st.unit ∧ st.unit < 0x598) ||
      decide (0x5A0 ≤ st.unit ∧ st.unit < 0x5B0)
  | 0xE => decide (st.unit < 9)
  | _ => st.unit == 0

/-- 0x010C. -/
def Exam.case010C (e : Exam) : CaseOut :=
  failAt e.steps fun x => !unitOk x.2.2 || (x.2.2.kind == 2 && decide (1024 ≤ mendHarness (stepParam e.img x.2.2 16)))

/-! ## Class 0x02 -/

/-- 0x0201: the set's harnesses have fewer heddles than the recipe's tensors in heddles need. -/
def Exam.case0201 (e : Exam) : CaseOut :=
  let r := e.recipe
  let aux := e.set.aux.map (·.tensor)
  let need := sumNat ((List.range (recTensors r)).map (fun k =>
    if aux.contains k then 0 else ceilDiv (tenRows r k) 512 * ceilDiv (tenCols r k) (outCols (tenWidth r k))))
  failIf (decide (64 * e.set.harnesses.length < need))

/-- 0x0202. -/
def State.case0202 (s : State) (e : Exam) : CaseOut :=
  failIf (!s.copiesFit e.c e.img e.set e.cands || (List.range 4).any (fun l =>
    let here := (planRegions e.img).filter (fun r => decide (loomStore l ≤ r.base ∧ r.base < loomStore l + loomStoreSize))
    decide (loomStoreSize < 64 * planListCount e.img l + 96 * (copyRows e.set e.cands l).length + sumNat (here.map (·.size)))))

/-- 0x0203. -/
def State.case0203 (s : State) (e : Exam) : CaseOut :=
  let ts := (s.srv.streams.filter (fun t => t.2.opened && t.2.ctx == e.c)).map (·.1)
  failIf (ts.any (fun t => e.attnLayers != 0 && decide (2097152 < s.smapPtBase t + e.attnLayers * s.smapPages t)))

/-- 0x0204. -/
def Exam.case0204 (e : Exam) : CaseOut :=
  failIf (decide (4096 < planRegionCount e.img) || (List.range 5).any (fun l => decide (262144 < planListCount e.img l)))

/-- Batch slots of a plan. -/
def planSlots (img : Bytes) : Nat :=
  sumNat (((planList img 4).filter (fun x => x.2.kind == 0xB)).map (fun x => batchCount (stepParam img x.2 16)))

/-- 0x0205. -/
def State.case0205 (s : State) (e : Exam) : CaseOut :=
  let knots := sumNat (((planRegions e.img).filter (fun r => r.type == 1)).map (fun r => r.size / 8))
  failIf (decide (65536 < knots) || decide (65536 < planSlots e.img + sumNat (e.others.map (fun c => planSlots (s.image c)))))

/-! ## Class 0x03 -/

/-- A binary32 number that is finite and above 0. -/
def positive32 (x : F32) : Bool := isFinite x && f32Lt f32Zero x

/-- A recipe field is out of range or inconsistent (R99); a device-local address has 48 bits, that of the flag table is 32-byte
aligned (R96). -/
def recipeBad (r : Bytes) (cands : List (Nat × List Nat)) : Bool :=
  let asc (l : List Nat) : Bool := (l.zip l.tail).all (fun p => decide (p.1 < p.2))
  let layerBad (i : Nat) : Bool :=
    let o := layerOff i
    let ch := layChannels r i
    let cl := ((cands.find? (fun x => x.1 == i)).map (·.2)).getD []
    decide (2 ^ 48 ≤ layCandList r i) || !(layActWidth r i == 4 || layActWidth r i == 8) || decide (15 < layActSpan r i) || ch % 64 != 0 || decide (ch < 64 ∨ 65536 < ch) ||
      (laySlotsRaw r i != 0xFFFF && decide (512 < laySlotsRaw r i ∨ ch / 8 < laySlotsRaw r i)) ||
      decide (4 * laySlots r i < layCands r i ∨ 2048 < layCands r i) || !zeros r (o + 6) 2 || !zeros r (o + 0x1C) 4 ||
      !positive32 (layThreshold r i) || !asc cl || cl.any (fun x => decide (ch ≤ x)) || layCount r i == 0 ||
      decide (recTensors r < layFirst r i + layCount r i) ||
      (List.range (layCount r i)).any (fun k => tenLayer r (layFirst r i + k) != i)
  let tensorBad (k : Nat) : Bool :=
    decide (tenWidth r k < 1 ∨ 8 < tenWidth r k) || decide (15 < tenSpan r k) || decide (recLayers r ≤ tenLayer r k) ||
      !positive32 (tenScale r k) || tenRows r k != layChannels r (tenLayer r k) || tenCols r k == 0
  decide (r.length < recSize r) || recVersion r != 1 || decide (recLayers r < 1 ∨ 16384 < recLayers r) || recTensors r == 0 ||
    decide (2 ^ 48 ≤ recFlagTable r) || recFlagTable r % 32 != 0 || !zeros r 6 2 || !zeros r 0x10 0x30 || (List.range (recLayers r)).any layerBad || (List.range (recTensors r)).any tensorBad

/-- Twill: the second half of the recipe repeats the first (R271). -/
def twinRecipe (r : Bytes) (cands : List (Nat × List Nat)) : Bool :=
  let lh := recLayers r / 2
  let th := recTensors r / 2
  let list (i : Nat) : List Nat := ((cands.find? (fun x => x.1 == i)).map (·.2)).getD []
  recLayers r % 2 == 0 && recTensors r % 2 == 0 &&
    (List.range lh).all (fun i =>
      slice r (layerOff i) 0x10 == slice r (layerOff (i + lh)) 0x10 && list i == list (i + lh) &&
        layFirst r (i + lh) == layFirst r i + th && layCount r (i + lh) == layCount r i && slice r (layerOff i + 0x1C) 4 == slice r (layerOff (i + lh) + 0x1C) 4) &&
    (List.range th).all (fun k =>
      slice r (tensorOff r k) 2 == slice r (tensorOff r (k + th)) 2 && tenLayer r (k + th) == tenLayer r k + lh &&
        slice r (tensorOff r k + 4) 12 == slice r (tensorOff r (k + th) + 4) 12)

/-- 0x0301. -/
def Exam.case0301 (e : Exam) (twill : Bool) : CaseOut :=
  failIf (recipeBad e.recipe e.cands || (twill && !twinRecipe e.recipe e.cands))

/-- 0x0302: Table 5.2. -/
def Exam.case0302 (e : Exam) : CaseOut :=
  failAt e.attns fun x =>
    let p := stepParam e.img x.2.2 64
    let a := e.attn x
    let store (y : Nat) : Bool := inLoomStore (addrLocal y) 1
    decide (1 < byteAt p 0) || a.g == 0 || decide (16 < a.g) || !(a.keyWidth == 8 || a.keyWidth == 4) ||
      decide ((if a.keyWidth = 4 then 2 else 3) < a.headroom) || !positive32 a.smScale || (a.mask != 0 && !store a.mask) ||
      (if a.latent then
        a.kvHeads != 1 || a.dim % 64 != 0 || decide (a.dim < 64 ∨ 1024 < a.dim) || !(a.rope == 0 || a.rope == 64 || a.rope == 128) ||
          !store a.wUk || !store a.wUv
       else
        decide (a.kvHeads < 1 ∨ 62 < a.kvHeads) || !(a.dim == 64 || a.dim == 128 || a.dim == 192 || a.dim == 256) ||
          decide (3968 < a.kvHeads * a.dim) || a.rope != 0 || a.wUk != 0 || a.wUv != 0)

/-- 0x0303: e_wmin − W_ref of each contributor (R109). -/
def State.case0303 (s : State) (e : Exam) : CaseOut :=
  failAt (e.steps.filter (fun x => x.2.2.kind == 1)) fun x =>
    let w := mvmWref (stepParam e.img x.2.2 16)
    (e.selected x).any (fun g => (e.imageOf g).isSome && decide (s.imageWmin g < w ∨ w + 16 < s.imageWmin g))

/-- 0x0304. -/
def Exam.case0304 (e : Exam) : CaseOut :=
  failAt (e.steps.filter (fun x => x.2.2.kind == 3)) fun x =>
    let p := stepParam e.img x.2.2 32
    let f := fullFn p
    let n := fullN p
    decide (f < 1 ∨ 12 < f) || !(if f = 10 then [0, 5, 6, 7].contains (fullGlu p) else fullGlu p == 0) ||
      n % 64 != 0 || decide (n < 64 ∨ 65536 < n) || (if f = 3 ∨ f = 4 then !positive32 (fullEps p) else fullEps p != 0) ||
      (f != 1 && fullWref p != 0) || (f != 4 && fullAux2 p != 0)

/-- 0x0305. -/
def State.case0305 (s : State) (e : Exam) : CaseOut := failIf (s.sec.tableSet == 0 || planTableSet e.img != s.sec.tableSet)

/-- Some weight set of the context owns the heddle: its harness is in the set (R223). -/
def State.ownsHeddle (s : State) (c g : Nat) : Bool := (s.ctx c).sets.any (fun w => w.harnesses.contains (harnessOfHeddle g))

/-- Twill: the images of a twin tensor repeat its original's, on harnesses that no strand A tensor uses (R271). -/
def twinImages (w : WeightSet) : Bool :=
  let th := recTensors w.recipe / 2
  let of_ (k : Nat) : List (Nat × Nat × Nat) :=
    ((w.images.filter (fun i => i.tensor == k)).map (fun i => (i.rowFirst, i.colFirst, i.crc)))
  let strandA := (w.images.filter (fun i => decide (i.tensor < th))).map (fun i => harnessOfHeddle i.heddle)
  (List.range th).all (fun k =>
    (of_ k).length == (of_ (k + th)).length && (of_ k).all (fun x => (of_ (k + th)).contains x)) &&
    (w.images.filter (fun i => decide (th ≤ i.tensor))).all (fun i => !strandA.contains (harnessOfHeddle i.heddle))

/-- 0x0306. -/
def State.case0306 (s : State) (e : Exam) (twill : Bool) : CaseOut :=
  let r := e.recipe
  let off (lay ten : Nat) : Bool := decide (e.layers ≤ lay ∨ e.tensors ≤ ten) || tenLayer r ten != lay
  let bad (x : Listed) : Bool :=
    match x.2.2.kind with
    | 1 =>
      let p := stepParam e.img x.2.2 16
      off (mvmLayer p) (mvmTensor p) || mvmHeddles p == 0 ||
        (e.selected x).any (fun g => s.ownsHeddle e.c g && ((e.imageOf g).map (fun i => i.tensor)) != some (mvmTensor p))
    | 2 => let p := stepParam e.img x.2.2 16; off (mvmLayer p) (mvmTensor p)
    | 3 =>
      let p := stepParam e.img x.2.2 32
      decide (e.layers ≤ fullLayer p) || (fullFn p == 1 && off (fullLayer p) (fullTensor p))
    | 0xC => let p := stepParam e.img x.2.2 32; off (sampleLayer p) (sampleTensor p)
    | _ => false
  match failAt e.steps bad with
  | some v => some v
  | none => failIf (twill && !twinImages e.set)

/-! ## Class 0x04 -/

/-- 0x0401: LEN, query rows (Table 5.1), and mending that ends in time for the MVMs it serves (R104, R162). -/
def Exam.case0401 (e : Exam) (twill : Bool) : CaseOut :=
  failAt e.steps fun x =>
    let st := x.2.2
    let own := st.kind = 9 ∨ st.kind = 0xA ∨ st.kind = 0xB ∨ (fabricCode st ∧ planFabricShare e.img = 0)
    (!decide own && decide (st.len < e.work twill x)) ||
      (st.kind == 4 && decide ((if st.unit < 32 then 64 else 16) < e.rowsOf x)) ||
      (st.kind == 2 && e.steps.any (fun m =>
        let p := stepParam e.img st 16
        let q := stepParam e.img m.2.2 16
        m.2.2.kind == 1 && m.1 == x.1 && m.2.2.unit == mendHarness p && mvmTensor q == mvmTensor p && mvmLayer q == mvmLayer p &&
          m.2.2.slot == st.slot && meetsAt e.period { st with start := 0, len := 1 } { m.2.2 with start := 0, len := 1 } 0 &&
          decide (m.2.2.start + 4 * layActWidth e.recipe (mvmLayer q) + 6 < st.start + e.work twill x)))

/-- 0x0402. -/
def State.case0402 (s : State) (e : Exam) : CaseOut :=
  let lookups (x : Listed) : ℚ := (2 * (e.attn x).segCount * 256 : ℚ) / (max x.2.2.len 1 : Nat)
  match failAt e.attns (fun x => decide (x.2.2.len < 48 * (2 * (e.attn x).segCount))) with
  | some v => some v
  | none => failIf (decide ((planWalkerShare e.img : ℚ) < peakOf e.period (e.attns.map (fun x => (x.2.2, lookups x)))) ||
      decide (1024 < planWalkerShare e.img + sumNat (e.others.map (fun c => planWalkerShare (s.image c)))))

/-- The calibration windows of harness `h` lie more than 500,000 picks apart somewhere in the cycle (R56, R163). -/
def Exam.calApart (e : Exam) (cals : List PlanStep) : Bool :=
  let cyc := cycleOf cals
  let runs := sortBy (fun a b => decide (a.1 ≤ b.1)) ((List.range cyc).flatMap (fun n =>
    (cals.filter (fun st => runsIn st n)).map (fun st => (n * e.period + st.start, n * e.period + st.start + st.len))))
  match runs with
  | [] => true
  | r :: _ =>
    let next := runs.tail ++ [(r.1 + cyc * e.period, 0)]
    (runs.zip next).any (fun p => decide (p.1.2 + 500000 < p.2.1))

/-- 0x0403: of the steps that use a harness, the first whose harness lacks its windows. -/
def Exam.case0403 (e : Exam) : CaseOut :=
  failAt e.steps fun x =>
    (x.2.2.kind == 9 && decide (x.2.2.len < 48)) ||
      (listedUnits x.1 x.2.2).any (fun u => u.1 == 1 &&
        e.calApart ((e.steps.filter (fun y => y.2.2.kind == 9 && listedUnits y.1 y.2.2 == [u])).map (·.2.2)))

/-- The exam of another enabled plan, for its peak. -/
def State.examOf (s : State) (c : Nat) : Exam :=
  ⟨c, s.image c, (s.ctx c).cur, [], [], (s.ctx c).ctl.unitMap, ⟨[], []⟩⟩

/-- 0x0404: F counts as the peak of a plan that is always enabled (R165, R356). -/
def State.case0404 (s : State) (e : Exam) : CaseOut :=
  let others := (e.others.map (fun c => s.planPeak (s.examOf c))).foldl (· + ·) 0
  failIf (decide (((1000 * s.pwr.ceil : Nat) : ℚ) < 292000 + others + s.planPeak e))

/-- 0x0405. -/
def State.case0405 (s : State) (e : Exam) : CaseOut :=
  let hot (l : List Nat) : Bool := l.any (fun n => decide (380 ≤ s.used n))
  failIf (((e.harnesses.map tierOfHarness).eraseDups).any (fun t => hot (tierSensors t)) ||
    (List.range 4).any (fun l => planListCount e.img l != 0 && hot (baseSensors l)))

/-- 0x0406 at the check. -/
def State.case0406 (s : State) (e : Exam) : CaseOut :=
  failIf (e.harnesses.any (fun h => ((s.harness h).state == 0 || (s.harness h).reprogram) && !s.outOfUse 1 h && !s.tierInWindow (tierOfHarness h)))

/-- 0x0407. -/
def State.case0407 (s : State) (e : Exam) : CaseOut :=
  let share := planFabricShare e.img
  let fabric := e.steps.filter (fun x => fabricCode x.2.2)
  let links := (fabric.flatMap (fun x => fabricLinks x.1 x.2.2)).eraseDups
  let load (k : Nat × Nat) : ℚ := peakOf e.period ((fabric.filter (fun x => (fabricLinks x.1 x.2.2).any (fun y => y.1 == k))).map (fun x =>
    (x.2.2, (x.2.2.length : ℚ) / (max x.2.2.len 1 : Nat))))
  if share = 0 then failAt fabric (fun _ => true)
  else failIf (links.any (fun k => decide ((share * k.2 : ℚ) < 64 * load k.1)) ||
    decide (64 < share + sumNat (e.others.map (fun c => planFabricShare (s.image c)))))

/-- The shares of all enabled plans exceed 64/64, whether or not this plan uses the fabric. -/
def State.case0407Sum (s : State) (e : Exam) : CaseOut :=
  failIf (decide (64 < planFabricShare e.img + sumNat (e.others.map (fun c => planFabricShare (s.image c)))))

/-- 0x0408. -/
def Exam.case0408 (e : Exam) : CaseOut := failAt e.steps fun x => x.2.2.kind == 0xA && decide (x.2.2.len < 256)

/-! ## Class 0x05 -/

/-- The loom of a unit. -/
def unitLoom (u : Nat × Nat) : Nat := if u.1 = 7 then u.2 / 9 else u.2 / kindCount u.1

/-- 0x0501. -/
def State.case0501 (s : State) (e : Exam) : CaseOut :=
  if planDevice e.img then none
  else failAt e.steps fun x => (e.namedUnits x).any (fun u => s.outOfUse u.1 u.2 || s.disabled 9 (unitLoom u))

/-- 0x0502: spares, units of other plans; and heddles that no set of the context owns. -/
def State.case0502 (s : State) (e : Exam) : CaseOut :=
  let held (u : Nat × Nat) : Bool :=
    if u.1 = 7 then e.others.any (fun c => (planPorts (s.image c)).contains u.2) else (s.heldBy e.others u.1).contains u.2
  failAt e.steps fun x =>
    (!planDevice e.img && (e.namedUnits x).any (fun u => held u || (u.1 == 1 && s.isSpare u.2))) ||
      (planDevice e.img && (listedUnits x.1 x.2.2).any (fun u => u.1 == 7 && held u)) ||
      (x.2.2.kind == 1 && (e.selected x).any (fun g => !s.ownsHeddle e.c g)) ||
      (x.2.2.kind == 2 && (match e.harness x.1 (mendHarness (stepParam e.img x.2.2 16)) with
        | some h => !s.ownsHeddle e.c (h * 64)
        | none => false))

/-- 0x0503. -/
def State.case0503 (s : State) (e : Exam) : CaseOut := failIf (planDevice e.img && (s.mapUnits e).isNone)

/-- 0x0504. -/
def State.case0504 (s : State) (e : Exam) : CaseOut :=
  failAt e.steps fun x =>
    (decide (x.1 < 4) && s.troubled 9 x.1) ||
      (x.1 == 4 && (let d := stepDomain 4 x.2.2; s.troubled d.1 d.2)) ||
      (e.physUnits x).any (fun u => s.troubled u.1 u.2 || s.outOfUse u.1 u.2)

/-- 0x0505. -/
def State.case0505 (s : State) (e : Exam) : CaseOut := failIf (planDevice e.img != (s.ctx e.c).ctl.device)

/-! ## Class 0x06 -/

/-- The image with AUTH read as zero, and its tag under the content key (R172). -/
def authZero (img : Bytes) : Bytes := img.take 0x70 ++ List.replicate 16 0 ++ img.drop 0x80
def authTag (key img : Bytes) : Bytes := Config.gmac key ((sha256 (authZero img)).take 12) (authZero img)

/-- 0x0601. -/
def State.case0601 (s : State) (e : Exam) : CaseOut :=
  let k := (s.ctx e.c).ctl
  failIf (k.sealed && !(k.keyHeld && authTag k.key e.img == slice e.img 0x70 16))

/-- 0x0602: of the plan's regions, and of the words on this module that other places' ADD steps target (R169). -/
def State.case0602 (s : State) (e : Exam) : CaseOut :=
  let arenas := (s.kvt.arenas.filter (fun a => a.1 != e.c)).map (fun a => (a.2.base, a.2.frames * a.2.frameBlk * 4096))
  let regions := e.others.flatMap (fun c => (planRegions (s.image c)).map (fun r => (r.base, r.size)))
  let copies := (s.ctxNums.filter (fun d => d != e.c)).flatMap (fun d =>
    (s.ctx d).sets.flatMap (fun w => w.images.map (fun i => (patternAddr i.heddle, 0x9000))))
  let targets := (e.grp.windows.flatMap (·.2)).filterMap (fun w => if w.outbound then w.adds else none)
  failIf ((((planRegions e.img).map (fun r => (r.base, r.size))) ++ targets).any (fun r =>
    (arenas ++ regions ++ copies).any (fun x => overlaps r.1 r.2 x.1 x.2)))

/-- 0x0603. -/
def State.case0603 (s : State) (e : Exam) : CaseOut := failIf ((s.ctx e.c).ctl.sealed && s.sec.debug)

/-! ## Class 0x07 -/

def Exam.grouped (e : Exam) : Bool := decide (1 < planPlaces e.img)

/-- 0x0701, 0x0702, 0x0703. -/
def Exam.case0701 (e : Exam) : CaseOut := failIf (e.grouped && e.grp.members.any (fun m => m.profile != arithProfile))
def State.case0702 (s : State) (e : Exam) : CaseOut := failIf (e.grouped && e.grp.members.any (fun m => m.fwForm != s.fwForm))
def Exam.case0703 (e : Exam) : CaseOut := failIf (e.grouped && (planPorts e.img).any (fun p => !e.windowsMatch p))

/-- Place that a step's remote end names. -/
def farPlace (st : PlanStep) : Nat := addrPlace (if st.kind = 6 then st.src else st.dst)

/-- 0x0704: a port not Up, or a place that is not its peer's (R339). -/
def State.case0704 (s : State) (e : Exam) : CaseOut :=
  failAt e.steps fun x =>
    let st := x.2.2
    let moves := st.kind = 5 ∨ st.kind = 6 ∨ st.kind = 7
    (listedUnits x.1 st).any (fun u => u.1 == 7 && ((s.port u.2).state != 2 ||
      (st.kind != 0xE && Tab.getD 0 (s.port u.2).planPlace (planGroup e.img) != farPlace st + 1))) ||
      (decide moves && decide (8 < st.unit) && farPlace st != planPlace e.img)

/-- What the latest PLAN_ID from place `p` of group `g` reported, else what the exchange of the check did. -/
def State.memberTime (s : State) (g : Nat) (m : MemberView) : Nat × Bool :=
  match (s.ports.flatMap (fun x => x.2.peerTime)).find? (fun r => r.1 == g && r.2.1 == m.place) with
  | some r => r.2.2
  | none => (m.leader, m.aligned)

/-- 0x0705. -/
def State.case0705 (s : State) (e : Exam) : CaseOut :=
  let here := s.time.state == 1 || s.time.state == 2
  let other (m : MemberView) : Bool :=
    let t := s.memberTime (planGroup e.img) m
    !t.2 || t.1 != s.timeLeader
  failIf (e.grouped && (!here || e.grp.members.any other))

/-- 0x0706, 0x0708. -/
def State.case0706 (s : State) (e : Exam) : CaseOut :=
  failAt e.steps fun x => (listedUnits x.1 x.2.2).any (fun u => u.1 == 7 && decide (planHop e.img < (s.port u.2).hop))
def Exam.case0708 (e : Exam) : CaseOut :=
  failAt e.steps fun x => (listedUnits x.1 x.2.2).any (fun u => u.1 == 7 && decide (32 ≤ u.2))

/-- 0x0709. -/
def Exam.case0709 (e : Exam) : CaseOut :=
  let places := planPlace e.img :: e.grp.members.map (·.place)
  failIf (decide (planPlaces e.img ≤ planPlace e.img) || (e.grouped &&
    (e.grp.members.any (fun m => m.group != planGroup e.img || !m.reachable) || places.eraseDups.length != places.length ||
      places.length != planPlaces e.img)))

/-! ## The check -/

/-- The first case that fails, in ascending code order: code and step. -/
def firstCase : List (Nat × CaseOut) → Option (Nat × Option (Nat × Nat))
  | [] => none
  | (_, none) :: t => firstCase t
  | (c, some v) :: _ => some (c, v)

/-- The subject of the check of image `img` with set `w` in context `c`. -/
def State.exam (s : State) (c : Nat) (img : Bytes) (w : WeightSet) (grp : GroupView) : Exam :=
  let others := s.ctxNums.filter (fun d => d != c && decide (2 ≤ (s.ctx d).ctl.state))
  let e : Exam := ⟨c, img, w, s.readCands w.recipe, others, [], grp⟩
  { e with units := if planDevice img then (s.mapUnits e).getD [] else [] }

/-- The check of image `img` with set `w` in context `c` (R171). Without an image only 0x010B can be judged. -/
def State.planCheck (s : State) (c : Nat) (img : Option Bytes) (w : WeightSet) (twill : Bool) (grp : GroupView) :
    Option (Nat × Option (Nat × Nat)) :=
  match img with
  | none => some (0x010B, none)
  | some bytes =>
    let e := s.exam c bytes w grp
    firstCase (
      [(0x0101, e.case0101 twill), (0x0102, e.case0102), (0x0103, e.case0103), (0x0104, e.case0104), (0x0105, e.case0105),
       (0x0106, e.case0106), (0x0107, e.case0107), (0x0108, e.case0108), (0x0109, s.case0109 e), (0x010A, e.case010A),
       (0x010B, s.case010B c img w), (0x010C, e.case010C)] ++
      [(0x0201, e.case0201), (0x0202, s.case0202 e), (0x0203, s.case0203 e), (0x0204, e.case0204), (0x0205, s.case0205 e),
       (0x0301, e.case0301 twill), (0x0302, e.case0302), (0x0303, s.case0303 e), (0x0304, e.case0304), (0x0305, s.case0305 e),
       (0x0306, s.case0306 e twill)] ++
      [(0x0401, e.case0401 twill), (0x0402, s.case0402 e), (0x0403, e.case0403), (0x0404, s.case0404 e), (0x0405, s.case0405 e),
       (0x0406, s.case0406 e), (0x0407, s.case0407 e), (0x0407, s.case0407Sum e), (0x0408, e.case0408)] ++
      [(0x0501, s.case0501 e), (0x0502, s.case0502 e), (0x0503, s.case0503 e), (0x0504, s.case0504 e), (0x0505, s.case0505 e),
       (0x0601, s.case0601 e), (0x0602, s.case0602 e), (0x0603, s.case0603 e)] ++
      [(0x0701, e.case0701), (0x0702, s.case0702 e), (0x0703, e.case0703), (0x0704, s.case0704 e), (0x0705, s.case0705 e),
       (0x0706, s.case0706 e), (0x0708, e.case0708), (0x0709, e.case0709)])

/-- The map that a passed check gives a device-placed plan. -/
def State.checkedMap (s : State) (c : Nat) (img : Bytes) (w : WeightSet) : List (Nat × Nat × Nat × Nat) :=
  (s.exam c img w ⟨[], []⟩).units

/-! ## Arming (Table 6.13) -/

/-- Harnesses of a context's plan. -/
def State.planHarnesses (s : State) (c : Nat) : List Nat :=
  ((planSteps (s.image c)).flatMap (fun x =>
    ((listedUnits x.1 (s.physStep c x.1 x.2.2)).filterMap (fun u => if u.1 = 1 then some u.2 else none)) ++
      (if x.1 < 4 ∧ x.2.2.kind = 2 then [x.1 * 1024 + s.physUnit c 1 x.1 (mendHarness (stepParam (s.image c) x.2.2 16))] else []))).eraseDups

/-- Zero every knot in the plan's knot regions (R152). -/
def State.zeroKnots (s : State) (c : Nat) : State :=
  let rs := (planRegions (s.image c)).filter (fun r => r.type == 1)
  let s := State.each rs (fun s r => s.write r.base (List.replicate r.size 0)) s
  { s with obs := { s.obs with
    knotLog := s.obs.knotLog.filter (fun k => !rs.any (fun r => inside k.1 8 r.base r.size)) } }

/-- Enter Arming: harnesses to Active with a full trim, copies built, knots zeroed. -/
def State.arm (s : State) (c : Nat) : State :=
  let hs := s.planHarnesses c
  let s := State.each hs (fun s h => if (s.harness h).state = 1 then s.fullTrim h else s.reqActive h) s
  let s := (s.buildCopies c (s.image c) (s.ctx c).cur).zeroKnots c
  s.modCtl c fun k => { k with state := 2 }

/-- CHECK_COMPLETE: the check that was started first ends (R170, R171). The time since its ENABLE write is at most 20 ms and
1 ms per 16,384 step records. -/
def execCheckComplete (c : Fin 256) (grp : GroupView) (s : State) : Host.Outcome State Fault Refusal :=
  .next (
    let x := s.ctx c.val
    let first := s.ctxs.all (fun d => d.2.ctl.state != 1 || decide (x.ctl.checkFrom ≤ d.2.ctl.checkFrom))
    if s.ready && x.ctl.state == 1 && first then
      let cands := s.readCands x.cur.recipe
      match s.planCheck c.val x.ctl.plan x.cur x.ctl.twillReq grp with
      | some (code, step) =>
        (s.failCtx c.val code).modCtl c.val fun k =>
          { k with reasonList := (step.map (·.1)).getD 0, reasonStep := step.map (·.2) }
      | none =>
        let map := s.checkedMap c.val (s.image c.val) x.cur
        let s := s.modCtl c.val fun k => { k with
          unitMap := map, candidates := cands, twillEff := k.twillReq, maskEff := k.maskReq, strictEff := k.strictReq
          strictMaskEff := k.strictMaskReq }
        s.arm c.val
    else s)

end Sys2Proof.Machine
end

