-- ==== Sys2Proof/Machine/Weights.lean ====
section
/-! DEFINITION. Loading weights: contexts (R221), keys (R226, R227), sealed streams (R228), open tensors (R230-R233), the
programming engine (R234-R238), commit (R239), restore (R242), and their commands (Table 9.5). -/

namespace Sys2Proof.Machine

/-! ## Records -/

/-- A record to be placed: the header of Table 9.1, its first 32 bytes as they stand, and the image or tensor bytes. -/
structure LoadRec where
  tensor : Nat
  loom : Nat
  tier : Nat
  harness : Nat
  heddle : Nat
  rowFirst : Nat
  rowsUsed : Nat
  colFirst : Nat
  colsUsed : Nat
  copies : List Nat
  clean : Bool
  head : Bytes
  data : Bytes
deriving DecidableEq, Repr

/-- Parse a record header (Table 9.1). -/
def parseRec (h data : Bytes) : LoadRec :=
  { tensor := le h 0 2, loom := byteAt h 2, tier := byteAt h 3, harness := byteAt h 4, heddle := byteAt h 5, rowFirst := le h 8 4
    rowsUsed := le h 0xC 2, colFirst := le h 0x10 4, colsUsed := le h 0x14 2
    copies := (List.range 4).map (fun i => le h (0x20 + 8 * i) 8)
    clean := zeros h 6 2 && zeros h 0xE 2 && zeros h 0x16 10, head := slice h 0 32, data := data }

/-- A heddle record's header fields are as Table 9.1 gives them and agree with the recipe (R237). -/
def LoadRec.fits (r : LoadRec) (recipe : Bytes) : Bool :=
  r.clean && decide (r.tensor < recTensors recipe) && decide (r.loom < 4 ∧ r.tier < 8 ∧ r.harness < 128 ∧ r.heddle < 64) &&
    r.rowFirst % 512 == 0 && r.rowsUsed % 64 == 0 && decide (64 ≤ r.rowsUsed ∧ r.rowsUsed ≤ 512) &&
    decide (1 ≤ r.colsUsed ∧ r.colsUsed ≤ outCols (tenWidth recipe r.tensor)) &&
    decide (r.rowFirst + r.rowsUsed ≤ tenRows recipe r.tensor ∧ r.colFirst + r.colsUsed ≤ tenCols recipe r.tensor) &&
    r.copies.all (· == 0)

/-- COPY addresses lie in the loom store of their loom, or are 0. -/
def copiesOk (cs : List Nat) (len : Nat) : Bool :=
  cs.zipIdx.all (fun x => x.1 == 0 || inside x.1 len (loomStore x.2) loomStoreSize)

/-- Exponents of the used blocks of an image. -/
def usedExps (image : Bytes) (rowsUsed colsUsed : Nat) : List Nat :=
  (List.range 8).flatMap (fun d => ((List.range 32).filter (fun j => decide (64 * d < rowsUsed ∧ 16 * j < colsUsed))).map
    (fun j => byteAt image (32768 + 32 * d + j)))

/-- The image breaks R79, or, when sealed, its tensor's span (R81). -/
def imageBad (sealed_ : Bool) (span : Nat) (es : List Nat) : Bool :=
  es.contains 0xFF || (sealed_ && es.any (fun e => decide (e + span < maxNat 0 es)))

/-- The set already holds the heddle, or some of the record's output columns in its rows or in an auxiliary record (R237). -/
def WeightSet.taken (w : WeightSet) (g : Nat) (r : LoadRec) : Bool :=
  w.aux.any (fun t => t.tensor == r.tensor) || w.images.any (fun i => i.heddle == g || (i.tensor == r.tensor && overlaps i.rowFirst i.rowsUsed r.rowFirst r.rowsUsed &&
    overlaps i.colFirst i.colsUsed r.colFirst r.colsUsed))

/-- Generation that the pattern copies of a set carry (R240). -/
def State.patternGen (s : State) (c : Nat) (staged : Bool) : Nat :=
  let x := s.ctx c
  (if !staged && x.cur.committed then x.ctl.gen else x.ctl.gen + 1) % 65536

/-- A pattern copy's header and image (R240). -/
def patternBytes (c width gen : Nat) (r : LoadRec) : Bytes :=
  let es := usedExps r.data r.rowsUsed r.colsUsed
  let wmin := es.foldl min (es.headD 0)
  r.head ++ [BitVec.ofNat 8 c, BitVec.ofNat 8 width, BitVec.ofNat 8 wmin, 0] ++ toLe 4 (crc32c (slice r.data 0 33024)).toNat ++
    toLe 2 gen ++ List.replicate 22 0 ++ slice r.data 0 33024

/-- A load as far as it is placed: the set after it, the heddles to write, the auxiliary blocks to write. -/
structure Placed where
  set : WeightSet
  writes : List (Nat × ImageAt × Bytes)
  aux : List (Nat × Bytes)
deriving DecidableEq, Repr

/-- Place one heddle record: the status that ends the load, or what is placed (R225, R237). -/
def State.placeHeddle (s : State) (c : Nat) (staged : Bool) (p : Placed) (r : LoadRec) : Except Nat Placed :=
  let k := (s.ctx c).ctl
  let n := r.loom * 1024 + r.tier * 128 + r.harness
  let recipe := p.set.recipe
  if !r.fits recipe || imageBad k.sealed (tenSpan recipe r.tensor) (usedExps r.data r.rowsUsed r.colsUsed) then .error 0x15
  else
    let at_ : Except Nat (Nat × WeightSet) :=
      if k.device then (match s.mapHarness p.set n with | some x => .ok x | none => .error 0x34)
      else if s.isSpare n || s.outOfUse 1 n then .error 0x17
      else if p.set.harnesses.contains n then .ok (n, p.set)
      else if s.harnessUsed n || (s.harness n).zeroing then .error 0x17
      else .ok (n, { p.set with harnesses := p.set.harnesses ++ [n] })
    match at_ with
    | .error e => .error e
    | .ok (h, w) =>
      let g := h * 64 + r.heddle
      if w.taken g r then .error 0x15
      else
        let bytes := patternBytes c (tenWidth recipe r.tensor) (s.patternGen c staged) r
        let i : ImageAt := ⟨g, r.tensor, r.rowFirst, r.rowsUsed, r.colFirst, r.colsUsed, le bytes 0x24 4⟩
        .ok { p with set := { w with images := w.images ++ [i] }, writes := p.writes ++ [(tierOfHarness h, i, bytes)] }

/-- Bytes of an auxiliary tensor (R224). -/
def auxSize (recipe : Bytes) (k : Nat) : Nat := tenCols recipe k * (tenRows recipe k + tenRows recipe k / 64)

/-- Place one auxiliary tensor at the next 4 KiB boundary of the area (R233); one whose columns the set already holds is refused
(R237). -/
def State.placeAux (s : State) (c : Nat) (p : Placed) (tensor : Nat) (copies : List Nat) (data : Bytes) : Except Nat Placed :=
  let x := s.ctx c
  let recipe := p.set.recipe
  let n := auxSize recipe tensor
  let ends := ((x.sets ++ [p.set]).flatMap (·.aux)).map (fun t => t.addr + t.length)
  let a := roundUp (maxNat x.ctl.auxBase ends) 4096
  let holds := p.set.aux.any (fun t => t.tensor == tensor) || p.set.images.any (fun i => i.tensor == tensor)
  if tenWidth recipe tensor ≠ 8 ∨ copiesOk copies n = false ∨ holds = true then .error 0x15
  else if x.ctl.auxBase + x.ctl.auxSize < a + n then .error 0x35
  else .ok { p with set := { p.set with aux := p.set.aux ++ [⟨tensor, a, n, copies⟩] }, aux := p.aux ++ [(a, slice data 0 n)] }

/-- Place records in turn, ending at the first that fails. -/
def placeEach {α : Type} (f : Placed → α → Except Nat Placed) : List α → Placed → Except Nat Placed
  | [], p => .ok p
  | r :: t, p => match f p r with
    | .error e => .error e
    | .ok q => placeEach f t q

/-- The load would leave a tier with fewer free harnesses than its spare count (R244). -/
def State.sparesShort (s : State) (before after : WeightSet) : Bool :=
  let new := after.harnesses.filter (fun h => !before.harnesses.contains h)
  ((new.map tierOfHarness).eraseDups).any (fun t =>
    decide ((s.freeOfTier t).length < s.arr.spareCfg + (new.filter (fun h => tierOfHarness h == t)).length))

/-! ## Writing (R234, R236, R238) -/

/-- Write one heddle through its pattern copy. -/
def State.writeHeddle (s : State) (w : Nat × ImageAt × Bytes) : State :=
  let g := w.2.1.heddle
  ((s.wakeHarness (harnessOfHeddle g)).unitWrite (patternAddr g) (padTo 0 0x9000 w.2.2)).programHeddle g

/-- The load command ends: WGT_LOAD_STAT and the mailbox show its status. -/
def State.loadDone (s : State) (m c status : Nat) (tier : Option Nat) (res : List Nat) : State :=
  (s.modCtl c fun k => { k with loadLast := status, loadTier := tier }).complete m status res

/-- Install what a load placed, write what its tiers let it write, and hold the rest. -/
def State.runLoad (s : State) (m c : Nat) (staged : Bool) (before : WeightSet) (p : Placed) (res : List Nat) : State :=
  if s.sparesShort before p.set then s.loadDone m c 0x34 none []
  else
    let s := s.modCtx c fun x => if staged then { x with staged := some p.set } else { x with cur := p.set }
    let s := s.claimSet c (if staged then 2 else 1)
      { p.set with harnesses := p.set.harnesses.filter (fun h => !before.harnesses.contains h) }
    let s := State.each p.aux (fun s a => s.unitWrite a.1 a.2) s
    let now := p.writes.filter (fun w => s.tierInWindow w.1)
    let rest := p.writes.filter (fun w => !s.tierInWindow w.1)
    let s := State.each now (fun s w => s.writeHeddle w) s
    if rest.isEmpty then s.loadDone m c 0 none res
    else s.modCtx c fun x => { x with held := some ⟨m, (rest.map (·.1)).eraseDups, s.clk.wall, staged, before, p.set, rest, res⟩ }

/-- The set that a load with TARGET `t` goes to: none where the load is refused with 0x11 (R222, R245). -/
def State.loadTarget (s : State) (c t : Nat) : Option WeightSet :=
  let x := s.ctx c
  if !x.ctl.opened || x.held.isSome then none
  else if t = 0 then (if x.cur.committed || x.ctl.state != 0 then none else some x.cur)
  else if t = 1 then x.staged.bind (fun w => if w.committed then none else some w)
  else none

/-! ## Sealed streams (R228) -/

/-- Chunk `i` as the crypto engine reads it: from the command's host data, or from the transfer buffer. -/
def State.chunkAt (s : State) (m : Nat) (b : Mailbox) (addr : Nat) (cs : List Chunk) (i : Nat) : Chunk :=
  let c := cs.getD i ⟨[], []⟩
  if viaXfer m b then
    let a := xferBase + addr + i * 4194320
    ⟨s.read a c.data.length, s.read (a + c.data.length) 16⟩
  else ⟨c.data, slice c.tag 0 16⟩

/-- The plaintext of a sealed stream; none when a tag fails or a chunk has another length than R228 gives it. -/
def openStream (key : Bytes) (streamId count : Nat) (get : Nat → Chunk) : Option Bytes :=
  (List.range count).foldl (fun (acc : Option Bytes) i =>
    match acc with
    | none => none
    | some t =>
      let c := get i
      let full := decide (c.data.length = 4194304 ∨ (i + 1 = count ∧ c.data.length < 4194304))
      if full then
        (Config.gcmOpen key (toLe 4 i ++ toLe 8 streamId) (toLe 8 streamId ++ toLe 4 i ++ toLe 4 count) c.data c.tag).map (t ++ ·)
      else none) (some [])

/-- Recipe, heddle records and auxiliary records of a stream's plaintext; none when it is malformed. -/
def splitStream (t : Bytes) : Option (Bytes × List LoadRec × List LoadRec) :=
  let n := le t 4 4
  let hs := le t 8 4
  let as := le t 0xC 4
  let recipe := slice t 64 n
  let base := 64 + roundUp n 64
  let heddles := (List.range hs).map (fun i => parseRec (slice t (base + 33088 * i) 64) (slice t (base + 33088 * i + 64) 33024))
  let auxes := (List.range as).foldl (fun (acc : Nat × List LoadRec) _ =>
    let h := slice t acc.1 64
    let size := auxSize recipe (le h 0 2)
    (acc.1 + 64 + size, acc.2 ++ [parseRec h (slice t (acc.1 + 64) size)])) (base + 33088 * hs, [])
  if le t 0 2 = 1 ∧ zeros t 2 2 = true ∧ zeros t 0x10 0x30 = true ∧ auxes.1 ≤ t.length then some (recipe, heddles, auxes.2) else none

/-- An auxiliary record's header (R224, R237). Its fields lie in the ranges of Table 9.1, but that ROWS_USED and COLS_USED, which
say what a heddle holds, may also be 0 (DEDUCED: the table does not say that they apply to an auxiliary record). -/
def auxClean (recipe : Bytes) (r : LoadRec) : Bool :=
  r.clean && r.loom == 0xFF && r.tier == 0 && decide (r.tensor < recTensors recipe ∧ r.harness < 128 ∧ r.heddle < 64) &&
    r.rowFirst % 512 == 0 && r.rowsUsed % 64 == 0 && decide (r.rowsUsed ≤ 512 ∧ r.colsUsed ≤ outCols (tenWidth recipe r.tensor)) &&
    decide (r.rowFirst + r.rowsUsed ≤ tenRows recipe r.tensor ∧ r.colFirst + r.colsUsed ≤ tenCols recipe r.tensor)

/-- Place a whole sealed stream in a set. -/
def State.placeStream (s : State) (c : Nat) (staged : Bool) (w : WeightSet) (t : Bytes) : Except Nat (Placed × Nat × Nat) :=
  match splitStream t with
  | none => .error 0x15
  | some (recipe, hs, as) =>
    if !w.recipe.isEmpty && w.recipe != recipe then .error 0x15
    else if as.any (fun r => !auxClean recipe r) then .error 0x15
    else
      match placeEach (s.placeHeddle c staged) hs ⟨{ w with recipe := recipe }, [], []⟩ with
      | .error e => .error e
      | .ok p => match placeEach (fun p r => s.placeAux c p r.tensor r.copies r.data) as p with
        | .error e => .error e
        | .ok p => .ok (p, hs.length, as.length)

/-- WGT_LOAD_SEALED. -/
def execWgtLoadSealed (m : Fin 16) (chunks : List Chunk) (s : State) : Host.Outcome State Fault Refusal :=
  .next (s.command m.val 0x1003 fun b s =>
    let c := b.arg 0
    let t := b.arg 1
    let k := (s.ctx c).ctl
    if 255 < c then s.complete m.val 0x11 []
    else if (s.ctx c).held.isSome && (s.ctx c).held.map (·.mbx) == some m.val then s
    else match s.loadTarget c t with
      | none => s.loadDone m.val c 0x11 none []
      | some w =>
        if !k.sealed || pastXfer m.val b (b.arg2 2) (b.arg 6 * 4194320) then s.loadDone m.val c 0x11 none []
        else if !k.keyHeld then s.loadDone m.val c 0x16 none []
        else match openStream k.key (b.arg2 4) (b.arg 6) (s.chunkAt m.val b (b.arg2 2) chunks) with
          | none => s.loadDone m.val c 0x16 none []
          | some plain => match s.placeStream c (t == 1) w plain with
            | .error e => s.loadDone m.val c e none []
            | .ok (p, h, a) => s.runLoad m.val c (t == 1) w p [h, a])

/-! ## Open tensors (R230-R233) -/

/-- Bits per element of an open format. -/
def formatBits (f : Nat) : Nat := if f = 1 ∨ f = 2 then 16 else if f = 5 ∨ f = 6 then 6 else if f = 7 then 4 else 8
def formatMx (f : Nat) : Bool := decide (3 ≤ f ∧ f ≤ 8)

/-- The element number `i` of packed elements of `w` bits, low bits first (R231). -/
def packedElem (w : Nat) (bs : Bytes) (i : Nat) : Nat := fld (le bs (w * i / 8) 3) (w * i % 8) w

/-- A source element as binary32 (Table 9.4). -/
def sourceElem (f : Nat) (scale : Nat) (srcScale : F32) (v : Nat) : F32 :=
  let mx (x : F32) : F32 := if scale = 0xFF then qnan x x else f32Scale x ((scale : Int) - 127)
  match f with
  | 1 => narrowToF32 5 10 15 false v
  | 2 => BitVec.ofNat 32 (v * 65536)
  | 3 => mx (if v % 128 = 127 then qnan 0x7FC00000 0x7FC00000 else narrowToF32 4 3 7 true v)
  | 4 => mx (narrowToF32 5 2 15 false v)
  | 5 => mx (narrowToF32 3 2 3 true v)
  | 6 => mx (narrowToF32 2 3 1 true v)
  | 7 => mx (narrowToF32 2 1 1 true v)
  | 8 => mx (f32Scale (f32OfInt (signed 8 v)) (-6))
  | _ => f32Mul (f32OfInt (signed 8 v)) srcScale

/-- The descriptor of Table 9.3. -/
structure OpenDesc where
  tensor : Nat
  format : Nat
  target : Nat
  srcScale : F32
  srcAddr : Nat
  scaleAddr : Nat
  tileMap : Nat
  digest : Bytes
  copies : List Nat
deriving DecidableEq, Repr

def parseDesc (d : Bytes) : OpenDesc :=
  { tensor := le d 0 2, format := byteAt d 2, target := byteAt d 3, srcScale := BitVec.ofNat 32 (le d 4 4), srcAddr := le d 8 8
    scaleAddr := le d 0x10 8, tileMap := le d 0x18 8, digest := slice d 0x20 32
    copies := (List.range 4).map (fun i => le d (0x40 + 8 * i) 8) }

/-- R230: the descriptor is invalid. -/
def OpenDesc.bad (d : OpenDesc) : Bool :=
  decide (d.format < 1 ∨ 9 < d.format ∨ 1 < d.target) || (if d.format = 9 then !positive32 d.srcScale else d.srcScale != 0) ||
    (formatMx d.format == (d.scaleAddr == 0)) || (d.tileMap != 0 && d.copies.any (· != 0))

/-- The host data of an open load as the module reads it: elements, scales, tile map. -/
def State.openData (s : State) (m : Nat) (b : Mailbox) (recipe : Bytes) (d : OpenDesc) (data : OpenData) : Bytes × Bytes × Bytes :=
  let n := tenRows recipe d.tensor * tenCols recipe d.tensor
  let tiles := ceilDiv (tenRows recipe d.tensor) 512 * ceilDiv (tenCols recipe d.tensor) (outCols (tenWidth recipe d.tensor))
  (s.hostData m b d.srcAddr (ceilDiv (n * formatBits d.format) 8) data.elements,
    if formatMx d.format then s.hostData m b d.scaleAddr (ceilDiv n 32) data.scales else [],
    if d.tileMap = 0 then [] else s.hostData m b d.tileMap (4 * tiles) data.tileMap)

/-- Element (o, i) of the source as binary32, and its quotient by s_t (R84). -/
def OpenDesc.elem (d : OpenDesc) (recipe elements scales : Bytes) (o i : Nat) : F32 :=
  let n := o * tenRows recipe d.tensor + i
  sourceElem d.format (byteAt scales (n / 32)) d.srcScale (packedElem (formatBits d.format) elements n)
def OpenDesc.quot (d : OpenDesc) (recipe elements scales : Bytes) (o i : Nat) : F32 :=
  f32Div (d.elem recipe elements scales o i) (tenScale recipe d.tensor)

/-- Bytes of a heddle image (R82). -/
def imageBytes (q : List Nat × List Nat) : Bytes := q.1.flatMap (fun r => toLe 64 r) ++ q.2.flatMap (fun e => toLe 1 e)

/-- The heddle records of an open tensor, tile by tile (R232); none when an element or a quotient refuses it. -/
def OpenDesc.tiles (d : OpenDesc) (recipe elements scales map : Bytes) : Option (List LoadRec) :=
  let k := d.tensor
  let p := outCols (tenWidth recipe k)
  let na := ceilDiv (tenRows recipe k) 512
  let nb := ceilDiv (tenCols recipe k) p
  let ids := (List.range na).flatMap (fun a => (List.range nb).map (fun b => (a, b)))
  let make (x : Nat × Nat) : Option LoadRec :=
    let rows := min 512 (tenRows recipe k - 512 * x.1)
    let cols := min p (tenCols recipe k - p * x.2)
    let e := le map (4 * (x.1 * nb + x.2)) 4
    (quantTile (tenWidth recipe k) (tenSpan recipe k) rows cols (fun o r => d.quot recipe elements scales (p * x.2 + o) (512 * x.1 + r))).map
      fun q =>
        let head := toLe 2 k ++ toLe 1 (fld e 16 2) ++ toLe 1 (fld e 13 3) ++ toLe 1 (fld e 6 7) ++ toLe 1 (fld e 0 6) ++ toLe 2 0 ++
          toLe 4 (512 * x.1) ++ toLe 2 rows ++ toLe 2 0 ++ toLe 4 (p * x.2) ++ toLe 2 cols ++ List.replicate 42 0
        { parseRec head (imageBytes q) with clean := decide (e < 2 ^ 18) }
  ids.foldl (fun (acc : Option (List LoadRec)) x =>
    match acc, make x with
    | some l, some r => some (l ++ [r])
    | _, _ => none) (some [])

/-- An open auxiliary tensor: each column's integers, then its exponents (R233); none when refused. It lies in no heddle: the
largest exponent that its floor counts from is that of the whole tensor (DESIGN CHOICE: R84 names the blocks of a heddle). -/
def OpenDesc.aux (d : OpenDesc) (recipe elements scales : Bytes) : Option Bytes :=
  let k := d.tensor
  let nb := tenRows recipe k / 64
  let y := d.quot recipe elements scales
  let block (o j : Nat) : List F32 := (List.range 64).map (fun i => y o (64 * j + i))
  let ids := (List.range (tenCols recipe k)).flatMap (fun o => (List.range nb).map (fun j => (o, j)))
  if ids.any (fun x => (block x.1 x.2).any (fun v => !isFinite v)) then none
  else
    let es := floorExps (tenSpan recipe k) (ids.map (fun x => blockExp (largestAbs (block x.1 x.2) (fun _ => true)) 127))
    let e (o j : Nat) : Nat := es.getD (o * nb + j) 0
    some ((List.range (tenCols recipe k)).flatMap (fun o =>
      ((List.range (tenRows recipe k)).map (fun i => BitVec.ofNat 8 (weightBits 8 (e o (i / 64)) (y o i)))) ++
        (List.range nb).map (fun j => BitVec.ofNat 8 (e o j))))

/-- Global tiers that a tile map names. -/
def mapTiers (map : Bytes) : List Nat :=
  ((List.range (map.length / 4)).map (fun i => fld (le map (4 * i) 4) 16 2 * 8 + fld (le map (4 * i) 4) 13 3)).eraseDups

/-- Place an open tensor in a set: its status, or what is placed. -/
def State.placeOpen (s : State) (c : Nat) (staged : Bool) (w : WeightSet) (d : OpenDesc) (x : Bytes × Bytes × Bytes) : Except Nat Placed :=
  let (elements, scales, map) := x
  let p0 : Placed := ⟨w, [], []⟩
  if recTensors w.recipe ≤ d.tensor then .error 0x15
  else if sha256 (elements ++ scales) ≠ d.digest then .error 0x16
  else if d.tileMap = 0 then
    (if tenWidth w.recipe d.tensor ≠ 8 then .error 0x15
     else match d.aux w.recipe elements scales with
      | none => .error 0x15
      | some data => s.placeAux c p0 d.tensor d.copies data)
  else match d.tiles w.recipe elements scales map with
    | none => .error 0x15
    | some rs => placeEach (s.placeHeddle c staged) rs p0

/-- WGT_LOAD_OPEN. -/
def execWgtLoadOpen (m : Fin 16) (data : OpenData) (s : State) : Host.Outcome State Fault Refusal :=
  .next (s.command m.val 0x1004 fun b s =>
    let c := b.arg 0
    let d := parseDesc (s.hostData m.val b (b.arg2 1) 96 data.descriptor)
    if 255 < c then s.complete m.val 0x11 []
    else if (s.ctx c).held.isSome && (s.ctx c).held.map (·.mbx) == some m.val then s
    else if (s.ctx c).ctl.sealed || pastXfer m.val b (b.arg2 1) 96 || d.bad then s.loadDone m.val c 0x11 none []
    else match s.loadTarget c d.target with
      | none => s.loadDone m.val c 0x11 none []
      | some w =>
        let x := s.openData m.val b w.recipe d data
        let past := pastXfer m.val b d.srcAddr x.1.length || pastXfer m.val b d.scaleAddr x.2.1.length || pastXfer m.val b d.tileMap x.2.2.length
        let cold := sortBy (fun a b => decide (a ≤ b)) ((mapTiers x.2.2).filter (fun t => !s.tierInWindow t))
        if past then s.loadDone m.val c 0x11 none []
        else if !cold.isEmpty then s.loadDone m.val c 0x14 cold.head? []
        else match s.placeOpen c (d.target == 1) w d x with
          | .error e => s.loadDone m.val c e none []
          | .ok p => s.runLoad m.val c (d.target == 1) w p [p.writes.length])

/-! ## Held loads -/

/-- The engine may write the heddle now (R235, R236): its tier is inside the window, its harness runs no step, and a heddle of a
current set lies in a Disabled context. -/
def State.mayWrite (s : State) (c : Nat) (h : HeldLoad) (w : Nat × ImageAt × Bytes) : Bool :=
  s.tierInWindow w.1 && !s.harnessBusy (harnessOfHeddle w.2.1.heddle) && (h.staged || (s.ctx c).ctl.state == 0)

/-- LOAD_TIER_RESUME: held writes whose tier is back inside the window are made; the last ends the load. -/
def execLoadTierResume (c : Fin 256) (s : State) : Host.Outcome State Fault Refusal :=
  .next (
    match (s.ctx c.val).held with
    | none => s
    | some h =>
      if s.awake then
        let now := h.writes.filter (s.mayWrite c.val h)
        let rest := h.writes.filter (fun w => !s.mayWrite c.val h w)
        let s := State.each now (fun s w => s.writeHeddle w) s
        if rest.isEmpty then (s.modCtx c.val fun x => { x with held := none }).loadDone h.mbx c.val 0 none h.result
        else s.modCtx c.val fun x => { x with held := some { h with writes := rest, tiers := (rest.map (·.1)).eraseDups } }
      else s)

/-- LOAD_TIER_TIMEOUT: a tier has been held for 1 s (R236). -/
def execLoadTierTimeout (c : Fin 256) (s : State) : Host.Outcome State Fault Refusal :=
  .next (
    match (s.ctx c.val).held with
    | none => s
    | some h =>
      let cold := sortBy (fun a b => decide (a ≤ b)) (h.tiers.filter (fun t => !s.tierInWindow t))
      if s.up && decide (4000000000 ≤ s.clk.wall - h.since) && !cold.isEmpty then s.endHeld c.val 0x14 cold.head? else s)

/-! ## Contexts, keys, commit -/

/-- CTX_OPEN (R221). -/
def execCtxOpen (m : Fin 16) (recipe : Bytes) (s : State) : Host.Outcome State Fault Refusal :=
  .next (s.command m.val 0x1000 fun b s =>
    let c := b.arg 0
    let head := s.hostData m.val b (b.arg2 3) 64 recipe
    let n := if b.arg 2 = 0 then recSize head else 0
    if 255 < c ∨ (s.ctx c).ctl.opened = true ∨ 1 < b.arg 1 ∨ 1 < b.arg 2 ∨ b.arg2 5 % 4096 ≠ 0 ∨ hubBase < b.arg2 5 + b.arg2 7 ∨
        pastXfer m.val b (b.arg2 3) n = true then s.complete m.val 0x11 []
    else
      (s.modCtx c fun x => { x with
        cur := { recipe := if b.arg 2 = 0 then s.hostData m.val b (b.arg2 3) n recipe else [] }
        ctl := { x.ctl with opened := true, device := b.arg 1 == 1, sealed := b.arg 2 == 1, auxBase := b.arg2 5, auxSize := b.arg2 7, gen := 0 } }).complete
        m.val 0 [])

/-- Close a context: both sets are released, key slot and plan area freed; the requests of its control registers stay. -/
def State.closeCtx (s : State) (c : Nat) : State :=
  let x := s.ctx c
  let s := State.each x.sets (fun s w => s.releaseSet x.ctl.sealed w) s
  s.modCtx c fun x =>
    { recs := x.recs
      ctl := { maskReq := x.ctl.maskReq, maskEff := x.ctl.maskEff, strictReq := x.ctl.strictReq, strictEff := x.ctl.strictEff
               strictMaskReq := x.ctl.strictMaskReq, strictMaskEff := x.ctl.strictMaskEff, twillReq := x.ctl.twillReq
               reason := x.ctl.reason, reasonList := x.ctl.reasonList, reasonStep := x.ctl.reasonStep } }

/-- CTX_CLOSE: refused unless Disabled with no open stream and no load in progress. -/
def execCtxClose (m : Fin 16) (s : State) : Host.Outcome State Fault Refusal :=
  .next (s.command m.val 0x1001 fun b s =>
    let c := b.arg 0
    let x := s.ctx c
    if 255 < c || !x.ctl.opened || x.ctl.state != 0 || x.held.isSome || s.srv.streams.any (fun t => t.2.opened && t.2.ctx == c) then
      s.complete m.val 0x11 []
    else (s.closeCtx c).complete m.val 0 [])

/-- The content key that a wrapped key record gives context `c`; none on any failure (R226). -/
def unwrapKey (c : Nat) (r : Bytes) : Option Bytes :=
  if le r 0 2 ≠ 1 ∨ byteAt r 2 ≠ c ∨ zeros r 3 13 = false ∨ zeros r 0x7EC 0x14 = false then none
  else match Config.oaepOpen (slice r 0x10 384), Config.mlkemOpen (slice r 0x190 1568) with
    | some r1, some s2 =>
      let info : Bytes := [0x4A, 0x4D, 0x32, 0x34, 0x33, 0x36, 0x20, 0x63, 0x6F, 0x6E, 0x74, 0x65, 0x6E, 0x74, 0x20, 0x6B, 0x65, 0x79]
      Config.gcmOpen (Config.hkdf (r1 ++ s2) (info ++ slice r 0 16)) (slice r 0x7B0 12) (slice r 0 16) (slice r 0x7BC 32) (slice r 0x7DC 16)
    | _, _ => none

/-- WGT_KEY. Until key derivation has ended the command waits (R393). -/
def execWgtKey (m : Fin 16) (record : Bytes) (s : State) : Host.Outcome State Fault Refusal :=
  .next (s.command m.val 0x1002 fun b s =>
    let c := b.arg 0
    let k := (s.ctx c).ctl
    if 255 < c || !k.opened || !k.sealed || s.sec.debug || pastXfer m.val b (b.arg2 1) 2048 then s.complete m.val 0x11 []
    else if !s.sec.derivationEnded then s
    else if !s.sec.keysReady then s.complete m.val 0x11 []
    else match unwrapKey c (s.hostData m.val b (b.arg2 1) 2048 record) with
      | none => s.complete m.val 0x16 []
      | some key => (s.modCtl c fun k => { k with keyHeld := true, key := key }).complete m.val 0 [])

/-- R239: every heddled tensor is covered exactly once, every other has one auxiliary record, none has both. -/
def WeightSet.complete (w : WeightSet) : Bool :=
  let r := w.recipe
  decide (0 < recTensors r) && (List.range (recTensors r)).all (fun k =>
    let is := w.images.filter (fun i => i.tensor == k)
    let as := w.aux.filter (fun t => t.tensor == k)
    if is.isEmpty then as.length == 1
    else as.isEmpty && sumNat (is.map (fun i => i.rowsUsed * i.colsUsed)) == tenRows r k * tenCols r k)

/-- WGT_COMMIT. RES0 is the generation after the command. -/
def execWgtCommit (m : Fin 16) (s : State) : Host.Outcome State Fault Refusal :=
  .next (s.command m.val 0x1005 fun b s =>
    let c := b.arg 0
    let x := s.ctx c
    let w : Option WeightSet := if b.arg 1 = 0 then some x.cur else if b.arg 1 = 1 then x.staged else none
    if 255 < c || !x.ctl.opened || x.held.isSome then s.complete m.val 0x11 []
    else match w with
      | none => s.complete m.val 0x11 []
      | some w =>
        if w.committed then s.complete m.val 0x11 []
        else if !w.complete then s.complete m.val 0x15 []
        else if b.arg 1 = 0 then
          let gen := (x.ctl.gen + 1) % 65536
          (s.modCtx c fun x => { x with cur := { w with committed := true }, ctl := { x.ctl with gen := gen } }).complete m.val 0 [gen]
        else (s.modCtx c fun x => { x with staged := some { w with committed := true } }).complete m.val 0 [x.ctl.gen])

/-- WGT_STAGE_OPEN (R245): refused until the current set is committed, and while a staged set is open. -/
def execWgtStageOpen (m : Fin 16) (recipe : Bytes) (s : State) : Host.Outcome State Fault Refusal :=
  .next (s.command m.val 0x1006 fun b s =>
    let c := b.arg 0
    let x := s.ctx c
    let n := if x.ctl.sealed then 0 else recSize (s.hostData m.val b (b.arg2 1) 64 recipe)
    if 255 < c || !x.ctl.opened || !x.cur.committed || x.staged.isSome || pastXfer m.val b (b.arg2 1) n then s.complete m.val 0x11 []
    else
      let r : Bytes := if x.ctl.sealed then [] else s.hostData m.val b (b.arg2 1) n recipe
      (s.modCtx c fun x => { x with staged := some { recipe := r } }).complete m.val 0 [])

/-! ## Restore (R242) -/

/-- Re-delivered heddle records with the physical heddle of each in the sets of the context. -/
def State.restoreRecs (s : State) (c : Nat) (rs : List LoadRec) : List (Bool × Nat × LoadRec) :=
  let x := s.ctx c
  rs.flatMap (fun r =>
    let n := r.loom * 1024 + r.tier * 128 + r.harness
    let find (staged : Bool) (w : WeightSet) : List (Bool × Nat × LoadRec) :=
      let h := if x.ctl.device then ((w.logical.find? (fun e => e.1 == n)).map (·.2)).getD 4096 else n
      (w.images.filter (fun i => i.heddle == h * 64 + r.heddle && i.tensor == r.tensor)).map (fun i => (staged, i.heddle, r))
    find false x.cur ++ (match x.staged with | some w => find true w | none => []))

/-- The IMAGE_CRCs of a heddle that still read cleanly: the hub's, unless its SRAM word is among the lost, and that of the
header, unless the block that holds it fails its check. -/
def State.cleanCrcs (s : State) (lost : List Nat) (g : Nat) : List Nat :=
  (if lost.contains g then [] else [(s.heddle g).imageCrc]) ++
    (if (s.failingBlocks [] (patternAddr g) 64).isEmpty then [s.readLe (patternAddr g + 0x24) 4] else [])

/-- Rewrite the lost pattern copies whose image CRC matches; answers how many, and whether one did not match. -/
def State.restorePatterns (s : State) (c : Nat) (lost : List Nat) (rs : List (Bool × Nat × LoadRec)) : State × Nat × Bool :=
  rs.foldl (fun (acc : State × Nat × Bool) x =>
    let (s, n, bad) := acc
    let (staged, g, r) := x
    let h := s.heddle g
    if !h.patternLost then (s, n, bad)
    else
      let bytes := patternBytes c h.width (s.patternGen c staged) r
      if (s.cleanCrcs lost g).contains (le bytes 0x24 4) then
        ((s.unitWrite (patternAddr g) (padTo 0 0x9000 bytes)).modHeddle g fun y =>
          { y with patternLost := false, imageCrc := le bytes 0x24 4 }, n + 1, bad)
      else (s, n, true)) (s, 0, false)

/-- The heddle records that WGT_RESTORE re-delivers, or the status that ends it. -/
def State.restoreData (s : State) (m : Nat) (b : Mailbox) (c : Nat) (chunks : List Chunk) (data : OpenData) : Except Nat (List LoadRec) :=
  let k := (s.ctx c).ctl
  if b.arg 1 = 0 then
    (if !k.sealed || pastXfer m b (b.arg2 2) (b.arg 6 * 4194320) then .error 0x11
     else if !k.keyHeld then .error 0x16
     else match openStream k.key (b.arg2 4) (b.arg 6) (s.chunkAt m b (b.arg2 2) chunks) with
      | none => .error 0x16
      | some t => match splitStream t with
        | none => .error 0x15
        | some x => .ok x.2.1)
  else
    let d := parseDesc (s.hostData m b (b.arg2 2) 96 data.descriptor)
    let recipe := if d.target = 0 then (s.ctx c).cur.recipe else (((s.ctx c).staged).map (·.recipe)).getD []
    let x := s.openData m b recipe d data
    if k.sealed || b.arg 1 != 1 || pastXfer m b (b.arg2 2) 96 || d.bad then .error 0x11
    else if recTensors recipe ≤ d.tensor then .error 0x15
    else if sha256 (x.1 ++ x.2.1) ≠ d.digest then .error 0x16
    else if d.tileMap = 0 then .ok []
    else match d.tiles recipe x.1 x.2.1 x.2.2 with
      | none => .error 0x15
      | some rs => .ok rs

/-- WGT_RESTORE. With it come the bits that strike the hub's words of heddles' IMAGE_CRCs as it reads them (R260). -/
def execWgtRestore (m : Fin 16) (chunks : List Chunk) (data : OpenData × List (Fin 262144 × BitVec 64)) (s : State) :
    Host.Outcome State Fault Refusal :=
  .next (s.command m.val 0x100A fun b s =>
    let c := b.arg 0
    if 255 < c || !(s.ctx c).ctl.opened then s.complete m.val 0x11 []
    else match s.restoreData m.val b c chunks data.1 with
      | .error e => s.complete m.val e []
      | .ok rs =>
        let lost := (data.2.filter (fun u => (secded u.2.toNat).detected != 0)).map (·.1.val)
        let s := s.sramStruck 0xFF 0xFFFE (data.2.map (fun u => .sram u.2))
        let (s, n, bad) := s.restorePatterns c lost (s.restoreRecs c rs)
        s.complete m.val (if bad then 0x16 else 0) [n])

/-! ## Spares -/

/-- SEALED_HARNESS_RELEASE: the harness, or what a failed load left in some of its heddles, is zeroed once its tier is inside the
window (R243). -/
def execSealedHarnessRelease (h : Fin 4096) (s : State) : Host.Outcome State Fault Refusal :=
  .next (
    if s.awake && s.tierInWindow (tierOfHarness h.val) then
      (if (s.harness h.val).zeroing then s.zeroHarness h.val
       else State.each ((heddlesOf h.val).filter (fun g => (s.heddle g).zeroing)) State.zeroHeddle s)
    else s)

/-- SPARE_COUNT_SET (Table 9.11): values above 8 are treated as 8. -/
def execSpareCountSet (who : Who) (n : Fin 16) (s : State) : Host.Outcome State Fault Refusal :=
  .next (s.prvWrite who fun _ s => { s with arr := { s.arr with spareCfg := min n.val 8 } })

end Sys2Proof.Machine
end

