-- ==== Sys2Proof/Machine/Launch.lean ====
section
/-! DEFINITION. Enable, launch and stop of a plan (R168, R170-R174, R270, R271) and the plan commands (R167, R175,
R429). -/

namespace Sys2Proof.Machine

/-! ## Enable and disable (Table 6.13) -/

/-- The modules of each port of the plan tell each other their windows (R169). -/
def State.tellWindows (s : State) (c : Nat) : State :=
  State.each (s.exam c (s.image c) (s.ctx c).cur ⟨[], []⟩).sentWindows (fun s x => s.emit (.windows x.1 x.2)) s

/-- The members of a plan group tell each other their time leader and alignment (PLAN_ID, Table 12.7). -/
def State.tellGroup (s : State) (c : Nat) : State :=
  if 1 < planPlaces (s.image c) then
    let g := planGroup (s.image c)
    let forget (_ : Nat) (x : Port) : Port := { x with peerTime := x.peerTime.filter (fun r => r.1 != g) }
    ({ s with ports := Tab.mapAll {} forget s.ports }).originate c 2 s.clk.pick s.timeLeader
      (b2n (s.time.state == 1 || s.time.state == 2))
  else s

/-- The consistency check starts; checks run in the order of their ENABLE writes (R170). -/
def State.startCheck (s : State) (c : Nat) : State :=
  if (s.ctx c).ctl.state = 0 then
    let next := maxNat 0 (s.ctxs.map (fun x => x.2.ctl.checkFrom)) + 1
    let s := s.modCtl c fun k =>
      { k with state := 1, checkFrom := next, reason := 0, reasonList := 0, reasonStep := none }
    (s.tellWindows c).tellGroup c
  else s

/-- A transition of the power state begins (R354). -/
def State.powerTo (s : State) (target : Nat) (mbx : Option Nat) : State :=
  { s with pwr := { s.pwr with target := some target, targetMbx := mbx } }

/-- ENABLE = 1. From Retention the module returns to Idle first (R355); an out-of-service module enables nothing (R302). -/
def State.ctxEnable (s : State) (c : Nat) : State :=
  if (s.ctx c).ctl.state ≠ 0 then s
  else if s.rcv.oos then s.report (.droppedWrite 1)
  else if s.pwr.mode = 2 ∨ s.pwr.target.isSome = true then
    let s := { s with pwr := { s.pwr with enableAfter := (s.pwr.enableAfter.filter (· != c)) ++ [c] } }
    if s.pwr.target.isSome then s else s.powerTo 1 none
  else s.startCheck c

/-- ENABLE = 0. -/
def State.ctxDisable (s : State) (c : Nat) : State :=
  ({ s with pwr := { s.pwr with enableAfter := s.pwr.enableAfter.filter (· != c) } }).enableZero c

/-- Requested settings are in effect at once while no batch runs, else from the next batch boundary (R168, R270). -/
def State.settle? (s : State) (c : Nat) : State :=
  if (s.ctx c).ctl.state < 4 then
    s.modCtl c fun k => { k with maskEff := k.maskReq, strictEff := k.strictReq, strictMaskEff := k.strictMaskReq }
  else s

def State.maskSet (s : State) (c : Nat) (on : Bool) : State := (s.modCtl c fun k => { k with maskReq := on }).settle? c

/-- STRICT_MASK's bits for check-word bits 0, 3, 4, 12 and 13 read 0 (Table 10.9). -/
def State.strictSet (s : State) (c : Nat) (strict : Bool) (mask : BitVec 16) : State :=
  (s.modCtl c fun k => { k with strictReq := strict, strictMaskReq := mask &&& 0xCFE6 }).settle? c

/-- TWILL is written only in Disabled (R271). -/
def State.twillSet (s : State) (c : Nat) (on : Bool) : State :=
  if (s.ctx c).ctl.state = 0 then s.modCtl c fun k => { k with twillReq := on } else s.report (.droppedWrite 2)

/-- A privileged write on the requester's selected context. -/
def State.onCtx (s : State) (who : Who) (f : Nat → State → State) : State :=
  s.prvWrite who fun j s => f (s.sel j).ctx s

def execContextEnable (who : Who) (s : State) : Host.Outcome State Fault Refusal :=
  .next (s.onCtx who fun c s => s.ctxEnable c)
def execContextDisable (who : Who) (s : State) : Host.Outcome State Fault Refusal :=
  .next (s.onCtx who fun c s => s.ctxDisable c)
def execMaskingSet (who : Who) (on : Bool) (s : State) : Host.Outcome State Fault Refusal :=
  .next (s.onCtx who fun c s => s.maskSet c on)
def execStrictSet (who : Who) (strict : Bool) (mask : BitVec 16) (s : State) : Host.Outcome State Fault Refusal :=
  .next (s.onCtx who fun c s => s.strictSet c strict mask)
def execTwillSet (who : Who) (on : Bool) (s : State) : Host.Outcome State Fault Refusal :=
  .next (s.onCtx who fun c s => s.twillSet c on)

/-! ## Launch (R173) -/

/-- The leader holds READY from every member: L, and LAUNCH. -/
def State.tryLaunch (s : State) (c : Nat) : State :=
  let k := (s.ctx c).ctl
  let img := s.image c
  if k.state = 3 ∧ k.launchPick = none ∧ planPlaces img ≤ k.readies.length then
    let l := max s.clk.pick (maxNat 0 (k.readies.map (·.2))) + planLead img
    ((s.originate c 4 s.clk.pick l 0).noteMsg 4 0 (planGroup img) l).modCtl c fun k =>
      { k with launchPick := some l, firstReadyWall := none }
  else s

/-- The leader notes that place `place` became ready at pick `pick`. -/
def State.noteReady (s : State) (c place pick : Nat) : State :=
  (s.modCtl c fun k => { k with
    readies := k.readies.filter (fun r => r.1 != place) ++ [(place, pick)]
    firstReadyWall := k.firstReadyWall.orElse (fun _ => some s.clk.wall) }).tryLaunch c

/-- Everything Arming does has been done. -/
def State.armingDone (s : State) (c : Nat) : Bool :=
  (s.planHarnesses c).all (fun h =>
    let x := s.harness h
    x.state == 1 && x.goal.isNone && !x.held && !x.trimBusy && !x.reprogram && !x.zeroing)

/-- ARMING_READY: to Armed; a plan of one place sets its own L. -/
def execArmingReady (c : Fin 256) (s : State) : Host.Outcome State Fault Refusal :=
  .next (
    let img := s.image c.val
    if s.awake && (s.ctx c.val).ctl.state == 2 && s.armingDone c.val then
      let s := s.modCtl c.val fun k => { k with state := 3, readyWall := s.clk.wall }
      if planPlaces img ≤ 1 then s.modCtl c.val fun k => { k with launchPick := some (s.clk.pick + planLead img) }
      else if planPlace img = 0 then s.noteReady c.val 0 s.clk.pick
      else s.originate c.val 3 s.clk.pick s.clk.pick 0
    else s)

/-- ARMING_HOLD_TIMEOUT: a programming write has stayed held for 1 s. -/
def execArmingHoldTimeout (c : Fin 256) (s : State) : Host.Outcome State Fault Refusal :=
  .next (
    let stuck (h : Nat) : Bool := (s.harness h).held && decide (4000000000 ≤ s.clk.wall - (s.harness h).heldAt)
    if s.up && (s.ctx c.val).ctl.state == 2 && (s.planHarnesses c.val).any stuck then s.failCtx c.val 0x0406 else s)

/-- Contexts whose plan is of group `g`, Disabled ones too. -/
def State.inGroup (s : State) (g : Nat) : List Nat :=
  s.ctxNums.filter (fun c => (s.ctx c).ctl.plan.isSome && planGroup (s.image c) == g && decide (1 < planPlaces (s.image c)))

/-- READY arrives: relayed toward place 0; the leader notes it. -/
def execReady (group : BitVec 64) (place : Fin 4096) (pick : BitVec 64) (s : State) : Host.Outcome State Fault Refusal :=
  .next (
    let g := group.toNat
    if s.up && !s.seen 3 place.val g pick.toNat then
      State.each (s.inGroup g) (fun s c =>
        if planPlace (s.image c) = 0 then (s.noteMsg 3 place.val g pick.toNat).noteReady c place.val pick.toNat
        else s.relay c 3 place.val g pick.toNat pick.toNat 0) s
    else s)

/-- LAUNCH(L) arrives: forwarded once; an Armed member takes L, or aborts when it is later than L − 1,024. -/
def execLaunch (group : BitVec 64) (l : BitVec 64) (s : State) : Host.Outcome State Fault Refusal :=
  .next (
    let g := group.toNat
    if s.up && !s.seen 4 0 g l.toNat then
      State.each (s.inGroup g) (fun s c =>
        let s := s.relay c 4 0 g l.toNat l.toNat 0
        let k := (s.ctx c).ctl
        if k.state ≠ 3 ∨ k.launchPick.isSome = true then s
        else if l.toNat < s.clk.pick + 1024 then s.abortCtx c
        else s.modCtl c fun k => { k with launchPick := some l.toNat }) s
    else s)

/-- ABORT arrives: forwarded; members before their launch pick return to Disabled with 0x0707; a Running member aborts its
pending switch. -/
def execAbort (group : BitVec 64) (s : State) : Host.Outcome State Fault Refusal :=
  .next (
    let g := group.toNat
    if s.up then
      State.each (s.inGroup g) (fun s c =>
        let x := s.ctx c
        if 1 ≤ x.ctl.state ∧ x.ctl.state ≤ 3 then s.abortCtx c
        else if (x.ctl.state = 4 ∨ x.ctl.state = 5) ∧ 3 ≤ x.sw.state then (s.originate c 5 s.clk.pick 0 0).endSwitch c 0x0707
        else s) s
    else s)

/-- LAUNCH_READY_TIMEOUT: the leader has waited 1 s for the others. -/
def execLaunchReadyTimeout (c : Fin 256) (s : State) : Host.Outcome State Fault Refusal :=
  .next (
    let k := (s.ctx c.val).ctl
    match k.firstReadyWall with
    | some w =>
      if s.up && k.launchPick.isNone && decide (4000000000 ≤ s.clk.wall - w) then
        (if 1 ≤ k.state ∧ k.state ≤ 3 then s.abortCtx c.val
         else (s.originate c.val 5 s.clk.pick 0 0).modCtl c.val fun k => { k with readies := [], firstReadyWall := none })
      else s
    | none => s)

/-- ARMED_TIMEOUT: 2 s in Armed without LAUNCH. -/
def execArmedTimeout (c : Fin 256) (s : State) : Host.Outcome State Fault Refusal :=
  .next (
    let k := (s.ctx c.val).ctl
    if s.up && k.state == 3 && k.launchPick.isNone && decide (8000000000 ≤ s.clk.wall - k.readyWall) then s.abortCtx c.val
    else s)

/-- The records that entering Running sets to 0 (R186, R220, R289); the format flags and the last check word stay. -/
def CtxRecords.entered (r : CtxRecords) : CtxRecords :=
  { hasRun := true, lastChk := r.lastChk, lastStream := r.lastStream, lastStatus := r.lastStatus, lastValid := r.lastValid
    flagMend := r.flagMend, flagAct := r.flagAct, flagAcc := r.flagAcc, flagFmt := r.flagFmt, flagNonfinite := r.flagNonfinite
    lastLayer := r.lastLayer, setAt := r.setAt }

/-- Sampling ends when a plan of more than 4 places is launched (R418). -/
def State.endSampling (s : State) (c : Nat) : State :=
  if 4 < planPlaces (s.image c) ∧ s.obs.trcBuf.on = true ∧ s.obs.trcMode = 1 then
    { s with obs := { s.obs with trcBuf := { s.obs.trcBuf with
      on := false, denied := true, setAt := note s.obs.trcBuf.setAt 2 s.clk.elapsed } } }
  else s

/-- Iteration 0 begins here and now. -/
def State.enterRunning (s : State) (c : Nat) : State :=
  let s := (s.modCtx c fun x => { x with
    recs := x.recs.entered, slots := [], ctl := { x.ctl with state := 4, readies := [], firstReadyWall := none } }).endSampling c
  s.dueAt c s.clk.pick

/-- LAUNCH_PICK. -/
def execLaunchPick (c : Fin 256) (s : State) : Host.Outcome State Fault Refusal :=
  .next (
    let k := (s.ctx c.val).ctl
    if s.awake && k.state == 3 && k.launchPick == some s.clk.pick then s.enterRunning c.val else s)

/-! ## Stop (R174) -/

/-- A STOP of the group sent at pick `p` was relayed, or sent from here. -/
def State.seenStop (s : State) (g p : Nat) : Bool := s.rcv.seenMsgs.any (fun m => m.1 == 6 && m.2.2.1 == g && m.2.2.2 == p)

/-- Stop by a STOP first sent at pick `p`: a Running context, and one that already stops when `p` makes it end earlier. -/
def State.stopFrom (s : State) (c p : Nat) : State :=
  let k := (s.ctx c).ctl
  let e := s.iterEnd c (p + planLead (s.image c))
  if k.state = 4 then s.stopAt c p
  else if k.state = 5 ∧ !k.cut then s.modCtl c fun k => { k with stopEnd := k.stopEnd.map (fun x => min x e) }
  else s

/-- STOP arrives with the pick at which the first STOP was sent. -/
def execStop (group : BitVec 64) (pick : BitVec 64) (s : State) : Host.Outcome State Fault Refusal :=
  .next (
    let g := group.toNat
    if s.up && !s.seenStop g pick.toNat then
      State.each (s.inGroup g) (fun s c =>
        let s := s.relay c 6 0 g pick.toNat 0 0
        s.stopFrom c pick.toNat) s
    else s)

/-- STOP_ITERATION_END: what is admitted and unfinished ends with 0x30, and the context goes to Disabled. -/
def execStopIterationEnd (c : Fin 256) (s : State) : Host.Outcome State Fault Refusal :=
  .next (
    let k := (s.ctx c.val).ctl
    let due := (k.stopEnd.map (fun e => decide (e ≤ s.clk.pick))).getD false
    if s.up && k.state == 5 && !k.cut && due then
      (State.each (s.admitted c.val) (fun s q => s.finish q 0x30 s.clk.pick) s).disableCtx c.val
    else s)

/-! ## Plan commands (Table 6.15) -/

def poolBlocks : Nat := 1015808
/-- 4 KiB blocks of the plan pool that images take (R429). -/
def State.poolUsed (s : State) : Nat :=
  let size (p : Option Bytes) : Nat := ceilDiv ((p.map List.length).getD 0) 4096
  sumNat (s.ctxs.map (fun x => size x.2.ctl.plan + size x.2.ctl.successor))

/-- PLAN_LOAD. An image loaded before gives its space back. -/
def execPlanLoad (m : Fin 16) (image : Bytes) (s : State) : Host.Outcome State Fault Refusal :=
  .next (s.command m.val 0x2000 fun b s =>
    let c := b.arg 0
    let n := b.arg 3
    let k := (s.ctx c).ctl
    let old := ceilDiv ((k.plan.map List.length).getD 0) 4096
    if 255 < c || !k.opened || k.state != 0 || n == 0 || pastXfer m.val b (b.arg2 1) n then s.complete m.val 0x11 []
    else if poolBlocks < s.poolUsed - old + ceilDiv n 4096 then s.complete m.val 0x39 []
    else (s.modCtl c fun k => { k with plan := some (s.hostData m.val b (b.arg2 1) n image) }).complete m.val 0 [])

def execPlanUnload (m : Fin 16) (s : State) : Host.Outcome State Fault Refusal :=
  .next (s.command m.val 0x2001 fun b s =>
    let c := b.arg 0
    let k := (s.ctx c).ctl
    if 255 < c || !k.opened || k.state != 0 || k.plan.isNone then s.complete m.val 0x11 []
    else (s.modCtl c fun k => { k with plan := none }).complete m.val 0 [])

/-- The iteration of a context at the current pick, 0 outside Running and Stopping. -/
def State.iteration (s : State) (c : Nat) : Nat :=
  let l := (s.ctx c).launchShown
  if (s.ctx c).ctl.state = 4 ∨ (s.ctx c).ctl.state = 5 then (s.clk.pick - l) / max (planPeriod (s.image c)) 1 else 0

def lowWord (n : Nat) : Nat := n % 2 ^ 32
def highWord (n : Nat) : Nat := n / 2 ^ 32 % 2 ^ 32

def execPlanStatus (m : Fin 16) (s : State) : Host.Outcome State Fault Refusal :=
  .next (s.command m.val 0x2002 fun b s =>
    let c := b.arg 0
    if 255 < c then s.complete m.val 0x11 []
    else
      let x := s.ctx c
      let n := s.iteration c
      s.complete m.val 0 [x.statWord.toNat, x.reasonWord.toNat, x.rstepWord.toNat, lowWord x.launchShown, highWord x.launchShown,
        lowWord n, highWord n])

/-- The physical index of logical unit `f` of kind `kind` on loom `l`, 0xFFFF where there is none. -/
def State.mapEntry (s : State) (c l kind f : Nat) : Nat :=
  if kind = 1 then ((((s.ctx c).cur.logical.find? (fun e => e.1 == l * 1024 + f)).map (·.2 % 1024))).getD 0xFFFF
  else (((s.ctx c).ctl.unitMap.find? (fun e => e.1 == kind && e.2.1 == l && e.2.2.1 == f)).map (·.2.2.2)).getD 0xFFFF

/-- PLAN_MAP: refused for a plan that is not device-placed. -/
def execPlanMap (m : Fin 16) (s : State) : Host.Outcome State Fault Refusal :=
  .next (s.command m.val 0x2003 fun b s =>
    let c := b.arg 0
    let l := b.arg 1
    let kind := b.arg 2 % 256
    let f := b.arg 2 / 65536
    if 255 < c || !(s.ctx c).ctl.opened || !(s.ctx c).ctl.device || 3 < l || kind == 0 || 4 < kind then s.complete m.val 0x11 []
    else s.complete m.val 0 ((List.range 8).map (fun i =>
      s.mapEntry c l kind (f + 2 * i) + 65536 * s.mapEntry c l kind (f + 2 * i + 1))))

end Sys2Proof.Machine
end

