-- ==== Sys2Proof/Machine/Links.lean ====
section
/-! DEFINITION. Xeast ports: flits, acknowledgement, resends and retrains (R334-R337), training and identity (R338,
R342), PLAN_ID (R341, R346). -/

namespace Sys2Proof.Machine

/-! ## Resends -/

/-- Every unacknowledged flit is resent, oldest first: counted, and set against the paths whose remote operations the
flits carry (R336). -/
def State.resendAll (s : State) (p : Nat) : State :=
  let x := s.port p
  let n := x.unacked.length
  if n = 0 then s
  else
    let s := State.each x.unacked (fun s f => s.emit (.resend p f.1)) s
    let s := s.modPort p fun y => { y with
      retry := satAdd max32 y.retry n, resends := y.resends + 1, ackPick := s.clk.elapsed }
    let s := s.perf 0x18 n (p / 9) none (some (0x1300 + p))
    let ctxs := ((x.unacked.map (fun f => f.2.2)).filter (fun c => decide (c < 256))).eraseDups
    let held := s.sched.runs.filter (fun r => r.engine == 0x1300 + p && ctxs.contains r.ctx)
    State.each held (fun s (r : Run) =>
      s.check r.ctx (s.stepAt r.ctx r.list r.idx).slot fun k => { k with linkRetry := true }) s

/-- A loss is reported once, until the expected SEQ arrives: NAK with the last good SEQ. -/
def State.lossOn (s : State) (p : Nat) : State :=
  let x := s.port p
  if x.nakOwed then s
  else (s.modPort p fun y => { y with nakOwed := true }).emit (.nak p ((x.rxSeq + 4095) % 4096))

/-- Flits acknowledged by `a`, and those that are left. -/
def afterAck (a : Nat) (l : List (Nat × Nat × Nat)) : List (Nat × Nat × Nat) :=
  if l.any (fun f => f.1 == a) then (l.dropWhile (fun f => f.1 != a)).drop 1 else l

/-- ACK and credits of an intact flit. -/
def Port.takeAck (now ack vc credits : Nat) (x : Port) : Port :=
  let rest := afterAck ack x.unacked
  let x : Port := if rest.length < x.unacked.length then
      { x with unacked := rest, resends := 0, ackPick := now } else x
  let cap := [32, 1024, 256].getD vc 0
  { x with credits := x.credits.set vc (min cap (x.credits.getD vc 0 + credits)) }

/-- A sequenced flit: the expected one is taken, a later one is a loss, an earlier one a repeat. -/
def State.takeSeq (s : State) (p seq : Nat) : State :=
  let x := s.port p
  if seq = x.rxSeq then s.modPort p fun y => { y with rxSeq := (y.rxSeq + 1) % 4096, nakOwed := false }
  else if (seq + 4096 - x.rxSeq) % 4096 < 2048 then s.lossOn p
  else s

/-- A flit arrives (R334, R336). What its body carries is a command of its own. -/
def State.flit (s : State) (p : Nat) (f : Flit) : State :=
  let b := slice f.bytes 0 252
  if crc32 b ≠ f.crc then (s.modPort p fun x => { x with crc := satAdd max16 x.crc 1 }).lossOn p
  else
    let type := byteAt b 0
    let now := s.clk.elapsed
    let s := s.modPort p fun x => x.takeAck now (fld (le b 3 2) 0 12) (byteAt b 5) (le b 6 2)
    let s := if bitOf type 6 then s.resendAll p else s
    let s := if fld type 0 4 = 1 ∨ fld type 0 4 = 2 then s.takeSeq p (fld (le b 1 2) 0 12) else s
    s.modPort p fun x => x.pump now x.waiting.length

def execXeastFlit (port : Fin 36) (flit : Flit) (s : State) : Host.Outcome State Fault Refusal :=
  .next (
    let x := s.port port.val
    if s.awake && (x.state == 1 || x.state == 2) then s.flit port.val flit else s)

/-- REPLAY_TIMEOUT: ACK has not advanced for 256 picks. -/
def execReplayTimeout (port : Fin 36) (s : State) : Host.Outcome State Fault Refusal :=
  .next (
    let x := s.port port.val
    if s.awake && x.state == 2 && !x.retrain && !x.unacked.isEmpty && decide (x.ackPick + 256 ≤ s.clk.elapsed) then
      s.resendAll port.val
    else s)

/-! ## Retrains (R337) -/

/-- A retrain begins: counted, its start kept for a second; the lanes equalise again, sequence state and replay buffer stay. -/
def State.startRetrain (s : State) (p : Nat) : State :=
  let x := s.port p
  if x.state = 2 ∧ x.retrain = false then
    let recent := x.retrainStarts.filter (fun w => decide (s.clk.wall < w + 4000000000))
    s.modPort p fun y => { y with
      setAt := note y.setAt 1 s.clk.elapsed, retrain := true, retrains := satAdd max8 y.retrains 1, retrainStarts := recent ++ [s.clk.wall], retrainWall := s.clk.wall
      resends := 0, equalised := false, identSeen := false, wrongPeer := false }
  else s.modPort p fun y => { y with setAt := note y.setAt 1 s.clk.elapsed }

/-- XL_RETRAIN: the register write acts on the requester's selected port; without a requester, the same flit has been
resent 8 times. -/
def execXlRetrain (who : Option Who) (port : Fin 36) (s : State) : Host.Outcome State Fault Refusal :=
  .next (match who with
    | some w => s.prvWrite w fun j s => if (s.sel j).port = port.val then s.startRetrain port.val else s
    | none => if s.awake && decide (8 ≤ (s.port port.val).resends) then s.startRetrain port.val else s)

/-- RETRAIN_COMPLETE: the same peer has answered; every unacknowledged flit is resent. A RETRAIN written in this pick stays set and
begins anew (R12). -/
def execRetrainComplete (port : Fin 36) (s : State) : Host.Outcome State Fault Refusal :=
  .next (
    let x := s.port port.val
    if s.awake && x.retrain && x.identSeen && !x.wrongPeer && decide (s.clk.wall ≤ x.retrainWall + 20000000) then
      let s := (s.modPort port.val fun y => { y with retrain := false }).resendAll port.val
      let s := s.modPort port.val fun y => { y with resends := 0, ackPick := s.clk.elapsed }
      if notedNow x.setAt 1 s.clk.elapsed then s.startRetrain port.val else s
    else s)

/-- The cause of a link failure holds. -/
def State.linkFailed (s : State) (x : Port) (cause : LinkCause) : Bool :=
  match cause with
  | .retrainLate => x.retrain && decide (x.retrainWall + 20000000 < s.clk.wall)
  | .wrongPeer => x.retrain && x.wrongPeer
  | .fourRetrains => decide (4 ≤ (x.retrainStarts.filter (fun w => decide (s.clk.wall < w + 4000000000))).length)

/-- LINK_FAILURE, detector 0x04: the port is reset, unless it is being recovered (R291). -/
def execLinkFailure (port : Fin 36) (cause : LinkCause) (s : State) : Host.Outcome State Fault Refusal :=
  .next (
    if s.awake && (s.port port.val).state == 2 && s.linkFailed (s.port port.val) cause then
      let s := s.modPort port.val fun x => { x with fails := satAdd max8 x.fails 1, retrain := false, retrainStarts := [] }
      s.alertLinkFail.fault 7 port.val 4
    else s)

/-! ## Training (R338, R342) -/

/-- An enabled plan uses the port. -/
def State.portInPlan (s : State) (p : Nat) : Bool := s.enabled.any (fun c => (planPorts (s.image c)).contains p)

/-- XL_PORT_CTRL.ENABLE: 1 trains the port, 0 holds it Down unless an enabled plan uses it. -/
def State.portEnable (s : State) (p : Nat) (on : Bool) : State :=
  let x := s.port p
  if 36 ≤ p then s
  else if on then s.modPort p fun y =>
    if y.state = 0 ∧ s.awake = true then { y.fresh 1 with enable := true } else { y with enable := true }
  else if s.portInPlan p then s.report (.droppedWrite 4)
  else if x.state = 3 then s.modPort p fun y => { y with enable := false }
  else (s.upstreamDown p).modPort p fun y => { y.fresh 0 with enable := false }

def execPortEnableSet (who : Who) (on : Bool) (s : State) : Host.Outcome State Fault Refusal :=
  .next (s.prvWrite who fun j s => s.portEnable (s.sel j).port on)

/-- PORT_EQUALISED, in training or in a retrain: the port sends IDENT and waits for the peer's (R337, R338). -/
def execPortEqualised (port : Fin 36) (s : State) : Host.Outcome State Fault Refusal :=
  .next (
    let x := s.port port.val
    if s.awake && (x.enable && x.state == 1 || x.state == 2 && x.retrain) && !x.equalised then
      (s.modPort port.val fun y => { y with equalised := true }).sendOn [port.val]
        ⟨1, 0xFFFF, 0, s.fwForm, s.sec.moduleId, port.val + 256 * arithProfile⟩
    else s)

/-- A twin port is wired to a twin port of the module to which the other Up twin ports go. -/
def State.twinWired (s : State) (p id peerPort : Nat) : Bool :=
  decide (32 ≤ peerPort ∧ peerPort ≤ 35) && (s.twinPorts.filter (fun q => q != p)).all (fun q => (s.port q).peer == id)

/-- IDENT arrives: in training it names the peer, and the port enters Up with its measured hop latency, a free value;
after a retrain it shows whether the peer is the same. -/
def State.takeIdent (s : State) (p id peerPort profile fw : Nat) : State :=
  let x := s.port p
  if x.state = 1 ∧ x.equalised then
    let s := s.fresh
    let wired := decide (p < 32) || s.twinWired p id peerPort
    s.modPort p fun y =>
      { y with
        peer := id, peerPort := peerPort, peerProfile := profile, peerFw := fw, identSeen := true, miswired := !wired
        planPlace := if y.peer = id then y.planPlace else []
        hop := if wired then Config.freeNat s.tick % 65536 else y.hop
        state := if wired then 2 else 1 }
  else if x.state = 2 ∧ x.retrain = true ∧ x.equalised = true then
    s.modPort p fun y => { y with
      identSeen := true, peerFw := fw, wrongPeer := decide (y.peer ≠ id ∨ y.peerPort ≠ peerPort) }
  else s

def execIdent (port : Fin 36) (id : BitVec 64) (peerPort : Fin 64) (profile : BitVec 16) (fwForm : BitVec 64) (s : State) :
    Host.Outcome State Fault Refusal :=
  .next (if s.awake then s.takeIdent port.val id.toNat peerPort.val profile.toNat fwForm.toNat else s)

/-! ## PLAN_ID -/

/-- PLAN_ID arrives: the first from a group on a port names the place at its other end; the sender's leader and alignment
are kept for the check; it is relayed once. -/
def State.takePlanId (s : State) (p g origin leader : Nat) (aligned : Bool) : State :=
  let here := s.inGroup g
  if here.isEmpty then s
  else
    let s := s.modPort p fun x => { x with
      planPlace := if Tab.getD 0 x.planPlace g = 0 then Tab.put 0 x.planPlace g (origin + 1) else x.planPlace
      peerTime := (g, origin, leader, aligned) :: x.peerTime.filter (fun r => !(r.1 == g && r.2.1 == origin)) }
    if s.seen 2 origin g leader then s
    else
      let live := here.filter (fun c => (s.ctx c).ctl.state == 1 || (s.ctx c).ctl.state == 4)
      State.each live (fun s c => (s.noteMsg 2 origin g leader).sendOn ((s.groupPorts c).filter (· != p))
        ⟨2, origin, g, s.clk.pick, leader, b2n aligned⟩) s

def execPlanId (port : Fin 36) (group : BitVec 64) (origin : Fin 4096) (leader : BitVec 64) (aligned : Bool) (s : State) :
    Host.Outcome State Fault Refusal :=
  .next (
    if s.awake && (s.port port.val).state == 2 then s.takePlanId port.val group.toNat origin.val leader.toNat aligned else s)

end Sys2Proof.Machine
end

