-- ==== Sys2Proof/Machine/ModReset.lean ====
section
/-! DEFINITION. What a module reset covers and what it keeps (R14, R300, Table 11.8), the pick log (R372), and the
host site's power-up (R319). -/

namespace Sys2Proof.Machine

/-- Enter a change of pick length or a time step in the pick log: 256 entries; LOST is set when one is overwritten. -/
def Clock.logChange (c : Clock) (step : Bool) : Clock :=
  { c with
    plog := (⟨c.pick, c.wall / 40, c.wall % 40, c.lenQ, step⟩ :: c.plog).take 256
    plogLost := c.plogLost || decide (256 ≤ c.plog.length)
    setAt := if 256 ≤ c.plog.length then note c.setAt 15 c.elapsed else c.setAt }

/-- The host-site rails come up and HS_PWRGD is asserted (R319), when a host die is bonded. -/
def HostSite.powerUp (h : HostSite) (wall : Nat) : HostSite :=
  if h.present then { present := true, railsOn := true, pwrgd := true, pwrgdWall := wall, therm := h.therm, thermSince := wall }
  else { present := false }

/-- The pick-counter master after a module reset: it goes on counting, at the nominal length. -/
def Clock.afterReset (c : Clock) : Clock :=
  let d : Clock := { pick := c.pick, elapsed := c.elapsed, wall := c.wall, plog := c.plog, lastChange := c.lastChange }
  if c.lenQ = 16 then d else d.logChange false

/-- Harness, heddle and loom state after a module reset: cells, positions and owners stay until the contexts close; RWS
counts stay; harnesses are Active but for those out of use. -/
def State.arraysAfterReset (s : State) : Arrays :=
  let hd (_ : Nat) (x : Heddle) : Heddle := { x with
    repair := [], marginal := false, patternLost := false, lastFail := {}, satFlag := false, satBank := 0, tile0 := {}
    tile1 := {}, passCorr := 0, passConvs := 0, lastCompare := s.clk.wall }
  let hn (h : Nat) (x : Harness) : Harness :=
    if s.outOfUse 1 h then { state := 0, calBase := 0, calAt := none, zeroing := x.zeroing } else { zeroing := x.zeroing, calAt := some s.clk.elapsed }
  let lm (_ : Nat) (x : Loom) : Loom := { x with tRef := 0, retrimBusy := false, retrimCount := 0 }
  { heddles := Tab.mapAll {} hd s.arr.heddles
    harnesses := (List.range 4096).foldl (fun t h => Tab.put {} t h (hn h (s.harness h))) []
    looms := Tab.mapAll {} lm s.arr.looms, mismatchRows := s.arr.mismatchRows }

/-- A context after a module reset, before it is closed: it runs nothing and holds no key and no plan. -/
def Ctx.afterReset (x : Ctx) : Ctx :=
  { ctl := { opened := x.ctl.opened, device := x.ctl.device, sealed := x.ctl.sealed, auxBase := x.ctl.auxBase, auxSize := x.ctl.auxSize, gen := x.ctl.gen }
    cur := x.cur, staged := x.staged }

/-- A port after a module reset. -/
def Port.afterReset (x : Port) : Port :=
  { state := if x.state = 3 then 3 else 0, crc := x.crc, retrains := x.retrains, fails := x.fails, retry := x.retry }

/-- A reset domain after a module reset: its times, total and retirement stay. -/
def Domain.afterReset (d : Domain) : Domain :=
  { starts := d.starts, undecided := d.undecided, retired := d.retired, total := d.total }

def Shuttle.afterReset (x : Shuttle) : Shuttle :=
  { stat := x.stat, residue := x.residue, tally := x.tally, page := x.page, empty := x.empty }

/-- The registers of a buffer after a reset: DROP is RWS. -/
def Buffer.afterReset (b : Buffer) : Buffer := { drop := b.drop }

/-- The module as a module reset leaves it, at boot stage 0 (R300, R388). -/
def State.reboot (s : State) : State :=
  let looms := [0, 1, 2, 3]
  let mem := looms.foldl (fun (m : Memory) l => m.zeroRange (loomStore l) loomStoreSize) s.mem
  { s with
    clk := s.clk.afterReset, time := {}
    pwr := { s.pwr with
      mode := 1, target := none, targetMbx := none, enableAfter := [], ceil := 3200, engineCap := false, inputCap := false, capLimit := false
      capLen := 16, capChange := none, capFull := 0 }
    hs := if s.hs.shut then s.hs.powerUp s.clk.wall else { s.hs with throttle := false }
    sec := { stageWall := s.clk.wall, bootCause := 1, debug := s.sec.debug, tblCorr := s.sec.tblCorr, tblUncorr := s.sec.tblUncorr, flash := s.sec.flash }
    acc := { retrains := s.acc.retrains }
    mbx := [], mem := mem, arr := s.arraysAfterReset
    kvt := { shuttles := Tab.mapAll {} (fun _ x => x.afterReset) s.kvt.shuttles, miss := s.kvt.miss }
    ctxs := Tab.mapAll {} (fun _ x => x.afterReset) s.ctxs
    sched := {}, srv := { msixPick := s.srv.msixPick, refilled := s.srv.refilled }
    health := { s.health with
      gen := 0, dumapCrc := 0, perm := false, packId := none, pack := [], cursors := [], twillList := 0, twillStep := 0, twillCtx := 0, twillValid := false }
    rcv := { s.rcv with
      domains := Tab.mapAll {} (fun _ d => d.afterReset) s.rcv.domains
      dumpDropped := false, dumpDamaged := false, root := none, rootProvisional := false, rootValid := false, cutValid := false
      cutCtx := 0, cutCause := 0
      seenMsgs := [], alertThermal := false, alertHsShutdown := false, alertHsTherm := false, alertLinkFail := false
      alertStorm := false }
    twin := { dropped := s.twin.dropped }
    ports := Tab.mapAll {} (fun _ x => x.afterReset) s.ports
    thm := { sensors := s.thm.sensors, tripCount := s.thm.tripCount, tripSensor := s.thm.tripSensor, moduleHot := s.thm.moduleHot }
    mon := {}
    obs := { s.obs with
      run := false, runReq := none, pmcs := [], pmcHi := 0, tagBuf := s.obs.tagBuf.afterReset, trcBuf := s.obs.trcBuf.afterReset
      tagRate := 10, tagCtxF := false, tagCtx := 0, tagKind := 0, tagSeed := 1, tagWaiting := [], knotLog := []
      trcMode := 0, trcClasses := 0, trcPeriod := 12, trcCtxF := false, trcCtx := 0, trcStart := 0, trcStop := false, trcLast := none } }

end Sys2Proof.Machine
end

