-- ==== Sys2Proof/Machine/Switch.lean ====
section
/-! DEFINITION. The switch of a context to its staged weight set (R246-R252). -/

namespace Sys2Proof.Machine

/-! ## Commands -/

/-- WGT_STAGE_PLAN: refused while a switch is pending. -/
def execWgtStagePlan (m : Fin 16) (image : Bytes) (s : State) : Host.Outcome State Fault Refusal :=
  .next (s.command m.val 0x1007 fun b s =>
    let c := b.arg 0
    let n := b.arg 3
    let x := s.ctx c
    let old := ceilDiv ((x.ctl.successor.map List.length).getD 0) 4096
    if 255 < c || !x.ctl.opened || decide (3 ≤ x.sw.state) || n == 0 || pastXfer m.val b (b.arg2 1) n then s.complete m.val 0x11 []
    else if poolBlocks < s.poolUsed - old + ceilDiv n 4096 then s.complete m.val 0x39 []
    else (s.modCtl c fun k => { k with successor := some (s.hostData m.val b (b.arg2 1) n image) }).complete m.val 0 [])

/-- The plan that runs with the staged set: the successor, or in device-placed mode the current plan. -/
def Ctx.nextPlan (x : Ctx) : Option Bytes :=
  match x.ctl.successor with
  | some p => some p
  | none => if x.ctl.device then x.ctl.plan else none

/-- The iteration from which BATCH steps fill no slot: the first that begins after now (R247). -/
def State.drainFrom (s : State) (c : Nat) : Nat :=
  match (s.ctx c).ctl.launchPick with
  | some l => if (s.ctx c).ctl.state < 4 then 0 else (s.clk.pick - l) / max (planPeriod (s.image c)) 1 + 1
  | none => 0

/-- Accept a switch. Messages of an earlier switch of the group are forgotten. -/
def State.acceptSwitch (s : State) (c : Nat) (b : Mailbox) (plan : Bytes) (w : WeightSet) : State :=
  let g := planGroup (s.image c)
  let old (k : Nat × Nat × Nat × Nat) : Bool := (k.1 == 9 || k.1 == 0xA) && k.2.2.1 == g
  let s := { s with rcv := { s.rcv with seenMsgs := s.rcv.seenMsgs.filter (fun k => !old k) } }
  s.modCtx c fun x => { x with sw :=
    { state := 3, drainIter := b.arg 1, switchId := b.arg2 2, resetStreams := b.arg 4 == 1, fromIter := s.drainFrom c
      acceptWall := s.clk.wall, drainedFrom := x.sw.drainedFrom.filter (fun r => r.2 == b.arg2 2), cands := s.readCands w.recipe
      unitMap := s.checkedMap c plan w, programs := x.sw.programs } }

/-- WGT_SWITCH (R246). A context that is Disabled takes the staged set at once (R251). -/
def execWgtSwitch (m : Fin 16) (grp : GroupView) (s : State) : Host.Outcome State Fault Refusal :=
  .next (s.command m.val 0x1008 fun b s =>
    let c := b.arg 0
    let x := s.ctx c
    let ready := (x.staged.map (·.committed)).getD false
    if 255 < c || !x.ctl.opened || x.held.isSome || !ready || decide (3 ≤ x.sw.state) || b.arg 1 == 0 || decide (2 ^ 24 < b.arg 1) ||
        decide (1 < b.arg 4) then s.complete m.val 0x11 []
    else
      let w := x.staged.getD {}
      let twill := if x.ctl.state = 0 then x.ctl.twillReq else x.ctl.twillEff
      match s.planCheck c x.nextPlan w twill grp with
      | some (code, _) => (s.modCtx c fun x => { x with sw := { x.sw with reason := code } }).complete m.val 0x11 []
      | none =>
        let s := s.acceptSwitch c b (x.nextPlan.getD []) w
        let s := if x.ctl.state = 0 then s.flipAtStop c else s
        s.complete m.val 0 [])

/-- The staged set is released with its successor plan; a load into it that is held ends with 0x11 (DESIGN CHOICE: R245 lets the set
go at any time and names no status for that load), and a pending switch ends. -/
def State.dropStaged (s : State) (c : Nat) : State :=
  let s := if ((s.ctx c).held.map (·.staged)).getD false then s.endHeld c 0x11 none else s
  let x := s.ctx c
  let s := if x.sw.state = 3 ∨ x.sw.state = 4 then s.endSwitch c x.sw.reason else s
  let s := s.modCtx c fun y => { y with
    staged := none, sw := { y.sw with programs := [] }, ctl := { y.ctl with successor := none } }
  s.releaseSet x.ctl.sealed (x.staged.getD {})

/-- WGT_STAGE_DROP (R245): before the flip pick has been set. -/
def execWgtStageDrop (m : Fin 16) (s : State) : Host.Outcome State Fault Refusal :=
  .next (s.command m.val 0x1009 fun b s =>
    let c := b.arg 0
    let x := s.ctx c
    if 255 < c || x.staged.isNone || x.sw.flipPick.isSome then s.complete m.val 0x11 []
    else (s.dropStaged c).complete m.val 0 [])

/-! ## Draining -/

/-- Iteration `n` of a draining context begins: with no request admitted it is the one whose end drains the context. -/
def State.noteIdle (s : State) (c n : Nat) : State :=
  let x := s.ctx c
  if x.sw.state = 3 ∧ x.sw.idleFrom = none ∧ x.sw.fromIter ≤ n ∧ (s.admitted c).isEmpty = true then
    s.modCtx c fun y => { y with sw := { y.sw with idleFrom := some n } }
  else s

/-- The leader holds DRAINED from every member: F, and FLIP (R250). -/
def State.tryFlip (s : State) (c : Nat) : State :=
  let x := s.ctx c
  let img := s.image c
  let got := (x.sw.drainedFrom.filter (fun r => r.2 == x.sw.switchId)).length
  if x.sw.state = 4 ∧ x.sw.flipPick = none ∧ planPlace img = 0 ∧ planPlaces img ≤ got then
    let f := s.iterEnd c (s.clk.pick + planLead img)
    ((s.originate c 0xA s.clk.pick f (lowWord x.sw.switchId)).noteMsg 0xA 0 (planGroup img) f).modCtx c fun y =>
      { y with sw := { y.sw with flipPick := some f } }
  else s

def State.noteDrained (s : State) (c place switchId : Nat) : State :=
  (s.modCtx c fun x => { x with sw := { x.sw with
    drainedFrom := x.sw.drainedFrom.filter (· != (place, switchId)) ++ [(place, switchId)] } }).tryFlip c

/-- SWITCH_DRAINED: the staged set's copies are built; a plan of one place sets its own F (R249). -/
def execSwitchDrained (c : Fin 256) (s : State) : Host.Outcome State Fault Refusal :=
  .next (
    let x := s.ctx c.val
    let img := s.image c.val
    let l := x.ctl.launchPick.getD 0
    match x.sw.idleFrom, x.staged with
    | some n, some w =>
      let d := l + (n + 1) * planPeriod img
      if s.awake && x.sw.state == 3 && x.ctl.state == 4 && decide (d ≤ s.clk.pick) then
        let s := s.modCtx c.val fun y => { y with
          sw := { y.sw with state := 4, cands := y.ctl.candidates }, ctl := { y.ctl with candidates := y.sw.cands } }
        let s := s.buildCopies c.val (x.nextPlan.getD img) w
        if planPlaces img ≤ 1 then
          let f := s.iterEnd c.val (max (d + planLead img) (s.clk.pick + 1))
          s.modCtx c.val fun y => { y with sw := { y.sw with flipPick := some f } }
        else if planPlace img = 0 then s.noteDrained c.val 0 x.sw.switchId
        else s.originate c.val 9 s.clk.pick x.sw.switchId 0
      else s
    | _, _ => s)

/-- DRAIN_LIMIT (R248): what is still admitted ends with 0x33 at its slot's next EMIT. -/
def execDrainLimit (c : Fin 256) (s : State) : Host.Outcome State Fault Refusal :=
  .next (
    let x := s.ctx c.val
    let l := x.ctl.launchPick.getD 0
    if s.up && x.sw.state == 3 && !x.sw.limitReached && x.ctl.launchPick.isSome &&
        decide (l + (x.sw.fromIter + x.sw.drainIter) * planPeriod (s.image c.val) ≤ s.clk.pick) then
      let s := s.modCtx c.val fun y => { y with sw := { y.sw with limitReached := true } }
      State.each (s.admitted c.val) (fun s q => s.modRequest q.id fun q =>
        if q.cancelAt.isNone then { q with cancelAt := some s.clk.pick, drainEnd := true } else q) s
    else s)

/-! ## The flip -/

/-- The successor plan replaces the current plan and starts iteration 0 at L = F, as at the entry into Running. Steps of the
drained plan that have not ended end here. -/
def State.takeSuccessor (s : State) (c f : Nat) (p : Bytes) : State :=
  let s := s.dropDue (fun d => d.ctx == c) false
  let s := { s with sched := { s.sched with
    due := s.sched.due.filter (fun d => d.ctx != c), sets := s.sched.sets.filter (fun x => x.1 != c) } }
  let s := State.each (s.sched.runs.filter (fun r => r.ctx == c)) (fun s r => s.freeUnit r) s
  let s := { s with sched := { s.sched with runs := s.sched.runs.filter (fun r => r.ctx != c) } }
  let s := s.modCtx c fun x => { x with
    recs := x.recs.entered, slots := []
    ctl := { x.ctl with plan := some p, successor := none, launchPick := some f } }
  ((s.zeroKnots c).endSampling c).prune

/-- The flip, in one pick. -/
def State.flipNow (s : State) (c : Nat) : State :=
  let x := s.ctx c
  let s := match x.ctl.successor with
    | some p => s.takeSuccessor c s.clk.pick p
    | none => s
  let s := s.modCtl c fun k => { k with unitMap := x.sw.unitMap }
  ((s.flipSet c).pageSettle).dueAt c s.clk.pick

/-- WEIGHT_FLIP, at F. While a harness that took the place of a retired one still waits for its programming (R251) the flip moves to
the end of the next iteration (DESIGN CHOICE: no rule says what the flip does then). -/
def execWeightFlip (c : Fin 256) (s : State) : Host.Outcome State Fault Refusal :=
  .next (
    let x := s.ctx c.val
    if s.awake && x.ctl.state == 4 && x.sw.state == 4 && x.sw.flipPick == some s.clk.pick then
      let s := s.stagedPrograms c.val
      if (s.ctx c.val).sw.programs.isEmpty then s.flipNow c.val
      else s.modCtx c.val fun y => { y with
        sw := { y.sw with flipPick := some (s.clk.pick + max 1 (planPeriod (s.image c.val))) } }
    else s)

/-! ## Messages (R250) -/

/-- DRAINED arrives: relayed toward place 0; the leader notes it. -/
def execDrained (group : BitVec 64) (place : Fin 4096) (switchId : BitVec 64) (s : State) : Host.Outcome State Fault Refusal :=
  .next (
    let g := group.toNat
    let i := switchId.toNat
    if s.up && !s.seen 9 place.val g i then
      State.each (s.inGroup g) (fun s c =>
        if planPlace (s.image c) = 0 then (s.noteMsg 9 place.val g i).noteDrained c place.val i
        else s.relay c 9 place.val g i i 0) s
    else s)

/-- FLIP(F) arrives: forwarded once; later than F − 1,024 it aborts the switch. -/
def execFlip (group : BitVec 64) (f : BitVec 64) (switchLow : Word) (s : State) : Host.Outcome State Fault Refusal :=
  .next (
    let g := group.toNat
    if s.up && !s.seen 0xA 0 g f.toNat then
      State.each (s.inGroup g) (fun s c =>
        let s := s.relay c 0xA 0 g f.toNat f.toNat switchLow.toNat
        let x := s.ctx c
        if x.sw.state ≠ 4 ∨ x.sw.flipPick.isSome = true ∨ lowWord x.sw.switchId ≠ switchLow.toNat then s
        else if f.toNat < s.clk.pick + 1024 then (s.originate c 5 s.clk.pick 0 0).endSwitch c 0x0707
        else s.modCtx c fun y => { y with sw := { y.sw with flipPick := some f.toNat } }) s
    else s)

/-- SWITCH_ACCEPT_TIMEOUT: on the leader, 1 s after its own acceptance, with a member whose acceptance it has not heard. With the
context come the places that have told it of theirs; one that has drained has accepted. (DESIGN CHOICE: Table 12.7 has no message that carries an
acceptance, so the command names them.) -/
def execSwitchAcceptTimeout (c : Fin 256 × List (Fin 4096)) (s : State) : Host.Outcome State Fault Refusal :=
  .next (
    let x := s.ctx c.1.val
    let img := s.image c.1.val
    let accepted (p : Nat) : Bool := p == 0 || c.2.any (fun h => h.val == p) || x.sw.drainedFrom.contains (p, x.sw.switchId)
    if s.up && decide (3 ≤ x.sw.state) && x.sw.flipPick.isNone && planPlace img == 0 && decide (1 < planPlaces img) &&
        (List.range (planPlaces img)).any (fun p => !accepted p) && decide (4000000000 ≤ s.clk.wall - x.sw.acceptWall) then
      (s.originate c.1.val 5 s.clk.pick 0 0).endSwitch c.1.val 0x0707
    else s)

end Sys2Proof.Machine
end

