-- ==== Sys2Proof/Machine/TimeBase.lean ====
section
/-! DEFINITION. The pick counter and its length (R26-R35, R157, R371, R372), and the time domain (R343-R347). -/

namespace Sys2Proof.Machine

/-! ## The time tree -/

/-- Ports on which time messages are flooded: every Up port but `except`. -/
def State.treePorts (s : State) (except : Nat) : List Nat :=
  (List.range 36).filter (fun p => (s.port p).state == 2 && p != except)

/-- The port toward the leader, 36 on a leader. -/
def State.upPort (s : State) : Nat := if s.time.role = 2 then s.time.upstream else 36

/-- Ports whose peer follows this module: it names the same leader and lies deeper in the tree. -/
def State.childPorts (s : State) : List Nat :=
  (s.treePorts s.upPort).filter (fun p =>
    (s.port p).leader == s.timeLeader && decide (s.time.depth < (s.port p).peerDepth))

/-- Send a time message (Table 12.7). -/
def State.sendTime (s : State) (ports : List Nat) (msg pick arg arg2 : Nat) : State :=
  s.sendOn ports ⟨msg, 0xFFFF, 0, pick, arg, arg2⟩

/-- Some context is not Disabled, or the module is paired. -/
def State.timeBusy (s : State) : Bool := !s.enabled.isEmpty || s.twin.state == 1

/-! ## Requests for a pick length (R31, R33, R347) -/

/-- The longest length that this module's sources request. -/
def State.localLen (s : State) : Nat := max s.thm.thermLen (max s.pwr.capLen s.thm.screenLen)
/-- The longest length requested in this module's subtree. -/
def State.treeLen (s : State) : Nat := maxNat s.localLen (s.time.remoteReqs.map (·.2))

/-- The kinds of this module's sources that request a length of `len` or more: thermal, power, screening (R35). -/
def State.localKinds (s : State) (len : Nat) : Bool × Bool × Bool :=
  (decide (len ≤ s.thm.thermLen), decide (len ≤ s.pwr.capLen), decide (len ≤ s.thm.screenLen))

/-- The kinds of the sources that set the length of `e` at its pick: this module's own at that pick, and those of other
members. A leader's PICKLEN_REQs carry no kind: a remote member's is a free value. -/
def State.switchKinds (s : State) (e : PickSwitch) : Bool × Bool × Bool :=
  let f := if s.time.role = 1 ∧ s.time.remoteReqs.any (fun r => r.2 == e.len) = true then Config.freeNat s.tick % 8 else 0
  let (t, p, c) := s.localKinds e.len
  (t || e.byThermal || bitOf f 0, p || e.byPower || bitOf f 1, c || e.byScreen || bitOf f 2)

/-- The leader chooses a switch pick for the longest length of the domain. A change that may be made before this one reaches
every member stands; a later one is replaced. The time of the deepest path beyond 256 picks is a free value. -/
def State.leaderLen (s : State) : State :=
  let target := s.treeLen
  let e0 := s.clk.pick + 256 + Config.freeNat s.tick
  let stand := s.time.sched.filter (fun e => decide (e.pick < e0))
  let before := match stand.getLast? with
    | some e => (e.len, e.pick + 1000)
    | none => (s.clk.lenQ, s.clk.pick + (1000 - (s.clk.elapsed - s.clk.lastChange)))
  let planned := match s.time.sched.getLast? with
    | some e => e.len
    | none => s.clk.lenQ
  if target = planned then s
  else
    let e := if target < before.1 then max e0 before.2 else e0
    let s := { s with time := { s.time with sched := stand ++ ([⟨e, target, false, false, false⟩] : List PickSwitch) } }.fresh
    s.sendTime (s.treePorts 36) 0x0C s.clk.pick e target

/-- A longest request of this module or its subtree has changed: it goes up the tree, or the leader acts on it. -/
def State.lenUp (s : State) : State :=
  if s.time.role = 1 then s.leaderLen
  else if s.time.role = 2 then
    (if (s.port s.time.upstream).state = 2 then s.sendTime [s.time.upstream] 0x0B s.clk.pick 0 s.treeLen else s)
  else s

/-- Note a change of this module's longest request; requests given up within the last 8 picks are remembered. -/
def State.lenUpdate (s : State) : State :=
  if s.localLen = s.clk.reqLen then s
  else ({ s with clk := { s.clk with
      reqLen := s.localLen
      reqs := (s.clk.elapsed, s.clk.reqLen) :: s.clk.reqs.filter (fun r => decide (s.clk.elapsed < r.1 + 8)) } }).lenUp

/-- The length that has been requested for 8 picks without a break (R33). -/
def Clock.ripeLen (c : Clock) : Nat :=
  (c.reqs.filter (fun r => decide (c.elapsed < r.1 + 8))).foldl (fun l r => min l r.2) c.reqLen

/-- The length that a free module changes to now: a longer one 8 picks after its request, a shorter one 1,000 picks after the
last change (R33). -/
def Clock.dueLen (c : Clock) : Option Nat :=
  if c.lenQ < c.ripeLen then some c.ripeLen
  else if c.reqLen < c.lenQ ∧ c.lastChange + 1000 ≤ c.elapsed then some c.reqLen
  else none

/-- The pick length becomes `len`, set by the named sources. -/
def State.setLen (s : State) (len : Nat) (by_ : Bool × Bool × Bool) (remote : Bool) : State :=
  let clk : Clock := { s.clk with
    lenQ := len, lastChange := s.clk.elapsed
    byThermal := by_.1 && len != 16, byPower := by_.2.1 && len != 16, byScreen := by_.2.2 && len != 16 }
  { s with clk := clk.logChange false, time := { s.time with lenRemote := remote } }

/-- PICK_LENGTH_CHANGE: at the switch pick of a time domain; on a free module as R33 says. -/
def execPickLengthChange (s : State) : Host.Outcome State Fault Refusal :=
  .next (
    if !s.up then s
    else if s.time.role = 0 then
      match s.clk.dueLen with
      | some len => s.setLen len (s.localKinds len) false
      | none => s
    else match s.time.sched with
    | e :: rest =>
      if e.pick ≤ s.clk.pick then
        let t : State := { s with time := { s.time with sched := rest } }
        if e.len = s.clk.lenQ then t else (t.setLen e.len (s.switchKinds e) (s.localLen != e.len)).fresh
      else s
    | [] => s)

/-- A pick length that can be (R26). -/
def lenOk (len : Nat) : Bool := decide (16 ≤ len ∧ len ≤ 64)

/-- PICKLEN_REQ from a member below. -/
def execPicklenReq (port : Fin 36) (len : Fin 128) (s : State) : Host.Outcome State Fault Refusal :=
  .next (
    if s.up && s.time.role != 0 && (s.port port.val).state == 2 && port.val != s.upPort && lenOk len.val then
      let before := s.treeLen
      let s := { s with time := { s.time with remoteReqs := Tab.put 16 s.time.remoteReqs port.val len.val } }
      if s.treeLen = before then s else s.lenUp
    else s)

/-- PICKLEN from the leader: forwarded; after its E it is applied at the next boundary and LATE_LEN is set. Changes that were
to come at its E or later are replaced. -/
def execPicklen (port : Fin 36) (e : BitVec 64) (len : Fin 128) (byThermal byPower byScreen : Bool) (s : State) :
    Host.Outcome State Fault Refusal :=
  .next (
    if s.up && s.time.role == 2 && port.val == s.time.upstream && lenOk len.val then
      let s := s.sendTime (s.treePorts port.val) 0x0C s.clk.pick e.toNat len.val
      let late := decide (e.toNat < s.clk.pick)
      let at_ := if late then s.clk.pick + 1 else e.toNat
      { s with time := { s.time with
          lateLen := s.time.lateLen || late
          setAt := if late then note s.time.setAt 4 s.clk.elapsed else s.time.setAt
          sched := s.time.sched.filter (fun x => decide (x.pick < at_)) ++ [⟨at_, len.val, byThermal, byPower, byScreen⟩] } }
    else s)

/-! ## The pick boundary -/

/-- Records of the pick that ends: always-on counts, performance counters, stretched picks of runs from L on. -/
def State.closePick (s : State) : State :=
  let s := s.countClasses
  let long := decide (16 < s.clk.lenQ)
  let s := (s.perf 0x01 1 4 none none).perf 0x02 (b2n long) 4 none none
  if long then
    State.each s.running (fun s c => s.modRecs c fun r => { r with stretched := true, stretchCnt := satAdd max32 r.stretchCnt 1 })
      { s with clk := { s.clk with stretched := true } }
  else s

/-- Steps of Running contexts that start at this pick. A context that flips at this pick starts with its flip. -/
def State.openPick (s : State) : State :=
  State.each s.running (fun s c =>
    let x := s.ctx c
    let period := max (planPeriod (s.image c)) 1
    let l := x.ctl.launchPick.getD 0
    let o := s.clk.pick - l
    if x.sw.flipPick = some s.clk.pick then s
    else (if o % period = 0 then s.noteIdle c (o / period) else s).dueAt c s.clk.pick) s

/-- Tag records that could not be written within 4,096 picks are dropped and counted (R417). -/
def State.dropTags (s : State) : State :=
  let old := s.obs.tagWaiting.filter (fun r => decide (r.1 + 4096 < s.clk.elapsed))
  if old.isEmpty then s
  else { s with obs := { s.obs with
    tagWaiting := s.obs.tagWaiting.filter (fun r => !decide (r.1 + 4096 < s.clk.elapsed))
    tagBuf := { s.obs.tagBuf with drop := satAdd max32 s.obs.tagBuf.drop old.length } } }

/-- TIME_ALIGN completes after pick V + 16 on the leader. -/
def State.alignEnd (s : State) : State :=
  match s.time.alignDone, s.time.alignMbx with
  | some p, some m =>
    if p < s.clk.pick then
      ({ s with time := { s.time with alignDone := none, alignMbx := none } }).complete m 0 []
    else s
  | _, _ => s

/-- The counter and the elapsed picks advance by 1, the time by the ended pick's length (R26). -/
def State.turnPick (s : State) : State :=
  { s with clk := { s.clk with
    pick := (s.clk.pick + 1) % 2 ^ 64, elapsed := s.clk.elapsed + 1, wall := s.clk.wall + s.clk.lenQ } }

/-- Settings that wait for a boundary: RUN of the counters and the end of a trace. -/
def State.turnObs (s : State) : State :=
  { s with obs := { s.obs with
    run := s.obs.runReq.getD s.obs.run, runReq := none, trcStop := false
    trcBuf := { s.obs.trcBuf with on := s.obs.trcBuf.on && !s.obs.trcStop } } }

/-- PICK_BOUNDARY: the counter advances (R26); what the ended pick left to write goes to the rings, and calibration windows that
end here take effect. It stops with the input or the oscillator. -/
def execPickBoundary (s : State) : Host.Outcome State Fault Refusal :=
  .next (
    if !s.pwr.input || s.pwr.oscFailed then s
    else s.closePick.flushRings.turnPick.turnObs.endWindows.openPick.dropTags.alignEnd)

/-- A read that reaches no register: it returns all ones (R324). -/
def State.deadRead (s : State) : State := s.emit (.readData 255 0xFFFFFFFF)

/-- A read of HUB_PICK_LO latches HUB_PICK_HI and HUB_WALL for the requester (R34, R371). -/
def State.readPickLo (s : State) (j : Nat) : Word × State :=
  (BitVec.ofNat 32 s.clk.pick,
   s.modLatch j fun x => { x with pickHi := s.clk.pick / 2 ^ 32, wall := s.clk.wall / 40 })

/-- A read access by `who`: its value goes out, or all ones when it arrives on another link (R324). A module in reset or in
recovery (R400) does not answer. -/
def State.readAs (s : State) (who : Who) (f : Nat → State → Word × State) : State :=
  match s.access who with
  | (some j, t) => if t.sec.stage == 5 then t else let (v, t) := f j t; t.emit (.readData j v)
  | (none, t) => if t.up && t.sec.stage != 5 then t.deadRead else t

def execHubPickLoRead (who : Who) (s : State) : Host.Outcome State Fault Refusal :=
  .next (s.readAs who fun j s => s.readPickLo j)

/-! ## Roles (R343) and SYNC (R344, R346) -/

/-- A write of HUB_TIME_CTRL: ROLE 3 leaves the role. -/
def State.timeRole (s : State) (role upstream : Nat) : State :=
  if s.timeBusy then s.report (.droppedWrite 3)
  else
    let role := if role = 3 then s.time.role else role
    { s with time := { s.time with
      role := role, upstream := upstream, state := if role = 1 then 1 else 0, ahead := false, depth := 0, ofs := 0, leader := 0
      upAligned := false, holdoverSince := none, remoteReqs := [], sched := [] } }

def execTimeRoleSet (who : Who) (role : Fin 4) (upstream : Fin 64) (s : State) : Host.Outcome State Fault Refusal :=
  .next (s.prvWrite who fun _ s => s.timeRole role.val upstream.val)

/-- SYNC_SEND: the stamps of this module and of the last SYNC from the peer. -/
def execSyncSend (port : Fin 36) (s : State) : Host.Outcome State Fault Refusal :=
  .next (
    let x := s.port port.val
    if s.awake && x.state == 2 then
      (s.modPort port.val fun y => { y with lastSyncHere := s.clk.pick }).emit
        (.sync port.val s.clk.pick 0 x.lastSyncPick x.lastSyncPhase s.timeLeader)
    else s)

/-- Offset from the upstream module in quarter-nanoseconds, positive ahead: half the difference of the two one-way
differences (R344). -/
def State.offsetFrom (s : State) (mine : Nat) (st : SyncStamps) : Int :=
  let q (a b : Nat) : Int := ((a : Int) - b) * s.clk.lenQ
  let d1 := q st.pickHere st.pickSent + ((st.phaseHere : Int) - st.phaseSent)
  let d2 := q st.pickGot mine + (st.phaseGot : Int)
  clampInt (-(2 ^ 31 : Int)) (2 ^ 31 - 1) ((d1 - d2) / 2)

/-- What a follower does with a new offset (R346). -/
def State.followOffset (s : State) (ofs : Int) (upAligned : Bool) : State :=
  let lags := decide (ofs < -4000) && decide (s.time.ofs < -4000)
  let picks := ((-ofs) / s.clk.lenQ).toNat
  let s : State := if lags && !s.timeBusy && s.sched.runs.isEmpty && picks != 0 then
      let clk : Clock := { s.clk with pick := (s.clk.pick + picks) % 2 ^ 64 }
      { s with clk := clk.logChange true, time := { s.time with ofs := ofs + picks * s.clk.lenQ } }
    else { s with time := { s.time with ofs := ofs } }
  let aligned := upAligned && decide (-4 ≤ s.time.ofs ∧ s.time.ofs ≤ 4)
  { s with time := { s.time with
    upAligned := upAligned, holdoverSince := none, state := if aligned then 1 else 3, ahead := !aligned && decide (0 < s.time.ofs) } }

/-- SYNC_RECEIVE: the peer's stamps are kept to be returned; a follower judges its offset from its upstream module. -/
def execSyncReceive (port : Fin 36) (st : SyncStamps) (s : State) : Host.Outcome State Fault Refusal :=
  .next (
    let x := s.port port.val
    if s.awake && x.state == 2 then
      let s := s.modPort port.val fun y => { y with
        lastSyncPick := st.pickHere, lastSyncPhase := st.phaseHere, leader := st.leader, peerDepth := st.depth }
      if s.time.role = 2 ∧ port.val = s.time.upstream then
        ({ s with time := { s.time with leader := st.leader, depth := min (st.depth + 1) 255 } }).followOffset
          (s.offsetFrom x.lastSyncHere st) st.aligned
      else s
    else s)

/-- HOLDOVER_EXPIRE: after 100 ms the follower is free-running. -/
def execHoldoverExpire (s : State) : Host.Outcome State Fault Refusal :=
  .next (
    match s.time.holdoverSince with
    | some w =>
      if s.up && s.time.state == 2 && decide (400000000 ≤ s.clk.wall - w) then
        { s with time := { s.time with state := 0, holdoverSince := none } }
      else s
    | none => s)

/-! ## Alignment (R345) -/

/-- Picks by which this module's counter leads its upstream module's, rounded up; 0 on a leader. -/
def State.ownLead (s : State) : Int :=
  if s.time.role = 2 then -((-s.time.ofs) / s.clk.lenQ) else 0

/-- The largest lead in this module's subtree, and whether a member of it is busy. -/
def State.treeLead (s : State) : Nat × Bool :=
  let below := maxNat 0 (s.time.alignReplies.map (fun r => r.2.1))
  ((max 0 (max s.ownLead (s.ownLead + below))).toNat, s.timeBusy || s.time.alignReplies.any (fun r => r.2.2))

/-- Every module below has replied: the leader steps the domain, a follower replies to its upstream module. -/
def State.alignGo (s : State) : State :=
  if s.time.query && s.childPorts.all (fun p => s.time.alignReplies.any (fun r => r.1 == p)) then
    let (d, busy) := s.treeLead
    let s := { s with time := { s.time with query := false, alignReplies := [] } }
    if s.time.role = 1 then
      match s.time.alignMbx with
      | none => s
      | some m =>
        if busy then ({ s with time := { s.time with alignMbx := none } }).complete m 0x11 []
        else
          let at_ := s.clk.pick + 65536
          let v := at_ + d + 1024
          let s := { s with time := { s.time with step := some (at_, v), alignDone := some (v + 16) } }
          s.sendTime (s.treePorts 36) 0x0F at_ v 0
    else s.sendTime [s.time.upstream] 0x0E s.clk.pick d (b2n busy)
  else s

/-- TIME_ALIGN: refused on a module that is no leader; while one runs another waits. -/
def execTimeAlign (m : Fin 16) (s : State) : Host.Outcome State Fault Refusal :=
  .next (s.command m.val 0x0010 fun _ s =>
    if s.time.role ≠ 1 then s.complete m.val 0x11 []
    else if s.time.alignMbx.isSome then s
    else
      let s := { s with time := { s.time with alignMbx := some m.val, alignSince := s.clk.wall, alignReplies := [], query := true } }
      (s.sendTime (s.treePorts 36) 0x0D s.clk.pick 0 0).alignGo)

/-- TIME_QUERY from upstream. -/
def execTimeQuery (port : Fin 36) (s : State) : Host.Outcome State Fault Refusal :=
  .next (
    if s.up && s.time.role == 2 && port.val == s.time.upstream then
      let s := { s with time := { s.time with alignReplies := [], query := true } }
      (s.sendTime (s.treePorts port.val) 0x0D s.clk.pick 0 0).alignGo
    else s)

def execTimeReply (port : Fin 36) (lead : BitVec 64) (busy : Bool) (s : State) : Host.Outcome State Fault Refusal :=
  .next (
    if s.up && s.time.query && port.val != s.upPort then
      ({ s with time := { s.time with
        alignReplies := s.time.alignReplies.filter (fun (r : Nat × Nat × Bool) => r.1 != port.val) ++ [(port.val, lead.toNat, busy)] } }).alignGo
    else s)

/-- TIME_ALIGN_TIMEOUT: a member has not replied within 10 ms. -/
def execTimeAlignTimeout (s : State) : Host.Outcome State Fault Refusal :=
  .next (
    match s.time.alignMbx with
    | some m =>
      if s.up && s.time.query && decide (40000000 ≤ s.clk.wall - s.time.alignSince) then
        ({ s with time := { s.time with query := false, alignReplies := [], alignMbx := none } }).complete m 0x11 []
      else s
    | none => s)

/-- TIME_STEP(S, V) from upstream: forwarded and noted. -/
def execTimeStep (port : Fin 36) (at_ v : BitVec 64) (s : State) : Host.Outcome State Fault Refusal :=
  .next (
    if s.up && s.time.role == 2 && port.val == s.time.upstream then
      ({ s with time := { s.time with step := some (at_.toNat, v.toNat) } }).sendTime (s.treePorts port.val) 0x0F at_.toNat v.toNat 0
    else s)

/-- TIME_STEP_APPLY: at the moment the offset estimate places at the leader's pick S the counter becomes V. It never moves
back, and no step runs (R27). -/
def execTimeStepApply (s : State) : Host.Outcome State Fault Refusal :=
  .next (
    match s.time.step with
    | some (at_, v) =>
      if s.up && s.sched.runs.isEmpty && decide ((at_ : Int) + s.ownLead ≤ s.clk.pick) then
        let s := { s with time := { s.time with step := none } }
        if s.clk.pick ≤ v then
          let clk : Clock := { s.clk with pick := v % 2 ^ 64 }
          { s with clk := clk.logChange true }
        else s
      else s
    | none => s)

end Sys2Proof.Machine
end

