-- ==== Sys2Proof/Machine/Monitor.lean ====
section
/-! DEFINITION. The monitor ADC and its calibration (R373-R379), and power capping (R357-R359). -/

namespace Sys2Proof.Machine

/-- Full-scale code of a channel (Table 13.8). -/
def fullScale (n : Nat) : Nat :=
  match n with
  | 0 => 80000
  | 1 => 120000
  | 2 => 300000
  | 3 => 60000
  | 4 => 120000
  | 5 => 40000
  | 6 => 30000
  | 7 => 20000
  | 8 => 10000
  | 9 => 10000
  | _ => if 26 ≤ n ∧ n ≤ 29 then 50000 else 15000

/-! ## Calibration (R378, R379) -/

/-- The hub's hottest value as the supervisor last formed it. -/
def State.hubHot (s : State) : Int := (Tab.getD ((0 : Int), 0) s.thm.hot 4).1

/-- The channel's group calibrates now. -/
def State.calibrates (s : State) (n : Nat) : Bool :=
  match s.mon.calPhase with
  | some k => k / 2 == n / 8
  | none => false
/-- STALE as it reads (Table 13.11). -/
def State.stale (s : State) (n : Nat) : Bool := (s.chan n).stale || s.calibrates n

/-- A calibration of all groups begins, or waits for the one in progress to end. -/
def State.calBegin (s : State) : State :=
  match s.mon.calPhase with
  | some _ => { s with mon := { s.mon with calAgain := true } }
  | none => { s with mon := { s.mon with calPhase := some 0, tMcal := s.hubHot } }

/-- A 6 °C move of the hub (R378). -/
def State.calDrift (s : State) : State :=
  let d := s.hubHot - s.mon.tMcal
  if d < -24 ∨ 24 < d then
    (if s.mon.holdCal then State.each (List.range 32) (fun s n => s.modChan n fun x => { x with drift := true, setAt := note x.setAt 6 s.clk.elapsed }) s
     else s.calBegin)
  else s

/-- A period of the channel's calibration: the zero input, then the internal reference. A restored value written meanwhile
takes the place of the result. -/
def Channel.calibrated (x : Channel) (reference : Bool) (raw : Nat) : Channel :=
  if reference then
    { x with
      ofs := x.wOfs.getD (signed 24 (unsigned 24 (Config.calOffset x.zeroRaw raw)))
      gain := x.wGain.getD (Config.calGain x.zeroRaw raw % 2 ^ 32)
      manual := x.wOfs.isSome || x.wGain.isSome, wOfs := none, wGain := none, stale := true, ready := true }
  else { x with zeroRaw := raw, stale := true }

/-! ## Results (R375, R376) -/

/-- The calibrated result before it is clamped. -/
def Channel.value (x : Channel) (raw : Nat) : Int := ((raw : Int) - x.ofs) * x.gain / 2 ^ 20

/-- Count one period, at pick `now`. A CLEAR written in this pick stays set (R12). -/
def Channel.counted (x : Channel) (n raw : Nat) (beyond : Bool) (now : Nat) : Channel :=
  let v := x.value raw
  let c := (clampInt 0 (fullScale n) v).toNat
  let y : Channel := if x.clearNext then { x with acc := 0, count := 0, min := 0, max := 0, clearNext := notedNow x.setAt 5 now } else x
  let past := decide (n < 8) && (beyond || decide ((fullScale n : Int) < v))
  let empty := y.count == 0 && y.acc == 0 && y.max == 0
  { y with
    acc := (y.acc + c) % 2 ^ 64, count := (y.count + 1) % 2 ^ 32
    min := if empty then c else Nat.min y.min c, max := Nat.max y.max c, last := c, stale := false
    ovr := y.ovr || past, setAt := if past then note y.setAt 3 now else y.setAt
    ofs := y.wOfs.getD y.ofs, gain := y.wGain.getD y.gain, manual := y.manual || y.wOfs.isSome || y.wGain.isSome
    wOfs := none, wGain := none }

/-- One period of one channel. -/
def State.periodOf (s : State) (raw : List (BitVec 24 × Bool)) (n : Nat) : State :=
  let r := raw.getD n (0, false)
  match s.mon.calPhase with
  | some k =>
    if k / 2 = n / 8 then s.modChan n fun x => x.calibrated (k % 2 == 1) r.1.toNat
    else if (s.chan n).ready then s.modChan n fun x => x.counted n r.1.toNat r.2 s.clk.elapsed
    else s
  | none => if (s.chan n).ready then s.modChan n fun x => x.counted n r.1.toNat r.2 s.clk.elapsed else s

/-- The calibration goes on to its next period, ends, or begins anew. -/
def State.calStep (s : State) : State :=
  match s.mon.calPhase with
  | none => s
  | some k =>
    if k < 7 then { s with mon := { s.mon with calPhase := some (k + 1) } }
    else
      let won := notedNow s.mon.setAt 3 s.clk.elapsed
      let s := { s with mon := { s.mon with calPhase := none, calBit := won } }
      if s.mon.calAgain || won then ({ s with mon := { s.mon with calAgain := false } }).calBegin else s

/-- A change of PERIOD applies, and clears every accumulation (R373). -/
def State.periodChange (s : State) : State :=
  match s.mon.periodReq with
  | none => s
  | some p =>
    let s := { s with mon := { s.mon with period := p, periodReq := none } }
    State.each (List.range 32) (fun s n => s.modChan n fun x => { x with acc := 0, count := 0, min := 0, max := 0 }) s

/-! ## Power capping (R357-R359) -/

/-- Set points of the rails of channels 2 to 9 in mV (Table 13.1). -/
def railMv (n : Nat) : Nat := [700, 900, 750, 1050, 700, 850, 750, 800].getD (n - 2) 0
/-- Channels 8 and 9 count the limit of their rail while their source is not primary, in units of 10 µW. -/
def railLimit (n : Nat) : Nat := if n = 8 then 6000000 else 800000
def State.primary (s : State) (n : Nat) : Bool := n != 8 && n != 9 || (s.chan n).source == 0

/-- Engine power in units of 10 µW, and input power in µW. -/
def State.enginePower (s : State) : Nat :=
  sumNat ((List.range 8).map (fun i => if s.primary (i + 2) then (s.chan (i + 2)).last * railMv (i + 2) else railLimit (i + 2)))
def State.inputPower (s : State) : Nat := (s.chan 0).last * (s.chan 1).last

/-- A channel that capping reads is stale. -/
def State.capBlind (s : State) : Bool := (List.range 10).any (fun n => s.primary n && (s.stale n || !(s.chan n).ready))

/-- What capping does at the end of a period. -/
def State.capEval (s : State) : State :=
  if s.capBlind then s
  else
    let engine := decide (s.pwr.ceil * 100000 < s.enginePower)
    let input := decide (4000000000 < s.inputPower)
    let full : Nat := if s.pwr.capLen = 64 then s.pwr.capFull + 1 else 0
    let s := { s with pwr := { s.pwr with capFull := full } }
    if engine || input then
      let s : State := if 5 ≤ full then
          let t : State := { s with pwr := { s.pwr with capLimit := true, setAt := note s.pwr.setAt 5 s.clk.elapsed } }
          if s.pwr.capLimit then t else t.logEvent s.place 0x22 64
        else s
      if s.pwr.capLen = 64 then s
      else ({ s with pwr := { s.pwr with
        capLen := min 64 (s.pwr.capLen + 4), capChange := some s.clk.wall, engineCap := engine, inputCap := input } }).lenUpdate
    else
      let rested := match s.pwr.capChange with
        | some w => decide (400000000 ≤ s.clk.wall - w)
        | none => true
      if decide (s.enginePower * 100 < s.pwr.ceil * 9500000) && decide (s.inputPower < 3800000000) && rested &&
          decide (16 < s.pwr.capLen) then
        ({ s with pwr := { s.pwr with capLen := max 16 (s.pwr.capLen - 2), capChange := some s.clk.wall } }).lenUpdate
      else s

/-- MON_PERIOD_END: `raw` is each channel's raw count, and whether its input is beyond full scale. -/
def execMonPeriodEnd (raw : List (BitVec 24 × Bool)) (s : State) : Host.Outcome State Fault Refusal :=
  .next (
    if s.up then
      let s := State.each (List.range 32) (fun s n => s.periodOf raw n) s
      s.calStep.periodChange.capEval
    else s)

/-! ## Accesses -/

/-- A read of MON_ACC_LO latches the four others for the requester (R376). -/
def State.readMonAcc (s : State) (j : Nat) : Word × State :=
  let x := s.chan (s.sel j).mon
  (BitVec.ofNat 32 x.acc,
   s.modLatch j fun y => { y with accHi := x.acc / 2 ^ 32, monCount := x.count, monMin := x.min, monMax := x.max })

def execMonAccLoRead (who : Who) (s : State) : Host.Outcome State Fault Refusal :=
  .next (s.readAs who fun j s => s.readMonAcc j)

/-- A privileged write on the requester's selected channel. -/
def State.onChan (s : State) (who : Who) (f : Nat → State → State) : State :=
  s.prvWrite who fun j s => f (s.sel j).mon s

def State.monClear (s : State) (n : Nat) : State := s.modChan n fun x => { x with clearNext := true, setAt := note x.setAt 5 s.clk.elapsed }
/-- SOURCE of an ordinary channel; a privileged channel ignores it (R377). -/
def State.monSource (s : State) (n src : Nat) : State :=
  if n < 8 then s else s.modChan n fun x => { x with source := src, clearNext := true }
def State.monCal (s : State) : State :=
  ({ s with mon := { s.mon with calBit := true, setAt := note s.mon.setAt 3 s.clk.elapsed } }).calBegin
def State.monPeriod (s : State) (p : Nat) : State :=
  if p = 3 then s else { s with mon := { s.mon with periodReq := if p = s.mon.period then none else some p } }
/-- A restored OFFSET or GAIN takes effect at the channel's next period boundary (R379). -/
def State.monRestore (s : State) (n : Nat) (gain : Bool) (v : Nat) : State :=
  s.modChan n fun x => if gain then { x with wGain := some v } else { x with wOfs := some (signed 24 v) }

def execMonClear (who : Who) (s : State) : Host.Outcome State Fault Refusal :=
  .next (s.onChan who fun n s => s.monClear n)
def execMonSourceSet (who : Who) (src : Fin 4) (s : State) : Host.Outcome State Fault Refusal :=
  .next (s.onChan who fun n s => s.monSource n src.val)
def execMonCal (who : Who) (s : State) : Host.Outcome State Fault Refusal :=
  .next (s.prvWrite who fun _ s => s.monCal)
def execMonPeriodSet (who : Who) (p : Fin 4) (s : State) : Host.Outcome State Fault Refusal :=
  .next (s.prvWrite who fun _ s => s.monPeriod p.val)
def execMonCalRestore (who : Who) (gain : Bool) (v : Word) (s : State) : Host.Outcome State Fault Refusal :=
  .next (s.onChan who fun n s => s.monRestore n gain v.toNat)

end Sys2Proof.Machine
end

