-- ==== Sys2Proof/Machine/Phases.lean ====
section
/-! DEFINITION. The phases of a reset after its fence (R293, Table 11.4): drain, dump (R296-R299), reset, restore and
return. -/

namespace Sys2Proof.Machine

/-! ## F2: drain -/

/-- A step still in flight at the end of F2 stops (R294): one past its budgeted end is abandoned as hung; another is
suppressed, its slots are marked, and its knot is set at its budgeted end pick. -/
def State.stopFlight (s : State) (r : Run) : State :=
  let st := s.stepAt r.ctx r.list r.idx
  let stop := s.stepEndPick r.ctx st r.iter
  if stop ≤ s.clk.pick then s.abandon r
  else
    let d : Due := ⟨r.ctx, r.list, r.idx, r.iter, r.start, true, stop, none, none, none, 0⟩
    let s := { s with sched := { s.sched with
      runs := s.sched.runs.filter (fun x => !(sameRun r.ctx r.list r.idx x && x.iter == r.iter)), due := s.sched.due ++ [d] } }
    ((s.freeUnit r).check r.ctx st.slot fun k => { k with suppressed := true }).refresh

/-- F2 may end: the domain's steps have finished, or its limit has been reached. -/
def State.drained (s : State) (kind idx : Nat) : Bool :=
  (s.flights kind idx).isEmpty || decide ((s.domain kind idx).drainBy ≤ s.clk.pick)

/-- DRAIN_COMPLETE: the dump engine reads the islands as they stand, then what is still in flight stops. -/
def execDrainComplete (kind : Fin 12) (idx : BitVec 12) (s : State) : Host.Outcome State Fault Refusal :=
  .next (
    let k := kind.val
    let i := idx.toNat
    if s.powered && (s.domain k i).phase == 2 && s.drained k i then
      let isl := (domainIslands k i).map (fun x => s.islandRecord x.1 x.2 (b2n (s.islandHung x.1 x.2)))
      let fl := s.flights k i
      let s := State.each fl (fun s r => s.stopFlight r) s
      let s := State.each (fl.map (·.ctx)).eraseDups (fun s c => s.cutSettle c) s
      s.modDomain k i fun d => { d with phase := 3, islands := isl }
    else s)

/-! ## F3: dump -/

def dumpSizeOf (islands : List Island) (knots : Nat) : Nat :=
  128 + sumNat (islands.map (fun x => 64 + x.data.length)) + 16 * knots
def Dump.size (d : Dump) : Nat := dumpSizeOf d.islands d.knots.length

/-- An island that gave no scan data in time, or was left out of a truncated dump. -/
def Island.without (x : Island) (state : Nat) : Island :=
  { x with state := state, list := 0xFF, step := 0, iteration := 0, handshake := 0, outstanding := 0, data := [] }

/-- Keep the first islands up to `room` bytes of data; the rest have STATE 3 (R298). Whether any was left out. -/
def truncateIslands : Nat → List Island → List Island × Bool
  | _, [] => ([], false)
  | room, x :: t =>
    if x.data.length ≤ room then
      let (l, b) := truncateIslands (room - x.data.length) t
      (x :: l, b)
    else ((x :: t).map (fun y => y.without 3), true)

def dumpBuffer : Nat := 7274496

/-- The dumps fit the buffer with one more of `n` bytes. -/
def dumpsFit (l : List Dump) (n : Nat) : Bool := decide (l.length < 63 ∧ sumNat (l.map Dump.size) + n ≤ dumpBuffer)

/-- Free the oldest dumps that `p` selects until `n` bytes fit; dumps are kept oldest first (R299). -/
def freeDumps (p : Dump → Bool) (n : Nat) : List Dump → List Dump → List Dump
  | kept, [] => kept
  | kept, d :: t =>
    if dumpsFit (kept ++ d :: t) n then kept ++ d :: t
    else if p d then freeDumps p n kept t else freeDumps p n (kept ++ [d]) t

/-- Room for a dump of `n` bytes: none when it is dropped. -/
def makeRoom (module_ : Bool) (n : Nat) (l : List Dump) : List Dump × Bool :=
  let l := freeDumps (fun d => d.read) n [] l
  if dumpsFit l n then (l, true)
  else if module_ then (freeDumps (fun _ => true) n [] l, true)
  else (l, false)

/-- The dump of a domain at the end of F3, without its sequence number. -/
def State.makeDump (s : State) (kind idx : Nat) (absent : List Nat) : Dump :=
  let d := s.domain kind idx
  let isl := d.islands.zipIdx.map (fun x => if absent.contains x.2 then x.1.without 2 else x.1)
  let fixed := 128 + 64 * isl.length + 16 * d.knots.length
  let (kept, cut) := if dumpSizeOf isl d.knots.length ≤ 2097152 then (isl, false) else truncateIslands (2097152 - fixed) isl
  { kind := kind, detector := d.detector, index := idx, seq := s.rcv.dumpSeq, originPick := d.originPick
    fencePick := d.fencePick, endPick := s.clk.pick, islands := kept, truncated := cut
    root := !s.rcv.rootProvisional && (s.rcv.root.map (·.seq)) == some d.logSeq, read := false, damaged := false
    logSeq := d.logSeq, dumapGen := d.gen, knots := d.knots.map (fun a => (a, s.knot a)) }

/-- Store a dump; its log entry records it. A dump that does not fit is dropped. -/
def State.storeDump (s : State) (d : Dump) : State :=
  let (l, fits) := makeRoom (d.kind == 0xB) d.size s.rcv.dumps
  if fits then
    let mark (e : LogEntry) : LogEntry := if e.seq = d.logSeq then { e with dumpSeq := d.seq } else e
    { s with rcv := { s.rcv with
      dumps := l ++ [d], dumpSeq := s.rcv.dumpSeq + 1, log := s.rcv.log.map mark } }
  else { s with rcv := { s.rcv with dumps := l, dumpDropped := true, setAt := note s.rcv.setAt 13 s.clk.elapsed } }

/-- DUMP_COMPLETE: `absent` lists the positions of islands that returned no scan data. -/
def execDumpComplete (kind : Fin 12) (idx : BitVec 12) (absent : List Nat) (s : State) : Host.Outcome State Fault Refusal :=
  .next (
    let k := kind.val
    let i := idx.toNat
    if s.powered && (s.domain k i).phase == 3 then
      let d := s.domain k i
      let s := s.storeDump (s.makeDump k i absent)
      let s := s.modDomain k i fun d => { d with islands := [], knots := [] }
      if k = 0xB then s.reboot
      else if d.doomed then s.retire k i d.detector
      else s.modDomain k i fun d => { d with phase := 4 }
    else s)

/-! ## F4: reset -/

/-- Harnesses of a domain. -/
def domainHarnesses (kind i : Nat) : List Nat :=
  if kind = 1 then [i] else if kind = 8 then (List.range 128).map (fun j => i * 128 + j)
  else if kind = 9 then (List.range 1024).map (fun j => i * 1024 + j) else []

/-- The heddle sequencers, row drivers and converters of a harness are re-initialised; cells, counts and the counts of the scrub pass
stay (R62, R71), REQ_STATE is 1 again (R14). Its full trim begins (R71 step 3). -/
def State.resetHarness (s : State) (h : Nat) : State :=
  let s := State.each (heddlesOf h) (fun s g => s.modHeddle g fun x => { x with
    tile0 := {}, tile1 := {}, lastFail := {}, marginal := false, patternLost := false, repair := [] }) (s.dropWindow h)
  s.modHarness h fun x => { x with
    req := 1, trimBusy := x.state == 1 || x.state == 2, trimWindows := 0, trimBit := false, scrubBusy := false }

/-- The beaters of a loom are re-initialised: SAT and BANK of BTR_SAT_STAT are 0 (R14). -/
def State.resetBeaters (s : State) (l : Nat) : State :=
  let clear (g : Nat) (x : Heddle) : Heddle := if g / 65536 = l then { x with satFlag := false, satBank := 0 } else x
  { s with arr := { s.arr with heddles := Tab.mapAll {} clear s.arr.heddles } }

/-- A port is re-initialised: ENABLE is 1 (R14), and it trains to the same peer. -/
def State.resetPort (s : State) (p : Nat) : State :=
  (s.upstreamDown p).modPort p fun x =>
    { x.fresh (if x.state = 3 then 3 else 1) with
      enable := true, peer := x.peer, peerPort := x.peerPort, peerProfile := x.peerProfile, peerFw := x.peerFw, planPlace := x.planPlace }

def State.resetShuttle (s : State) (n : Nat) : State :=
  s.modShuttle n fun x => { stat := x.stat, residue := x.residue, tally := x.tally, page := x.page, empty := x.empty }

/-- Every BUSY mailbox completes with 0x43. -/
def State.endMailboxes (s : State) : State :=
  let busy := (s.mbx.filter (fun e => e.2.busy)).map (·.1)
  State.each busy (fun s m => s.complete m 0x43 []) s

/-- A mailbox after a reset of hub function 0: at its reset values (R14), but that the holder of one that was BUSY finds its
completion there. -/
def Mailbox.afterReset (b : Mailbox) : Mailbox :=
  if b.busy then
    { slot := b.slot, held := b.held, opcode := b.opcode, tag := b.tag, busy := true, status := b.status, statTag := b.statTag
      since := b.since }
  else {}

/-- Weaver core and mailboxes: commands in progress complete with 0x43 and leave nothing behind (Table 11.3). -/
def State.resetWeaver (s : State) : State :=
  let s := State.each s.ctxNums (fun s c => s.dropHeld c 0x43 none) s
  let s := ({ s with mbx := Tab.mapAll {} (fun _ b => b.afterReset) s.mbx }).endMailboxes
  let free (_ : Nat) (d : Domain) : Domain := { d with mbx := none }
  { s with
    kvt := { s.kvt with waitingCmds := [] }, time := { s.time with alignMbx := none, alignReplies := [], alignDone := none }
    pwr := { s.pwr with targetMbx := none }, rcv := { s.rcv with domains := Tab.mapAll {} free s.rcv.domains } }

/-- Crypto engine: loads and key unwrapping in progress end with 0x43. -/
def State.resetCrypto (s : State) : State :=
  let s := State.each s.ctxNums (fun s c => s.endHeld c 0x43 none) s
  let waiting := (s.mbx.filter (fun e => e.2.busy && e.2.opcode == 0x1002)).map (·.1)
  State.each waiting (fun s m => s.complete m 0x43 []) s

/-- Every requester's selectors in a block are 0 (R14). -/
def State.clearSels (s : State) (f : Selectors → Selectors) : State :=
  { s with acc := { s.acc with sels := Tab.mapAll {} (fun _ x => f x) s.acc.sels } }

/-- The effect of a hub function's reset: Table 11.3, and the registers of its block at their reset values (R14). -/
def State.resetHub (s : State) (i : Nat) : State :=
  match i with
  | 0 => s.resetWeaver
  | 1 =>
    let idle (_ : Nat) (g : Ring) : Ring := { g with overflow := false, badEntry := false }
    { s with srv := { s.srv with reqs := [], rings := Tab.mapAll {} idle s.srv.rings } }.clearSels fun x => { x with ring := 0 }
  | 2 => s.clearSels fun x => { x with tenant := 0 }
  | 3 =>
    { s with kvt := { s.kvt with
      tableBase := 0, smapBase := 0, arenas := [], cachePt := [], cacheSm := [], faultValid := false, faultCause := 0, faultCtx := 0
      faultPage := 0, faultStream := 0, faultLayer := 0 } }.clearSels fun x => { x with arena := 0 }
  | 5 => s.resetCrypto
  | 6 =>
    let a : Access := {}
    { s with acc := { s.acc with slots := a.slots, autoPriv := a.autoPriv } }
  | 7 => { s with sec := { s.sec with i3cOffset := 0, i3cDyn := none } }
  | _ => s

/-- Engines of the islands of a domain. -/
def domainEngines (kind i : Nat) : List Nat := (domainIslands kind i).filterMap (fun x => islandEngine x.1 x.2)

/-- A loom's store is cleared, and the copies of sealed weights in it are gone. -/
def State.resetStore (s : State) (i : Nat) : State :=
  let gone := s.arr.sealedCopies.filter (fun x => !overlaps x.1 x.2 (loomStore i) loomStoreSize)
  { s.zero (loomStore i) loomStoreSize with arr := { s.arr with sealedCopies := gone } }

/-- A loom's shuttles, ports, beaters, store and temperature fields, as its reset leaves them: the reference temperature is the
reading at this moment, when the full trims begin (R60). -/
def State.resetLoom (s : State) (i : Nat) : State :=
  let s := State.each ((List.range 96).map (fun j => i * 96 + j)) (fun s n => s.resetShuttle n) s
  let s := State.each ((List.range 9).map (fun j => i * 9 + j)) (fun s p => s.resetPort p) s
  let s := (s.resetBeaters i).resetStore i
  s.modLoom i fun x => { x with tRef := s.loomHottest i, retrimBusy := false, retrimCount := 0 }

/-- Every island of a domain is re-initialised (R293). -/
def State.resetIslands (s : State) (kind i : Nat) : State :=
  let s := State.each (domainHarnesses kind i) (fun s h => s.resetHarness h) s
  match kind with
  | 2 => s.resetShuttle i
  | 7 => s.resetPort i
  | 9 => s.resetLoom i
  | 0xA => s.resetHub i
  | _ => s

/-- The engines of a domain start without the step each last ran. -/
def State.forgetSteps (s : State) (kind i : Nat) : State :=
  let fresh := domainEngines kind i
  { s with sched := { s.sched with last := s.sched.last.filter (fun x => !fresh.contains x.1.engine) } }

/-- RESET_RELEASE: reset was asserted for 1 µs; every island of the domain is re-initialised, and its restore begins: harnesses
that hold their contents begin their full trims. The module's own reset is its boot. -/
def execResetRelease (kind : Fin 12) (idx : BitVec 12) (s : State) : Host.Outcome State Fault Refusal :=
  .next (
    let k := kind.val
    let i := idx.toNat
    if s.powered && (s.domain k i).phase == 4 then
      ((s.resetIslands k i).forgetSteps k i).modDomain k i fun d =>
        { d with phase := 5, restoreFrom := s.clk.elapsed, restoreWall := s.clk.wall }
    else s)

/-! ## F5 and F6: restore and return -/

/-- R71 steps 3 and 4 of a harness that holds its contents: its full trim has ended, and every row is scrubbed. -/
def State.restoreHarness (s : State) (h : Nat) : State :=
  if (s.harness h).state = 0 then s else (if (s.harness h).trimBusy then s.trimmed h else s).scrubHarness h

/-- Rows that the restore of a domain has to repair. -/
def State.restoreRows (s : State) (kind i : Nat) : Nat :=
  sumNat ((domainHarnesses kind i).map (fun h => sumNat ((heddlesOf h).map (fun g =>
    if (s.heddle g).programmed && s.repairable g then (s.badRows g (List.range 512)).length else 0))))

/-- The restore limit of Table 11.2 has passed. -/
def State.restoreLate (s : State) (kind i : Nat) : Bool :=
  let d := s.domain kind i
  let picks (n : Nat) : Bool := decide (d.restoreFrom + n < s.clk.elapsed)
  let wall (n : Nat) : Bool := decide (d.restoreWall + n < s.clk.wall)
  match kind with
  | 1 => picks (4096 + s.restoreRows kind i)
  | 2 => picks 2048
  | 5 => wall 80000
  | 7 => wall 20000000
  | 8 => picks (8192 + s.restoreRows kind i)
  | 9 => picks (16384 + s.restoreRows kind i)
  | _ => wall 200000000

/-- The restore work can be done: a port is up again; a UCIe link is up (R319, R324); Adoraku's image in hub-owned HBM verifies (R390). -/
def State.restorable (s : State) (kind i : Nat) : Bool :=
  if kind = 7 then (s.port i).state == 2 || !(s.port i).enable
  else if kind = 0xA ∧ i = 6 then !s.hs.shut && !s.acc.linksUp.isEmpty
  else if kind = 0xA ∧ i = 0 then s.sec.stage != 4 || objStatus s.sec.revoked (s.read imageBase s.sec.fwImage.length) == 0
  else true

/-- RESTORE_COMPLETE: the restore work is done and FENCED clears. A RESET written to a harness in this pick wins over the clearing of its
bit (R12): the harness is reset once more. -/
def execRestoreComplete (kind : Fin 12) (idx : BitVec 12) (s : State) : Host.Outcome State Fault Refusal :=
  .next (
    let k := kind.val
    let i := idx.toNat
    if s.powered && (s.domain k i).phase == 5 && s.restorable k i then
      let mbx := (s.domain k i).mbx
      let s := State.each (domainHarnesses k i) (fun s h => s.restoreHarness h) s
      let s := s.modDomain k i fun d => { d with phase := 0, mbx := none }
      let again := (domainHarnesses k i).filter (fun h => (s.harness h).resetBit && notedNow (s.harness h).setAt 8 s.clk.elapsed)
      let s := State.each (domainHarnesses k i) (fun s h => s.modHarness h fun x => { x with resetBit := again.contains h }) s
      let s := match mbx with
        | some m => s.complete m 0 []
        | none => s
      let s := if k = 0xA ∧ i = 6 then
          State.each (s.srv.rings.map (·.1)) (fun s r => unspill r (s.ring r).spilled.length s) s
        else s
      (State.each again (fun s h => s.fault 1 h 0xD) s).refresh
    else s)

/-- RESTORE_TIMEOUT: at the restore limit the reset counts as failed, and the domain is reset again from F1. The host port of a host site that is
shut down stays fenced (R319). -/
def execRestoreTimeout (kind : Fin 12) (idx : BitVec 12) (s : State) : Host.Outcome State Fault Refusal :=
  .next (
    let k := kind.val
    let i := idx.toNat
    let d := s.domain k i
    if s.powered && d.phase == 5 && s.restoreLate k i && !(k == 0xA && i == 6 && s.hs.shut) then
      let seq := s.rcv.logSeq
      (s.declare k i d.detector).fence k i d.detector s.clk.pick seq
    else s)

end Sys2Proof.Machine
end

