-- ==== Sys2Proof/Machine/Recovery.lean ====
section
/-! DEFINITION. The recovery commands that read and free dumps and error log entries, and MODULE_RETURN (R303, R316). -/

namespace Sys2Proof.Machine

/-! ## Dumps -/

/-- An island record (Table 11.7). -/
def Island.bytes (x : Island) : Bytes :=
  toLe 4 (x.index % 2 ^ 24 + x.unitKind * 2 ^ 24) ++ toLe 1 x.state ++ toLe 1 x.list ++ toLe 2 0 ++ toLe 4 x.step ++
    toLe 4 x.iteration ++ toLe 8 x.pick ++ toLe 4 x.handshake ++ toLe 4 x.outstanding ++ toLe 4 x.data.length ++
    toLe 4 (crc32c x.data).toNat ++ toLe 24 0 ++ x.data

/-- The header of a dump without its CRC (Table 11.6). -/
def Dump.header (d : Dump) (root : Bool) : Bytes :=
  toLe 2 1 ++ toLe 1 d.kind ++ toLe 1 d.detector ++ toLe 4 d.index ++ toLe 4 d.seq ++ toLe 4 d.size ++
    toLe 8 d.originPick ++ toLe 8 d.fencePick ++ toLe 8 d.endPick ++ toLe 4 d.islands.length ++
    toLe 2 (d.islands.filter (fun x => x.state == 1)).length ++ toLe 2 (d.islands.filter (fun x => x.state == 2)).length ++
    toLe 1 (b2n d.truncated + 2 * b2n root + 4 * b2n d.read + 8 * b2n d.damaged) ++ toLe 3 0 ++ toLe 4 d.logSeq ++
    toLe 4 d.dumapGen ++ toLe 4 d.knots.length ++ toLe 60 0

/-- The dump as DUMP_READ copies it. -/
def Dump.bytes (d : Dump) (root : Bool) : Bytes :=
  let h := d.header root
  h ++ toLe 4 (crc32c h).toNat ++ d.islands.flatMap Island.bytes ++
    d.knots.flatMap (fun k => toLe 8 k.1 ++ toLe 8 k.2)

/-- The dump's fault has been named root cause. -/
def State.dumpRoot (s : State) (d : Dump) : Bool := d.root || s.rcv.log.any (fun e => e.seq == d.logSeq && e.root)

/-- The dump that DUMP_READ names: its SEQ, or the oldest unread. -/
def State.namedDump (s : State) (seq : Nat) : Option Dump :=
  if seq = max32 then s.rcv.dumps.find? (fun d => !d.read) else s.rcv.dumps.find? (fun d => d.seq == seq)

/-- Words of retention SRAM are read, with the bits that are wrong in each (R260, R261): whether any cannot be corrected. -/
def State.sramRead (s : State) (bits : List (BitVec 64)) : Bool × State :=
  let ds := bits.map (fun b => secded b.toNat)
  (ds.any (fun d => d.detected != 0), State.each ds (fun s d =>
    State.each (List.range d.detected) (fun s _ => s.eccUncorrected 28) (State.each (List.range d.corrected) (fun s _ => s.eccCorrected 28) s)) s)

/-- DMP_STAT.DAMAGED. -/
def State.noteDamage (s : State) : State :=
  { s with rcv := { s.rcv with dumpDamaged := true, setAt := note s.rcv.setAt 14 s.clk.elapsed } }

/-- DUMP_READ. With the mailbox come the bits that are wrong in words of the dump; a word that its code cannot correct marks it DAMAGED
(R290). -/
def execDumpRead (m : Fin 16 × List (BitVec 64)) (s : State) : Host.Outcome State Fault Refusal :=
  .next (s.command m.1.val 0x4010 fun b s =>
    match s.namedDump (b.arg 0) with
    | none => s.complete m.1.val 0x11 []
    | some d =>
      let a := b.arg2 1
      let len := b.arg 3
      let (bad, t) := s.sramRead m.2
      let bs := Dump.bytes { d with damaged := d.damaged || bad } (s.dumpRoot d)
      if pastXfer m.1.val b a len then s.complete m.1.val 0x11 []
      else if len < bs.length then s.complete m.1.val 0x11 [bs.length]
      else
        let s := if bad then t.noteDamage else t
        let mark (x : Dump) : Dump := if x.seq = d.seq then { x with read := true, damaged := x.damaged || bad } else x
        (({ s with rcv := { s.rcv with dumps := s.rcv.dumps.map mark } }).hostPut m.1.val b a bs).complete m.1.val 0 [d.seq, bs.length])

def execDumpRelease (m : Fin 16) (s : State) : Host.Outcome State Fault Refusal :=
  .next (s.command m.val 0x4011 fun b s =>
    if s.rcv.dumps.any (fun d => d.seq == b.arg 0) then
      ({ s with rcv := { s.rcv with dumps := s.rcv.dumps.filter (fun d => d.seq != b.arg 0) } }).complete m.val 0 []
    else s.complete m.val 0x11 [])

/-! ## The error log -/

/-- An error log entry (Table 11.9). -/
def LogEntry.bytes (e : LogEntry) : Bytes :=
  let body := toLe 4 e.seq ++ toLe 8 e.originPick ++ toLe 2 e.place ++ toLe 1 e.kind ++ toLe 1 e.detector ++ toLe 4 e.index ++
    toLe 1 (b2n e.isLocal + 2 * b2n e.root + 4 * b2n e.echo + 8 * b2n e.echoReset + 16 * b2n e.damaged) ++ toLe 3 0 ++
    toLe 4 e.dumpSeq
  body ++ toLe 4 (crc32c body).toNat

/-- ERRLOG_READ: entries from a SEQ on, in SEQ order, at most `count`; those no longer held are skipped. With the
mailbox come the bits that are wrong in a word of the n-th entry read; one that its code cannot correct marks the entry DAMAGED (R290). -/
def execErrlogRead (m : Fin 16 × List (Nat × BitVec 64)) (s : State) : Host.Outcome State Fault Refusal :=
  .next (s.command m.1.val 0x4012 fun b s =>
    let first := b.arg 0
    let count := b.arg 1
    let es := s.rcv.log.reverse.filter (fun e => decide (first ≤ e.seq ∧ e.seq < first + count))
    if pastXfer m.1.val b (b.arg2 2) (32 * count) then s.complete m.1.val 0x11 []
    else
      let hit := (m.2.filter (fun u => decide ((secded u.2.toNat).detected ≠ 0))).filterMap (fun u => es[u.1]?.map (·.seq))
      let spoil (e : LogEntry) : LogEntry := { e with damaged := e.damaged || hit.contains e.seq }
      let bs := (es.map spoil).flatMap LogEntry.bytes
      let (_, s) := s.sramRead ((m.2.filter (fun u => decide (u.1 < es.length))).map (·.2))
      let s := if hit.isEmpty then s else ({ s with rcv := { s.rcv with log := s.rcv.log.map spoil } }).noteDamage
      (s.hostPut m.1.val b (b.arg2 2) bs).complete m.1.val 0 [es.length, ((s.rcv.log.getLast?).map (·.seq)).getD s.rcv.logSeq])

/-! ## MODULE_RETURN -/

def execModuleReturn (m : Fin 16) (s : State) : Host.Outcome State Fault Refusal :=
  .next (s.command m.val 0x4015 fun _ s =>
    if s.rcv.oos then ({ s with rcv := { s.rcv with oos := false, modStarts := [] } }).complete m.val 0 []
    else s.complete m.val 0x11 [])

end Sys2Proof.Machine
end

