-- ==== Sys2Proof/Machine/Power.lean ====
section
/-! DEFINITION. Input and rails (R25, R348, R350-R352), power-on and power loss (R300, R395), and the power states
(R353-R355). -/

namespace Sys2Proof.Machine

/-! ## Loss and return of power -/

/-- The module without power: only the flash and what it holds of the health history outlive it (Table 11.8). -/
def State.dark (s : State) : State :=
  { pending := s.pending, tick := s.tick, out := s.out
    pwr := { input := false, bmPwrgd := false }
    hs := { present := false }
    sec := { flash := s.sec.flash }
    health := { events := s.health.events, nextSeq := s.health.nextSeq, dumap := s.health.dumap
                seconds := s.health.flashSeconds, flashSeconds := s.health.flashSeconds }
    thm := { sensors := Tab.mapAll {} (fun _ x => { reading := x.reading }) s.thm.sensors } }

/-- INPUT_POWER_LOSS. -/
def execInputPowerLoss (s : State) : Host.Outcome State Fault Refusal :=
  .next (if s.pwr.input then s.dark else s)

/-- A sensor reads 100.0 °C or above. -/
def State.tooHot (s : State) : Bool := s.thm.sensors.any (fun x => decide (400 ≤ x.2.reading))

/-- POWER_ON: straps and HS_PRESENT_N are sampled (R395, R319), the counters start at 0, boot begins. With a sensor at
100.0 °C or above the rails other than AON stay off (R370). -/
def execPowerOn (hsPresent : Bool) (bmAddr : Fin 8) (cfgRecoverLow cfgLineHigh : Bool) (s : State) :
    Host.Outcome State Fault Refusal :=
  .next (
    if s.pwr.input then s
    else
      let hot := s.tooHot
      let p : Power := { bmAddr := bmAddr.val, cfgRecoverLow := cfgRecoverLow, cfgLineHigh := cfgLineHigh, tripped := hot, coldStart := hot, bmPwrgd := !hot }
      let h : HostSite := { present := hsPresent }
      { s with pwr := p, hs := if hot then h else h.powerUp 0 })

/-- INPUT_OUT_OF_RANGE: 1 ms outside 46–60 V. -/
def execInputOutOfRange (mv : BitVec 32) (s : State) : Host.Outcome State Fault Refusal :=
  .next (
    if s.powered && !s.pwr.inputLow then
      ({ s with pwr := { s.pwr with inputLow := true, bmPwrgd := false } }).logEvent s.place 0x21 mv.toNat
    else s)

/-- INPUT_BACK_IN_RANGE: BM_PWRGD is high again while every rail is in regulation. -/
def execInputBackInRange (s : State) : Host.Outcome State Fault Refusal :=
  .next (
    if s.powered && s.pwr.inputLow then
      { s with pwr := { s.pwr with inputLow := false, bmPwrgd := !s.pwr.railFault } }
    else s)

/-- The rail has failed: BM_PWRGD is low and the module is held in reset. -/
def State.railDown (s : State) : State := { s with pwr := { s.pwr with railFault := true, bmPwrgd := false } }

/-- RAIL_FAULT (R352); on AON it is power loss. -/
def execRailFault (aon : Bool) (s : State) : Host.Outcome State Fault Refusal :=
  .next (
    if !s.powered then s
    else if aon then s.dark
    else (s.moduleReset 0x0F).railDown)

/-- RAILS_BACK_IN_REGULATION for 10 ms. -/
def execRailsBackInRegulation (s : State) : Host.Outcome State Fault Refusal :=
  .next (
    if s.powered && s.pwr.railFault then
      { s with pwr := { s.pwr with railFault := false, bmPwrgd := !s.pwr.inputLow } }
    else s)

/-- REFERENCE_OSCILLATOR_FAIL: the module is held in reset, and BM_ALERT_N is low, until power is lost (R25). -/
def execReferenceOscillatorFail (s : State) : Host.Outcome State Fault Refusal :=
  .next (if s.pwr.input then { s with pwr := { s.pwr with oscFailed := true } } else s)

/-- BM_RESET: a module reset of detector 0x0D; the module stays in reset while the pin is low. -/
def execBmReset (s : State) : Host.Outcome State Fault Refusal :=
  .next (
    if s.powered && !s.pwr.bmResetHeld then
      let s := s.moduleReset 0x0D
      { s with pwr := { s.pwr with bmResetHeld := true } }
    else s)

def execBmResetRelease (s : State) : Host.Outcome State Fault Refusal :=
  .next (if s.powered && s.pwr.bmResetHeld then { s with pwr := { s.pwr with bmResetHeld := false } } else s)

/-- The levels of BM_ALERT_N (low is true) and BM_PWRGD (R348). -/
def State.bmAlertLow (s : State) : Bool := s.alertStat != 0 || s.pwr.oscFailed || s.pwr.tripped || s.sec.stage == 5

/-! ## Power states -/

/-- PWR_STAT.STATE. -/
def State.powerState (s : State) : Nat :=
  if s.pwr.target.isSome then 4 else if s.pwr.mode = 1 then (if s.enabled.isEmpty then 1 else 0) else s.pwr.mode

/-- What R354 refuses. -/
def State.stateRefused (s : State) (t : Nat) : Bool :=
  t == 0 || decide (3 < t) || t == s.powerState ||
    (t == 2 && (!s.enabled.isEmpty || s.twin.state == 1 || s.ctxs.any (fun x => x.2.held.isSome))) ||
    (t == 3 && s.ctxs.any (fun x => x.2.ctl.opened))

/-- PWR_STATE_SET. In transition it waits; from Run, Idle is reached when no context is enabled. -/
def execPwrStateSet (m : Fin 16) (s : State) : Host.Outcome State Fault Refusal :=
  .next (s.command m.val 0x0020 fun b s =>
    let t := b.arg 0
    if s.pwr.target.isSome then s
    else if s.pwr.targetMbx = some m.val then
      (if s.powerState = 1 then ({ s with pwr := { s.pwr with targetMbx := none } }).complete m.val 0 [] else s)
    else if s.stateRefused t then s.complete m.val 0x11 []
    else if t = 1 ∧ s.pwr.mode = 1 then { s with pwr := { s.pwr with targetMbx := some m.val } }
    else s.powerTo t (some m.val))

/-- Ports go Down, or train anew (R338). A Retired port stays. -/
def State.portsTo (s : State) (state : Nat) : State :=
  State.each (List.range 36) (fun s p =>
    if (s.port p).state = 3 then s
    else (s.upstreamDown p).modPort p fun x => x.fresh (if x.enable then state else 0)) s

/-- The harnesses that are requested Active return (R69). -/
def State.harnessesReturn (s : State) : State :=
  State.each (List.range 4096) (fun s h =>
    if s.outOfUse 1 h ∨ (s.harness h).req ≠ 1 ∨ (s.harness h).state = 1 then s
    else (s.returnActive h).transitionDone h) s

def State.storesZero (s : State) : State :=
  State.each [0, 1, 2, 3] (fun s l => s.zero (loomStore l) loomStoreSize) s

/-- Enter Retention: Active harnesses go to Retention, ports Down, loom store loses its contents (R355). -/
def State.toRetention (s : State) : State :=
  let s := State.each (List.range 4096) (fun s h =>
    if (s.harness h).state = 0 then s
    else (s.calStop h).modHarness h fun x => { x with state := 2, goal := none, held := false, reprogram := false }) s
  (s.portsTo 0).storesZero

/-- Enter Standby: harnesses Off, HBM and loom store unpowered, ports Down. -/
def State.toStandby (s : State) : State :=
  let s := State.each (List.range 4096) (fun s h =>
    ((s.calStop h).modHarness h fun x =>
      { x with state := 0, goal := none, held := false, reprogram := false, zeroing := false }).loseCells h) s
  (s.portsTo 0).setMem {}

/-- POWER_STATE_REACHED. -/
def execPowerStateReached (s : State) : Host.Outcome State Fault Refusal :=
  .next (
    match s.pwr.target with
    | none => s
    | some t =>
      if !s.up then s
      else
        let mbx := s.pwr.targetMbx
        let starts := s.pwr.enableAfter
        let s := { s with pwr := { s.pwr with mode := t, target := none, targetMbx := none, enableAfter := [] } }
        let s := if t = 2 then s.toRetention else if t = 3 then s.toStandby else s.storesZero.harnessesReturn.portsTo 1
        let s := if t = 1 then State.each starts (fun s c => s.startCheck c) s else { s with pwr := { s.pwr with enableAfter := starts } }
        let s := if t ≠ 1 ∧ starts ≠ [] then s.powerTo 1 none else s
        match mbx with
        | some m => s.complete m 0 []
        | none => s)

end Sys2Proof.Machine
end

