-- ==== Sys2Proof/Machine/Boot.lean ====
section
/-! DEFINITION. Boot: the phases of Table 14.3 (R388-R392), the configuration record (R396, R397), key derivation (R381,
R385), recovery (R400), and the built-in self-test (R401). -/

namespace Sys2Proof.Machine

def State.modSec (s : State) (f : Sec → Sec) : State := { s with sec := f s.sec }

/-- Enter a boot phase; its limit counts from now. -/
def State.toStage (s : State) (n : Nat) : State :=
  s.modSec fun x => { x with stage := n, stageWall := s.clk.wall, phaseLate := false }

/-! ## Stages 0 and 1 -/

/-- The boot-stage region verifies as a boot stage of at most 1 MiB (R388, R389). -/
def State.bootVerifies (s : State) : Bool :=
  objStatus s.sec.revoked s.sec.flash.boot == 0 && objType s.sec.flash.boot == 1 &&
    decide (objSize s.sec.flash.boot ≤ 0x100000)

/-- Stage 1 begins: the boot stage runs and key derivation starts, if K is held (R381, R383). -/
def State.enterBootStage (s : State) : State :=
  let v := objVersion s.sec.flash.boot
  (s.modSec fun x => { x with
    bootVer := v, verifyFail := false, derivation := x.pufOk, derivationEnded := !x.pufOk, derivWall := s.clk.wall }).toStage 1

/-- ROM_VERIFY_DONE: the PUF is read (debug holds it powered down, R404); a boot stage that does not verify, or the strap,
leads to recovery. -/
def execRomVerifyDone (pufOk : Bool) (s : State) : Host.Outcome State Fault Refusal :=
  .next (
    if s.up && s.sec.stage == 0 then
      let s := s.modSec fun x => { x with pufOk := pufOk && !x.debug }
      if s.bootVerifies && !s.pwr.cfgRecoverLow then s.enterBootStage else s.toStage 5
    else s)

/-! ### The configuration record (Table 14.6) -/

def recordModule (b : Bytes) : Nat := le b 0 8
def recordOrder (b : Bytes) : Nat := le b 8 2
def recordSpares (b : Bytes) : Nat := byteAt b 0xA
def recordLine (b : Bytes) : Nat := byteAt b 0xB
def recordCeil (b : Bytes) : Nat := le b 0xC 2
def recordI3cPriv (b : Bytes) : Bool := bitOf (byteAt b 0xE) 0
def recordRevoke (b : Bytes) : Nat := byteAt b 0xF % 16
def recordMinFw (b : Bytes) : Nat := le b 0x10 4
def recordRids (b : Bytes) : List Nat := (List.range (min (le b 0x14 2) 8)).map (fun i => le b (0x16 + 2 * i) 2)

/-- The record is applied (R396): it verifies, is this module's, and does not revoke its own signer. -/
def State.recordValid (s : State) : Bool :=
  let o := s.sec.flash.record
  objStatus 0 o == 0 && objType o == 3 && recordModule (objBody o) == s.sec.moduleId &&
    !bitOf (recordRevoke (objBody o)) (objSigner o)

/-- PWR_CEIL takes 500 to 3,300 W. -/
def ceilInRange (w : Nat) : Nat := min 3300 (max 500 w)

/-- SCREEN for an order code (R8). -/
def screenOf (order : Nat) : Nat := if order = 1 then 1 else if order = 2 then 2 else 3

/-- Initial MON_CFG.PERIOD: the record's LINE, else the strap's (Table 14.5). -/
def State.linePeriod (s : State) (line : Nat) : Nat := if line ≤ 2 then line else if s.pwr.cfgLineHigh then 1 else 0

/-- The identity slots that a valid record sets: 0 to 7 from its list, slot 62; every host is privileged when it lists none
(R325). -/
def recordSlots (b : Bytes) : Tab Slot :=
  let rids := recordRids b
  let all := rids.isEmpty
  (List.range rids.length).map (fun i => (i, { rid := rids.getD i 0, valid := true, priv := true })) ++
    (if recordI3cPriv b then [(62, { priv := true })] else []) ++ (if all then [(63, { priv := true })] else [])

/-- Apply a valid record. -/
def State.applyRecord (s : State) : State :=
  let b := objBody s.sec.flash.record
  let s := s.modSec fun x => { x with
    recordOk := true, screen := screenOf (recordOrder b), revoked := recordRevoke b, minFw := recordMinFw b }
  let s : State := { s with
    arr := { s.arr with spareCfg := min 8 (recordSpares b) }
    mon := { s.mon with period := s.linePeriod (recordLine b) }
    pwr := { s.pwr with ceil := if recordCeil b = 0 then 3200 else ceilInRange (recordCeil b) } }
  { s with acc := { s.acc with slots := recordSlots b, autoPriv := (recordRids b).isEmpty } }

/-- Without a valid record the line period follows CFG_LINE; everything else stays as R397 says. -/
def State.withoutRecord (s : State) : State := { s with mon := { s.mon with period := s.linePeriod 0xFF } }

/-- The identifier that the boot stage computes from the certificate bundle: the first 8 bytes of the hash of a public key (R385); 0
when the bundle does not verify. -/
def State.bundleId (s : State) : Nat :=
  let o := s.sec.flash.certs
  if objStatus 0 o = 0 ∧ objType o = 6 then le (sha256 (Config.idRsaSpki (objBody o))) 0 8 else 0

/-! ### Self-test (R401) -/

/-- Units that a BIST item covers on this module. -/
def State.bistScope (s : State) (item : Nat) : List Nat :=
  match item with
  | 0 => (List.range 4096).filter (fun h => !s.outOfUse 1 h)
  | 1 => List.range 32
  | 2 => List.range 36
  | _ => List.range 8

/-- Write the result of a run on `tested`, and record its failures: converters and ports as health events, monitor channels
as event entries. -/
def State.bistResult (s : State) (item whenRun : Nat) (tested : List Nat) (o : BistOutcome) : State :=
  let bad := (o.failed.filter (fun u => tested.contains u)).eraseDups
  let r : Bist :=
    { run := true, pass := bad.isEmpty, whenRun := whenRun, failed := min 0xFFF bad.length, duration := o.duration % 65536
      tested := tested.length, scope := (s.bistScope item).length }
  let s := s.modSec fun x => { x with bist := Tab.put {} x.bist item r }
  State.each bad (fun s u =>
    if item = 0 then s.healthEvent 0xA 1 u 0xFF 0xFF 0
    else if item = 1 then s.logEvent s.place 0x24 u
    else if item = 2 then s.healthEvent 0xA 7 u 0xFF 0xFF 0 else s) s

def Bist.resWord (x : Bist) : Word :=
  pack [(0, 1, b2n x.run), (1, 1, b2n x.pass), (2, 2, x.whenRun), (4, 12, x.failed), (16, 16, x.duration)]
def Bist.covWord (x : Bist) : Word := pack [(0, 16, x.tested), (16, 16, x.scope)]

/-! ### The end of stage 1 -/

/-- The disabled-unit map is loaded from flash: one change (Table 7.8), its units are out of use (R279). -/
def State.loadMap (s : State) : State :=
  let s := { s with health := s.health.withMap s.health.dumap }
  State.each s.health.dumap (fun s e =>
    let s := s.takeDown e.1 e.2
    if e.1 = 3 ∨ e.1 = 4 ∨ e.1 = 6 then s else s.modDomain e.1 e.2 fun d => { d with retired := true }) s

/-- Full trims of every Active harness (R60); the looms' trim references are the temperatures at which they begin. (DESIGN CHOICE: the
boot's trims begin and end within the one command of its stage.) -/
def State.trimAll (s : State) : State :=
  let s := State.each [0, 1, 2, 3] (fun s l => s.modLoom l fun x => { x with tRef := s.loomHottest l }) s
  let trim (x : Harness) : Harness :=
    if x.state = 1 then { x with trimBit := false, trimBusy := false, trimWindows := 0, retrimWindows := 4, calBase := 0, calAt := some s.clk.elapsed }
    else x
  { s with arr := { s.arr with
    harnesses := (List.range 4096).foldl (fun t h => Tab.upd {} t h trim) s.arr.harnesses } }

/-- BOOT_STAGE_DONE: record and bundle verified and applied, history and map read, BIST run, harnesses trimmed, ports set
to train. A boot stage whose signer is revoked goes to recovery (R396). -/
def execBootStageDone (b0 b1 b2 b3 : BistOutcome) (s : State) : Host.Outcome State Fault Refusal :=
  .next (
    if s.up && s.sec.stage == 1 then
      let id := s.bundleId
      let s := s.modSec fun x => { x with moduleId := id }
      let s := if s.recordValid then s.applyRecord else s.withoutRecord
      if bitOf s.sec.revoked (objSigner s.sec.flash.boot) then s.toStage 5
      else
        let w := if s.sec.bootCause = 0 then 0 else 1
        let s := (s.loadMap).trimAll
        let s := s.bistResult 0 w (s.bistScope 0) b0
        let s := s.bistResult 1 w (s.bistScope 1) b1
        let s := s.bistResult 2 w (s.bistScope 2) b2
        let s := s.bistResult 3 w (s.bistScope 3) b3
        (s.portsTo 1).toStage 2
    else s)

/-- BOOT_PHASE_LATE: the phase has exceeded its limit in Table 14.3; boot continues. -/
def execBootPhaseLate (s : State) : Host.Outcome State Fault Refusal :=
  .next (
    let limit := [200000000, 2000000000, 0, 400000000].getD s.sec.stage 0
    if s.up && limit != 0 && !s.sec.phaseLate && decide (s.sec.stageWall + limit < s.clk.wall) then
      (s.modSec fun x => { x with bootLate := true, phaseLate := true, setAt := note x.setAt 8 s.clk.elapsed }).logEvent s.place 0x23 s.sec.stage
    else s)

/-- KEY_DERIVATION_DONE: the derived public keys are compared with the certificates (R385). -/
def execKeyDerivationDone (keysMatch : Bool) (s : State) : Host.Outcome State Fault Refusal :=
  .next (
    if s.up && s.sec.derivation then
      s.modSec fun x => { x with
        derivation := false, derivationEnded := true, derivWall := s.clk.wall, keysReady := keysMatch, identityBad := !keysMatch }
    else s)

/-! ## Adoraku (R390, R391) -/

/-- FW_LOAD: only in stage 2. -/
def execFwLoad (m : Fin 16) (object : Bytes) (s : State) : Host.Outcome State Fault Refusal :=
  .next (s.command m.val 0x5000 fun b s =>
    if s.sec.stage ≠ 2 ∨ s.priv b.slot = false ∨ 0x1000000 < b.arg 2 ∨ pastXfer m.val b (b.arg2 0) (b.arg 2) = true then
      s.complete m.val 0x11 []
    else
      let o := s.hostData m.val b (b.arg2 0) (b.arg 2) object
      let status := objStatus s.sec.revoked o
      if objType o ≠ 2 ∨ objProfile o ≠ arithProfile then s.complete m.val 0x11 []
      else if status ≠ 0 then s.complete m.val status []
      else if objVersion o < s.sec.minFw then s.complete m.val 0x19 []
      else ((s.modSec fun x => { x with fwImage := o }).toStage 3).complete m.val 0 [])

/-- The table set that the current Adoraku loads (R120). -/
def currentTableSet : Nat := 3

/-- ADORAKU_STARTED: the image lies in hub-owned HBM, the table set is loaded, contexts are closed (R300), stage 4. -/
def execAdorakuStarted (s : State) : Host.Outcome State Fault Refusal :=
  .next (
    if s.up && s.sec.stage == 3 then
      let v := objVersion s.sec.fwImage
      let s := s.unitWrite imageBase s.sec.fwImage
      let s := s.modSec fun x => { x with fwVer := v, tableSet := currentTableSet }
      let open_ := s.ctxNums.filter (fun c => (s.ctx c).ctl.opened)
      (State.each open_ (fun s c => s.closeCtx c) s).toStage 4
    else s)

/-! ## Recovery (R400) -/

/-- SEC_RCV_DATA_WRITE: 4 bytes of the boot-stage region; unprogrammed bytes read 0xFF. -/
def State.rcvProgram (s : State) (v : Word) : State :=
  s.modSec fun x =>
    let a := x.rcvAddr
    let img := padTo 0xFF (a + 4) x.flash.boot
    { x with
      flash := { x.flash with boot := img.take a ++ toLe 4 v.toNat ++ img.drop (a + 4) }
      rcvAddr := (a + 4) % 0x100000, rcvData := v.toNat }

def execSecRcvDataWrite (v : Word) (s : State) : Host.Outcome State Fault Refusal :=
  .next (if s.up && s.sec.stage == 5 then s.rcvProgram v else s)

/-- SEC_RCV_VERIFY. -/
def State.rcvVerify (s : State) : State :=
  if s.bootVerifies then (if s.pwr.cfgRecoverLow then s.modSec fun x => { x with verifyFail := false } else s.enterBootStage)
  else s.modSec fun x => { x with verifyFail := true }

def execSecRcvVerify (s : State) : Host.Outcome State Fault Refusal :=
  .next (if s.up && s.sec.stage == 5 then s.rcvVerify else s)

/-! ## BIST_RUN -/

/-- Units on which item `item` may run on demand (Table 14.8). -/
def State.bistEligible (s : State) (item u : Nat) : Bool :=
  match item with
  | 0 => decide (u < 4096) && !s.outOfUse 1 u && !s.harnessInPlan u
  | 1 => decide (u < 32)
  | 2 => decide (u < 36) && !(s.port u).enable
  | _ => false

/-- The channels that item 1 tests read STALE, as in a calibration, until their next period is counted (Table 14.8, R378). -/
def State.bistStale (s : State) (item : Nat) (tested : List Nat) : State :=
  if item = 1 then State.each tested (fun s n => s.modChan n fun x => { x with stale := true }) s else s

/-- BIST_RUN: `outcome` is what the hardware finds on the units tested. -/
def execBistRun (m : Fin 16) (outcome : BistOutcome) (s : State) : Host.Outcome State Fault Refusal :=
  .next (s.command m.val 0x4020 fun b s =>
    let item := b.arg 0
    let all := b.arg 1 == max32
    if 3 ≤ item ∨ (all = false ∧ s.bistEligible item (b.arg 1) = false) then s.complete m.val 0x11 []
    else
      let tested := if all then (s.bistScope item).filter (fun u => s.bistEligible item u) else [b.arg 1]
      let s := (s.bistResult item 2 tested outcome).bistStale item tested
      let r := Tab.getD {} s.sec.bist item
      s.complete m.val 0 [r.resWord.toNat, r.covWord.toNat])

end Sys2Proof.Machine
end

