-- ==== Sys2Proof/Machine/Observe.lean ====
section
/-! DEFINITION. Observation: snapshots of the always-on counts (R407-R411), performance counters (R412-R414), tagging and
the tag buffer (R415-R417), traces (R418-R420), and the dump commands (R433). -/

namespace Sys2Proof.Machine

def State.modObs (s : State) (f : Observe → Observe) : State := { s with obs := f s.obs }

/-! ## Always-on counts -/

/-- Down picks of an engine: its own, and those in which the looms were unpowered. -/
def State.downPicks (s : State) (e : Nat) : Nat := (s.engine e).down + (if e = 0x1360 then 0 else s.obs.allDown)

/-- Idle picks: every pick since power-on that was neither busy nor stalled (R408). -/
def State.idlePicks (s : State) (e : Nat) : Nat := s.clk.elapsed - (s.engine e).busy - (s.engine e).stalled

/-- The pick of a snapshot: the one before this (R411). -/
def State.snapPick (s : State) : Nat := (s.clk.pick + (2 ^ 64 - 1)) % 2 ^ 64

/-- A read of OBS_BUSY_LO latches every count of the requester's engine. -/
def State.readBusy (s : State) (j : Nat) : Word × State :=
  let e := (s.sel j).eng
  let x := s.engine e
  let has := isEngine e
  let n (v : Nat) : Nat := if has then v else 0
  (BitVec.ofNat 32 (n x.busy),
   s.modLatch j fun y => { y with
     busy := n x.busy, stall := n x.stalled, idle := n (s.idlePicks e), down := n (s.downPicks e), rsnKnot := n x.rsnKnot
     rsnUnit := n x.rsnUnit, rsnTile := n x.rsnTile, rsnVoid := n x.rsnVoid, snap := s.snapPick })

def execObsBusyLoRead (who : Who) (s : State) : Host.Outcome State Fault Refusal :=
  .next (s.readAs who fun j s => s.readBusy j)

/-! ## Performance counters -/

/-- RUN changes at the next pick boundary. -/
def State.pmcRun (s : State) (on : Bool) : State := s.modObs fun x => { x with runReq := some on }
def execPmcRunSet (who : Who) (on : Bool) (s : State) : Host.Outcome State Fault Refusal :=
  .next (s.prvWrite who fun _ s => s.pmcRun on)

/-- A write of a counter's low or high word clears WRAP (Table 15.8); the pick's increments, those before the write too, are added to
the value written (R413). -/
def State.pmcWrite (s : State) (n : Nat) (hi : Bool) (v : Nat) : State :=
  s.modPmc n fun x =>
    let k := x.thisPick s.clk.elapsed
    let old := (x.count + (2 ^ 48 - k % 2 ^ 48)) % 2 ^ 48
    let w := if hi then v % 65536 * 2 ^ 32 + old % 2 ^ 32 else v % 2 ^ 32
    { x with count := (w + k) % 2 ^ 48, wrap := decide (2 ^ 48 ≤ w + k) }
def execPmcCntWrite (who : Who) (hi : Bool) (v : Word) (s : State) : Host.Outcome State Fault Refusal :=
  .next (s.prvWrite who fun j s => s.pmcWrite (s.sel j).pmc hi v.toNat)

/-- A read of a PRV field by a requester that is not privileged returns 0 and is counted (R13). -/
def State.prvRead (s : State) (j : Nat) (f : State → Word × State) : Word × State :=
  if s.priv j then f s else (0, s.report (.prvDenied j))

/-- A read of PMC_CNT_LO latches PMC_CNT_HI. -/
def State.readPmc (s : State) (j : Nat) : Word × State :=
  s.prvRead j fun s =>
    let x := s.pmc (s.sel j).pmc
    (BitVec.ofNat 32 x.count, s.modObs fun o => { o with pmcHi := x.count / 2 ^ 32 })
def execPmcCntLoRead (who : Who) (s : State) : Host.Outcome State Fault Refusal :=
  .next (s.readAs who fun j s => s.readPmc j)

/-! ## Tagging -/

/-- PMC_TAG_SEED: each list's LFSR gets the seed XOR its number; 0 is loaded as 1 (R415). -/
def State.tagSeed (s : State) (v : Word) : State :=
  let seed : Word := if v = 0 then 1 else v
  let load (l : Nat) : Word :=
    let w := seed ^^^ BitVec.ofNat 32 l
    if w = 0 then 1 else w
  { s with
    sched := { s.sched with lfsrs := (List.range 5).map load }
    obs := { s.obs with tagSeed := v.toNat } }
def execPmcTagSeedWrite (who : Who) (v : Word) (s : State) : Host.Outcome State Fault Refusal :=
  .next (s.prvWrite who fun _ s => s.tagSeed v)

/-- Where a buffer may not lie (R417, R426): outside allocatable memory, over the page table, the stream map, a context's
arena, auxiliary area or regions, or over the other buffer. -/
def State.badBuffer (s : State) (b other : Buffer) : Bool :=
  let n := b.blocks * 4096
  let hits (a m : Nat) : Bool := decide (m ≠ 0) && overlaps b.base n a m
  !allocatable b.base n || hits s.kvt.tableBase (2097152 * 16) || hits s.kvt.smapBase (65536 * 16) ||
    s.ctxNums.any (fun c =>
      let k := (s.ctx c).ctl
      hits (s.arena c).base ((s.arena c).frames * s.frameSize c) || hits k.auxBase k.auxSize ||
        (planRegions (s.image c)).any (fun r => hits r.base r.size)) ||
    hits other.base (other.blocks * 4096)

/-- A buffer that is armed and has not filled with WRAP 0 records (R417). -/
def Buffer.recording (b : Buffer) : Bool := b.on && (!b.full || b.wrap)

/-- A buffer that is armed: empty, SEQ at 0. -/
def Buffer.arm (b : Buffer) : Buffer := { b with on := true, full := false, wptr := 0, seq := 0 }

/-- A write of PMC_TAG_CTRL: its fields, the W1C bits, and EN, which arms the buffer when it is set. -/
def State.tagCtrl (s : State) (v : Nat) : State :=
  let en := bitOf v 0
  let s := s.modObs fun x => { x with
    tagRate := fld v 1 5, tagCtxF := bitOf v 6, tagCtx := fld v 7 8, tagKind := fld v 16 4
    tagBuf := { x.tagBuf with
      wrap := bitOf v 15, full := x.tagBuf.full && (!bitOf v 20 || notedNow x.tagBuf.setAt 1 s.clk.elapsed)
      bad := x.tagBuf.bad && (!bitOf v 21 || notedNow x.tagBuf.setAt 3 s.clk.elapsed) } }
  let b := s.obs.tagBuf
  if !en then s.modObs fun x => { x with tagBuf := { b with on := false } }
  else if b.on ∨ b.blocks = 0 then s
  else if s.badBuffer b s.obs.trcBuf then s.modObs fun x => { x with tagBuf := { b with bad := true, setAt := note b.setAt 3 s.clk.elapsed } }
  else s.modObs fun x => { x with tagBuf := b.arm, tagWaiting := [] }

def execTagArm (who : Who) (v : Word) (s : State) : Host.Outcome State Fault Refusal :=
  .next (s.prvWrite who fun _ s => s.tagCtrl v.toNat)

/-- The engine that a tag record's step ran on. -/
def tagEngine (bs : Bytes) : Nat :=
  stepEngine (byteAt bs 0) { parseStep [] with kind := byteAt bs 1, unit := le bs 2 2 }

/-- TAG_RECORD_WRITE: the oldest record that waits gets its SEQ and goes to the buffer. -/
def execTagRecordWrite (s : State) : Host.Outcome State Fault Refusal :=
  .next (
    match s.obs.tagWaiting with
    | [] => s
    | (_, bs) :: t =>
      if s.awake && s.obs.tagBuf.on then
        let seq := s.obs.tagBuf.seq
        let s := s.modObs fun x => { x with tagWaiting := t }
        let s := s.tagRecord (bs ++ toLe 4 seq ++ toLe 4 0)
        if s.obs.tagBuf.seq = seq then s
        else s.perf 0x20 1 (byteAt bs 0) (some (byteAt bs 0xC)) (some (tagEngine bs))
      else s)

/-! ## Traces -/

/-- A plan that is not Disabled has more than 4 places. -/
def State.largeGroup (s : State) : Bool := s.enabled.any (fun c => decide (4 < planPlaces (s.image c)))

/-- A write of OBS_TRC_CTRL: MODE only while it is not recording, the other fields always; ARM and STOP. -/
def State.traceCtrl (s : State) (v : Nat) : State :=
  let mode := fld v 0 2
  let s := s.modObs fun x => { x with
    trcMode := if x.trcBuf.recording ∨ mode = 3 then x.trcMode else mode
    trcClasses := fld v 3 7, trcPeriod := fld v 10 5, trcCtxF := bitOf v 15, trcCtx := fld v 16 8
    trcBuf := { x.trcBuf with wrap := bitOf v 2 }, trcStop := x.trcStop || (bitOf v 25 && x.trcBuf.on) }
  let b := s.obs.trcBuf
  if !bitOf v 24 ∨ s.obs.trcMode = 0 ∨ b.blocks = 0 then s
  else if s.obs.trcMode = 1 ∧ s.largeGroup then s.modObs fun x => { x with trcBuf := { b with denied := true, setAt := note b.setAt 2 s.clk.elapsed } }
  else if s.badBuffer b s.obs.tagBuf then s.modObs fun x => { x with trcBuf := { b with bad := true, setAt := note b.setAt 3 s.clk.elapsed } }
  else s.modObs fun x => { x with trcBuf := b.arm, trcStop := bitOf v 25, trcLast := none }

def execTraceArm (who : Who) (v : Word) (s : State) : Host.Outcome State Fault Refusal :=
  .next (s.prvWrite who fun _ s => s.traceCtrl v.toNat)

/-- TRACE_STOP: recording ends at the next pick boundary. -/
def execTraceStop (who : Who) (s : State) : Host.Outcome State Fault Refusal :=
  .next (s.prvWrite who fun _ s => if s.obs.trcBuf.on then s.modObs fun x => { x with trcStop := true } else s)

/-- Class bit of an engine in OBS_TRC_CTRL.CLASSES. -/
def engineBit (e : Nat) : Nat :=
  if e < 0x1000 then 0 else if e < 0x1180 then 1 else if e < 0x1260 then 2 else if e < 0x12C0 then 3
  else if e < 0x1324 then 4 else if e < 0x1350 then 5 else 6

/-- The first input that a waiting step still lacks: 1 KNOT, 2 UNIT, 3 TILE (Table 15.5). -/
def Due.lacks (d : Due) : Nat :=
  if d.knotAt.isNone then 1 else if d.unitAt.isNone then 2 else if d.tileAt.isNone then 3 else 0

/-- The step that an engine runs, or waits for since its start pick. -/
def State.engineStep (s : State) (e : Nat) : Option (Nat × Nat × Nat) :=
  match s.sched.runs.find? (fun r => r.ended.isNone && r.engine == e) with
  | some r => some (r.list, r.idx, 0)
  | none =>
    (s.sched.due.find? (fun d => !d.void && decide (d.start ≤ s.clk.pick) &&
      stepEngine d.list (s.stepAt d.ctx d.list d.idx) == e)).map (fun d => (d.list, d.idx, d.lacks))

/-- The first pick after `p` at which a step falls due in a plan that was launched at `lp`. -/
def nextStart (lp period : Nat) (st : PlanStep) (p : Nat) : Nat :=
  let first := lp + st.phase * period + st.start
  let stride := max 1 (max st.every 1 * period)
  if p < first then first else first + ((p - first) / stride + 1) * stride

/-- The next step of an engine (Table 15.7): the one that falls due first after this pick in a plan that runs, of those that fall due
together the first of the plan. (DESIGN CHOICE: the table says no more; a run whose slot will be unfilled counts as its step.) -/
def State.nextStep (s : State) (e : Nat) : Option (Nat × Nat) :=
  let all := s.running.flatMap (fun c =>
    let k := (s.ctx c).ctl
    let img := s.image c
    match k.launchPick with
    | none => []
    | some lp =>
      let at_ (x : Nat × Nat × PlanStep) : Nat := nextStart lp (planPeriod img) x.2.2 s.clk.pick
      ((planSteps img).filter (fun x => stepEngine x.1 (s.stepAt c x.1 x.2.1) == e && !k.cut &&
        decide (at_ x < k.stopEnd.getD (at_ x + 1)))).map (fun x => (at_ x, x.1, x.2.1)))
  (all.foldl (fun (m : Option (Nat × Nat × Nat)) x => match m with
    | some y => if x.1 < y.1 then some x else m
    | none => some x) none).map (·.2)

/-- A sample entry (Table 15.5). -/
def State.sampleEntry (s : State) (e : Nat) : Bytes :=
  let cls := s.engineClass e
  let w := match s.engineStep e with
    | some (l, i, lacks) => packNat [(0, 18, i), (18, 3, l), (21, 2, cls), (23, 3, if cls = 2 then lacks else 0)]
    | none => packNat [(0, 18, 0x3FFFF), (18, 3, 7), (21, 2, cls)]
  toLe 4 w

/-- A sample: header and entries of the engines of the selected classes (R419). -/
def State.sampleBytes (s : State) : Bytes :=
  let es := allEngines.filter (fun e => bitOf s.obs.trcClasses (engineBit e))
  let flags := b2n (decide (16 < s.clk.lenQ)) + 2 * b2n (s.time.state == 0 || s.time.state == 3)
  toLe 8 s.clk.pick ++ toLe 4 s.obs.trcBuf.seq ++ toLe 2 es.length ++ toLe 1 s.obs.trcClasses ++ toLe 1 flags ++
    List.replicate 16 0 ++ es.flatMap (fun e => s.sampleEntry e)

/-- The sampling period in effect: 2^6 to 2^20 picks. -/
def State.tracePeriod (s : State) : Nat := 2 ^ max 6 (min 20 s.obs.trcPeriod)

/-- TRACE_SAMPLE: once at each sample pick. -/
def execTraceSample (s : State) : Host.Outcome State Fault Refusal :=
  .next (
    let p := s.clk.pick
    let x := s.obs
    if s.awake && x.trcBuf.on && x.trcMode == 1 && decide (x.trcStart ≤ p) && (p - x.trcStart) % s.tracePeriod == 0 &&
        x.trcLast != some p then
      (s.traceRecord s.sampleBytes).modObs fun x => { x with trcLast := some p }
    else s)

/-! ## Dump commands (R433) -/

/-- The entry of an engine in OBS_DUMP. -/
def State.engineEntry (s : State) (e : Nat) : Bytes :=
  let x := s.engine e
  toLe 4 e ++ toLe 4 0 ++ toLe 8 x.busy ++ toLe 8 x.stalled ++ toLe 8 (s.idlePicks e) ++ toLe 8 (s.downPicks e) ++
    toLe 4 x.rsnKnot ++ toLe 4 x.rsnUnit ++ toLe 4 x.rsnTile ++ toLe 4 x.rsnVoid ++ toLe 8 0

def State.obsDumpBytes (s : State) : Bytes :=
  toLe 8 s.snapPick ++ toLe 4 allEngines.length ++ toLe 4 0 ++ allEngines.flatMap (fun e => s.engineEntry e)

def execObsDump (m : Fin 16) (s : State) : Host.Outcome State Fault Refusal :=
  .next (s.command m.val 0x6000 fun b s =>
    let bs := s.obsDumpBytes
    s.completeWith m.val b (b.arg2 0) (b.arg 2) bs [bs.length, s.snapPick % 2 ^ 32, s.snapPick / 2 ^ 32])

/-- MON_CAL_OFS and MON_CAL_GAIN. -/
def Channel.ofsWord (x : Channel) : Word := pack [(0, 24, unsigned 24 x.ofs)]
def Channel.gainWord (x : Channel) : Word := BitVec.ofNat 32 x.gain

/-- The entry of a channel in MON_DUMP, with STALE as it reads. -/
def Channel.entry (x : Channel) (stale : Bool) : Bytes :=
  toLe 8 x.acc ++ toLe 4 x.count ++ toLe 4 x.min ++ toLe 4 x.max ++
    toLe 4 (b2n stale + 2 * b2n x.ovr + 4 * b2n x.manual) ++ toLe 4 x.ofsWord.toNat ++ toLe 4 x.gain

def State.monDumpBytes (s : State) : Bytes :=
  toLe 8 s.snapPick ++ toLe 4 32 ++ toLe 4 0 ++ (List.range 32).flatMap (fun n => (s.chan n).entry (s.stale n))

def execMonDump (m : Fin 16) (s : State) : Host.Outcome State Fault Refusal :=
  .next (s.command m.val 0x6001 fun b s =>
    let bs := s.monDumpBytes
    s.completeWith m.val b (b.arg2 0) (b.arg 2) bs [bs.length])

end Sys2Proof.Machine
end

