-- ==== Sys2Proof/Machine/Security.lean ====
section
/-! DEFINITION. Certificates, attestation (R402, R403), flash updates (R398), and scan and debug access (R404). -/

namespace Sys2Proof.Machine

/-! ## Certificates and flash -/

/-- CERT_READ: the certificate bundle and its length. -/
def execCertRead (m : Fin 16) (s : State) : Host.Outcome State Fault Refusal :=
  .next (s.command m.val 0x5001 fun b s =>
    s.completeWith m.val b (b.arg2 0) (b.arg 2) s.sec.flash.certs [s.sec.flash.certs.length])

/-- TYPE and size of the object that a flash region takes (R398, Table 14.7). -/
def regionType (r : Nat) : Nat := [1, 3, 6].getD r 0
def regionSize (r : Nat) : Nat := [0x100000, 0x10000, 0x10000].getD r 0

/-- The status with which a verified object is refused for its region, 0 when it is written. -/
def State.updateStatus (s : State) (r : Nat) (o : Bytes) : Nat :=
  if objType o ≠ regionType r ∨ regionSize r < objSize o then 0x11
  else if r = 1 ∧ recordModule (objBody o) ≠ s.sec.moduleId then 0x11
  else if r = 1 ∧ s.sec.recordOk ∧ objVersion o < objVersion s.sec.flash.record then 0x19
  else 0

/-- FLASH_UPDATE. -/
def execFlashUpdate (m : Fin 16) (object : Bytes) (s : State) : Host.Outcome State Fault Refusal :=
  .next (s.command m.val 0x5003 fun b s =>
    let r := b.arg 0
    if 2 < r ∨ pastXfer m.val b (b.arg2 1) (b.arg 3) = true then s.complete m.val 0x11 []
    else
      let o := s.hostData m.val b (b.arg2 1) (b.arg 3) object
      let status := objStatus s.sec.revoked o
      if status ≠ 0 then s.complete m.val status []
      else if s.updateStatus r o ≠ 0 then s.complete m.val (s.updateStatus r o) []
      else
        let put (f : Flash) : Flash :=
          if r = 0 then { f with boot := o } else if r = 1 then { f with record := o } else { f with certs := o }
        (s.modSec fun x => { x with flash := put x.flash }).complete m.val 0 [])

/-! ## Attestation -/

/-- Insert an image in ascending order of tensor, first row, first column. -/
def insImage (i : ImageAt) : List ImageAt → List ImageAt
  | [] => [i]
  | j :: t =>
    if [i.tensor, i.rowFirst, i.colFirst] ≤ [j.tensor, j.rowFirst, j.colFirst] then i :: j :: t else j :: insImage i t
def insAux (a : AuxTensor) : List AuxTensor → List AuxTensor
  | [] => [a]
  | b :: t => if a.tensor ≤ b.tensor then a :: b :: t else b :: insAux a t

/-- WEIGHT_DIGEST of a set (R403). -/
def State.weightDigest (s : State) (w : WeightSet) : Bytes :=
  let images := w.images.foldr insImage []
  let aux := w.aux.foldr insAux []
  sha256 (w.recipe ++ images.flatMap (fun i => toLe 4 i.crc) ++
    aux.flatMap (fun t => toLe 4 (crc32c (s.read t.addr t.length)).toNat))

/-- A context's entry of 48 bytes (Table 14.9). -/
def State.attestEntry (s : State) (c : Nat) : Bytes :=
  let x := s.ctx c
  let k := x.ctl
  let plan := match k.plan with
    | some img => slice (sha256 img) 0 8
    | none => List.replicate 8 0
  toLe 1 c ++ toLe 1 (b2n k.sealed + 2 * b2n k.twillEff + 4 * b2n k.strictEff + 8 * b2n k.maskEff) ++ toLe 2 k.gen ++
    toLe 1 k.state ++ toLe 3 0 ++ s.weightDigest x.cur ++ plan

/-- HUB_IDENT bits [23:16]: stepping B1. -/
def stepping : Nat := 0x12

/-- The report body. -/
def State.attestBody (s : State) (nonce bitmap : Bytes) : Bytes :=
  let named := s.ctxNums.filter (fun c => (s.ctx c).ctl.opened && bitOf (byteAt bitmap (c / 8)) (c % 8))
  let x := s.sec
  toLe 2 1 ++ toLe 1 (b2n x.recordOk + 2 * b2n x.debug + 4 * b2n s.rcv.oos) ++ toLe 1 named.length ++ toLe 2 arithProfile ++
    toLe 2 stepping ++ toLe 8 x.moduleId ++ nonce ++ sha256 (objHeader x.flash.boot) ++ sha256 (objHeader x.fwImage) ++
    (if x.recordOk then sha256 (objHeader x.flash.record) else List.replicate 32 0) ++ toLe 8 s.fwForm ++ toLe 8 s.clk.pick ++
    toLe 4 s.dumapCrc.toNat ++ toLe 2 s.health.gen ++ List.replicate 26 0 ++ named.flatMap (fun c => s.attestEntry c)

/-- The report as a signed object of TYPE 0x0007 and SIGNER 0xFF (R386). -/
def State.attestReport (s : State) (body : Bytes) : Bytes :=
  let header := toLe 4 0x4A4D5347 ++ toLe 2 7 ++ toLe 2 1 ++ toLe 4 body.length ++ toLe 1 0xFF ++ toLe 1 0 ++
    toLe 2 Config.reportProfile ++ toLe 4 Config.reportVersion ++ toLe 4 0 ++ sha256 body ++ toLe 8 0
  header ++ body ++ slice (Config.rsaSign s.tick header) 0 384 ++ slice (Config.slhSign s.tick header) 0 16224

/-- An ATTEST issued before the one of mailbox `m` is in progress (R402). -/
def State.attesting (s : State) (m : Nat) : Bool :=
  let b := s.mailbox m
  s.mbx.any (fun e => e.2.busy && e.2.opcode == 0x5002 && (decide (e.2.since < b.since) || (e.2.since == b.since && decide (e.1 < m))))

/-- ATTEST: refused while another is in progress; until key derivation has ended the command waits (R393). -/
def execAttest (m : Fin 16) (nonce bitmap : Bytes) (s : State) : Host.Outcome State Fault Refusal :=
  .next (s.command m.val 0x5002 fun b s =>
    if s.sec.debug || s.attesting m.val || pastXfer m.val b (b.arg2 0) 32 || pastXfer m.val b (b.arg2 2) 32 then
      s.complete m.val 0x11 []
    else if !s.sec.derivationEnded then s
    else if !s.sec.keysReady then s.complete m.val 0x11 []
    else
      let n := s.hostData m.val b (b.arg2 0) 32 nonce
      let bits := s.hostData m.val b (b.arg2 2) 32 bitmap
      let s := s.fresh
      let r := s.attestReport (s.attestBody n bits)
      s.completeWith m.val b (b.arg2 4) (b.arg 6) r [r.length])

/-! ## Scan and debug -/

/-- DEBUG_CHALLENGE: a fresh nonce, a free value. -/
def execDebugChallenge (m : Fin 16) (s : State) : Host.Outcome State Fault Refusal :=
  .next (s.command m.val 0x5004 fun b s =>
    let s := s.fresh
    let n := (List.range 32).map (fun i => Config.nonceByte s.tick i)
    if pastXfer m.val b (b.arg2 0) 32 then s.complete m.val 0x11 []
    else (s.modSec fun x => { x with nonce := some n }).completeWith m.val b (b.arg2 0) 32 n [])

/-- The token names this module and the nonce that is out. -/
def State.tokenFits (s : State) (body : Bytes) : Bool :=
  le body 0 8 == s.sec.moduleId && s.sec.nonce == some (slice body 8 32) && body.length == 40

/-- A sealed context runs, or a load is in progress. -/
def State.debugBarred (s : State) : Bool :=
  s.ctxs.any (fun x => (x.2.ctl.sealed && x.2.ctl.state != 0) || x.2.held.isSome)

/-- Every key is cleared, then debug is unlocked. -/
def State.unlock (s : State) : State :=
  let clear (_ : Nat) (x : Ctx) : Ctx := { x with ctl := { x.ctl with keyHeld := false, key := [] } }
  ({ s with ctxs := Tab.mapAll {} clear s.ctxs }).modSec fun x => { x with
    nonce := none, pufOk := false, keysReady := false, derivation := false, derivationEnded := true, debug := true }

/-- DEBUG_UNLOCK (R404). -/
def execDebugUnlock (m : Fin 16) (object : Bytes) (s : State) : Host.Outcome State Fault Refusal :=
  .next (s.command m.val 0x5005 fun b s =>
    if pastXfer m.val b (b.arg2 0) (b.arg 2) then s.complete m.val 0x11 []
    else
      let o := s.hostData m.val b (b.arg2 0) (b.arg 2) object
      let status := objStatus s.sec.revoked o
      if status ≠ 0 then s.complete m.val status []
      else if objType o ≠ 5 ∨ s.tokenFits (objBody o) = false ∨ s.debugBarred = true then s.complete m.val 0x11 []
      else s.unlock.complete m.val 0 [])

/-- Islands by unit kind (Table 11.7): how many there are. -/
def islandCount (kind : Nat) : Nat :=
  if kind = 0xA then 8 else if kind = 0xC then 4 else if kind = 0xD then 32 else if kind ≤ 7 then unitCount kind else 0

/-- What a scan or core read returns: free bytes, the spec gives neither layout. -/
def State.scanBytes (s : State) (n : Nat) : Bytes := (List.range n).map (fun i => Config.scanByte s.tick i)

/-- DBG_SCAN: reads return free bytes; which state of an island a write reaches the spec does not say. -/
def execDbgScan (m : Fin 16) (data : Bytes) (s : State) : Host.Outcome State Fault Refusal :=
  .next (s.command m.val 0x5006 fun b s =>
    let n := b.arg 4
    if s.sec.debug = false ∨ 1 < b.arg 1 ∨ islandCount (b.arg 0 / 2 ^ 24) ≤ b.arg 0 % 2 ^ 24 ∨
        pastXfer m.val b (b.arg2 2) n = true then s.complete m.val 0x11 []
    else if b.arg 1 = 0 then
      let s := s.fresh
      s.completeWith m.val b (b.arg2 2) n (s.scanBytes n) [n]
    else
      let given := s.hostData m.val b (b.arg2 2) n data
      s.complete m.val 0 [given.length])

/-- DBG_CORE: halt, step and resume act on one of the five weaver cores; a read returns free bytes. -/
def execDbgCore (m : Fin 16) (data : Bytes) (s : State) : Host.Outcome State Fault Refusal :=
  .next (s.command m.val 0x5007 fun b s =>
    let core := b.arg 0
    let op := b.arg 1
    let n := b.arg 6
    if s.sec.debug = false ∨ 4 < core ∨ 4 < op ∨ (3 ≤ op ∧ pastXfer m.val b (b.arg2 4) n = true) then s.complete m.val 0x11 []
    else if op = 0 then
      (s.modSec fun x => { x with halted := (x.halted.filter (· != core)) ++ [core] }).complete m.val 0 [0]
    else if op = 1 then s.complete m.val 0 [0]
    else if op = 2 then (s.modSec fun x => { x with halted := x.halted.filter (· != core) }).complete m.val 0 [0]
    else if op = 3 then
      let s := s.fresh
      s.completeWith m.val b (b.arg2 4) n (s.scanBytes n) [n]
    else
      let given := s.hostData m.val b (b.arg2 4) n data
      s.complete m.val 0 [given.length])

end Sys2Proof.Machine
end

