-- ==== Sys2Proof/Machine/Serving.lean ====
section
/-! DEFINITION. Rings and the queue engine: doorbells (R191, R212), entries fetched and checked (R192-R194), cancels
(R213), reads of host memory that fail (R327), RING_SETUP, RING_TEARDOWN, REQ_CANCEL, ROLE_SET (R218, R219), and the
refill of budgets (R203). -/

namespace Sys2Proof.Machine

/-! ## Doorbells -/

/-- A doorbell write: dropped and counted when the ring is not set up (R191) or the host port is out of service. -/
def State.doorbell (s : State) (who : Who) (r : Nat) (f : State → State) : State :=
  match s.access who with
  | (none, s) => s
  | (some _, s) => if (s.ring r).up && !s.hostDown then f s else s.report (.doorbell r)

/-- SQ_TAIL: fetching goes on after a failed fetch (R327). -/
def State.setSqTail (s : State) (r v : Nat) : State :=
  s.modRing r fun g => { g with sqTail := v % 2 ^ g.n, fetchBlocked := false }

/-- The records that a new CQ_HEAD frees, never past the unread ones; on a full ring the same index again means that all
2^n have been read. -/
def cqFreed (g : Ring) (v : Nat) : Nat :=
  let d := (v % 2 ^ g.n + 2 ^ g.n - g.cqHead) % 2 ^ g.n
  if d = 0 ∧ g.unread = 2 ^ g.n then g.unread else min d g.unread

/-- CQ_HEAD: entries freed, spilled records moved in. -/
def State.setCqHead (s : State) (r v : Nat) : State :=
  let n := (s.ring r).spilled.length
  unspill r n (s.modRing r fun g => { g with cqHead := v % 2 ^ g.n, unread := g.unread - cqFreed g v })

def execSqTailDoorbell (who : Who) (r : Fin 8192) (v : Word) (s : State) : Host.Outcome State Fault Refusal :=
  .next (s.doorbell who r.val fun s => s.setSqTail r.val v.toNat)

def execCqHeadDoorbell (who : Who) (r : Fin 8192) (v : Word) (s : State) : Host.Outcome State Fault Refusal :=
  .next (s.doorbell who r.val fun s => s.setCqHead r.val v.toNat)

/-! ## Submission entries (Table 8.1) -/

def entOpcode (e : Bytes) : Nat := byteAt e 0
def entFlags (e : Bytes) : Nat := byteAt e 1
def entStream (e : Bytes) : Nat := le e 2 2
def entTag (e : Bytes) : Nat := le e 4 4
def entPromptLen (e : Bytes) : Nat := le e 0x10 4
def entMaxNew (e : Bytes) : Nat := le e 0x14 4
def entTemperature (e : Bytes) : F32 := BitVec.ofNat 32 (le e 0x20 4)
def entTopK (e : Bytes) : Nat := le e 0x24 2
def entTopP (e : Bytes) : F32 := BitVec.ofNat 32 (le e 0x28 4)
def entCancelTag (e : Bytes) : Nat := le e 0x34 4

/-- Reserved fields are 0. -/
def entClean (e : Bytes) : Bool := decide (entFlags e < 2) && zeros e 0x26 2 && zeros e 0x38 8

/-- TEMPERATURE is finite and not below 0; TOP_P is above 0 and at most 1. -/
def temperatureOk (t : F32) : Bool := decide (t.toNat < 0x7F800000) || t.toNat == 0x80000000
def topPOk (t : F32) : Bool := decide (0 < t.toNat ∧ t.toNat ≤ 0x3F800000)

/-- The fields that have one range in every entry. -/
def entSampling (e : Bytes) : Bool :=
  decide (entTopK e ≤ 1024) && temperatureOk (entTemperature e) && topPOk (entTopP e)
/-- The fields of a GENERATE or PREFILL entry lie in their ranges. -/
def entRanges (e : Bytes) : Bool :=
  (entOpcode e == 1 || (entOpcode e == 2 && entMaxNew e == 1)) &&
    decide (1 ≤ entPromptLen e ∧ entPromptLen e ≤ 2 ^ 20 ∧ 1 ≤ entMaxNew e ∧ entMaxNew e ≤ 2 ^ 20) &&
    entSampling e && entCancelTag e == 0

/-- R188: the stream is open and belongs to the ring's context and tenant. -/
def State.ownsStream (s : State) (r t : Nat) : Bool :=
  (s.stream t).opened && (s.stream t).ctx == (s.ring r).ctx && (s.stream t).tenant == (s.ring r).tenant

/-- The status with which the entry is refused at fetch, 0 when it is taken (R194). -/
def State.entStatus (s : State) (r : Nat) (e : Bytes) : Nat :=
  let t := entStream e
  if !(entClean e && entRanges e && s.ownsStream r t) then 0x11
  else if s.smapPages t * 256 < s.commitOf t + entPromptLen e + entMaxNew e then 0x31 else 0

/-- A CANCEL entry's fields are as Table 8.1 gives them for CANCEL, and its stream is the ring's (R188, R194). -/
def State.cancelOk (s : State) (r : Nat) (e : Bytes) : Bool :=
  entClean e && zeros e 8 0x10 && entSampling e && s.ownsStream r (entStream e)

/-- Waiting requests and prompts take room until they are Done (R192, R429). -/
def State.liveReqs (s : State) : List Request := s.srv.reqs.filter (fun q => q.state != 4)
def State.promptFits (s : State) (n : Nat) : Bool :=
  decide (4 * (sumNat (s.liveReqs.map (fun q => q.prompt.length)) + n) ≤ 2 ^ 31)

/-- The queue engine may fetch the next entry of ring `r` (R192, R327, Table 11.3). -/
def State.canFetch (s : State) (r : Nat) : Bool :=
  let g := s.ring r
  s.ready && s.awake && !s.troubled 0xA 1 && !s.hostDown && g.up && g.sqHead != g.sqTail && !g.fetchBlocked &&
    decide (s.liveReqs.length < 131072)

/-- SQ_HEAD passes the entry. -/
def State.passEntry (s : State) (r : Nat) : State :=
  s.modRing r fun g => { g with sqHead := (g.sqHead + 1) % 2 ^ g.n }

/-- The place of a record that belongs to no slot among those of its pick. -/
def slotless : Nat := 1 + 4096 * 2 ^ 33

/-- A record that carries no token, at this pick. -/
def State.bareRecord (s : State) (r place : Nat) (cancels : Option Nat) (tag status flags stream : Nat) : State :=
  s.putRecord r place cancels (recordBytes tag status flags stream max32 0 (s.barePosition stream) 0 s.clk.pick)

/-- The entry is refused at fetch: one final record, BAD_ENTRY. -/
def State.refuseEntry (s : State) (r : Nat) (e : Bytes) (status flags : Nat) : State :=
  ((s.passEntry r).bareRecord r (if flags = 9 then 0 else slotless) none (entTag e) status flags (entStream e)).modRing r fun g => { g with badEntry := true, setAt := note g.setAt 14 s.clk.elapsed }

/-- The request of an accepted entry. -/
def entRequest (id r ctx : Nat) (e : Bytes) (prompt : List Word) : Request :=
  { id := id, opcode := entOpcode e, noSpec := bitOf (entFlags e) 0, stream := entStream e, tag := entTag e
    prompt := padTo 0 (entPromptLen e) ((prompt.take (entPromptLen e)).map BitVec.toNat)
    maxNew := entMaxNew e, seed := le e 0x18 8, temperature := entTemperature e
    topK := if entTopK e = 0 then 1024 else entTopK e
    topP := entTopP e, stop0 := le e 0x2C 4, stop1 := le e 0x30 4, ring := r, state := 0, ctx := ctx, slot := 0
    emitted := 0, cancelAt := none, overflow := false, drainEnd := false, finalPick := none }

/-- Fetch a GENERATE or PREFILL entry, or one of unknown OPCODE, with the prompt read from host memory. -/
def State.fetch (s : State) (r : Nat) (e : Bytes) (prompt : List Word) : State :=
  let status := s.entStatus r e
  if status ≠ 0 then
    (if 1 ≤ s.room r then s.refuseEntry r e status 1 else s)
  else if s.promptFits (entPromptLen e) then
    let q := entRequest s.srv.nextReq r (s.ring r).ctx e prompt
    let s := s.passEntry r
    { s with srv := { s.srv with reqs := s.srv.reqs ++ [q], nextReq := s.srv.nextReq + 1 } }
  else s

/-- GENERATE: every entry whose OPCODE is not PREFILL's or CANCEL's. -/
def execGenerate (r : Fin 8192) (entry : Bytes) (prompt : List Word) (s : State) : Host.Outcome State Fault Refusal :=
  .next (if s.canFetch r.val && entOpcode entry != 2 && entOpcode entry != 3 then s.fetch r.val entry prompt else s)

def execPrefill (r : Fin 8192) (entry : Bytes) (prompt : List Word) (s : State) : Host.Outcome State Fault Refusal :=
  .next (if s.canFetch r.val && entOpcode entry == 2 then s.fetch r.val entry prompt else s)

/-! ## Cancelling (R213) -/

/-- The request that a cancel names: the first of the stream with the tag that is not Done, else a Done one that the
request table still holds. -/
def State.cancelTarget (s : State) (stream tag : Nat) : Option Request :=
  let named := s.srv.reqs.filter (fun q => q.stream == stream && q.tag == tag)
  match named.find? (fun q => q.state != 4) with
  | some q => some q
  | none => named.head?

/-- Status of the cancel's own record. -/
def cancelStatus : Option Request → Nat
  | none => 0x13
  | some q => if q.state = 4 then 0x12 else 0

/-- Room for every record that a cancel writes at once, its own on ring `r`. -/
def State.cancelRoom (s : State) (r : Nat) (q : Option Request) : Bool :=
  match q with
  | some q => if q.state = 0 then
      (if q.ring = r then decide (2 ≤ s.room r) else decide (1 ≤ s.room r ∧ 1 ≤ s.room q.ring))
    else decide (1 ≤ s.room r)
  | none => decide (1 ≤ s.room r)

/-- A Pending request ends with 0x10 (R213): the cancel's own record still reads 0x00. -/
def State.finishPending (s : State) (q : Request) (p : Nat) : State :=
  (s.bareRecord q.ring slotless none q.tag 0x10 1 q.stream).modRequest q.id fun q => { q with state := 4, finalPick := some p }

/-- What becomes of the named request. -/
def State.cancelRequest (s : State) (q : Option Request) : State :=
  match q with
  | none => s
  | some q =>
    if q.state = 4 then s
    else if q.state = 0 then (s.finishPending q s.clk.pick).prune
    else s.modRequest q.id fun q =>
      { q with cancelAt := match q.cancelAt with | some p => some p | none => some s.clk.pick }

/-- Accept a cancel: its own record, which is no request's last (Table 8.2), then its effect. -/
def State.acceptCancel (s : State) (r tag stream : Nat) (q : Option Request) : State :=
  (s.bareRecord r 0 (q.map (·.id)) tag (cancelStatus q) 8 stream).cancelRequest q

/-- Fetch a CANCEL entry. -/
def State.fetchCancel (s : State) (r : Nat) (e : Bytes) : State :=
  if s.cancelOk r e then
    let q := s.cancelTarget (entStream e) (entCancelTag e)
    (if s.cancelRoom r q then (s.passEntry r).acceptCancel r (entTag e) (entStream e) q else s)
  else if 1 ≤ s.room r then s.refuseEntry r e 0x11 9 else s

def execCancel (r : Fin 8192) (entry : Bytes) (s : State) : Host.Outcome State Fault Refusal :=
  .next (if s.canFetch r.val && entOpcode entry == 3 then s.fetchCancel r.val entry else s)

/-- REQ_CANCEL: the record goes to the request's ring and carries the named tag. -/
def execReqCancel (m : Fin 16) (s : State) : Host.Outcome State Fault Refusal :=
  .next (s.command m.val 0x3005 fun b s =>
    match s.cancelTarget (b.arg 0) (b.arg 1) with
    | none => s.complete m.val 0x11 []
    | some q =>
      if (s.ring q.ring).up && s.cancelRoom q.ring (some q) then
        (s.acceptCancel q.ring (b.arg 1) (b.arg 0) (some q)).complete m.val 0 []
      else s.complete m.val 0x11 [])

/-! ## Host reads that fail (R327) -/

/-- Opcodes that read host memory. -/
def readsHost (opcode : Nat) : Bool :=
  [0x1000, 0x1002, 0x1003, 0x1004, 0x1006, 0x1007, 0x100A, 0x2000, 0x4003, 0x4016].contains opcode ||
    [0x5000, 0x5002, 0x5003, 0x5005, 0x5006, 0x5007].contains opcode

/-- The command of mailbox `m` fails; a weight load ends under R238. -/
def State.failCommand (s : State) (m : Nat) : State :=
  match s.ctxNums.find? (fun c => match (s.ctx c).held with | some h => h.mbx == m | none => false) with
  | some c => s.endHeld c 0x38 none
  | none =>
    let b := s.mailbox m
    let load := b.opcode == 0x1003 || b.opcode == 0x1004
    let s := if load then s.modCtl (b.arg 0) fun k => { k with loadLast := 0x38, loadTier := none } else s
    s.complete m 0x38 []

/-- HOST_READ_FAIL: the second failure of a read of host memory. -/
def execHostReadFail (what : HostRead) (s : State) : Host.Outcome State Fault Refusal :=
  .next (match what with
    | .mailbox m =>
      let b := s.mailbox m.val
      if s.serves && b.busy && readsHost b.opcode && !viaXfer m.val b then
        (if s.cmdBarred m.val b then s.complete m.val 0x11 [] else (s.report .hostReadFail).failCommand m.val)
      else s
    | .ring r =>
      if s.canFetch r.val then (s.report .hostReadFail).modRing r.val fun g => { g with fetchBlocked := true }
      else s)

/-! ## Ring and role commands (Table 8.10) -/

/-- RING_SETUP is refused: the ring is set up, an argument out of range, a ring base off its boundary (R191), a spill area outside
the allocatable memory. -/
def State.setupRefused (s : State) (b : Mailbox) : Bool :=
  (s.ring (b.arg 0)).up || decide (8192 ≤ b.arg 0 ∨ 1024 ≤ b.arg 1 ∨ 256 ≤ b.arg 2 ∨ b.arg 7 < 4 ∨ 16 < b.arg 7) ||
    decide (b.arg2 3 % 4096 ≠ 0 ∨ b.arg2 5 % 4096 ≠ 0 ∨ b.arg 10 < 16 ∨ 4096 < b.arg 10) ||
    decide (hubBase < b.arg2 8 + 32 * b.arg 10)

def execRingSetup (m : Fin 16) (s : State) : Host.Outcome State Fault Refusal :=
  .next (s.command m.val 0x3000 fun b s =>
    if s.setupRefused b then s.complete m.val 0x11 []
    else
      (s.modRing (b.arg 0) fun _ =>
        { up := true, tenant := b.arg 1, ctx := b.arg 2, n := b.arg 7, sqAddr := b.arg2 3, cqAddr := b.arg2 5
          spillAddr := b.arg2 8, spillEntries := b.arg 10 }).complete m.val 0 [])

/-- RING_TEARDOWN. The records of this pick are placed before the ring goes; those that wait in the spill area stay there in HBM. -/
def execRingTeardown (m : Fin 16) (s : State) : Host.Outcome State Fault Refusal :=
  .next (s.command m.val 0x3001 fun b s =>
    let r := b.arg 0
    let waiting := s.pendingOf r
    if 8192 ≤ r ∨ (s.ring r).up = false ∨ (s.admittedOf r).length ≠ 0 ∨ s.room r < waiting.length then
      s.complete m.val 0x11 []
    else
      let s := State.each waiting (fun s q => s.finishPending q s.clk.pick) s
      ((s.prune.flushRing r).modRing r fun _ => {}).complete m.val 0 [waiting.length])

def execRoleSet (m : Fin 16) (s : State) : Host.Outcome State Fault Refusal :=
  .next (s.command m.val 0x3006 fun b s =>
    if 3 < b.arg 0 ∨ s.enabled ≠ [] then s.complete m.val 0x11 []
    else ({ s with srv := { s.srv with role := b.arg 0 } }).complete m.val 0 [])

/-! ## Budgets (R203) -/

/-- BUDGET_REFILL: once for each whole second of the oscillator that has passed. -/
def execBudgetRefill (s : State) : Host.Outcome State Fault Refusal :=
  .next (
    if s.up && decide (s.srv.refilled < s.clk.wall / 4000000000) then
      let fill (_ : Nat) (x : Tenant) : Tenant := { x.refill with beforeRefill := some (s.clk.elapsed, x.bal) }
      { s with srv := { s.srv with refilled := s.srv.refilled + 1, tenants := Tab.mapAll {} fill s.srv.tenants } }
    else s)

end Sys2Proof.Machine
end

