-- ==== Sys2Proof/Machine/HostSite.lean ====
section
/-! DEFINITION. The host site: its rails, sideband signals and shutdown (R318, R319), and the rail-control bus (R320). -/

namespace Sys2Proof.Machine

/-- Change the host site. -/
def State.modHs (s : State) (f : HostSite → HostSite) : State := { s with hs := f s.hs }

/-- HS_RESET_RELEASE: 10 ms after HS_PWRGD. -/
def execHsResetRelease (s : State) : Host.Outcome State Fault Refusal :=
  .next (
    if s.powered && s.hs.pwrgd && !s.hs.resetReleased && decide (40000000 ≤ s.clk.wall - s.hs.pwrgdWall) then
      s.modHs fun h => { h with resetReleased := true }
    else s)

/-- HS_THROTTLE_EVAL: `mw` is the total averaged over 1 ms, in mW; between the two limits the signal stays. -/
def execHsThrottleEval (mw : Nat) (s : State) : Host.Outcome State Fault Refusal :=
  .next (
    if s.powered && s.hs.railsOn then
      (if 400000 < mw then s.modHs fun h => { h with throttle := true }
       else if mw < 380000 then s.modHs fun h => { h with throttle := false }
       else s)
    else s)

/-- The host site is off: every UCIe link is down, so hub function 6 is faulted and stays fenced (R319, R324); while it is being
recovered the entry is an echo (R291). -/
def State.hostOff (s : State) : State :=
  { s with acc := { s.acc with linksUp := [], linksHalf := [] } }.fault 0xA 6 8

/-- HS_SHUTDOWN. -/
def execHsShutdown (cause : HsCause) (s : State) : Host.Outcome State Fault Refusal :=
  .next (
    let due := match cause with
      | .therm => s.hs.therm && decide (400000000 ≤ s.clk.wall - s.hs.thermSince)
      | _ => true
    if s.powered && s.hs.railsOn && due then
      let s := s.modHs fun h => { h with
        railsOn := false, pwrgd := false, resetReleased := false, throttle := false, shut := true
        faultRail := h.faultRail || cause == .railCurrent }
      (s.alertHsShutdown.report .hsShutdown).hostOff
    else s)

/-- HS_THERM_ASSERT: reported at each assertion. -/
def execHsThermAssert (s : State) : Host.Outcome State Fault Refusal :=
  .next (
    if s.powered && s.hs.present && !s.hs.therm then
      (s.modHs fun h => { h with therm := true, thermSince := s.clk.wall }).alertHsTherm
    else s)

def execHsThermDeassert (s : State) : Host.Outcome State Fault Refusal :=
  .next (if s.powered && s.hs.therm then s.modHs fun h => { h with therm := false } else s)

/-! ## PMBus (R320) -/

/-- PAGE: 0 HS_CORE, 1 HS_SOC; another value is not taken and sets CML. -/
def execPage (v : Byte) (s : State) : Host.Outcome State Fault Refusal :=
  .next (
    if s.powered then s.modHs fun h => if v.toNat ≤ 1 then { h with pmbPage := v.toNat } else { h with cml := true } else s)

/-- The 5 mV step nearest to a linear16 code of exponent −12. -/
def voutStep (v : Nat) : Nat := (v * 2000 + 5 * 4096) / (2 * 5 * 4096)

/-- VOUT_COMMAND: a set point outside Table 12.1 is not applied and sets CML. -/
def execVoutCommand (v : BitVec 16) (s : State) : Host.Outcome State Fault Refusal :=
  .next (
    if s.powered then s.modHs fun h =>
      let n := voutStep v.toNat
      if h.pmbPage = 0 then (if 110 ≤ n ∧ n ≤ 210 then { h with setCore := v.toNat } else { h with cml := true })
      else if 140 ≤ n ∧ n ≤ 180 then { h with setSoc := v.toNat } else { h with cml := true }
    else s)

/-- READ_VOUT: the measured voltage is a free value. -/
def execReadVout (s : State) : Host.Outcome State Fault Refusal :=
  .next (if s.powered then (s.emit (.pmbus (Config.pmbusVout s.tick % 65536))).fresh else s)
def execReadIout (raw : BitVec 16) (s : State) : Host.Outcome State Fault Refusal :=
  .next (if s.powered then s.emit (.pmbus raw.toNat) else s)
def execReadPout (raw : BitVec 16) (s : State) : Host.Outcome State Fault Refusal :=
  .next (if s.powered then s.emit (.pmbus raw.toNat) else s)

/-- STATUS_WORD as PMBus lays it out: bit 1 CML, bit 4 output overcurrent, bit 6 off. -/
def State.pmbusStatus (s : State) : Nat := 2 * b2n s.hs.cml + 16 * b2n s.hs.faultRail + 64 * b2n (!s.hs.railsOn)
def execStatusWord (s : State) : Host.Outcome State Fault Refusal :=
  .next (if s.powered then s.emit (.pmbus s.pmbusStatus) else s)
def execClearFaults (s : State) : Host.Outcome State Fault Refusal :=
  .next (if s.powered then s.modHs fun h => { h with cml := false, faultRail := false } else s)

end Sys2Proof.Machine
end

