-- ==== Sys2Proof/Machine/Thermal.lean ====
section
/-! DEFINITION. The thermal supervisor: conversions and suspect sensors (R360-R362), the hottest values (R363), screening
(R365), the throttle (R366), and the hardware trip and restart (R368-R370). -/

namespace Sys2Proof.Machine

/-! ## Throttle -/

/-- One evaluation under ENFORCE. -/
def State.throttleEval (s : State) : State :=
  let hot := s.thm.moduleHot
  let w := s.clk.wall
  let rested := match s.thm.thermChange with
    | some t => decide (400000000 ≤ w - t)
    | none => true
  let len := if 380 ≤ hot then min 64 (s.thm.thermLen + 4) else if hot < 368 ∧ rested = true then max 16 (s.thm.thermLen - 4) else s.thm.thermLen
  let ends := decide (hot < 368) && len == 16
  ({ s with thm := { s.thm with
    thermLen := len, thermChange := if len = s.thm.thermLen then s.thm.thermChange else some w, lastEval := w
    enforce := !ends, enforceCleared := if ends then some w else s.thm.enforceCleared } }).lenUpdate

/-- ENFORCE is set, and the first evaluation is made. -/
def State.enforce (s : State) : State := ({ s with thm := { s.thm with enforce := true } }).throttleEval

/-- REQUEST follows the module's hottest value. -/
def State.throttleRequest (s : State) : State :=
  let hot := s.thm.moduleHot
  if 380 ≤ hot ∧ s.thm.request = false then
    let s := ({ s with thm := { s.thm with request := true, requestWall := s.clk.wall } }).alertThermal
    let soon := match s.thm.enforceCleared with
      | some t => decide (s.clk.wall - t ≤ 40000000000)
      | none => false
    if !s.thm.enforce && soon then s.enforce else s
  else if hot < 368 then { s with thm := { s.thm with request := false } }
  else s

/-- The grace of a REQUEST: set, and not yet enforced. -/
def Thermal.grace (t : Thermal) : Bool := t.request && !t.enforce

/-- THROTTLE_GRACE_END: 250 ms after REQUEST. -/
def execThrottleGraceEnd (s : State) : Host.Outcome State Fault Refusal :=
  .next (if s.up && s.thm.grace && decide (1000000000 ≤ s.clk.wall - s.thm.requestWall) then s.enforce else s)

/-- THROTTLE_EVAL: every 10 ms under ENFORCE. -/
def execThrottleEval (s : State) : Host.Outcome State Fault Refusal :=
  .next (if s.up && s.thm.enforce && decide (40000000 ≤ s.clk.wall - s.thm.lastEval) then s.throttleEval else s)

/-! ## Screening (R365) -/

/-- The screening source's length: each threshold's request is released 2.0 °C below it; a JM2436-X requests nothing. -/
def screenLen (screen old : Nat) (hot : Int) : Nat :=
  let r20 := decide (360 ≤ hot) || (old == 20 && decide (352 < hot))
  let r18 := decide (340 ≤ hot) || (decide (18 ≤ old) && decide (332 < hot))
  if screen = 2 then 16 else if r20 then 20 else if r18 then 18 else 16

/-! ## Updates (R363) -/

/-- The hottest value of loom `n`, or of the hub for 4, and its sensor. -/
def State.hotNow (s : State) (n : Nat) : Int × Nat := s.hottest (if n < 4 then loomSensors n else hubSensors)

/-- One sensor of each die. -/
def dieFirsts : List Nat := (List.range 32).map (fun t => t * 24) ++ [768, 808, 848, 888, 928]

/-- The re-trim rule at an update (R58, R59): a loom that has drifted from its reference begins a re-trim, after the trims of
boot have set the reference (R60). -/
def State.retrimEval (s : State) (l : Nat) : State :=
  if (s.loom l).retrimBusy then s.retrimCheck l
  else if s.booted && s.drifted l then s.retrimStart l
  else s

/-- THERMAL_UPDATE. Programming that waited for a tier goes on once the tier is back inside its window. -/
def execThermalUpdate (s : State) : Host.Outcome State Fault Refusal :=
  .next (
    if s.up then
      let hots := [0, 1, 2, 3, 4].map s.hotNow
      let s := State.each (hots.zipIdx) (fun s x =>
        let v := x.1.1
        { s with thm := { s.thm with
          hot := Tab.put ((0 : Int), 0) s.thm.hot x.2 x.1, peak := Tab.upd (0 : Int) s.thm.peak x.2 (fun p => max p v) } }) s
      let hot := (maxInt (hots.map (·.1))).getD 0
      let s := { s with thm := { s.thm with moduleHot := hot } }
      let s := if dieFirsts.any s.dieBlind then s.alertThermal else s
      let s := State.each [0, 1, 2, 3] (fun s l => s.retrimEval l) s
      let s := { s with thm := { s.thm with screenLen := screenLen s.sec.screen s.thm.screenLen hot } }
      s.throttleRequest.calDrift.lenUpdate.windowPrograms
    else s)

/-- THM_PEAKn.CLEAR: PEAK becomes the current NOW. -/
def State.peakClear (s : State) (n : Nat) : State :=
  { s with thm := { s.thm with peak := Tab.put (0 : Int) s.thm.peak n (Tab.getD ((0 : Int), 0) s.thm.hot n).1 } }
def execThmPeakClear (who : Who) (n : Fin 5) (s : State) : Host.Outcome State Fault Refusal :=
  .next (s.anyWrite who fun _ s => s.peakClear n.val)

/-! ## Conversions (R360, R361) -/

/-- Twice the median of a list. -/
def median2 (l : List Int) : Int :=
  let m := sortBy (fun a b => decide (a ≤ b)) l
  let n := m.length
  m.getD (n / 2) 0 + m.getD ((n - 1) / 2) 0

/-- The sensor after a conversion, and whether it became suspect or stopped being so. A sensor with fewer than two
non-suspect neighbours is neither marked nor cleared. -/
def Sensor.convert (x : Sensor) (near : List Int) (reading : Int) : Sensor × Bool :=
  let x := { x with reading := reading, hot := if 440 ≤ reading then x.hot + 1 else 0 }
  if near.length < 2 then ({ x with far := 0, near := 0 }, false)
  else
    let d := (2 * reading - median2 near).natAbs
    if x.suspect then
      let n := if d ≤ 32 then x.near + 1 else 0
      if 4000 ≤ n then ({ x with suspect := false, near := 0, far := 0 }, true) else ({ x with near := n }, false)
    else
      let n := if 64 < d then x.far + 1 else 0
      if 8 ≤ n then ({ x with suspect := true, near := 0, far := 0 }, true) else ({ x with far := n }, false)

/-! ## Trip (R368, R369) -/

/-- The sensor trips the module: 110.0 °C in two conversions; a suspect one only beside a neighbour at 100.0 °C. -/
def State.trips (s : State) (n : Nat) : Bool :=
  let x := s.sensor n
  decide (2 ≤ x.hot) && (!x.suspect || (sensorNear n).any (fun k => decide (400 ≤ (s.sensor k).reading)))

/-- A trip: DEPART, GSTOP, the log entry, then every rail but AON goes off. Nothing is dumped. -/
def State.trip (s : State) (n : Nat) : State :=
  let s := if s.twin.state = 1 then (s.sendTwin 0x11 s.clk.pick 0).unpair 0 else s
  let s := s.declare 0xB 0 0x0E
  let s := State.each s.running (fun s c => s.gstop c 0 false) s
  let s := { s with thm := { s.thm with
    tripCount := satAdd max16 s.thm.tripCount 1, tripSensor := n, coolSince := none
    excluded := (s.thm.sensors.filter (fun (x : Nat × Sensor) => x.2.suspect)).map (fun (x : Nat × Sensor) => x.1) } }
  let s := if s.hs.railsOn then s.alertHsShutdown.report .hsShutdown else s
  { s with
    pwr := { s.pwr with tripped := true, coldStart := false, bmPwrgd := false }
    hs := { s.hs with railsOn := false, pwrgd := false, resetReleased := false, throttle := false, shut := true }
    acc := { s.acc with linksUp := [], linksHalf := [] }
    sched := {} }

/-- Every sensor that counts for a restart reads below 80.0 °C (R370). -/
def State.cool (s : State) : Bool :=
  s.thm.sensors.all (fun x => x.2.suspect || s.thm.excluded.contains x.1 || decide (x.2.reading < 320))

/-- SENSOR_CONVERSION: sensors convert in every state. -/
def execSensorConversion (n : Fin 944) (reading : BitVec 11) (s : State) : Host.Outcome State Fault Refusal :=
  .next (
    if !s.pwr.input || s.pwr.oscFailed then s
    else
      let (x, turned) := (s.sensor n.val).convert (s.soundReadings (sensorNear n.val)) reading.toInt
      let s := s.modSensor n.val fun _ => x
      let s := if turned then s.logEvent s.place 0x20 (n.val + if x.suspect then 2 ^ 31 else 0) else s
      if s.pwr.tripped then
        { s with thm := { s.thm with coolSince := if s.cool then some (s.thm.coolSince.getD s.clk.wall) else none } }
      else if s.trips n.val then s.trip n.val
      else s)

/-! ## Restart (R370) -/

/-- What a trip leaves of the arrays: the counts. -/
def Heddle.bare (x : Heddle) : Heddle :=
  { corr := x.corr, uncorr := x.uncorr, ovr := x.ovr, convs := x.convs, satCount := x.satCount }

/-- The module boots as after a module reset, with every context closed and every memory lost. -/
def State.restart (s : State) : State :=
  let s := s.countModule.reboot
  let arr := s.arr
  { s with
    pwr := { s.pwr with tripped := false, bmPwrgd := !s.pwr.inputLow && !s.pwr.railFault }
    sec := { s.sec with bootCause := 2 }
    thm := { s.thm with excluded := [], coolSince := none }
    mem := {}, ctxs := []
    arr := { arr with heddles := Tab.mapAll {} (fun _ x => x.bare) arr.heddles } }

/-- TRIP_RESTART. After power loss the rails come up once every sensor reads below 100.0 °C, and the module boots as at
power-on. -/
def execTripRestart (s : State) : Host.Outcome State Fault Refusal :=
  .next (
    if !s.pwr.input || s.pwr.oscFailed || !s.pwr.tripped then s
    else if s.pwr.coldStart then
      (if s.tooHot then s
       else { s with pwr := { s.pwr with tripped := false, coldStart := false, bmPwrgd := !s.pwr.inputLow }, hs := s.hs.powerUp s.clk.wall
                     sec := { s.sec with stageWall := s.clk.wall } })
    else match s.thm.coolSince with
      | some w => if 40000000000 ≤ s.clk.wall - w then s.restart else s
      | none => s)

end Sys2Proof.Machine
end

