-- ==== Sys2Proof/Machine/Regs.lean ====
section
/-! DEFINITION. The register map: every register of Table 16.3 at its offset (R424, R430), the word that each reads, its
PRV fields, and what a read does (R10, R13, R34, R371, R376, R411, R425). -/

namespace Sys2Proof.Machine

/-- The registers of BAR0, block by block in the order of Table 16.3. -/
inductive Reg where
  | ident | pickLo | pickHi | pickLen | wallLo | wallHi | role | alert
  | plogSel | plogPickLo | plogPickHi | plogWallLo | plogWallHi | plogInfo
  | dumapId | dumapCrc
  | timeCtrl | timeStat | timeOfs | twinStat | twinLag
  | ctxSel | ctxCtrl | ctxStat | ctxReason | ctxRstep | launchLo | launchHi | timing | stretchCnt | replayCnt | stallCnt
  | specWin | specAcc | specNone | integ | chkOk | chkFail | chkHeld | lastChk | lastChkId
  | mbxOwn (m : Nat) | mbxCmd (m : Nat) | mbxStat (m : Nat) | mbxLimit (m : Nat) | mbxArg (m n : Nat) | mbxRes (m n : Nat)
  | ringSel | ringCfg | ringHead | ringStat
  | tenSel | tenRate | tenCap | tenBal
  | tableBase | smapBase | arenaSel | arenaBase | arenaSize | missCnt | faultStat | faultLoc
  | rid (n : Nat) | win | linkStat
  | portSel | portCtrl | portStat | peerLo | peerHi | portErr | portRetry
  | thmSel | thmSensor | thmHot (n : Nat) | thmPeak (n : Nat) | thmStat | thmTrip
  | monCfg | monSel | monChan | monAccLo | monAccHi | monCount | monMin | monMax | calOfs | calGain
  | ceil | pwrStat
  | secStat | idLo | idHi | fwVer | bootVer | bistSel | bistRes | bistCov | rcvAddr | rcvData | rcvCtrl
  | tallyCnt | eccSel | eccCnt | twillLoc | healthStat | healthTime | packCnt
  | escSel | escStat | modEsc | rootId | rootIdx | rootPickLo | rootPickHi | echoCnt | gstop
  | dmpStat
  | pmcCtrl | pmcSel | pmcCfg | pmcUnit | pmcCntLo | pmcCntHi
  | tagCtrl | tagSeed | tagBaseLo | tagBaseHi | tagSize | tagWrptr | tagDrop
  | engSel | busyLo | busyHi | stallLo | stallHi | idleLo | idleHi | downLo | downHi | rsnKnot | rsnUnit | rsnTile | rsnVoid
  | snapLo | snapHi | engState
  | trcCtrl | trcStat | trcStartLo | trcStartHi | trcBaseLo | trcBaseHi | trcSize | trcWrptr | trcDrop
  | wgtSel | wgtStat | swReason | loadStat
  | hdlSel | hdlStat | corrCnt | failCnt | convCnt | lastFail | harnSel | harnCtrl | harnStat | scrubCfg | scrubStat | rateLimit
  | spareCfg | spareStat (n : Nat)
  | satSel | satStat
  | flagSel | flagStat | flagCtx (n : Nat)
  | shtSel | shtStat | shtErr | shtEmpty
  | tblStat
  | trimStat (l : Nat) | resCnt (l : Nat) | redSat (l : Nat)
deriving DecidableEq, Repr

/-! ## Offsets -/

/-- The rows of Table 16.3 with one place. -/
def regBlocks : List (Nat × List Reg) :=
  [(0x000000, [.ident, .pickLo, .pickHi, .pickLen, .wallLo, .wallHi, .role, .alert]),
   (0x000040, [.plogSel, .plogPickLo, .plogPickHi, .plogWallLo, .plogWallHi, .plogInfo]),
   (0x000080, [.dumapId, .dumapCrc]),
   (0x0000C0, [.timeCtrl, .timeStat, .timeOfs, .twinStat, .twinLag]),
   (0x000100, [.ctxSel, .ctxCtrl, .ctxStat, .ctxReason, .ctxRstep, .launchLo, .launchHi, .timing, .stretchCnt, .replayCnt,
     .stallCnt, .specWin, .specAcc, .specNone, .integ, .chkOk, .chkFail, .chkHeld, .lastChk, .lastChkId])] ++
  [(0x020000, [.ringSel, .ringCfg, .ringHead, .ringStat]),
   (0x030000, [.tenSel, .tenRate, .tenCap, .tenBal]),
   (0x040000, [.tableBase, .smapBase, .arenaSel, .arenaBase, .arenaSize, .missCnt, .faultStat, .faultLoc]),
   (0x050100, [.win, .linkStat]),
   (0x060000, [.portSel, .portCtrl, .portStat, .peerLo, .peerHi, .portErr, .portRetry]),
   (0x070000, [.thmSel, .thmSensor, .thmHot 0, .thmHot 1, .thmHot 2, .thmHot 3, .thmHot 4, .thmPeak 0, .thmPeak 1,
     .thmPeak 2, .thmPeak 3, .thmPeak 4, .thmStat, .thmTrip])] ++
  [(0x080000, [.monCfg, .monSel, .monChan, .monAccLo, .monAccHi, .monCount, .monMin, .monMax, .calOfs, .calGain]),
   (0x090000, [.ceil, .pwrStat]),
   (0x0A0000, [.secStat, .idLo, .idHi, .fwVer, .bootVer, .bistSel, .bistRes, .bistCov, .rcvAddr, .rcvData, .rcvCtrl]),
   (0x0B0000, [.tallyCnt, .eccSel, .eccCnt, .twillLoc, .healthStat, .healthTime, .packCnt]),
   (0x0B0040, [.escSel, .escStat, .modEsc, .rootId, .rootIdx, .rootPickLo, .rootPickHi, .echoCnt, .gstop]),
   (0x0C0000, [.dmpStat]),
   (0x0D0000, [.pmcCtrl, .pmcSel, .pmcCfg, .pmcUnit, .pmcCntLo, .pmcCntHi]),
   (0x0D0040, [.tagCtrl, .tagSeed, .tagBaseLo, .tagBaseHi, .tagSize, .tagWrptr, .tagDrop])] ++
  [(0x0E0000, [.engSel, .busyLo, .busyHi, .stallLo, .stallHi, .idleLo, .idleHi, .downLo, .downHi, .rsnKnot, .rsnUnit,
     .rsnTile, .rsnVoid, .snapLo, .snapHi, .engState]),
   (0x0E0080, [.trcCtrl, .trcStat, .trcStartLo, .trcStartHi, .trcBaseLo, .trcBaseHi, .trcSize, .trcWrptr, .trcDrop]),
   (0x0F0000, [.wgtSel, .wgtStat, .swReason, .loadStat]),
   (0x100000, [.hdlSel, .hdlStat, .corrCnt, .failCnt, .convCnt, .lastFail, .harnSel, .harnCtrl, .harnStat, .scrubCfg,
     .scrubStat, .rateLimit]),
   (0x110000, [.spareCfg, .spareStat 0, .spareStat 1, .spareStat 2, .spareStat 3]),
   (0x120000, [.satSel, .satStat]),
   (0x130000, [.flagSel, .flagStat, .flagCtx 0, .flagCtx 1, .flagCtx 2, .flagCtx 3, .flagCtx 4, .flagCtx 5, .flagCtx 6,
     .flagCtx 7]),
   (0x140000, [.shtSel, .shtStat, .shtErr, .shtEmpty]),
   (0x150000, [.tblStat])]

/-- Word `w` of mailbox `m`'s block; the last four are unassigned. -/
def mbxReg (m w : Nat) : Option Reg :=
  if w = 0 then some (.mbxOwn m) else if w = 1 then some (.mbxCmd m) else if w = 2 then some (.mbxStat m)
  else if w = 3 then some (.mbxLimit m) else if w < 20 then some (.mbxArg m (w - 4)) else if w < 28 then some (.mbxRes m (w - 20))
  else none

/-- The register at BAR0 offset `off`, none where Table 16.3 assigns none. -/
def regAt (off : Nat) : Option Reg :=
  if 0x010000 ≤ off ∧ off < 0x010800 then mbxReg ((off - 0x010000) / 0x80) (off % 0x80 / 4)
  else if 0x050000 ≤ off ∧ off < 0x050100 then some (.rid ((off - 0x050000) / 4))
  else if 0x200000 ≤ off ∧ off < 0x240000 then
    [.trimStat ((off - 0x200000) / 0x10000), .resCnt ((off - 0x200000) / 0x10000), .redSat ((off - 0x200000) / 0x10000)][off % 0x10000 / 4]?
  else regBlocks.findSome? (fun b => if b.1 ≤ off then b.2[(off - b.1) / 4]? else none)

/-! ## PRV fields (R13) -/

/-- The bits of a register that belong to PRV fields. -/
def Reg.prvMask : Reg → Word
  | .timeCtrl => 0xFF
  | .twinStat => 0x00FFFF00
  | .ctxCtrl => 3
  | .integ => 0xFFFF0003
  | .mbxLimit _ => 0xFFFF
  | .tenRate | .tenCap => 0xFFFFFF
  | .tableBase => 0x7FFFFF
  | .smapBase => 0xFFFFFFF
  | .rid _ => 0x3FFFF
  | .portCtrl => 3
  | .thmTrip => 0x3FFFFFF
  | .monCfg => 0xF
  | .monChan => 0x23
  | .calOfs => 0xFFFFFF
  | .ceil => 0xFFF
  | .healthStat => 2
  | .escStat | .modEsc | .gstop | .scrubStat | .satStat | .tblStat => 0xFFFF0000
  | .harnCtrl => 0x303
  | .scrubCfg => 0x3F
  | .rateLimit => 0x1F
  | .spareCfg => 0xF
  | .tenBal | .arenaBase | .arenaSize | .missCnt | .portErr | .portRetry | .calGain | .tallyCnt | .eccCnt | .packCnt | .echoCnt
  | .pmcCtrl | .pmcSel | .pmcCfg | .pmcUnit | .pmcCntLo | .pmcCntHi | .tagCtrl | .tagSeed | .tagBaseLo | .tagBaseHi | .tagSize
  | .tagWrptr | .tagDrop | .trcCtrl | .trcStartLo | .trcStartHi | .trcBaseLo | .trcBaseHi | .trcSize | .trcDrop | .corrCnt
  | .failCnt | .convCnt | .shtErr | .shtEmpty | .resCnt _ | .redSat _ => 0xFFFFFFFF
  | _ => 0

/-! ## Words -/

/-- Low and high word of a 64-bit value. -/
def loWord (v : Nat) : Word := BitVec.ofNat 32 v
def hiWord (v : Nat) : Word := BitVec.ofNat 32 (v / 2 ^ 32)

/-- HUB_CTX_TIMING (Table 7.4). -/
def Ctx.timingWord (x : Ctx) : Word :=
  let r := x.recs
  let any := r.stretched || r.replayed || r.stalled || r.mapChanged
  let shown := x.ctl.state == 4 || x.ctl.state == 5 || (x.ctl.state == 0 && r.hasRun)
  pack [(0, 1, b2n r.stretched), (1, 1, b2n r.replayed), (2, 1, b2n r.stalled), (3, 1, b2n r.mapChanged),
    (4, 1, b2n (shown && !any))]

/-- MND_FLAG_STAT (Table 3.9). -/
def CtxRecords.flagWord (r : CtxRecords) : Word :=
  pack [(0, 1, b2n r.flagMend), (1, 1, b2n r.flagAct), (2, 1, b2n r.flagAcc), (3, 1, b2n r.flagFmt),
    (4, 1, b2n r.flagNonfinite), (8, 14, r.lastLayer)]

/-- WGT_STAT.SW_STATE (Table 9.8). -/
def Ctx.swState (x : Ctx) : Nat :=
  if x.sw.state = 3 ∨ x.sw.state = 4 then x.sw.state
  else match x.staged with
    | none => 0
    | some w => if w.committed then 2 else 1

/-- Some heddle of a set of the context has PATTERN_LOST set. -/
def State.setPatternLost (s : State) (c : Nat) : Bool :=
  let x := s.ctx c
  (x.cur.images ++ ((x.staged.map (·.images)).getD [])).any (fun i => (s.heddle i.heddle).patternLost)

def State.wgtWord (s : State) (c : Nat) : Word :=
  let x := s.ctx c
  pack [(0, 1, b2n x.cur.committed), (1, 1, b2n (x.ctl.opened && x.ctl.sealed)), (2, 1, b2n x.ctl.keyHeld),
    (3, 3, x.swState), (6, 1, b2n x.ctl.successor.isSome), (7, 1, b2n (s.setPatternLost c)), (16, 16, x.ctl.gen)]
def Ctx.loadWord (x : Ctx) : Word :=
  pack [(0, 8, x.ctl.loadLast), (8, 1, b2n x.held.isSome), (9, 1, b2n x.ctl.loadTier.isSome), (10, 5, x.ctl.loadTier.getD 0)]

/-- TIER_SPARE_STATn (Table 9.12). -/
def State.spareWord (s : State) (n : Nat) : Word :=
  pack ((List.range 8).map (fun k =>
    (4 * k, 4, min 7 (s.sparesOfTier (8 * n + k)).length + 8 * b2n (s.tierShort (8 * n + k)))))


/-- Starts of a list that lie less than `span` back. -/
def State.within (s : State) (starts : List Nat) (span : Nat) : Nat :=
  (starts.filter (fun w => decide (s.clk.wall < w + span))).length

/-- ERR_ESC_SEL names a domain. -/
def escSelects (kind i : Nat) : Bool := kind != 0xB && decide (i < domainCount kind)
def State.escWord (s : State) (kind i : Nat) : Word :=
  let d := s.domain kind i
  if escSelects kind i then
    pack [(0, 2, min 3 (s.within d.starts 2400000000000)), (2, 1, b2n d.retired), (3, 3, d.phase), (16, 16, d.total)]
  else 0
def State.modEscWord (s : State) : Word :=
  pack [(0, 2, min 2 (s.within s.rcv.modStarts 14400000000000)), (2, 1, b2n s.rcv.oos), (16, 16, s.rcv.modTotal)]
def Recovery.rootWord (r : Recovery) : Word :=
  match r.root with
  | some e => pack [(0, 8, e.kind), (8, 4, e.detector), (12, 12, e.place), (24, 1, b2n r.rootProvisional), (25, 1, b2n r.rootValid)]
  | none => pack [(24, 1, b2n r.rootProvisional), (25, 1, b2n r.rootValid)]
def Recovery.gstopWord (r : Recovery) : Word :=
  pack [(0, 8, r.cutCtx), (8, 5, r.cutCause), (13, 1, b2n r.cutValid), (16, 16, r.cuts)]
/-- A dump is being collected: some domain, or the module, is in F3. -/
def State.dumpWord (s : State) : Word :=
  let r := s.rcv
  pack [(0, 6, r.dumps.length), (6, 6, (r.dumps.filter (fun d => !d.read)).length),
    (12, 1, b2n (r.domains.any (fun d => d.2.phase == 3))), (13, 1, b2n r.dumpDropped), (14, 1, b2n r.dumpDamaged)]
def State.twinWord (s : State) : Word :=
  let t := s.twin
  pack [(0, 2, t.state), (2, 1, if t.state = 1 then t.side else 0), (3, 1, b2n t.adopt),
    (4, 4, sumNat ((List.range 4).map (fun i => 2 ^ i * b2n ((s.port (32 + i)).state == 2)))), (8, 16, t.dropped)]


def State.sensorWord (s : State) (n : Nat) : Word :=
  if 944 ≤ n then 0
  else pack [(0, 11, unsigned 11 (s.sensor n).reading), (11, 11, unsigned 11 (s.used n)), (22, 1, b2n (s.sensor n).suspect)]
def State.thmWord (s : State) : Word :=
  let t := s.thm
  pack [(0, 1, b2n t.request), (1, 1, b2n t.grace), (2, 1, b2n t.enforce), (3, 7, t.thermLen), (10, 7, t.screenLen),
    (17, 10, (t.sensors.filter (fun x => decide (x.1 < 944) && x.2.suspect)).length)]
def State.monCfgWord (s : State) : Word :=
  let x := s.mon
  pack [(0, 2, x.period), (2, 1, b2n x.holdCal), (3, 1, b2n x.calBit), (4, 1, b2n x.calPhase.isSome), (16, 11, unsigned 11 x.tMcal)]
def State.monChanWord (s : State) (n : Nat) : Word :=
  let x := s.chan n
  pack [(0, 2, if n < 8 then 0 else x.source), (2, 1, b2n (s.stale n)), (3, 1, b2n x.ovr), (4, 1, b2n x.manual), (6, 1, b2n x.drift)]
def State.pwrWord (s : State) : Word :=
  let p := s.pwr
  pack [(0, 3, s.powerState), (3, 1, b2n p.engineCap), (4, 1, b2n p.inputCap), (5, 1, b2n p.capLimit), (6, 7, p.capLen)]

def Sec.statWord (x : Sec) : Word :=
  pack [(0, 3, x.stage), (3, 1, b2n x.recordOk), (4, 1, b2n x.pufOk), (5, 1, b2n x.keysReady), (6, 1, b2n x.identityBad),
    (7, 1, b2n x.debug), (8, 1, b2n x.bootLate), (16, 4, x.revoked)]

def State.healthWord (s : State) : Word :=
  let h := s.health
  pack [(0, 1, b2n h.packId.isSome), (1, 1, b2n h.wrapped), (2, 1, b2n h.perm),
    (3, 7, (h.captures.filter (fun (e : Nat × Capture) => e.2.state != 3)).length), (16, 16, h.packId.getD 0)]
def State.eccWord (s : State) (m : Nat) : Word :=
  if m ≤ 28 then pack [(0, 24, Tab.getD 0 s.health.eccCorr m), (24, 8, Tab.getD 0 s.health.eccUncorr m)] else 0

def PlogEntry.infoWord (e : PlogEntry) : Word := pack [(0, 7, e.lenQ), (7, 6, e.phase), (13, 1, b2n e.step), (14, 1, 1)]

def State.engWord (s : State) (e : Nat) : Word :=
  if isEngine e then
    (match s.engineStep e with
     | some (l, i, _) => pack [(0, 2, s.engineClass e), (2, 3, l), (5, 18, i)]
     | none => match s.nextStep e with
       | some (l, i) => pack [(0, 2, s.engineClass e), (2, 3, l), (5, 18, i)]
       | none => pack [(0, 2, s.engineClass e), (2, 3, 7), (5, 18, 0x3FFFF)])
  else pack [(2, 3, 7), (5, 18, 0x3FFFF)]

def Pmc.cfgWord (p : Pmc) : Word :=
  pack [(0, 8, p.event), (8, 3, p.loom), (11, 1, b2n p.ctxF), (12, 8, p.context), (20, 1, b2n p.unitF)]
def Observe.tagWord (o : Observe) : Word :=
  let b := o.tagBuf
  pack [(0, 1, b2n b.on), (1, 5, o.tagRate), (6, 1, b2n o.tagCtxF), (7, 8, o.tagCtx), (15, 1, b2n b.wrap), (16, 4, o.tagKind),
    (20, 1, b2n b.full), (21, 1, b2n b.bad)]
def Observe.trcWord (o : Observe) : Word :=
  pack [(0, 2, o.trcMode), (2, 1, b2n o.trcBuf.wrap), (3, 7, o.trcClasses), (10, 5, o.trcPeriod), (15, 1, b2n o.trcCtxF),
    (16, 8, o.trcCtx)]
def Buffer.trcStat (b : Buffer) : Word :=
  pack [(0, 1, b2n b.recording), (1, 1, b2n b.full), (2, 1, b2n b.denied), (3, 1, b2n b.bad)]


/-- The word of a register as privileged requester `j` reads it, but for the reads that latch. -/
def State.regWord (s : State) (j : Nat) (r : Reg) : Word :=
  let e := s.sel j
  let la := s.latch j
  let x := s.ctx e.ctx
  match r with
  | .ident => pack [(0, 16, 3), (16, 4, 2), (20, 4, 1), (24, 2, s.sec.screen)]
  | .pickLo => loWord s.clk.pick
  | .pickHi => BitVec.ofNat 32 la.pickHi
  | .pickLen => pack [(0, 7, s.clk.lenQ), (16, 1, b2n s.clk.byThermal), (17, 1, b2n s.clk.byPower), (18, 1, b2n s.clk.byScreen),
      (24, 1, b2n s.clk.stretched)]
  | .wallLo => loWord la.wall
  | .wallHi => hiWord la.wall
  | .role => BitVec.ofNat 32 s.srv.role
  | .alert => BitVec.ofNat 32 s.alertStat
  | .plogSel => BitVec.ofNat 32 e.plog
  | .plogPickLo => loWord ((s.clk.plog[e.plog]?.map (·.pick)).getD 0)
  | .plogPickHi => hiWord ((s.clk.plog[e.plog]?.map (·.pick)).getD 0)
  | .plogWallLo => loWord ((s.clk.plog[e.plog]?.map (·.wall)).getD 0)
  | .plogWallHi => hiWord ((s.clk.plog[e.plog]?.map (·.wall)).getD 0)
  | .plogInfo => ((s.clk.plog[e.plog]?.map (·.infoWord)).getD 0) ||| pack [(15, 1, b2n s.clk.plogLost)]
  | .dumapId => BitVec.ofNat 32 s.health.gen
  | .dumapCrc => s.dumapCrc
  | .timeCtrl => pack [(0, 2, s.time.role), (2, 6, s.time.upstream)]
  | .timeStat => pack [(0, 2, s.time.state), (2, 1, b2n s.time.ahead), (3, 1, b2n s.time.lenRemote), (4, 1, b2n s.time.lateLen),
      (8, 8, s.time.depth)]
  | .timeOfs => BitVec.ofNat 32 (unsigned 32 (clampInt (-(2 ^ 31 : Int)) (2 ^ 31 - 1) s.time.ofs))
  | .twinStat => s.twinWord
  | .twinLag => BitVec.ofNat 32 s.twinLag
  | .ctxSel => BitVec.ofNat 32 e.ctx
  | .ctxCtrl => pack [(0, 1, b2n (x.ctl.state != 0)), (1, 1, b2n x.ctl.maskReq)]
  | .ctxStat => x.statWord
  | .ctxReason => x.reasonWord
  | .ctxRstep => x.rstepWord
  | .launchLo => loWord x.launchShown
  | .launchHi => hiWord x.launchShown
  | .timing => x.timingWord
  | .stretchCnt => BitVec.ofNat 32 x.recs.stretchCnt
  | .replayCnt => BitVec.ofNat 32 x.recs.replayCnt
  | .stallCnt => BitVec.ofNat 32 x.recs.stallCnt
  | .specWin => BitVec.ofNat 32 x.recs.specWin
  | .specAcc => BitVec.ofNat 32 x.recs.specAcc
  | .specNone => BitVec.ofNat 32 x.recs.specNone
  | .integ => pack [(0, 1, b2n x.ctl.strictReq), (1, 1, b2n x.ctl.twillReq), (16, 16, x.ctl.strictMaskReq.toNat)]
  | .chkOk => BitVec.ofNat 32 x.recs.chkOk
  | .chkFail => BitVec.ofNat 32 x.recs.chkFail
  | .chkHeld => BitVec.ofNat 32 x.recs.chkHeld
  | .lastChk => x.recs.lastChk
  | .lastChkId => pack [(0, 16, x.recs.lastStream), (16, 8, x.recs.lastStatus), (24, 1, b2n x.recs.lastValid)]
  | .mbxOwn m => (s.mailbox m).ownWord
  | .mbxCmd m => (s.mailbox m).cmdWord
  | .mbxStat m => (s.mailbox m).statWord
  | .mbxLimit m => BitVec.ofNat 32 (s.mailbox m).limit
  | .mbxArg m n => BitVec.ofNat 32 ((s.mailbox m).arg n)
  | .mbxRes m n => BitVec.ofNat 32 ((s.mailbox m).res.getD n 0)
  | .ringSel => BitVec.ofNat 32 e.ring
  | .ringCfg => (s.ring e.ring).cfgWord
  | .ringHead => (s.ring e.ring).headWord
  | .ringStat => s.ringWord e.ring
  | .tenSel => BitVec.ofNat 32 e.tenant
  | .tenRate => BitVec.ofNat 32 (s.tenant e.tenant).rate
  | .tenCap => BitVec.ofNat 32 (s.tenant e.tenant).cap
  | .tenBal => BitVec.ofNat 32 (unsigned 32 (s.tenant e.tenant).bal)
  | .tableBase => s.kvt.tableWord
  | .smapBase => s.kvt.smapWord
  | .arenaSel => BitVec.ofNat 32 e.arena
  | .arenaBase => (s.arena e.arena).baseWord
  | .arenaSize => (s.arena e.arena).sizeWord
  | .missCnt => BitVec.ofNat 32 s.kvt.miss
  | .faultStat => s.kvt.faultStat
  | .faultLoc => s.kvt.faultLoc
  | .rid n => (s.slot n).ridWord
  | .win => BitVec.ofNat 32 (s.slot j).win
  | .linkStat => s.linkWord
  | .portSel => BitVec.ofNat 32 e.port
  | .portCtrl => if 36 ≤ e.port then 0 else (s.port e.port).ctrlWord
  | .portStat => if 36 ≤ e.port then 0 else (s.port e.port).statWord
  | .peerLo => if 36 ≤ e.port then 0 else loWord (s.port e.port).peerId
  | .peerHi => if 36 ≤ e.port then 0 else hiWord (s.port e.port).peerId
  | .portErr => if 36 ≤ e.port then 0 else (s.port e.port).errWord
  | .portRetry => if 36 ≤ e.port then 0 else (s.port e.port).retryWord
  | .thmSel => BitVec.ofNat 32 e.thm
  | .thmSensor => s.sensorWord e.thm
  | .thmHot n =>
    let h := Tab.getD ((0 : Int), 0) s.thm.hot n
    pack [(0, 11, unsigned 11 h.1), (11, 10, h.2)]
  | .thmPeak n => pack [(0, 11, unsigned 11 (Tab.getD (0 : Int) s.thm.peak n))]
  | .thmStat => s.thmWord
  | .thmTrip => pack [(0, 16, s.thm.tripCount), (16, 10, s.thm.tripSensor)]
  | .monCfg => s.monCfgWord
  | .monSel => BitVec.ofNat 32 e.mon
  | .monChan => s.monChanWord e.mon
  | .monAccLo => loWord (s.chan e.mon).acc
  | .monAccHi => BitVec.ofNat 32 la.accHi
  | .monCount => BitVec.ofNat 32 la.monCount
  | .monMin => BitVec.ofNat 32 la.monMin
  | .monMax => BitVec.ofNat 32 la.monMax
  | .calOfs => (s.chan e.mon).ofsWord
  | .calGain => (s.chan e.mon).gainWord
  | .ceil => BitVec.ofNat 32 s.pwr.ceil
  | .pwrStat => s.pwrWord
  | .secStat => s.sec.statWord
  | .idLo => loWord s.sec.moduleId
  | .idHi => hiWord s.sec.moduleId
  | .fwVer => if s.sec.stage = 4 then BitVec.ofNat 32 s.sec.fwVer else 0
  | .bootVer => BitVec.ofNat 32 s.sec.bootVer
  | .bistSel => BitVec.ofNat 32 e.bist
  | .bistRes => (Tab.getD {} s.sec.bist e.bist).resWord
  | .bistCov => (Tab.getD {} s.sec.bist e.bist).covWord
  | .rcvAddr => if s.sec.stage = 5 then BitVec.ofNat 32 s.sec.rcvAddr else 0
  | .rcvData => if s.sec.stage = 5 then BitVec.ofNat 32 s.sec.rcvData else 0
  | .rcvCtrl => if s.sec.stage = 5 then pack [(1, 1, b2n s.sec.verifyFail)] else 0
  | .tallyCnt => pack ((List.range 4).map (fun l => (8 * l, 8, Tab.getD 0 s.health.tally l)))
  | .eccSel => BitVec.ofNat 32 e.ecc
  | .eccCnt => s.eccWord e.ecc
  | .twillLoc => pack [(0, 3, s.health.twillList), (3, 18, s.health.twillStep), (21, 8, s.health.twillCtx),
      (29, 1, b2n s.health.twillValid)]
  | .healthStat => s.healthWord
  | .healthTime => BitVec.ofNat 32 s.health.seconds
  | .packCnt => pack [(0, 16, s.health.packRun), (16, 16, s.health.packFailed)]
  | .escSel => pack [(0, 4, e.escKind), (4, 12, e.escIndex)]
  | .escStat => s.escWord e.escKind e.escIndex
  | .modEsc => s.modEscWord
  | .rootId => s.rcv.rootWord
  | .rootIdx => BitVec.ofNat 32 ((s.rcv.root.map (·.index)).getD 0)
  | .rootPickLo => loWord ((s.rcv.root.map (·.originPick)).getD 0)
  | .rootPickHi => hiWord ((s.rcv.root.map (·.originPick)).getD 0)
  | .echoCnt => BitVec.ofNat 32 s.rcv.echoes
  | .gstop => s.rcv.gstopWord
  | .dmpStat => s.dumpWord
  | .pmcCtrl => BitVec.ofNat 32 (b2n s.obs.run)
  | .pmcSel => BitVec.ofNat 32 e.pmc
  | .pmcCfg => (s.pmc e.pmc).cfgWord
  | .pmcUnit => BitVec.ofNat 32 (s.pmc e.pmc).engine
  | .pmcCntLo => loWord (s.pmc e.pmc).count
  | .pmcCntHi => pack [(0, 16, s.obs.pmcHi), (16, 1, b2n (s.pmc e.pmc).wrap)]
  | .tagCtrl => s.obs.tagWord
  | .tagSeed => BitVec.ofNat 32 s.obs.tagSeed
  | .tagBaseLo => loWord s.obs.tagBuf.base
  | .tagBaseHi => hiWord s.obs.tagBuf.base
  | .tagSize => BitVec.ofNat 32 s.obs.tagBuf.blocks
  | .tagWrptr => BitVec.ofNat 32 s.obs.tagBuf.wptr
  | .tagDrop => BitVec.ofNat 32 s.obs.tagBuf.drop
  | .engSel => BitVec.ofNat 32 e.eng
  | .busyLo => if isEngine e.eng then loWord (s.engine e.eng).busy else 0
  | .busyHi => hiWord la.busy
  | .stallLo => loWord la.stall
  | .stallHi => hiWord la.stall
  | .idleLo => loWord la.idle
  | .idleHi => hiWord la.idle
  | .downLo => loWord la.down
  | .downHi => hiWord la.down
  | .rsnKnot => BitVec.ofNat 32 la.rsnKnot
  | .rsnUnit => BitVec.ofNat 32 la.rsnUnit
  | .rsnTile => BitVec.ofNat 32 la.rsnTile
  | .rsnVoid => BitVec.ofNat 32 la.rsnVoid
  | .snapLo => loWord la.snap
  | .snapHi => hiWord la.snap
  | .engState => s.engWord e.eng
  | .trcCtrl => s.obs.trcWord
  | .trcStat => s.obs.trcBuf.trcStat
  | .trcStartLo => loWord s.obs.trcStart
  | .trcStartHi => hiWord s.obs.trcStart
  | .trcBaseLo => loWord s.obs.trcBuf.base
  | .trcBaseHi => hiWord s.obs.trcBuf.base
  | .trcSize => BitVec.ofNat 32 s.obs.trcBuf.blocks
  | .trcWrptr => BitVec.ofNat 32 s.obs.trcBuf.wptr
  | .trcDrop => BitVec.ofNat 32 s.obs.trcBuf.drop
  | .wgtSel => BitVec.ofNat 32 e.wgt
  | .wgtStat => s.wgtWord e.wgt
  | .swReason => BitVec.ofNat 32 (s.ctx e.wgt).sw.reason
  | .loadStat => (s.ctx e.wgt).loadWord
  | .hdlSel => BitVec.ofNat 32 e.hdl
  | .hdlStat => s.hdlStat e.hdl
  | .corrCnt => (s.heddle e.hdl).corrWord
  | .failCnt => (s.heddle e.hdl).failWord
  | .convCnt => (s.heddle e.hdl).convWord
  | .lastFail => (s.heddle e.hdl).lastFail.word
  | .harnSel => BitVec.ofNat 32 e.harn
  | .harnCtrl => s.harnCtrl e.harn
  | .harnStat => s.harnStat e.harn
  | .scrubCfg => BitVec.ofNat 32 s.arr.passS
  | .scrubStat => pack [(0, 1, b2n s.arr.scrubLate), (1, 1, b2n s.arr.scrubLost), (16, 16, s.arr.mismatchRows)]
  | .rateLimit => BitVec.ofNat 32 s.arr.rateExp
  | .spareCfg => BitVec.ofNat 32 s.arr.spareCfg
  | .spareStat n => s.spareWord n
  | .satSel => BitVec.ofNat 32 e.sat
  | .satStat => (s.heddle e.sat).satWord
  | .flagSel => BitVec.ofNat 32 e.flag
  | .flagStat => (s.ctx e.flag).recs.flagWord
  | .flagCtx n => pack ((List.range 32).map (fun i => (i, 1, b2n (decide (fld (s.ctx (32 * n + i)).recs.flagWord.toNat 0 5 ≠ 0)))))
  | .shtSel => BitVec.ofNat 32 e.sht
  | .shtStat => if 384 ≤ e.sht then 0 else s.shtStat e.sht
  | .shtErr => if 384 ≤ e.sht then 0 else (s.shuttle e.sht).errWord
  | .shtEmpty => if 384 ≤ e.sht then 0 else BitVec.ofNat 32 (s.shuttle e.sht).empty
  | .tblStat => pack [(0, 16, s.sec.tableSet), (16, 8, s.sec.tblCorr), (24, 8, s.sec.tblUncorr)]
  | .trimStat l => (s.loom l).trimWord
  | .resCnt l => (s.loom l).resWord
  | .redSat l => (s.loom l).redSatWord

/-! ## Reads -/

/-- What a read latches for the requester (R34, R371, R376, R411; Table 15.8). -/
def State.readEffect (s : State) (j : Nat) (r : Reg) : State :=
  match r with
  | .pickLo => (s.readPickLo j).2
  | .monAccLo => (s.readMonAcc j).2
  | .busyLo => (s.readBusy j).2
  | .pmcCntLo => (s.readPmc j).2
  | _ => s

/-- A register read: PRV fields read 0 to a requester that is not privileged, and the access is counted (R13). -/
def State.readReg (s : State) (j : Nat) (r : Reg) : Word × State :=
  if s.priv j || r.prvMask == 0 then (s.regWord j r, s.readEffect j r)
  else (s.regWord j r &&& ~~~r.prvMask, s.report (.prvDenied j))

/-- The offset lies in the transfer window (R425). -/
def inXfer (off : Nat) : Bool := decide (0x3000000 ≤ off ∧ off < 0x4000000)

/-- The device memory that holds `a` can be accessed: it is powered, not in self-refresh and not fenced (R293, R353,
R355). -/
def State.memAwake (s : State) (a : Nat) : Bool :=
  (s.awake || (s.up && s.pwr.mode == 2 && s.pwr.target.isNone && decide (patternBase ≤ a ∧ a < hbmEnd))) && !s.memTroubled a

/-- A read of the transfer window. -/
def State.readXfer (s : State) (j off : Nat) : Word × State :=
  let a := xferBase + (off - 0x3000000)
  if !s.priv j then (0, s.report (.prvDenied j))
  else if s.memAwake a then (BitVec.ofNat 32 (s.readLe a 4), s)
  else (0xFFFFFFFF, s.report (.badBar4 j))

/-- An aligned BAR0 read. -/
def State.readBar0 (s : State) (j off : Nat) : Word × State :=
  if inXfer off then s.readXfer j off
  else match regAt off with
    | none => (0, s)
    | some r => s.readReg j r

end Sys2Proof.Machine
end

