-- ==== Sys2Proof/Machine/RegWrite.lean ====
section
/-! DEFINITION. Register writes: what a write does to each field (R10-R13), mailboxes (R329, R330), the page-table walker's
base registers (R147, R426), buffers (R417, R426), and the transfer window (R425). -/

namespace Sys2Proof.Machine

/-! ## Mailboxes -/

/-- CLAIM of a free mailbox (R329, R330). -/
def State.mbxClaim (s : State) (j m : Nat) : State :=
  if (s.mailbox m).held then s
  else if j < 64 ∧ (s.priv j = true ∨ 12 ≤ m) then s.modMailbox m fun b => { b with slot := j, held := true }
  else s.report (.mbxDrop m)

/-- RELEASE by the holder, or by any privileged requester; it does not stop a command. -/
def State.mbxRelease (s : State) (j m : Nat) : State :=
  if ((s.mailbox m).held && (s.mailbox m).slot == j) || s.priv j then
    s.modMailbox m fun b => { b with slot := 0, held := false }
  else s.report (.mbxDrop m)

/-- A write that only the holder may make. -/
def State.mbxHolder (s : State) (j m : Nat) (f : Mailbox → Mailbox) : State :=
  if (s.mailbox m).held && (s.mailbox m).slot == j then s.modMailbox m f else s.report (.mbxDrop m)

/-- A write of ARG or CMD: not while BUSY. -/
def State.mbxIdle (s : State) (j m : Nat) (f : Mailbox → Mailbox) : State :=
  if (s.mailbox m).busy then s.report (.mbxDrop m) else s.mbxHolder j m f

/-- WVR_MBX_CMD; GO sets BUSY, clears DONE and ends the results of the command before. -/
def State.mbxCmd (s : State) (j m v : Nat) : State :=
  s.mbxIdle j m fun b =>
    let c : Mailbox := { b with opcode := fld v 0 16, tag := fld v 16 15 }
    if bitOf v 31 then { c with busy := true, done := false, res := [], since := s.clk.wall } else c

/-! ## The walker's bases (R147, R426) -/

/-- A dropped write of a base register. -/
def State.dropBase (s : State) : State := s.report (.droppedWrite 5)

def State.setTableBase (s : State) (v : Nat) : State :=
  let a := fld v 0 23 * 2 ^ 25
  if s.enabled.isEmpty && allocatable a 1 then { s with kvt := { s.kvt with tableBase := a } } else s.dropBase
def State.setSmapBase (s : State) (v : Nat) : State :=
  let a := fld v 0 28 * 2 ^ 20
  if s.enabled.isEmpty && allocatable a 1 then { s with kvt := { s.kvt with smapBase := a } } else s.dropBase

/-- Bytes of an arena; none without frames. -/
def Arena.bytes (a : Arena) : Nat := a.frames * a.frameBlk * 4096

/-- Context `c` may get arena `x`: it is not enabled, and the arena overlaps no other and stays inside allocatable HBM, so that no put
into it reaches the hub region or the pattern area (R147, R241, R426, R428). -/
def State.arenaFits (s : State) (c : Nat) (x : Arena) : Bool :=
  (s.ctx c).ctl.state == 0 && allocatable x.base 1 &&
    (x.bytes == 0 || (decide (x.base + x.bytes ≤ hubBase) && !s.kvt.arenas.any (fun y =>
      y.1 != c && y.2.bytes != 0 && overlaps x.base x.bytes y.2.base y.2.bytes)))
def State.setArena (s : State) (c : Nat) (f : Arena → Arena) : State :=
  if s.arenaFits c (f (s.arena c)) then s.modArena c f else s.dropBase

/-! ## Buffers (R417, R426) -/

/-- The low, or high, word of a 64-bit register written with `v`. -/
def withLo (old v : Nat) : Nat := old / 2 ^ 32 * 2 ^ 32 + v % 2 ^ 32
def withHi (old v : Nat) : Nat := v % 2 ^ 32 * 2 ^ 32 + old % 2 ^ 32

/-- Another base for a buffer that is not armed, in memory that it may name; bits [11:0] read 0. -/
def baseOk (b : Buffer) (a : Nat) : Bool := !b.on && allocatable (a / 4096 * 4096) 1
def State.setTagBase (s : State) (a : Nat) : State :=
  if baseOk s.obs.tagBuf a then s.modObs fun x => { x with tagBuf := { x.tagBuf with base := a / 4096 * 4096 } }
  else if s.obs.tagBuf.on then s else s.report (.droppedWrite 6)
def State.setTrcBase (s : State) (a : Nat) : State :=
  if baseOk s.obs.trcBuf a then s.modObs fun x => { x with trcBuf := { x.trcBuf with base := a / 4096 * 4096 } }
  else if s.obs.trcBuf.on then s else s.report (.droppedWrite 6)

/-! ## Fields that every requester may write -/

/-- The fields of a register that are not PRV. Selectors are the requester's own. -/
def State.writeOpen (s : State) (j : Nat) (r : Reg) (v : Nat) : State :=
  let e := s.sel j
  let sel (f : Selectors → Selectors) : State := s.modSel j f
  let w (old : Bool) (t : Tab Nat) (b : Nat) : Bool := w1c old t b s.clk.elapsed v
  match r with
  | .pickLen =>
    if bitOf v 24 then { s with clk := { s.clk with stretched := s.clk.stretched && decide (16 < s.clk.lenQ) } } else s
  | .alert => { s with rcv := { s.rcv with
      alertThermal := w s.rcv.alertThermal s.rcv.setAt 0, alertHsShutdown := w s.rcv.alertHsShutdown s.rcv.setAt 2
      alertHsTherm := w s.rcv.alertHsTherm s.rcv.setAt 3, alertLinkFail := w s.rcv.alertLinkFail s.rcv.setAt 4
      alertStorm := w s.rcv.alertStorm s.rcv.setAt 5 } }
  | .plogSel => sel fun x => { x with plog := fld v 0 8 }
  | .plogInfo => { s with clk := { s.clk with plogLost := w s.clk.plogLost s.clk.setAt 15 } }
  | .timeStat => { s with time := { s.time with lateLen := w s.time.lateLen s.time.setAt 4 } }
  | .ctxSel => sel fun x => { x with ctx := fld v 0 8 }
  | .lastChkId => s.modRecs e.ctx fun x => { x with lastValid := bitOf v 24 }
  | .mbxOwn m =>
    let s := if bitOf v 7 then s.mbxClaim j m else s
    if bitOf v 8 then s.mbxRelease j m else s
  | .mbxCmd m => s.mbxCmd j m v
  | .mbxStat m => s.mbxHolder j m fun b => { b with done := w b.done b.setAt 1 }
  | .mbxArg m n => s.mbxIdle j m fun b => { b with args := Tab.put 0 b.args n v }
  | .mbxRes m _ => s.mbxHolder j m fun b => b
  | .ringSel => sel fun x => { x with ring := fld v 0 13 }
  | .ringStat => s.modRing e.ring fun x =>
      { x with overflow := w x.overflow x.setAt 13, badEntry := w x.badEntry x.setAt 14 }
  | .tenSel => sel fun x => { x with tenant := fld v 0 10 }
  | .arenaSel => sel fun x => { x with arena := fld v 0 8 }
  | .faultStat => { s with kvt := { s.kvt with faultValid := bitOf v 4 } }
  | .win => s.modSlot j fun x => { x with win := fld v 0 18 }
  | .portSel => sel fun x => { x with port := fld v 0 6 }
  | .thmSel => sel fun x => { x with thm := fld v 0 10 }
  | .thmPeak n => if bitOf v 11 then s.peakClear n else s
  | .monSel => sel fun x => { x with mon := fld v 0 5 }
  | .monChan => s.modChan e.mon fun x => { x with ovr := w x.ovr x.setAt 3, drift := w x.drift x.setAt 6 }
  | .pwrStat => { s with pwr := { s.pwr with capLimit := w s.pwr.capLimit s.pwr.setAt 5 } }
  | .secStat => s.modSec fun x => { x with bootLate := w x.bootLate x.setAt 8 }
  | .bistSel => sel fun x => { x with bist := fld v 0 2 }
  | .rcvAddr => if s.sec.stage == 5 then s.modSec fun x => { x with rcvAddr := fld v 2 18 * 4 } else s
  | .rcvData => if s.sec.stage == 5 then s.rcvProgram (BitVec.ofNat 32 v) else s
  | .rcvCtrl => if bitOf v 0 && s.sec.stage == 5 then s.rcvVerify else s
  | .eccSel => sel fun x => { x with ecc := fld v 0 5 }
  | .twillLoc => { s with health := { s.health with twillValid := bitOf v 29 } }
  | .healthStat => { s with health := { s.health with perm := w s.health.perm s.health.setAt 2 } }
  | .escSel => sel fun x => { x with escKind := fld v 0 4, escIndex := fld v 4 12 }
  | .rootId => { s with rcv := { s.rcv with rootValid := bitOf v 25 } }
  | .gstop => { s with rcv := { s.rcv with cutValid := bitOf v 13 } }
  | .dmpStat => { s with rcv := { s.rcv with
      dumpDropped := w s.rcv.dumpDropped s.rcv.setAt 13, dumpDamaged := w s.rcv.dumpDamaged s.rcv.setAt 14 } }
  | .engSel => sel fun x => { x with eng := fld v 0 13 }
  | .trcStat => s.modObs fun x => { x with trcBuf := { x.trcBuf with
      full := w x.trcBuf.full x.trcBuf.setAt 1, denied := w x.trcBuf.denied x.trcBuf.setAt 2
      bad := w x.trcBuf.bad x.trcBuf.setAt 3 } }
  | .wgtSel => sel fun x => { x with wgt := fld v 0 8 }
  | .hdlSel => sel fun x => { x with hdl := fld v 0 18 }
  | .lastFail => s.modHeddle e.hdl fun x => { x with lastFail := { x.lastFail with valid := bitOf v 7 } }
  | .harnSel => sel fun x => { x with harn := fld v 0 12 }
  | .scrubStat => { s with arr := { s.arr with
      scrubLate := w s.arr.scrubLate s.arr.setAt 0, scrubLost := w s.arr.scrubLost s.arr.setAt 1 } }
  | .satSel => sel fun x => { x with sat := fld v 0 18 }
  | .satStat => s.modHeddle e.sat fun x => { x with satFlag := w x.satFlag x.setAt 0 }
  | .flagSel => sel fun x => { x with flag := fld v 0 8 }
  | .flagStat => s.modRecs e.flag fun x => { x with
      flagMend := w x.flagMend x.setAt 0, flagAct := w x.flagAct x.setAt 1, flagAcc := w x.flagAcc x.setAt 2
      flagFmt := w x.flagFmt x.setAt 3, flagNonfinite := w x.flagNonfinite x.setAt 4 }
  | .shtSel => sel fun x => { x with sht := fld v 0 9 }
  | _ => s

/-! ## PRV fields -/

/-- The PRV fields of a register, written by a privileged requester. HDL_RATE_LIMIT.EXP reads back 20 after a value below 20
(DESIGN CHOICE: its table says that such a value is treated as 20, and not what reads back). -/
def State.writePrv (s : State) (j : Nat) (r : Reg) (v : Nat) : State :=
  let e := s.sel j
  match r with
  | .timeCtrl => s.timeRole (fld v 0 2) (fld v 2 6)
  | .twinStat => { s with twin := { s.twin with dropped := fld v 8 16 } }
  | .ctxCtrl =>
    let s := s.maskSet e.ctx (bitOf v 1)
    if bitOf v 0 then s.ctxEnable e.ctx else s.ctxDisable e.ctx
  | .integ =>
    let s := s.strictSet e.ctx (bitOf v 0) (BitVec.ofNat 16 (v / 65536))
    if bitOf v 1 == (s.ctx e.ctx).ctl.twillReq then s else s.twillSet e.ctx (bitOf v 1)
  | .mbxLimit m => s.mbxHolder j m fun b => { b with limit := fld v 0 16 }
  | .tenRate => s.modTenant e.tenant fun x => { x with rate := fld v 0 24 }
  | .tenCap => s.modTenant e.tenant fun x => { x with cap := fld v 0 24 }
  | .tenBal => s.modTenant e.tenant fun x => { x with bal := signed 32 v, writtenAt := some s.clk.elapsed, beforeRefill := none }
  | .tableBase => s.setTableBase v
  | .smapBase => s.setSmapBase v
  | .arenaBase => s.setArena e.arena fun x => { x with base := v * 65536 }
  | .arenaSize => s.setArena e.arena fun x => { x with frames := fld v 0 21, frameBlk := fld v 21 11 }
  | .missCnt => { s with kvt := { s.kvt with miss := v } }
  | .rid n => s.modSlot n fun x => { x with
      rid := if 62 ≤ n then x.rid else fld v 0 16, valid := bitOf v 16, priv := bitOf v 17, auto := x.auto && bitOf v 16 }
  | .portCtrl =>
    let s := if bitOf v 0 == (s.port e.port).enable then s else s.portEnable e.port (bitOf v 0)
    if bitOf v 1 && decide (e.port < 36) then s.startRetrain e.port else s
  | .portErr => if 36 ≤ e.port then s else s.modPort e.port fun x =>
      { x with crc := fld v 0 16, retrains := fld v 16 8, fails := fld v 24 8 }
  | .portRetry => if 36 ≤ e.port then s else s.modPort e.port fun x => { x with retry := v }
  | .thmTrip => { s with thm := { s.thm with tripCount := fld v 0 16, tripSensor := fld v 16 10 } }
  | .monCfg =>
    let s := s.monPeriod (fld v 0 2)
    let s := { s with mon := { s.mon with holdCal := bitOf v 2 } }
    if bitOf v 3 then s.monCal else s
  | .monChan =>
    let s := s.monSource e.mon (fld v 0 2)
    if bitOf v 5 then s.monClear e.mon else s
  | .calOfs => s.monRestore e.mon false v
  | .calGain => s.monRestore e.mon true v
  | .ceil => { s with pwr := { s.pwr with ceil := ceilInRange (fld v 0 12) } }
  | .tallyCnt => { s with health := { s.health with
      tally := (List.range 4).foldl (fun t l => Tab.put 0 t l (fld v (8 * l) 8)) s.health.tally } }
  | .eccCnt => if 28 < e.ecc then s else { s with health := { s.health with
      eccCorr := Tab.put 0 s.health.eccCorr e.ecc (fld v 0 24), eccUncorr := Tab.put 0 s.health.eccUncorr e.ecc (fld v 24 8) } }
  | .healthStat => { s with health := { s.health with wrapped := s.health.wrapped && bitOf v 1 } }
  | .packCnt => { s with health := { s.health with packRun := fld v 0 16, packFailed := fld v 16 16 } }
  | .escStat => if escSelects e.escKind e.escIndex then
      s.modDomain e.escKind e.escIndex fun d => { d with total := fld v 16 16 } else s
  | .modEsc => { s with rcv := { s.rcv with modTotal := fld v 16 16 } }
  | .echoCnt => { s with rcv := { s.rcv with echoes := v } }
  | .gstop => { s with rcv := { s.rcv with cuts := fld v 16 16 } }
  | .pmcCtrl => s.pmcRun (bitOf v 0)
  | .pmcSel => s.modSel j fun x => { x with pmc := fld v 0 5 }
  | .pmcCfg => s.modPmc e.pmc fun x => { x with
      event := fld v 0 8, loom := fld v 8 3, ctxF := bitOf v 11, context := fld v 12 8, unitF := bitOf v 20 }
  | .pmcUnit => s.modPmc e.pmc fun x => { x with engine := fld v 0 13 }
  | .pmcCntLo => s.pmcWrite e.pmc false v
  | .pmcCntHi => s.pmcWrite e.pmc true v
  | .tagCtrl => s.tagCtrl v
  | .tagSeed => s.tagSeed (BitVec.ofNat 32 v)
  | .tagBaseLo => s.setTagBase (withLo s.obs.tagBuf.base v)
  | .tagBaseHi => s.setTagBase (withHi s.obs.tagBuf.base v)
  | .tagSize => if s.obs.tagBuf.on then s else s.modObs fun x => { x with tagBuf := { x.tagBuf with blocks := fld v 0 20 } }
  | .tagDrop => s.modObs fun x => { x with tagBuf := { x.tagBuf with drop := v } }
  | .trcCtrl => s.traceCtrl v
  | .trcStartLo => s.modObs fun x => { x with trcStart := withLo x.trcStart v }
  | .trcStartHi => s.modObs fun x => { x with trcStart := withHi x.trcStart v }
  | .trcBaseLo => s.setTrcBase (withLo s.obs.trcBuf.base v)
  | .trcBaseHi => s.setTrcBase (withHi s.obs.trcBuf.base v)
  | .trcSize => if s.obs.trcBuf.on then s else s.modObs fun x => { x with trcBuf := { x.trcBuf with blocks := fld v 0 20 } }
  | .trcDrop => s.modObs fun x => { x with trcBuf := { x.trcBuf with drop := v } }
  | .corrCnt => s.modHeddle e.hdl fun x => { x with corr := v }
  | .failCnt => s.modHeddle e.hdl fun x => { x with uncorr := fld v 0 16, ovr := fld v 16 16 }
  | .convCnt => s.modHeddle e.hdl fun x => { x with convs := v * 2 ^ 20 }
  | .harnCtrl =>
    let h := e.harn
    let req := fld v 0 2
    let s := if req = 0 then s.reqOff h else if req = 1 then s.reqActive h else if req = 2 then s.reqRetention h else s
    let s := if bitOf v 9 then s.fullTrim h else s
    if bitOf v 8 then s.harnessReset h else s
  | .scrubCfg => { s with arr := { s.arr with passS := max 10 (min 60 (fld v 0 6)) } }
  | .scrubStat => { s with arr := { s.arr with mismatchRows := fld v 16 16 } }
  | .rateLimit => { s with arr := { s.arr with rateExp := max 20 (fld v 0 5) } }
  | .spareCfg => { s with arr := { s.arr with spareCfg := min 8 (fld v 0 4) } }
  | .satStat => s.modHeddle e.sat fun x => { x with satCount := fld v 16 16 }
  | .shtErr => if 384 ≤ e.sht then s else s.modShuttle e.sht fun x =>
      { x with stat := fld v 0 8, residue := fld v 8 8, tally := fld v 16 8, page := fld v 24 8 }
  | .shtEmpty => if 384 ≤ e.sht then s else s.modShuttle e.sht fun x => { x with empty := v }
  | .tblStat => s.modSec fun x => { x with tblCorr := fld v 16 8, tblUncorr := fld v 24 8 }
  | .resCnt l => s.modLoom l fun x =>
      { x with resBeater := fld v 0 8, resMending := fld v 8 8, resFuller := fld v 16 8, resReduce := fld v 24 8 }
  | .redSat l => s.modLoom l fun x => { x with redSat := v }
  | _ => s

/-! ## Accesses -/

/-- A register write: the open fields as their codes say; the PRV fields for a privileged requester, else they stay and the
access is counted (R13). -/
def State.writeReg (s : State) (j : Nat) (r : Reg) (v : Word) : State :=
  let t := s.writeOpen j r v.toNat
  if r.prvMask == 0 then t
  else if s.priv j then t.writePrv j r v.toNat
  else t.report (.prvDenied j)

/-- A command through mailbox 15 over I3C is BUSY (R425). -/
def State.xferBusy (s : State) : Bool := (s.mailbox 15).busy && viaXfer 15 (s.mailbox 15)

/-- A write of the transfer window. -/
def State.writeXfer (s : State) (j off : Nat) (v : Word) : State :=
  let a := xferBase + (off - 0x3000000)
  if !s.priv j then s.report (.prvDenied j)
  else if s.xferBusy || !s.memAwake a then s.report (.droppedWrite 7)
  else s.write a (toLe 4 v.toNat)

/-- An aligned BAR0 write. -/
def State.writeBar0 (s : State) (j off : Nat) (v : Word) : State :=
  if inXfer off then s.writeXfer j off v
  else match regAt off with
    | none => s
    | some r => s.writeReg j r v

end Sys2Proof.Machine
end

