-- ==== Sys2Proof/Machine/Access.lean ====
section
/-! DEFINITION. Accesses from outside: BAR0 (R10, R11, R424), BAR4 (R326 with R128, R133, R153, R229, R241, R355, R417,
R426, R428), mailbox claims, opcodes without a command (R19), UCIe links (R324), and the I3C target (R349). -/

namespace Sys2Proof.Machine

/-! ## BAR0 -/

/-- A read or write that is not an aligned 32-bit access (R10). -/
def State.misaligned (s : State) (who : Who) (write : Bool) : State :=
  match s.access who with
  | (some j, t) =>
    if t.sec.stage == 5 then t
    else if write then t.report .misaligned
    else (t.report .misaligned).emit (.readData j 0xFFFFFFFF)
  | (none, t) => if write || !t.up || t.sec.stage == 5 then t else t.deadRead

def execBar0MisalignedAccess (who : Who) (write : Bool) (s : State) : Host.Outcome State Fault Refusal :=
  .next (s.misaligned who write)

/-- The registers that the ROM serves in recovery (R400). -/
def rcvServes (off : Nat) : Bool :=
  match regAt off with
  | some .rcvAddr => true
  | some .rcvData => true
  | some .rcvCtrl => true
  | _ => false

/-- A 32-bit write at an offset. -/
def State.bar0Write (s : State) (who : Who) (off : Nat) (v : Word) : State :=
  if off % 4 ≠ 0 then s.misaligned who true
  else match s.access who with
    | (some j, t) => if t.sec.stage == 5 && !rcvServes off then t else t.writeBar0 j off v
    | (none, t) => t

/-- A 32-bit read at an offset. -/
def State.bar0Read (s : State) (who : Who) (off : Nat) : State :=
  if off % 4 ≠ 0 then s.misaligned who false
  else match s.access who with
    | (some j, t) =>
      if t.sec.stage == 5 && !rcvServes off then t
      else
        let (v, t) := t.readBar0 j off
        t.emit (.readData j v)
    | (none, t) => if t.up && t.sec.stage != 5 then t.deadRead else t

def execRegisterWrite (who : Who) (off : BitVec 26) (v : Word) (s : State) : Host.Outcome State Fault Refusal :=
  .next (s.bar0Write who off.toNat v)

def execMbxClaim (who : Who) (m : Fin 16) (s : State) : Host.Outcome State Fault Refusal :=
  .next (s.anyWrite who fun j s => s.mbxClaim j m.val)
def execMbxRelease (who : Who) (m : Fin 16) (s : State) : Host.Outcome State Fault Refusal :=
  .next (s.anyWrite who fun j s => s.mbxRelease j m.val)

/-- UNASSIGNED_OPCODE: the command of mailbox `m` has no entry in Table 16.5. -/
def execUnassignedOpcode (m : Fin 16) (s : State) : Host.Outcome State Fault Refusal :=
  .next (
    let b := s.mailbox m.val
    if s.serves && b.busy && !assignedOpcodes.contains b.opcode then s.complete m.val 0x11 [] else s)

/-! ## BAR4 -/

/-- The slot of a BAR4 access, which every link that is up takes (R324). -/
def State.access4 (s : State) (who : Who) : Option Nat × State :=
  if !s.up || s.sec.stage == 5 then (none, s)
  else match who with
  | .weaver => (some 64, s)
  | .i3c => (none, s)
  | .host rid link =>
    if s.acc.linksUp.contains link.val then
      let (j, t) := s.assignSlot rid.toNat
      (some j, t)
    else (none, s)

/-- The device-local address of a window offset (R326). -/
def State.winAddr (s : State) (j off : Nat) : Nat := (s.slot j).win * 2 ^ 30 + off

/-- [a, a+n) touches the hub region (R428). -/
def inHub (a n : Nat) : Bool := overlaps a n hubBase (patternBase - hubBase)

/-- Every byte of [a, a+n) lies in memory that answers. -/
def State.answers (s : State) (a n : Nat) : Bool :=
  mapped a n && s.memAwake a && s.memAwake (a + n - 1)

/-- A BAR4 read: all ones where no memory answers, zeros from the hub region, else the bytes that an outside reader gets. -/
def State.readBar4 (s : State) (j off n : Nat) : State :=
  let a := s.winAddr j off
  if !s.answers a n then (s.report (.badBar4 j)).emit (.readBytes j (List.replicate n 0xFF))
  else if inHub a n then (s.report .hubRegion).emit (.readBytes j (List.replicate n 0))
  else (s.noteSealed a n).emit (.readBytes j (s.outsideBytes a n))

def execBar4Read (who : Who) (off : BitVec 36) (n : Fin 4097) (s : State) : Host.Outcome State Fault Refusal :=
  .next (match s.access4 who with
    | (some j, t) => t.readBar4 j off.toNat n.val
    | (none, t) => t)

/-- [a, a+n) touches a VALID stream-map entry whose CONTEXT is enabled (R128). -/
def State.smapHeld (s : State) (a n : Nat) : Bool :=
  let base := s.kvt.smapBase
  overlaps a n base (65536 * 16) &&
    (let lo := (max a base - base) / 16
     let hi := (min (a + n) (base + 65536 * 16) - 1 - base) / 16
     (List.range (hi - lo + 1)).any (fun i =>
       s.smapValid (lo + i) && (s.ctx (s.smapCtx (lo + i))).ctl.state != 0))

/-- [a, a+n) touches the page table: its entries change only through the page commands and through appends (R132), so a host write
there is dropped (DEDUCED: R326 does not name the rule among those that drop). -/
def State.inTable (s : State) (a n : Nat) : Bool := overlaps a n s.kvt.tableBase (2097152 * 16)

/-- Why a host write into [a, a+n) is dropped, none when it is accepted. -/
def State.writeBarred (s : State) (j a n : Nat) : Option Report :=
  if !s.answers a n then some (.badBar4 j)
  else if inHub a n then some .hubRegion
  else if overlaps a n patternBase (hbmEnd - patternBase) then some (.droppedWrite 8)
  else if s.frameClosed a n then some (.droppedWrite 9)
  else if s.smapHeld a n then some (.droppedWrite 10)
  else if s.inTable a n then some (.droppedWrite 13)
  else if s.enabled.any (fun c => (planRegions (s.image c)).any (fun r => overlaps a n r.base r.size)) then some (.droppedWrite 11)
  else if (s.obs.tagBuf.on && overlaps a n s.obs.tagBuf.base (s.obs.tagBuf.blocks * 4096)) ||
      (s.obs.trcBuf.on && overlaps a n s.obs.trcBuf.base (s.obs.trcBuf.blocks * 4096)) then some (.droppedWrite 12)
  else none

/-- A BAR4 write: dropped whole and counted, or stored with the stored tallies' errors kept (R257). -/
def State.writeBar4 (s : State) (j off : Nat) (data : Bytes) : State :=
  let a := s.winAddr j off
  if data.isEmpty then s
  else match s.writeBarred j a data.length with
    | some r => s.report r
    | none => s.write a data

def execBar4Write (who : Who) (off : BitVec 36) (data : Bytes) (s : State) : Host.Outcome State Fault Refusal :=
  .next (match s.access4 who with
    | (some j, t) => t.writeBar4 j off.toNat data
    | (none, t) => t)

/-! ## UCIe links (R322, R324) -/

def State.modAcc (s : State) (f : Access → Access) : State := { s with acc := f s.acc }

/-- UCIE_LINK_DOWN: a link has not retrained within 1 ms. With none left, hub function 6 is faulted. -/
def execUcieLinkDown (link : Fin 8) (s : State) : Host.Outcome State Fault Refusal :=
  .next (
    if s.up && s.acc.linksUp.contains link.val then
      let s := s.modAcc fun x => { x with
        linksUp := x.linksUp.filter (· != link.val), linksHalf := x.linksHalf.filter (· != link.val) }
      if s.acc.linksUp.isEmpty then s.fault 0xA 6 8 else s
    else s)

/-- UCIE_LINK_TRAINED: the link is up, at half width when a lane could not be replaced. Training again is a retrain. -/
def execUcieLinkTrained (link : Fin 8) (half : Bool) (s : State) : Host.Outcome State Fault Refusal :=
  .next (
    if s.up && s.hs.present && s.hs.resetReleased && decide (1 ≤ s.sec.stage ∧ s.sec.stage ≤ 4) then
      let l := link.val
      let others (xs : List Nat) : List Nat := xs.filter (· != l)
      s.modAcc fun x => { x with
        linksUp := others x.linksUp ++ [l], linksHalf := if half then others x.linksHalf ++ [l] else others x.linksHalf
        linksEver := others x.linksEver ++ [l]
        retrains := if x.linksEver.contains l then (x.retrains + 1) % 256 else x.retrains }
    else s)

/-! ## I3C (R349) -/

/-- The target answers: the module is powered and out of reset, and its domain is in service. -/
def State.i3cUp (s : State) : Bool := s.up && !s.troubled 0xA 7

def execI3cOffsetWrite (off : Word) (s : State) : Host.Outcome State Fault Refusal :=
  .next (if s.i3cUp then s.modSec fun x => { x with i3cOffset := off.toNat } else s)

/-- I3C_REGISTER_ACCESS: the register at the offset, read or written as identity slot 62. -/
def execI3cRegisterAccess (write : Option Word) (s : State) : Host.Outcome State Fault Refusal :=
  .next (
    if s.i3cUp then
      (match write with
       | some v => s.bar0Write .i3c s.sec.i3cOffset v
       | none => s.bar0Read .i3c s.sec.i3cOffset)
    else s)

def execI3cDynamicAddress (addr : BitVec 7) (s : State) : Host.Outcome State Fault Refusal :=
  .next (if s.i3cUp then s.modSec fun x => { x with i3cDyn := some addr.toNat } else s)

end Sys2Proof.Machine
end

