-- ==== Sys2Proof/Machine/Dispatch.lean ====
section
/-! DEFINITION. The effect of each command on everything but the queue: one arm per row of the opcode table. -/

namespace Sys2Proof.Machine

/-- The command's effect (each meaning's file cites the rules it follows). -/
def exec (i : Instr) (s : State) : Host.Outcome State Fault Refusal :=
  match i with
  | .powerOn hsPresent bmAddr cfgRecoverLow cfgLineHigh => Sys2Proof.Machine.execPowerOn hsPresent bmAddr cfgRecoverLow cfgLineHigh s
  | .inputPowerLoss => Sys2Proof.Machine.execInputPowerLoss s
  | .inputOutOfRange mv => Sys2Proof.Machine.execInputOutOfRange mv s
  | .railFault aon => Sys2Proof.Machine.execRailFault aon s
  | .referenceOscillatorFail => Sys2Proof.Machine.execReferenceOscillatorFail s
  | .pickBoundary => Sys2Proof.Machine.execPickBoundary s
  | .pickLengthChange => Sys2Proof.Machine.execPickLengthChange s
  | .hubPickLoRead who => Sys2Proof.Machine.execHubPickLoRead who s
  | .bar0MisalignedAccess who write => Sys2Proof.Machine.execBar0MisalignedAccess who write s
  | .registerWrite who off v => Sys2Proof.Machine.execRegisterWrite who off v s
  | .bar4Read who off n => Sys2Proof.Machine.execBar4Read who off n s
  | .bar4Write who off data => Sys2Proof.Machine.execBar4Write who off data s
  | .unassignedOpcode m => Sys2Proof.Machine.execUnassignedOpcode m s
  | .mvmStep ctx list idx ups => Sys2Proof.Machine.execMvmStep ctx list idx ups s
  | .mendStep ctx list idx ups => Sys2Proof.Machine.execMendStep ctx list idx ups s
  | .fullStep ctx list idx ups => Sys2Proof.Machine.execFullStep ctx list idx ups s
  | .attnStep ctx list idx ups => Sys2Proof.Machine.execAttnStep ctx list idx ups s
  | .putStep ctx list idx ups => Sys2Proof.Machine.execPutStep ctx list idx ups s
  | .getStep ctx list idx => Sys2Proof.Machine.execGetStep ctx list idx s
  | .addStep ctx list idx ups => Sys2Proof.Machine.execAddStep ctx list idx ups s
  | .knotStep ctx list idx => Sys2Proof.Machine.execKnotStep ctx list idx s
  | .recvStep ctx list idx => Sys2Proof.Machine.execRecvStep ctx list idx s
  | .calStep ctx list idx => Sys2Proof.Machine.execCalStep ctx list idx s
  | .testStep ctx list idx seen => Sys2Proof.Machine.execTestStep ctx list idx seen s
  | .batchStep ctx list idx => Sys2Proof.Machine.execBatchStep ctx list idx s
  | .sampleStep ctx list idx ups => Sys2Proof.Machine.execSampleStep ctx list idx ups s
  | .emitStep ctx list idx => Sys2Proof.Machine.execEmitStep ctx list idx s
  | .stepEnd ctx list idx => Sys2Proof.Machine.execStepEnd ctx list idx s
  | .unfilledSlotKnotSet ctx list idx => Sys2Proof.Machine.execUnfilledSlotKnotSet ctx list idx s
  | .put op path => Sys2Proof.Machine.execPut op path s
  | .get op path => Sys2Proof.Machine.execGet op path s
  | .getData op path => Sys2Proof.Machine.execGetData op path s
  | .add48 op path => Sys2Proof.Machine.execAdd48 op path s
  | .knotSet op path => Sys2Proof.Machine.execKnotSet op path s
  | .ack ctx list idx => Sys2Proof.Machine.execAck ctx list idx s
  | .nack ctx list idx status => Sys2Proof.Machine.execNack ctx list idx status s
  | .contextEnable who => Sys2Proof.Machine.execContextEnable who s
  | .contextDisable who => Sys2Proof.Machine.execContextDisable who s
  | .maskingSet who on => Sys2Proof.Machine.execMaskingSet who on s
  | .strictSet who strict mask => Sys2Proof.Machine.execStrictSet who strict mask s
  | .twillSet who on => Sys2Proof.Machine.execTwillSet who on s
  | .checkComplete ctx grp => Sys2Proof.Machine.execCheckComplete ctx grp s
  | .armingReady ctx => Sys2Proof.Machine.execArmingReady ctx s
  | .armingHoldTimeout ctx => Sys2Proof.Machine.execArmingHoldTimeout ctx s
  | .ready group place pick => Sys2Proof.Machine.execReady group place pick s
  | .launch group l => Sys2Proof.Machine.execLaunch group l s
  | .abort group => Sys2Proof.Machine.execAbort group s
  | .launchReadyTimeout ctx => Sys2Proof.Machine.execLaunchReadyTimeout ctx s
  | .armedTimeout ctx => Sys2Proof.Machine.execArmedTimeout ctx s
  | .launchCalWindow ctx => Sys2Proof.Machine.execLaunchCalWindow ctx s
  | .launchPick ctx => Sys2Proof.Machine.execLaunchPick ctx s
  | .stop group pick => Sys2Proof.Machine.execStop group pick s
  | .stopIterationEnd ctx => Sys2Proof.Machine.execStopIterationEnd ctx s
  | .planLoad m image => Sys2Proof.Machine.execPlanLoad m image s
  | .planUnload m => Sys2Proof.Machine.execPlanUnload m s
  | .planStatus m => Sys2Proof.Machine.execPlanStatus m s
  | .planMap m => Sys2Proof.Machine.execPlanMap m s
  | .sequencerCalWindow h => Sys2Proof.Machine.execSequencerCalWindow h s
  | .fullTrim who => Sys2Proof.Machine.execFullTrim who s
  | .fullTrimDone h => Sys2Proof.Machine.execFullTrimDone h s
  | .harnessReqActive who => Sys2Proof.Machine.execHarnessReqActive who s
  | .harnessReqRetention who => Sys2Proof.Machine.execHarnessReqRetention who s
  | .harnessReqOff who => Sys2Proof.Machine.execHarnessReqOff who s
  | .harnessTransitionDone h => Sys2Proof.Machine.execHarnessTransitionDone h s
  | .harnessReturnResume h => Sys2Proof.Machine.execHarnessReturnResume h s
  | .harnessReset who => Sys2Proof.Machine.execHarnessReset who s
  | .scrubRowCompare g row eccUncorr => Sys2Proof.Machine.execScrubRowCompare g row eccUncorr s
  | .scrubRewrite g row => Sys2Proof.Machine.execScrubRewrite g row s
  | .scrubPassComplete g => Sys2Proof.Machine.execScrubPassComplete g s
  | .scrubLate g => Sys2Proof.Machine.execScrubLate g s
  | .targetedScrub g dent eccUncorr => Sys2Proof.Machine.execTargetedScrub g dent eccUncorr s
  | .thermalUpdate => Sys2Proof.Machine.execThermalUpdate s
  | .throttleGraceEnd => Sys2Proof.Machine.execThrottleGraceEnd s
  | .throttleEval => Sys2Proof.Machine.execThrottleEval s
  | .sensorConversion n reading => Sys2Proof.Machine.execSensorConversion n reading s
  | .tripRestart => Sys2Proof.Machine.execTripRestart s
  | .monPeriodEnd raw => Sys2Proof.Machine.execMonPeriodEnd raw s
  | .monAccLoRead who => Sys2Proof.Machine.execMonAccLoRead who s
  | .monClear who => Sys2Proof.Machine.execMonClear who s
  | .monSourceSet who src => Sys2Proof.Machine.execMonSourceSet who src s
  | .monCal who => Sys2Proof.Machine.execMonCal who s
  | .monPeriodSet who p => Sys2Proof.Machine.execMonPeriodSet who p s
  | .monCalRestore who gain v => Sys2Proof.Machine.execMonCalRestore who gain v s
  | .thmPeakClear who n => Sys2Proof.Machine.execThmPeakClear who n s
  | .pwrStateSet m => Sys2Proof.Machine.execPwrStateSet m s
  | .powerStateReached => Sys2Proof.Machine.execPowerStateReached s
  | .budgetRefill => Sys2Proof.Machine.execBudgetRefill s
  | .sqTailDoorbell who r v => Sys2Proof.Machine.execSqTailDoorbell who r v s
  | .cqHeadDoorbell who r v => Sys2Proof.Machine.execCqHeadDoorbell who r v s
  | .generate r entry prompt => Sys2Proof.Machine.execGenerate r entry prompt s
  | .prefill r entry prompt => Sys2Proof.Machine.execPrefill r entry prompt s
  | .cancel r entry => Sys2Proof.Machine.execCancel r entry s
  | .hostReadFail what => Sys2Proof.Machine.execHostReadFail what s
  | .ringSetup m => Sys2Proof.Machine.execRingSetup m s
  | .ringTeardown m => Sys2Proof.Machine.execRingTeardown m s
  | .streamOpen m => Sys2Proof.Machine.execStreamOpen m s
  | .streamClose m => Sys2Proof.Machine.execStreamClose m s
  | .streamReset m => Sys2Proof.Machine.execStreamReset m s
  | .reqCancel m => Sys2Proof.Machine.execReqCancel m s
  | .roleSet m => Sys2Proof.Machine.execRoleSet m s
  | .kvMap m => Sys2Proof.Machine.execKvMap m s
  | .kvUnmap m => Sys2Proof.Machine.execKvUnmap m s
  | .ctxOpen m recipe => Sys2Proof.Machine.execCtxOpen m recipe s
  | .ctxClose m => Sys2Proof.Machine.execCtxClose m s
  | .wgtKey m record => Sys2Proof.Machine.execWgtKey m record s
  | .wgtLoadSealed m chunks => Sys2Proof.Machine.execWgtLoadSealed m chunks s
  | .wgtLoadOpen m data => Sys2Proof.Machine.execWgtLoadOpen m data s
  | .loadTierResume ctx => Sys2Proof.Machine.execLoadTierResume ctx s
  | .loadTierTimeout ctx => Sys2Proof.Machine.execLoadTierTimeout ctx s
  | .wgtCommit m => Sys2Proof.Machine.execWgtCommit m s
  | .wgtStageOpen m recipe => Sys2Proof.Machine.execWgtStageOpen m recipe s
  | .wgtStagePlan m image => Sys2Proof.Machine.execWgtStagePlan m image s
  | .wgtSwitch m grp => Sys2Proof.Machine.execWgtSwitch m grp s
  | .wgtStageDrop m => Sys2Proof.Machine.execWgtStageDrop m s
  | .wgtRestore m chunks data => Sys2Proof.Machine.execWgtRestore m chunks data s
  | .switchDrained ctx => Sys2Proof.Machine.execSwitchDrained ctx s
  | .drainLimit ctx => Sys2Proof.Machine.execDrainLimit ctx s
  | .weightFlip ctx => Sys2Proof.Machine.execWeightFlip ctx s
  | .drained group place switchId => Sys2Proof.Machine.execDrained group place switchId s
  | .flip group f switchLow => Sys2Proof.Machine.execFlip group f switchLow s
  | .switchAcceptTimeout ctx => Sys2Proof.Machine.execSwitchAcceptTimeout ctx s
  | .sealedHarnessRelease h => Sys2Proof.Machine.execSealedHarnessRelease h s
  | .spareCountSet who n => Sys2Proof.Machine.execSpareCountSet who n s
  | .hbmPatrol block units bits => Sys2Proof.Machine.execHbmPatrol block units bits s
  | .healthEventWrite => Sys2Proof.Machine.execHealthEventWrite s
  | .poweredSecond => Sys2Proof.Machine.execPoweredSecond s
  | .healthDumapRead m => Sys2Proof.Machine.execHealthDumapRead m s
  | .healthEventRead m => Sys2Proof.Machine.execHealthEventRead m s
  | .healthUnitRestore m => Sys2Proof.Machine.execHealthUnitRestore m s
  | .healthPackLoad m object => Sys2Proof.Machine.execHealthPackLoad m object s
  | .healthPackUnload m => Sys2Proof.Machine.execHealthPackUnload m s
  | .healthCaptureRead m => Sys2Proof.Machine.execHealthCaptureRead m s
  | .overrun ctx list idx => Sys2Proof.Machine.execOverrun ctx list idx s
  | .starved ctx list idx => Sys2Proof.Machine.execStarved ctx list idx s
  | .memoryTimeout channel => Sys2Proof.Machine.execMemoryTimeout channel s
  | .tierTimeout tier => Sys2Proof.Machine.execTierTimeout tier s
  | .sequencerFault loom => Sys2Proof.Machine.execSequencerFault loom s
  | .hubWatchdog function => Sys2Proof.Machine.execHubWatchdog function s
  | .weaverHeartbeat => Sys2Proof.Machine.execWeaverHeartbeat s
  | .mailboxTimeout m => Sys2Proof.Machine.execMailboxTimeout m s
  | .sramUncorrectable => Sys2Proof.Machine.execSramUncorrectable s
  | .lockStepMismatch => Sys2Proof.Machine.execLockStepMismatch s
  | .drainComplete kind idx => Sys2Proof.Machine.execDrainComplete kind idx s
  | .dumpComplete kind idx absent => Sys2Proof.Machine.execDumpComplete kind idx absent s
  | .resetRelease kind idx => Sys2Proof.Machine.execResetRelease kind idx s
  | .restoreComplete kind idx => Sys2Proof.Machine.execRestoreComplete kind idx s
  | .restoreTimeout kind idx => Sys2Proof.Machine.execRestoreTimeout kind idx s
  | .dumpRead m => Sys2Proof.Machine.execDumpRead m s
  | .dumpRelease m => Sys2Proof.Machine.execDumpRelease m s
  | .errlogRead m => Sys2Proof.Machine.execErrlogRead m s
  | .domainReset m => Sys2Proof.Machine.execDomainReset m s
  | .domainRetire m => Sys2Proof.Machine.execDomainRetire m s
  | .moduleReturn m => Sys2Proof.Machine.execModuleReturn m s
  | .twinPair m bitmap peer => Sys2Proof.Machine.execTwinPair m bitmap peer s
  | .twinDetach m => Sys2Proof.Machine.execTwinDetach m s
  | .gstop group origin cause pick => Sys2Proof.Machine.execGstop group origin cause pick s
  | .fault notice => Sys2Proof.Machine.execFault notice s
  | .stormWindowClose => Sys2Proof.Machine.execStormWindowClose s
  | .shadowRecordSend stream => Sys2Proof.Machine.execShadowRecordSend stream s
  | .shadowRecord r => Sys2Proof.Machine.execShadowRecord r s
  | .heartbeatSend => Sys2Proof.Machine.execHeartbeatSend s
  | .heartbeat port => Sys2Proof.Machine.execHeartbeat port s
  | .peerLost => Sys2Proof.Machine.execPeerLost s
  | .depart port => Sys2Proof.Machine.execDepart port s
  | .detach port => Sys2Proof.Machine.execDetach port s
  | .handover port ctx h => Sys2Proof.Machine.execHandover port ctx h s
  | .hsResetRelease => Sys2Proof.Machine.execHsResetRelease s
  | .hsThrottleEval mw => Sys2Proof.Machine.execHsThrottleEval mw s
  | .hsShutdown cause => Sys2Proof.Machine.execHsShutdown cause s
  | .hsThermAssert => Sys2Proof.Machine.execHsThermAssert s
  | .page v => Sys2Proof.Machine.execPage v s
  | .voutCommand v => Sys2Proof.Machine.execVoutCommand v s
  | .readVout => Sys2Proof.Machine.execReadVout s
  | .readIout raw => Sys2Proof.Machine.execReadIout raw s
  | .readPout raw => Sys2Proof.Machine.execReadPout raw s
  | .statusWord => Sys2Proof.Machine.execStatusWord s
  | .clearFaults => Sys2Proof.Machine.execClearFaults s
  | .ucieLinkDown link => Sys2Proof.Machine.execUcieLinkDown link s
  | .mbxClaim who m => Sys2Proof.Machine.execMbxClaim who m s
  | .mbxRelease who m => Sys2Proof.Machine.execMbxRelease who m s
  | .xeastFlit port flit => Sys2Proof.Machine.execXeastFlit port flit s
  | .replayTimeout port => Sys2Proof.Machine.execReplayTimeout port s
  | .xlRetrain who port => Sys2Proof.Machine.execXlRetrain who port s
  | .retrainComplete port => Sys2Proof.Machine.execRetrainComplete port s
  | .linkFailure port cause => Sys2Proof.Machine.execLinkFailure port cause s
  | .portEnableSet who on => Sys2Proof.Machine.execPortEnableSet who on s
  | .portEqualised port => Sys2Proof.Machine.execPortEqualised port s
  | .ident port id peerPort profile fwForm => Sys2Proof.Machine.execIdent port id peerPort profile fwForm s
  | .planId port group origin leader aligned => Sys2Proof.Machine.execPlanId port group origin leader aligned s
  | .syncSend port => Sys2Proof.Machine.execSyncSend port s
  | .syncReceive port st => Sys2Proof.Machine.execSyncReceive port st s
  | .holdoverExpire => Sys2Proof.Machine.execHoldoverExpire s
  | .timeRoleSet who role upstream => Sys2Proof.Machine.execTimeRoleSet who role upstream s
  | .timeAlign m => Sys2Proof.Machine.execTimeAlign m s
  | .timeQuery port => Sys2Proof.Machine.execTimeQuery port s
  | .timeReply port lead busy => Sys2Proof.Machine.execTimeReply port lead busy s
  | .timeAlignTimeout => Sys2Proof.Machine.execTimeAlignTimeout s
  | .timeStep port at_ v => Sys2Proof.Machine.execTimeStep port at_ v s
  | .timeStepApply => Sys2Proof.Machine.execTimeStepApply s
  | .picklenReq port len => Sys2Proof.Machine.execPicklenReq port len s
  | .picklen port e len byThermal byPower byScreen => Sys2Proof.Machine.execPicklen port e len byThermal byPower byScreen s
  | .bmReset => Sys2Proof.Machine.execBmReset s
  | .i3cOffsetWrite off => Sys2Proof.Machine.execI3cOffsetWrite off s
  | .i3cRegisterAccess write => Sys2Proof.Machine.execI3cRegisterAccess write s
  | .i3cDynamicAddress addr => Sys2Proof.Machine.execI3cDynamicAddress addr s
  | .romVerifyDone pufOk => Sys2Proof.Machine.execRomVerifyDone pufOk s
  | .bootStageDone bist0 bist1 bist2 bist3 => Sys2Proof.Machine.execBootStageDone bist0 bist1 bist2 bist3 s
  | .bootPhaseLate => Sys2Proof.Machine.execBootPhaseLate s
  | .keyDerivationDone keysMatch => Sys2Proof.Machine.execKeyDerivationDone keysMatch s
  | .fwLoad m object => Sys2Proof.Machine.execFwLoad m object s
  | .adorakuStarted => Sys2Proof.Machine.execAdorakuStarted s
  | .certRead m => Sys2Proof.Machine.execCertRead m s
  | .attest m nonce bitmap => Sys2Proof.Machine.execAttest m nonce bitmap s
  | .flashUpdate m object => Sys2Proof.Machine.execFlashUpdate m object s
  | .debugChallenge m => Sys2Proof.Machine.execDebugChallenge m s
  | .debugUnlock m object => Sys2Proof.Machine.execDebugUnlock m object s
  | .dbgScan m data => Sys2Proof.Machine.execDbgScan m data s
  | .dbgCore m data => Sys2Proof.Machine.execDbgCore m data s
  | .bistRun m outcome => Sys2Proof.Machine.execBistRun m outcome s
  | .secRcvDataWrite v => Sys2Proof.Machine.execSecRcvDataWrite v s
  | .secRcvVerify => Sys2Proof.Machine.execSecRcvVerify s
  | .obsBusyLoRead who => Sys2Proof.Machine.execObsBusyLoRead who s
  | .pmcRunSet who on => Sys2Proof.Machine.execPmcRunSet who on s
  | .pmcCntWrite who hi v => Sys2Proof.Machine.execPmcCntWrite who hi v s
  | .pmcCntLoRead who => Sys2Proof.Machine.execPmcCntLoRead who s
  | .pmcTagSeedWrite who v => Sys2Proof.Machine.execPmcTagSeedWrite who v s
  | .tagArm who v => Sys2Proof.Machine.execTagArm who v s
  | .tagRecordWrite => Sys2Proof.Machine.execTagRecordWrite s
  | .traceArm who v => Sys2Proof.Machine.execTraceArm who v s
  | .traceStop who => Sys2Proof.Machine.execTraceStop who s
  | .traceSample => Sys2Proof.Machine.execTraceSample s
  | .obsDump m => Sys2Proof.Machine.execObsDump m s
  | .monDump m => Sys2Proof.Machine.execMonDump m s
  | .bmResetRelease => Sys2Proof.Machine.execBmResetRelease s
  | .railsBackInRegulation => Sys2Proof.Machine.execRailsBackInRegulation s
  | .inputBackInRange => Sys2Proof.Machine.execInputBackInRange s
  | .ucieLinkTrained link half => Sys2Proof.Machine.execUcieLinkTrained link half s
  | .hsThermDeassert => Sys2Proof.Machine.execHsThermDeassert s

end Sys2Proof.Machine
end

