-- ==== Sys2Proof/Machine/Frames.lean ====
section
/-! DEFINITION. The terms that statements use: the blocks of the state and which of them each command may change, how a
requester and a mailbox stand when their command acts. -/

namespace Sys2Proof.Machine

/-! ## Blocks of the state -/

/-- The parts of the state that frames speak of: the fields of `State` beside the queue, four of them in pieces (arrays,
serving, health, recovery). -/
inductive Block where
  | tick | clk | time | pwr | hs | sec | acc | mbx | mem | heddles | harnesses | looms | scrub | windows
  | sealed | kvt | ctxs | sched | rings | streams | tenants | reqs | engine | history | unitMap | packs
  | memChecks | lifetime | twill | log | storm | domains | modResets | dumps | cuts | relayed | marks | alerts
  | twin | ports | thm | mon | obs | agg | out
deriving DecidableEq, Repr

/-- The part is the same in both states. -/
def Block.same : Block → State → State → Prop
  | .tick, s, t => t.tick = s.tick
  | .clk, s, t => t.clk = s.clk
  | .time, s, t => t.time = s.time
  | .pwr, s, t => t.pwr = s.pwr
  | .hs, s, t => t.hs = s.hs
  | .sec, s, t => t.sec = s.sec
  | .acc, s, t => t.acc = s.acc
  | .mbx, s, t => t.mbx = s.mbx
  | .mem, s, t => t.mem = s.mem
  | .heddles, s, t => t.arr.heddles = s.arr.heddles
  | .harnesses, s, t => t.arr.harnesses = s.arr.harnesses
  | .looms, s, t => t.arr.looms = s.arr.looms
  | .scrub, s, t =>
      (t.arr.passS, t.arr.scrubLate, t.arr.scrubLost, t.arr.mismatchRows, t.arr.rateExp, t.arr.spareCfg,
       t.arr.targets, t.arr.scrubNext, t.arr.setAt) =
        (s.arr.passS, s.arr.scrubLate, s.arr.scrubLost, s.arr.mismatchRows, s.arr.rateExp, s.arr.spareCfg,
         s.arr.targets, s.arr.scrubNext, s.arr.setAt)
  | .windows, s, t => t.arr.windows = s.arr.windows
  | .sealed, s, t => t.arr.sealedCopies = s.arr.sealedCopies
  | .kvt, s, t => t.kvt = s.kvt
  | .ctxs, s, t => t.ctxs = s.ctxs
  | .sched, s, t => t.sched = s.sched
  | .rings, s, t => t.srv.rings = s.srv.rings
  | .streams, s, t => t.srv.streams = s.srv.streams
  | .tenants, s, t => t.srv.tenants = s.srv.tenants
  | .reqs, s, t => (t.srv.reqs, t.srv.nextReq) = (s.srv.reqs, s.srv.nextReq)
  | .engine, s, t => (t.srv.role, t.srv.msixPick, t.srv.refilled) = (s.srv.role, s.srv.msixPick, s.srv.refilled)
  | .history, s, t =>
      (t.health.events, t.health.nextSeq, t.health.wrapped, t.health.queue) =
        (s.health.events, s.health.nextSeq, s.health.wrapped, s.health.queue)
  | .unitMap, s, t =>
      (t.health.dumap, t.health.gen, t.health.dumapCrc, t.health.perm, t.health.setAt) =
        (s.health.dumap, s.health.gen, s.health.dumapCrc, s.health.perm, s.health.setAt)
  | .packs, s, t =>
      (t.health.packId, t.health.pack, t.health.packLen, t.health.cursors, t.health.packRun,
       t.health.packFailed, t.health.captures, t.health.captureOrder) =
        (s.health.packId, s.health.pack, s.health.packLen, s.health.cursors, s.health.packRun,
         s.health.packFailed, s.health.captures, s.health.captureOrder)
  | .memChecks, s, t =>
      (t.health.eccCorr, t.health.eccUncorr, t.health.tally) =
        (s.health.eccCorr, s.health.eccUncorr, s.health.tally)
  | .lifetime, s, t => (t.health.seconds, t.health.flashSeconds) = (s.health.seconds, s.health.flashSeconds)
  | .twill, s, t =>
      (t.health.twillList, t.health.twillStep, t.health.twillCtx, t.health.twillValid) =
        (s.health.twillList, s.health.twillStep, s.health.twillCtx, s.health.twillValid)
  | .log, s, t => (t.rcv.log, t.rcv.logSeq) = (s.rcv.log, s.rcv.logSeq)
  | .storm, s, t =>
      (t.rcv.stormOpen, t.rcv.stormLast, t.rcv.latched, t.rcv.root, t.rcv.rootProvisional, t.rcv.rootValid,
       t.rcv.echoes) =
        (s.rcv.stormOpen, s.rcv.stormLast, s.rcv.latched, s.rcv.root, s.rcv.rootProvisional, s.rcv.rootValid,
         s.rcv.echoes)
  | .domains, s, t => t.rcv.domains = s.rcv.domains
  | .modResets, s, t => (t.rcv.modStarts, t.rcv.modTotal) = (s.rcv.modStarts, s.rcv.modTotal)
  | .dumps, s, t =>
      (t.rcv.dumps, t.rcv.dumpSeq, t.rcv.dumpDropped, t.rcv.dumpDamaged) =
        (s.rcv.dumps, s.rcv.dumpSeq, s.rcv.dumpDropped, s.rcv.dumpDamaged)
  | .cuts, s, t =>
      (t.rcv.cutCtx, t.rcv.cutCause, t.rcv.cutValid, t.rcv.cuts) =
        (s.rcv.cutCtx, s.rcv.cutCause, s.rcv.cutValid, s.rcv.cuts)
  | .relayed, s, t => t.rcv.seenMsgs = s.rcv.seenMsgs
  | .marks, s, t => t.rcv.setAt = s.rcv.setAt
  | .alerts, s, t =>
      (t.rcv.oos, t.rcv.alertThermal, t.rcv.alertHsShutdown, t.rcv.alertHsTherm, t.rcv.alertLinkFail,
       t.rcv.alertStorm) =
        (s.rcv.oos, s.rcv.alertThermal, s.rcv.alertHsShutdown, s.rcv.alertHsTherm, s.rcv.alertLinkFail,
         s.rcv.alertStorm)
  | .twin, s, t => t.twin = s.twin
  | .ports, s, t => t.ports = s.ports
  | .thm, s, t => t.thm = s.thm
  | .mon, s, t => t.mon = s.mon
  | .obs, s, t => t.obs = s.obs
  | .agg, s, t => t.agg = s.agg
  | .out, s, t => t.out = s.out

def allBlocks : List Block :=
  [.tick, .clk, .time, .pwr, .hs, .sec, .acc, .mbx, .mem, .heddles, .harnesses, .looms, .scrub, .windows,
   .sealed, .kvt, .ctxs, .sched, .rings, .streams, .tenants, .reqs, .engine, .history, .unitMap, .packs,
   .memChecks, .lifetime, .twill, .log, .storm, .domains, .modResets, .dumps, .cuts, .relayed, .marks, .alerts,
   .twin, .ports, .thm, .mon, .obs, .agg, .out]
def allBut (l : List Block) : List Block := allBlocks.filter fun b => !l.contains b

/-- The blocks that a command may change, in every form and mode. A command that writes a register acts with its
requester's access: that may assign an identity slot (`acc`) and may be reported instead (`agg`); a mailbox command that
completes writes its mailbox and sends an interrupt (`mbx`, `out`). -/
def mayChange : Instr → List Block
  | .powerOn .. => [.pwr, .hs]
  | .inputPowerLoss => allBut [.tick, .out]
  | .inputOutOfRange .. => [.pwr, .log, .out]
  | .railFault .. => allBut [.tick]
  | .referenceOscillatorFail | .bmResetRelease | .railsBackInRegulation | .inputBackInRange => [.pwr]
  | .pickBoundary =>
      [.clk, .time, .mbx, .mem, .harnesses, .looms, .windows, .ctxs, .sched, .rings, .engine, .obs, .out]
  | .pickLengthChange => [.tick, .clk, .time]
  | .hubPickLoRead .. | .bar0MisalignedAccess .. | .bar4Read .. | .monAccLoRead .. | .obsBusyLoRead .. =>
      [.acc, .agg, .out]
  | .registerWrite .. | .i3cRegisterAccess .. => allBut [.tick, .hs, .sealed, .engine, .lifetime]
  | .bar4Write .. => [.acc, .mem, .agg]
  | .unassignedOpcode .. | .planStatus .. | .planMap .. => [.mbx, .out]
  | .mvmStep .. =>
      [.tick, .mem, .heddles, .harnesses, .looms, .scrub, .ctxs, .sched, .history, .packs, .memChecks, .obs,
       .agg]
  | .mendStep .. => [.tick, .mem, .looms, .ctxs, .sched, .history, .packs, .memChecks, .obs, .agg]
  | .fullStep .. => [.tick, .sec, .mem, .looms, .ctxs, .sched, .history, .packs, .memChecks, .obs, .agg]
  | .attnStep .. => [.tick, .mem, .looms, .kvt, .ctxs, .sched, .history, .packs, .memChecks, .obs, .agg]
  | .putStep .. | .getStep .. | .addStep .. =>
      [.tick, .mem, .kvt, .ctxs, .sched, .history, .memChecks, .ports, .obs, .agg, .out]
  | .knotStep .. | .recvStep .. => [.sched, .obs]
  | .calStep .. => [.windows, .sched, .obs]
  | .testStep .. =>
      [.sec, .heddles, .harnesses, .looms, .scrub, .kvt, .ctxs, .sched, .history, .unitMap, .packs, .memChecks,
       .lifetime, .twill, .obs, .agg]
  | .batchStep .. =>
      allBut [.tick, .clk, .time, .pwr, .hs, .sec, .acc, .sealed, .tenants, .engine, .unitMap, .packs,
       .lifetime, .twill, .dumps, .thm, .mon]
  | .sampleStep .. =>
      allBut [.clk, .time, .pwr, .hs, .sec, .acc, .scrub, .windows, .sealed, .tenants, .engine, .unitMap,
       .lifetime, .twill, .dumps, .thm, .mon]
  | .emitStep .. =>
      allBut [.clk, .time, .pwr, .hs, .sec, .acc, .looms, .windows, .sealed, .engine, .unitMap, .lifetime,
       .dumps, .thm, .mon]
  | .stepEnd .. =>
      allBut [.tick, .clk, .time, .pwr, .hs, .sec, .acc, .looms, .windows, .sealed, .rings, .tenants, .engine,
       .unitMap, .lifetime, .twill, .domains, .modResets, .dumps, .cuts, .thm, .mon]
  | .unfilledSlotKnotSet .. =>
      [.mem, .scrub, .kvt, .ctxs, .sched, .history, .packs, .memChecks, .twin, .ports, .obs, .agg, .out]
  | .put .. => [.mem, .kvt, .history, .twin, .ports, .obs, .agg, .out]
  | .get .. => [.ctxs, .history, .memChecks, .ports, .obs, .agg, .out]
  | .getData .. => [.mem, .kvt, .sched, .history, .ports, .obs, .agg, .out]
  | .add48 .. => [.mem, .history, .ports, .agg, .out]
  | .knotSet .. | .ack .. => [.mem, .kvt, .sched, .ports, .obs, .agg, .out]
  | .nack .. => [.mem, .kvt, .ctxs, .sched, .ports, .obs, .agg, .out]
  | .contextEnable .. => [.pwr, .acc, .ctxs, .relayed, .ports, .agg, .out]
  | .contextDisable .. =>
      [.pwr, .acc, .mbx, .mem, .heddles, .harnesses, .kvt, .ctxs, .sched, .streams, .reqs, .relayed, .ports,
       .obs, .agg, .out]
  | .maskingSet .. | .strictSet .. | .twillSet .. => [.acc, .ctxs, .agg]
  | .checkComplete .. =>
      [.mbx, .mem, .heddles, .harnesses, .sealed, .kvt, .ctxs, .sched, .streams, .reqs, .history, .memChecks,
       .ports, .obs, .agg, .out]
  | .armingReady .. | .ready .. | .stop .. | .drained .. => [.ctxs, .relayed, .ports, .out]
  | .armingHoldTimeout .. =>
      [.mbx, .mem, .heddles, .harnesses, .kvt, .ctxs, .sched, .streams, .reqs, .ports, .obs, .out]
  | .launch .. | .launchReadyTimeout .. | .armedTimeout .. =>
      [.mbx, .mem, .heddles, .harnesses, .kvt, .ctxs, .sched, .streams, .reqs, .relayed, .ports, .obs, .out]
  | .abort .. =>
      [.mbx, .mem, .heddles, .harnesses, .sealed, .kvt, .ctxs, .sched, .streams, .reqs, .history, .memChecks,
       .relayed, .ports, .obs, .agg, .out]
  | .launchCalWindow .. | .sequencerCalWindow .. => [.windows]
  | .launchPick .. => [.mem, .ctxs, .sched, .obs]
  | .stopIterationEnd .. =>
      [.mbx, .mem, .heddles, .harnesses, .kvt, .ctxs, .sched, .rings, .streams, .reqs, .ports, .obs, .out]
  | .planLoad .. | .planUnload .. | .ctxOpen .. | .wgtKey .. | .wgtCommit .. | .wgtStageOpen ..
  | .wgtStagePlan .. => [.mbx, .ctxs, .out]
  | .fullTrim .. | .harnessReqActive .. => [.acc, .harnesses, .agg]
  | .fullTrimDone .. => [.harnesses, .looms, .windows, .sched]
  | .harnessReqRetention .. | .harnessReqOff .. => [.acc, .harnesses, .windows, .agg]
  | .harnessTransitionDone .. =>
      [.heddles, .harnesses, .looms, .scrub, .windows, .sched, .history, .memChecks, .obs, .agg]
  | .harnessReturnResume .. => [.harnesses]
  | .harnessReset .. =>
      allBut [.tick, .clk, .time, .pwr, .hs, .sec, .looms, .scrub, .windows, .sealed, .tenants, .engine,
       .history, .unitMap, .packs, .memChecks, .lifetime, .twill, .dumps, .thm, .mon]
  | .scrubRowCompare .. => [.heddles, .scrub, .history, .memChecks, .obs, .agg]
  | .scrubRewrite .. => [.heddles, .history, .memChecks, .obs, .agg]
  | .scrubPassComplete .. => [.heddles, .harnesses, .scrub, .history, .agg]
  | .scrubLate .. => [.scrub, .agg]
  | .targetedScrub .. => [.heddles, .harnesses, .scrub, .ctxs, .history, .packs, .memChecks, .obs, .agg]
  | .thermalUpdate =>
      [.tick, .clk, .time, .mem, .heddles, .harnesses, .looms, .scrub, .windows, .ctxs, .history, .memChecks,
       .marks, .alerts, .ports, .thm, .mon, .obs, .agg, .out]
  | .throttleGraceEnd | .throttleEval => [.tick, .clk, .time, .ports, .thm, .out]
  | .sensorConversion .. =>
      allBut [.tick, .clk, .time, .sec, .looms, .scrub, .windows, .sealed, .tenants, .engine, .history,
       .unitMap, .packs, .memChecks, .lifetime, .twill, .domains, .modResets, .dumps, .mon]
  | .tripRestart => allBut [.tick, .history, .memChecks, .lifetime, .log, .marks, .agg]
  | .monPeriodEnd .. => [.tick, .clk, .time, .pwr, .log, .ports, .mon, .out]
  | .monClear .. | .monSourceSet .. | .monCal .. | .monPeriodSet .. | .monCalRestore .. => [.acc, .mon, .agg]
  | .thmPeakClear .. => [.acc, .thm, .agg]
  | .pwrStateSet .. => [.pwr, .mbx, .out]
  | .powerStateReached =>
      [.time, .pwr, .mbx, .mem, .heddles, .harnesses, .looms, .scrub, .windows, .ctxs, .sched, .history,
       .memChecks, .relayed, .ports, .obs, .agg, .out]
  | .budgetRefill => [.tenants, .engine]
  | .sqTailDoorbell .. => [.acc, .rings, .agg]
  | .cqHeadDoorbell .. => [.acc, .rings, .engine, .agg, .out]
  | .generate .. | .prefill .. | .cancel .. => [.rings, .reqs]
  | .hostReadFail .. => [.mbx, .heddles, .harnesses, .ctxs, .rings, .agg, .out]
  | .ringSetup .. => [.mbx, .rings, .out]
  | .ringTeardown .. => [.mbx, .mem, .rings, .reqs, .engine, .out]
  | .streamOpen .. => [.mbx, .mem, .streams, .out]
  | .streamClose .. | .kvMap .. | .kvUnmap .. => [.mbx, .mem, .kvt, .streams, .out]
  | .streamReset .. => [.mbx, .mem, .kvt, .out]
  | .reqCancel .. => [.mbx, .rings, .reqs, .out]
  | .roleSet .. => [.mbx, .engine, .out]
  | .ctxClose .. | .loadTierTimeout .. => [.mbx, .heddles, .harnesses, .ctxs, .out]
  | .wgtLoadSealed .. | .wgtLoadOpen .. | .loadTierResume .. =>
      [.mbx, .mem, .heddles, .harnesses, .looms, .scrub, .windows, .ctxs, .history, .memChecks, .obs, .agg,
       .out]
  | .wgtSwitch .. => [.mbx, .mem, .heddles, .harnesses, .kvt, .ctxs, .relayed, .out]
  | .wgtStageDrop .. =>
      [.mbx, .mem, .heddles, .harnesses, .sealed, .ctxs, .history, .memChecks, .obs, .agg, .out]
  | .wgtRestore .. | .sramUncorrectable =>
      allBut [.tick, .clk, .time, .pwr, .hs, .sec, .acc, .looms, .scrub, .windows, .sealed, .tenants, .engine,
       .history, .unitMap, .packs, .lifetime, .twill, .dumps, .thm, .mon, .agg]
  | .switchDrained .. | .flip .. | .switchAcceptTimeout .. =>
      [.mem, .sealed, .ctxs, .history, .memChecks, .relayed, .ports, .obs, .agg, .out]
  | .drainLimit .. => [.ctxs, .reqs]
  | .weightFlip .. =>
      [.mbx, .mem, .heddles, .harnesses, .looms, .scrub, .windows, .kvt, .ctxs, .sched, .streams, .reqs,
       .history, .memChecks, .ports, .obs, .agg, .out]
  | .sealedHarnessRelease .. => [.mem, .heddles, .harnesses]
  | .spareCountSet .. => [.acc, .scrub, .agg]
  | .hbmPatrol .. => [.history, .memChecks, .obs, .agg]
  | .healthEventWrite | .healthUnitRestore .. =>
      allBut [.tick, .clk, .pwr, .hs, .sec, .acc, .tenants, .engine, .log, .storm, .modResets, .dumps, .marks,
       .alerts, .thm, .mon]
  | .poweredSecond => [.lifetime]
  | .healthDumapRead .. | .healthEventRead .. | .healthCaptureRead .. | .certRead .. | .obsDump ..
  | .monDump .. => [.mbx, .mem, .out]
  | .healthPackLoad .. => [.mbx, .mem, .packs, .out]
  | .healthPackUnload .. => [.mbx, .packs, .out]
  | .overrun .. | .memoryTimeout .. | .tierTimeout .. | .sequencerFault .. | .hubWatchdog .. | .weaverHeartbeat
  | .mailboxTimeout .. | .lockStepMismatch | .domainReset .. | .linkFailure .. =>
      [.mbx, .mem, .heddles, .harnesses, .kvt, .ctxs, .sched, .rings, .streams, .reqs, .log, .storm, .domains,
       .modResets, .cuts, .relayed, .marks, .alerts, .twin, .ports, .obs, .out]
  | .starved .. =>
      [.mbx, .mem, .heddles, .harnesses, .kvt, .ctxs, .sched, .rings, .streams, .reqs, .log, .storm, .cuts,
       .relayed, .marks, .alerts, .ports, .obs, .out]
  | .drainComplete .. =>
      [.mbx, .mem, .heddles, .harnesses, .kvt, .ctxs, .sched, .streams, .reqs, .domains, .ports, .obs, .out]
  | .dumpComplete .. => allBut [.tick, .lifetime, .modResets]
  | .resetRelease .. =>
      [.time, .pwr, .sec, .acc, .mbx, .mem, .heddles, .harnesses, .looms, .windows, .sealed, .kvt, .ctxs,
       .sched, .rings, .reqs, .domains, .ports, .out]
  | .restoreComplete .. =>
      allBut [.tick, .clk, .time, .pwr, .hs, .sec, .acc, .sealed, .tenants, .unitMap, .packs, .lifetime,
       .twill, .dumps, .thm, .mon]
  | .restoreTimeout .. =>
      [.mbx, .mem, .heddles, .harnesses, .kvt, .ctxs, .sched, .rings, .streams, .reqs, .log, .storm, .domains,
       .cuts, .relayed, .marks, .alerts, .ports, .obs, .out]
  | .dumpRead .. => [.mbx, .mem, .memChecks, .dumps, .marks, .obs, .out]
  | .dumpRelease .. => [.mbx, .dumps, .out]
  | .errlogRead .. => [.mbx, .mem, .memChecks, .log, .dumps, .marks, .obs, .out]
  | .domainRetire .. =>
      allBut [.tick, .clk, .pwr, .hs, .sec, .acc, .tenants, .engine, .packs, .lifetime, .twill, .log, .storm,
       .modResets, .dumps, .marks, .thm, .mon]
  | .moduleReturn .. => [.mbx, .modResets, .alerts, .out]
  | .twinPair .. => [.mbx, .twin, .out]
  | .twinDetach .. => [.mbx, .mem, .kvt, .twin, .ports, .out]
  | .gstop .. =>
      [.mbx, .mem, .heddles, .harnesses, .kvt, .ctxs, .sched, .rings, .streams, .reqs, .cuts, .relayed, .ports,
       .obs, .out]
  | .fault .. => [.log, .storm, .relayed, .marks, .alerts, .ports, .out]
  | .stormWindowClose =>
      allBut [.tick, .clk, .pwr, .hs, .sec, .acc, .tenants, .engine, .packs, .lifetime, .twill, .modResets,
       .marks, .thm, .mon]
  | .shadowRecordSend .. => [.history, .memChecks, .twin, .ports, .obs, .agg, .out]
  | .shadowRecord .. => [.mem, .twin]
  | .heartbeatSend | .portEqualised .. | .syncSend .. => [.ports, .out]
  | .heartbeat .. => [.twin]
  | .peerLost | .depart .. | .handover .. => [.mem, .kvt, .streams, .reqs, .twin]
  | .detach .. => [.mem, .kvt, .twin]
  | .hsResetRelease | .hsThrottleEval .. | .page .. | .voutCommand .. | .clearFaults | .hsThermDeassert => [.hs]
  | .hsShutdown .. =>
      allBut [.tick, .clk, .time, .pwr, .sec, .looms, .scrub, .windows, .sealed, .tenants, .engine, .history,
       .unitMap, .packs, .memChecks, .lifetime, .twill, .dumps, .thm, .mon]
  | .hsThermAssert => [.hs, .marks, .alerts, .out]
  | .readVout => [.tick, .out]
  | .readIout .. | .readPout .. | .statusWord => [.out]
  | .ucieLinkDown .. =>
      allBut [.tick, .clk, .time, .pwr, .hs, .sec, .looms, .scrub, .windows, .sealed, .tenants, .engine,
       .history, .unitMap, .packs, .memChecks, .lifetime, .twill, .dumps, .thm, .mon, .agg]
  | .mbxClaim .. | .mbxRelease .. => [.acc, .mbx, .agg]
  | .xeastFlit .. | .replayTimeout .. | .retrainComplete .. => [.ctxs, .ports, .obs, .out]
  | .xlRetrain .. => [.acc, .ports, .agg]
  | .portEnableSet .. => [.time, .acc, .ports, .agg]
  | .ident .. => [.tick, .ports]
  | .planId .. => [.relayed, .ports, .out]
  | .syncReceive .. => [.clk, .time, .ports]
  | .holdoverExpire => [.time]
  | .timeRoleSet .. => [.time, .acc, .agg]
  | .timeAlign .. | .timeQuery .. | .timeReply .. => [.time, .mbx, .ports, .out]
  | .timeAlignTimeout => [.time, .mbx, .out]
  | .timeStep .. | .picklen .. => [.time, .ports, .out]
  | .timeStepApply => [.clk, .time]
  | .picklenReq .. => [.tick, .time, .ports, .out]
  | .bmReset =>
      allBut [.tick, .clk, .time, .hs, .sec, .acc, .looms, .scrub, .windows, .sealed, .tenants, .engine,
       .history, .unitMap, .packs, .memChecks, .lifetime, .twill, .dumps, .thm, .mon, .agg]
  | .i3cOffsetWrite .. | .i3cDynamicAddress .. | .romVerifyDone .. | .keyDerivationDone ..
  | .secRcvDataWrite .. | .secRcvVerify => [.sec]
  | .bootStageDone .. =>
      [.time, .pwr, .sec, .acc, .heddles, .harnesses, .looms, .scrub, .windows, .history, .unitMap, .packs,
       .memChecks, .lifetime, .twill, .log, .domains, .ports, .mon, .out]
  | .bootPhaseLate => [.sec, .log, .out]
  | .fwLoad .. | .flashUpdate .. => [.sec, .mbx, .out]
  | .adorakuStarted => [.sec, .mem, .heddles, .harnesses, .ctxs]
  | .attest .. | .dbgScan .. => [.tick, .mbx, .mem, .out]
  | .debugChallenge .. | .dbgCore .. => [.tick, .sec, .mbx, .mem, .out]
  | .debugUnlock .. => [.sec, .mbx, .ctxs, .out]
  | .bistRun .. => [.sec, .mbx, .history, .log, .mon, .out]
  | .pmcRunSet .. | .pmcCntWrite .. | .tagArm .. | .traceArm .. | .traceStop .. => [.acc, .obs, .agg]
  | .pmcCntLoRead .. => [.acc, .obs, .agg, .out]
  | .pmcTagSeedWrite .. => [.acc, .sched, .obs, .agg]
  | .tagRecordWrite | .traceSample => [.mem, .obs]
  | .ucieLinkTrained .. => [.acc]

/-! ## Who acts -/

/-- The access of `who` is taken and acts as slot `j`, which `who` holds already. -/
abbrev State.actsAs (s : State) (who : Who) (j : Nat) : Prop := s.access who = (some j, s) ∧ s.sec.stage ≠ 5

/-- The same, and slot `j` is privileged. -/
abbrev State.actsPrv (s : State) (who : Who) (j : Nat) : Prop := s.actsAs who j ∧ s.priv j = true

/-- The commands that write a PRV field, with their requester. -/
def prvCommand : Instr → Option Who
  | .harnessReqActive who | .harnessReqRetention who | .harnessReqOff who | .fullTrim who | .harnessReset who
  | .spareCountSet who .. | .contextEnable who | .contextDisable who | .maskingSet who .. | .strictSet who ..
  | .twillSet who .. | .timeRoleSet who .. | .monClear who | .monSourceSet who .. | .monCal who
  | .monPeriodSet who .. | .monCalRestore who .. | .portEnableSet who ..
  | .pmcRunSet who .. | .pmcCntWrite who .. | .pmcTagSeedWrite who .. | .tagArm who .. | .traceArm who ..
  | .traceStop who => some who
  | _ => none

/-! ## Mailbox commands -/

/-- The mailbox and the opcode of a command that a mailbox carries. -/
def mailboxCommand : Instr → Option (Nat × Nat)
  | .kvMap m => some (m.val, 0x3020)
  | .kvUnmap m => some (m.val, 0x3021)
  | .streamOpen m => some (m.val, 0x3002)
  | .streamClose m => some (m.val, 0x3003)
  | .streamReset m => some (m.val, 0x3004)
  | .twinDetach m => some (m.val, 0x4017)
  | .twinPair m .. => some (m.val, 0x4016)
  | .domainReset m => some (m.val, 0x4013)
  | .domainRetire m => some (m.val, 0x4014)
  | .dumpRead m => some (m.1.val, 0x4010)
  | .dumpRelease m => some (m.val, 0x4011)
  | .errlogRead m => some (m.1.val, 0x4012)
  | .moduleReturn m => some (m.val, 0x4015)
  | .wgtLoadSealed m .. => some (m.val, 0x1003)
  | .wgtLoadOpen m .. => some (m.val, 0x1004)
  | .ctxOpen m .. => some (m.val, 0x1000)
  | .ctxClose m => some (m.val, 0x1001)
  | .wgtKey m .. => some (m.val, 0x1002)
  | .wgtCommit m => some (m.val, 0x1005)
  | .wgtStageOpen m .. => some (m.val, 0x1006)
  | .wgtRestore m .. => some (m.val, 0x100A)
  | .planLoad m .. => some (m.val, 0x2000)
  | .planUnload m => some (m.val, 0x2001)
  | .planStatus m => some (m.val, 0x2002)
  | .planMap m => some (m.val, 0x2003)
  | .wgtStagePlan m .. => some (m.val, 0x1007)
  | .wgtSwitch m .. => some (m.val, 0x1008)
  | .wgtStageDrop m => some (m.val, 0x1009)
  | .timeAlign m => some (m.val, 0x0010)
  | .pwrStateSet m => some (m.val, 0x0020)
  | .reqCancel m => some (m.val, 0x3005)
  | .ringSetup m => some (m.val, 0x3000)
  | .ringTeardown m => some (m.val, 0x3001)
  | .roleSet m => some (m.val, 0x3006)
  | .healthDumapRead m => some (m.val, 0x4000)
  | .healthEventRead m => some (m.val, 0x4001)
  | .healthUnitRestore m => some (m.val, 0x4002)
  | .healthPackLoad m .. => some (m.val, 0x4003)
  | .healthPackUnload m => some (m.val, 0x4004)
  | .healthCaptureRead m => some (m.val, 0x4005)
  | .fwLoad m .. => some (m.val, 0x5000)
  | .bistRun m .. => some (m.val, 0x4020)
  | .certRead m => some (m.val, 0x5001)
  | .flashUpdate m .. => some (m.val, 0x5003)
  | .attest m .. => some (m.val, 0x5002)
  | .debugChallenge m => some (m.val, 0x5004)
  | .debugUnlock m .. => some (m.val, 0x5005)
  | .dbgScan m .. => some (m.val, 0x5006)
  | .dbgCore m .. => some (m.val, 0x5007)
  | .obsDump m => some (m.val, 0x6000)
  | .monDump m => some (m.val, 0x6001)
  | _ => none

/-- Mailbox `m` waits for a command of opcode `op`, who serves mailboxes is there, and nothing bars the command. -/
abbrev State.awaits (s : State) (m op : Nat) : Prop :=
  s.serves = true ∧ (s.mailbox m).busy = true ∧ (s.mailbox m).opcode = op ∧ s.cmdBarred m (s.mailbox m) = false

/-- From `s` to `t` mailbox `m` has completed (R330): STATUS, TAG, the result words, DONE set and BUSY cleared, vector
1 + m sent last; every other mailbox is as it was. -/
def State.completes (s t : State) (m status : Nat) (res : List Nat) : Prop :=
  t.mailbox m =
    { s.mailbox m with
      busy := false, done := true, status := status, statTag := (s.mailbox m).tag
      setAt := note (s.mailbox m).setAt 1 s.clk.elapsed, res := (res ++ List.replicate 8 0).take 8 } ∧
  (∀ k, k ≠ m → t.mailbox k = s.mailbox k) ∧ t.out.head? = some (.msix (1 + m))

/-- From `s` to `t` mailbox `m` has returned `bs` at address `addr`, of which `len` bytes may be written (R425, R431): 0x11
past the transfer buffer, 0x11 with the size where it does not fit, else 0 with `res`. -/
def State.returns (s t : State) (m addr len : Nat) (bs : Bytes) (res : List Nat) : Prop :=
  let b := s.mailbox m
  (pastXfer m b addr len = true → s.completes t m 0x11 [] ∧ t = { s with mbx := t.mbx, out := t.out }) ∧
  (pastXfer m b addr len = false → len < bs.length →
    s.completes t m 0x11 [bs.length] ∧ t = { s with mbx := t.mbx, out := t.out }) ∧
  (pastXfer m b addr len = false → bs.length ≤ len → s.completes t m 0 res ∧
    (viaXfer m b = true → t.read (xferBase + addr) bs.length = bs ∧ t = { s with mem := t.mem, mbx := t.mbx, out := t.out }) ∧
    (viaXfer m b = false → Output.hostWrite (s.hostLink addr) addr bs ∈ t.out ∧ t = { s with mbx := t.mbx, out := t.out }))

/-- A health event of the kind against the unit is queued or in flash at the present powered second (R275, R276). -/
def State.noted (s : State) (kind unitKind unit : Nat) : Prop :=
  ∃ e ∈ s.health.queue ++ s.health.events, e.kind = kind ∧ e.unitKind = unitKind ∧ e.unit = unit ∧ e.time = s.health.seconds

/-! ## Loads -/

/-- From `s` to `t` the load command of mailbox `m` into context `c` has ended with `status`; WGT_LOAD_STAT shows it, and
nothing else is changed (R238). -/
def State.loadEnds (s t : State) (m c status : Nat) (tier : Option Nat) : Prop :=
  s.completes t m status [] ∧
    t.ctx c = { s.ctx c with ctl := { (s.ctx c).ctl with loadLast := status, loadTier := tier } } ∧
    (∀ d, d ≠ c → t.ctx d = s.ctx d) ∧ t = { s with ctxs := t.ctxs, mbx := t.mbx, out := t.out }

/-- From `s` to `t` the load of mailbox `m` has installed the set `p.set` in place of `before`: a heddle whose tier lies inside
the programming window is programmed on an Active harness, the writes of the other tiers are held (R234, R236). -/
def State.loadTaken (s t : State) (m c : Nat) (staged : Bool) (before : WeightSet) (p : Placed) (res : List Nat) : Prop :=
  let rest := p.writes.filter (fun w => !s.tierInWindow w.1)
  (if staged then (t.ctx c).cur = (s.ctx c).cur ∧ (t.ctx c).staged = some p.set
   else (t.ctx c).cur = p.set ∧ (t.ctx c).staged = (s.ctx c).staged) ∧
  (∀ w ∈ p.writes, s.tierInWindow w.1 = true → (t.heddle w.2.1.heddle).programmed = true ∧
    (t.harness (harnessOfHeddle w.2.1.heddle)).state = 1) ∧
  (rest = [] → s.completes t m 0 res ∧ (t.ctx c).held = (s.ctx c).held ∧ (t.ctx c).ctl.loadLast = 0) ∧
  (rest ≠ [] → (t.ctx c).held =
      some ⟨m, (rest.map (·.1)).eraseDups, s.clk.wall, staged, before, p.set, rest, res⟩ ∧ t.mbx = s.mbx ∧ t.out = s.out)

/-! ## Steps -/

/-- The command that starts a plan step: its context, list, index and KIND (Table 6.7). -/
def stepCommand : Instr → Option (Nat × Nat × Nat × Nat)
  | .mvmStep c l i _ => some (c.val, l.val, i.toNat, 1)
  | .mendStep c l i _ => some (c.val, l.val, i.toNat, 2)
  | .fullStep c l i _ => some (c.val, l.val, i.toNat, 3)
  | .attnStep c l i _ => some (c.val, l.val, i.toNat, 4)
  | .putStep c l i _ => some (c.val, l.val, i.toNat, 5)
  | .getStep c l i => some (c.val, l.val, i.1.toNat, 6)
  | .addStep c l i _ => some (c.val, l.val, i.toNat, 7)
  | .knotStep c l i => some (c.val, l.val, i.toNat, 8)
  | .calStep c l i => some (c.val, l.val, i.toNat, 9)
  | .testStep c l i _ => some (c.val, l.val, i.toNat, 0xA)
  | .batchStep c l i => some (c.val, l.val, i.1.toNat, 0xB)
  | .sampleStep c l i _ => some (c.val, l.val, i.toNat, 0xC)
  | .emitStep c l i => some (c.val, l.val, i.1.toNat, 0xD)
  | .recvStep c l i => some (c.val, l.val, i.toNat, 0xE)
  | _ => none

/-- The upsets that strike the work of a step. -/
def stepUpsets : Instr → List Upset
  | .mvmStep _ _ _ u | .mendStep _ _ _ u | .fullStep _ _ _ u | .attnStep _ _ _ u | .putStep _ _ _ u
  | .addStep _ _ _ u | .sampleStep _ _ _ u => u
  | .getStep _ _ i | .batchStep _ _ i | .emitStep _ _ i => i.2
  | .testStep _ _ _ x => x.ups
  | _ => []

/-- No word of hub SRAM is struck beyond correction. -/
def sramHolds (ups : List Upset) : Prop := ∀ b, Upset.sram b ∈ ups → (secded b.toNat).detected = 0

/-- A KIND belongs to a list: BATCH, SAMPLE and EMIT to the hub's, KNOT to any, the others to the looms'. -/
def kindFits (kind list : Nat) : Bool :=
  if kind = 0xB ∨ kind = 0xC ∨ kind = 0xD then list == 4 else kind == 8 || decide (list < 4)

/-- The step due at (c, l, i) may start now: `d` is its due entry, its KIND is `kind`, the module is up, and a replayed MVM
finds its harness scrubbed (R29, R52). -/
abbrev State.mayStart (s : State) (c l i kind : Nat) (d : Due) : Prop :=
  s.up = true ∧ s.startable c l i = some d ∧ (s.stepAt c l i).kind = kind ∧ kindFits kind l = true ∧
    (kind = 1 → s.scrubbing c (s.stepAt c l i).slot (l * 1024 + (s.stepAt c l i).unit) = false)

/-! ## Faults -/

/-- In `t` the log holds the entry that a fault declared in state `s` writes (Table 11.9). -/
def State.logged (s t : State) (kind idx det : Nat) : Prop :=
  ∃ e ∈ t.rcv.log, e.seq = s.rcv.logSeq ∧ e.kind = kind ∧ e.index = idx ∧ e.detector = det ∧
    e.originPick = s.clk.pick ∧ e.isLocal = true

end Sys2Proof.Machine
end

