-- ==== Sys2Proof/Safety.lean ====
section
/-! DEFINITION. What a safe run is for this block: every command has its effect, so no step ends in a fault or a
refusal. -/

namespace Sys2Proof.Machine

/-- The step from `s` answers a next state. -/
def State.goesOn (s : State) : Prop := ∃ t, step s = .next t

/-- Command `i` in state `s` answers a next state, of which `P` holds. -/
def yields (i : Instr) (s : State) (P : State → Prop) : Prop := ∃ t, exec i s = .next t ∧ P t

end Sys2Proof.Machine
end

