-- ==== Sys2Proof/Certificates/Slice0/Obligations.lean ====
section
/-! DEFINITION. The statements for the provers. A docstring's last line names the log entries for what is the model's choice or
reading; where a free value stands in a statement, it holds for every value. -/

open Sys2Proof Sys2Proof.Machine

/-! ## The block as a whole -/

/-- A step runs the command at the front of the queue on the rest of the queue; with an empty queue the block idles (the
model's choice, log entry 4).
Rests in part on the model's own choices or readings: log entry 4. -/
def Obligations.StepRunsFrontCommand : Prop :=
  (∀ (s : State) (c : Instr) (rest : List Instr),
    step { s with pending := c :: rest } = exec c { s with pending := rest }) ∧
  (∀ s : State, s.pending = [] → step s = .next s)

/-- Every command goes on, takes nothing from the queue, keeps memory's canonical form, and changes at most the blocks that
`mayChange` lists for it: every register, table, buffer and byte of every other block stays.
Rests in part on the model's own choices or readings: log entries 4, 5. -/
def Obligations.CommandsChangeOnlyTheirBlocks : Prop :=
  ∀ (c : Instr) (s : State), ∃ t, exec c s = .next t ∧ t.pending = s.pending ∧
    (s.mem.wf = true → t.mem.wf = true) ∧ ∀ b, b ∉ mayChange c → b.same s t

/-- The invariant of the block, kept by every step from every state: a step answers a next state, takes exactly the front
command off the queue, and leaves memory in its canonical form, so that equal memories stay equal data.
Rests in part on the model's own choices or readings: log entries 2, 4. -/
def Obligations.StepKeepsQueueAndMemory : Prop :=
  ∀ s : State, s.mem.wf = true → ∃ t, step s = .next t ∧ t.pending = s.pending.tail ∧ t.mem.wf = true

/-- The invariant holds at reset, and reset is what the spec says of power-on: the pick counter at 0 and pick length 16
quarters, boot stage 0, no command waiting, memory with nothing listed, harnesses Active, no context, mailbox or port
in use, identity slot 62 privileged.
Rests in part on the model's own choices or readings: log entries 2, 3. -/
def Obligations.ResetState : Prop :=
  State.reset.mem.wf = true ∧ State.reset.pending = [] ∧ State.reset.clk.pick = 0 ∧ State.reset.clk.lenQ = 16 ∧
  State.reset.sec.stage = 0 ∧ State.reset.mem.bytes = [] ∧ (∀ h, (State.reset.harness h).state = 1) ∧
  (∀ c, (State.reset.ctx c).ctl.state = 0) ∧ (∀ m, (State.reset.mailbox m).busy = false ∧ (State.reset.mailbox m).limit = 1000) ∧
  (∀ p, (State.reset.port p).state = 0 ∧ (State.reset.port p).enable = true) ∧ State.reset.priv 62 = true ∧
  (∀ j, j < 62 → (State.reset.slot j).valid = false) ∧ State.reset.pwr.ceil = 3200

/-- A write of a PRV field by a requester that is not privileged leaves every field unchanged and is counted in the error
aggregator; that holds of every command that writes a PRV field.
Rests in part on the model's own choices or readings: log entry 19. -/
def Obligations.UnprivilegedWriteIsCountedOnly : Prop :=
  ∀ (c : Instr) (who : Who) (s : State) (j : Nat), prvCommand c = some who → s.actsAs who j → s.priv j = false →
    exec c s = .next { s with agg := .prvDenied j :: s.agg }

/-- A command that a mailbox carries does nothing while its mailbox is not BUSY with its opcode, or while nobody serves
mailboxes; where a rule bars the command (an unprivileged holder, the boot stage, a module out of service, Retention) it
completes with 0x11 and takes no action.
Rests in part on the model's own choices or readings: log entry 57. -/
def Obligations.MailboxCommandGuards : Prop :=
  ∀ (c : Instr) (m op : Nat) (s : State), mailboxCommand c = some (m, op) →
    ((s.serves = false ∨ (s.mailbox m).busy = false ∨ (s.mailbox m).opcode ≠ op) → exec c s = .next s) ∧
    (s.serves = true → (s.mailbox m).busy = true → (s.mailbox m).opcode = op → s.cmdBarred m (s.mailbox m) = true →
      yields c s fun t => s.completes t m 0x11 [] ∧ t = { s with mbx := t.mbx, out := .msix (1 + m) :: s.out })

/-! ## Input power, rails, resets and the host site -/

/-- POWER_ON samples the straps and HS_PRESENT_N and starts the module, with the host-site rails up only for a bonded die;
INPUT_POWER_LOSS loses everything but flash and the health history it holds; 1 ms outside 46-60 V takes BM_PWRGD low and
logs the event entry 0x21 while the module runs on, and the return in range raises it while every rail is good (R350, R348,
R319, Table 11.8).
Rests in part on the model's own choices or readings: log entries 5, 44, 54. -/
def Obligations.InputPowerComesAndGoes : Prop :=
  (∀ (s : State) (host : Bool) (addr : Fin 8) (rec line : Bool), s.pwr.input = false → s.tooHot = false →
    yields (.powerOn host addr rec line) s fun t =>
      t.up = true ∧ t.pwr.bmAddr = addr.val ∧ t.pwr.cfgRecoverLow = rec ∧ t.pwr.cfgLineHigh = line ∧
      t.hs.present = host ∧ t.hs.railsOn = host ∧ t.hs.pwrgd = host ∧ t.hs.resetReleased = false ∧
      t = { s with pwr := t.pwr, hs := t.hs }) ∧
  (∀ s : State, s.pwr.input = true →
    yields .inputPowerLoss s fun t =>
      t.up = false ∧ t.sec.flash = s.sec.flash ∧ t.health.events = s.health.events ∧ t.health.dumap = s.health.dumap ∧
      t.health.gen = 0 ∧ t.clk.pick = 0 ∧ t.mem.bytes = [] ∧ t.ctxs = [] ∧ t.rcv.log = [] ∧ t.rcv.oos = false ∧
      t.twin.state = 0 ∧ t.pending = s.pending) ∧
  (∀ (s : State) (mv : BitVec 32), s.powered = true → s.pwr.inputLow = false →
    yields (.inputOutOfRange mv) s fun t =>
      t.pwr = { s.pwr with inputLow := true, bmPwrgd := false } ∧ t.up = s.up ∧
      (∃ e, t.rcv.log = (e :: s.rcv.log).take logCap ∧ e.seq = s.rcv.logSeq ∧ e.kind = 0 ∧ e.detector = 0x21 ∧
        e.index = mv.toNat ∧ e.isLocal = true ∧ e.dumpSeq = max32) ∧
      t.rcv.stormOpen = s.rcv.stormOpen ∧ t.out = .msix 0 :: s.out ∧
      t = { s with pwr := t.pwr, rcv := { s.rcv with log := t.rcv.log, logSeq := s.rcv.logSeq + 1 }, out := t.out }) ∧
  (∀ s : State, s.powered = true → s.pwr.inputLow = true →
    exec .inputBackInRange s =
      .next { s with pwr := { s.pwr with inputLow := false, bmPwrgd := !s.pwr.railFault } })

/-- A rail fault logs an entry of kind 0x0B and detector 0x0F, takes BM_PWRGD low and holds the module in reset until every
rail is back; on AON it is power loss. A low BM_RESET_N is a module reset of detector 0x0D and holds the module until it is
released. A failed reference oscillator holds the module in reset and alerts (R352, R348, R25).
Rests in part on the model's own choices or readings: log entries 5, 44, 54. -/
def Obligations.RailsAndResetPinsHoldTheModule : Prop :=
  (∀ s : State, s.powered = true →
    yields (.railFault false) s fun t =>
      t.up = false ∧ t.pwr.railFault = true ∧ t.pwr.bmPwrgd = false ∧
      s.logged t 0xB 0 0xF) ∧
  (∀ s : State, s.powered = true →
    yields (.railFault true) s fun t => t.up = false ∧ t.sec.flash = s.sec.flash ∧ t.ctxs = [] ∧ t.rcv.log = []) ∧
  (∀ s : State, s.powered = true → s.pwr.railFault = true →
    exec .railsBackInRegulation s =
      .next { s with pwr := { s.pwr with railFault := false, bmPwrgd := !s.pwr.inputLow } }) ∧
  (∀ s : State, s.powered = true → s.pwr.bmResetHeld = false →
    yields .bmReset s fun t =>
      t.up = false ∧ t.pwr = { s.pwr with bmResetHeld := true } ∧
      s.logged t 0xB 0 0xD) ∧
  (∀ s : State, s.powered = true → s.pwr.bmResetHeld = true →
    exec .bmResetRelease s = .next { s with pwr := { s.pwr with bmResetHeld := false } }) ∧
  (∀ s : State, s.pwr.input = true →
    yields .referenceOscillatorFail s fun t =>
      t.up = false ∧ t.bmAlertLow = true ∧ t = { s with pwr := { s.pwr with oscFailed := true } })

/-- The host site (R319): HS_RESET_N is released 10 ms after HS_PWRGD; HS_THROTTLE_N asserts above 400 W, is released below
380 W and stays in between; a shutdown turns the rails off, deasserts HS_PWRGD, asserts HS_RESET_N, sets
HUB_ALERT_STAT.HS_SHUTDOWN, reports it, and leaves hub function 6 fenced; each assertion of HS_THERM_N sets HS_THERM.
Rests in part on the model's own choices or readings: log entries 5, 55. -/
def Obligations.HostSiteSignals : Prop :=
  (∀ s : State, s.powered = true → s.hs.pwrgd = true → s.hs.resetReleased = false →
      s.hs.pwrgdWall + 40000000 ≤ s.clk.wall →
    exec .hsResetRelease s = .next { s with hs := { s.hs with resetReleased := true } }) ∧
  (∀ (s : State) (mw : Nat), s.powered = true → s.hs.railsOn = true →
    exec (.hsThrottleEval mw) s = .next { s with hs := { s.hs with
      throttle := if 400000 < mw then true else if mw < 380000 then false else s.hs.throttle } }) ∧
  (∀ (s : State) (c : HsCause), s.powered = true → s.hs.railsOn = true →
      (c = .therm → s.hs.therm = true ∧ s.hs.thermSince + 400000000 ≤ s.clk.wall) →
    yields (.hsShutdown c) s fun t =>
      t.hs.railsOn = false ∧ t.hs.pwrgd = false ∧ t.hs.resetReleased = false ∧ t.hs.shut = true ∧
      t.rcv.alertHsShutdown = true ∧ Report.hsShutdown ∈ t.agg ∧ t.acc.linksUp = [] ∧ t.troubled 0xA 6 = true) ∧
  (∀ s : State, s.powered = true → s.hs.present = true → s.hs.therm = false →
    yields .hsThermAssert s fun t =>
      t.hs = { s.hs with therm := true, thermSince := s.clk.wall } ∧ t.rcv.alertHsTherm = true ∧
      (s.rcv.alertHsTherm = false → t.out = .ibi t.alertStat :: .msix 0 :: s.out) ∧
      t = { s with hs := t.hs, rcv := { s.rcv with alertHsTherm := true, setAt := t.rcv.setAt }, out := t.out }) ∧
  (∀ s : State, s.powered = true → s.hs.therm = true →
    exec .hsThermDeassert s = .next { s with hs := { s.hs with therm := false } })

/-- The rail-control bus (R320): PAGE takes 0 or 1; VOUT_COMMAND takes a set point that lies in Table 12.1 after rounding to
the nearest 5 mV step and sets CML for any other, changing nothing else; CLEAR_FAULTS clears the fault bits; the reads
answer the raw values, STATUS_WORD with CML in bit 1, and change nothing else (the voltage read is a free value; bits 4 and
6 of STATUS_WORD are the model's reading of PMBus, log entry 30).
Rests in part on the model's own choices or readings: log entries 12, 30. -/
def Obligations.RailControlBus : Prop :=
  (∀ (s : State) (v : Byte), s.powered = true →
    exec (.page v) s = .next { s with hs :=
      if v.toNat ≤ 1 then { s.hs with pmbPage := v.toNat } else { s.hs with cml := true } }) ∧
  (∀ (s : State) (v : BitVec 16), s.powered = true → s.hs.pmbPage = 0 → 110 ≤ voutStep v.toNat → voutStep v.toNat ≤ 210 →
    exec (.voutCommand v) s = .next { s with hs := { s.hs with setCore := v.toNat } }) ∧
  (∀ (s : State) (v : BitVec 16), s.powered = true → s.hs.pmbPage = 1 → 140 ≤ voutStep v.toNat → voutStep v.toNat ≤ 180 →
    exec (.voutCommand v) s = .next { s with hs := { s.hs with setSoc := v.toNat } }) ∧
  (∀ (s : State) (v : BitVec 16), s.powered = true →
      ((s.hs.pmbPage = 0 ∧ (voutStep v.toNat < 110 ∨ 210 < voutStep v.toNat)) ∨
       (s.hs.pmbPage = 1 ∧ (voutStep v.toNat < 140 ∨ 180 < voutStep v.toNat))) →
    exec (.voutCommand v) s = .next { s with hs := { s.hs with cml := true } }) ∧
  (∀ s : State, s.powered = true →
    exec .clearFaults s = .next { s with hs := { s.hs with cml := false, faultRail := false } }) ∧
  (∀ s : State, s.powered = true → yields .readVout s fun t => ∃ v, v < 65536 ∧
      t = { s with tick := s.tick + 1, out := .pmbus v :: s.out }) ∧
  (∀ (s : State) (raw : BitVec 16), s.powered = true →
    exec (.readIout raw) s = .next { s with out := .pmbus raw.toNat :: s.out } ∧
    exec (.readPout raw) s = .next { s with out := .pmbus raw.toNat :: s.out }) ∧
  (∀ s : State, s.powered = true →
    yields .statusWord s fun t => ∃ w, t = { s with out := .pmbus w :: s.out } ∧ w.testBit 1 = s.hs.cml)

/-- PWR_STATE_SET (R354): with a target it may not have it completes with 0x11 and starts nothing; otherwise the transition
begins and the command waits for it. POWER_STATE_REACHED enters the state, completes the command that waited, and on the
way to Retention or Standby takes every harness out of Active, every port Down, and the loom store away (R355).
Rests in part on the model's own choices or readings: log entries 5, 54. -/
def Obligations.PowerStatesAreReached : Prop :=
  (∀ (s : State) (m : Fin 16), s.awaits m.val 0x0020 → s.pwr.target = none → s.pwr.targetMbx ≠ some m.val →
      s.stateRefused ((s.mailbox m.val).arg 0) = true →
    yields (.pwrStateSet m) s fun t => s.completes t m.val 0x11 [] ∧ t = { s with mbx := t.mbx, out := t.out }) ∧
  (∀ (s : State) (m : Fin 16), s.awaits m.val 0x0020 → s.pwr.target = none → s.pwr.targetMbx ≠ some m.val →
      s.stateRefused ((s.mailbox m.val).arg 0) = false → ¬((s.mailbox m.val).arg 0 = 1 ∧ s.pwr.mode = 1) →
    exec (.pwrStateSet m) s = .next { s with pwr := { s.pwr with
      target := some ((s.mailbox m.val).arg 0), targetMbx := some m.val } }) ∧
  (∀ (s : State) (m : Nat) (v : Nat), s.up = true → s.pwr.target = some v → v = 2 ∨ v = 3 → s.pwr.targetMbx = some m →
      s.pwr.enableAfter = [] →
    yields .powerStateReached s fun t =>
      t.pwr = { s.pwr with mode := v, target := none, targetMbx := none } ∧ s.completes t m 0 [] ∧
      (∀ h, h < 4096 → (t.harness h).state ≠ 1) ∧ (∀ p, p < 36 → (s.port p).state ≠ 3 → (t.port p).state = 0) ∧
      (∀ l a, l < 4 → loomStore l ≤ a → a < loomStore l + loomStoreSize → t.byte a = 0))

/-! ## Time base -/

/-- PICK_BOUNDARY increments the pick counter and the wall-clock count, and a long pick sets STRETCHED; without power or
oscillator nothing counts (R26, R25, R28). PICK_LENGTH_CHANGE applies the requested length on a free module after the gaps
of R33 (and not before), with the BY_ bits of R35 and an entry in the log of R372, and at the switch pick E in a domain (R347). A read of
HUB_PICK_LO answers the low word and latches HUB_PICK_HI and HUB_WALL of the requester (R34, R371).
Rests in part on the model's own choices or readings: log entries 17, 33. -/
def Obligations.PickCounterAdvances : Prop :=
  (∀ s : State, s.pwr.input = true → s.pwr.oscFailed = false →
    yields .pickBoundary s fun t => t.clk = { s.clk with
      pick := (s.clk.pick + 1) % 2 ^ 64, elapsed := s.clk.elapsed + 1, wall := s.clk.wall + s.clk.lenQ
      stretched := s.clk.stretched || decide (16 < s.clk.lenQ) }) ∧
  (∀ s : State, s.pwr.input = false ∨ s.pwr.oscFailed = true → exec .pickBoundary s = .next s) ∧
  (∀ s : State, s.up = true → s.time.role = 0 → s.clk.reqLen ≠ s.clk.lenQ →
      (s.clk.lenQ < s.clk.reqLen → ∀ r ∈ s.clk.reqs, s.clk.elapsed < r.1 + 8 → s.clk.reqLen ≤ r.2) →
      (s.clk.reqLen < s.clk.lenQ → s.clk.lastChange + 1000 ≤ s.clk.elapsed) →
    yields .pickLengthChange s fun t =>
      t.clk.lenQ = s.clk.reqLen ∧ t.clk.lastChange = s.clk.elapsed ∧ t.clk.pick = s.clk.pick ∧ t.clk.wall = s.clk.wall ∧
      (t.clk.byThermal = true ↔ s.clk.reqLen ≤ s.thm.thermLen ∧ s.clk.reqLen ≠ 16) ∧
      (t.clk.byPower = true ↔ s.clk.reqLen ≤ s.pwr.capLen ∧ s.clk.reqLen ≠ 16) ∧
      (t.clk.byScreen = true ↔ s.clk.reqLen ≤ s.thm.screenLen ∧ s.clk.reqLen ≠ 16) ∧
      t.clk.plog = (⟨s.clk.pick, s.clk.wall / 40, s.clk.wall % 40, s.clk.reqLen, false⟩ :: s.clk.plog).take 256 ∧
      t = { s with clk := t.clk, time := { s.time with lenRemote := false } }) ∧
  (∀ s : State, s.time.role = 0 →
      (s.clk.lenQ < s.clk.reqLen ∧ ∃ r ∈ s.clk.reqs, s.clk.elapsed < r.1 + 8 ∧ r.2 ≤ s.clk.lenQ) ∨
      (s.clk.reqLen < s.clk.lenQ ∧ s.clk.elapsed < s.clk.lastChange + 1000) →
    exec .pickLengthChange s = .next s) ∧
  (∀ (s : State) (e : PickSwitch) (rest : List PickSwitch), s.up = true → s.time.role ≠ 0 → s.time.sched = e :: rest →
      e.pick ≤ s.clk.pick → e.len ≠ s.clk.lenQ →
    yields .pickLengthChange s fun t =>
      t.clk.lenQ = e.len ∧ t.clk.lastChange = s.clk.elapsed ∧ t.clk.pick = s.clk.pick ∧
      (e.byThermal = true ∨ e.len ≤ s.thm.thermLen → e.len ≠ 16 → t.clk.byThermal = true) ∧
      (e.byPower = true ∨ e.len ≤ s.pwr.capLen → e.len ≠ 16 → t.clk.byPower = true) ∧
      (e.byScreen = true ∨ e.len ≤ s.thm.screenLen → e.len ≠ 16 → t.clk.byScreen = true) ∧
      (e.len = 16 → t.clk.byThermal = false ∧ t.clk.byPower = false ∧ t.clk.byScreen = false) ∧
      t.time = { s.time with lenRemote := s.localLen != e.len, sched := rest } ∧
      t = { s with tick := s.tick + 1, clk := t.clk, time := t.time }) ∧
  (∀ (s : State) (who : Who) (j : Nat), s.actsAs who j →
    yields (.hubPickLoRead who) s fun t =>
      t.out = .readData j (BitVec.ofNat 32 s.clk.pick) :: s.out ∧
      t.latch j = { s.latch j with pickHi := s.clk.pick / 2 ^ 32, wall := s.clk.wall / 40 } ∧
      (∀ k, k ≠ j → t.latch k = s.latch k) ∧ t = { s with acc := { s.acc with latches := t.acc.latches }, out := t.out })

/-- A write of HUB_TIME_CTRL takes effect only with every context Disabled and the module unpaired, else it is dropped and
counted (R343); a leader is aligned. SYNC_SEND sends the counter and returns the stamps of the peer's last SYNC; SYNC_RECEIVE
keeps the stamps, and a follower judges its offset by R344 and R346: half the difference of the two one-way differences, a
lag of more than 1 microsecond at two SYNCs in a row stepped forward while no context is enabled and no step runs (the second SYNC is the
model's reading of 'at the next SYNC', log entry 31). Holdover ends after 100 ms.
Rests in part on the model's own choices or readings: log entries 31, 32. -/
def Obligations.TimeRolesAndSync : Prop :=
  (∀ (s : State) (who : Who) (j : Nat) (role : Fin 4) (up : Fin 64), s.actsPrv who j → s.timeBusy = true →
    exec (.timeRoleSet who role up) s = .next { s with agg := .droppedWrite 3 :: s.agg }) ∧
  (∀ (s : State) (who : Who) (j : Nat) (role : Fin 4) (up : Fin 64), s.actsPrv who j → s.timeBusy = false →
    yields (.timeRoleSet who role up) s fun t =>
      t.time.role = (if role = 3 then s.time.role else role.val) ∧ t.time.upstream = up.val ∧
      (t.time.role = 1 → t.time.state = 1) ∧ t.time.depth = 0 ∧ t.time.ofs = 0 ∧ t = { s with time := t.time }) ∧
  (∀ (s : State) (p : Fin 36), s.awake = true → (s.port p.val).state = 2 →
    yields (.syncSend p) s fun t =>
      t.out = .sync p.val s.clk.pick 0 (s.port p.val).lastSyncPick (s.port p.val).lastSyncPhase s.timeLeader :: s.out ∧
      t.port p.val = { s.port p.val with lastSyncHere := s.clk.pick } ∧
      (∀ q, q ≠ p.val → t.port q = s.port q) ∧ t = { s with ports := t.ports, out := t.out }) ∧
  (∀ (s : State) (p : Fin 36) (st : SyncStamps), s.awake = true → (s.port p.val).state = 2 →
      ¬(s.time.role = 2 ∧ p.val = s.time.upstream) →
    yields (.syncReceive p st) s fun t =>
      t.port p.val = { s.port p.val with
        lastSyncPick := st.pickHere, lastSyncPhase := st.phaseHere, leader := st.leader, peerDepth := st.depth } ∧
      (∀ q, q ≠ p.val → t.port q = s.port q) ∧ t = { s with ports := t.ports }) ∧
  (∀ (s : State) (p : Fin 36) (st : SyncStamps), s.awake = true → (s.port p.val).state = 2 → s.time.role = 2 →
      p.val = s.time.upstream → 0 < s.clk.lenQ →
    yields (.syncReceive p st) s fun t =>
      let o := s.offsetFrom (s.port p.val).lastSyncHere st
      let n := ((-o) / s.clk.lenQ).toNat
      t.time.leader = st.leader ∧ t.time.depth = min (st.depth + 1) 255 ∧ t.time.holdoverSince = none ∧
      (-4000 ≤ o ∨ -4000 ≤ s.time.ofs ∨ s.timeBusy = true ∨ s.sched.runs ≠ [] → t.clk = s.clk ∧ t.time.ofs = o) ∧
      (o < -4000 → s.time.ofs < -4000 → s.timeBusy = false → s.sched.runs = [] → s.clk.lenQ ≤ 64 →
        t.clk.pick = (s.clk.pick + n) % 2 ^ 64 ∧ t.time.ofs = o + n * s.clk.lenQ ∧ t.clk.elapsed = s.clk.elapsed) ∧
      (t.time.state = 1 ↔ st.aligned = true ∧ -4 ≤ t.time.ofs ∧ t.time.ofs ≤ 4) ∧ (t.time.state = 1 ∨ t.time.state = 3)) ∧
  (∀ (s : State) (w : Nat), s.up = true → s.time.state = 2 → s.time.holdoverSince = some w → 400000000 ≤ s.clk.wall - w →
    exec .holdoverExpire s = .next { s with time := { s.time with state := 0, holdoverSince := none } })

/-- TIME_ALIGN on the leader floods TIME_QUERY; replies go up the tree; when the last is in, a busy member ends the command
with 0x11, and otherwise S lies 65,536 picks ahead and V is S + D + 1,024 (R345). A member not heard within 10 ms ends it with
0x11. TIME_STEP is noted and passed on, and applied at the member's moment of S: the counter becomes V and the log gets a
time step. A member's PICKLEN_REQ of a length of R26 is noted; the leader's next change comes 1,000 picks after one that stands (R33);
PICKLEN sets the switch pick E, after E the next boundary and LATE_LEN (R347).
Rests in part on the model's own choices or readings: log entries 17, 32. -/
def Obligations.TimeDomainMessages : Prop :=
  (∀ (s : State) (m : Fin 16), s.awaits m.val 0x0010 → s.time.role ≠ 1 →
    yields (.timeAlign m) s fun t => s.completes t m.val 0x11 [] ∧ t = { s with mbx := t.mbx, out := t.out }) ∧
  (∀ (s : State) (m : Fin 16), s.awaits m.val 0x0010 → s.time.role = 1 → s.time.alignMbx = none → s.childPorts ≠ [] →
    yields (.timeAlign m) s fun t =>
      t.time = { s.time with alignMbx := some m.val, alignSince := s.clk.wall, alignReplies := [], query := true } ∧
      (∀ p ∈ s.treePorts 36, .ctrl p ⟨0x0D, 0xFFFF, 0, s.clk.pick, 0, 0⟩ ∈ t.out) ∧
      (t.mailbox m.val).busy = true ∧ t.clk = s.clk) ∧
  (∀ (s : State) (p : Fin 36), s.up = true → s.time.role = 2 → p.val = s.time.upstream → s.childPorts = [] →
    yields (.timeQuery p) s fun t =>
      t.time = { s.time with alignReplies := [], query := false } ∧
      .ctrl p.val ⟨0x0E, 0xFFFF, 0, s.clk.pick, (max 0 s.ownLead).toNat, if s.timeBusy then 1 else 0⟩ ∈ t.out) ∧
  (∀ (s : State) (p : Fin 36) (lead : BitVec 64) (busy : Bool) (m : Nat), s.up = true → s.time.role = 1 → s.time.query = true →
      s.childPorts = [p.val] → s.time.alignReplies = [] → s.time.alignMbx = some m →
    yields (.timeReply p lead busy) s fun t =>
      (busy = true ∨ s.timeBusy = true → s.completes t m 0x11 [] ∧ t.time.step = s.time.step) ∧
      (busy = false → s.timeBusy = false →
        t.time.step = some (s.clk.pick + 65536, s.clk.pick + 65536 + lead.toNat + 1024) ∧
        t.time.alignDone = some (s.clk.pick + 65536 + lead.toNat + 1024 + 16) ∧
        ∀ q ∈ s.treePorts 36, .ctrl q ⟨0x0F, 0xFFFF, 0, s.clk.pick + 65536, s.clk.pick + 65536 + lead.toNat + 1024, 0⟩ ∈ t.out)) ∧
  (∀ (s : State) (m : Nat), s.up = true → s.time.query = true → s.time.alignMbx = some m →
      40000000 ≤ s.clk.wall - s.time.alignSince →
    yields .timeAlignTimeout s fun t => s.completes t m 0x11 [] ∧
      t.time = { s.time with query := false, alignReplies := [], alignMbx := none } ∧
      t = { s with time := t.time, mbx := t.mbx, out := t.out }) ∧
  (∀ (s : State) (p : Fin 36) (a v : BitVec 64), s.up = true → s.time.role = 2 → p.val = s.time.upstream →
    yields (.timeStep p a v) s fun t => t.time = { s.time with step := some (a.toNat, v.toNat) } ∧
      ∀ q ∈ s.treePorts p.val, .ctrl q ⟨0x0F, 0xFFFF, 0, a.toNat, v.toNat, 0⟩ ∈ t.out) ∧
  (∀ (s : State) (a v : Nat), s.up = true → s.time.step = some (a, v) → s.sched.runs = [] →
      (a : Int) + s.ownLead ≤ s.clk.pick → s.clk.pick ≤ v → v < 2 ^ 64 →
    yields .timeStepApply s fun t =>
      t.clk.pick = v ∧ t.clk.elapsed = s.clk.elapsed ∧ t.clk.wall = s.clk.wall ∧
      t.clk.plog = (⟨v, s.clk.wall / 40, s.clk.wall % 40, s.clk.lenQ, true⟩ :: s.clk.plog).take 256 ∧
      t = { s with clk := t.clk, time := { s.time with step := none } }) ∧
  (∀ (s : State) (p : Fin 36) (len : Fin 128), s.up = true → s.time.role = 2 → (s.port p.val).state = 2 →
      p.val ≠ s.time.upstream → 16 ≤ len.val → len.val ≤ 64 →
    yields (.picklenReq p len) s fun t =>
      t.time = { s.time with remoteReqs := Tab.put 16 s.time.remoteReqs p.val len.val } ∧
      (t.treeLen ≠ s.treeLen → (s.port s.time.upstream).state = 2 →
        .ctrl s.time.upstream ⟨0x0B, 0xFFFF, 0, s.clk.pick, 0, t.treeLen⟩ ∈ t.out)) ∧
  (∀ (s : State) (p : Fin 36) (len : Fin 128), s.up = true → s.time.role = 1 → (s.port p.val).state = 2 →
      16 ≤ len.val → len.val ≤ 64 →
    yields (.picklenReq p len) s fun t =>
      t.time.remoteReqs = Tab.put 16 s.time.remoteReqs p.val len.val ∧
      (t.treeLen ≠ s.treeLen → s.time.sched = [] → t.treeLen ≠ s.clk.lenQ → ∃ e,
        t.time.sched = [⟨e, t.treeLen, false, false, false⟩] ∧ s.clk.pick + 256 ≤ e ∧
        (t.treeLen < s.clk.lenQ → s.clk.pick + (1000 - (s.clk.elapsed - s.clk.lastChange)) ≤ e) ∧
        ∀ q ∈ s.treePorts 36, .ctrl q ⟨0x0C, 0xFFFF, 0, s.clk.pick, e, t.treeLen⟩ ∈ t.out) ∧
      (∀ x : PickSwitch, t.treeLen ≠ s.treeLen → s.time.sched = [x] → x.pick < s.clk.pick + 256 → t.treeLen < x.len → ∃ e,
        t.time.sched = [x, ⟨e, t.treeLen, false, false, false⟩] ∧ s.clk.pick + 256 ≤ e ∧ x.pick + 1000 ≤ e)) ∧
  (∀ (s : State) (p : Fin 36) (len : Fin 128), len.val < 16 ∨ 64 < len.val → exec (.picklenReq p len) s = .next s) ∧
  (∀ (s : State) (p : Fin 36) (e : BitVec 64) (len : Fin 128) (th pw sc : Bool), s.up = true → s.time.role = 2 →
      p.val = s.time.upstream → 16 ≤ len.val → len.val ≤ 64 →
    yields (.picklen p e len th pw sc) s fun t =>
      let at_ := if e.toNat < s.clk.pick then s.clk.pick + 1 else e.toNat
      t.time = { s.time with
        lateLen := s.time.lateLen || decide (e.toNat < s.clk.pick), setAt := t.time.setAt
        sched := s.time.sched.filter (fun x => decide (x.pick < at_)) ++ [⟨at_, len.val, th, pw, sc⟩] } ∧
      ∀ q ∈ s.treePorts p.val, .ctrl q ⟨0x0C, 0xFFFF, 0, s.clk.pick, e.toNat, len.val⟩ ∈ t.out)

/-! ## Accesses from outside -/

/-- A BAR0 access that is not an aligned 32-bit access: a read completes with 0xFFFF_FFFF, a write is dropped, and both are
recorded in the error aggregator (R10). The same of a register access whose offset is not a multiple of 4, from the host or
over I3C. -/
def Obligations.MisalignedAccessIsRecorded : Prop :=
  (∀ (s : State) (who : Who) (j : Nat), s.actsAs who j →
    exec (.bar0MisalignedAccess who true) s = .next { s with agg := .misaligned :: s.agg } ∧
    exec (.bar0MisalignedAccess who false) s =
      .next { s with agg := .misaligned :: s.agg, out := .readData j 0xFFFFFFFF :: s.out }) ∧
  (∀ (s : State) (who : Who) (j : Nat) (off : BitVec 26) (v : Word), s.actsAs who j → off.toNat % 4 ≠ 0 →
    exec (.registerWrite who off v) s = .next { s with agg := .misaligned :: s.agg }) ∧
  (∀ (s : State) (v : Word), s.i3cUp = true → s.sec.stage ≠ 5 → s.sec.i3cOffset % 4 ≠ 0 →
    exec (.i3cRegisterAccess (some v)) s = .next { s with agg := .misaligned :: s.agg } ∧
    exec (.i3cRegisterAccess none) s =
      .next { s with agg := .misaligned :: s.agg, out := .readData 62 0xFFFFFFFF :: s.out })

/-- A requester that is not privileged (R13): its write leaves every PRV field of the register unchanged and is counted,
while the register's other fields are written (a W1C bit set in this pick stays set, R12); its read returns 0 in every PRV field and is counted. -/
def Obligations.PrvFieldsRefuseField : Prop :=
  (∀ (s : State) (who : Who) (j : Nat) (off : BitVec 26) (v : Word) (r : Reg), s.actsAs who j → s.priv j = false →
      off.toNat % 4 = 0 → inXfer off.toNat = false → regAt off.toNat = some r → r.prvMask ≠ 0 →
    let f (b : Bool) (t : Tab Nat) (i : Nat) : Bool := w1c b t i s.clk.elapsed v.toNat
    let t := { s with agg := .prvDenied j :: s.agg }
    exec (.registerWrite who off v) s = .next (match r with
      | .monChan => t.modChan (s.sel j).mon fun x => { x with ovr := f x.ovr x.setAt 3, drift := f x.drift x.setAt 6 }
      | .healthStat => { t with health := { s.health with perm := f s.health.perm s.health.setAt 2 } }
      | .gstop => { t with rcv := { s.rcv with cutValid := v.getLsbD 13 } }
      | .scrubStat => { t with arr := { s.arr with
          scrubLate := f s.arr.scrubLate s.arr.setAt 0, scrubLost := f s.arr.scrubLost s.arr.setAt 1 } }
      | .satStat => t.modHeddle (s.sel j).sat fun x => { x with satFlag := f x.satFlag x.setAt 0 }
      | _ => t)) ∧
  (∀ (s : State) (r : Reg), s.i3cUp = true → s.sec.stage ≠ 5 → s.priv 62 = false → s.sec.i3cOffset % 4 = 0 →
      inXfer s.sec.i3cOffset = false → regAt s.sec.i3cOffset = some r → r.prvMask ≠ 0 →
    exec (.i3cRegisterAccess none) s = .next { s with
      agg := .prvDenied 62 :: s.agg, out := .readData 62 (s.regWord 62 r &&& ~~~r.prvMask) :: s.out })

/-- Claims and releases (R329, R330): mailboxes 0 to 11 take claims from privileged requesters only, 12 to 15 from any; a
claim that is not accepted is dropped and counted; the holder, or any privileged requester, releases, and a busy mailbox
keeps its command; over I3C mailbox 15 is claimed in the same way. A mailbox that an unprivileged requester holds accepts only
PLAN_STATUS and REQ_CANCEL, and completes any other opcode with 0x11. -/
def Obligations.MailboxClaims : Prop :=
  (∀ (s : State) (who : Who) (j : Nat) (m : Fin 16), s.actsAs who j → j < 64 → (s.mailbox m.val).held = false →
      (s.priv j = true ∨ 12 ≤ m.val) →
    yields (.mbxClaim who m) s fun t =>
      t.mailbox m.val = { s.mailbox m.val with slot := j, held := true } ∧
      (∀ k, k ≠ m.val → t.mailbox k = s.mailbox k) ∧ t = { s with mbx := t.mbx }) ∧
  (∀ (s : State) (who : Who) (j : Nat) (m : Fin 16), s.actsAs who j → (s.mailbox m.val).held = false → s.priv j = false →
      m.val < 12 → exec (.mbxClaim who m) s = .next { s with agg := .mbxDrop m.val :: s.agg }) ∧
  (∀ (s : State) (who : Who) (j : Nat) (m : Fin 16), s.actsAs who j →
      ((s.mailbox m.val).held = true ∧ (s.mailbox m.val).slot = j ∨ s.priv j = true) →
    yields (.mbxRelease who m) s fun t =>
      t.mailbox m.val = { s.mailbox m.val with slot := 0, held := false } ∧
      (∀ k, k ≠ m.val → t.mailbox k = s.mailbox k) ∧ t = { s with mbx := t.mbx }) ∧
  (∀ (s : State) (who : Who) (j : Nat) (m : Fin 16), s.actsAs who j → s.priv j = false →
      ¬((s.mailbox m.val).held = true ∧ (s.mailbox m.val).slot = j) →
    exec (.mbxRelease who m) s = .next { s with agg := .mbxDrop m.val :: s.agg }) ∧
  (∀ (s : State) (v : Word), s.i3cUp = true → s.sec.stage ≠ 5 → s.sec.i3cOffset = 0x10780 → (s.mailbox 15).held = false →
      v.getLsbD 7 = true → v.getLsbD 8 = false →
    yields (.i3cRegisterAccess (some v)) s fun t =>
      t.mailbox 15 = { s.mailbox 15 with slot := 62, held := true } ∧ t = { s with mbx := t.mbx }) ∧
  (∀ (c : Instr) (s : State) (m op : Nat), mailboxCommand c = some (m, op) → s.serves = true → (s.mailbox m).busy = true →
      (s.mailbox m).opcode = op → s.priv (s.mailbox m).slot = false → op ≠ 0x2002 → op ≠ 0x3005 →
    yields c s fun t => s.completes t m 0x11 [] ∧ t = { s with mbx := t.mbx, out := .msix (1 + m) :: s.out }) ∧
  (∀ (s : State) (m : Nat), s.sec.stage = 4 → s.rcv.oos = false → s.pwr.mode ≠ 2 →
      (s.mailbox m).opcode = 0x2002 ∨ (s.mailbox m).opcode = 0x3005 → s.cmdBarred m (s.mailbox m) = false)

/-- The registers of a mailbox (R330), at the offsets of Table 16.3: its holder writes argument words and the command while
it is not BUSY, GO sets BUSY and clears DONE; writes by another requester, or to ARG or CMD while BUSY, are dropped and
counted. The module answers an opcode outside the assigned codes with status 0x11 and performs no action (R19). -/
def Obligations.MailboxRegisters : Prop :=
  (∀ (s : State) (who : Who) (j : Nat) (m n : Nat) (off : BitVec 26) (v : Word), s.actsAs who j → m < 16 → n < 16 →
      off.toNat = 0x10010 + 0x80 * m + 4 * n →
    ((s.mailbox m).busy = false → (s.mailbox m).held = true → (s.mailbox m).slot = j →
      yields (.registerWrite who off v) s fun t =>
        t.mailbox m = { s.mailbox m with args := Tab.put 0 (s.mailbox m).args n v.toNat } ∧
        (∀ k, k ≠ m → t.mailbox k = s.mailbox k) ∧ t = { s with mbx := t.mbx }) ∧
    ((s.mailbox m).busy = true ∨ (s.mailbox m).held = false ∨ (s.mailbox m).slot ≠ j →
      exec (.registerWrite who off v) s = .next { s with agg := .mbxDrop m :: s.agg })) ∧
  (∀ (s : State) (who : Who) (j : Nat) (m : Nat) (off : BitVec 26) (v : Word), s.actsAs who j → m < 16 →
      off.toNat = 0x10004 + 0x80 * m →
    ((s.mailbox m).busy = false → (s.mailbox m).held = true → (s.mailbox m).slot = j → v.getLsbD 31 = true →
      yields (.registerWrite who off v) s fun t =>
        t.mailbox m = { s.mailbox m with
          opcode := v.toNat % 2 ^ 16, tag := v.toNat / 2 ^ 16 % 2 ^ 15, busy := true, done := false, res := []
          since := s.clk.wall } ∧
        (∀ k, k ≠ m → t.mailbox k = s.mailbox k) ∧ t = { s with mbx := t.mbx }) ∧
    ((s.mailbox m).busy = true ∨ (s.mailbox m).held = false ∨ (s.mailbox m).slot ≠ j →
      exec (.registerWrite who off v) s = .next { s with agg := .mbxDrop m :: s.agg })) ∧
  (∀ (s : State) (m : Fin 16), s.serves = true → (s.mailbox m.val).busy = true →
      (s.mailbox m.val).opcode ∉ assignedOpcodes →
    yields (.unassignedOpcode m) s fun t => s.completes t m.val 0x11 [] ∧
      t = { s with mbx := t.mbx, out := .msix (1 + m.val) :: s.out })

/-- BAR4 maps onto device-local addresses from the requester's UCH_WIN base on (R326). A read where no memory answers
returns all ones and a write is dropped, counted; of the hub region a read returns zeros and a write is dropped, counted
(R428); else a read returns each byte, 0 where a sealed context's data or a row not yet committed lies (R229, R133), and a
write that no rule bars stores its bytes and changes no other byte (R153, R241).
Rests in part on the model's own choices or readings: log entry 58. -/
def Obligations.WindowReadsAndWrites : Prop :=
  (∀ (s : State) (rid : BitVec 16) (link : Fin 8) (j : Nat) (off : BitVec 36) (n : Fin 4097), s.up = true → s.sec.stage ≠ 5 →
      s.acc.linksUp.contains link.val = true → s.slotOfRid rid.toNat = some j →
    let a := (s.slot j).win * 2 ^ 30 + off.toNat
    (s.answers a n.val = false → exec (.bar4Read (.host rid link) off n) s = .next { s with
      agg := .badBar4 j :: s.agg, out := .readBytes j (List.replicate n.val 0xFF) :: s.out }) ∧
    (s.answers a n.val = true → inHub a n.val = true → exec (.bar4Read (.host rid link) off n) s = .next { s with
      agg := .hubRegion :: s.agg, out := .readBytes j (List.replicate n.val 0) :: s.out }) ∧
    (s.answers a n.val = true → inHub a n.val = false →
      yields (.bar4Read (.host rid link) off n) s fun t => ∃ bs,
        t = { s with agg := t.agg, out := .readBytes j bs :: s.out } ∧ bs.length = n.val ∧
        (∀ i, i < n.val → bs[i]? = some (if s.sealedAt (a + i) then 0 else s.filteredByte (a + i))) ∧
        ((∃ i, i < n.val ∧ s.sealedAt (a + i) = true) → t.agg = .sealedRead :: s.agg) ∧
        ((∀ i, i < n.val → s.sealedAt (a + i) = false) → t.agg = s.agg))) ∧
  (∀ (s : State) (rid : BitVec 16) (link : Fin 8) (j : Nat) (off : BitVec 36) (data : Bytes), s.up = true → s.sec.stage ≠ 5 →
      s.acc.linksUp.contains link.val = true → s.slotOfRid rid.toNat = some j → data ≠ [] →
    let a := (s.slot j).win * 2 ^ 30 + off.toNat
    (∀ r, s.writeBarred j a data.length = some r →
      exec (.bar4Write (.host rid link) off data) s = .next { s with agg := r :: s.agg }) ∧
    (s.writeBarred j a data.length = none →
      yields (.bar4Write (.host rid link) off data) s fun t =>
        (∀ i, i < data.length → some (t.byte (a + i)) = data[i]?) ∧
        (∀ b, b < a ∨ a + data.length ≤ b → t.byte b = s.byte b) ∧
        t.mem.tallyErr = s.mem.tallyErr ∧ t = { s with mem := t.mem }) ∧
    (s.answers a data.length = false → s.writeBarred j a data.length = some (.badBar4 j)) ∧
    (s.answers a data.length = true → inHub a data.length = true → s.writeBarred j a data.length = some .hubRegion))

/-- A link that is marked down leaves the port on the others, and with none left hub function 6 is faulted with detector
0x08 (R324); a link that trains is up. The I3C target takes a BAR0 offset and then answers and writes the register at it as
identity slot 62 (R349), and takes a dynamic address.
Rests in part on the model's own choices or readings: log entry 59. -/
def Obligations.LinksAndI3cTarget : Prop :=
  (∀ (s : State) (l : Fin 8), s.up = true → s.acc.linksUp.contains l.val = true → (∃ k ∈ s.acc.linksUp, k ≠ l.val) →
    exec (.ucieLinkDown l) s = .next { s with acc := { s.acc with
      linksUp := s.acc.linksUp.filter (· != l.val), linksHalf := s.acc.linksHalf.filter (· != l.val) } }) ∧
  (∀ (s : State) (l : Fin 8), s.up = true → s.acc.linksUp = [l.val] → s.troubled 0xA 6 = false →
    yields (.ucieLinkDown l) s fun t =>
      t.acc.linksUp = [] ∧ t.barLink = none ∧ s.logged t 0xA 6 8 ∧ t.troubled 0xA 6 = true) ∧
  (∀ (s : State) (l : Fin 8) (half : Bool), s.up = true → s.hs.present = true → s.hs.resetReleased = true →
      1 ≤ s.sec.stage → s.sec.stage ≤ 4 →
    yields (.ucieLinkTrained l half) s fun t =>
      (∀ k, k ∈ t.acc.linksUp ↔ k = l.val ∨ k ∈ s.acc.linksUp) ∧
      (∀ k, k ∈ t.acc.linksHalf ↔ if k = l.val then half = true else k ∈ s.acc.linksHalf) ∧
      t.acc.retrains = (if l.val ∈ s.acc.linksEver then (s.acc.retrains + 1) % 256 else s.acc.retrains) ∧
      t = { s with acc := t.acc }) ∧
  (∀ (s : State) (off : Word), s.i3cUp = true →
    exec (.i3cOffsetWrite off) s = .next { s with sec := { s.sec with i3cOffset := off.toNat } }) ∧
  (∀ (s : State) (a : BitVec 7), s.i3cUp = true →
    exec (.i3cDynamicAddress a) s = .next { s with sec := { s.sec with i3cDyn := some a.toNat } }) ∧
  (∀ (s : State) (r : Reg), s.i3cUp = true → s.sec.stage ≠ 5 → s.sec.i3cOffset % 4 = 0 → inXfer s.sec.i3cOffset = false →
      regAt s.sec.i3cOffset = some r → s.priv 62 = true →
    yields (.i3cRegisterAccess none) s fun t =>
      t.out = .readData 62 (s.regWord 62 r) :: s.out ∧ t = { s with
        acc := { s.acc with latches := t.acc.latches }, obs := { s.obs with pmcHi := t.obs.pmcHi }, out := t.out }) ∧
  (∀ (s : State) (v : Word), s.i3cUp = true → s.sec.stage ≠ 5 → s.sec.i3cOffset = 0x90000 → s.priv 62 = true →
    exec (.i3cRegisterAccess (some v)) s = .next { s with pwr := { s.pwr with
      ceil := min 3300 (max 500 (v.toNat % 2 ^ 12)) } })

/-! ## Plan steps -/

/-- A step command starts its step exactly when the step may start (R29): never before its start pick, only at a boundary
after every input has completed, and only while its unit and its tiles are free (R158). The step leaves the waiting list and
runs from this pick, with one remote operation outstanding where it goes through an Xeast port and one for each block of a
page that it hands off; if it may not start, nothing happens. KNOT and RECV change nothing else but counters and tags
(Table 6.7). A word of hub SRAM struck beyond correction while a hub step runs faults hub function 0 (R261).
Rests in part on the model's own choices or readings: log entry 34. -/
def Obligations.StepsStartWhenReady : Prop :=
  (∀ (cmd : Instr) (c l i k : Nat) (s : State) (d : Due), stepCommand cmd = some (c, l, i, k) → s.mayStart c l i k d →
      sramHolds (stepUpsets cmd) →
    let st := s.stepAt c l i
    yields cmd s fun t => ∃ r,
      t.sched.runs = s.sched.runs ++ [r] ∧ r.ctx = c ∧ r.list = l ∧ r.idx = i ∧ r.iter = d.iter ∧ r.start = d.start ∧
      r.began = s.clk.pick ∧ r.ended = none ∧
      r.outstanding = (if (k = 5 ∨ k = 6 ∨ k = 7) ∧ st.unit ≤ 8 then 1 else 0) +
        (if k = 5 then (s.handOffBlocks c l i st).length else 0) ∧
      t.sched.due.map (fun x => (x.ctx, x.list, x.idx, x.iter, x.start, x.void)) =
        (s.sched.due.filter (fun x => !(sameStep c l i x && x.iter == d.iter))).map
          (fun x => (x.ctx, x.list, x.idx, x.iter, x.start, x.void)) ∧
      d ∈ s.sched.due ∧ d.void = false ∧ d.start ≤ s.clk.pick ∧
      (∃ a b e, d.knotAt = some a ∧ d.unitAt = some b ∧ d.tileAt = some e ∧ a < s.clk.pick ∧ b < s.clk.pick ∧ e < s.clk.pick) ∧
      s.unitBusy (unitKey l st) = false ∧ s.tilesBusy (stepTiles (s.image c) l st) = false ∧
      (k = 8 ∨ k = 0xE → t = { s with sched := t.sched, obs := t.obs })) ∧
  (∀ (cmd : Instr) (c l i k : Nat) (s : State), stepCommand cmd = some (c, l, i, k) → s.startable c l i = none →
    exec cmd s = .next s) ∧
  (∀ (cmd : Instr) (c l i k : Nat) (s : State) (d : Due) (b : BitVec 64), stepCommand cmd = some (c, l, i, k) →
      s.mayStart c l i k d → k = 0xB ∨ ((k = 0xC ∨ k = 0xD) ∧ (s.slotReq c (s.stepAt c l i).slot).isSome = true) →
      Upset.sram b ∈ stepUpsets cmd → (secded b.toNat).detected ≠ 0 →
    yields cmd s fun t => t.troubled 0xA 0 = true)

/-- STEP_END frees the unit: a step whose remote operations are acknowledged leaves and sets its SET knot (R152), which adds
1 to the count and is recorded with its pick; one with operations outstanding keeps running as ended. A step that ends more
than 64 picks late, and has not itself run longer than that past its length, is logged under detector 0x02 (R30, R290). The SET knot of a void step is set at its budgeted end pick in the
same way (R160, R294).
Rests in part on the model's own choices or readings: log entry 34. -/
def Obligations.StepsEndAndSetKnots : Prop :=
  (∀ (s : State) (c : Fin 256) (l : Fin 5) (i : BitVec 18) (r : Run), s.up = true →
      s.sched.runs.find? (fun r => sameRun c.val l.val i.toNat r && r.ended.isNone) = some r →
      (s.ctx c.val).ctl.cut = false →
    let st := s.stepAt c.val l.val i.toNat
    let a := addrLocal st.set
    yields (.stepEnd c l i) s fun t =>
      (r.outstanding = 0 → ∀ x ∈ t.sched.runs, ¬(sameRun c.val l.val i.toNat x = true ∧ x.iter = r.iter)) ∧
      (r.outstanding ≠ 0 → { r with ended := some s.clk.pick } ∈ t.sched.runs ∧ t.obs.knotLog = s.obs.knotLog) ∧
      (r.outstanding = 0 → st.set ≠ 0 → addrPlace st.set = planPlace (s.image c.val) → ∃ pl,
        t.knotSets a = ((s.knot a + 1) % 2 ^ 64, s.clk.pick, pl) :: s.knotSets a ∧
        (st.slot = 0xFFFF → s.obs.trcBuf.on = false → s.kvt.unpublished = [] →
          t.knot a = (s.knot a + 1) % 2 ^ 64 ∧ ∀ b, b < a ∨ a + 8 ≤ b → t.byte b = s.byte b)) ∧
      (s.stepEndPick c.val st r.iter + 64 < s.clk.pick → s.clk.pick ≤ r.began + st.len + 64 →
        s.suppresses c.val l.val st = false → s.logged t 0 0 2)) ∧
  (∀ (s : State) (c : Fin 256) (l : Fin 5) (i : BitVec 18) (d : Due), s.up = true →
      s.sched.due.find? (fun d => sameStep c.val l.val i.toNat d && d.void && decide (d.voidEnd ≤ s.clk.pick)) = some d →
    let st := s.stepAt c.val l.val i.toNat
    let a := addrLocal st.set
    yields (.unfilledSlotKnotSet c l i) s fun t => d ∉ t.sched.due ∧ t.sched.runs = s.sched.runs ∧
      (st.set ≠ 0 → addrPlace st.set = planPlace (s.image c.val) → ∃ pl,
        t.knotSets a = ((s.knot a + 1) % 2 ^ 64, s.clk.pick, pl) :: s.knotSets a))

/-- The product of an undisturbed dent is exact (R40, R47, R101): with every row's selvage as R48 makes it, each dent of each
plane reads clean, and output column o of dent d gets the sum, over the rows that are not removed, of element times weight,
as whole numbers, with a residue that agrees (R115).
Rests in part on the model's own choices or readings: log entry 23. -/
def Obligations.DentProductsAreExact : Prop :=
  ∀ (h : Heddle) (i : Fin 64) (d w aw o : Nat) (a : ActBlock), d < 8 → 1 ≤ w → 1 ≤ aw → h.colsUsed * w ≤ 512 →
      o < h.colsUsed →
    (∀ k, k < 64 → h.row (64 * d + k) = (rowWithSelvage (h.row (64 * d + k))).toNat) →
    (∀ k, k < 64 → -(2 ^ (aw - 1) : Int) ≤ a.elems.getD k 0 ∧ a.elems.getD k 0 < 2 ^ (aw - 1)) →
    let x := dentWork h i d w aw (some a) []
    (∃ p, x.products[o]? = some p ∧ p.ok = true ∧ p.val = sumInt ((List.range 64).map fun k =>
      if bitOf a.removed k then 0 else a.elems.getD k 0 * weightInt w (fld (h.row (64 * d + k)) (o * w) w))) ∧
    x.results.length = aw ∧ ∀ y ∈ x.results, y.1 = .clean

/-- An MVM step puts into the bank of each selected heddle, for each used column, the saturated sum over dents and mending
contributions with its residue (R105, R106, R107), its exponent base and its clamp, and counts 8 x 528 conversions a plane
(R54); no other heddle changes. A MEND step reads its records and changes no register of a heddle and no memory (R92); a
product whose residue disagrees is a residue failure of its unit (R116).
Rests in part on the model's own choices or readings: log entries 18, 23, 24. -/
def Obligations.MvmFillsItsBank : Prop :=
  (∀ (s : State) (c : Fin 256) (l : Fin 5) (i : BitVec 18) (ups : List Upset) (d : Due),
      s.mayStart c.val l.val i.toNat 1 d →
    let st := s.stepAt c.val l.val i.toNat
    let heddles := mvmHeddles (stepParam (s.image c.val) st 16)
    let seen := s.mvmSeen c.val l.val d.iter st ups
    let x := seen.mvmIn c.val l.val d.iter st
    let first := (l.val * 1024 + st.unit) * 64
    yields (.mvmStep c l i ups) s fun t =>
      (∀ k : Fin 64, bitOf heddles k.val = true →
        let h := s.heddle (first + k.val)
        let accs := heddleAccs h k x.width (eMinOf x.acts) x.acts (heddleDents h k x ups) x.outs
          (seen.rowCopy c.val (first + k.val)) ups
        let tile := if x.bank = 0 then (t.heddle (first + k.val)).tile0 else (t.heddle (first + k.val)).tile1
        (∀ o, o < h.colsUsed → some (Tab.getD 0 tile.acc o, Tab.getD 0 tile.res o) =
          accs[o]?.map (fun a => (a.sum.val, a.sum.res))) ∧
        tile.eBase = h.eWmin + eMinOf x.acts ∧ tile.sat = accs.any (·.sat) ∧
        (t.heddle (first + k.val)).convs = h.convs + 8 * 528 * x.aw ∧ (t.heddle (first + k.val)).rows = h.rows) ∧
      (∀ g, (∀ k : Fin 64, bitOf heddles k.val = true → g ≠ first + k.val) → t.heddle g = s.heddle g)) ∧
  (∀ (s : State) (c : Fin 256) (l : Fin 5) (i : BitVec 18) (ups : List Upset) (d : Due),
      s.mayStart c.val l.val i.toNat 2 d →
    yields (.mendStep c l i ups) s fun t => t.arr.heddles = s.arr.heddles ∧ t.mem = s.mem ∧
      (mendFaults ups ≠ [] → Report.residue 4 (l.val * 16 + (s.stepAt c.val l.val i.toNat).unit) ∈ t.agg ∧
        ∀ k ∈ s.servedSlots c.val (s.stepAt c.val l.val i.toNat).slot, (t.batch c.val k).attempt.residueBad = true))

/-- A FULL step leaves at DST the bytes of its function (R119) and, unless it consumes reduction words, changes no other byte;
a SAMPLE step leaves at DST the token of each of its positions (R205, R207); an ATTN step that does not lead leaves its
partials in its own place of the merge area, and one that leads its rows at DST (R140-R144). Each result that its memory
does not take is refused: nothing is stored, and the refusal is reported (R22, R150).
Rests in part on the model's own choices or readings: log entries 9, 10, 18, 25. -/
def Obligations.VectorStepsWriteTheirResult : Prop :=
  (∀ (s : State) (c : Fin 256) (l : Fin 5) (i : BitVec 18) (ups : List Upset) (d : Due),
      s.mayStart c.val l.val i.toNat 3 d →
    let st := s.stepAt c.val l.val i.toNat
    let p := stepParam (s.image c.val) st 32
    let seen := s.seenBy c.val l.val ups (fullReads (s.recipe c.val) p (addrLocal st.src))
    let bytes := (seen.fullCompute c.val (s.slotPos c.val l.val st) st p ups).bytes
    let a := addrLocal st.dst
    let status := s.fabricStatus c.val l.val 1 a bytes.length
    yields (.fullStep c l i ups) s fun t =>
      (status = 0 → t.read a bytes.length = bytes) ∧ (status ≠ 0 → Report.nackGot status ∈ t.agg) ∧
      (fullFn p ≠ 1 → status ≠ 0 → t.mem = s.mem) ∧
      (fullFn p ≠ 1 → ∀ b, b < a ∨ a + bytes.length ≤ b → t.byte b = s.byte b)) ∧
  (∀ (s : State) (c : Fin 256) (l : Fin 5) (i : BitVec 18) (d : Due),
      s.mayStart c.val l.val i.toNat 3 d →
    let st := s.stepAt c.val l.val i.toNat
    let p := stepParam (s.image c.val) st 32
    let a := addrLocal st.dst
    loomOfAddr (addrLocal st.src) = l.val → loomOfAddr (addrLocal (fullAux1 p)) = l.val → loomOfAddr a = l.val →
    fullFn p = 2 → yields (.fullStep c l i []) s fun t => t.read a (4 * fullN p) = f32Bytes (List.zipWith f32Add
      (s.vec (addrLocal st.src) (fullN p)) (s.vec (addrLocal (fullAux1 p)) (fullN p)))) ∧
  (∀ (s : State) (c : Fin 256) (l : Fin 5) (i : BitVec 18) (ups : List Upset) (d : Due) (q : Request),
      s.mayStart c.val l.val i.toNat 0xC d → s.slotReq c.val (s.stepAt c.val l.val i.toNat).slot = some q →
      sramHolds ups →
    let st := s.stepAt c.val l.val i.toNat
    let p := stepParam (s.image c.val) st 32
    let a := addrLocal st.dst
    let r := s.recipe c.val
    let n := samplePositions p
    let v := sampleVocab p
    let act := addrLocal (sampleAct p)
    let len := recordsLen r (sampleLayer p)
    let seen := s.seenBy c.val 4 ups
      [(act, len), (addrLocal st.src, 8 * n * v), (addrLocal (twinAddr (s.image c.val) st.src), 8 * n * v)]
    let w := layActWidth r (sampleLayer p)
    let eMin := eMinOf (parseActs w (layChannels r (sampleLayer p) / 64) (seen.read act len))
    let logits := (seen.consumedAll [] (addrLocal st.src) (n * v)).map fun x =>
      (convertWord eMin (sampleWref p) (tenScale r (sampleTensor p)) x.val).1
    let base := s.runBase c.val st.slot q
    let first := if q.state = 1 then base + s.runPositions c.val st.slot - 1 + 1
      else base + sampleOffset (s.image c.val) st + 1
    let status := s.fabricStatus c.val 4 1 a (4 * n)
    yields (.sampleStep c l i ups) s fun t =>
      (status ≠ 0 → Report.nackGot status ∈ t.agg) ∧
      (status = 0 → ∀ j, j < n →
        t.readLe (a + 4 * j) 4 = sampleToken s.sec.tableSet (sampleProposer p) q.temperature q.topK q.topP q.seed (first + j)
          ((logits.drop (j * v)).take v) % 2 ^ 32)) ∧
  (∀ (s : State) (c : Fin 256) (l : Fin 5) (i : BitVec 18) (ups : List Upset) (d : Due) (q : Request),
      s.mayStart c.val l.val i.toNat 4 d → s.slotReq c.val (s.stepAt c.val l.val i.toNat).slot = some q →
    let st := s.stepAt c.val l.val i.toNat
    let a := parseAttn (stepParam (s.image c.val) st 64)
    let rows := (s.attnSpan c.val l.val i.toNat st a).2 * a.heads
    let put := addrLocal a.merge + a.rank * roundUp (rows * 4 * (2 + a.dim)) 64
    let stores (t : State) (at_ : Nat) (bytes : Bytes) : Prop :=
      let status := s.fabricStatus c.val l.val 1 at_ bytes.length
      (status = 0 → t.read at_ bytes.length = bytes) ∧ (status ≠ 0 → Report.nackGot status ∈ t.agg)
    yields (.attnStep c l i ups) s fun t =>
      (t.shuttle (l.val * 96 + st.unit)).latent = a.latent ∧ (t.shuttle (l.val * 96 + st.unit)).context = c.val ∧
      (bitOf st.flags 0 = false → ∃ parts : List Partial, parts.length = rows ∧ stores t put (parts.flatMap partialBytes)) ∧
      (bitOf st.flags 0 = true → ∃ outs : List F32, stores t (addrLocal st.dst) (f32Bytes outs)))

/-- PUT, GET and ADD steps: through an Xeast port the operation leaves with its header sealed, its pieces the source bytes as
the step read them, and no byte of memory changes (R149); behind it leave the page blocks that the step hands off (R218). Within
the package a PUT or GET that the memory takes copies its LENGTH bytes and an ADD adds each word (R110); one that the memory
refuses writes nothing, both ends report, and the step's slots are marked (R22, R150).
Rests in part on the model's own choices or readings: log entries 18, 35. -/
def Obligations.MovesAndRemoteIssues : Prop :=
  (∀ (s : State) (c : Fin 256) (l : Fin 5) (i : BitVec 18) (ups : List Upset) (d : Due) (cmd : Instr) (k opc : Nat),
      ((cmd = .putStep c l i ups ∧ k = 5 ∧ opc = 1) ∨ (cmd = .addStep c l i ups ∧ k = 7 ∧ opc = 4)) →
      s.mayStart c.val l.val i.toNat k d →
    let st := s.stepAt c.val l.val i.toNat
    let src := addrLocal st.src
    let dst := addrLocal st.dst
    let n := st.length
    let seen := s.seenBy c.val l.val ups [(src, n)]
    let status := if st.unit = 0x1F then s.fabricStatus c.val l.val opc dst n else s.nackStatus c.val opc dst n
    yields cmd s fun t =>
      (st.unit ≤ 8 → t.mem = s.mem ∧ ∃ op ps pages, t.out = pages ++ .remote (9 * l.val + st.unit) (sealOp op) :: s.out ∧
        op = ⟨opc, 0, planPlace (s.image c.val), addrPlace st.dst, c.val, dst, 0, n, 0, ps⟩ ∧
        ps.flatMap (·.data) = seen.read src n ∧
        (k = 7 ∨ s.handingOff c.val st = none → pages = []) ∧
        (∀ q, k = 5 → s.handingOff c.val st = some q →
          pages.reverse = (s.handOffBlocks c.val l.val i.toNat st).map fun b =>
            .pageOut (9 * l.val + st.unit) (s.stream q.stream).recvPlace (s.stream q.stream).recvStream b.1 b.2.1 b.2.2.1
              (s.read b.2.2.2 4096) (s.storedTally (b.2.2.2 / 4096)))) ∧
      (8 < st.unit → status = 0 → opc = 1 → s.wordRegion c.val dst n = false → s.kvt.unpublished = [] →
        t.read dst n = seen.read src n ∧ ∀ b, b < dst ∨ dst + n ≤ b → t.byte b = s.byte b) ∧
      (8 < st.unit → status = 0 → ups = [] → loomOfAddr src = l.val → n % 8 = 0 → s.mem.tallyErr = [] →
          (opc = 4 ∨ s.wordRegion c.val dst n = true ∧ s.kvt.unpublished = []) →
        (∀ j, j < n / 8 → t.redWord (dst + 8 * j) =
          if opc = 4 then redAdd (s.redWord (dst + 8 * j)) (s.redWord (src + 8 * j)) else redStore (s.redWord (src + 8 * j))) ∧
        ∀ b, b < dst ∨ dst + n ≤ b → t.byte b = s.byte b) ∧
      (8 < st.unit → status ≠ 0 → t.mem = s.mem ∧ Report.nackGot status ∈ t.agg ∧ Report.nackSent status ∈ t.agg ∧
        ∀ j ∈ s.servedSlots c.val st.slot, (t.batch c.val j).attempt.nackBad = true)) ∧
  (∀ (s : State) (c : Fin 256) (l : Fin 5) (i : BitVec 18) (ups : List Upset) (d : Due), s.mayStart c.val l.val i.toNat 6 d →
    let st := s.stepAt c.val l.val i.toNat
    let src := addrLocal st.src
    let dst := addrLocal st.dst
    let n := st.length
    let status := s.fabricStatus c.val l.val 1 dst n
    yields (.getStep c l (i, ups)) s fun t =>
      (st.unit ≤ 8 → t.mem = s.mem ∧ t.out = .remote (9 * l.val + st.unit) (sealOp
        ⟨2, 0, planPlace (s.image c.val), addrPlace st.src, c.val, dst, src, n, 0, []⟩) :: s.out) ∧
      (st.unit = 0x1F → status = 0 → t.read dst n = (s.seenBy c.val l.val ups [(src, n)]).read src n ∧
        ∀ b, b < dst ∨ dst + n ≤ b → t.byte b = s.byte b) ∧
      (8 < st.unit → st.unit ≠ 0x1F → status = 0 → s.nackStatus c.val 2 src n = 0 → ups = [] → s.kvt.unpublished = [] →
        t.read dst n = s.outsideBytes src n ∧ ∀ b, b < dst ∨ dst + n ≤ b → t.byte b = s.byte b) ∧
      (8 < st.unit → status ≠ 0 → (st.unit = 0x1F ∨ s.nackStatus c.val 2 src n = 0) →
        t.mem = s.mem ∧ Report.nackGot status ∈ t.agg ∧ Report.nackSent status ∈ t.agg) ∧
      (8 < st.unit → st.unit ≠ 0x1F → s.nackStatus c.val 2 src n ≠ 0 → t.mem = s.mem ∧
        Report.nackGot (s.nackStatus c.val 2 src n) ∈ t.agg))

/-- An operation that arrives and is not accepted writes nothing and is answered by a NACK with its STATUS, reported; one
whose header fails its tally is discarded and reported, an ACK or NACK too (R150, R151).
Rests in part on the model's own choices or readings: log entries 19, 35. -/
def Obligations.RefusedOperationsWriteNothing : Prop :=
  (∀ (s : State) (c : Fin 256) (l : Fin 5) (i : BitVec 18) (st : Fin 5) (err : Word), err ≠ 0 →
    exec (.ack c l (i, err)) s = .next { s with agg := .headerTally :: s.agg } ∧
    exec (.nack c l (i, err) st) s = .next { s with agg := .headerTally :: s.agg }) ∧
  ∀ (s : State) (op : RemoteOp) (path : BitVec 16) (cmd : Instr) (opc a n : Nat),
      (cmd, opc, a, n) ∈ [(Instr.put op path, 1, op.dstAddr, op.length), (.get op path, 2, op.srcAddr, op.length),
        (.add48 op path, 4, op.dstAddr, op.length), (.knotSet op path, 5, op.dstAddr, 8)] →
      ¬(cmd = .put op path ∧ 32 ≤ path.toNat ∧ path.toNat < 36) → s.awake = true →
    (op.tally = crc32c (opHeader op) → op.opc = opc → s.nackStatus op.context opc a n ≠ 0 →
      yields cmd s fun t => t.mem = s.mem ∧ t.agg = .nackSent (s.nackStatus op.context opc a n) :: s.agg ∧
        t.out = .remote path.toNat (sealOp ⟨7, s.nackStatus op.context opc a n, op.dstPlace, op.srcPlace, op.context, 0, 0, 0,
          0, []⟩) :: s.out ∧ t = { s with ports := t.ports, agg := t.agg, out := t.out }) ∧
    (op.tally ≠ crc32c (opHeader op) → yields cmd s fun t => t.mem = s.mem ∧ t.agg = .headerTally :: s.agg ∧
      (opc = 5 → t = { s with agg := .headerTally :: s.agg }))

/-- Operations that are accepted (R149-R152): a PUT's pieces are written as received and acknowledged; a GET is answered with
its data; each operand of an ADD48 is added; a KNOT_SET adds its value to the knot; GET_DATA is written where its GET step
asked and, like an ACK, takes one operation from the step's count, and closes the step if it had ended; a NACK marks the
slots of the step and is reported. Where a KNOT_SET of an earlier run of the step waits, it is that which is answered.
Rests in part on the model's own choices or readings: log entry 35. -/
def Obligations.AcceptedOperationsTakeEffect : Prop :=
  (∀ (s : State) (op : RemoteOp) (path : BitVec 16), s.awake = true → ¬(32 ≤ path.toNat ∧ path.toNat < 36) →
      op.tally = crc32c (opHeader op) → op.opc = 1 → s.nackStatus op.context 1 op.dstAddr op.length = 0 →
      s.wordRegion op.context op.dstAddr op.length = false → s.kvt.unpublished = [] →
    yields (.put op path) s fun t =>
      let bs := op.pieces.flatMap (·.data)
      t.read op.dstAddr bs.length = bs ∧ (∀ b, b < op.dstAddr ∨ op.dstAddr + bs.length ≤ b → t.byte b = s.byte b) ∧
      t.out = .remote path.toNat (sealOp ⟨6, 0, op.dstPlace, op.srcPlace, op.context, 0, 0, 0, 0, []⟩) :: s.out) ∧
  (∀ (s : State) (op : RemoteOp) (path : BitVec 16), s.awake = true → op.tally = crc32c (opHeader op) → op.opc = 2 →
      s.nackStatus op.context 2 op.srcAddr op.length = 0 →
    yields (.get op path) s fun t => t.mem = s.mem ∧ ∃ ps,
      t.out = .remote path.toNat (sealOp ⟨3, 0, op.dstPlace, op.srcPlace, op.context, op.dstAddr, 0, op.length, 0, ps⟩) :: s.out ∧
      ps.flatMap (·.data) = s.outsideBytes op.srcAddr op.length) ∧
  (∀ (s : State) (op : RemoteOp) (path : BitVec 16), s.awake = true → op.tally = crc32c (opHeader op) → op.opc = 4 →
      s.nackStatus op.context 4 op.dstAddr op.length = 0 → (∀ p ∈ op.pieces, pieceErr p = 0 ∧ p.data.length % 8 = 0) →
    yields (.add48 op path) s fun t =>
      let bs := op.pieces.flatMap (·.data)
      (∀ j, j < bs.length / 8 → t.redWord (op.dstAddr + 8 * j) =
        redAdd (s.redWord (op.dstAddr + 8 * j)) (parseRed (le bs (8 * j) 8))) ∧
      (∀ b, b < op.dstAddr ∨ op.dstAddr + bs.length ≤ b → t.byte b = s.byte b)) ∧
  (∀ (s : State) (op : RemoteOp) (path : BitVec 16), s.awake = true → op.tally = crc32c (opHeader op) → op.opc = 4 →
      s.nackStatus op.context 4 op.dstAddr op.length = 0 → (∀ p ∈ op.pieces, pieceErr p ≠ 0 ∧ p.data.length % 8 = 0) →
    yields (.add48 op path) s fun t => ∀ j, j < (op.pieces.flatMap (·.data)).length / 8 →
      t.redWord (op.dstAddr + 8 * j) = { s.redWord (op.dstAddr + 8 * j) with fail := true }) ∧
  (∀ (s : State) (op : RemoteOp) (path : BitVec 16), s.awake = true → op.tally = crc32c (opHeader op) → op.opc = 5 →
      s.nackStatus op.context 5 op.dstAddr 8 = 0 →
    yields (.knotSet op path) s fun t =>
      t.knotSets op.dstAddr = ((s.knot op.dstAddr + op.length) % 2 ^ 64, s.clk.pick, op.srcPlace) :: s.knotSets op.dstAddr ∧
      (s.obs.trcBuf.on = false → s.kvt.unpublished = [] → t.knot op.dstAddr = (s.knot op.dstAddr + op.length) % 2 ^ 64)) ∧
  (∀ (s : State) (op : RemoteOp) (path : BitVec 16) (r : Run), s.awake = true → op.tally = crc32c (opHeader op) → op.opc = 3 →
      s.getRun op.context path.toNat op.dstAddr = some r → s.kvt.unpublished = [] → r.ended = none →
    yields (.getData op path) s fun t =>
      let bs := op.pieces.flatMap (·.data)
      t.read op.dstAddr bs.length = bs ∧ (∀ b, b < op.dstAddr ∨ op.dstAddr + bs.length ≤ b → t.byte b = s.byte b) ∧
      { r with outstanding := r.outstanding - 1, ackOfs := some ((s.clk.pick : Int) - r.start) } ∈ t.sched.runs) ∧
  (∀ (s : State) (c : Fin 256) (l : Fin 5) (i : BitVec 18) (r : Run), s.outRun c.val l.val i.toNat = some r →
      s.sched.sets.contains (c.val, l.val, i.toNat) = false →
    yields (.ack c l (i, 0)) s fun t =>
      (r.ended = none ∨ 1 < r.outstanding →
        { r with outstanding := r.outstanding - 1, ackOfs := some ((s.clk.pick : Int) - r.start) } ∈ t.sched.runs ∧
        t = { s with sched := t.sched }) ∧
      (r.ended.isSome = true → r.outstanding = 1 → ∀ x ∈ t.sched.runs,
        ¬(sameRun c.val l.val i.toNat x = true ∧ x.iter = r.iter))) ∧
  (∀ (s : State) (c : Fin 256) (l : Fin 5) (i : BitVec 18) (st : Fin 5), (s.outRun c.val l.val i.toNat).isSome = true ∨
        s.sched.sets.contains (c.val, l.val, i.toNat) = true →
    yields (.nack c l (i, 0) st) s fun t => t.agg = .nackGot st.val :: s.agg ∧
      ∀ k ∈ s.servedSlots c.val (s.stepAt c.val l.val i.toNat).slot, (t.batch c.val k).attempt.nackBad = true) ∧
  (∀ (s : State) (c : Fin 256) (l : Fin 5) (i : BitVec 18) (st : Fin 5),
      s.sched.sets.contains (c.val, l.val, i.toNat) = true →
    let after := { s.sched with sets := s.sched.sets.erase (c.val, l.val, i.toNat) }
    exec (.ack c l (i, 0)) s = .next { s with sched := after } ∧ yields (.nack c l (i, 0) st) s fun t => t.sched = after)

/-- A BATCH step is the boundary at which requested masking, strict mode and mask take effect (R168, R270) and at which the
slot of a Done request is released; where the engine fills, the first eligible request of a ring takes the slot, is then in
its prompt, and its steps run from the end of the BATCH step on (R200, R201).
Rests in part on the model's own choices or readings: log entries 26, 36. -/
def Obligations.BatchBoundary : Prop :=
  (∀ (s : State) (c : Fin 256) (i : BitVec 18) (ups : List Upset) (d : Due), s.mayStart c.val 4 i.toNat 0xB d → sramHolds ups →
    yields (.batchStep c 4 (i, ups)) s fun t =>
      let x := (t.ctx c.val).ctl
      let y := (s.ctx c.val).ctl
      let p := stepParam (s.image c.val) (s.stepAt c.val 4 i.toNat) 16
      x.maskEff = y.maskReq ∧ x.strictEff = y.strictReq ∧ x.strictMaskEff = y.strictMaskReq ∧ x.state = y.state ∧
      ((s.ctx c.val).ctl.state ≠ 4 ∨ (s.ctx c.val).ctl.cut = true →
        (∀ k, batchFirst p ≤ k → k < batchFirst p + batchCount p → s.slotReq c.val k ≠ none →
          (t.batch c.val k).req = (s.batch c.val k).req) ∧
        (0 < batchCount p → s.slotReq c.val (batchFirst p) = none → (t.batch c.val (batchFirst p)).req = none))) ∧
  (∀ (s : State) (c k b from_ : Nat) (lead : Bool) (q : Request) (rest : List Request), s.request q.id = some q → s.mayFill c k q = true →
      s.condSix c k q = true → s.condNine c k q = true →
    ∃ t, State.searchRing c k b from_ lead (q :: rest) s = (t, true) ∧ t.request q.id = some { q with state := 1, slot := k } ∧
      (t.batch c k).req = some q.id ∧ (t.batch c k).firstPick = from_ ∧ (t.batch c k).base = t.commitOf q.stream)

/-- An EMIT step of a Generating request whose window checks clean (R208, R214): the tokens are the leading proposals that
match and one more of the main model's, cut at a stop token and at MAX_NEW; each has its record, the request and COMMIT advance by
their number, the tenant is charged for them, at least 1, and the request is Done when the cut says so (R202-R204). The completion
pick is the step's start pick in the iteration (R211). A request cancelled before it ends with its FINAL record (R213).
Rests in part on the model's own choices or readings: log entries 27, 28. -/
def Obligations.EmitAdvancesTheRequest : Prop :=
  (∀ (s : State) (c : Fin 256) (i : BitVec 18) (ups : List Upset) (d : Due) (q : Request), s.mayStart c.val 4 i.toNat 0xD d →
      s.slotReq c.val (s.stepAt c.val 4 i.toNat).slot = some q → q.state = 2 → q.cancelAt = none →
      (s.ctx c.val).ctl.twillEff = false → (s.ctx c.val).ctl.strictEff = false → sramHolds ups →
    let st := s.stepAt c.val 4 i.toNat
    let p := stepParam (s.image c.val) st 32
    let w := max (emitW p) 1
    let reads := (addrLocal (emitMain p), 4 * w) :: if 1 < w then [(addrLocal (emitProp p), 4 * (w - 1))] else []
    let seen := s.seenBy c.val 4 ups reads
    let main := word32s w (seen.read (addrLocal (emitMain p)) (4 * w))
    let prop := if 1 < w then word32s (w - 1) (seen.read (addrLocal (emitProp p)) (4 * (w - 1))) else []
    let a := min (matches? prop main) (w - 1)
    let cut := cutTokens q.stop0 q.stop1 (q.maxNew - q.emitted) (main.take (a + 1))
    let n := cut.1.length
    let b := s.batch c.val st.slot
    let tn := s.tenant (s.ring q.ring).tenant
    (∀ x ∈ reads, s.fabricStatus c.val 4 2 x.1 x.2 = 0 ∧ s.failingBlocks ups x.1 x.2 = []) →
    b.attempt = {} → b.check = {} → b.raised = [] → (if cut.2 then n - 1 else n) ≤ s.recordRoom q.ring →
    yields (.emitStep c 4 (i, ups)) s fun t =>
      t.request q.id = some { q with
        state := if cut.2 then 4 else 2, emitted := q.emitted + n
        finalPick := if cut.2 then some d.start else q.finalPick } ∧
      ((s.ring q.ring).up = true → (t.ring q.ring).fresh.length = (s.ring q.ring).fresh.length + n) ∧
      t.commitOf q.stream = (s.commitOf q.stream + n) % 2 ^ 32 ∧
      (tn.writtenAt ≠ some s.clk.elapsed → tn.beforeRefill.map (·.1) ≠ some s.clk.elapsed →
        (t.tenant (s.ring q.ring).tenant).bal = max (tn.bal - max n 1) (-(2 ^ 31 : Int))) ∧
      (t.batch c.val st.slot).lastToken = cut.1.getLastD b.lastToken) ∧
  (∀ (s : State) (c : Fin 256) (i : BitVec 18) (ups : List Upset) (d : Due) (q : Request) (x : Nat), s.mayStart c.val 4 i.toNat 0xD d →
      s.slotReq c.val (s.stepAt c.val 4 i.toNat).slot = some q → q.cancelAt = some x → x < d.start → sramHolds ups →
      (s.batch c.val (s.stepAt c.val 4 i.toNat).slot).raised = [] →
    yields (.emitStep c 4 (i, ups)) s fun t =>
      t.request q.id = some { q with state := 4, finalPick := some d.start } ∧ t.commitOf q.stream = s.commitOf q.stream)

/-! ## Harnesses -/

/-- Requests of a harness state and the transitions (R69, R70, Table 2.9): a return from Off reprograms, and is held and
recorded while the tier lies outside the programming window; Retention is refused to an Off harness, and leaving Active to one
that an enabled plan uses, counted; Off withdraws a held return. A transition ends once the harness is not busy: Off loses its
cells; a wake from Retention is Active; a return from Off has reprogrammed and begins its full trim, whose end makes it Active.
Rests in part on the model's own choices or readings: log entries 19, 21. -/
def Obligations.HarnessStatesChange : Prop :=
  (∀ (s : State) (who : Who) (j : Nat), s.actsPrv who j →
    let h := (s.sel j).harn
    let x := s.harness h
    yields (.harnessReqActive who) s fun t => (t.harness h).req = 1 ∧ (∀ k, k ≠ h → t.harness k = s.harness k) ∧
      (s.outOfUse 1 h = true → t.harness h = { x with req := 1 } ∧ t.agg = .ignoredRequest h :: s.agg) ∧
      (s.outOfUse 1 h = false → x.state = 0 → t.harness h = { x with
          req := 1, state := 3, goal := some 1, reprogram := true, held := !s.tierInWindow (tierOfHarness h)
          heldAt := s.clk.wall } ∧
        t.agg = if s.tierInWindow (tierOfHarness h) then s.agg else .heldReturn h :: s.agg) ∧
      (s.outOfUse 1 h = false → x.state = 2 → t.harness h = { x with
          req := 1, state := 3, goal := some 1, wakeWall := some s.clk.wall } ∧ t.agg = s.agg) ∧
      (x.state = 1 → s.outOfUse 1 h = false → t.harness h = { x with req := 1 } ∧ t.agg = s.agg)) ∧
  (∀ (s : State) (who : Who) (j : Nat), s.actsPrv who j →
    let h := (s.sel j).harn
    let x := s.harness h
    yields (.harnessReqRetention who) s fun t => (t.harness h).req = 2 ∧ (∀ k, k ≠ h → t.harness k = s.harness k) ∧
      (x.state = 0 ∨ s.harnessInPlan h = true → t.harness h = { x with req := 2 } ∧ t.agg = .ignoredRequest h :: s.agg) ∧
      (x.state = 1 → s.harnessInPlan h = false →
        (t.harness h).state = 3 ∧ (t.harness h).goal = some 2 ∧ (t.harness h).calAt = none ∧ t.agg = s.agg) ∧
      (x.state = 2 → s.harnessInPlan h = false → t.harness h = { x with req := 2 } ∧ t.agg = s.agg)) ∧
  (∀ (s : State) (who : Who) (j : Nat), s.actsPrv who j →
    let h := (s.sel j).harn
    let x := s.harness h
    yields (.harnessReqOff who) s fun t => (t.harness h).req = 0 ∧ (∀ k, k ≠ h → t.harness k = s.harness k) ∧
      (x.held = true → t.harness h = { x with req := 0, state := 0, goal := none, held := false, reprogram := false }) ∧
      (x.held = false → s.harnessInPlan h = true → t.harness h = { x with req := 0 } ∧ t.agg = .ignoredRequest h :: s.agg) ∧
      (x.held = false → s.harnessInPlan h = false → x.state ≠ 0 →
        (t.harness h).state = 3 ∧ (t.harness h).goal = some 0 ∧ t.agg = s.agg)) ∧
  (∀ (s : State) (h : Fin 4096), s.powered = true → (s.harness h.val).state = 3 → (s.harness h.val).held = false →
      (s.harness h.val).trimBusy = false → s.harnessBusy h.val = false →
    let x := s.harness h.val
    yields (.harnessTransitionDone h) s fun t =>
      (x.goal = some 0 → (t.harness h.val).state = 0 ∧ ∀ g, harnessOfHeddle g = h.val →
        (t.heddle g).rows = [] ∧ (t.heddle g).exps = [] ∧ (t.heddle g).programmed = false) ∧
      (x.goal = some 2 → (t.harness h.val).state = 2 ∧ t.arr.heddles = s.arr.heddles) ∧
      (x.goal = some 1 → x.reprogram = true → s.tierInWindow (tierOfHarness h.val) = false →
        t.harness h.val = { x with held := true, heldAt := s.clk.wall } ∧ t.agg = .heldReturn h.val :: s.agg) ∧
      (x.goal = some 1 → x.reprogram = true → s.tierInWindow (tierOfHarness h.val) = true →
        t.harness h.val = { x with trimBusy := true }) ∧
      (x.goal = some 1 → x.reprogram = false →
        (t.harness h.val).state = 1 ∧ (t.harness h.val).goal = none ∧ (t.harness h.val).calBase = 0 ∧
        (t.harness h.val).calAt = some s.clk.elapsed ∧ (t.harness h.val).reprogram = false)) ∧
  (∀ (s : State) (h : Fin 4096), (s.harness h.val).held = true → s.tierInWindow (tierOfHarness h.val) = true →
    yields (.harnessReturnResume h) s fun t => t.harness h.val = { s.harness h.val with held := false } ∧
      (∀ k, k ≠ h.val → t.harness k = s.harness k) ∧ t = { s with arr := t.arr })

/-- Calibration windows (R55, R57): a CAL step's own length, and 48 picks in the sequencer's windows for an Active harness that no
Running plan uses and at L - 48 for every harness of an Armed plan. At its end SINCE_CAL starts anew, and a full trim that is
spread over four windows advances; the last clears FULL_TRIM. A full trim outside a plan runs at once and ends with the harness
trimmed (R60, Table 2.17), and with the one of a return from Off the harness is Active.
Rests in part on the model's own choices or readings: log entry 22. -/
def Obligations.CalibrationWindowsAndTrims : Prop :=
  (∀ (s : State) (c : Fin 256) (l : Fin 5) (i : BitVec 18) (d : Due), s.mayStart c.val l.val i.toNat 9 d →
    let st := s.stepAt c.val l.val i.toNat
    let h := l.val * 1024 + st.unit
    yields (.calStep c l i) s fun t => t.arr = { s.arr with windows := s.arr.windows.filter (fun w => w.harness != h) ++
      [⟨h, s.clk.elapsed + st.len, (s.harness h).trimWindows != 0, (s.loom (loomOfHarness h)).retrimBusy⟩] }) ∧
  (∀ (s : State) (c : Fin 256), s.up = true → (s.ctx c.val).ctl.state = 3 →
      (s.ctx c.val).ctl.launchPick = some (s.clk.pick + 48) →
    yields (.launchCalWindow c) s fun t => t = { s with arr := { s.arr with windows := t.arr.windows } } ∧
      ∀ x ∈ planSteps (s.image c.val),
        let d := stepDomain x.1 (s.physStep c.val x.1 x.2.2)
        d.1 = 1 → ⟨d.2, s.clk.elapsed + 48, (s.harness d.2).trimWindows != 0, (s.loom (loomOfHarness d.2)).retrimBusy⟩ ∈
          t.arr.windows) ∧
  (∀ (s : State) (h : Fin 4096), s.awake = true → (s.harness h.val).state = 1 → (s.harness h.val).trimBusy = false →
      s.harnessRuns h.val = false → s.troubled 1 h.val = false → (∀ w ∈ s.arr.windows, w.harness ≠ h.val) →
      250000 ≤ s.sinceCal h.val + 48 →
    exec (.sequencerCalWindow h) s = .next { s with arr := { s.arr with windows := s.arr.windows ++
      [⟨h.val, s.clk.elapsed + 48, (s.harness h.val).trimWindows != 0, (s.loom (loomOfHarness h.val)).retrimBusy⟩] } }) ∧
  (∀ (s : State) (w : CalWindow) (a b : List CalWindow), s.pwr.input = true → s.pwr.oscFailed = false →
      s.arr.windows = a ++ w :: b → (∀ v ∈ a ++ b, v.harness ≠ w.harness) → w.ends ≤ s.clk.elapsed + 1 →
      notedNow (s.harness w.harness).setAt 9 s.clk.elapsed = false →
    let x := s.harness w.harness
    yields .pickBoundary s fun t =>
      let y := t.harness w.harness
      y.calBase = 0 ∧ y.calAt = (if x.state = 1 then some (s.clk.elapsed + 1) else none) ∧
      y.trimWindows = (if w.trim then x.trimWindows - 1 else x.trimWindows) ∧
      y.trimBit = (x.trimBit && !(w.trim && x.trimWindows == 1)) ∧ ∀ v ∈ t.arr.windows, v.harness ≠ w.harness) ∧
  (∀ (s : State) (who : Who) (j : Nat), s.actsPrv who j →
    let h := (s.sel j).harn
    let x := { s.harness h with trimBit := true, setAt := note (s.harness h).setAt 9 s.clk.elapsed }
    yields (.fullTrim who) s fun t => (∀ k, k ≠ h → t.harness k = s.harness k) ∧ t = { s with arr := t.arr } ∧
      (x.state ≠ 1 → t.harness h = x) ∧
      (x.state = 1 → s.harnessRuns h = true →
        t.harness h = { x with trimWindows := if x.trimWindows = 0 then 4 else x.trimWindows }) ∧
      (x.state = 1 → s.harnessRuns h = false → t.harness h = { x with trimBusy := true })) ∧
  (∀ (s : State) (h : Fin 4096), (s.harness h.val).trimBusy = true → s.powered = true →
      notedNow (s.harness h.val).setAt 9 s.clk.elapsed = false →
    let x := s.harness h.val
    yields (.fullTrimDone h) s fun t => (t.harness h.val).trimBusy = false ∧ (t.harness h.val).trimBit = false ∧
      (t.harness h.val).trimWindows = 0 ∧ (t.harness h.val).calBase = 0 ∧
      (x.state = 1 ∨ x.state = 3 ∧ x.goal = some 1 ∧ x.reprogram = true →
        (t.harness h.val).state = 1 ∧ (t.harness h.val).calAt = some s.clk.elapsed))

/-! ## Scrub, temperature and the monitor ADC -/

/-- A comparison marks a mismatched row for repair and counts it, and one without a readable pattern copy falls back on the
selvage and sets PATTERN_LOST (R64-R66); it waits while a targeted scrub or a late heddle goes ahead of it (R67, R68). A rewrite,
inside the programming window and while the harness runs no slot, gives the row its expected bits (R65); the end of a pass judges
the heddle marginal when C is at least 4 and C x 2^N exceeds V, and a marginal one asks for four trims (R62); 60 s without a
comparison set LATE, and scrub takes the heddle next (R67); a targeted scrub repairs its dent (R68); the patrol counts what it
corrects and changes no byte (R262).
Rests in part on the model's own choices or readings: log entry 21. -/
def Obligations.ScrubComparesAndRepairs : Prop :=
  (∀ (s : State) (g : Fin 262144) (row : Fin 512) (ups : List Upset), s.scrubs g.val = true → s.scrubTurn g.val = true →
      s.failingBlocks ups (patternAddr g.val) 0x9000 = [] →
    yields (.scrubRowCompare g row ups) s fun t =>
      (t.heddle g.val).patternLost = false ∧ (t.heddle g.val).rows = (s.heddle g.val).rows ∧
      (s.rowStored g.val row.val = s.rowExpected g.val row.val →
        (t.heddle g.val).repair = (s.heddle g.val).repair ∧ t.arr.mismatchRows = s.arr.mismatchRows) ∧
      (s.rowStored g.val row.val ≠ s.rowExpected g.val row.val → row.val ∈ (t.heddle g.val).repair ∧
        t.arr.mismatchRows = min 0xFFFF (s.arr.mismatchRows + 1))) ∧
  (∀ (s : State) (g : Fin 262144) (row : Fin 512) (ups : List Upset), s.scrubs g.val = true → s.scrubTurn g.val = true →
      s.failingBlocks ups (patternAddr g.val) 0x9000 ≠ [] →
    yields (.scrubRowCompare g row ups) s fun t => (t.heddle g.val).patternLost = true ∧ t.arr.scrubLost = true ∧
      Report.patternLost g.val ∈ t.agg ∧ (s.selvageBad g.val row.val = true → row.val ∈ (t.heddle g.val).repair) ∧
      (s.selvageBad g.val row.val = false → (t.heddle g.val).repair = (s.heddle g.val).repair)) ∧
  (∀ (s : State) (g : Fin 262144) (row : Fin 512) (ups : List Upset),
      (∃ x ∈ s.arr.targets, x.scrubbed = false) ∨ (∃ k rest, s.arr.scrubNext = k :: rest ∧ k ≠ g.val) →
    exec (.scrubRowCompare g row ups) s = .next s) ∧
  (∀ (s : State) (g : Fin 262144) (row : Fin 512), s.scrubs g.val = true → row.val ∈ (s.heddle g.val).repair →
      (s.harness (harnessOfHeddle g.val)).state = 1 → s.slotsRun (harnessOfHeddle g.val) = false →
      s.writable g.val = true → s.failingBlocks [] (patternAddr g.val) 0x9000 = [] →
    yields (.scrubRewrite g row) s fun t => t.rowStored g.val row.val = s.rowExpected g.val row.val ∧
      row.val ∉ (t.heddle g.val).repair ∧ (∀ r, r ≠ row.val → t.rowStored g.val r = s.rowStored g.val r) ∧
      (∀ k, k ≠ g.val → t.heddle k = s.heddle k) ∧ t = { s with arr := t.arr }) ∧
  (∀ (s : State) (g : Fin 262144), s.scrubs g.val = true → s.scrubTurn g.val = true →
    let x := s.heddle g.val
    let m := decide (4 ≤ x.passCorr ∧ x.passConvs < x.passCorr * 2 ^ s.arr.rateExp)
    yields (.scrubPassComplete g) s fun t =>
      t.heddle g.val = { x with marginal := m, passCorr := 0, passConvs := 0, lastCompare := s.clk.wall } ∧
      g.val ∉ t.arr.scrubNext ∧
      (m = true → (t.harness (harnessOfHeddle g.val)).trimWindows = 4 ∧ t.agg = .marginal g.val :: s.agg) ∧
      (m = false → t = { s with arr := t.arr })) ∧
  (∀ (s : State) (g : Fin 262144), s.scrubs g.val = true → 240000000000 < s.clk.wall - (s.heddle g.val).lastCompare →
    yields (.scrubLate g) s fun t => t.arr.scrubLate = true ∧ g.val ∈ t.arr.scrubNext ∧ t.agg = .scrubLate g.val :: s.agg ∧
      t = { s with arr := { s.arr with scrubLate := true, scrubNext := t.arr.scrubNext, setAt := t.arr.setAt }, agg := t.agg }) ∧
  (∀ (s : State) (g : Fin 262144) (d : Fin 8) (ups : List Upset), s.scrubs g.val = true → (∃ x ∈ s.arr.targets,
      x.heddle = g.val ∧ x.dent = d.val ∧ x.scrubbed = false) → s.failingBlocks ups (patternAddr g.val) 0x9000 = [] →
    let waits := s.slotsRun (harnessOfHeddle g.val) && s.repairable g.val && !(s.badRows g.val (dentRows d.val)).isEmpty
    (waits = true → exec (.targetedScrub g d ups) s = .next s) ∧
    (waits = false → yields (.targetedScrub g d ups) s fun t =>
      (s.repairable g.val = true → ∀ i, i < 64 → t.rowStored g.val (64 * d.val + i) = s.rowExpected g.val (64 * d.val + i)) ∧
      (∀ x ∈ t.arr.targets, x.heddle = g.val → x.dent = d.val → x.scrubbed = true) ∧
      (∀ c k, (t.batch c k).replayTargets = ((s.batch c k).replayTargets.filter (fun x => x != (g.val, d.val))) ∨
        s.ctxNums.contains c = false))) ∧
  (∀ (s : State) (b : BitVec 36) (units : List (Fin 64)) (bits : List (BitVec 512)), s.up = true → b.toNat * 4096 < hbmEnd → s.pwr.mode ≠ 3 →
    let m := eccMemory (b.toNat * 4096)
    let hit := struckUnits (patrolUpsets b.toNat units bits) (b.toNat * 4096) 4096
    let fixed := sumNat (hit.map (·.2.corrected))
    let lost := sumNat (hit.map (·.2.detected))
    let after (cap old n : Nat) : Nat := if n = 0 then old else min cap (old + n)
    yields (.hbmPatrol b units bits) s fun t => t.mem = s.mem ∧
      Tab.getD 0 t.health.eccCorr m = after 0xFFFFFF (Tab.getD 0 s.health.eccCorr m) fixed ∧
      Tab.getD 0 t.health.eccUncorr m = after 0xFF (Tab.getD 0 s.health.eccUncorr m) lost ∧
      t.agg = if lost = 0 then s.agg else .patrol (b.toNat * 4096) :: s.agg)

/-- THERMAL_UPDATE forms the hottest values, keeps the peaks, applies screening (R365), the re-trim rule (R58) and REQUEST,
set at 95.0 degrees with the THERMAL alert and cleared below 92.0 (R366). Under ENFORCE an evaluation adds 4 quarters at 95.0 or
above up to 64, below 92.0 and 100 ms after the last change removes 4 down to 16, and ENFORCE ends at 16 (R366); the end of
the grace makes the first. Clearing a peak leaves the current value (Table 13.10).
Rests in part on the model's own choices or readings: log entries 22, 53. -/
def Obligations.ThermalThrottle : Prop :=
  (∀ s : State, s.up = true → yields .thermalUpdate s fun t =>
    let hot := t.thm.moduleHot
    (∀ n, n < 5 → Tab.getD (0, 0) t.thm.hot n = s.hotNow n ∧ (s.hotNow n).1 ≤ hot ∧
      Tab.getD 0 t.thm.peak n = max (Tab.getD 0 s.thm.peak n) (s.hotNow n).1) ∧ (∃ n, n < 5 ∧ (s.hotNow n).1 = hot) ∧
    (s.sec.screen = 2 → t.thm.screenLen = 16) ∧
    (s.sec.screen ≠ 2 → (360 ≤ hot → t.thm.screenLen = 20) ∧ (340 ≤ hot → hot ≤ 352 → t.thm.screenLen = 18) ∧
      (hot ≤ 332 → t.thm.screenLen = 16)) ∧
    (380 ≤ hot → t.thm.request = true ∧ (s.thm.request = false → t.rcv.alertThermal = true ∧ t.thm.requestWall = s.clk.wall)) ∧
    (hot < 368 → t.thm.request = false) ∧ (368 ≤ hot → hot < 380 → t.thm.request = s.thm.request) ∧
    ((∀ c ∈ s.ctxNums, (s.ctx c).sw.programs = [] ∧ ∀ f ∈ (s.ctx c).ctl.flips, f.1 ≠ 1 ∨ f.2.2.2 = true) →
      ∀ l, l < 4 → s.booted = true → (s.loom l).retrimBusy = false → s.drifted l = true →
      (t.loom l).retrimBusy = true ∧ (t.loom l).tRef = s.loomHottest l ∧
      (t.loom l).retrimCount = ((s.loom l).retrimCount + 1) % 65536)) ∧
  (∀ (s : State) (cmd : Instr), s.up = true →
      (cmd = .throttleGraceEnd ∧ s.thm.request = true ∧ s.thm.enforce = false ∧ 1000000000 ≤ s.clk.wall - s.thm.requestWall) ∨
      (cmd = .throttleEval ∧ s.thm.enforce = true ∧ 40000000 ≤ s.clk.wall - s.thm.lastEval) →
    yields cmd s fun t =>
      (380 ≤ s.thm.moduleHot → t.thm.thermLen = min 64 (s.thm.thermLen + 4) ∧ t.thm.enforce = true) ∧
      (368 ≤ s.thm.moduleHot → s.thm.moduleHot < 380 → t.thm.thermLen = s.thm.thermLen ∧ t.thm.enforce = true) ∧
      (s.thm.moduleHot < 368 → (∀ w, s.thm.thermChange = some w → 400000000 ≤ s.clk.wall - w) →
        t.thm.thermLen = max 16 (s.thm.thermLen - 4) ∧ (t.thm.enforce = false ↔ t.thm.thermLen = 16)) ∧
      t.thm.lastEval = s.clk.wall ∧ t.clk.reqLen = t.localLen) ∧
  (∀ (s : State) (who : Who) (j : Nat) (n : Fin 5), s.actsAs who j →
    exec (.thmPeakClear who n) s = .next { s with thm := { s.thm with
      peak := Tab.put 0 s.thm.peak n.val (Tab.getD (0, 0) s.thm.hot n.val).1 } })

/-- Sensors convert in every state (R360). A sensor that reads 110.0 degrees or above in two consecutive conversions and is
not suspect trips the module (R368, R369): it logs KIND 0x0B and DETECTOR 0x0E, records the sensor, shuts the host site down
and turns off its rails; the pick counter and the escalation state stay. It restarts after 10 s below 80.0 degrees and boots
with every context closed and every memory lost; after power loss it powers up once no sensor reads 100.0 or more (R370).
Rests in part on the model's own choices or readings: log entries 44, 53. -/
def Obligations.TripAndRestart : Prop :=
  (∀ (s : State) (n : Fin 944) (reading : BitVec 11), s.pwr.input = true → s.pwr.oscFailed = false →
    let x := (s.sensor n.val).convert (s.soundReadings (sensorNear n.val)) reading.toInt
    yields (.sensorConversion n reading) s fun t =>
      t.sensor n.val = x.1 ∧ x.1.reading = reading.toInt ∧ (∀ k, k ≠ n.val → t.sensor k = s.sensor k) ∧
      (x.2 = false → s.pwr.tripped = false → (x.1.hot < 2 ∨ x.1.suspect = true ∧
        ∀ k ∈ sensorNear n.val, k ≠ n.val → (s.sensor k).reading < 400) →
        n.val ∉ sensorNear n.val → t = { s with thm := t.thm }) ∧
      (x.2 = false → s.pwr.tripped = false → 440 ≤ reading.toInt → 1 ≤ (s.sensor n.val).hot → x.1.suspect = false →
        t.pwr.tripped = true ∧ t.powered = false ∧ s.logged t 0xB 0 0xE ∧ t.thm.tripSensor = n.val ∧
        t.hs.railsOn = false ∧ t.hs.shut = true ∧ t.acc.linksUp = [] ∧ t.sched.runs = [] ∧ t.clk = s.clk ∧
        t.rcv.modTotal = s.rcv.modTotal)) ∧
  (∀ (s : State) (w : Nat), s.pwr.input = true → s.pwr.oscFailed = false → s.pwr.tripped = true → s.pwr.coldStart = false →
      s.thm.coolSince = some w → 40000000000 ≤ s.clk.wall - w →
    yields .tripRestart s fun t => t.pwr.tripped = false ∧ t.sec.stage = 0 ∧ t.sec.bootCause = 2 ∧ t.mem.bytes = [] ∧
      t.ctxs = [] ∧ t.clk.pick = s.clk.pick ∧ t.health.events = s.health.events ∧ t.rcv.log = s.rcv.log ∧
      t.thm.tripCount = s.thm.tripCount ∧ t.rcv.modTotal = min 0xFFFF (s.rcv.modTotal + 1)) ∧
  (∀ s : State, s.pwr.input = true → s.pwr.oscFailed = false → s.pwr.tripped = true → s.pwr.coldStart = true →
      s.tooHot = false →
    yields .tripRestart s fun t => t.pwr.tripped = false ∧ t.pwr.coldStart = false ∧
      t.hs.railsOn = s.hs.present ∧ t = { s with pwr := t.pwr, hs := t.hs, sec := { s.sec with stageWall := s.clk.wall } })

/-- Each command of the monitor ADC answers a next state: a period gives a ready channel one result, the raw count calibrated by OFFSET and GAIN and clamped to
full scale, added to its sum, count, MIN and MAX (R375); a channel that calibrates holds them (R378); over the ceiling or the
input maximum capping lengthens its request by 4 quarters (R358). A read of MON_ACC_LO latches the others (R376); CLEAR,
SOURCE, CAL, PERIOD and restored values act at the next boundary (R373, R376-R379), SOURCE on an ordinary channel only.
Rests in part on the model's own choices or readings: log entries 12, 52. -/
def Obligations.MonitorChannels : Prop :=
  (∀ (s : State) (raw : List (BitVec 24 × Bool)), s.up = true → s.mon.calPhase = none → s.mon.periodReq = none →
    ∃ t, exec (.monPeriodEnd raw) s = .next t ∧
      (∀ n, n < 32 → (s.chan n).ready = true → (s.chan n).clearNext = false →
        let x := s.chan n
        let v : Int := (((raw.getD n (0, false)).1.toNat : Int) - x.ofs) * x.gain / 2 ^ 20
        let c := (max 0 (min v (fullScale n))).toNat
        (t.chan n).acc = (x.acc + c) % 2 ^ 64 ∧ (t.chan n).count = (x.count + 1) % 2 ^ 32 ∧ (t.chan n).max = max x.max c ∧
        (t.chan n).min = (if x.count = 0 ∧ x.acc = 0 ∧ x.max = 0 then c else min x.min c) ∧ (t.chan n).last = c ∧
        (t.chan n).stale = false) ∧
      (∀ n, n < 32 → (s.chan n).ready = true → (s.chan n).clearNext = true → (t.chan n).count = 1 ∧
        (t.chan n).acc = (t.chan n).last ∧ (t.chan n).min = (t.chan n).last ∧ (t.chan n).max = (t.chan n).last) ∧
      ((∀ n, n < 10 → (s.chan n).ready = true) →
        (s.pwr.ceil * 100000 < t.enginePower ∨ 4000000000 < t.inputPower) → s.pwr.capLen ≤ 64 →
        t.pwr.capLen = min 64 (s.pwr.capLen + 4))) ∧
  (∀ (s : State) (raw : List (BitVec 24 × Bool)) (k n : Nat), s.up = true → s.mon.calPhase = some k → k / 2 = n / 8 → n < 32 →
      s.mon.periodReq = none →
    ∃ t, exec (.monPeriodEnd raw) s = .next t ∧ (t.chan n).acc = (s.chan n).acc ∧ (t.chan n).count = (s.chan n).count ∧
      (t.chan n).min = (s.chan n).min ∧ (t.chan n).max = (s.chan n).max ∧ (t.chan n).stale = true) ∧
  (∀ (s : State) (who : Who) (j : Nat), s.actsAs who j →
    let x := s.chan (s.sel j).mon
    exec (.monAccLoRead who) s = .next ((s.modLatch j fun y =>
      { y with accHi := x.acc / 2 ^ 32, monCount := x.count, monMin := x.min, monMax := x.max }).emit
        (.readData j (BitVec.ofNat 32 x.acc)))) ∧
  (∀ (s : State) (who : Who) (j : Nat), s.actsPrv who j →
    let n := (s.sel j).mon
    exec (.monClear who) s =
      .next (s.modChan n fun x => { x with clearNext := true, setAt := note x.setAt 5 s.clk.elapsed }) ∧
    (∀ src : Fin 4, exec (.monSourceSet who src) s = .next (
      if n < 8 then s else s.modChan n fun x => { x with source := src.val, clearNext := true })) ∧
    (∀ (gain : Bool) (v : Word), exec (.monCalRestore who gain v) s = .next (s.modChan n fun x =>
      if gain then { x with wGain := some v.toNat } else { x with wOfs := some (signed 24 v.toNat) })) ∧
    (∃ t, exec (.monCal who) s = .next t ∧ t.mon.calBit = true ∧
      (s.mon.calPhase = none → t.mon.calPhase = some 0 ∧ t.mon.tMcal = s.hubHot) ∧
      (s.mon.calPhase ≠ none → t.mon.calAgain = true ∧ t.mon.calPhase = s.mon.calPhase) ∧ t = { s with mon := t.mon }) ∧
    (∀ p : Fin 4, exec (.monPeriodSet who p) s = .next (
      if p = 3 then s else { s with mon := { s.mon with periodReq := if p.val = s.mon.period then none else some p.val } })))

/-! ## Enable, launch and stop -/

/-- The registers of a context. Writing ENABLE = 1 starts the check of a Disabled context, with its reason cleared, and the module tells its plan's windows on each port (R169-R171);
a module out of service drops it and counts it (R302); from Retention, or while the power state changes, the enable waits (R355).
ENABLE = 0 in Checking or Arming goes to Disabled with reason 0, in Armed aborts the group with 0x0707, in Running stops it and
sends STOP (Table 6.13, R174). MASKING and STRICT take effect at once while no batch runs and otherwise stay requested until a
batch boundary (R168, R270); STRICT_MASK's bits 0, 3, 4, 12 and 13 read 0 (Table 10.9); TWILL is written only in Disabled, and a
write elsewhere is dropped and counted (R271).
Rests in part on the model's own choices or readings: log entry 36. -/
def Obligations.ContextRegistersAct : Prop :=
  (∀ (s : State) (who : Who) (j : Nat), s.actsPrv who j →
    let c := (s.sel j).ctx
    let k := (s.ctx c).ctl
    let later := s.pwr.enableAfter.filter (· != c)
    (k.state ≠ 0 → exec (.contextEnable who) s = .next s) ∧
    (k.state = 0 → s.rcv.oos = true → exec (.contextEnable who) s = .next { s with agg := .droppedWrite 1 :: s.agg }) ∧
    (k.state = 0 → s.rcv.oos = false → s.pwr.target = none → s.pwr.mode = 2 → exec (.contextEnable who) s =
      .next { s with pwr := { s.pwr with enableAfter := later ++ [c], target := some 1, targetMbx := none } }) ∧
    (k.state = 0 → s.rcv.oos = false → s.pwr.target.isSome = true → exec (.contextEnable who) s =
      .next { s with pwr := { s.pwr with enableAfter := later ++ [c] } }) ∧
    (k.state = 0 → s.rcv.oos = false → s.pwr.target = none → s.pwr.mode ≠ 2 → yields (.contextEnable who) s fun t =>
      (t.ctx c).ctl = { k with state := 1, checkFrom := (t.ctx c).ctl.checkFrom, reason := 0, reasonList := 0, reasonStep := none } ∧
      (∀ x ∈ s.ctxs, x.2.ctl.checkFrom < (t.ctx c).ctl.checkFrom) ∧ (∀ d, d ≠ c → t.ctx d = s.ctx d) ∧
      (∀ x ∈ (State.exam { s with ctxs := t.ctxs } c (s.image c) (s.ctx c).cur ⟨[], []⟩).sentWindows,
        Output.windows x.1 x.2 ∈ t.out) ∧
      (planPlaces (s.image c) ≤ 1 → t = { s with ctxs := t.ctxs, out := t.out }))) ∧
  (∀ (s : State) (who : Who) (j : Nat), s.actsPrv who j →
    let c := (s.sel j).ctx
    let k := (s.ctx c).ctl
    let later := s.pwr.enableAfter.filter (· != c)
    (k.state = 0 ∨ 5 ≤ k.state → exec (.contextDisable who) s = .next { s with pwr := { s.pwr with enableAfter := later } }) ∧
    (k.state = 1 ∨ k.state = 2 → yields (.contextDisable who) s fun t =>
      (t.ctx c).ctl.state = 0 ∧ (t.ctx c).ctl.reason = 0 ∧ ∀ d ∈ t.sched.due, d.ctx ≠ c) ∧
    (k.state = 3 → yields (.contextDisable who) s fun t =>
      (t.ctx c).ctl.state = 0 ∧ (t.ctx c).ctl.reason = 0x0707 ∧ (t.ctx c).ctl.launchPick = none) ∧
    (k.state = 4 → yields (.contextDisable who) s fun t =>
      (t.ctx c).ctl = { k with state := 5, stopEnd := some (s.iterEnd c (s.clk.pick + planLead (s.image c))) } ∧
      (∀ p ∈ planPorts (s.image c),
        Output.ctrl p ⟨6, planPlace (s.image c), planGroup (s.image c), s.clk.pick, 0, 0⟩ ∈ t.out) ∧
      t.srv = s.srv ∧ t.arr = s.arr ∧ ∀ d, d ≠ c → t.ctx d = s.ctx d)) ∧
  (∀ (s : State) (who : Who) (j : Nat), s.actsPrv who j →
      let c := (s.sel j).ctx
      let k := (s.ctx c).ctl
      (∀ on : Bool, yields (.maskingSet who on) s fun t =>
        (t.ctx c).ctl = (if k.state < 4 then
            { k with maskReq := on, maskEff := on, strictEff := k.strictReq, strictMaskEff := k.strictMaskReq }
          else { k with maskReq := on }) ∧
        t.ctx c = { s.ctx c with ctl := (t.ctx c).ctl } ∧ (∀ d, d ≠ c → t.ctx d = s.ctx d) ∧ t = { s with ctxs := t.ctxs }) ∧
      (∀ (strict : Bool) (mask : BitVec 16), yields (.strictSet who strict mask) s fun t =>
        (t.ctx c).ctl = (if k.state < 4 then { k with
            strictReq := strict, strictMaskReq := mask &&& 0xCFE6, maskEff := k.maskReq, strictEff := strict
            strictMaskEff := mask &&& 0xCFE6 }
          else { k with strictReq := strict, strictMaskReq := mask &&& 0xCFE6 }) ∧
        t.ctx c = { s.ctx c with ctl := (t.ctx c).ctl } ∧ (∀ d, d ≠ c → t.ctx d = s.ctx d) ∧ t = { s with ctxs := t.ctxs }) ∧
      (∀ on : Bool,
        (k.state ≠ 0 → exec (.twillSet who on) s = .next { s with agg := .droppedWrite 2 :: s.agg }) ∧
        (k.state = 0 → yields (.twillSet who on) s fun t => t.ctx c = { s.ctx c with ctl := { k with twillReq := on } } ∧
          (∀ d, d ≠ c → t.ctx d = s.ctx d) ∧ t = { s with ctxs := t.ctxs })))

/-- The check that was started first ends: a failed case returns the context to Disabled with its code and step, a passed one
takes the context to Arming with the requested settings in effect (R170, R171, R271). A context without an image is refused
with 0x010B (R171). A check that is not the oldest does not end. The plan commands (Table 6.15, R175, R429): PLAN_LOAD copies an
image of an open Disabled context, PLAN_UNLOAD removes it, PLAN_STATUS returns the state words, L and the iteration, PLAN_MAP the
map of a device-placed plan, eight words of two indices (R167); a refused one completes with 0x11, one that the plan pool cannot
hold with 0x39, and neither changes a context.
Rests in part on the model's own choices or readings: log entries 29, 36. -/
def Obligations.PlansAreLoadedAndChecked : Prop :=
  (∀ (s : State) (c : Fin 256) (grp : GroupView), s.ready = true → (s.ctx c.val).ctl.state = 1 →
      (∀ d ∈ s.ctxs, d.2.ctl.state = 1 → (s.ctx c.val).ctl.checkFrom ≤ d.2.ctl.checkFrom) →
    let x := s.ctx c.val
    (∀ code step, s.planCheck c.val x.ctl.plan x.cur x.ctl.twillReq grp = some (code, step) →
      yields (.checkComplete c grp) s fun t => (t.ctx c.val).ctl.state = 0 ∧ (t.ctx c.val).ctl.reason = code ∧
        (t.ctx c.val).ctl.reasonStep = step.map (·.2) ∧ (∀ x, step = some x → (t.ctx c.val).ctl.reasonList = x.1)) ∧
    (x.ctl.plan = none → s.ready = true → ∃ code step,
      s.planCheck c.val x.ctl.plan x.cur x.ctl.twillReq grp = some (code, step) ∧ code = 0x010B) ∧
    (s.planCheck c.val x.ctl.plan x.cur x.ctl.twillReq grp = none →
      yields (.checkComplete c grp) s fun t => (t.ctx c.val).ctl.state = 2 ∧ (t.ctx c.val).ctl.reason = x.ctl.reason ∧
        (t.ctx c.val).ctl.twillEff = x.ctl.twillReq ∧ (t.ctx c.val).ctl.maskEff = x.ctl.maskReq ∧
        (t.ctx c.val).ctl.strictEff = x.ctl.strictReq ∧ (t.ctx c.val).ctl.strictMaskEff = x.ctl.strictMaskReq)) ∧
  (∀ (s : State) (c : Fin 256) (grp : GroupView) (d : Nat), (s.ctx d).ctl.state = 1 → d ∈ s.ctxNums →
      (s.ctx d).ctl.checkFrom < (s.ctx c.val).ctl.checkFrom → exec (.checkComplete c grp) s = .next s) ∧
  (∀ (s : State) (m : Fin 16) (image : Bytes), s.awaits m.val 0x2000 →
    let b := s.mailbox m.val
    let c := b.arg 0
    let k := (s.ctx c).ctl
    let ok := c ≤ 255 ∧ k.opened = true ∧ k.state = 0 ∧ b.arg 3 ≠ 0 ∧ pastXfer m.val b (b.arg2 1) (b.arg 3) = false
    let need := s.poolUsed - ceilDiv ((k.plan.map List.length).getD 0) 4096 + ceilDiv (b.arg 3) 4096
    yields (.planLoad m image) s fun t => t = { s with ctxs := t.ctxs, mbx := t.mbx, out := t.out } ∧
      (¬ ok → s.completes t m.val 0x11 [] ∧ t.ctxs = s.ctxs) ∧
      (ok → 1015808 < need → s.completes t m.val 0x39 [] ∧ t.ctxs = s.ctxs) ∧
      (ok → need ≤ 1015808 → s.completes t m.val 0 [] ∧ (∀ d, d ≠ c → t.ctx d = s.ctx d) ∧
        t.ctx c = { s.ctx c with ctl := { k with plan := some (s.hostData m.val b (b.arg2 1) (b.arg 3) image) } })) ∧
  (∀ (s : State) (m : Fin 16), s.awaits m.val 0x2001 →
    let c := (s.mailbox m.val).arg 0
    let k := (s.ctx c).ctl
    let ok := c ≤ 255 ∧ k.opened = true ∧ k.state = 0 ∧ k.plan ≠ none
    yields (.planUnload m) s fun t => t = { s with ctxs := t.ctxs, mbx := t.mbx, out := t.out } ∧
      (¬ ok → s.completes t m.val 0x11 [] ∧ t.ctxs = s.ctxs) ∧
      (ok → s.completes t m.val 0 [] ∧ (∀ d, d ≠ c → t.ctx d = s.ctx d) ∧
        t.ctx c = { s.ctx c with ctl := { k with plan := none } })) ∧
  (∀ (s : State) (m : Fin 16), s.awaits m.val 0x2002 →
    let c := (s.mailbox m.val).arg 0
    let x := s.ctx c
    yields (.planStatus m) s fun t => t = { s with mbx := t.mbx, out := t.out } ∧
      (255 < c → s.completes t m.val 0x11 []) ∧
      (c ≤ 255 → s.completes t m.val 0 [x.statWord.toNat, x.reasonWord.toNat, x.rstepWord.toNat, x.launchShown % 2 ^ 32,
        x.launchShown / 2 ^ 32 % 2 ^ 32, s.iteration c % 2 ^ 32, s.iteration c / 2 ^ 32 % 2 ^ 32])) ∧
  (∀ (s : State) (m : Fin 16), s.awaits m.val 0x2003 →
    let b := s.mailbox m.val
    let c := b.arg 0
    let kind := b.arg 2 % 256
    let ok := c ≤ 255 ∧ (s.ctx c).ctl.opened = true ∧ (s.ctx c).ctl.device = true ∧ b.arg 1 ≤ 3 ∧ 1 ≤ kind ∧ kind ≤ 4
    yields (.planMap m) s fun t => t = { s with mbx := t.mbx, out := t.out } ∧
      (¬ ok → s.completes t m.val 0x11 []) ∧
      (ok → ∃ ws : List Nat, ws.length = 8 ∧ s.completes t m.val 0 ws ∧ ∀ i, i < 8 → ws.getD i 0 =
        s.mapEntry c (b.arg 1) kind (b.arg 2 / 65536 + 2 * i) +
          65536 * s.mapEntry c (b.arg 1) kind (b.arg 2 / 65536 + 2 * i + 1)))

/-- Armed and READY (R173): a plan of one place takes L as its ready pick plus LAUNCH_LEAD; a member sends READY with its
PLACE and pick, and the leader, once it holds READY from all places, sets L to the later of its pick and the latest ready pick,
plus LAUNCH_LEAD, and sends LAUNCH. A programming write held for 1 s ends Arming with 0x0406 (Table 6.13).
Rests in part on the model's own choices or readings: log entry 37. -/
def Obligations.ReadyAndLaunch : Prop :=
  (∀ (s : State) (c : Fin 256), s.awake = true → (s.ctx c.val).ctl.state = 2 → s.armingDone c.val = true →
    let k := (s.ctx c.val).ctl
    let img := s.image c.val
    let armed := { k with state := 3, readyWall := s.clk.wall }
    (planPlaces img ≤ 1 → yields (.armingReady c) s fun t =>
      (t.ctx c.val).ctl = { armed with launchPick := some (s.clk.pick + planLead img) } ∧ t = { s with ctxs := t.ctxs }) ∧
    (1 < planPlaces img → planPlace img ≠ 0 → yields (.armingReady c) s fun t => (t.ctx c.val).ctl = armed ∧
      ∀ p ∈ planPorts img, Output.ctrl p ⟨3, planPlace img, planGroup img, s.clk.pick, s.clk.pick, 0⟩ ∈ t.out) ∧
    (1 < planPlaces img → planPlace img = 0 → yields (.armingReady c) s fun t =>
      let rs := k.readies.filter (fun r => r.1 != 0) ++ [(0, s.clk.pick)]
      let l := max s.clk.pick (maxNat 0 (rs.map (·.2))) + planLead img
      (t.ctx c.val).ctl.state = 3 ∧ (t.ctx c.val).ctl.readies = rs ∧ (∀ r ∈ rs, r.2 + planLead img ≤ l) ∧
      (k.launchPick = none → planPlaces img ≤ rs.length → (t.ctx c.val).ctl.launchPick = some l ∧
        ∀ p ∈ planPorts img, Output.ctrl p ⟨4, 0, planGroup img, s.clk.pick, l, 0⟩ ∈ t.out) ∧
      (rs.length < planPlaces img → (t.ctx c.val).ctl.launchPick = k.launchPick))) ∧
  (∀ (s : State) (c : Fin 256), s.up = true → (s.ctx c.val).ctl.state = 2 →
      (∃ h ∈ s.planHarnesses c.val, (s.harness h).held = true ∧ 4000000000 ≤ s.clk.wall - (s.harness h).heldAt) →
    yields (.armingHoldTimeout c) s fun t => (t.ctx c.val).ctl.state = 0 ∧ (t.ctx c.val).ctl.reason = 0x0406) ∧
  (∀ (s : State) (group pick : BitVec 64) (place : Fin 4096), s.up = true →
      s.seen 3 place.val group.toNat pick.toNat = false →
    yields (.ready group place pick) s fun t => ∀ c ∈ s.inGroup group.toNat,
      let k := (s.ctx c).ctl
      let img := s.image c
      let rs := k.readies.filter (fun r => r.1 != place.val) ++ [(place.val, pick.toNat)]
      (planPlace img = 0 → (t.ctx c).ctl.readies = rs ∧ (t.ctx c).ctl.state = k.state ∧
        (t.ctx c).ctl.launchPick = if k.state = 3 ∧ k.launchPick = none ∧ planPlaces img ≤ rs.length then
          some (max s.clk.pick (maxNat 0 (rs.map (·.2))) + planLead img) else k.launchPick) ∧
      (planPlace img ≠ 0 → t.ctx c = s.ctx c ∧ ∀ p ∈ planPorts img,
        Output.ctrl p ⟨3, place.val, group.toNat, pick.toNat, pick.toNat, 0⟩ ∈ t.out)) ∧
  (∀ (s : State) (group pick : BitVec 64) (place : Fin 4096), s.seen 3 place.val group.toNat pick.toNat = true →
    exec (.ready group place pick) s = .next s)

/-- LAUNCH(L) reaches an Armed member, which takes L, or aborts when its pick is later than L - 1,024; READY outstanding for
1 s at the leader, and 2 s in Armed without LAUNCH, abort; on ABORT every member before its launch pick returns to Disabled
with 0x0707, and a member that runs ends its pending switch (R173, R250). At L iteration 0 begins: the context runs with fresh
records and its steps of START 0 and PHASE 0 fall due (R157, R173).
Rests in part on the model's own choices or readings: log entry 37. -/
def Obligations.LaunchAndAbort : Prop :=
  (∀ (s : State) (group l : BitVec 64), s.up = true → s.seen 4 0 group.toNat l.toNat = false →
    yields (.launch group l) s fun t => ∀ c ∈ s.inGroup group.toNat,
      let k := (s.ctx c).ctl
      (k.state ≠ 3 ∨ k.launchPick.isSome = true → (t.ctx c).ctl = k) ∧
      (k.state = 3 → k.launchPick = none → s.clk.pick + 1024 ≤ l.toNat → (t.ctx c).ctl = { k with launchPick := some l.toNat }) ∧
      (k.state = 3 → k.launchPick = none → l.toNat < s.clk.pick + 1024 →
        (t.ctx c).ctl.state = 0 ∧ (t.ctx c).ctl.reason = 0x0707)) ∧
  (∀ (s : State) (group : BitVec 64), s.up = true → yields (.abort group) s fun t => ∀ c ∈ s.inGroup group.toNat,
      let x := s.ctx c
      (1 ≤ x.ctl.state → x.ctl.state ≤ 3 → (t.ctx c).ctl.state = 0 ∧ (t.ctx c).ctl.reason = 0x0707) ∧
      (x.ctl.state = 4 ∨ x.ctl.state = 5 → 3 ≤ x.sw.state → (t.ctx c).sw = { reason := 0x0707, programs := x.sw.programs }) ∧
      (x.ctl.state = 0 ∨ (4 ≤ x.ctl.state ∧ x.sw.state < 3) → (t.ctx c).ctl = x.ctl ∧ (t.ctx c).sw = x.sw)) ∧
  (∀ (s : State) (c : Fin 256) (w : Nat), s.up = true → (s.ctx c.val).ctl.firstReadyWall = some w →
      (s.ctx c.val).ctl.launchPick = none → 4000000000 ≤ s.clk.wall - w →
    let k := (s.ctx c.val).ctl
    yields (.launchReadyTimeout c) s fun t =>
      (1 ≤ k.state → k.state ≤ 3 → (t.ctx c.val).ctl.state = 0 ∧ (t.ctx c.val).ctl.reason = 0x0707) ∧
      (k.state = 0 ∨ 4 ≤ k.state → (t.ctx c.val).ctl = { k with readies := [], firstReadyWall := none } ∧
        ∀ p ∈ planPorts (s.image c.val),
          Output.ctrl p ⟨5, planPlace (s.image c.val), planGroup (s.image c.val), s.clk.pick, 0, 0⟩ ∈ t.out)) ∧
  (∀ (s : State) (c : Fin 256), s.up = true → (s.ctx c.val).ctl.state = 3 → (s.ctx c.val).ctl.launchPick = none →
      8000000000 ≤ s.clk.wall - (s.ctx c.val).ctl.readyWall →
    yields (.armedTimeout c) s fun t => (t.ctx c.val).ctl.state = 0 ∧ (t.ctx c.val).ctl.reason = 0x0707) ∧
  (∀ (s : State) (c : Fin 256), s.awake = true → (s.ctx c.val).ctl.state = 3 →
      (s.ctx c.val).ctl.launchPick = some s.clk.pick →
    let k := (s.ctx c.val).ctl
    yields (.launchPick c) s fun t =>
      (t.ctx c.val).ctl = { k with state := 4, readies := [], firstReadyWall := none } ∧
      (t.ctx c.val).recs = (s.ctx c.val).recs.entered ∧
      (k.cut = false → k.stopEnd = none → planPeriod (s.image c.val) ≠ 0 →
        ∀ x ∈ planSteps (s.image c.val), x.2.2.start = 0 → x.2.2.phase = 0 →
          ∃ d ∈ t.sched.due, d.ctx = c.val ∧ d.list = x.1 ∧ d.idx = x.2.1 ∧ d.iter = 0 ∧ d.start = s.clk.pick))

/-- STOP stops admission in every Running member of the group, which stops at the end of the first iteration that ends at
least LAUNCH_LEAD picks after the pick at which STOP was sent; a member that already stops by a later STOP takes the earlier.
At that end the context goes to Disabled and no request of it
stays admitted (R174).
Rests in part on the model's own choices or readings: log entry 37. -/
def Obligations.StopOfPlans : Prop :=
  (∀ (s : State) (group pick : BitVec 64), s.up = true → s.seenStop group.toNat pick.toNat = false →
    yields (.stop group pick) s fun t => ∀ c ∈ s.inGroup group.toNat,
      let k := (s.ctx c).ctl
      let lead := pick.toNat + planLead (s.image c)
      (∀ p ∈ planPorts (s.image c), Output.ctrl p ⟨6, 0, group.toNat, pick.toNat, 0, 0⟩ ∈ t.out) ∧
      (k.state ≠ 4 → k.state ≠ 5 ∨ k.cut = true → t.ctx c = s.ctx c) ∧
      (k.state = 5 → k.cut = false → t.ctx c = { s.ctx c with ctl :=
        { k with stopEnd := k.stopEnd.map fun x => min x (s.iterEnd c lead) } }) ∧
      (k.state = 4 → ∀ lp, k.launchPick = some lp → ∃ n, 1 ≤ n ∧
        let e := lp + n * max (planPeriod (s.image c)) 1
        t.ctx c = { s.ctx c with ctl := { k with state := 5, stopEnd := some e } } ∧ lead ≤ e ∧
        (1 < n → lp + (n - 1) * max (planPeriod (s.image c)) 1 < lead))) ∧
  (∀ (s : State) (group pick : BitVec 64), s.seenStop group.toNat pick.toNat = true → exec (.stop group pick) s = .next s) ∧
  (∀ (s : State) (c : Fin 256) (e : Nat), s.up = true → (s.ctx c.val).ctl.state = 5 → (s.ctx c.val).ctl.cut = false →
      (s.ctx c.val).ctl.stopEnd = some e → e ≤ s.clk.pick →
    yields (.stopIterationEnd c) s fun t => (t.ctx c.val).ctl.state = 0 ∧ (t.ctx c.val).ctl.launchPick = none ∧
      ((s.ctx c.val).ctl.plan.isSome = true → (t.ctx c.val).ctl.plan.isSome = true) ∧
      (∀ q ∈ t.srv.reqs, q.ctx = c.val → q.state = 0 ∨ q.state = 4 ∨ 5 ≤ q.state) ∧ ∀ d ∈ t.sched.due, d.ctx ≠ c.val)

/-! ## Contexts, weights and spares -/

/-- CTX_OPEN fixes placement, class and auxiliary area of a closed context, with generation 0 and, for an open class, the
recipe of its address (R221); CTX_CLOSE releases both sets, clears the key slot and frees the plan area of a Disabled context
without an open stream or a load in progress (R227, R243, Table 9.5); WGT_KEY fills the key slot of a sealed context, waits
until key derivation has ended and is refused while debug access is enabled (R226, R227, R393); the spare count is at most
8.
Rests in part on the model's own choices or readings: log entries 11, 40. -/
def Obligations.ContextsOpenAndClose : Prop :=
  (∀ (s : State) (m : Fin 16) (recipe : Bytes), s.awaits m.val 0x1000 →
    let b := s.mailbox m.val
    let c := b.arg 0
    let k := (s.ctx c).ctl
    let n := if b.arg 2 = 0 then recSize (s.hostData m.val b (b.arg2 3) 64 recipe) else 0
    let ok := c ≤ 255 ∧ k.opened = false ∧ b.arg 1 ≤ 1 ∧ b.arg 2 ≤ 1 ∧ b.arg2 5 % 4096 = 0 ∧
      b.arg2 5 + b.arg2 7 ≤ hubBase ∧ pastXfer m.val b (b.arg2 3) n = false
    yields (.ctxOpen m recipe) s fun t => t = { s with ctxs := t.ctxs, mbx := t.mbx, out := t.out } ∧
      (∀ d, d ≠ c → t.ctx d = s.ctx d) ∧ (¬ ok → s.completes t m.val 0x11 [] ∧ t.ctxs = s.ctxs) ∧
      (ok → s.completes t m.val 0 [] ∧ t.ctx c = { s.ctx c with
        cur := { recipe := if b.arg 2 = 0 then s.hostData m.val b (b.arg2 3) n recipe else [] }
        ctl := { k with opened := true, device := b.arg 1 == 1, sealed := b.arg 2 == 1, auxBase := b.arg2 5
                        auxSize := b.arg2 7, gen := 0 } })) ∧
  (∀ (s : State) (m : Fin 16), s.awaits m.val 0x1001 →
    let c := (s.mailbox m.val).arg 0
    let x := s.ctx c
    let ok := c ≤ 255 ∧ x.ctl.opened = true ∧ x.ctl.state = 0 ∧ x.held = none ∧
      ∀ e ∈ s.srv.streams, e.2.opened = true → e.2.ctx ≠ c
    yields (.ctxClose m) s fun t =>
      t = { s with ctxs := t.ctxs, arr := t.arr, mbx := t.mbx, out := t.out } ∧ (∀ d, d ≠ c → t.ctx d = s.ctx d) ∧
      (¬ ok → s.completes t m.val 0x11 [] ∧ t.ctxs = s.ctxs ∧ t.arr = s.arr) ∧
      (ok → s.completes t m.val 0 [] ∧ (t.ctx c).ctl.opened = false ∧ (t.ctx c).ctl.keyHeld = false ∧
        (t.ctx c).ctl.key = [] ∧ (t.ctx c).ctl.plan = none ∧ (t.ctx c).ctl.successor = none ∧ (t.ctx c).ctl.gen = 0 ∧
        (t.ctx c).cur = {} ∧ (t.ctx c).staged = none ∧ (t.ctx c).recs = x.recs ∧
        ∀ w ∈ x.sets, ∀ h ∈ w.harnesses,
          if x.ctl.sealed then (t.harness h).zeroing = true
          else ∀ i, i < 64 → (t.heddle (64 * h + i)).programmed = false ∧
            (t.heddle (64 * h + i)).role = if s.outOfUse 1 h then 3 else 0)) ∧
  (∀ (s : State) (m : Fin 16) (record : Bytes), s.awaits m.val 0x1002 →
    let b := s.mailbox m.val
    let c := b.arg 0
    let k := (s.ctx c).ctl
    let ok := c ≤ 255 ∧ k.opened = true ∧ k.sealed = true ∧ s.sec.debug = false ∧ pastXfer m.val b (b.arg2 1) 2048 = false
    let key := unwrapKey c (s.hostData m.val b (b.arg2 1) 2048 record)
    (¬ ok → yields (.wgtKey m record) s fun t => s.completes t m.val 0x11 [] ∧ t = { s with mbx := t.mbx, out := t.out }) ∧
    (ok → s.sec.derivationEnded = false → exec (.wgtKey m record) s = .next s) ∧
    (ok → s.sec.derivationEnded = true → s.sec.keysReady = false ∨ key = none → yields (.wgtKey m record) s fun t =>
      s.completes t m.val (if s.sec.keysReady then 0x16 else 0x11) [] ∧ t = { s with mbx := t.mbx, out := t.out }) ∧
    (∀ x, ok → s.sec.derivationEnded = true → s.sec.keysReady = true → key = some x → yields (.wgtKey m record) s fun t =>
      s.completes t m.val 0 [] ∧ t.ctx c = { s.ctx c with ctl := { k with keyHeld := true, key := x } } ∧
      (∀ d, d ≠ c → t.ctx d = s.ctx d) ∧ t = { s with ctxs := t.ctxs, mbx := t.mbx, out := t.out })) ∧
  (∀ (s : State) (who : Who) (j : Nat) (n : Fin 16), s.actsPrv who j →
    exec (.spareCountSet who n) s = .next { s with arr := { s.arr with spareCfg := min n.val 8 } })

/-- A load command that ends with a status other than 0 changes nothing but its status (R238): 0x11 where the target set does
not take loads or the class is the other one (R221, R222, R245), 0x16 without a key, on a failed tag or on a wrong digest
(R228, R230), 0x14 for an open load whose tiers lie outside the window (R236), 0x34 where a tier would keep too few spares
(R244), else what its records give (R237). Otherwise its set holds what it placed, every heddle inside the window is
programmed and the rest is held (R234, R236).
Rests in part on the model's own choices or readings: log entries 11, 39. -/
def Obligations.LoadsAreAllOrNothing : Prop :=
  (∀ (s : State) (m : Fin 16) (chunks : List Chunk), s.awaits m.val 0x1003 →
    let b := s.mailbox m.val
    let c := b.arg 0
    let staged := b.arg 1 == 1
    let k := (s.ctx c).ctl
    let cmd : Instr := .wgtLoadSealed m chunks
    let past := pastXfer m.val b (b.arg2 2) (b.arg 6 * 4194320)
    let plain := openStream k.key (b.arg2 4) (b.arg 6) (s.chunkAt m.val b (b.arg2 2) chunks)
    (∀ h, c ≤ 255 → (s.ctx c).held = some h → h.mbx = m.val → exec cmd s = .next s) ∧
    (c ≤ 255 → (∀ h, (s.ctx c).held = some h → h.mbx ≠ m.val) → s.loadTarget c (b.arg 1) = none →
      yields cmd s fun t => s.loadEnds t m.val c 0x11 none) ∧
    (∀ w, c ≤ 255 → s.loadTarget c (b.arg 1) = some w →
      (k.sealed = false ∨ past = true → yields cmd s fun t => s.loadEnds t m.val c 0x11 none) ∧
      (k.sealed = true → past = false → k.keyHeld = false ∨ plain = none →
        yields cmd s fun t => s.loadEnds t m.val c 0x16 none) ∧
      (∀ bs, k.sealed = true → past = false → k.keyHeld = true → plain = some bs →
        (∀ e, s.placeStream c staged w bs = .error e → yields cmd s fun t => s.loadEnds t m.val c e none) ∧
        (∀ p nh na, s.placeStream c staged w bs = .ok (p, nh, na) →
          (s.sparesShort w p.set = true → yields cmd s fun t => s.loadEnds t m.val c 0x34 none) ∧
          (s.sparesShort w p.set = false → yields cmd s fun t => s.loadTaken t m.val c staged w p [nh, na]))))) ∧
  (∀ (s : State) (m : Fin 16) (data : OpenData), s.awaits m.val 0x1004 →
    let b := s.mailbox m.val
    let c := b.arg 0
    let k := (s.ctx c).ctl
    let cmd : Instr := .wgtLoadOpen m data
    let d := parseDesc (s.hostData m.val b (b.arg2 1) 96 data.descriptor)
    let staged := d.target == 1
    let bad := k.sealed = true ∨ pastXfer m.val b (b.arg2 1) 96 = true ∨ d.bad = true
    (∀ h, c ≤ 255 → (s.ctx c).held = some h → h.mbx = m.val → exec cmd s = .next s) ∧
    (c ≤ 255 → (∀ h, (s.ctx c).held = some h → h.mbx ≠ m.val) → bad ∨ s.loadTarget c d.target = none →
      yields cmd s fun t => s.loadEnds t m.val c 0x11 none) ∧
    (∀ w, c ≤ 255 → ¬ bad → s.loadTarget c d.target = some w →
      let x := s.openData m.val b w.recipe d data
      let past := pastXfer m.val b d.srcAddr x.1.length = true ∨ pastXfer m.val b d.scaleAddr x.2.1.length = true ∨
        pastXfer m.val b d.tileMap x.2.2.length = true
      let cold := (mapTiers x.2.2).filter (fun t => !s.tierInWindow t)
      (past → yields cmd s fun t => s.loadEnds t m.val c 0x11 none) ∧
      (¬ past → cold ≠ [] → yields cmd s fun t => ∃ tier, s.loadEnds t m.val c 0x14 (some tier) ∧
        tier ∈ cold ∧ ∀ x ∈ cold, tier ≤ x) ∧
      (¬ past → cold = [] →
        (∀ e, s.placeOpen c staged w d x = .error e → yields cmd s fun t => s.loadEnds t m.val c e none) ∧
        (∀ p, s.placeOpen c staged w d x = .ok p →
          (s.sparesShort w p.set = true → yields cmd s fun t => s.loadEnds t m.val c 0x34 none) ∧
          (s.sparesShort w p.set = false → yields cmd s fun t => s.loadTaken t m.val c staged w p [p.writes.length])))))

/-- Held writes are made as soon as their tier is back inside the window, their harness runs no step and, for a current set, the
context is Disabled (R235); the last ends the load with status 0; a tier held for 1 s ends it with 0x14 and takes it back (R236,
R238). A released harness of a sealed set, and what a failed load left in a heddle, is zeroed, its pattern slots cleared, once its
tier is inside the window (R243).
Rests in part on the model's own choices or readings: log entries 39, 40. -/
def Obligations.HeldLoadsAndRelease : Prop :=
  (∀ (s : State) (c : Fin 256) (h : HeldLoad), s.awake = true → (s.ctx c.val).held = some h →
    let rest := h.writes.filter (fun w => !s.mayWrite c.val h w)
    yields (.loadTierResume c) s fun t =>
      (∀ w ∈ h.writes, s.mayWrite c.val h w = true → (t.heddle w.2.1.heddle).programmed = true) ∧
      (rest = [] → s.completes t h.mbx 0 h.result ∧ (t.ctx c.val).held = none ∧ (t.ctx c.val).ctl.loadLast = 0) ∧
      (rest ≠ [] → (t.ctx c.val).held = some { h with writes := rest, tiers := (rest.map (·.1)).eraseDups } ∧ t.mbx = s.mbx)) ∧
  (∀ (s : State) (c : Fin 256) (h : HeldLoad) (cold : Nat), s.up = true → (s.ctx c.val).held = some h →
      4000000000 ≤ s.clk.wall - h.since → cold ∈ h.tiers → s.tierInWindow cold = false →
      (∀ t ∈ h.tiers, s.tierInWindow t = false → cold ≤ t) →
    yields (.loadTierTimeout c) s fun t => s.completes t h.mbx 0x14 [] ∧ (t.ctx c.val).held = none ∧
      (t.ctx c.val).ctl.loadLast = 0x14 ∧ (t.ctx c.val).ctl.loadTier = some cold ∧
      (if h.staged then (t.ctx c.val).cur = (s.ctx c.val).cur ∧ (t.ctx c.val).staged = some h.before
       else (t.ctx c.val).cur = h.before ∧ (t.ctx c.val).staged = (s.ctx c.val).staged) ∧
      (∀ i ∈ h.after.images, i ∉ h.before.images → (t.heddle i.heddle).programmed = false ∧
        ((s.ctx c.val).ctl.sealed = true → (t.heddle i.heddle).zeroing = true)) ∧
      ((s.ctx c.val).ctl.sealed = true → ∀ x ∈ h.after.harnesses, x ∉ h.before.harnesses → (t.harness x).zeroing = true)) ∧
  (∀ (s : State) (c : Fin 256), (s.ctx c.val).held = none →
    exec (.loadTierResume c) s = .next s ∧ exec (.loadTierTimeout c) s = .next s) ∧
  (∀ (s : State) (h : Fin 4096), s.awake = true → (s.harness h.val).zeroing = true → s.tierInWindow (tierOfHarness h.val) = true →
    yields (.sealedHarnessRelease h) s fun t => (t.harness h.val).zeroing = false ∧
      t = { s with arr := t.arr, mem := t.mem } ∧ (∀ x, x ≠ h.val → t.harness x = s.harness x) ∧
      (∀ i, i < 64 → let g := t.heddle (64 * h.val + i)
        g.rows = [] ∧ g.exps = [] ∧ g.programmed = false ∧ g.role = (if s.outOfUse 1 h.val then 3 else 0) ∧
        ∀ a, patternAddr (64 * h.val + i) ≤ a → a < patternAddr (64 * h.val + i) + 0x9000 → t.byte a = 0)) ∧
  (∀ (s : State) (h : Fin 4096), s.awake = true → (s.harness h.val).zeroing = false → s.tierInWindow (tierOfHarness h.val) = true →
    yields (.sealedHarnessRelease h) s fun t => t = { s with arr := t.arr, mem := t.mem } ∧ ∀ g, t.heddle g =
      if g ∈ heddlesOf h.val ∧ (s.heddle g).zeroing = true then { s.heddle g with
        rows := [], exps := [], programmed := false, zeroing := false, marginal := false, patternLost := false, repair := [] }
      else s.heddle g) ∧
  (∀ (s : State) (h : Fin 4096), s.tierInWindow (tierOfHarness h.val) = false ∨ (s.harness h.val).zeroing = false ∧
      (∀ g ∈ heddlesOf h.val, (s.heddle g).zeroing = false) →
    exec (.sealedHarnessRelease h) s = .next s)

/-- WGT_COMMIT commits a complete set once, a current one adding 1 to the generation, an incomplete one refused with 0x15 and
left open (R239); WGT_STAGE_OPEN opens a staged set beside a committed current one (R245); WGT_RESTORE rewrites only lost
pattern copies and programs no heddle, ending with 0x16 where an image does not match (R242).
Rests in part on the model's own choices or readings: log entries 11, 39, 40. -/
def Obligations.CommitStageAndRestore : Prop :=
  (∀ (s : State) (m : Fin 16), s.awaits m.val 0x1005 →
    let b := s.mailbox m.val
    let c := b.arg 0
    let x := s.ctx c
    let target := if b.arg 1 = 0 then some x.cur else if b.arg 1 = 1 then x.staged else none
    let free := c ≤ 255 ∧ x.ctl.opened = true ∧ x.held = none
    yields (.wgtCommit m) s fun t => t = { s with ctxs := t.ctxs, mbx := t.mbx, out := t.out } ∧
      (∀ d, d ≠ c → t.ctx d = s.ctx d) ∧
      (¬ free ∨ target = none ∨ (∃ w, target = some w ∧ w.committed = true) → s.completes t m.val 0x11 [] ∧ t.ctxs = s.ctxs) ∧
      (∀ w, free → target = some w → w.committed = false →
        (w.complete = false → s.completes t m.val 0x15 [] ∧ t.ctxs = s.ctxs) ∧
        (w.complete = true → b.arg 1 = 0 → s.completes t m.val 0 [(x.ctl.gen + 1) % 65536] ∧
          t.ctx c = { x with cur := { w with committed := true }, ctl := { x.ctl with gen := (x.ctl.gen + 1) % 65536 } }) ∧
        (w.complete = true → b.arg 1 = 1 → s.completes t m.val 0 [x.ctl.gen] ∧
          t.ctx c = { x with staged := some { w with committed := true } }))) ∧
  (∀ (s : State) (m : Fin 16) (recipe : Bytes), s.awaits m.val 0x1006 →
    let b := s.mailbox m.val
    let c := b.arg 0
    let x := s.ctx c
    let n := if x.ctl.sealed then 0 else recSize (s.hostData m.val b (b.arg2 1) 64 recipe)
    let ok := c ≤ 255 ∧ x.ctl.opened = true ∧ x.cur.committed = true ∧ x.staged = none ∧ pastXfer m.val b (b.arg2 1) n = false
    yields (.wgtStageOpen m recipe) s fun t => t = { s with ctxs := t.ctxs, mbx := t.mbx, out := t.out } ∧
      (∀ d, d ≠ c → t.ctx d = s.ctx d) ∧ (¬ ok → s.completes t m.val 0x11 [] ∧ t.ctxs = s.ctxs) ∧
      (ok → s.completes t m.val 0 [] ∧ t.ctx c = { x with
        staged := some { recipe := if x.ctl.sealed then [] else s.hostData m.val b (b.arg2 1) n recipe } })) ∧
  (∀ (s : State) (m : Fin 16) (chunks : List Chunk) (data : OpenData) (ups : List (Fin 262144 × BitVec 64)),
      s.awaits m.val 0x100A →
    let b := s.mailbox m.val
    let c := b.arg 0
    let cmd : Instr := .wgtRestore m chunks (data, ups)
    let ok := c ≤ 255 ∧ (s.ctx c).ctl.opened = true
    (¬ ok → yields cmd s fun t => s.completes t m.val 0x11 [] ∧ t = { s with mbx := t.mbx, out := t.out }) ∧
    (∀ e, ok → s.restoreData m.val b c chunks data = .error e →
      yields cmd s fun t => s.completes t m.val e [] ∧ t = { s with mbx := t.mbx, out := t.out }) ∧
    (∀ rs, ok → s.restoreData m.val b c chunks data = .ok rs → (∀ u ∈ ups, (secded u.2.toNat).detected = 0) → yields cmd s fun t =>
      (ups = [] → t = { s with arr := t.arr, mem := t.mem, mbx := t.mbx, out := t.out }) ∧
      (∀ g, t.heddle g = { s.heddle g with patternLost := (t.heddle g).patternLost, imageCrc := (t.heddle g).imageCrc } ∧
        ((s.heddle g).patternLost = false → t.heddle g = s.heddle g)) ∧
      (∃ status n, s.completes t m.val status [n] ∧ (status = 0 ∨ status = 0x16) ∧
        (status = 0 → ∀ x ∈ s.restoreRecs c rs, (t.heddle x.2.1).patternLost = false))))

/-! ## Switch of weight sets -/

/-- WGT_SWITCH runs the check of the staged set and the plan that runs with it: a failed case is recorded and refuses with 0x11,
a passed one lets the context drain, or in Disabled makes the staged set current at once, adding 1 to the generation (R246,
R251). WGT_STAGE_PLAN keeps a successor plan; WGT_STAGE_DROP drops the staged set before F is set (R245), and a held load into it
ends with 0x11 (the model's choice, log entry 38). At the end of a
draining iteration without admitted requests the context is drained (R247, R249), and the drain limit ends what is still
admitted (R248).
Rests in part on the model's own choices or readings: log entry 38. -/
def Obligations.SwitchIsAcceptedAndDrained : Prop :=
  (∀ (s : State) (m : Fin 16) (image : Bytes), s.awaits m.val 0x1007 →
    let b := s.mailbox m.val
    let c := b.arg 0
    let x := s.ctx c
    let ok := c ≤ 255 ∧ x.ctl.opened = true ∧ x.sw.state < 3 ∧ b.arg 3 ≠ 0 ∧ pastXfer m.val b (b.arg2 1) (b.arg 3) = false
    let need := s.poolUsed - ceilDiv ((x.ctl.successor.map List.length).getD 0) 4096 + ceilDiv (b.arg 3) 4096
    yields (.wgtStagePlan m image) s fun t => t = { s with ctxs := t.ctxs, mbx := t.mbx, out := t.out } ∧
      (¬ ok → s.completes t m.val 0x11 [] ∧ t.ctxs = s.ctxs) ∧
      (ok → poolBlocks < need → s.completes t m.val 0x39 [] ∧ t.ctxs = s.ctxs) ∧
      (ok → need ≤ poolBlocks → s.completes t m.val 0 [] ∧ (∀ d, d ≠ c → t.ctx d = s.ctx d) ∧ t.ctx c = { x with
        ctl := { x.ctl with successor := some (s.hostData m.val b (b.arg2 1) (b.arg 3) image) } })) ∧
  (∀ (s : State) (m : Fin 16) (grp : GroupView), s.awaits m.val 0x1008 →
    let b := s.mailbox m.val
    let c := b.arg 0
    let x := s.ctx c
    let cmd : Instr := .wgtSwitch m grp
    let fits := c ≤ 255 ∧ x.ctl.opened = true ∧ x.held = none ∧ x.sw.state < 3 ∧ 1 ≤ b.arg 1 ∧ b.arg 1 ≤ 2 ^ 24 ∧ b.arg 4 ≤ 1
    (¬ fits ∨ (∀ w, x.staged = some w → w.committed = false) → yields cmd s fun t =>
      s.completes t m.val 0x11 [] ∧ t = { s with mbx := t.mbx, out := t.out }) ∧
    (∀ w, fits → x.staged = some w → w.committed = true →
      let verdict := s.planCheck c x.nextPlan w (if x.ctl.state = 0 then x.ctl.twillReq else x.ctl.twillEff) grp
      (∀ code step, verdict = some (code, step) → yields cmd s fun t => s.completes t m.val 0x11 [] ∧
        t.ctx c = { x with sw := { x.sw with reason := code } } ∧ t = { s with ctxs := t.ctxs, mbx := t.mbx, out := t.out }) ∧
      (verdict = none → x.ctl.state ≠ 0 → yields cmd s fun t => s.completes t m.val 0 [] ∧
        (t.ctx c).sw.state = 3 ∧ (t.ctx c).sw.drainIter = b.arg 1 ∧ (t.ctx c).sw.switchId = b.arg2 2 ∧
        (t.ctx c).sw.resetStreams = (b.arg 4 == 1) ∧ (t.ctx c).sw.fromIter = s.drainFrom c ∧ (t.ctx c).sw.flipPick = none ∧
        (t.ctx c).sw.idleFrom = none ∧ (t.ctx c).cur = x.cur ∧ (t.ctx c).staged = x.staged ∧ (t.ctx c).ctl = x.ctl) ∧
      (verdict = none → x.ctl.state = 0 → yields cmd s fun t => s.completes t m.val 0 [] ∧
        (t.ctx c).cur = w ∧ (t.ctx c).staged = none ∧ (t.ctx c).sw.state = 0 ∧ (t.ctx c).ctl.gen = (x.ctl.gen + 1) % 65536 ∧
        (t.ctx c).ctl.state = 0 ∧ (t.ctx c).ctl.successor = none ∧
        (∀ p, x.ctl.successor = some p → (t.ctx c).ctl.plan = some p)))) ∧
  (∀ (s : State) (m : Fin 16), s.awaits m.val 0x1009 →
    let c := (s.mailbox m.val).arg 0
    let x := s.ctx c
    (x.staged = none ∨ 255 < c ∨ x.sw.flipPick.isSome = true → yields (.wgtStageDrop m) s fun t =>
      s.completes t m.val 0x11 [] ∧ t = { s with mbx := t.mbx, out := t.out }) ∧
    (∀ h, c ≤ 255 → x.staged.isSome = true → x.sw.flipPick = none → x.held = some h → h.staged = true → h.mbx ≠ m.val →
      yields (.wgtStageDrop m) s fun t => (t.mailbox m.val).status = 0 ∧ (t.mailbox m.val).busy = false ∧
        (t.mailbox h.mbx).status = 0x11 ∧ (t.mailbox h.mbx).busy = false ∧ (t.ctx c).held = none ∧ (t.ctx c).staged = none ∧
        (t.ctx c).cur = x.cur) ∧
    (∀ w, x.staged = some w → c ≤ 255 → (∀ h, x.held = some h → h.staged = false) → x.sw.flipPick = none → yields (.wgtStageDrop m) s fun t =>
      s.completes t m.val 0 [] ∧ (t.ctx c).staged = none ∧ (t.ctx c).ctl.successor = none ∧ (t.ctx c).cur = x.cur ∧
      (t.ctx c).sw.state = (if x.sw.state = 3 ∨ x.sw.state = 4 then 0 else x.sw.state) ∧
      (x.ctl.sealed = true → ∀ h ∈ w.harnesses, (t.harness h).zeroing = true))) ∧
  (∀ (s : State) (c : Fin 256) (n : Nat) (w : WeightSet), s.awake = true →
    let x := s.ctx c.val
    let img := s.image c.val
    let d := x.ctl.launchPick.getD 0 + (n + 1) * planPeriod img
    x.sw.idleFrom = some n → x.staged = some w → x.sw.state = 3 → x.ctl.state = 4 → d ≤ s.clk.pick →
    yields (.switchDrained c) s fun t => (t.ctx c.val).sw.state = 4 ∧ (t.ctx c.val).ctl.candidates = x.sw.cands ∧
      (t.ctx c.val).cur = x.cur ∧
      (planPlaces img ≤ 1 → ∃ f, (t.ctx c.val).sw.flipPick = some f ∧ d + planLead img ≤ f ∧ s.clk.pick < f ∧
        (f - x.ctl.launchPick.getD 0) % max (planPeriod img) 1 = 0) ∧
      (1 < planPlaces img → planPlace img ≠ 0 → ∀ p ∈ planPorts img,
        Output.ctrl p ⟨9, planPlace img, planGroup img, s.clk.pick, x.sw.switchId, 0⟩ ∈ t.out) ∧
      (1 < planPlaces img → planPlace img = 0 → (0, x.sw.switchId) ∈ (t.ctx c.val).sw.drainedFrom)) ∧
  (∀ (s : State) (c : Fin 256) (l : Nat), s.up = true →
    let x := s.ctx c.val
    x.sw.state = 3 → x.sw.limitReached = false → x.ctl.launchPick = some l →
      l + (x.sw.fromIter + x.sw.drainIter) * planPeriod (s.image c.val) ≤ s.clk.pick →
    yields (.drainLimit c) s fun t => (t.ctx c.val).sw = { x.sw with limitReached := true } ∧
      (∀ q ∈ t.srv.reqs, q.ctx = c.val → q.state = 1 ∨ q.state = 2 ∨ q.state = 3 → q.cancelAt ≠ none) ∧
      (∀ q ∈ s.srv.reqs, q.ctx = c.val → q.state = 1 ∨ q.state = 2 ∨ q.state = 3 → q.cancelAt = none →
        ∃ r ∈ t.srv.reqs, r.id = q.id ∧ r.cancelAt = some s.clk.pick ∧ r.drainEnd = true) ∧
      t = { s with ctxs := t.ctxs, srv := t.srv })

/-- At F, in one pick, the staged set becomes current and the generation grows by 1; with a successor plan iteration 0 of it
starts at L = F, with fresh records (R249); a flip moves on while a harness that took a retired one's place waits for its
programming (the model's choice, log entry 38). DRAINED reaches the leader, which, holding it from every member, chooses F, the end
of an iteration at least LAUNCH_LEAD picks on, and sends FLIP; a member takes F, or aborts the switch when its pick is later
than F - 1,024; a leader that has waited 1 s for a member's acceptance aborts it with 0x0707 (R250).
Rests in part on the model's own choices or readings: log entry 38. -/
def Obligations.SwitchFlips : Prop :=
  (∀ (s : State) (c : Fin 256) (w : WeightSet), s.awake = true →
    let x := s.ctx c.val
    x.ctl.state = 4 → x.sw.state = 4 → x.sw.flipPick = some s.clk.pick → x.staged = some w → x.sw.programs = [] →
    yields (.weightFlip c) s fun t => (t.ctx c.val).cur = w ∧ (t.ctx c.val).staged = none ∧ (t.ctx c.val).sw.state = 0 ∧
      (t.ctx c.val).ctl.gen = (x.ctl.gen + 1) % 65536 ∧ (t.ctx c.val).ctl.unitMap = x.sw.unitMap ∧
      (t.ctx c.val).ctl.state = 4 ∧ t.clk.pick = s.clk.pick ∧
      (∀ p, x.ctl.successor = some p → (t.ctx c.val).ctl.plan = some p ∧ (t.ctx c.val).ctl.successor = none ∧
        (t.ctx c.val).ctl.launchPick = some s.clk.pick ∧ (t.ctx c.val).recs = x.recs.entered ∧
        ∀ r ∈ t.sched.runs, r.ctx ≠ c.val) ∧
      (x.ctl.successor = none → (t.ctx c.val).ctl.plan = x.ctl.plan ∧ (t.ctx c.val).ctl.launchPick = x.ctl.launchPick ∧
        (t.ctx c.val).recs = x.recs)) ∧
  (∀ (s : State) (c : Fin 256), s.awake = true →
    let x := s.ctx c.val
    x.ctl.state = 4 → x.sw.state = 4 → x.sw.flipPick = some s.clk.pick → x.sw.programs ≠ [] →
      (∀ p ∈ x.sw.programs, s.tierInWindow (tierOfHarness p.2) = false) →
    yields (.weightFlip c) s fun t => t.ctx c.val =
      { x with sw := { x.sw with flipPick := some (s.clk.pick + max 1 (planPeriod (s.image c.val))) } }) ∧
  (∀ (s : State) (group switchId : BitVec 64) (place : Fin 4096), s.up = true →
      s.seen 9 place.val group.toNat switchId.toNat = false →
    yields (.drained group place switchId) s fun t => ∀ c ∈ s.inGroup group.toNat,
      let x := s.ctx c
      let img := s.image c
      let from_ := x.sw.drainedFrom.filter (· != (place.val, switchId.toNat)) ++ [(place.val, switchId.toNat)]
      (planPlace img ≠ 0 → t.ctx c = x ∧ ∀ p ∈ planPorts img,
        Output.ctrl p ⟨9, place.val, group.toNat, switchId.toNat, switchId.toNat, 0⟩ ∈ t.out) ∧
      (planPlace img = 0 → (t.ctx c).sw.drainedFrom = from_ ∧
        (x.sw.state = 4 → x.sw.flipPick = none →
          planPlaces img ≤ (from_.filter (fun r => r.2 == x.sw.switchId)).length →
          ∃ f, (t.ctx c).sw.flipPick = some f ∧ s.clk.pick + planLead img ≤ f ∧
            (f - x.ctl.launchPick.getD 0) % max (planPeriod img) 1 = 0))) ∧
  (∀ (s : State) (group f : BitVec 64) (low : Word), s.up = true → s.seen 0xA 0 group.toNat f.toNat = false →
    yields (.flip group f low) s fun t => ∀ c ∈ s.inGroup group.toNat,
      let x := s.ctx c
      let named := x.sw.state = 4 ∧ x.sw.flipPick = none ∧ x.sw.switchId % 2 ^ 32 = low.toNat
      (¬ named → t.ctx c = x) ∧
      (named → s.clk.pick + 1024 ≤ f.toNat → t.ctx c = { x with sw := { x.sw with flipPick := some f.toNat } }) ∧
      (named → f.toNat < s.clk.pick + 1024 → (t.ctx c).sw = { reason := 0x0707, programs := x.sw.programs })) ∧
  (∀ (s : State) (group f switchId : BitVec 64) (place : Fin 4096) (low : Word),
    (s.seen 9 place.val group.toNat switchId.toNat = true → exec (.drained group place switchId) s = .next s) ∧
    (s.seen 0xA 0 group.toNat f.toNat = true → exec (.flip group f low) s = .next s)) ∧
  (∀ (s : State) (c : Fin 256) (heard : List (Fin 4096)), s.up = true →
    let x := s.ctx c.val
    let img := s.image c.val
    let accepted (p : Nat) : Prop := p = 0 ∨ (∃ h ∈ heard, h.val = p) ∨ (p, x.sw.switchId) ∈ x.sw.drainedFrom
    (3 ≤ x.sw.state → x.sw.flipPick = none → planPlace img = 0 → 1 < planPlaces img → (∃ p < planPlaces img, ¬ accepted p) →
        4000000000 ≤ s.clk.wall - x.sw.acceptWall →
      yields (.switchAcceptTimeout (c, heard)) s fun t => (t.ctx c.val).sw = { reason := 0x0707, programs := x.sw.programs } ∧
        (t.ctx c.val).staged = x.staged ∧ (t.ctx c.val).cur = x.cur) ∧
    ((∀ p < planPlaces img, accepted p) → exec (.switchAcceptTimeout (c, heard)) s = .next s))

/-! ## Serving, pages and streams -/

/-- RING_SETUP sets up a ring and RING_TEARDOWN takes it down, its Pending requests cancelled (Table 8.10); a doorbell of a ring
that is not set up is dropped and counted (R191), SQ_TAIL lets fetching go on (R327), CQ_HEAD frees the entries read and moves
spilled records in, oldest first (R212); ROLE_SET needs every context Disabled (R218); once a second every balance below CAP
grows by RATE, never above CAP by it (R203).
Rests in part on the model's own choices or readings: log entry 49. -/
def Obligations.RingsAndBudgets : Prop :=
  (∀ (s : State) (who : Who) (j : Nat) (r : Fin 8192) (v : Word), s.actsAs who j →
    let g := s.ring r.val
    let freed := cqFreed g v.toNat
    let k := min g.spilled.length (2 ^ g.n - (g.unread - freed))
    (g.up = false ∨ s.hostDown = true →
      exec (.sqTailDoorbell who r v) s = .next { s with agg := .doorbell r.val :: s.agg } ∧
      exec (.cqHeadDoorbell who r v) s = .next { s with agg := .doorbell r.val :: s.agg }) ∧
    (g.up = true → s.hostDown = false →
      (yields (.sqTailDoorbell who r v) s fun t => t.ring r.val = { g with sqTail := v.toNat % 2 ^ g.n, fetchBlocked := false } ∧
        (∀ x, x ≠ r.val → t.ring x = s.ring x) ∧ t = { s with srv := { s.srv with rings := t.srv.rings } }) ∧
      (yields (.cqHeadDoorbell who r v) s fun t => (t.ring r.val).cqHead = v.toNat % 2 ^ g.n ∧
        (t.ring r.val).spilled = g.spilled.drop k ∧ (t.ring r.val).unread = g.unread - freed + k ∧
        (t.ring r.val).cqTail = (if k = 0 then g.cqTail else (g.cqTail + k) % 2 ^ g.n) ∧
        (∀ x, x ≠ r.val → t.ring x = s.ring x) ∧ t = { s with srv := t.srv, out := t.out }))) ∧
  (∀ (s : State) (m : Fin 16), s.awaits m.val 0x3000 →
    let b := s.mailbox m.val
    (s.setupRefused b = true → yields (.ringSetup m) s fun t => s.completes t m.val 0x11 [] ∧ t = { s with mbx := t.mbx, out := t.out }) ∧
    (s.setupRefused b = false → yields (.ringSetup m) s fun t => s.completes t m.val 0 [] ∧
      t.ring (b.arg 0) = { up := true, tenant := b.arg 1, ctx := b.arg 2, n := b.arg 7, sqAddr := b.arg2 3, cqAddr := b.arg2 5
                           spillAddr := b.arg2 8, spillEntries := b.arg 10 } ∧
      (∀ x, x ≠ b.arg 0 → t.ring x = s.ring x) ∧
      t = { s with srv := { s.srv with rings := t.srv.rings }, mbx := t.mbx, out := t.out })) ∧
  (∀ (s : State) (m : Fin 16), s.awaits m.val 0x3001 →
    let r := (s.mailbox m.val).arg 0
    let waiting := (s.pendingOf r).length
    let ok := r < 8192 ∧ (s.ring r).up = true ∧ s.admittedOf r = [] ∧ waiting ≤ s.room r
    (¬ ok → yields (.ringTeardown m) s fun t => s.completes t m.val 0x11 [] ∧ t = { s with mbx := t.mbx, out := t.out }) ∧
    (ok → yields (.ringTeardown m) s fun t => s.completes t m.val 0 [waiting] ∧ t.ring r = {} ∧
      (∀ x, x ≠ r → t.ring x = s.ring x) ∧ ∀ q ∈ t.srv.reqs, q.ring = r → q.state ≠ 0)) ∧
  (∀ (s : State) (m : Fin 16), s.awaits m.val 0x3006 →
    let x := (s.mailbox m.val).arg 0
    yields (.roleSet m) s fun t =>
      (3 < x ∨ s.enabled ≠ [] → s.completes t m.val 0x11 [] ∧ t.srv = s.srv) ∧
      (x ≤ 3 → s.enabled = [] → s.completes t m.val 0 [] ∧ t.srv = { s.srv with role := x }) ∧
      t = { s with srv := t.srv, mbx := t.mbx, out := t.out }) ∧
  (∀ s : State, s.up = true → s.srv.refilled < s.clk.wall / 4000000000 → yields .budgetRefill s fun t =>
    t.srv.refilled = s.srv.refilled + 1 ∧
    (∀ k x, (k, x) ∈ t.srv.tenants ↔ x ≠ {} ∧ ∃ y, (k, y) ∈ s.srv.tenants ∧
      x = { y with
        bal := if y.bal < (y.cap : Int) then min (y.bal + y.rate) y.cap else y.bal
        beforeRefill := some (s.clk.elapsed, y.bal) }) ∧
    t = { s with srv := { s.srv with refilled := t.srv.refilled, tenants := t.srv.tenants } })

/-- An entry is fetched in order (R192): one that is refused gives one record of this pick with its status and sets BAD_ENTRY, as
soon as the ring has room for it (R194), a taken one becomes the newest Pending request (R193). A failed read of host memory stops the
ring's fetching, or ends the mailbox command with 0x38 (R327). A cancel has its own record, 0x13 where the table names no such
request, 0x12 for a Done one, and before the request records of its pick (R196); a Pending request is Done at once, an admitted one
is marked (R213).
Rests in part on the model's own choices or readings: log entries 8, 49, 50. -/
def Obligations.RequestsAreFetchedAndCancelled : Prop :=
  (∀ (s : State) (r : Fin 8192) (e : Bytes) (prompt : List Word) (cmd : Instr),
      (cmd = .generate r e prompt ∧ entOpcode e ≠ 2 ∧ entOpcode e ≠ 3) ∨ (cmd = .prefill r e prompt ∧ entOpcode e = 2) →
    let g := s.ring r.val
    let status := s.entStatus r.val e
    (s.canFetch r.val = false ∨ (status ≠ 0 ∧ s.room r.val = 0) ∨ (status = 0 ∧ s.promptFits (entPromptLen e) = false) →
      exec cmd s = .next s) ∧
    (s.canFetch r.val = true → status ≠ 0 → 1 ≤ s.room r.val → yields cmd s fun t =>
      (∃ x, t.ring r.val = { g with
          sqHead := (g.sqHead + 1) % 2 ^ g.n, fresh := g.fresh ++ [x], badEntry := true, setAt := (t.ring r.val).setAt } ∧
        x.cancels = none ∧ le x.bytes 0 4 = entTag e ∧ byteAt x.bytes 4 = status ∧ byteAt x.bytes 5 = 1) ∧
      (∀ x, x ≠ r.val → t.ring x = s.ring x) ∧ t = { s with srv := { s.srv with rings := t.srv.rings } }) ∧
    (s.canFetch r.val = true → status = 0 → s.promptFits (entPromptLen e) = true → yields cmd s fun t =>
      t.srv.reqs = s.srv.reqs ++ [entRequest s.srv.nextReq r.val g.ctx e prompt] ∧ t.srv.nextReq = s.srv.nextReq + 1 ∧
      t.ring r.val = { g with sqHead := (g.sqHead + 1) % 2 ^ g.n } ∧ (∀ x, x ≠ r.val → t.ring x = s.ring x) ∧
      t = { s with srv := t.srv })) ∧
  (∀ (s : State) (r : Fin 8192), s.canFetch r.val = true → yields (.hostReadFail (.ring r)) s fun t =>
    t.ring r.val = { s.ring r.val with fetchBlocked := true } ∧ (∀ x, x ≠ r.val → t.ring x = s.ring x) ∧
    t = { s with srv := { s.srv with rings := t.srv.rings }, agg := .hostReadFail :: s.agg }) ∧
  (∀ (s : State) (m : Fin 16), s.serves = true → (s.mailbox m.val).busy = true → readsHost (s.mailbox m.val).opcode = true →
      viaXfer m.val (s.mailbox m.val) = false → s.cmdBarred m.val (s.mailbox m.val) = false →
    yields (.hostReadFail (.mailbox m)) s fun t => s.completes t m.val 0x38 [] ∧ Report.hostReadFail ∈ t.agg) ∧
  (∀ (s : State) (r : Fin 8192) (e : Bytes), s.canFetch r.val = true → entOpcode e = 3 → s.cancelOk r.val e = false →
    (s.room r.val = 0 → exec (.cancel r e) s = .next s) ∧
    (1 ≤ s.room r.val → yields (.cancel r e) s fun t => (t.ring r.val).badEntry = true ∧
      (∃ x, (t.ring r.val).fresh = (s.ring r.val).fresh ++ [x] ∧ le x.bytes 0 4 = entTag e ∧ byteAt x.bytes 4 = 0x11) ∧
      t = { s with srv := { s.srv with rings := t.srv.rings } })) ∧
  (∀ (s : State) (r : Fin 8192) (e : Bytes), s.canFetch r.val = true → entOpcode e = 3 → s.cancelOk r.val e = true →
    let g := s.ring r.val
    let q := s.cancelTarget (entStream e) (entCancelTag e)
    (s.cancelRoom r.val q = false → exec (.cancel r e) s = .next s) ∧
    (s.cancelRoom r.val q = true → yields (.cancel r e) s fun t =>
      (t.ring r.val).sqHead = (g.sqHead + 1) % 2 ^ g.n ∧
      (∃ x ∈ (t.ring r.val).fresh, x.order = 0 ∧ x.cancels = q.map (·.id) ∧ le x.bytes 0 4 = entTag e ∧ byteAt x.bytes 5 = 8 ∧
        byteAt x.bytes 4 = (match q with | none => 0x13 | some x => if x.state = 4 then 0x12 else 0)) ∧
      (∀ x, q = some x → x.state = 0 → (∀ y ∈ t.srv.reqs, y.id = x.id → y.state = 4) ∧
        ((s.ring x.ring).up = true → ∃ z ∈ (t.ring x.ring).fresh,
          le z.bytes 0 4 = x.tag % 2 ^ 32 ∧ byteAt z.bytes 4 = 0x10 ∧ byteAt z.bytes 5 = 1)) ∧
      (∀ x, q = some x → x.state ≠ 0 → x.state ≠ 4 →
        ∃ y ∈ t.srv.reqs, y.id = x.id ∧ y.cancelAt = some (x.cancelAt.getD s.clk.pick)) ∧
      (q = none ∨ (∃ x, q = some x ∧ x.state = 4) → t.srv.reqs = s.srv.reqs))) ∧
  (∀ (s : State) (m : Fin 16), s.awaits m.val 0x3005 →
    let b := s.mailbox m.val
    let q := s.cancelTarget (b.arg 0) (b.arg 1)
    (∀ x, q = some x → (s.ring x.ring).up = true → s.cancelRoom x.ring q = true → yields (.reqCancel m) s fun t =>
      s.completes t m.val 0 [] ∧ (x.state = 0 → ∀ y ∈ t.srv.reqs, y.id = x.id → y.state = 4) ∧
      (x.state ≠ 0 → x.state ≠ 4 → ∃ y ∈ t.srv.reqs, y.id = x.id ∧ y.cancelAt = some (x.cancelAt.getD s.clk.pick))) ∧
    (q = none ∨ (∃ x, q = some x ∧ ((s.ring x.ring).up = false ∨ s.cancelRoom x.ring q = false)) →
      yields (.reqCancel m) s fun t => s.completes t m.val 0x11 [] ∧ t = { s with mbx := t.mbx, out := t.out }))

/-- KV_MAP writes a page-table entry with VALID 1, published at once without a knot; KV_UNMAP clears VALID of the entry that
holds the page; in an admitted batch both wait for its boundary (R131, R132, R39). STREAM_OPEN writes the stream map entry,
STREAM_CLOSE clears its VALID, STREAM_RESET sets COMMIT to 0 (R128, R190, Table 8.10); a refused command completes with 0x11 and
changes nothing.
Rests in part on the model's own choices or readings: log entry 25. -/
def Obligations.PagesAndStreams : Prop :=
  (∀ (s : State) (m : Fin 16), s.awaits m.val 0x3020 →
    let b := s.mailbox m.val
    let u := b.arg 0
    let shared := b.arg 5 == 1
    let bad := 1 < b.arg 5 ∨ s.mapRefused u (b.arg 1) (b.arg 2) (b.arg2 3) shared = true
    let i := s.ptIndex u (b.arg 1) (b.arg 2)
    (s.pageWaits m.val = true → exec (.kvMap m) s = .next s) ∧
    (s.pageWaits m.val = false → bad → yields (.kvMap m) s fun t =>
      s.completes t m.val 0x11 [] ∧ t = { s with mbx := t.mbx, out := t.out }) ∧
    (s.pageWaits m.val = false → ¬ bad → s.inBatch u = true → exec (.kvMap m) s = .next { s with kvt := { s.kvt with
      waitingCmds := s.kvt.waitingCmds ++ [(m.val, .map u (b.arg 1) (b.arg 2) (b.arg2 3) shared (b.arg2 6))] } }) ∧
    (s.pageWaits m.val = false → ¬ bad → s.inBatch u = false → yields (.kvMap m) s fun t => s.completes t m.val 0 [] ∧
      t.read (s.ptAddr i) 16 = ptBytes true (b.arg2 6 == 0) shared (s.smapCtx u) (if shared then 256 else 0) (b.arg2 3)
        (b.arg 1) u (b.arg 2) ∧
      (∀ a, a < s.ptAddr i ∨ s.ptAddr i + 16 ≤ a → t.byte a = s.byte a))) ∧
  (∀ (s : State) (m : Fin 16), s.awaits m.val 0x3021 → s.pageWaits m.val = false →
    let b := s.mailbox m.val
    let u := b.arg 0
    let bad := 65536 ≤ u ∨ s.smapValid u = false ∨ s.smapPages u ≤ b.arg 2 ∨ 16384 ≤ b.arg 1
    let e := s.ptEntry (s.ptIndex u (b.arg 1) (b.arg 2))
    let holds := ptValid e = true ∧ ptStream e = u ∧ ptLayer e = b.arg 1 ∧ ptPage e = b.arg 2
    (bad → yields (.kvUnmap m) s fun t => s.completes t m.val 0x11 [] ∧ t = { s with mbx := t.mbx, out := t.out }) ∧
    (¬ bad → s.inBatch u = true → exec (.kvUnmap m) s = .next { s with kvt := { s.kvt with
      waitingCmds := s.kvt.waitingCmds ++ [(m.val, .unmap u (b.arg 1) (b.arg 2))] } }) ∧
    (¬ bad → s.inBatch u = false → yields (.kvUnmap m) s fun t => s.completes t m.val 0 [] ∧
      (holds → (t.byte (s.ptAddr (s.ptIndex u (b.arg 1) (b.arg 2)))).toNat % 2 = 0) ∧ (¬ holds → t.mem = s.mem))) ∧
  (∀ (s : State) (m : Fin 16), s.awaits m.val 0x3002 →
    let b := s.mailbox m.val
    let u := b.arg 0
    let ok := u < 65536 ∧ b.arg 1 < 256 ∧ b.arg 2 < 1024 ∧ b.arg 3 < 2097152 ∧ b.arg 4 ≠ 0 ∧ b.arg 4 < 65536 ∧ b.arg 6 < 65536 ∧
      (s.stream u).opened = false ∧ (s.ctx (b.arg 1)).ctl.opened = true ∧ s.ownStream (b.arg 1) u = true
    (¬ ok → yields (.streamOpen m) s fun t => s.completes t m.val 0x11 [] ∧ t = { s with mbx := t.mbx, out := t.out }) ∧
    (ok → yields (.streamOpen m) s fun t => s.completes t m.val 0 [] ∧
      t.read (s.smapAddr u) 16 = smapBytes (b.arg 3) (b.arg 4) (b.arg 1) (b.arg 5) true ∧
      (∀ a, a < s.smapAddr u ∨ s.smapAddr u + 16 ≤ a → t.byte a = s.byte a) ∧
      t.stream u = { opened := true, ctx := b.arg 1, tenant := b.arg 2, recvPlace := b.arg 6, recvStream := b.arg 7 % 65536
                     layers := 0 } ∧
      (∀ x, x ≠ u → t.stream x = s.stream x) ∧ t = { s with srv := t.srv, mem := t.mem, mbx := t.mbx, out := t.out })) ∧
  (∀ (s : State) (m : Fin 16) (op : Nat) (cmd : Instr),
      (cmd = .streamClose m ∧ op = 0x3003) ∨ (cmd = .streamReset m ∧ op = 0x3004) → s.awaits m.val op →
    let u := (s.mailbox m.val).arg 0
    let ok := u < 65536 ∧ (s.stream u).opened = true ∧ s.streamBusy u = false
    (¬ ok → yields cmd s fun t => s.completes t m.val 0x11 [] ∧ t = { s with mbx := t.mbx, out := t.out }) ∧
    (ok → yields cmd s fun t => s.completes t m.val 0 [] ∧ (∀ x, x ≠ u → t.stream x = s.stream x) ∧
      (op = 0x3003 → t.stream u = {} ∧ t.byte (s.smapAddr u + 7) = 0) ∧
      (op = 0x3004 → t.stream u = s.stream u ∧ t.commitOf u = 0) ∧
      t = { s with srv := t.srv, mem := t.mem, kvt := t.kvt, mbx := t.mbx, out := t.out }))

/-! ## Health -/

/-- Events are written to flash oldest first with the next SEQ and the powered time, and the third counting event of a unit
within 30 days, or one permanent event, puts the unit on the map (R275, R277); powered time counts whole seconds and reaches
flash at each hour (R278). The health commands return the map, events and captures, take a unit off the map once its event is in
flash, which clears its counts (R281), and load and drop a test pack (Table 10.8). A test window replays a capture that waits for
its unit, else runs the pack item at its cursor and compares its output with the item's CRC-32C (R282-R286; a harness compares its
accumulators with those of its pattern copies).
Rests in part on the model's own choices or readings: log entries 11, 13, 46, 51. -/
def Obligations.HealthHistory : Prop :=
  (∀ (s : State) (e : HealthEvent) (rest : List HealthEvent), s.up = true → s.health.queue = e :: rest →
    let w := { e with seq := s.health.nextSeq }
    yields .healthEventWrite s fun t => w ∈ t.health.events ∧ t.health.nextSeq = s.health.nextSeq + 1 ∧
      t.health.flashSeconds = s.health.seconds ∧ t.health.events.length ≤ 131072 ∧
      (e.kind = 0xB ∨ e.kind = 0xC ∨
          (e.kind ∈ [1, 3, 4, 5, 6, 7, 8, 0xA] ∧ threeInSpan (s.health.writeEvent.counted e.unitKind e.unit) = true) →
        t.disabled e.unitKind e.unit = true) ∧
      (e.kind = 0 ∨ e.kind = 2 ∨ e.kind = 9 ∨ 0xD ≤ e.kind → t = { s with health := s.health.writeEvent } ∧
        t.health.queue = rest ∧ t.health.dumap = s.health.dumap)) ∧
  (∀ s : State, s.powered = true → exec .poweredSecond s = .next { s with health := { s.health with
    seconds := s.health.seconds + 1
    flashSeconds := if (s.health.seconds + 1) % 3600 = 0 then s.health.seconds + 1 else s.health.flashSeconds } }) ∧
  (∀ (s : State) (m : Fin 16), s.awaits m.val 0x4000 →
    let b := s.mailbox m.val
    yields (.healthDumapRead m) s fun t =>
      s.returns t m.val (b.arg2 0) (b.arg 2) s.dumapBytes [s.health.dumap.length, s.health.gen]) ∧
  (∀ (s : State) (m : Fin 16), s.awaits m.val 0x4001 →
    let b := s.mailbox m.val
    let es := (s.health.events.filter (fun e => decide (b.arg 0 ≤ e.seq))).take (b.arg 1)
    yields (.healthEventRead m) s fun t => s.returns t m.val (b.arg2 2) (es.flatMap HealthEvent.bytes).length
      (es.flatMap HealthEvent.bytes) [es.length, match s.health.events with | [] => s.health.nextSeq | e :: _ => e.seq]) ∧
  (∀ (s : State) (m : Fin 16), s.awaits m.val 0x4005 →
    let b := s.mailbox m.val
    (64 ≤ b.arg 0 → yields (.healthCaptureRead m) s fun t => s.completes t m.val 0x11 [] ∧ t = { s with mbx := t.mbx, out := t.out }) ∧
    (∀ x, b.arg 0 < 64 → s.health.captures.find? (fun e => e.1 == b.arg 0) = some (b.arg 0, x) →
      yields (.healthCaptureRead m) s fun t => s.returns t m.val (b.arg2 1) 8192 (slice x.data 0 8192) [x.state])) ∧
  (∀ (s : State) (m : Fin 16), s.awaits m.val 0x4002 →
    let k := (s.mailbox m.val).arg 0
    let i := (s.mailbox m.val).arg 1
    (s.enabled ≠ [] ∨ unitCount k ≤ i → yields (.healthUnitRestore m) s fun t =>
      s.completes t m.val 0x11 [] ∧ t = { s with mbx := t.mbx, out := t.out }) ∧
    (s.enabled = [] → i < unitCount k → yields (.healthUnitRestore m) s fun t => (t.mailbox m.val).status = 0 ∧
      (t.mailbox m.val).busy = false ∧ t.disabled k i = false ∧
      (s.health.queue = [] → s.health.events.length < 131072 → s.completes t m.val 0 [t.health.gen] ∧ t.noted 0xD k i ∧
        t.health.queue = [] ∧ (∀ u, u ≠ (k, i) → (u ∈ t.health.dumap ↔ u ∈ s.health.dumap)) ∧
        t.health.gen = (if s.disabled k i then (s.health.gen + 1) % 65536 else s.health.gen) ∧
        ((∀ e ∈ s.health.events, e.seq < s.health.nextSeq ∧ e.time < s.health.seconds) → t.health.counted k i = [])))) ∧
  (∀ (s : State) (m : Fin 16) (object : Bytes), s.awaits m.val 0x4003 →
    let b := s.mailbox m.val
    let o := s.hostData m.val b (b.arg2 0) (b.arg 2) object
    let bad := pastXfer m.val b (b.arg2 0) (b.arg 2) = true ∨ 0x1000000 < b.arg 2
    let wrong := objType o ≠ 4 ∨ Config.packVersion (objBody o) ≠ 1 ∨ Config.packProfile (objBody o) ≠ arithProfile
    yields (.healthPackLoad m object) s fun t =>
      (bad → s.completes t m.val 0x11 [] ∧ t.health = s.health) ∧
      (¬ bad → objStatus s.sec.revoked o ≠ 0 → s.completes t m.val (objStatus s.sec.revoked o) [] ∧ t.health = s.health) ∧
      (¬ bad → objStatus s.sec.revoked o = 0 → wrong → s.completes t m.val 0x11 [] ∧ t.health = s.health) ∧
      (¬ bad → objStatus s.sec.revoked o = 0 → ¬ wrong → ∃ id, s.completes t m.val 0 [id] ∧
        id = Config.packIdOf (objBody o) % 65536 ∧
        t.health = { s.health with packId := some id, pack := packOf (objBody o), packLen := o.length, cursors := [] } ∧
        t.read packBase o.length = o ∧ ∀ a, a < packBase ∨ packBase + o.length ≤ a → t.byte a = s.byte a)) ∧
  (∀ (s : State) (m : Fin 16), s.awaits m.val 0x4004 → yields (.healthPackUnload m) s fun t => s.completes t m.val 0 [] ∧
    t = { s with health := { s.health with packId := none, pack := [], packLen := 0, cursors := [] }, mbx := t.mbx, out := t.out }) ∧
  (∀ (s : State) (c : Fin 256) (l : Fin 5) (i : BitVec 18) (ups : List Upset) (output reference : Bytes) (d : Due),
      s.mayStart c.val l.val i.toNat 0xA d →
    let st := s.stepAt c.val l.val i.toNat
    let u := testUnit l.val st
    let cur := s.health.cursor u
    let cmd : Instr := .testStep c l i ⟨ups, output, reference⟩
    (∀ slot x, s.health.captureFor u = some (slot, x) → yields cmd s fun t =>
      let differs := output != reference
      (slot, x.replayed u differs) ∈ t.health.captures ∧ (differs = true → t.noted 0xB u.1 u.2) ∧
      t.health.cursors = s.health.cursors ∧ t.health.packRun = s.health.packRun) ∧
    (∀ item, s.health.captureFor u = none → s.health.itemFor u st.len = some item → yields cmd s fun t => ∃ differs : Bool,
      (u.1 ≠ 1 → differs = (crc32c output != item.crc)) ∧
      t.health.packRun = min 0xFFFF (s.health.packRun + 1) ∧
      t.health.packFailed = min 0xFFFF (s.health.packFailed + (if differs then 1 else 0)) ∧
      (differs = true → t.noted (if cur.2 then 0xB else 0xA) u.1 u.2) ∧
      (differs = true → cur.2 = false → t.health.cursor u = (cur.1, true)) ∧
      (differs = false → (t.health.cursor u).2 = false) ∧ t.mem = s.mem) ∧
    (s.health.captureFor u = none → s.health.itemFor u st.len = none → yields cmd s fun t =>
      t.health = s.health ∧ t.arr.heddles = s.arr.heddles))

/-! ## Faults, recovery and dumps -/

/-- A detector logs its fault against the domain it charges (Table 11.1) and fences it at once, unless the domain is being
recovered or retired already, when nothing starts (R290, R291, R293). A hung step is abandoned (R294), in a cut context without
a fault (R305); a starved step charges no domain and cuts its context (R304, R305); a lock-step mismatch resets the module, ends
its pairing and cuts what runs (R293, R302, R308). A host's reset is a fault with detector 0x0D (R71, R316, R432).
Rests in part on the model's own choices or readings: log entries 41, 44. -/
def Obligations.DetectorsFenceTheirDomain : Prop :=
  let fences (s t : State) (kind idx det : Nat) : Prop :=
    s.logged t kind idx det ∧ t.rcv.logSeq = s.rcv.logSeq + 1 ∧
    (s.troubled kind idx = true → t.domain kind idx = s.domain kind idx) ∧
    (s.troubled kind idx = false →
      let d := t.domain kind idx
      d.phase = 2 ∧ d.detector = det ∧ d.originPick = s.clk.pick ∧ d.fencePick = s.clk.pick ∧ d.logSeq = s.rcv.logSeq ∧
      d.total = min 0xFFFF ((s.domain kind idx).total + 1) ∧ d.drainBy ≤ s.clk.pick + 65536)
  let cutNow (s t : State) (c : Nat) : Prop :=
    (s.ctx c).ctl.state = 4 ∨ (s.ctx c).ctl.state = 5 → (s.ctx c).ctl.cut = false →
      (t.ctx c).ctl.state = 0 ∨ ((t.ctx c).ctl.state = 5 ∧ (t.ctx c).ctl.cut = true)
  (∀ (s : State) (cmd : Instr) (kind idx det : Nat),
      (∃ ch, cmd = .memoryTimeout ch ∧ kind = 5 ∧ idx = ch.val ∧ det = 5 ∧ s.awake = true) ∨
      (∃ tier, cmd = .tierTimeout tier ∧ kind = 8 ∧ idx = tier.val ∧ det = 6 ∧ s.awake = true) ∨
      (∃ l, cmd = .sequencerFault l ∧ kind = 9 ∧ idx = l.val ∧ det = 7 ∧ s.awake = true) ∨
      (∃ f, cmd = .hubWatchdog f ∧ kind = 0xA ∧ idx = f.val ∧ det = 8 ∧ s.up = true) ∨
      (cmd = .weaverHeartbeat ∧ kind = 0xA ∧ idx = 0 ∧ det = 9 ∧ s.ready = true) ∨
      (∃ m w, cmd = .mailboxTimeout m ∧ kind = 0xA ∧ idx = 0 ∧ det = 0xA ∧ s.booted = true ∧
        s.limitFrom (s.mailbox m.val) = some w ∧ (s.mailbox m.val).busy = true ∧
        mailboxLimit (s.mailbox m.val) ≤ s.clk.wall - w) ∨
      (cmd = .sramUncorrectable ∧ kind = 0xA ∧ idx = 0 ∧ det = 0xB ∧ s.up = true) →
    yields cmd s fun t => fences s t kind idx det) ∧
  (∀ (s : State) (who : Who) (j : Nat), s.actsPrv who j → (s.sel j).harn < 4096 →
    yields (.harnessReset who) s fun t => fences s t 1 (s.sel j).harn 0xD ∧ (t.harness (s.sel j).harn).resetBit = true) ∧
  (∀ (s : State) (c : Fin 256) (l : Fin 5) (i : BitVec 18) (r : Run), s.up = true →
      s.sched.runs.find? (fun r => sameRun c.val l.val i.toNat r) = some r →
    let st := s.stepAt r.ctx r.list r.idx
    r.began + st.len + 64 ≤ s.clk.pick → s.suppresses r.ctx r.list st = false →
    yields (.overrun c l i) s fun t =>
      (∀ x ∈ t.sched.runs, ¬ (sameRun r.ctx r.list r.idx x = true ∧ x.iter = r.iter)) ∧
      ((s.ctx c.val).ctl.cut = false → s.logged t (overrunDomain r st).1 (overrunDomain r st).2 1) ∧
      ((s.ctx c.val).ctl.cut = true → t.rcv.log = s.rcv.log)) ∧
  (∀ (s : State) (c : Fin 256) (l : Fin 5) (i : BitVec 18), s.up = true →
      (∃ d ∈ s.sched.due, sameStep c.val l.val i.toNat d = true ∧ d.void = false ∧ d.voidEnd + 64 ≤ s.clk.pick) →
    yields (.starved c l i) s fun t => s.logged t 0 0 3 ∧ cutNow s t c.val ∧
      ((s.ctx c.val).ctl.state = 4 ∨ (s.ctx c.val).ctl.state = 5 → (s.ctx c.val).ctl.cut = false →
        t.rcv.cutValid = true ∧ t.rcv.cutCtx = c.val ∧ t.rcv.cutCause = 3 ∧
        ∀ q ∈ t.srv.reqs, q.ctx = c.val → q.state ≠ 1 ∧ q.state ≠ 2 ∧ q.state ≠ 3)) ∧
  (∀ s : State, s.up = true → yields .lockStepMismatch s fun t => s.logged t 0xB 0 0xC ∧
    ((s.domain 0xB 0).phase ≠ 0 → t.domain 0xB 0 = s.domain 0xB 0) ∧
    ((s.domain 0xB 0).phase = 0 → (t.domain 0xB 0).phase = 2 ∧ (t.domain 0xB 0).detector = 0xC ∧ t.twin.state = 0 ∧
      t.rcv.modTotal = min 0xFFFF (s.rcv.modTotal + 1) ∧ ∀ c ∈ s.running, cutNow s t c)) ∧
  (∀ (s : State) (m : Fin 16), s.awaits m.val 0x4013 →
    let k := (s.mailbox m.val).arg 0
    let i := (s.mailbox m.val).arg 1
    let waits := s.rcv.domains.any (fun d => d.2.mbx == some m.val)
    let first := k = 0xB ∨ (k = 0xA ∧ i = 0)
    (domainCount k ≤ i → yields (.domainReset m) s fun t => s.completes t m.val 0x11 [] ∧ t = { s with mbx := t.mbx, out := t.out }) ∧
    (i < domainCount k → first → yields (.domainReset m) s fun t => s.logged t k i 0xD ∧ (t.mailbox m.val).busy = false ∧
      (t.mailbox m.val).status = 0) ∧
    (i < domainCount k → ¬ first → waits = true → exec (.domainReset m) s = .next s) ∧
    (i < domainCount k → ¬ first → waits = false → s.troubled k i = false →
      yields (.domainReset m) s fun t => s.logged t k i 0xD ∧ (t.domain k i).phase = 2 ∧ (t.domain k i).mbx = some m.val) ∧
    (i < domainCount k → ¬ first → waits = false → (s.domain k i).retired = true →
      yields (.domainReset m) s fun t => s.logged t k i 0xD ∧ t.domain k i = s.domain k i ∧ (t.mailbox m.val).busy = false))

/-- DOMAIN_RETIRE retires a domain below the hub functions with a health event of kind 0x0C (R301, R316). GSTOP is forwarded
once and cuts the group's contexts (R304, R305); FAULT is entered in the log as a remote entry and relayed once (R312, R341).
A storm window closes 65,536 picks after its last entry; the waiting resets of the root count, and a fourth within 600 s of the
first of the last three retires the domain, those of others are echo resets (R301, R313, R314).
Rests in part on the model's own choices or readings: log entries 41, 43, 46. -/
def Obligations.CutsNoticesAndStorms : Prop :=
  (∀ (s : State) (m : Fin 16), s.awaits m.val 0x4014 →
    let k := (s.mailbox m.val).arg 0
    let i := (s.mailbox m.val).arg 1
    (domainCount k ≤ i ∨ k = 0xA ∨ k = 0xB → yields (.domainRetire m) s fun t =>
      s.completes t m.val 0x11 [] ∧ t = { s with mbx := t.mbx, out := t.out }) ∧
    (i < domainCount k → k < 0xA → (s.domain k i).retired = false → yields (.domainRetire m) s fun t =>
      (t.domain k i).retired = true ∧ (t.domain k i).phase = 0 ∧ t.disabled k i = true ∧ t.noted 0xC k i ∧
      (t.mailbox m.val).busy = false ∧ (t.mailbox m.val).status = 0 ∧ (t.mailbox m.val).res.head? = some t.health.gen)) ∧
  (∀ (s : State) (group pick : BitVec 64) (origin : Fin 4096) (cause : Fin 17),
    (s.seen 7 origin.val group.toNat pick.toNat = true → exec (.gstop group origin cause pick) s = .next s) ∧
    (s.up = true → s.seen 7 origin.val group.toNat pick.toNat = false →
      yields (.gstop group origin cause pick) s fun t => ∀ c ∈ s.ofGroup group.toNat,
        (∀ p ∈ planPorts (s.image c), Output.ctrl p ⟨7, origin.val, group.toNat, pick.toNat, 0, cause.val⟩ ∈ t.out) ∧
        ((s.ctx c).ctl.state < 4 → (t.ctx c).ctl.state = 0) ∧
        ((s.ctx c).ctl.state = 4 ∨ (s.ctx c).ctl.state = 5 → (s.ctx c).ctl.cut = false → t.rcv.cutValid = true ∧
          ((t.ctx c).ctl.state = 0 ∨ ((t.ctx c).ctl.state = 5 ∧ (t.ctx c).ctl.cut = true))))) ∧
  (∀ (s : State) (n : FaultNotice),
    (s.seen 8 n.place n.group n.originPick = true → exec (.fault n) s = .next s) ∧
    (s.up = true → s.seen 8 n.place n.group n.originPick = false → yields (.fault n) s fun t =>
      (∃ e ∈ t.rcv.log, e.seq = s.rcv.logSeq ∧ e.place = n.place ∧ e.kind = n.kind ∧ e.detector = n.detector ∧
        e.index = n.index ∧ e.originPick = n.originPick ∧ e.isLocal = false) ∧
      t.rcv.stormOpen = true ∧ t.seen 8 n.place n.group n.originPick = true ∧ t.rcv.domains = s.rcv.domains ∧
      ∀ c ∈ s.ofGroup n.group, ∀ p ∈ planPorts (s.image c),
        Output.ctrl p ⟨8, n.place, n.group, n.originPick, n.kind + 256 * n.detector, n.index⟩ ∈ t.out)) ∧
  (∀ s : State, s.powered = true → s.rcv.stormOpen = true → 65536 ≤ s.clk.elapsed - s.rcv.stormLast →
    let named (k i : Nat) : Bool :=
      match firstOf s.rcv.latched with
      | some r => r.isLocal && r.kind == k && r.index == i
      | none => false
    yields .stormWindowClose s fun t => t.rcv.stormOpen = false ∧ t.rcv.rootProvisional = false ∧ ∀ k i, i < 65536 →
      let d := s.domain k i
      let e := t.domain k i
      e.undecided = [] ∧
      (named k i = false → e.starts = d.starts) ∧
      (∀ w, named k i = true → d.undecided = [w] → e.starts = (d.starts ++ [w]).drop (d.starts.length + 1 - 3) ∧
        (∀ a b c, d.starts = [a, b, c] → w - a < 2400000000000 →
          (d.phase = 2 ∨ d.phase = 3 → e.doomed = true) ∧ (d.phase = 0 → d.retired = false → e.retired = true)))) ∧
  (∀ s : State, s.rcv.stormOpen = false ∨ s.clk.elapsed - s.rcv.stormLast < 65536 → exec .stormWindowClose s = .next s)

/-- The phases of a reset (R293, Table 11.4): the drain ends when the domain's steps have ended or at its limit, and what is
still in flight then stops (R294); the dump is stored, or dropped where it does not fit (R299), and a doomed domain retires
(R301); the reset re-initialises the domain and keeps the heddles' cells (Table 11.8), that of the weaver core ends every
command with 0x43 (Table 11.3); the restore work ends the fence, and past its limit the domain is fenced again. After its dump
a reset module boots anew (R300).
Rests in part on the model's own choices or readings: log entries 42, 44, 45. -/
def Obligations.PhasesOfRecovery : Prop :=
  (∀ (s : State) (kind : Fin 12) (idx : BitVec 12), s.powered = true → (s.domain kind.val idx.toNat).phase = 2 →
    (s.drained kind.val idx.toNat = false → exec (.drainComplete kind idx) s = .next s) ∧
    (s.drained kind.val idx.toNat = true → yields (.drainComplete kind idx) s fun t =>
      (t.domain kind.val idx.toNat).phase = 3 ∧ (∀ r ∈ s.flights kind.val idx.toNat, r ∉ t.sched.runs) ∧
      (t.domain kind.val idx.toNat).islands.length = (domainIslands kind.val idx.toNat).length)) ∧
  (∀ (s : State) (kind : Fin 12) (idx : BitVec 12) (absent : List Nat), s.powered = true →
      (s.domain kind.val idx.toNat).phase = 3 → kind.val ≠ 0xB →
    let dm := s.makeDump kind.val idx.toNat absent
    let fits := (makeRoom false dm.size s.rcv.dumps).2
    yields (.dumpComplete kind idx absent) s fun t =>
      (fits = true → dm ∈ t.rcv.dumps ∧ t.rcv.dumpSeq = s.rcv.dumpSeq + 1) ∧
      (fits = false → t.rcv.dumpDropped = true ∧ t.rcv.dumpSeq = s.rcv.dumpSeq) ∧
      ((s.domain kind.val idx.toNat).doomed = false → (t.domain kind.val idx.toNat).phase = 4) ∧
      ((s.domain kind.val idx.toNat).doomed = true → (t.domain kind.val idx.toNat).retired = true)) ∧
  (∀ (s : State) (idx : BitVec 12) (absent : List Nat), s.powered = true → (s.domain 0xB idx.toNat).phase = 3 →
    yields (.dumpComplete 11 idx absent) s fun t => t.sec.stage = 0 ∧ t.sec.bootCause = 1 ∧ t.clk.pick = s.clk.pick ∧
      t.mbx = [] ∧ t.srv.reqs = [] ∧ t.twin.state = 0 ∧ (∀ c, (t.ctx c).ctl.state = 0 ∧ (t.ctx c).ctl.keyHeld = false) ∧
      (∀ c x, (c, x) ∈ s.ctxs → x.cur ≠ {} → ∃ y, (c, y) ∈ t.ctxs ∧ y.cur = x.cur) ∧ t.health.events = s.health.events ∧ t.health.dumap = s.health.dumap ∧
      (∀ l a, l < 4 → loomStore l ≤ a → a < loomStore l + loomStoreSize → t.byte a = 0) ∧
      (∀ g x, (g, x) ∈ s.arr.heddles → x.rows ≠ [] → ∃ y, (g, y) ∈ t.arr.heddles ∧ y.rows = x.rows)) ∧
  (∀ (s : State) (kind : Fin 12) (idx : BitVec 12), s.powered = true → (s.domain kind.val idx.toNat).phase = 4 →
    yields (.resetRelease kind idx) s fun t => (t.domain kind.val idx.toNat).phase = 5 ∧
      (kind.val ≠ 0xA → ∀ g, (t.heddle g).rows = (s.heddle g).rows ∧ (t.heddle g).corr = (s.heddle g).corr ∧
        (t.heddle g).programmed = (s.heddle g).programmed) ∧
      (∀ h ∈ domainHarnesses kind.val idx.toNat, ∀ i, i < 64 → (t.heddle (64 * h + i)).tile0 = {} ∧
        (t.heddle (64 * h + i)).tile1 = {}) ∧
      (kind.val = 9 → ∀ a, loomStore idx.toNat ≤ a → a < loomStore idx.toNat + loomStoreSize → t.byte a = 0) ∧
      (kind.val = 0xA → idx = 0 → ∀ m, (s.mailbox m).busy = true →
        (t.mailbox m).busy = false ∧ (t.mailbox m).done = true ∧ (t.mailbox m).status = 0x43) ∧
      (kind.val = 9 → (t.loom idx.toNat).tRef = s.loomHottest idx.toNat ∧
        ∀ g, g / 65536 = idx.toNat → (t.heddle g).satFlag = false ∧ (t.heddle g).satBank = 0) ∧
      (kind.val = 0xA → idx = 1 → t.srv = { s.srv with reqs := [], rings := t.srv.rings } ∧
        ∀ r, t.ring r = { s.ring r with overflow := false, badEntry := false })) ∧
  (∀ (s : State) (kind : Fin 12) (idx : BitVec 12), s.powered = true → (s.domain kind.val idx.toNat).phase = 5 →
    let d := s.domain kind.val idx.toNat
    (s.restorable kind.val idx.toNat = false → exec (.restoreComplete kind idx) s = .next s) ∧
    (s.restorable kind.val idx.toNat = true → yields (.restoreComplete kind idx) s fun t =>
      ((∀ h ∈ domainHarnesses kind.val idx.toNat, notedNow (s.harness h).setAt 8 s.clk.elapsed = false) →
        (t.domain kind.val idx.toNat).phase = 0 ∧ (t.domain kind.val idx.toNat).mbx = none) ∧
      (∀ h ∈ domainHarnesses kind.val idx.toNat,
        (t.harness h).resetBit = ((s.harness h).resetBit && notedNow (s.harness h).setAt 8 s.clk.elapsed)) ∧
      (∀ m, d.mbx = some m → (t.mailbox m).busy = false ∧ (t.mailbox m).status = 0)) ∧
    (s.restoreLate kind.val idx.toNat = false → exec (.restoreTimeout kind idx) s = .next s) ∧
    (s.restoreLate kind.val idx.toNat = true → ¬ (kind.val = 0xA ∧ idx.toNat = 6 ∧ s.hs.shut = true) → yields (.restoreTimeout kind idx) s fun t =>
      s.logged t kind.val idx.toNat d.detector ∧ (t.domain kind.val idx.toNat).phase = 2 ∧
      (t.domain kind.val idx.toNat).total = min 0xFFFF (d.total + 1)))

/-- DUMP_READ copies a dump out and marks it READ, and a word that its code cannot correct marks the dump or the entry DAMAGED (R290);
DUMP_RELEASE frees a dump (R299, R316); ERRLOG_READ returns the entries held of a
range of SEQ, in order (R312); MODULE_RETURN brings a module back into service and clears the start times (R302, R316).
Rests in part on the model's own choices or readings: log entries 44, 45. -/
def Obligations.DumpsAndReturn : Prop :=
  (∀ (s : State) (m : Fin 16) (ups : List (BitVec 64)), s.awaits m.val 0x4010 →
    let b := s.mailbox m.val
    let bad := ups.any (fun u => (secded u.toNat).detected != 0)
    let past := pastXfer m.val b (b.arg2 1) (b.arg 3)
    (s.namedDump (b.arg 0) = none → yields (.dumpRead (m, ups)) s fun t =>
      s.completes t m.val 0x11 [] ∧ t = { s with mbx := t.mbx, out := t.out }) ∧
    (∀ d, s.namedDump (b.arg 0) = some d →
      let bs := Dump.bytes { d with damaged := d.damaged || bad } (s.dumpRoot d)
      (past = true ∨ b.arg 3 < bs.length → yields (.dumpRead (m, ups)) s fun t =>
        s.completes t m.val 0x11 (if past then [] else [bs.length]) ∧ t = { s with mbx := t.mbx, out := t.out }) ∧
      (past = false → bs.length ≤ b.arg 3 → yields (.dumpRead (m, ups)) s fun t => s.completes t m.val 0 [d.seq, bs.length] ∧
        (viaXfer m.val b = false → Output.hostWrite (s.hostLink (b.arg2 1)) (b.arg2 1) bs ∈ t.out) ∧
        (viaXfer m.val b = true → t.read (xferBase + b.arg2 1) bs.length = bs) ∧
        (∀ x ∈ t.rcv.dumps, x.seq = d.seq → x.read = true ∧ (bad = true → x.damaged = true)) ∧
        t.rcv.dumps.length = s.rcv.dumps.length ∧ (bad = true → t.rcv.dumpDamaged = true) ∧
        (ups = [] → t = { s with rcv := { s.rcv with dumps := t.rcv.dumps }, mem := t.mem, mbx := t.mbx, out := t.out })))) ∧
  (∀ (s : State) (m : Fin 16), s.awaits m.val 0x4011 →
    let seq := (s.mailbox m.val).arg 0
    yields (.dumpRelease m) s fun t =>
      ((∀ d ∈ s.rcv.dumps, d.seq ≠ seq) → s.completes t m.val 0x11 [] ∧ t.rcv = s.rcv) ∧
      ((∃ d ∈ s.rcv.dumps, d.seq = seq) → s.completes t m.val 0 [] ∧
        ∀ d, d ∈ t.rcv.dumps ↔ d ∈ s.rcv.dumps ∧ d.seq ≠ seq) ∧
      t = { s with rcv := { s.rcv with dumps := t.rcv.dumps }, mbx := t.mbx, out := t.out }) ∧
  (∀ (s : State) (m : Fin 16) (ups : List (Nat × BitVec 64)), s.awaits m.val 0x4012 →
    let b := s.mailbox m.val
    let es := s.rcv.log.reverse.filter (fun e => decide (b.arg 0 ≤ e.seq ∧ e.seq < b.arg 0 + b.arg 1))
    let bs := es.flatMap LogEntry.bytes
    let good := ups.all (fun u => (secded u.2.toNat).detected == 0)
    (∀ n w e, (n, w) ∈ ups → es[n]? = some e → (secded w.toNat).detected ≠ 0 →
      pastXfer m.val b (b.arg2 2) (32 * b.arg 1) = false → yields (.errlogRead (m, ups)) s fun t =>
        t.rcv.dumpDamaged = true ∧ ∀ x ∈ t.rcv.log, x.seq = e.seq → x.damaged = true) ∧
    (good = true → yields (.errlogRead (m, ups)) s fun t => t.rcv = s.rcv ∧
      (pastXfer m.val b (b.arg2 2) (32 * b.arg 1) = true → s.completes t m.val 0x11 []) ∧
      (pastXfer m.val b (b.arg2 2) (32 * b.arg 1) = false → (∃ low, s.completes t m.val 0 [es.length, low]) ∧
        (viaXfer m.val b = false → Output.hostWrite (s.hostLink (b.arg2 2)) (b.arg2 2) bs ∈ t.out) ∧
        (viaXfer m.val b = true → t.read (xferBase + b.arg2 2) bs.length = bs)))) ∧
  (∀ (s : State) (m : Fin 16), s.awaits m.val 0x4015 → yields (.moduleReturn m) s fun t =>
    (s.rcv.oos = false → s.completes t m.val 0x11 [] ∧ t.rcv = s.rcv) ∧
    (s.rcv.oos = true → s.completes t m.val 0 [] ∧ t.rcv = { s.rcv with oos := false, modStarts := [] }) ∧
    t = { s with rcv := t.rcv, mbx := t.mbx, out := t.out })

/-! ## Links and twins -/

/-- A flit with a bad CRC is counted and taken as a loss; a loss asks once for a resend with the last good SEQ; the expected SEQ
is taken; a NAK, 256 picks without progress and the end of a retrain resend every unacknowledged flit (R334, R336). A retrain is
asked for by the register or by 8 resends, equalises and exchanges IDENT again, ends with the same peer, and counts as failed after 5 ms, at another peer, or as the
fourth in a second (R337). A port trains while it is enabled, sends IDENT, and is Up once it knows its peer, a twin port only
where its wires agree (R338, R342). PLAN_ID names the place at a port's other end and is relayed once (R341).
Rests in part on the model's own choices or readings: log entry 48. -/
def Obligations.XeastPorts : Prop :=
  (∀ (s : State) (port : Fin 36) (f : Flit), s.awake = true →
    let p := port.val
    let x := s.port p
    let b := slice f.bytes 0 252
    let type := byteAt b 0
    let data := fld type 0 4 = 1 ∨ fld type 0 4 = 2
    let seq := fld (le b 1 2) 0 12
    x.state = 1 ∨ x.state = 2 →
    (crc32 b ≠ f.crc → yields (.xeastFlit port f) s fun t => (t.port p).crc = min 0xFFFF (x.crc + 1) ∧
      (t.port p).rxSeq = x.rxSeq ∧ (t.port p).unacked = x.unacked ∧ (t.port p).nakOwed = true ∧
      (x.nakOwed = false → t.out = .nak p ((x.rxSeq + 4095) % 4096) :: s.out) ∧ ∀ q, q ≠ p → t.port q = s.port q) ∧
    (crc32 b = f.crc → yields (.xeastFlit port f) s fun t => (t.port p).crc = x.crc ∧
      (data → seq = x.rxSeq → (t.port p).rxSeq = (x.rxSeq + 1) % 4096 ∧ (t.port p).nakOwed = false) ∧
      (data → seq ≠ x.rxSeq → (t.port p).rxSeq = x.rxSeq ∧
        (t.port p).nakOwed = (x.nakOwed || decide ((seq + 4096 - x.rxSeq) % 4096 < 2048))) ∧
      (¬ data → (t.port p).rxSeq = x.rxSeq ∧ (t.port p).nakOwed = x.nakOwed) ∧
      (bitOf type 6 = true → ∀ e ∈ afterAck (fld (le b 3 2) 0 12) x.unacked, Output.resend p e.1 ∈ t.out) ∧
      (bitOf type 6 = false → (t.port p).retry = x.retry) ∧ ∀ q, q ≠ p → t.port q = s.port q)) ∧
  (∀ (s : State) (port : Fin 36), s.awake = true →
    let p := port.val
    let x := s.port p
    x.state = 2 → x.retrain = false → x.unacked ≠ [] → x.ackPick + 256 ≤ s.clk.elapsed →
    yields (.replayTimeout port) s fun t => (∀ e ∈ x.unacked, Output.resend p e.1 ∈ t.out) ∧
      t.port p = { x with retry := min 0xFFFFFFFF (x.retry + x.unacked.length), resends := x.resends + 1, ackPick := s.clk.elapsed } ∧
      ∀ q, q ≠ p → t.port q = s.port q) ∧
  (∀ (s : State) (who : Option Who) (port : Fin 36),
      (who = none ∧ s.awake = true ∧ 8 ≤ (s.port port.val).resends) ∨
      (∃ w j, who = some w ∧ s.actsPrv w j ∧ (s.sel j).port = port.val) →
    let x := s.port port.val
    (x.state = 2 → x.retrain = false → yields (.xlRetrain who port) s fun t =>
      (t.port port.val).retrain = true ∧ (t.port port.val).retrains = min 0xFF (x.retrains + 1) ∧
      (t.port port.val).retrainWall = s.clk.wall ∧ (t.port port.val).equalised = false ∧ (t.port port.val).identSeen = false ∧
      (t.port port.val).rxSeq = x.rxSeq ∧ (t.port port.val).txSeq = x.txSeq ∧
      (t.port port.val).unacked = x.unacked ∧ (∀ q, q ≠ port.val → t.port q = s.port q) ∧ t = { s with ports := t.ports }) ∧
    (x.state ≠ 2 ∨ x.retrain = true → yields (.xlRetrain who port) s fun t =>
      t.port port.val = { x with setAt := note x.setAt 1 s.clk.elapsed } ∧ (∀ q, q ≠ port.val → t.port q = s.port q) ∧
      t = { s with ports := t.ports })) ∧
  (∀ (s : State) (port : Fin 36), s.awake = true →
    let x := s.port port.val
    x.retrain = true → x.identSeen = true → x.wrongPeer = false → s.clk.wall ≤ x.retrainWall + 20000000 →
    yields (.retrainComplete port) s fun t =>
      ((t.port port.val).retrain = true ↔ notedNow x.setAt 1 s.clk.elapsed = true ∧ x.state = 2) ∧ (t.port port.val).unacked = x.unacked ∧
      (t.port port.val).state = x.state ∧ ∀ e ∈ x.unacked, Output.resend port.val e.1 ∈ t.out) ∧
  (∀ (s : State) (port : Fin 36) (cause : LinkCause), s.awake = true →
    let x := s.port port.val
    x.state = 2 → s.troubled 7 port.val = false →
      (cause = .retrainLate ∧ x.retrain = true ∧ x.retrainWall + 20000000 < s.clk.wall) ∨
      (cause = .wrongPeer ∧ x.retrain = true ∧ x.wrongPeer = true) ∨
      (cause = .fourRetrains ∧ 4 ≤ (x.retrainStarts.filter (fun w => decide (s.clk.wall < w + 4000000000))).length) →
    yields (.linkFailure port cause) s fun t => s.logged t 7 port.val 4 ∧ (t.domain 7 port.val).phase = 2 ∧
      (t.port port.val).fails = min 0xFF (x.fails + 1) ∧ t.rcv.alertLinkFail = true) ∧
  (∀ (s : State) (who : Who) (j : Nat) (on : Bool), s.actsPrv who j → (s.sel j).port < 36 →
    let p := (s.sel j).port
    let x := s.port p
    (on = false → s.portInPlan p = true → exec (.portEnableSet who on) s = .next { s with agg := .droppedWrite 4 :: s.agg }) ∧
    (on = true ∨ s.portInPlan p = false → yields (.portEnableSet who on) s fun t => (t.port p).enable = on ∧
      (t.port p).crc = x.crc ∧ (t.port p).retry = x.retry ∧
      (t.port p).state = (if x.state = 3 then 3 else if on = false then 0
        else if x.state = 0 ∧ s.awake = true then 1 else x.state) ∧ ∀ q, q ≠ p → t.port q = s.port q)) ∧
  (∀ (s : State) (port : Fin 36), s.awake = true →
    let x := s.port port.val
    (x.enable = true ∧ x.state = 1) ∨ (x.state = 2 ∧ x.retrain = true) → x.equalised = false →
    yields (.portEqualised port) s fun t =>
      (t.port port.val).equalised = true ∧ (t.port port.val).state = x.state ∧ (t.port port.val).retrain = x.retrain ∧
      (∀ q, q ≠ port.val → t.port q = s.port q) ∧
      Output.ctrl port.val ⟨1, 0xFFFF, 0, s.fwForm, s.sec.moduleId, port.val + 256 * arithProfile⟩ ∈ t.out) ∧
  (∀ (s : State) (port : Fin 36) (id fw : BitVec 64) (peerPort : Fin 64) (profile : BitVec 16), s.awake = true →
    let p := port.val
    let x := s.port p
    let wired := p < 32 ∨ s.twinWired p id.toNat peerPort.val = true
    (x.state = 1 → x.equalised = true → yields (.ident port id peerPort profile fw) s fun t =>
      (t.port p).peer = id.toNat ∧ (t.port p).peerPort = peerPort.val ∧ (t.port p).peerProfile = profile.toNat ∧
      (t.port p).peerFw = fw.toNat ∧ (wired → (t.port p).state = 2 ∧ (t.port p).miswired = false) ∧
      (¬ wired → (t.port p).state = 1 ∧ (t.port p).miswired = true)) ∧
    (x.state = 2 → x.retrain = true → x.equalised = true → yields (.ident port id peerPort profile fw) s fun t =>
      t.port p = { x with identSeen := true, peerFw := fw.toNat
                          wrongPeer := decide (x.peer ≠ id.toNat ∨ x.peerPort ≠ peerPort.val) }) ∧
    (x.state = 1 ∨ x.state = 2 → x.equalised = false → exec (.ident port id peerPort profile fw) s = .next s)) ∧
  (∀ (s : State) (port : Fin 36) (group leader : BitVec 64) (origin : Fin 4096) (aligned : Bool), s.awake = true →
    let p := port.val
    let g := group.toNat
    (s.port p).state = 2 →
    (s.inGroup g = [] → exec (.planId port group origin leader aligned) s = .next s) ∧
    (s.inGroup g ≠ [] → yields (.planId port group origin leader aligned) s fun t =>
      Tab.getD 0 (t.port p).planPlace g =
        (if Tab.getD 0 (s.port p).planPlace g = 0 then origin.val + 1 else Tab.getD 0 (s.port p).planPlace g) ∧
      (g, origin.val, leader.toNat, aligned) ∈ (t.port p).peerTime ∧
      (s.seen 2 origin.val g leader.toNat = false → ∀ c ∈ s.inGroup g, (s.ctx c).ctl.state = 1 ∨ (s.ctx c).ctl.state = 4 →
        ∀ q ∈ planPorts (s.image c), q ≠ p →
          Output.ctrl q ⟨2, origin.val, g, s.clk.pick, leader.toNat, b2n aligned⟩ ∈ t.out)))

/-- A pair is formed where both sides agree, with a heartbeat every 1,024 picks (R306, R308); a stream's changes go to the twin
as blocks and one record (R307), which the receiver keeps with VALID 0 at the shadow's COMMIT; a twin that departs, or is
lost with ADOPT set, has its streams and requests adopted, and with ADOPT clear the shadow is kept (R309); DETACH ends the pairing
and unmaps the shadow (R310); HANDOVER adopts one context and the pairing goes on (R311).
Rests in part on the model's own choices or readings: log entry 47. -/
def Obligations.TwinPair : Prop :=
  (∀ (s : State) (m : Fin 16) (bitmap : Bytes) (peer : PeerView), s.awaits m.val 0x4016 →
    let b := s.mailbox m.val
    let cs := bitmapCtxs (s.hostData m.val b (b.arg2 1) 32 bitmap)
    let side := b.arg 0
    let ok := pastXfer m.val b (b.arg2 1) 32 = false ∧ side ≤ 1 ∧ b.arg 3 ≤ 1 ∧ s.twin.state ≠ 1 ∧ s.twinPorts ≠ [] ∧
      peer.side ≠ side ∧ peer.profile = arithProfile ∧ peer.fwForm = s.fwForm ∧ (∀ c ∈ cs, s.pairable peer c = true) ∧
      (∀ c ∈ cs, s.inHalf c side = true) ∧ peer.ownHalves = true ∧ s.time.role ≠ 0 ∧ peer.leader = s.timeLeader ∧
      (s.time.state = 1 ∨ s.time.state = 2) ∧ (peer.timeState = 1 ∨ peer.timeState = 2)
    yields (.twinPair m bitmap peer) s fun t => t = { s with twin := t.twin, mbx := t.mbx, out := t.out } ∧
      (¬ ok → s.completes t m.val 0x11 [] ∧ t.twin = s.twin) ∧
      (ok → s.completes t m.val 0 [] ∧ t.twin = { state := 1, side := side, adopt := b.arg 3 == 1, contexts := cs
                                                  dropped := s.twin.dropped, lastBeat := s.clk.elapsed })) ∧
  (∀ s : State, s.up = true → s.twin.state = 1 → s.clk.pick % 1024 = 0 → yields .heartbeatSend s fun t =>
    (∀ p ∈ s.twinPorts, Output.ctrl p ⟨0x10, 0xFFFF, 0, s.clk.pick, 0, 0⟩ ∈ t.out) ∧ t = { s with ports := t.ports, out := t.out }) ∧
  (∀ (s : State) (port : Fin 36), s.up = true → 32 ≤ port.val → s.twin.state = 1 →
    exec (.heartbeat port) s = .next { s with twin := { s.twin with lastBeat := s.clk.elapsed } }) ∧
  (∀ (s : State) (stream : BitVec 16) (p : Nat), s.awake = true → s.twin.state = 1 →
      (∃ d ∈ s.twin.dirty, d.1 = stream.toNat) → s.twinPortOf stream.toNat = some p →
    yields (.shadowRecordSend stream) s fun t => Output.shadow p (s.shadowRec stream.toNat) ∈ t.out ∧
      (∀ k ∈ s.changedBlocks stream.toNat (Tab.getD 0 s.twin.sent stream.toNat) (s.commitOf stream.toNat),
        Output.shadowPut p (k * 4096) (s.read (k * 4096) 4096) (s.storedTally k) ∈ t.out) ∧
      (∀ d, d ∈ t.twin.dirty ↔ d ∈ s.twin.dirty ∧ d.1 ≠ stream.toNat) ∧
      Tab.getD 0 t.twin.sent stream.toNat = s.commitOf stream.toNat) ∧
  (∀ (s : State) (r : ShadowRec), s.awake = true → s.shadows r.context = true →
    (r.pendingOnly = true → exec (.shadowRecord r) s =
      .next { s with twin := { s.twin with forwarded := s.twin.forwarded ++ [r] } }) ∧
    (r.pendingOnly = false → yields (.shadowRecord r) s fun t => (r.stream, r) ∈ t.twin.shadows ∧
      t.read (s.smapAddr r.stream) 16 = slice r.smapEntry 0 7 ++ [0] ++ toLe 4 r.commit ++ toLe 4 0 ∧
      t = { s with mem := t.mem, twin := t.twin })) ∧
  (∀ (s : State) (cmd : Instr), s.up = true → s.twin.state = 1 →
      (cmd = .peerLost ∧ 8192 ≤ s.clk.elapsed - s.twin.lastBeat) ∨ (∃ p : Fin 36, cmd = .depart p ∧ 32 ≤ p.val) →
    (cmd ≠ .peerLost ∨ s.twin.adopt = true → yields cmd s fun t => t.twin.state = 2 ∧ t.twin.shadows = [] ∧
      t.twin.contexts = [] ∧ (∀ x ∈ s.twin.shadows, (t.stream x.2.stream).opened = true) ∧
      (∀ q ∈ s.srv.reqs, q ∈ t.srv.reqs)) ∧
    (cmd = .peerLost → s.twin.adopt = false → exec cmd s =
      .next { s with twin := { s.twin with state := 3, dirty := [], blocks := [] } })) ∧
  (∀ (s : State) (m : Fin 16), s.awaits m.val 0x4017 →
    (s.twin.state = 1 ∨ s.twin.state = 3 → yields (.twinDetach m) s fun t => s.completes t m.val 0 [] ∧ t.twin.state = 0 ∧
      t.twin.shadows = [] ∧ t.twin.contexts = [] ∧ ∀ p ∈ s.twinPorts, Output.ctrl p ⟨0x12, 0xFFFF, 0, s.clk.pick, 0, 0⟩ ∈ t.out) ∧
    (s.twin.state ≠ 1 → s.twin.state ≠ 3 → yields (.twinDetach m) s fun t =>
      s.completes t m.val 0x11 [] ∧ t = { s with mbx := t.mbx, out := t.out })) ∧
  (∀ (s : State) (port : Fin 36), s.up = true → 32 ≤ port.val → s.twin.state = 1 ∨ s.twin.state = 3 →
    yields (.detach port) s fun t => t.twin.state = 0 ∧ t.twin.shadows = [] ∧ t.twin.contexts = [] ∧
      t.twin.adopted = s.twin.adopted ∧ t = { s with mem := t.mem, kvt := t.kvt, twin := t.twin }) ∧
  (∀ (s : State) (port : Fin 36) (c : Fin 256) (h : BitVec 64), s.up = true → 32 ≤ port.val → s.shadows c.val = true →
    yields (.handover port c h) s fun t => t.twin.state = 1 ∧ t.twin.contexts = s.twin.contexts ∧
      (∀ x ∈ s.twin.shadows, x.2.context = c.val → (t.stream x.2.stream).opened = true ∧ x.2.stream ∈ t.twin.adopted) ∧
      (∀ x, x ∈ t.twin.shadows ↔ x ∈ s.twin.shadows ∧ x.2.context ≠ c.val) ∧ ∀ q ∈ s.srv.reqs, q ∈ t.srv.reqs)

/-! ## Boot, identity and debug -/

/-- Stage 0 reads the PUF and verifies the boot stage, stage 1 applies a valid configuration record, loads the disabled-unit map
and runs the self-test, or either leads to recovery (R388, R396, R400, R404); a phase beyond its limit is noted once
(R392, R435). FW_LOAD verifies Adoraku in stage 2 (R390), which starts with every context closed and table set 3 (R120, R300,
R391). Key derivation ends with the keys ready where they match the certificates (R385). BIST_RUN tests eligible units (R401).
Recovery programs the boot stage word by word and boots it once it verifies (R400).
Rests in part on the model's own choices or readings: log entries 11, 60. -/
def Obligations.BootAndRecoveryMode : Prop :=
  (∀ (s : State) (puf : Bool), s.up = true →
    (s.sec.stage ≠ 0 → exec (.romVerifyDone puf) s = .next s) ∧
    (s.sec.stage = 0 → yields (.romVerifyDone puf) s fun t => t.sec.pufOk = (puf && !s.sec.debug) ∧
      t.sec.stageWall = s.clk.wall ∧
      (s.bootVerifies = true → s.pwr.cfgRecoverLow = false → t.sec.stage = 1 ∧ t.sec.bootVer = objVersion s.sec.flash.boot ∧
        t.sec.derivation = (puf && !s.sec.debug) ∧ t.sec.derivationEnded = !(puf && !s.sec.debug)) ∧
      (s.bootVerifies = false ∨ s.pwr.cfgRecoverLow = true → t.sec.stage = 5) ∧ t = { s with sec := t.sec })) ∧
  (∀ (s : State) (b0 b1 b2 b3 : BistOutcome), s.up = true → s.sec.stage = 1 →
    let record := objBody s.sec.flash.record
    let valid := State.recordValid { s with sec := { s.sec with moduleId := s.bundleId } }
    let revoked := if valid then recordRevoke record else s.sec.revoked
    yields (.bootStageDone b0 b1 b2 b3) s fun t => t.sec.moduleId = s.bundleId ∧ t.sec.revoked = revoked ∧
      (valid = true → t.sec.recordOk = true ∧ t.sec.screen = screenOf (recordOrder record) ∧
        t.sec.minFw = recordMinFw record ∧ t.arr.spareCfg = min 8 (recordSpares record)) ∧
      t.sec.stage = (if bitOf revoked (objSigner s.sec.flash.boot) then 5 else 2) ∧
      (bitOf revoked (objSigner s.sec.flash.boot) = false →
        (∀ e ∈ s.health.dumap, e.1 = 1 → (t.harness e.2).state = 0 ∧ (t.domain 1 e.2).retired = true) ∧
        (∀ item, item < 4 → (Tab.getD {} t.sec.bist item).run = true ∧
          (Tab.getD {} t.sec.bist item).whenRun = (if s.sec.bootCause = 0 then 0 else 1)) ∧
        t.health.gen = (s.health.gen + 1) % 65536)) ∧
  (∀ s : State, s.up = true →
    let limit := if s.sec.stage = 0 then 200000000 else if s.sec.stage = 1 then 2000000000 else 400000000
    s.sec.stage = 0 ∨ s.sec.stage = 1 ∨ s.sec.stage = 3 →
    (s.sec.phaseLate = true ∨ s.clk.wall ≤ s.sec.stageWall + limit → exec .bootPhaseLate s = .next s) ∧
    (s.sec.phaseLate = false → s.sec.stageWall + limit < s.clk.wall → yields .bootPhaseLate s fun t =>
      t.sec = { s.sec with bootLate := true, phaseLate := true, setAt := note s.sec.setAt 8 s.clk.elapsed } ∧ s.logged t 0 s.sec.stage 0x23)) ∧
  (∀ (s : State) (ok : Bool), s.up = true → s.sec.derivation = true → exec (.keyDerivationDone ok) s = .next { s with sec :=
    { s.sec with derivation := false, derivationEnded := true, derivWall := s.clk.wall, keysReady := ok, identityBad := !ok } }) ∧
  (∀ (s : State) (m : Fin 16) (object : Bytes), s.awaits m.val 0x5000 →
    let b := s.mailbox m.val
    let o := s.hostData m.val b (b.arg2 0) (b.arg 2) object
    let fits := s.sec.stage = 2 ∧ s.priv b.slot = true ∧ b.arg 2 ≤ 0x1000000 ∧ pastXfer m.val b (b.arg2 0) (b.arg 2) = false ∧
      objType o = 2 ∧ objProfile o = arithProfile
    let status := objStatus s.sec.revoked o
    yields (.fwLoad m object) s fun t => t = { s with sec := t.sec, mbx := t.mbx, out := t.out } ∧
      (¬ fits → s.completes t m.val 0x11 [] ∧ t.sec = s.sec) ∧
      (fits → status ≠ 0 → s.completes t m.val status [] ∧ t.sec = s.sec) ∧
      (fits → status = 0 → objVersion o < s.sec.minFw → s.completes t m.val 0x19 [] ∧ t.sec = s.sec) ∧
      (fits → status = 0 → s.sec.minFw ≤ objVersion o → s.completes t m.val 0 [] ∧
        t.sec = { s.sec with fwImage := o, stage := 3, stageWall := s.clk.wall, phaseLate := false })) ∧
  (∀ s : State, s.up = true → s.sec.stage = 3 → yields .adorakuStarted s fun t => t.sec.stage = 4 ∧
    t.sec.fwVer = objVersion s.sec.fwImage ∧ t.sec.tableSet = 3 ∧ ∀ c, (t.ctx c).ctl.opened = false ∧
      ((s.ctx c).ctl.opened = true → (t.ctx c).cur = {} ∧ (t.ctx c).staged = none ∧ (t.ctx c).ctl.keyHeld = false)) ∧
  (∀ (s : State) (m : Fin 16) (outcome : BistOutcome), s.awaits m.val 0x4020 →
    let item := (s.mailbox m.val).arg 0
    let u := (s.mailbox m.val).arg 1
    let ok := item < 3 ∧ (u = 0xFFFFFFFF ∨ s.bistEligible item u = true)
    let tested := if u = 0xFFFFFFFF then (s.bistScope item).filter (fun u => s.bistEligible item u) else [u]
    (¬ ok → yields (.bistRun m outcome) s fun t => s.completes t m.val 0x11 [] ∧ t = { s with mbx := t.mbx, out := t.out }) ∧
    (ok → yields (.bistRun m outcome) s fun t =>
      let r := Tab.getD {} t.sec.bist item
      s.completes t m.val 0 [r.resWord.toNat, r.covWord.toNat] ∧ r.run = true ∧ r.whenRun = 2 ∧ r.tested = tested.length ∧
      (r.pass = true ↔ ∀ x ∈ outcome.failed, x ∉ tested) ∧
      (item = 0 → ∀ x ∈ outcome.failed, x ∈ tested → t.noted 0xA 1 x))) ∧
  (∀ (s : State) (v : Word), s.up = true → s.sec.stage = 5 → yields (.secRcvDataWrite v) s fun t =>
    (∀ i, t.sec.flash.boot.getD i 0xFF = if s.sec.rcvAddr ≤ i ∧ i < s.sec.rcvAddr + 4 then
      BitVec.ofNat 8 (v.toNat / 256 ^ (i - s.sec.rcvAddr)) else s.sec.flash.boot.getD i 0xFF) ∧
    t.sec.rcvAddr = (s.sec.rcvAddr + 4) % 0x100000 ∧ t.sec.rcvData = v.toNat ∧ t = { s with sec := t.sec }) ∧
  (∀ s : State, s.up = true → s.sec.stage = 5 → yields .secRcvVerify s fun t =>
    (s.bootVerifies = false → t = { s with sec := { s.sec with verifyFail := true } }) ∧
    (s.bootVerifies = true → s.pwr.cfgRecoverLow = true → t = { s with sec := { s.sec with verifyFail := false } }) ∧
    (s.bootVerifies = true → s.pwr.cfgRecoverLow = false → t.sec.stage = 1 ∧ t.sec.verifyFail = false ∧ t = { s with sec := t.sec })) ∧
  (∀ (s : State) (v : Word), s.sec.stage ≠ 5 → exec (.secRcvDataWrite v) s = .next s ∧ exec .secRcvVerify s = .next s)

/-- CERT_READ returns the bundle; FLASH_UPDATE writes a verified object of the region's TYPE, a record only for this module and
not older than the one in effect (R398); ATTEST waits until key derivation has ended, is refused while debug access is enabled,
and returns a report around its body (R393, R402-R404); DEBUG_CHALLENGE gives a nonce, a free value, and a token for it unlocks
debug, clearing every key, while no sealed context is enabled and no load in progress (R404); scan and core commands need
debug.
Rests in part on the model's own choices or readings: log entries 11, 14, 61. -/
def Obligations.SecurityCommands : Prop :=
  (∀ (s : State) (m : Fin 16), s.awaits m.val 0x5001 →
    let b := s.mailbox m.val
    yields (.certRead m) s fun t =>
      s.returns t m.val (b.arg2 0) (b.arg 2) s.sec.flash.certs [s.sec.flash.certs.length]) ∧
  (∀ (s : State) (m : Fin 16) (object : Bytes), s.awaits m.val 0x5003 →
    let b := s.mailbox m.val
    let r := b.arg 0
    let o := s.hostData m.val b (b.arg2 1) (b.arg 3) object
    let status := objStatus s.sec.revoked o
    let bad := 2 < r ∨ pastXfer m.val b (b.arg2 1) (b.arg 3) = true
    yields (.flashUpdate m object) s fun t => t = { s with sec := t.sec, mbx := t.mbx, out := t.out } ∧
      (bad → s.completes t m.val 0x11 [] ∧ t.sec = s.sec) ∧
      (¬ bad → status ≠ 0 → s.completes t m.val status [] ∧ t.sec = s.sec) ∧
      (¬ bad → status = 0 → s.updateStatus r o ≠ 0 → s.completes t m.val (s.updateStatus r o) [] ∧ t.sec = s.sec) ∧
      (¬ bad → status = 0 → s.updateStatus r o = 0 → s.completes t m.val 0 [] ∧ t.sec = { s.sec with flash :=
        { s.sec.flash with
          boot := if r = 0 then o else s.sec.flash.boot
          record := if r = 1 then o else s.sec.flash.record
          certs := if r = 2 then o else s.sec.flash.certs } })) ∧
  (∀ (s : State) (m : Fin 16) (nonce bitmap : Bytes), s.awaits m.val 0x5002 →
    let b := s.mailbox m.val
    let cmd : Instr := .attest m nonce bitmap
    let barred := s.sec.debug = true ∨ s.attesting m.val = true ∨ pastXfer m.val b (b.arg2 0) 32 = true ∨ pastXfer m.val b (b.arg2 2) 32 = true
    let body := s.attestBody (s.hostData m.val b (b.arg2 0) 32 nonce) (s.hostData m.val b (b.arg2 2) 32 bitmap)
    (¬ barred → s.sec.derivationEnded = false → exec cmd s = .next s) ∧
    (barred ∨ (s.sec.derivationEnded = true ∧ s.sec.keysReady = false) → yields cmd s fun t =>
      s.completes t m.val 0x11 [] ∧ t = { s with mbx := t.mbx, out := t.out }) ∧
    (¬ barred → s.sec.derivationEnded = true → s.sec.keysReady = true → yields cmd s fun t => ∃ r : Bytes,
      State.returns { s with tick := s.tick + 1 } t m.val (b.arg2 4) (b.arg 6) r [r.length] ∧
      slice r 64 body.length = body ∧ le r 0 4 = 0x4A4D5347 ∧ le r 4 2 = 7 ∧ byteAt r 0xC = 0xFF)) ∧
  (∀ (s : State) (m : Fin 16), s.awaits m.val 0x5004 →
    let b := s.mailbox m.val
    let past := pastXfer m.val b (b.arg2 0) 32
    yields (.debugChallenge m) s fun t =>
      (past = true → s.completes t m.val 0x11 [] ∧ t.sec = s.sec) ∧
      (past = false → s.completes t m.val 0 [] ∧ ∃ n : Bytes, n.length = 32 ∧ t.sec = { s.sec with nonce := some n } ∧
        (viaXfer m.val b = false → Output.hostWrite (s.hostLink (b.arg2 0)) (b.arg2 0) n ∈ t.out) ∧
        (viaXfer m.val b = true → t.read (xferBase + b.arg2 0) 32 = n))) ∧
  (∀ (s : State) (m : Fin 16) (object : Bytes), s.awaits m.val 0x5005 →
    let b := s.mailbox m.val
    let o := s.hostData m.val b (b.arg2 0) (b.arg 2) object
    let past := pastXfer m.val b (b.arg2 0) (b.arg 2)
    let status := objStatus s.sec.revoked o
    let ok := objType o = 5 ∧ le (objBody o) 0 8 = s.sec.moduleId ∧ s.sec.nonce = some (slice (objBody o) 8 32) ∧
      (objBody o).length = 40 ∧ ∀ x ∈ s.ctxs, (x.2.ctl.sealed = true → x.2.ctl.state = 0) ∧ x.2.held = none
    (past = true ∨ (status = 0 ∧ ¬ ok) → yields (.debugUnlock m object) s fun t =>
      s.completes t m.val 0x11 [] ∧ t = { s with mbx := t.mbx, out := t.out }) ∧
    (past = false → status ≠ 0 → yields (.debugUnlock m object) s fun t =>
      s.completes t m.val status [] ∧ t = { s with mbx := t.mbx, out := t.out }) ∧
    (past = false → status = 0 → ok → yields (.debugUnlock m object) s fun t => s.completes t m.val 0 [] ∧
      t.sec.debug = true ∧ t.sec.keysReady = false ∧ t.sec.pufOk = false ∧ t.sec.nonce = none ∧
      (∀ c, (t.ctx c).ctl.keyHeld = false ∧ (t.ctx c).ctl.key = []) ∧
      t = { s with sec := t.sec, ctxs := t.ctxs, mbx := t.mbx, out := t.out })) ∧
  (∀ (s : State) (m : Fin 16) (data : Bytes), s.awaits m.val 0x5006 →
    let b := s.mailbox m.val
    let bad := s.sec.debug = false ∨ 1 < b.arg 1 ∨ islandCount (b.arg 0 / 2 ^ 24) ≤ b.arg 0 % 2 ^ 24 ∨
      pastXfer m.val b (b.arg2 2) (b.arg 4) = true
    (bad → yields (.dbgScan m data) s fun t => s.completes t m.val 0x11 [] ∧ t = { s with mbx := t.mbx, out := t.out }) ∧
    (¬ bad → yields (.dbgScan m data) s fun t => s.completes t m.val 0 [b.arg 4] ∧
      t = { s with tick := t.tick, mem := t.mem, mbx := t.mbx, out := t.out } ∧
      (b.arg 1 = 0 → viaXfer m.val b = false → ∃ bs : Bytes, bs.length = b.arg 4 ∧ Output.hostWrite (s.hostLink (b.arg2 2)) (b.arg2 2) bs ∈ t.out))) ∧
  (∀ (s : State) (m : Fin 16) (data : Bytes), s.awaits m.val 0x5007 →
    let b := s.mailbox m.val
    let core := b.arg 0
    let op := b.arg 1
    let bad := s.sec.debug = false ∨ 4 < core ∨ 4 < op ∨ (3 ≤ op ∧ pastXfer m.val b (b.arg2 4) (b.arg 6) = true)
    (bad → yields (.dbgCore m data) s fun t => s.completes t m.val 0x11 [] ∧ t = { s with mbx := t.mbx, out := t.out }) ∧
    (¬ bad → yields (.dbgCore m data) s fun t => s.completes t m.val 0 [if op < 3 then 0 else b.arg 6] ∧
      (op = 0 → ∀ k, k ∈ t.sec.halted ↔ k = core ∨ k ∈ s.sec.halted) ∧
      (op = 2 → ∀ k, k ∈ t.sec.halted ↔ k ≠ core ∧ k ∈ s.sec.halted) ∧ (op = 1 ∨ 3 ≤ op → t.sec = s.sec)))

/-! ## Observation -/

/-- A read of OBS_BUSY_LO latches an engine's counts for its requester (R411); PMC_CTRL.RUN acts at the next pick boundary, a
counter is written by halves, which clears WRAP, and its low word latches the high one for a privileged reader (R412-R414);
the seed loads every list's LFSR, never with 0 (R415). Arming empties a buffer whose place is allowed, else BAD is set (R417,
R418); the oldest tag record gets its SEQ (R417); a sample is taken once at its pick (R419); the dumps return their bytes
(R433).
Rests in part on the model's own choices or readings: log entries 15, 62, 63. -/
def Obligations.ObservationCommands : Prop :=
  (∀ (s : State) (who : Who) (j : Nat), s.actsAs who j → isEngine (s.sel j).eng = true →
    let e := (s.sel j).eng
    let x := s.engine e
    yields (.obsBusyLoRead who) s fun t => t.out = .readData j (BitVec.ofNat 32 x.busy) :: s.out ∧
      t.latch j = { s.latch j with
        busy := x.busy, stall := x.stalled, idle := s.clk.elapsed - x.busy - x.stalled, down := s.downPicks e
        rsnKnot := x.rsnKnot, rsnUnit := x.rsnUnit, rsnTile := x.rsnTile, rsnVoid := x.rsnVoid
        snap := (s.clk.pick + (2 ^ 64 - 1)) % 2 ^ 64 } ∧
      t = { s with acc := { s.acc with latches := t.acc.latches }, out := t.out }) ∧
  (∀ (s : State) (who : Who) (j : Nat), s.actsPrv who j →
    (∀ on : Bool, exec (.pmcRunSet who on) s = .next { s with obs := { s.obs with runReq := some on } }) ∧
    (∀ (hi : Bool) (v : Word), let n := (s.sel j).pmc
      let k := if (s.pmc n).inPickAt = s.clk.elapsed then (s.pmc n).inPick else 0
      let old := ((s.pmc n).count + (2 ^ 48 - k % 2 ^ 48)) % 2 ^ 48
      let w := if hi then v.toNat % 65536 * 2 ^ 32 + old % 2 ^ 32 else v.toNat
      yields (.pmcCntWrite who hi v) s fun t => (t.pmc n).count = (w + k) % 2 ^ 48 ∧
        (t.pmc n).wrap = decide (2 ^ 48 ≤ w + k) ∧
        (∀ k, k ≠ n → t.pmc k = s.pmc k) ∧ t = { s with obs := { s.obs with pmcs := t.obs.pmcs } }) ∧
    (∀ v : Word, yields (.pmcTagSeedWrite who v) s fun t => t.obs.tagSeed = v.toNat ∧
      (∀ l, l < 5 → t.sched.lfsrs.getD l 0 ≠ 0 ∧ (v ≠ 0 → v ≠ BitVec.ofNat 32 l → t.sched.lfsrs.getD l 0 = v ^^^ BitVec.ofNat 32 l)) ∧
      t = { s with sched := { s.sched with lfsrs := t.sched.lfsrs }, obs := { s.obs with tagSeed := t.obs.tagSeed } })) ∧
  (∀ (s : State) (who : Who) (j : Nat), s.actsAs who j →
    let x := s.pmc (s.sel j).pmc
    (s.priv j = true → exec (.pmcCntLoRead who) s = .next { s with
      obs := { s.obs with pmcHi := x.count / 2 ^ 32 }, out := .readData j (BitVec.ofNat 32 x.count) :: s.out }) ∧
    (s.priv j = false → exec (.pmcCntLoRead who) s =
      .next { s with agg := .prvDenied j :: s.agg, out := .readData j 0 :: s.out })) ∧
  (∀ (s : State) (who : Who) (j : Nat) (v : Word), s.actsPrv who j →
    let b := s.obs.tagBuf
    yields (.tagArm who v) s fun t => t = { s with obs := t.obs } ∧
      t.obs.tagRate = fld v.toNat 1 5 ∧ t.obs.tagKind = fld v.toNat 16 4 ∧ t.obs.tagCtx = fld v.toNat 7 8 ∧
      t.obs.tagCtxF = bitOf v.toNat 6 ∧ t.obs.tagBuf.wrap = bitOf v.toNat 15 ∧
      (bitOf v.toNat 0 = false → t.obs.tagBuf.on = false) ∧
      (bitOf v.toNat 0 = true → b.on = false → b.blocks ≠ 0 → s.badBuffer b s.obs.trcBuf = true →
        t.obs.tagBuf.on = false ∧ t.obs.tagBuf.bad = true) ∧
      (bitOf v.toNat 0 = true → b.on = false → b.blocks ≠ 0 → s.badBuffer b s.obs.trcBuf = false →
        t.obs.tagBuf.on = true ∧ t.obs.tagBuf.wptr = 0 ∧ t.obs.tagBuf.seq = 0 ∧ t.obs.tagWaiting = [])) ∧
  (∀ (s : State) (w : Nat) (bs : Bytes) (rest : List (Nat × Bytes)), s.awake = true → s.obs.tagBuf.on = true →
      s.obs.tagWaiting = (w, bs) :: rest →
    let b := s.obs.tagBuf
    let rec_ := bs ++ toLe 4 b.seq ++ toLe 4 0
    let place := b.place rec_.length s.clk.elapsed
    yields .tagRecordWrite s fun t => t.obs.tagWaiting = rest ∧ t.obs.tagBuf = place.1 ∧
      (∀ a z, place.2 = some (a, z) → t.read a rec_.length = rec_) ∧ (place.2 = none → t.mem = s.mem)) ∧
  (∀ (s : State) (who : Who) (j : Nat) (v : Word), s.actsPrv who j →
    let b := s.obs.trcBuf
    let mode := if b.recording ∨ fld v.toNat 0 2 = 3 then s.obs.trcMode else fld v.toNat 0 2
    yields (.traceArm who v) s fun t => t = { s with obs := t.obs } ∧ t.obs.trcMode = mode ∧
      t.obs.trcClasses = fld v.toNat 3 7 ∧ t.obs.trcPeriod = fld v.toNat 10 5 ∧ t.obs.trcCtx = fld v.toNat 16 8 ∧
      (bitOf v.toNat 24 = false ∨ mode = 0 ∨ b.blocks = 0 → t.obs.trcBuf = { b with wrap := bitOf v.toNat 2 }) ∧
      (bitOf v.toNat 24 = true → mode = 1 → b.blocks ≠ 0 → s.largeGroup = true → t.obs.trcBuf.denied = true ∧
        t.obs.trcBuf.on = b.on) ∧
      (bitOf v.toNat 24 = true → mode ≠ 0 → b.blocks ≠ 0 → (mode ≠ 1 ∨ s.largeGroup = false) →
        (s.badBuffer b s.obs.tagBuf = true → t.obs.trcBuf.bad = true) ∧
        (s.badBuffer b s.obs.tagBuf = false → t.obs.trcBuf.on = true ∧ t.obs.trcBuf.wptr = 0 ∧ t.obs.trcBuf.seq = 0))) ∧
  (∀ (s : State) (who : Who) (j : Nat), s.actsPrv who j → exec (.traceStop who) s = .next (
    if s.obs.trcBuf.on then { s with obs := { s.obs with trcStop := true } } else s)) ∧
  (∀ s : State, s.awake = true → s.obs.trcBuf.on = true → s.obs.trcMode = 1 → s.obs.trcStart ≤ s.clk.pick →
      (s.clk.pick - s.obs.trcStart) % 2 ^ max 6 (min 20 s.obs.trcPeriod) = 0 →
    (s.obs.trcLast = some s.clk.pick → exec .traceSample s = .next s) ∧
    (s.obs.trcLast ≠ some s.clk.pick → yields .traceSample s fun t => t.obs.trcLast = some s.clk.pick ∧
      t.obs.trcBuf = (s.obs.trcBuf.place s.sampleBytes.length s.clk.elapsed).1 ∧
      (∀ a z, (s.obs.trcBuf.place s.sampleBytes.length s.clk.elapsed).2 = some (a, z) →
        t.read a s.sampleBytes.length = s.sampleBytes))) ∧
  (∀ (s : State) (m : Fin 16), s.awaits m.val 0x6000 →
    let b := s.mailbox m.val
    yields (.obsDump m) s fun t => s.returns t m.val (b.arg2 0) (b.arg 2) s.obsDumpBytes
      [s.obsDumpBytes.length, s.snapPick % 2 ^ 32, s.snapPick / 2 ^ 32]) ∧
  (∀ (s : State) (m : Fin 16), s.awaits m.val 0x6001 →
    let b := s.mailbox m.val
    yields (.monDump m) s fun t => s.returns t m.val (b.arg2 0) (b.arg 2) s.monDumpBytes [s.monDumpBytes.length])
end

