-- ==== Sys2Proof/Laws/Tab.lean ====
section
/-! SUPPORT. Tables: reading after an update, and the canonical form that every update keeps. -/

namespace Sys2Proof.Machine

variable {α : Type}

/-! ## Reading after an update -/

theorem Tab.getD_del_same (d : α) (k : Nat) (t : Tab α) : Tab.getD d (Tab.del k t) k = d := by
  induction t with
  | nil => rfl
  | cons e t ih =>
    obtain ⟨j, a⟩ := e
    by_cases h : j = k <;> simp [Tab.del, Tab.getD, h, ih]

theorem Tab.getD_del_other (d : α) {k k' : Nat} (h : k' ≠ k) (t : Tab α) : Tab.getD d (Tab.del k t) k' = Tab.getD d t k' := by
  induction t with
  | nil => rfl
  | cons e t ih =>
    obtain ⟨j, a⟩ := e
    by_cases hj : j = k
    · subst hj; simp [Tab.del, Tab.getD, ih, Ne.symm h]
    · by_cases hk : j = k' <;> simp [Tab.del, Tab.getD, hj, hk, ih]
      subst hk; simp [hj, Tab.getD]

theorem Tab.getD_ins_same (d : α) (k : Nat) (v : α) (t : Tab α) : Tab.getD d (Tab.ins k v t) k = v := by
  induction t with
  | nil => simp [Tab.ins, Tab.getD]
  | cons e t ih =>
    obtain ⟨j, a⟩ := e
    by_cases hj : j = k
    · simp [Tab.ins, Tab.getD, hj]
    · by_cases hk : k < j <;> simp [Tab.ins, Tab.getD, hj, hk, ih]

theorem Tab.getD_ins_other (d : α) {k k' : Nat} (h : k' ≠ k) (v : α) (t : Tab α) :
    Tab.getD d (Tab.ins k v t) k' = Tab.getD d t k' := by
  induction t with
  | nil => simp [Tab.ins, Tab.getD, Ne.symm h]
  | cons e t ih =>
    obtain ⟨j, a⟩ := e
    by_cases hj : j = k
    · subst hj; simp [Tab.ins, Tab.getD, Ne.symm h]
    · by_cases hk : k < j
      · simp [Tab.ins, Tab.getD, hj, hk, Ne.symm h]
      · by_cases hk' : j = k'
        · subst hk'; simp [Tab.ins, Tab.getD, hj, hk]
        · simp [Tab.ins, Tab.getD, hj, hk, hk', ih]

variable [DecidableEq α]

/-- A table read at the number just put reads the value put. -/
@[simp] theorem Tab.getD_put_same (d : α) (t : Tab α) (k : Nat) (v : α) : Tab.getD d (Tab.put d t k v) k = v := by
  unfold Tab.put
  split
  · next h => rw [Tab.getD_del_same, h]
  · rw [Tab.getD_ins_same]

/-- Every other number reads as before. -/
theorem Tab.getD_put_other (d : α) (t : Tab α) {k k' : Nat} (h : k' ≠ k) (v : α) :
    Tab.getD d (Tab.put d t k v) k' = Tab.getD d t k' := by
  unfold Tab.put
  split
  · rw [Tab.getD_del_other d h]
  · rw [Tab.getD_ins_other d h]

@[simp] theorem Tab.getD_upd_same (d : α) (t : Tab α) (k : Nat) (f : α → α) :
    Tab.getD d (Tab.upd d t k f) k = f (Tab.getD d t k) := by
  rw [Tab.upd, Tab.getD_put_same]

theorem Tab.getD_upd_other (d : α) (t : Tab α) {k k' : Nat} (h : k' ≠ k) (f : α → α) :
    Tab.getD d (Tab.upd d t k f) k' = Tab.getD d t k' := by
  rw [Tab.upd, Tab.getD_put_other d t h]

/-! ## Canonical form -/

variable {d : α}

theorem Tab.okFrom_mono {lo lo' : Nat} (h : lo' ≤ lo) {t : Tab α} (ht : Tab.okFrom d lo t = true) : Tab.okFrom d lo' t = true := by
  cases t with
  | nil => rfl
  | cons e t =>
    obtain ⟨j, a⟩ := e
    simp only [Tab.okFrom, Bool.and_eq_true, decide_eq_true_eq] at ht ⊢
    exact ⟨by omega, ht.2⟩

theorem Tab.okFrom_del {k lo : Nat} {t : Tab α} (ht : Tab.okFrom d lo t = true) : Tab.okFrom d lo (Tab.del k t) = true := by
  induction t generalizing lo with
  | nil => rfl
  | cons e t ih =>
    obtain ⟨j, a⟩ := e
    simp only [Tab.okFrom, Bool.and_eq_true, decide_eq_true_eq] at ht
    by_cases hj : j = k
    · simpa [Tab.del, hj] using Tab.okFrom_mono (by omega) (ih ht.2.2)
    · simp [Tab.del, hj, Tab.okFrom, ht.1, ht.2.1, ih ht.2.2]

theorem Tab.okFrom_ins {k lo : Nat} {v : α} (hv : v ≠ d) (hk : lo ≤ k) {t : Tab α} (ht : Tab.okFrom d lo t = true) :
    Tab.okFrom d lo (Tab.ins k v t) = true := by
  induction t generalizing lo with
  | nil => simp [Tab.ins, Tab.okFrom, hv, hk]
  | cons e t ih =>
    obtain ⟨j, a⟩ := e
    simp only [Tab.okFrom, Bool.and_eq_true, decide_eq_true_eq] at ht
    by_cases hj : j = k
    · subst hj; simp [Tab.ins, Tab.okFrom, hv, ht.1, ht.2.2]
    · by_cases hlt : k < j
      · have := Tab.okFrom_mono (d := d) (show j + 1 ≤ j + 1 from le_refl _) ht.2.2
        simp [Tab.ins, Tab.okFrom, hj, hlt, hv, hk, ht.2.1, this]
      · simp [Tab.ins, Tab.okFrom, hj, hlt, ht.1, ht.2.1, ih (by omega) ht.2.2]

/-- Putting an entry keeps the canonical form. -/
theorem Tab.wf_put {t : Tab α} (ht : Tab.wf d t = true) (k : Nat) (v : α) : Tab.wf d (Tab.put d t k v) = true := by
  unfold Tab.put
  split
  · exact Tab.okFrom_del ht
  · next h => exact Tab.okFrom_ins h (Nat.zero_le k) ht

theorem Tab.wf_upd {t : Tab α} (ht : Tab.wf d t = true) (k : Nat) (f : α → α) : Tab.wf d (Tab.upd d t k f) = true :=
  Tab.wf_put ht k _

theorem Tab.okFrom_cut {lo hi n : Nat} {t : Tab α} (ht : Tab.okFrom d n t = true) : Tab.okFrom d n (Tab.cut lo hi t) = true := by
  induction t generalizing n with
  | nil => rfl
  | cons e t ih =>
    obtain ⟨j, a⟩ := e
    simp only [Tab.okFrom, Bool.and_eq_true, decide_eq_true_eq] at ht
    by_cases hj : lo ≤ j ∧ j < hi
    · simpa [Tab.cut, hj] using Tab.okFrom_mono (by omega) (ih ht.2.2)
    · simp [Tab.cut, hj, Tab.okFrom, ht.1, ht.2.1, ih ht.2.2]

/-- Cutting a range out keeps the canonical form. -/
theorem Tab.wf_cut {t : Tab α} (ht : Tab.wf d t = true) (lo hi : Nat) : Tab.wf d (Tab.cut lo hi t) = true :=
  Tab.okFrom_cut ht

/-- Below its first number a table reads the default. -/
theorem Tab.okFrom_getD_lt {lo k : Nat} (hk : k < lo) {t : Tab α} (ht : Tab.okFrom d lo t = true) : Tab.getD d t k = d := by
  induction t generalizing lo with
  | nil => rfl
  | cons e t ih =>
    obtain ⟨j, a⟩ := e
    simp only [Tab.okFrom, Bool.and_eq_true, decide_eq_true_eq] at ht
    have : j ≠ k := by omega
    simp [Tab.getD, this, ih (show k < j + 1 by omega) ht.2.2]

end Sys2Proof.Machine
end

