-- ==== Sys2Proof/Laws/Keeps.lean ====
section
/-! SUPPORT. One relation that every shared operation keeps, said once for each: the queue stays, memory keeps its
canonical form, and every block of the state that is not in a given list stays as it is. -/

namespace Sys2Proof.Machine

/-! ## Memory -/

theorem Memory.wf_iff (m : Memory) : m.wf = true ↔ Tab.wf 0 m.bytes = true ∧ Tab.wf 0 m.tallyErr = true := by
  simp [Memory.wf]
theorem Memory.wf_setByte {m : Memory} (h : m.wf = true) (a : Nat) (b : Byte) : (m.setByte a b).wf = true := by
  rw [Memory.wf_iff] at h ⊢
  exact ⟨Tab.wf_put h.1 a b, h.2⟩
theorem Memory.wf_writeBytes {m : Memory} (h : m.wf = true) (a : Nat) (bs : Bytes) : (m.writeBytes a bs).wf = true := by
  induction bs generalizing m a with
  | nil => exact h
  | cons b bs ih => exact ih (Memory.wf_setByte h a b) (a + 1)
theorem Memory.wf_addErr {m : Memory} (h : m.wf = true) (k : Nat) (e : Word) : (m.addErr k e).wf = true := by
  rw [Memory.wf_iff] at h ⊢
  exact ⟨h.1, Tab.wf_upd (α := Word) h.2 k fun x => x ^^^ e⟩
theorem Memory.wf_clearErr {m : Memory} (h : m.wf = true) (k : Nat) : (m.clearErr k).wf = true := by
  rw [Memory.wf_iff] at h ⊢
  exact ⟨h.1, Tab.wf_put h.2 k 0⟩
theorem Memory.wf_setErr {m : Memory} (h : m.wf = true) (k : Nat) (e : Word) : (m.setErr k e).wf = true := by
  rw [Memory.wf_iff] at h ⊢
  exact ⟨h.1, Tab.wf_put h.2 k e⟩
theorem Memory.wf_foldl {α : Type} (f : Memory → α → Memory) (hf : ∀ m k, m.wf = true → (f m k).wf = true) (l : List α) :
    ∀ {m : Memory}, m.wf = true → (l.foldl f m).wf = true := by
  induction l with
  | nil => exact fun h => h
  | cons k l ih => exact fun h => ih (hf _ k h)
theorem Memory.wf_flip {m : Memory} (h : m.wf = true) (a bits : Nat) : (m.flip a bits).wf = true :=
  Memory.wf_foldl _ (fun m _ h => by split; exacts [h, Memory.wf_setByte h _ _]) _ h
theorem Memory.wf_zeroRange {m : Memory} (h : m.wf = true) (a n : Nat) : (m.zeroRange a n).wf = true := by
  rw [Memory.wf_iff] at h ⊢
  exact ⟨Tab.wf_cut h.1 _ _, Tab.wf_cut h.2 _ _⟩

theorem Memory.wf_empty : ({} : Memory).wf = true := rfl

/-! ## The relation -/

/-- The queue stays, memory keeps its canonical form, and the blocks outside `B` are the same. -/
structure Keeps (B : List Block) (s t : State) : Prop where
  queue : t.pending = s.pending
  wf : s.mem.wf = true → t.mem.wf = true
  same : ∀ b, b ∉ B → b.same s t

variable {B : List Block} {s t u : State}

theorem Block.same_refl (b : Block) (s : State) : b.same s s := by cases b <;> rfl
theorem Block.same_trans {b : Block} (h : b.same s t) (k : b.same t u) : b.same s u := by
  cases b <;> exact Eq.trans k h

theorem Keeps.refl (s : State) : Keeps B s s := ⟨rfl, fun w => w, fun b _ => b.same_refl s⟩
theorem Keeps.trans (h : Keeps B s t) (k : Keeps B t u) : Keeps B s u :=
  ⟨k.queue.trans h.queue, fun w => k.wf (h.wf w), fun b e => Block.same_trans (h.same b e) (k.same b e)⟩

/-- A state written out field by field. -/
def State.build (p : List Instr)
    (tick : Nat) (clk : Clock) (time : TimeDomain) (pwr : Power) (hs : HostSite) (sec : Sec) (acc : Access)
    (mbx : Tab Mailbox) (mem : Memory) (arr : Arrays) (kvt : Kvt) (ctxs : Tab Ctx) (sched : Sched) (srv : Serving)
    (health : Health) (rcv : Recovery) (twin : Twin) (ports : Tab Port) (thm : Thermal) (mon : Monitor)
    (obs : Observe) (agg : List Report) (out : List Output) : State :=
  ⟨p, tick, clk, time, pwr, hs, sec, acc, mbx, mem, arr, kvt, ctxs, sched, srv, health, rcv, twin, ports, thm, mon, obs, agg, out⟩
theorem State.mk_eq (p : List Instr)
    (tick : Nat) (clk : Clock) (time : TimeDomain) (pwr : Power) (hs : HostSite) (sec : Sec) (acc : Access)
    (mbx : Tab Mailbox) (mem : Memory) (arr : Arrays) (kvt : Kvt) (ctxs : Tab Ctx) (sched : Sched) (srv : Serving)
    (health : Health) (rcv : Recovery) (twin : Twin) (ports : Tab Port) (thm : Thermal) (mon : Monitor)
    (obs : Observe) (agg : List Report) (out : List Output) :
    (⟨p, tick, clk, time, pwr, hs, sec, acc, mbx, mem, arr, kvt, ctxs, sched, srv, health, rcv, twin, ports, thm, mon, obs, agg, out⟩ : State) =
      State.build p tick clk time pwr hs sec acc mbx mem arr kvt ctxs sched srv health rcv twin ports thm mon obs agg out := rfl

/-- An update leaves what it does not write; memory it either leaves or gives a canonical form. -/
theorem Keeps.upd
    {tick : Nat} {clk : Clock} {time : TimeDomain} {pwr : Power} {hs : HostSite} {sec : Sec} {acc : Access}
    {mbx : Tab Mailbox} {mem : Memory} {arr : Arrays} {kvt : Kvt} {ctxs : Tab Ctx} {sched : Sched} {srv : Serving}
    {health : Health} {rcv : Recovery} {twin : Twin} {ports : Tab Port} {thm : Thermal} {mon : Monitor}
    {obs : Observe} {agg : List Report} {out : List Output}
    (h : Keeps B s t) (hv : t.mem.wf = true → mem.wf = true)
    (h_tick : Block.tick ∈ B ∨ tick = t.tick) (h_clk : Block.clk ∈ B ∨ clk = t.clk)
    (h_time : Block.time ∈ B ∨ time = t.time) (h_pwr : Block.pwr ∈ B ∨ pwr = t.pwr) (h_hs : Block.hs ∈ B ∨ hs = t.hs)
    (h_sec : Block.sec ∈ B ∨ sec = t.sec) (h_acc : Block.acc ∈ B ∨ acc = t.acc) (h_mbx : Block.mbx ∈ B ∨ mbx = t.mbx)
    (h_mem : Block.mem ∈ B ∨ mem = t.mem) (h_heddles : Block.heddles ∈ B ∨ arr.heddles = t.arr.heddles)
    (h_harnesses : Block.harnesses ∈ B ∨ arr.harnesses = t.arr.harnesses)
    (h_looms : Block.looms ∈ B ∨ arr.looms = t.arr.looms)
    (h_scrub : Block.scrub ∈ B ∨ (arr.passS, arr.scrubLate, arr.scrubLost, arr.mismatchRows, arr.rateExp, arr.spareCfg, arr.targets, arr.scrubNext, arr.setAt) = (t.arr.passS, t.arr.scrubLate, t.arr.scrubLost, t.arr.mismatchRows, t.arr.rateExp, t.arr.spareCfg, t.arr.targets, t.arr.scrubNext, t.arr.setAt))
    (h_windows : Block.windows ∈ B ∨ arr.windows = t.arr.windows)
    (h_sealed : Block.sealed ∈ B ∨ arr.sealedCopies = t.arr.sealedCopies) (h_kvt : Block.kvt ∈ B ∨ kvt = t.kvt)
    (h_ctxs : Block.ctxs ∈ B ∨ ctxs = t.ctxs) (h_sched : Block.sched ∈ B ∨ sched = t.sched)
    (h_rings : Block.rings ∈ B ∨ srv.rings = t.srv.rings)
    (h_streams : Block.streams ∈ B ∨ srv.streams = t.srv.streams)
    (h_tenants : Block.tenants ∈ B ∨ srv.tenants = t.srv.tenants)
    (h_reqs : Block.reqs ∈ B ∨ (srv.reqs, srv.nextReq) = (t.srv.reqs, t.srv.nextReq))
    (h_engine : Block.engine ∈ B ∨ (srv.role, srv.msixPick, srv.refilled) = (t.srv.role, t.srv.msixPick, t.srv.refilled))
    (h_history : Block.history ∈ B ∨ (health.events, health.nextSeq, health.wrapped, health.queue) = (t.health.events, t.health.nextSeq, t.health.wrapped, t.health.queue))
    (h_unitMap : Block.unitMap ∈ B ∨ (health.dumap, health.gen, health.dumapCrc, health.perm, health.setAt) = (t.health.dumap, t.health.gen, t.health.dumapCrc, t.health.perm, t.health.setAt))
    (h_packs : Block.packs ∈ B ∨ (health.packId, health.pack, health.packLen, health.cursors, health.packRun, health.packFailed, health.captures, health.captureOrder) = (t.health.packId, t.health.pack, t.health.packLen, t.health.cursors, t.health.packRun, t.health.packFailed, t.health.captures, t.health.captureOrder))
    (h_memChecks : Block.memChecks ∈ B ∨ (health.eccCorr, health.eccUncorr, health.tally) = (t.health.eccCorr, t.health.eccUncorr, t.health.tally))
    (h_lifetime : Block.lifetime ∈ B ∨ (health.seconds, health.flashSeconds) = (t.health.seconds, t.health.flashSeconds))
    (h_twill : Block.twill ∈ B ∨ (health.twillList, health.twillStep, health.twillCtx, health.twillValid) = (t.health.twillList, t.health.twillStep, t.health.twillCtx, t.health.twillValid))
    (h_log : Block.log ∈ B ∨ (rcv.log, rcv.logSeq) = (t.rcv.log, t.rcv.logSeq))
    (h_storm : Block.storm ∈ B ∨ (rcv.stormOpen, rcv.stormLast, rcv.latched, rcv.root, rcv.rootProvisional, rcv.rootValid, rcv.echoes) = (t.rcv.stormOpen, t.rcv.stormLast, t.rcv.latched, t.rcv.root, t.rcv.rootProvisional, t.rcv.rootValid, t.rcv.echoes))
    (h_domains : Block.domains ∈ B ∨ rcv.domains = t.rcv.domains)
    (h_modResets : Block.modResets ∈ B ∨ (rcv.modStarts, rcv.modTotal) = (t.rcv.modStarts, t.rcv.modTotal))
    (h_dumps : Block.dumps ∈ B ∨ (rcv.dumps, rcv.dumpSeq, rcv.dumpDropped, rcv.dumpDamaged) = (t.rcv.dumps, t.rcv.dumpSeq, t.rcv.dumpDropped, t.rcv.dumpDamaged))
    (h_cuts : Block.cuts ∈ B ∨ (rcv.cutCtx, rcv.cutCause, rcv.cutValid, rcv.cuts) = (t.rcv.cutCtx, t.rcv.cutCause, t.rcv.cutValid, t.rcv.cuts))
    (h_relayed : Block.relayed ∈ B ∨ rcv.seenMsgs = t.rcv.seenMsgs)
    (h_marks : Block.marks ∈ B ∨ rcv.setAt = t.rcv.setAt)
    (h_alerts : Block.alerts ∈ B ∨ (rcv.oos, rcv.alertThermal, rcv.alertHsShutdown, rcv.alertHsTherm, rcv.alertLinkFail, rcv.alertStorm) = (t.rcv.oos, t.rcv.alertThermal, t.rcv.alertHsShutdown, t.rcv.alertHsTherm, t.rcv.alertLinkFail, t.rcv.alertStorm))
    (h_twin : Block.twin ∈ B ∨ twin = t.twin) (h_ports : Block.ports ∈ B ∨ ports = t.ports)
    (h_thm : Block.thm ∈ B ∨ thm = t.thm) (h_mon : Block.mon ∈ B ∨ mon = t.mon) (h_obs : Block.obs ∈ B ∨ obs = t.obs)
    (h_agg : Block.agg ∈ B ∨ agg = t.agg) (h_out : Block.out ∈ B ∨ out = t.out) :
    Keeps B s (State.build t.pending tick clk time pwr hs sec acc mbx mem arr kvt ctxs sched srv health rcv twin ports thm mon obs agg out) := by
  refine ⟨h.queue, fun w => hv (h.wf w), fun b e => ?_⟩
  have k := h.same b e
  cases b
  case tick => exact ((h_tick.resolve_left e).trans k : _ = _)
  case clk => exact ((h_clk.resolve_left e).trans k : _ = _)
  case time => exact ((h_time.resolve_left e).trans k : _ = _)
  case pwr => exact ((h_pwr.resolve_left e).trans k : _ = _)
  case hs => exact ((h_hs.resolve_left e).trans k : _ = _)
  case sec => exact ((h_sec.resolve_left e).trans k : _ = _)
  case acc => exact ((h_acc.resolve_left e).trans k : _ = _)
  case mbx => exact ((h_mbx.resolve_left e).trans k : _ = _)
  case mem => exact ((h_mem.resolve_left e).trans k : _ = _)
  case heddles => exact ((h_heddles.resolve_left e).trans k : _ = _)
  case harnesses => exact ((h_harnesses.resolve_left e).trans k : _ = _)
  case looms => exact ((h_looms.resolve_left e).trans k : _ = _)
  case scrub => exact ((h_scrub.resolve_left e).trans k : _ = _)
  case windows => exact ((h_windows.resolve_left e).trans k : _ = _)
  case sealed => exact ((h_sealed.resolve_left e).trans k : _ = _)
  case kvt => exact ((h_kvt.resolve_left e).trans k : _ = _)
  case ctxs => exact ((h_ctxs.resolve_left e).trans k : _ = _)
  case sched => exact ((h_sched.resolve_left e).trans k : _ = _)
  case rings => exact ((h_rings.resolve_left e).trans k : _ = _)
  case streams => exact ((h_streams.resolve_left e).trans k : _ = _)
  case tenants => exact ((h_tenants.resolve_left e).trans k : _ = _)
  case reqs => exact ((h_reqs.resolve_left e).trans k : _ = _)
  case engine => exact ((h_engine.resolve_left e).trans k : _ = _)
  case history => exact ((h_history.resolve_left e).trans k : _ = _)
  case unitMap => exact ((h_unitMap.resolve_left e).trans k : _ = _)
  case packs => exact ((h_packs.resolve_left e).trans k : _ = _)
  case memChecks => exact ((h_memChecks.resolve_left e).trans k : _ = _)
  case lifetime => exact ((h_lifetime.resolve_left e).trans k : _ = _)
  case twill => exact ((h_twill.resolve_left e).trans k : _ = _)
  case log => exact ((h_log.resolve_left e).trans k : _ = _)
  case storm => exact ((h_storm.resolve_left e).trans k : _ = _)
  case domains => exact ((h_domains.resolve_left e).trans k : _ = _)
  case modResets => exact ((h_modResets.resolve_left e).trans k : _ = _)
  case dumps => exact ((h_dumps.resolve_left e).trans k : _ = _)
  case cuts => exact ((h_cuts.resolve_left e).trans k : _ = _)
  case relayed => exact ((h_relayed.resolve_left e).trans k : _ = _)
  case marks => exact ((h_marks.resolve_left e).trans k : _ = _)
  case alerts => exact ((h_alerts.resolve_left e).trans k : _ = _)
  case twin => exact ((h_twin.resolve_left e).trans k : _ = _)
  case ports => exact ((h_ports.resolve_left e).trans k : _ = _)
  case thm => exact ((h_thm.resolve_left e).trans k : _ = _)
  case mon => exact ((h_mon.resolve_left e).trans k : _ = _)
  case obs => exact ((h_obs.resolve_left e).trans k : _ = _)
  case agg => exact ((h_agg.resolve_left e).trans k : _ = _)
  case out => exact ((h_out.resolve_left e).trans k : _ = _)

theorem inB {l : List Block} {b : Block} (h : l ⊆ B) (k : b ∈ l) : b ∈ B := h k

theorem Keeps.ite {c : Prop} [Decidable c] (h : Keeps B s t) (k : Keeps B s u) : Keeps B s (if c then t else u) := by
  split <;> assumption

/-- The state of a pair that a match has named. -/
theorem Keeps.snd {α : Type} {p : α × State} {a : α} (e : p = (a, t)) (h : Keeps B s p.2) : Keeps B s t := by
  rw [e] at h; exact h
theorem Keeps.fst {α : Type} {p : State × α} {a : α} (e : p = (t, a)) (h : Keeps B s p.1) : Keeps B s t := by
  rw [e] at h; exact h

theorem State.each_keeps {α : Type} {l : List α} {f : State → α → State} (h : Keeps B s t)
    (hf : ∀ t a, Keeps B s t → Keeps B s (f t a)) : Keeps B s (State.each l f t) := by
  induction l generalizing t with
  | nil => exact h
  | cons a l ih => exact ih (hf t a h)
theorem foldl_keeps {α β : Type} {l : List α} {f : State × β → α → State × β} {p : State × β} (h : Keeps B s p.1)
    (hf : ∀ t b a, Keeps B s t → Keeps B s (f (t, b) a).1) : Keeps B s (l.foldl f p).1 := by
  induction l generalizing p with
  | nil => exact h
  | cons a l ih => exact ih (hf p.1 p.2 a h)

/-! ## Memory operations -/

theorem State.setMem_keeps (h : Keeps B s t) (hB : [Block.mem] ⊆ B) (m : Memory) (hm : t.mem.wf = true → m.wf = true) :
    Keeps B s (t.setMem m) :=
  ⟨h.queue, fun w => hm (h.wf w), fun b e => by
    cases b
    case mem => exact absurd (hB (.head _)) e
    all_goals exact h.same _ e⟩
theorem State.write_keeps (h : Keeps B s t) (hB : [Block.mem] ⊆ B) (a : Nat) (bs : Bytes) : Keeps B s (t.write a bs) :=
  State.setMem_keeps h hB _ fun w => Memory.wf_writeBytes w a bs
theorem State.unitWrite_keeps (h : Keeps B s t) (hB : [Block.mem] ⊆ B) (a : Nat) (bs : Bytes) :
    Keeps B s (t.unitWrite a bs) :=
  State.setMem_keeps h hB _ fun w =>
    Memory.wf_foldl _ (fun _ _ h => Memory.wf_clearErr h _) _ (Memory.wf_writeBytes w a bs)
theorem State.pieceWrite_keeps (h : Keeps B s t) (hB : [Block.mem] ⊆ B) (a : Nat) (bs : Bytes) (e : Word) :
    Keeps B s (t.pieceWrite a bs e) :=
  State.setMem_keeps h hB _ fun w =>
    Memory.wf_foldl _ (fun _ _ h => Memory.wf_setErr h _ _) _ (Memory.wf_writeBytes w a bs)
theorem State.zero_keeps (h : Keeps B s t) (hB : [Block.mem] ⊆ B) (a n : Nat) : Keeps B s (t.zero a n) :=
  State.setMem_keeps h hB _ fun w => Memory.wf_zeroRange w a n
theorem State.asRead_keeps (h : Keeps B s t) (hB : [Block.mem] ⊆ B) (ups : List Upset) : Keeps B s (t.asRead ups) :=
  State.setMem_keeps h hB _ fun w =>
    Memory.wf_foldl _ (fun m u h => by
      cases struckUnit u with
      | none => exact h
      | some p => dsimp only; split; exacts [h, Memory.wf_flip h _ _]) _ w

end Sys2Proof.Machine
end

