-- ==== Sys2Proof/Laws/KeepsOps.lean ====
section
/-! SUPPORT. Every operation keeps the queue and memory's canonical form (`Keeps`):
the shared operations, the request rings, knots, the sequencer, the recipe and the flags. One
lemma an operation: `State.<name>_keeps`, `hB` lists the blocks it may change. -/

namespace Sys2Proof.Machine

variable {B : List Block}

/-! ## Ops -/

theorem State.modHeddle_keeps {s₀ s : State} (h : Keeps B s₀ s)
    (hB : [Block.heddles] ⊆ B) (g : Nat) (f : Heddle → Heddle) :
    Keeps B s₀ (State.modHeddle s g f) := by
  unfold State.modHeddle
  try dsimp only
  repeat' with_reducible first
    | assumption
    | exact .inr rfl
    | exact .inl (inB hB (by decide))
    | exact fun w => w
    | intro _
    | apply Keeps.ite
    | (rw [State.mk_eq]; apply Keeps.upd)

theorem State.modHarness_keeps {s₀ s : State} (h : Keeps B s₀ s)
    (hB : [Block.harnesses] ⊆ B) (h : Nat) (f : Harness → Harness) :
    Keeps B s₀ (State.modHarness s h f) := by
  unfold State.modHarness
  try dsimp only
  repeat' with_reducible first
    | assumption
    | exact .inr rfl
    | exact .inl (inB hB (by decide))
    | exact fun w => w
    | intro _
    | apply Keeps.ite
    | (rw [State.mk_eq]; apply Keeps.upd)

theorem State.modLoom_keeps {s₀ s : State} (h : Keeps B s₀ s) (hB : [Block.looms] ⊆ B) (l : Nat) (f : Loom → Loom) :
    Keeps B s₀ (State.modLoom s l f) := by
  unfold State.modLoom
  try dsimp only
  repeat' with_reducible first
    | assumption
    | exact .inr rfl
    | exact .inl (inB hB (by decide))
    | exact fun w => w
    | intro _
    | apply Keeps.ite
    | (rw [State.mk_eq]; apply Keeps.upd)

theorem State.modShuttle_keeps {s₀ s : State} (h : Keeps B s₀ s)
    (hB : [Block.kvt] ⊆ B) (n : Nat) (f : Shuttle → Shuttle) :
    Keeps B s₀ (State.modShuttle s n f) := by
  unfold State.modShuttle
  try dsimp only
  repeat' with_reducible first
    | assumption
    | exact .inr rfl
    | exact .inl (inB hB (by decide))
    | exact fun w => w
    | intro _
    | apply Keeps.ite
    | (rw [State.mk_eq]; apply Keeps.upd)

theorem State.modArena_keeps {s₀ s : State} (h : Keeps B s₀ s) (hB : [Block.kvt] ⊆ B) (c : Nat) (f : Arena → Arena) :
    Keeps B s₀ (State.modArena s c f) := by
  unfold State.modArena
  try dsimp only
  repeat' with_reducible first
    | assumption
    | exact .inr rfl
    | exact .inl (inB hB (by decide))
    | exact fun w => w
    | intro _
    | apply Keeps.ite
    | (rw [State.mk_eq]; apply Keeps.upd)

theorem State.modCtx_keeps {s₀ s : State} (h : Keeps B s₀ s) (hB : [Block.ctxs] ⊆ B) (c : Nat) (f : Ctx → Ctx) :
    Keeps B s₀ (State.modCtx s c f) := by
  unfold State.modCtx
  try dsimp only
  repeat' with_reducible first
    | assumption
    | exact .inr rfl
    | exact .inl (inB hB (by decide))
    | exact fun w => w
    | intro _
    | apply Keeps.ite
    | (rw [State.mk_eq]; apply Keeps.upd)

theorem State.modCtl_keeps {s₀ s : State} (h : Keeps B s₀ s) (hB : [Block.ctxs] ⊆ B) (c : Nat) (f : CtxCtl → CtxCtl) :
    Keeps B s₀ (State.modCtl s c f) := by
  unfold State.modCtl
  try dsimp only
  repeat' with_reducible first
    | assumption
    | exact .inr rfl
    | exact fun w => w
    | exact List.Subset.trans (by decide) hB
    | intro _
    | apply Keeps.ite
    | apply State.modCtx_keeps

theorem State.modRecs_keeps {s₀ s : State} (h : Keeps B s₀ s)
    (hB : [Block.ctxs] ⊆ B) (c : Nat) (f : CtxRecords → CtxRecords) :
    Keeps B s₀ (State.modRecs s c f) := by
  unfold State.modRecs
  try dsimp only
  repeat' with_reducible first
    | assumption
    | exact .inr rfl
    | exact fun w => w
    | exact List.Subset.trans (by decide) hB
    | intro _
    | apply Keeps.ite
    | apply State.modCtx_keeps

theorem State.modBatch_keeps {s₀ s : State} (h : Keeps B s₀ s)
    (hB : [Block.ctxs] ⊆ B) (c k : Nat) (f : BatchSlot → BatchSlot) :
    Keeps B s₀ (State.modBatch s c k f) := by
  unfold State.modBatch
  try dsimp only
  repeat' with_reducible first
    | assumption
    | exact .inr rfl
    | exact fun w => w
    | exact List.Subset.trans (by decide) hB
    | intro _
    | apply Keeps.ite
    | apply State.modCtx_keeps

theorem State.modMailbox_keeps {s₀ s : State} (h : Keeps B s₀ s)
    (hB : [Block.mbx] ⊆ B) (m : Nat) (f : Mailbox → Mailbox) :
    Keeps B s₀ (State.modMailbox s m f) := by
  unfold State.modMailbox
  try dsimp only
  repeat' with_reducible first
    | assumption
    | exact .inr rfl
    | exact .inl (inB hB (by decide))
    | exact fun w => w
    | intro _
    | apply Keeps.ite
    | (rw [State.mk_eq]; apply Keeps.upd)

theorem State.modSlot_keeps {s₀ s : State} (h : Keeps B s₀ s) (hB : [Block.acc] ⊆ B) (j : Nat) (f : Slot → Slot) :
    Keeps B s₀ (State.modSlot s j f) := by
  unfold State.modSlot
  try dsimp only
  repeat' with_reducible first
    | assumption
    | exact .inr rfl
    | exact .inl (inB hB (by decide))
    | exact fun w => w
    | intro _
    | apply Keeps.ite
    | (rw [State.mk_eq]; apply Keeps.upd)

theorem State.modSel_keeps {s₀ s : State} (h : Keeps B s₀ s)
    (hB : [Block.acc] ⊆ B) (j : Nat) (f : Selectors → Selectors) :
    Keeps B s₀ (State.modSel s j f) := by
  unfold State.modSel
  try dsimp only
  repeat' with_reducible first
    | assumption
    | exact .inr rfl
    | exact .inl (inB hB (by decide))
    | exact fun w => w
    | intro _
    | apply Keeps.ite
    | (rw [State.mk_eq]; apply Keeps.upd)

theorem State.modLatch_keeps {s₀ s : State} (h : Keeps B s₀ s)
    (hB : [Block.acc] ⊆ B) (j : Nat) (f : Latches → Latches) :
    Keeps B s₀ (State.modLatch s j f) := by
  unfold State.modLatch
  try dsimp only
  repeat' with_reducible first
    | assumption
    | exact .inr rfl
    | exact .inl (inB hB (by decide))
    | exact fun w => w
    | intro _
    | apply Keeps.ite
    | (rw [State.mk_eq]; apply Keeps.upd)

theorem State.modRing_keeps {s₀ s : State} (h : Keeps B s₀ s) (hB : [Block.rings] ⊆ B) (r : Nat) (f : Ring → Ring) :
    Keeps B s₀ (State.modRing s r f) := by
  unfold State.modRing
  try dsimp only
  repeat' with_reducible first
    | assumption
    | exact .inr rfl
    | exact .inl (inB hB (by decide))
    | exact fun w => w
    | intro _
    | apply Keeps.ite
    | (rw [State.mk_eq]; apply Keeps.upd)

theorem State.modStream_keeps {s₀ s : State} (h : Keeps B s₀ s)
    (hB : [Block.streams] ⊆ B) (t : Nat) (f : Stream → Stream) :
    Keeps B s₀ (State.modStream s t f) := by
  unfold State.modStream
  try dsimp only
  repeat' with_reducible first
    | assumption
    | exact .inr rfl
    | exact .inl (inB hB (by decide))
    | exact fun w => w
    | intro _
    | apply Keeps.ite
    | (rw [State.mk_eq]; apply Keeps.upd)

theorem State.modTenant_keeps {s₀ s : State} (h : Keeps B s₀ s)
    (hB : [Block.tenants] ⊆ B) (t : Nat) (f : Tenant → Tenant) :
    Keeps B s₀ (State.modTenant s t f) := by
  unfold State.modTenant
  try dsimp only
  repeat' with_reducible first
    | assumption
    | exact .inr rfl
    | exact .inl (inB hB (by decide))
    | exact fun w => w
    | intro _
    | apply Keeps.ite
    | (rw [State.mk_eq]; apply Keeps.upd)

theorem State.modPort_keeps {s₀ s : State} (h : Keeps B s₀ s) (hB : [Block.ports] ⊆ B) (p : Nat) (f : Port → Port) :
    Keeps B s₀ (State.modPort s p f) := by
  unfold State.modPort
  try dsimp only
  repeat' with_reducible first
    | assumption
    | exact .inr rfl
    | exact .inl (inB hB (by decide))
    | exact fun w => w
    | intro _
    | apply Keeps.ite
    | (rw [State.mk_eq]; apply Keeps.upd)

theorem State.modSensor_keeps {s₀ s : State} (h : Keeps B s₀ s)
    (hB : [Block.thm] ⊆ B) (n : Nat) (f : Sensor → Sensor) :
    Keeps B s₀ (State.modSensor s n f) := by
  unfold State.modSensor
  try dsimp only
  repeat' with_reducible first
    | assumption
    | exact .inr rfl
    | exact .inl (inB hB (by decide))
    | exact fun w => w
    | intro _
    | apply Keeps.ite
    | (rw [State.mk_eq]; apply Keeps.upd)

theorem State.modChan_keeps {s₀ s : State} (h : Keeps B s₀ s)
    (hB : [Block.mon] ⊆ B) (n : Nat) (f : Channel → Channel) :
    Keeps B s₀ (State.modChan s n f) := by
  unfold State.modChan
  try dsimp only
  repeat' with_reducible first
    | assumption
    | exact .inr rfl
    | exact .inl (inB hB (by decide))
    | exact fun w => w
    | intro _
    | apply Keeps.ite
    | (rw [State.mk_eq]; apply Keeps.upd)

theorem State.modEngine_keeps {s₀ s : State} (h : Keeps B s₀ s)
    (hB : [Block.obs] ⊆ B) (n : Nat) (f : Engine → Engine) :
    Keeps B s₀ (State.modEngine s n f) := by
  unfold State.modEngine
  try dsimp only
  repeat' with_reducible first
    | assumption
    | exact .inr rfl
    | exact .inl (inB hB (by decide))
    | exact fun w => w
    | intro _
    | apply Keeps.ite
    | (rw [State.mk_eq]; apply Keeps.upd)

theorem State.modPmc_keeps {s₀ s : State} (h : Keeps B s₀ s) (hB : [Block.obs] ⊆ B) (n : Nat) (f : Pmc → Pmc) :
    Keeps B s₀ (State.modPmc s n f) := by
  unfold State.modPmc
  try dsimp only
  repeat' with_reducible first
    | assumption
    | exact .inr rfl
    | exact .inl (inB hB (by decide))
    | exact fun w => w
    | intro _
    | apply Keeps.ite
    | (rw [State.mk_eq]; apply Keeps.upd)

theorem State.modDomain_keeps {s₀ s : State} (h : Keeps B s₀ s)
    (hB : [Block.domains] ⊆ B) (kind idx : Nat) (f : Domain → Domain) :
    Keeps B s₀ (State.modDomain s kind idx f) := by
  unfold State.modDomain
  try dsimp only
  repeat' with_reducible first
    | assumption
    | exact .inr rfl
    | exact .inl (inB hB (by decide))
    | exact fun w => w
    | intro _
    | apply Keeps.ite
    | (rw [State.mk_eq]; apply Keeps.upd)

theorem State.emit_keeps {s₀ s : State} (h : Keeps B s₀ s) (hB : [Block.out] ⊆ B) (o : Output) :
    Keeps B s₀ (State.emit s o) := by
  unfold State.emit
  try dsimp only
  repeat' with_reducible first
    | assumption
    | exact .inr rfl
    | exact .inl (inB hB (by decide))
    | exact fun w => w
    | intro _
    | apply Keeps.ite
    | (rw [State.mk_eq]; apply Keeps.upd)

theorem State.report_keeps {s₀ s : State} (h : Keeps B s₀ s) (hB : [Block.agg] ⊆ B) (r : Report) :
    Keeps B s₀ (State.report s r) := by
  unfold State.report
  try dsimp only
  repeat' with_reducible first
    | assumption
    | exact .inr rfl
    | exact .inl (inB hB (by decide))
    | exact fun w => w
    | intro _
    | apply Keeps.ite
    | (rw [State.mk_eq]; apply Keeps.upd)

theorem State.fresh_keeps {s₀ s : State} (h : Keeps B s₀ s) (hB : [Block.tick] ⊆ B) :
    Keeps B s₀ (State.fresh s) := by
  unfold State.fresh
  try dsimp only
  repeat' with_reducible first
    | assumption
    | exact .inr rfl
    | exact .inl (inB hB (by decide))
    | exact fun w => w
    | intro _
    | apply Keeps.ite
    | (rw [State.mk_eq]; apply Keeps.upd)

theorem State.alertRaised_keeps {s₀ s : State} (h : Keeps B s₀ s) (hB : [Block.out] ⊆ B) :
    Keeps B s₀ (State.alertRaised s) := by
  unfold State.alertRaised
  try dsimp only
  repeat' with_reducible first
    | assumption
    | exact .inr rfl
    | exact fun w => w
    | exact List.Subset.trans (by decide) hB
    | intro _
    | apply Keeps.ite
    | apply State.emit_keeps

theorem State.alertThermal_keeps {s₀ s : State} (h : Keeps B s₀ s) (hB : [Block.marks, .alerts, .out] ⊆ B) :
    Keeps B s₀ (State.alertThermal s) := by
  unfold State.alertThermal
  try dsimp only
  repeat' with_reducible first
    | assumption
    | exact .inr rfl
    | exact .inl (inB hB (by decide))
    | exact fun w => w
    | exact List.Subset.trans (by decide) hB
    | intro _
    | apply Keeps.ite
    | apply State.alertRaised_keeps
    | (rw [State.mk_eq]; apply Keeps.upd)

theorem State.alertHsShutdown_keeps {s₀ s : State} (h : Keeps B s₀ s) (hB : [Block.marks, .alerts, .out] ⊆ B) :
    Keeps B s₀ (State.alertHsShutdown s) := by
  unfold State.alertHsShutdown
  try dsimp only
  repeat' with_reducible first
    | assumption
    | exact .inr rfl
    | exact .inl (inB hB (by decide))
    | exact fun w => w
    | exact List.Subset.trans (by decide) hB
    | intro _
    | apply Keeps.ite
    | apply State.alertRaised_keeps
    | (rw [State.mk_eq]; apply Keeps.upd)

theorem State.alertHsTherm_keeps {s₀ s : State} (h : Keeps B s₀ s) (hB : [Block.marks, .alerts, .out] ⊆ B) :
    Keeps B s₀ (State.alertHsTherm s) := by
  unfold State.alertHsTherm
  try dsimp only
  repeat' with_reducible first
    | assumption
    | exact .inr rfl
    | exact .inl (inB hB (by decide))
    | exact fun w => w
    | exact List.Subset.trans (by decide) hB
    | intro _
    | apply Keeps.ite
    | apply State.alertRaised_keeps
    | (rw [State.mk_eq]; apply Keeps.upd)

theorem State.alertLinkFail_keeps {s₀ s : State} (h : Keeps B s₀ s) (hB : [Block.marks, .alerts, .out] ⊆ B) :
    Keeps B s₀ (State.alertLinkFail s) := by
  unfold State.alertLinkFail
  try dsimp only
  repeat' with_reducible first
    | assumption
    | exact .inr rfl
    | exact .inl (inB hB (by decide))
    | exact fun w => w
    | exact List.Subset.trans (by decide) hB
    | intro _
    | apply Keeps.ite
    | apply State.alertRaised_keeps
    | (rw [State.mk_eq]; apply Keeps.upd)

theorem State.alertStorm_keeps {s₀ s : State} (h : Keeps B s₀ s) (hB : [Block.marks, .alerts, .out] ⊆ B) :
    Keeps B s₀ (State.alertStorm s) := by
  unfold State.alertStorm
  try dsimp only
  repeat' with_reducible first
    | assumption
    | exact .inr rfl
    | exact .inl (inB hB (by decide))
    | exact fun w => w
    | exact List.Subset.trans (by decide) hB
    | intro _
    | apply Keeps.ite
    | apply State.alertRaised_keeps
    | (rw [State.mk_eq]; apply Keeps.upd)

theorem State.setOos_keeps {s₀ s : State} (h : Keeps B s₀ s) (hB : [Block.alerts, .out] ⊆ B) :
    Keeps B s₀ (State.setOos s) := by
  unfold State.setOos
  try dsimp only
  repeat' with_reducible first
    | assumption
    | exact .inr rfl
    | exact .inl (inB hB (by decide))
    | exact fun w => w
    | exact List.Subset.trans (by decide) hB
    | intro _
    | apply Keeps.ite
    | apply State.alertRaised_keeps
    | (rw [State.mk_eq]; apply Keeps.upd)

theorem State.perf_keeps {s₀ s : State} (h : Keeps B s₀ s)
    (hB : [Block.obs] ⊆ B) (ev n loom : Nat) (ctx unit : Option Nat) :
    Keeps B s₀ (State.perf s ev n loom ctx unit) := by
  unfold State.perf
  try dsimp only
  repeat' with_reducible first
    | assumption
    | exact .inr rfl
    | exact .inl (inB hB (by decide))
    | exact fun w => w
    | intro _
    | apply Keeps.ite
    | (rw [State.mk_eq]; apply Keeps.upd)

theorem State.pushLog_keeps {s₀ s : State} (h : Keeps B s₀ s) (hB : [Block.log] ⊆ B) (e : LogEntry) :
    Keeps B s₀ (State.pushLog s e) := by
  unfold State.pushLog
  try dsimp only
  repeat' with_reducible first
    | assumption
    | exact .inr rfl
    | exact .inl (inB hB (by decide))
    | exact fun w => w
    | intro _
    | apply Keeps.ite
    | (rw [State.mk_eq]; apply Keeps.upd)

theorem State.storm_keeps {s₀ s : State} (h : Keeps B s₀ s)
    (hB : [Block.log, .storm, .marks, .alerts, .out] ⊆ B) (e : LogEntry) :
    Keeps B s₀ (State.storm s e) := by
  unfold State.storm
  try dsimp only
  repeat' with_reducible first
    | assumption
    | exact .inr rfl
    | exact .inl (inB hB (by decide))
    | exact fun w => w
    | exact List.Subset.trans (by decide) hB
    | intro _
    | apply Keeps.ite
    | apply State.alertStorm_keeps
    | (rw [State.mk_eq]; apply Keeps.upd)

theorem State.logEvent_keeps {s₀ s : State} (h : Keeps B s₀ s)
    (hB : [Block.log, .out] ⊆ B) (place detector index : Nat) :
    Keeps B s₀ (State.logEvent s place detector index) := by
  unfold State.logEvent
  try dsimp only
  repeat' with_reducible first
    | assumption
    | exact .inr rfl
    | exact fun w => w
    | exact List.Subset.trans (by decide) hB
    | intro _
    | apply Keeps.ite
    | apply State.emit_keeps
    | apply State.pushLog_keeps

theorem State.healthEvent_keeps {s₀ s : State} (h : Keeps B s₀ s)
    (hB : [Block.history] ⊆ B) (kind unitKind unit ctx capture detail : Nat) :
    Keeps B s₀ (State.healthEvent s kind unitKind unit ctx capture detail) := by
  unfold State.healthEvent
  try dsimp only
  repeat' with_reducible first
    | assumption
    | exact .inr rfl
    | exact .inl (inB hB (by decide))
    | exact fun w => w
    | exact List.Subset.trans (by decide) hB
    | intro _
    | apply Keeps.ite
    | apply State.capture_keeps
    | (rw [State.mk_eq]; apply Keeps.upd)

theorem State.tallyCount_keeps {s₀ s : State} (h : Keeps B s₀ s) (hB : [Block.memChecks, .obs, .agg] ⊆ B) (a : Nat) :
    Keeps B s₀ (State.tallyCount s a) := by
  unfold State.tallyCount
  try dsimp only
  repeat' with_reducible first
    | assumption
    | exact .inr rfl
    | exact .inl (inB hB (by decide))
    | exact fun w => w
    | exact List.Subset.trans (by decide) hB
    | intro _
    | apply Keeps.ite
    | apply State.perf_keeps
    | apply State.report_keeps
    | apply State.tallyFail_keeps
    | (rw [State.mk_eq]; apply Keeps.upd)

theorem State.tallyFail_keeps {s₀ s : State} (h : Keeps B s₀ s)
    (hB : [Block.history, .memChecks, .obs, .agg] ⊆ B) (a ctx : Nat) :
    Keeps B s₀ (State.tallyFail s a ctx) := by
  unfold State.tallyFail
  try dsimp only
  repeat' with_reducible first
    | assumption
    | exact .inr rfl
    | exact fun w => w
    | exact List.Subset.trans (by decide) hB
    | intro _
    | apply Keeps.ite
    | apply State.healthEvent_keeps
    | apply State.tallyCount_keeps

theorem State.eccCorrected_keeps {s₀ s : State} (h : Keeps B s₀ s) (hB : [Block.memChecks, .obs] ⊆ B) (m : Nat) :
    Keeps B s₀ (State.eccCorrected s m) := by
  unfold State.eccCorrected
  try dsimp only
  repeat' with_reducible first
    | assumption
    | exact .inr rfl
    | exact .inl (inB hB (by decide))
    | exact fun w => w
    | exact List.Subset.trans (by decide) hB
    | intro _
    | apply Keeps.ite
    | apply State.perf_keeps
    | (rw [State.mk_eq]; apply Keeps.upd)

theorem State.eccUncorrected_keeps {s₀ s : State} (h : Keeps B s₀ s) (hB : [Block.memChecks] ⊆ B) (m : Nat) :
    Keeps B s₀ (State.eccUncorrected s m) := by
  unfold State.eccUncorrected
  try dsimp only
  repeat' with_reducible first
    | assumption
    | exact .inr rfl
    | exact .inl (inB hB (by decide))
    | exact fun w => w
    | intro _
    | apply Keeps.ite
    | (rw [State.mk_eq]; apply Keeps.upd)

theorem State.sendFlits_keeps {s₀ s : State} (h : Keeps B s₀ s) (hB : [Block.ports] ⊆ B) (p vc n c : Nat) :
    Keeps B s₀ (State.sendFlits s p vc n c) := by
  unfold State.sendFlits
  try dsimp only
  repeat' with_reducible first
    | assumption
    | exact .inr rfl
    | exact fun w => w
    | exact List.Subset.trans (by decide) hB
    | intro _
    | apply Keeps.ite
    | apply State.modPort_keeps

theorem State.issue_keeps {s₀ s : State} (h : Keeps B s₀ s)
    (hB : [Block.ports, .out] ⊆ B) (path : Nat) (op : RemoteOp) :
    Keeps B s₀ (State.issue s path op) := by
  unfold State.issue
  try dsimp only
  repeat' with_reducible first
    | assumption
    | exact .inr rfl
    | exact fun w => w
    | exact List.Subset.trans (by decide) hB
    | intro _
    | apply Keeps.ite
    | apply State.emit_keeps
    | apply State.sendFlits_keeps

theorem State.shadowSend_keeps {s₀ s : State} (h : Keeps B s₀ s)
    (hB : [Block.ports, .out] ⊆ B) (p : Nat) (r : ShadowRec) :
    Keeps B s₀ (State.shadowSend s p r) := by
  unfold State.shadowSend
  try dsimp only
  repeat' with_reducible first
    | assumption
    | exact .inr rfl
    | exact fun w => w
    | exact List.Subset.trans (by decide) hB
    | intro _
    | apply Keeps.ite
    | apply State.emit_keeps
    | apply State.sendFlits_keeps

theorem State.upstreamDown_keeps {s₀ s : State} (h : Keeps B s₀ s) (hB : [Block.time] ⊆ B) (p : Nat) :
    Keeps B s₀ (State.upstreamDown s p) := by
  unfold State.upstreamDown
  try dsimp only
  repeat' with_reducible first
    | assumption
    | exact .inr rfl
    | exact .inl (inB hB (by decide))
    | exact fun w => w
    | intro _
    | apply Keeps.ite
    | (rw [State.mk_eq]; apply Keeps.upd)

/-! ## Operands -/

theorem State.assignSlot_keeps {s₀ s : State} (h : Keeps B s₀ s) (hB : [Block.acc] ⊆ B) (rid : Nat) :
    Keeps B s₀ (State.assignSlot s rid).2 := by
  unfold State.assignSlot
  try dsimp only
  repeat' with_reducible first
    | assumption
    | exact .inr rfl
    | exact fun w => w
    | exact List.Subset.trans (by decide) hB
    | intro _
    | apply Keeps.ite
    | apply State.modSlot_keeps
    | split

theorem State.access_keeps {s₀ s : State} (h : Keeps B s₀ s) (hB : [Block.acc, .agg] ⊆ B) (who : Who) :
    Keeps B s₀ (State.access s who).2 := by
  unfold State.access
  try dsimp only
  repeat' with_reducible first
    | assumption
    | exact .inr rfl
    | exact fun w => w
    | exact List.Subset.trans (by decide) hB
    | intro _
    | apply Keeps.ite
    | apply State.assignSlot_keeps
    | apply State.report_keeps
    | refine Keeps.snd (by assumption) ?_
    | refine Keeps.fst (by assumption) ?_
    | split

theorem State.anyWrite_keeps {s₀ s : State} (h : Keeps B s₀ s)
    (hB : [Block.acc, .agg] ⊆ B) (who : Who) (f : Nat → State → State) (hf : ∀ a0 t, Keeps B s₀ t → Keeps B s₀ (f a0
      t)) :
    Keeps B s₀ (State.anyWrite s who f) := by
  unfold State.anyWrite
  try dsimp only
  repeat' with_reducible first
    | assumption
    | exact .inr rfl
    | exact fun w => w
    | exact List.Subset.trans (by decide) hB
    | intro _
    | apply Keeps.ite
    | apply hf
    | apply State.access_keeps
    | refine Keeps.snd (by assumption) ?_
    | refine Keeps.fst (by assumption) ?_
    | split

theorem State.prvWrite_keeps {s₀ s : State} (h : Keeps B s₀ s)
    (hB : [Block.acc, .agg] ⊆ B) (who : Who) (f : Nat → State → State) (hf : ∀ a0 t, Keeps B s₀ t → Keeps B s₀ (f a0
      t)) :
    Keeps B s₀ (State.prvWrite s who f) := by
  unfold State.prvWrite
  try dsimp only
  repeat' with_reducible first
    | assumption
    | exact .inr rfl
    | exact fun w => w
    | exact List.Subset.trans (by decide) hB
    | intro _
    | apply Keeps.ite
    | apply hf
    | apply State.anyWrite_keeps
    | apply State.report_keeps

theorem State.complete_keeps {s₀ s : State} (h : Keeps B s₀ s)
    (hB : [Block.mbx, .out] ⊆ B) (m status : Nat) (res : List Nat) :
    Keeps B s₀ (State.complete s m status res) := by
  unfold State.complete
  try dsimp only
  repeat' with_reducible first
    | assumption
    | exact .inr rfl
    | exact fun w => w
    | exact List.Subset.trans (by decide) hB
    | intro _
    | apply Keeps.ite
    | apply State.emit_keeps
    | apply State.modMailbox_keeps

theorem State.command_keeps {s₀ s : State} (h : Keeps B s₀ s)
    (hB : [Block.mbx, .out] ⊆ B) (m opcode : Nat) (f : Mailbox → State → State) (hf : ∀ a0 t, Keeps B s₀ t → Keeps B
      s₀ (f a0 t)) :
    Keeps B s₀ (State.command s m opcode f) := by
  unfold State.command
  try dsimp only
  repeat' with_reducible first
    | assumption
    | exact .inr rfl
    | exact fun w => w
    | exact List.Subset.trans (by decide) hB
    | intro _
    | apply Keeps.ite
    | apply hf
    | apply State.complete_keeps

theorem State.hostPut_keeps {s₀ s : State} (h : Keeps B s₀ s)
    (hB : [Block.mem, .out] ⊆ B) (m : Nat) (b : Mailbox) (addr : Nat) (bs : Bytes) :
    Keeps B s₀ (State.hostPut s m b addr bs) := by
  unfold State.hostPut
  try dsimp only
  repeat' with_reducible first
    | assumption
    | exact .inr rfl
    | exact fun w => w
    | exact List.Subset.trans (by decide) hB
    | intro _
    | apply Keeps.ite
    | apply State.emit_keeps
    | apply State.write_keeps

theorem State.completeWith_keeps {s₀ s : State} (h : Keeps B s₀ s)
    (hB : [Block.mbx, .mem, .out] ⊆ B) (m : Nat) (b : Mailbox) (addr len : Nat) (bs : Bytes) (res : List Nat) :
    Keeps B s₀ (State.completeWith s m b addr len bs res) := by
  unfold State.completeWith
  try dsimp only
  repeat' with_reducible first
    | assumption
    | exact .inr rfl
    | exact fun w => w
    | exact List.Subset.trans (by decide) hB
    | intro _
    | apply Keeps.ite
    | apply State.complete_keeps
    | apply State.hostPut_keeps

theorem State.sendOn_keeps {s₀ s : State} (h : Keeps B s₀ s)
    (hB : [Block.ports, .out] ⊆ B) (ports : List Nat) (msg : CtrlMsg) :
    Keeps B s₀ (State.sendOn s ports msg) := by
  unfold State.sendOn
  try dsimp only
  repeat' with_reducible first
    | assumption
    | exact .inr rfl
    | exact fun w => w
    | exact List.Subset.trans (by decide) hB
    | intro _
    | apply Keeps.ite
    | apply State.each_keeps
    | apply State.emit_keeps
    | apply State.sendFlits_keeps

theorem State.sendGroup_keeps {s₀ s : State} (h : Keeps B s₀ s)
    (hB : [Block.ports, .out] ⊆ B) (c msg pick arg arg2 : Nat) :
    Keeps B s₀ (State.sendGroup s c msg pick arg arg2) := by
  unfold State.sendGroup
  try dsimp only
  repeat' with_reducible first
    | assumption
    | exact .inr rfl
    | exact fun w => w
    | exact List.Subset.trans (by decide) hB
    | intro _
    | apply Keeps.ite
    | apply State.sendOn_keeps

theorem State.sendTwin_keeps {s₀ s : State} (h : Keeps B s₀ s) (hB : [Block.ports, .out] ⊆ B) (msg pick arg : Nat) :
    Keeps B s₀ (State.sendTwin s msg pick arg) := by
  unfold State.sendTwin
  try dsimp only
  repeat' with_reducible first
    | assumption
    | exact .inr rfl
    | exact fun w => w
    | exact List.Subset.trans (by decide) hB
    | intro _
    | apply Keeps.ite
    | apply State.sendOn_keeps

/-! ## Rings -/

theorem State.setCommit_keeps {s₀ s : State} (h : Keeps B s₀ s) (hB : [Block.mem] ⊆ B) (t v : Nat) :
    Keeps B s₀ (State.setCommit s t v) := by
  unfold State.setCommit
  try dsimp only
  repeat' with_reducible first
    | assumption
    | exact .inr rfl
    | exact fun w => w
    | exact List.Subset.trans (by decide) hB
    | intro _
    | apply Keeps.ite
    | apply State.write_keeps

theorem State.ringVector_keeps {s₀ s : State} (h : Keeps B s₀ s) (hB : [Block.engine, .out] ⊆ B) (r : Nat) :
    Keeps B s₀ (State.ringVector s r) := by
  unfold State.ringVector
  try dsimp only
  repeat' with_reducible first
    | assumption
    | exact .inr rfl
    | exact .inl (inB hB (by decide))
    | exact fun w => w
    | exact List.Subset.trans (by decide) hB
    | intro _
    | apply Keeps.ite
    | apply State.emit_keeps
    | (rw [State.mk_eq]; apply Keeps.upd)

theorem State.ringPut_keeps {s₀ s : State} (h : Keeps B s₀ s)
    (hB : [Block.rings, .engine, .out] ⊆ B) (r : Nat) (bs : Bytes) :
    Keeps B s₀ (State.ringPut s r bs) := by
  unfold State.ringPut
  try dsimp only
  repeat' with_reducible first
    | assumption
    | exact .inr rfl
    | exact fun w => w
    | exact List.Subset.trans (by decide) hB
    | intro _
    | apply Keeps.ite
    | apply State.emit_keeps
    | apply State.modRing_keeps
    | apply State.ringVector_keeps

theorem State.spillPut_keeps {s₀ s : State} (h : Keeps B s₀ s) (hB : [Block.mem, .rings] ⊆ B) (r : Nat) (bs : Bytes) :
    Keeps B s₀ (State.spillPut s r bs) := by
  unfold State.spillPut
  try dsimp only
  repeat' with_reducible first
    | assumption
    | exact .inr rfl
    | exact fun w => w
    | exact List.Subset.trans (by decide) hB
    | intro _
    | apply Keeps.ite
    | apply State.modRing_keeps
    | apply State.write_keeps

theorem State.placeRecord_keeps {s₀ s : State} (h : Keeps B s₀ s)
    (hB : [Block.mem, .rings, .engine, .out] ⊆ B) (r : Nat) (bs : Bytes) :
    Keeps B s₀ (State.placeRecord s r bs) := by
  unfold State.placeRecord
  try dsimp only
  repeat' with_reducible first
    | assumption
    | exact .inr rfl
    | exact fun w => w
    | exact List.Subset.trans (by decide) hB
    | intro _
    | apply Keeps.ite
    | apply State.ringPut_keeps
    | apply State.spillPut_keeps

theorem State.flushRing_keeps {s₀ s : State} (h : Keeps B s₀ s)
    (hB : [Block.mem, .rings, .engine, .out] ⊆ B) (r : Nat) :
    Keeps B s₀ (State.flushRing s r) := by
  unfold State.flushRing
  try dsimp only
  repeat' with_reducible first
    | assumption
    | exact .inr rfl
    | exact fun w => w
    | exact List.Subset.trans (by decide) hB
    | intro _
    | apply Keeps.ite
    | apply State.each_keeps
    | apply State.fresh_keeps
    | apply State.modRing_keeps
    | apply State.placeRecord_keeps

theorem State.flushRings_keeps {s₀ s : State} (h : Keeps B s₀ s) (hB : [Block.mem, .rings, .engine, .out] ⊆ B) :
    Keeps B s₀ (State.flushRings s) := by
  unfold State.flushRings
  try dsimp only
  repeat' with_reducible first
    | assumption
    | exact .inr rfl
    | exact fun w => w
    | exact List.Subset.trans (by decide) hB
    | intro _
    | apply Keeps.ite
    | apply State.each_keeps
    | apply State.flushRing_keeps

theorem State.putRecord_keeps {s₀ s : State} (h : Keeps B s₀ s)
    (hB : [Block.rings] ⊆ B) (r order : Nat) (cancels : Option Nat) (bs : Bytes) :
    Keeps B s₀ (State.putRecord s r order cancels bs) := by
  unfold State.putRecord
  try dsimp only
  repeat' with_reducible first
    | assumption
    | exact .inr rfl
    | exact fun w => w
    | exact List.Subset.trans (by decide) hB
    | intro _
    | apply Keeps.ite
    | apply State.fresh_keeps
    | apply State.modRing_keeps

theorem unspill_keeps {s₀ s : State} (h : Keeps B s₀ s) (hB : [Block.rings, .engine, .out] ⊆ B) (r : Nat) (x0 : Nat) :
    Keeps B s₀ (unspill r x0 s) := by
  induction x0 generalizing s with
  | zero => exact h
  | succ k ih =>
    unfold unspill
    dsimp only
    repeat' with_reducible first
      | assumption
      | exact List.Subset.trans (by decide) hB
      | apply ih
      | apply State.ringPut_keeps
      | apply State.modRing_keeps
      | split

theorem State.modRequest_keeps {s₀ s : State} (h : Keeps B s₀ s)
    (hB : [Block.reqs] ⊆ B) (id : Nat) (f : Request → Request) :
    Keeps B s₀ (State.modRequest s id f) := by
  unfold State.modRequest
  try dsimp only
  repeat' with_reducible first
    | assumption
    | exact .inr rfl
    | exact .inl (inB hB (by decide))
    | exact fun w => w
    | intro _
    | apply Keeps.ite
    | (rw [State.mk_eq]; apply Keeps.upd)

theorem State.lateCancels_keeps {s₀ s : State} (h : Keeps B s₀ s) (hB : [Block.rings] ⊆ B) (id : Nat) :
    Keeps B s₀ (State.lateCancels s id) := by
  unfold State.lateCancels
  try dsimp only
  repeat' with_reducible first
    | assumption
    | exact .inr rfl
    | exact .inl (inB hB (by decide))
    | exact fun w => w
    | exact List.Subset.trans (by decide) hB
    | intro _
    | apply Keeps.ite
    | apply State.fresh_keeps
    | (rw [State.mk_eq]; apply Keeps.upd)

theorem State.finish_keeps {s₀ s : State} (h : Keeps B s₀ s)
    (hB : [Block.rings, .reqs] ⊆ B) (q : Request) (status p : Nat) :
    Keeps B s₀ (State.finish s q status p) := by
  unfold State.finish
  try dsimp only
  repeat' with_reducible first
    | assumption
    | exact .inr rfl
    | exact fun w => w
    | exact List.Subset.trans (by decide) hB
    | intro _
    | apply Keeps.ite
    | apply State.lateCancels_keeps
    | apply State.modRequest_keeps
    | apply State.putRecord_keeps

theorem State.prune_keeps {s₀ s : State} (h : Keeps B s₀ s) (hB : [Block.reqs] ⊆ B) :
    Keeps B s₀ (State.prune s) := by
  unfold State.prune
  try dsimp only
  repeat' with_reducible first
    | assumption
    | exact .inr rfl
    | exact .inl (inB hB (by decide))
    | exact fun w => w
    | intro _
    | apply Keeps.ite
    | (rw [State.mk_eq]; apply Keeps.upd)

theorem State.charge_keeps {s₀ s : State} (h : Keeps B s₀ s) (hB : [Block.tenants] ⊆ B) (t n : Nat) :
    Keeps B s₀ (State.charge s t n) := by
  unfold State.charge
  try dsimp only
  repeat' with_reducible first
    | assumption
    | exact .inr rfl
    | exact fun w => w
    | exact List.Subset.trans (by decide) hB
    | intro _
    | apply Keeps.ite
    | apply State.modTenant_keeps

/-! ## Knots -/

theorem State.placeWrite_keeps {s₀ s : State} (h : Keeps B s₀ s)
    (hB : [Block.mem] ⊆ B) (at? : Option (Nat × Option (Nat × Nat))) (bs : Bytes) :
    Keeps B s₀ (State.placeWrite s at? bs) := by
  unfold State.placeWrite
  try dsimp only
  repeat' with_reducible first
    | assumption
    | exact .inr rfl
    | exact fun w => w
    | exact List.Subset.trans (by decide) hB
    | intro _
    | apply Keeps.ite
    | apply State.write_keeps
    | split

theorem State.traceRecord_keeps {s₀ s : State} (h : Keeps B s₀ s) (hB : [Block.mem, .obs] ⊆ B) (bs : Bytes) :
    Keeps B s₀ (State.traceRecord s bs) := by
  unfold State.traceRecord
  try dsimp only
  repeat' with_reducible first
    | assumption
    | exact .inr rfl
    | exact .inl (inB hB (by decide))
    | exact fun w => w
    | exact List.Subset.trans (by decide) hB
    | intro _
    | apply Keeps.ite
    | apply State.placeWrite_keeps
    | (rw [State.mk_eq]; apply Keeps.upd)

theorem State.tagRecord_keeps {s₀ s : State} (h : Keeps B s₀ s) (hB : [Block.mem, .obs] ⊆ B) (bs : Bytes) :
    Keeps B s₀ (State.tagRecord s bs) := by
  unfold State.tagRecord
  try dsimp only
  repeat' with_reducible first
    | assumption
    | exact .inr rfl
    | exact .inl (inB hB (by decide))
    | exact fun w => w
    | exact List.Subset.trans (by decide) hB
    | intro _
    | apply Keeps.ite
    | apply State.placeWrite_keeps
    | (rw [State.mk_eq]; apply Keeps.upd)

theorem State.traceWait_keeps {s₀ s : State} (h : Keeps B s₀ s)
    (hB : [Block.mem, .obs] ⊆ B) (list idx : Nat) (st : PlanStep) (n : Nat) :
    Keeps B s₀ (State.traceWait s list idx st n) := by
  unfold State.traceWait
  try dsimp only
  repeat' with_reducible first
    | assumption
    | exact .inr rfl
    | exact fun w => w
    | exact List.Subset.trans (by decide) hB
    | intro _
    | apply Keeps.ite
    | apply State.traceRecord_keeps

theorem State.wake_keeps {s₀ s : State} (h : Keeps B s₀ s) (hB : [Block.mem, .sched, .obs] ⊆ B) (a : Nat) :
    Keeps B s₀ (State.wake s a) := by
  unfold State.wake
  try dsimp only
  repeat' with_reducible first
    | assumption
    | exact .inr rfl
    | exact .inl (inB hB (by decide))
    | exact fun w => w
    | exact List.Subset.trans (by decide) hB
    | intro _
    | apply Keeps.ite
    | apply State.each_keeps
    | apply State.traceWait_keeps
    | (rw [State.mk_eq]; apply Keeps.upd)

theorem State.forgetArrived_keeps {s₀ s : State} (h : Keeps B s₀ s) (hB : [Block.kvt] ⊆ B) (blocks : List Nat) :
    Keeps B s₀ (State.forgetArrived s blocks) := by
  unfold State.forgetArrived
  try dsimp only
  repeat' with_reducible first
    | assumption
    | exact .inr rfl
    | exact .inl (inB hB (by decide))
    | exact fun w => w
    | exact List.Subset.trans (by decide) hB
    | intro _
    | apply Keeps.ite
    | apply State.arrived_keeps
    | (rw [State.mk_eq]; apply Keeps.upd)

theorem State.publish_keeps {s₀ s : State} (h : Keeps B s₀ s) (hB : [Block.mem, .kvt] ⊆ B) (i : Nat) :
    Keeps B s₀ (State.publish s i) := by
  unfold State.publish
  try dsimp only
  repeat' with_reducible first
    | assumption
    | exact .inr rfl
    | exact fun w => w
    | exact List.Subset.trans (by decide) hB
    | intro _
    | apply Keeps.ite
    | apply State.forgetArrived_keeps
    | apply State.write_keeps

theorem State.publishReady_keeps {s₀ s : State} (h : Keeps B s₀ s) (hB : [Block.mem, .kvt] ⊆ B) :
    Keeps B s₀ (State.publishReady s) := by
  unfold State.publishReady
  try dsimp only
  repeat' with_reducible first
    | assumption
    | exact .inr rfl
    | exact .inl (inB hB (by decide))
    | exact fun w => w
    | exact List.Subset.trans (by decide) hB
    | intro _
    | apply Keeps.ite
    | apply State.each_keeps
    | apply State.publish_keeps
    | (rw [State.mk_eq]; apply Keeps.upd)

theorem State.publishKnot_keeps {s₀ s : State} (h : Keeps B s₀ s) (hB : [Block.mem, .kvt] ⊆ B) (a : Nat) :
    Keeps B s₀ (State.publishKnot s a) := by
  unfold State.publishKnot
  try dsimp only
  repeat' with_reducible first
    | assumption
    | exact .inr rfl
    | exact .inl (inB hB (by decide))
    | exact fun w => w
    | exact List.Subset.trans (by decide) hB
    | intro _
    | apply Keeps.ite
    | apply State.publishReady_keeps
    | (rw [State.mk_eq]; apply Keeps.upd)

theorem State.arrived_keeps {s₀ s : State} (h : Keeps B s₀ s) (hB : [Block.mem, .kvt] ⊆ B) (a n : Nat) :
    Keeps B s₀ (State.arrived s a n) := by
  unfold State.arrived
  try dsimp only
  repeat' with_reducible first
    | assumption
    | exact .inr rfl
    | exact .inl (inB hB (by decide))
    | exact fun w => w
    | exact List.Subset.trans (by decide) hB
    | intro _
    | apply Keeps.ite
    | apply foldl_keeps
    | apply State.publishReady_keeps
    | (rw [State.mk_eq]; apply Keeps.upd)

theorem State.setKnot_keeps {s₀ s : State} (h : Keeps B s₀ s)
    (hB : [Block.mem, .kvt, .sched, .obs] ⊆ B) (a n ctx : Nat) (by_ : Setter) :
    Keeps B s₀ (State.setKnot s a n ctx by_) := by
  unfold State.setKnot
  try dsimp only
  repeat' with_reducible first
    | assumption
    | exact .inr rfl
    | exact .inl (inB hB (by decide))
    | exact fun w => w
    | exact List.Subset.trans (by decide) hB
    | intro _
    | apply Keeps.ite
    | apply State.arrived_keeps
    | apply State.perf_keeps
    | apply State.publishKnot_keeps
    | apply State.traceRecord_keeps
    | apply State.wake_keeps
    | apply State.write_keeps
    | (rw [State.mk_eq]; apply Keeps.upd)
    | split

theorem State.setOf_keeps {s₀ s : State} (h : Keeps B s₀ s)
    (hB : [Block.mem, .kvt, .sched, .ports, .obs, .out] ⊆ B) (c l i : Nat) (st : PlanStep) :
    Keeps B s₀ (State.setOf s c l i st) := by
  unfold State.setOf
  try dsimp only
  repeat' with_reducible first
    | assumption
    | exact .inr rfl
    | exact .inl (inB hB (by decide))
    | exact fun w => w
    | exact List.Subset.trans (by decide) hB
    | intro _
    | apply Keeps.ite
    | apply State.arrived_keeps
    | apply State.issue_keeps
    | apply State.setKnot_keeps
    | (rw [State.mk_eq]; apply Keeps.upd)

/-! ## Recipe -/

theorem State.redPut_keeps {s₀ s : State} (h : Keeps B s₀ s)
    (hB : [Block.mem] ⊆ B) (store : Bool) (a : Nat) (op : RedWord) :
    Keeps B s₀ (State.redPut s store a op) := by
  unfold State.redPut
  try dsimp only
  repeat' with_reducible first
    | assumption
    | exact .inr rfl
    | exact fun w => w
    | exact List.Subset.trans (by decide) hB
    | intro _
    | apply Keeps.ite
    | apply State.write_keeps

/-! ## Sequencer -/

theorem State.check_keeps {s₀ s : State} (h : Keeps B s₀ s) (hB : [Block.ctxs] ⊆ B) (c k : Nat) (f : Check → Check) :
    Keeps B s₀ (State.check s c k f) := by
  unfold State.check
  try dsimp only
  repeat' with_reducible first
    | assumption
    | exact .inr rfl
    | exact fun w => w
    | exact List.Subset.trans (by decide) hB
    | intro _
    | apply Keeps.ite
    | apply State.each_keeps
    | apply State.modBatch_keeps

theorem State.tagDraw_keeps {s₀ s : State} (h : Keeps B s₀ s) (hB : [Block.sched] ⊆ B) (c l kind : Nat) :
    Keeps B s₀ (State.tagDraw s c l kind).2 := by
  unfold State.tagDraw
  try dsimp only
  repeat' with_reducible first
    | assumption
    | exact .inr rfl
    | exact .inl (inB hB (by decide))
    | exact fun w => w
    | intro _
    | apply Keeps.ite
    | (rw [State.mk_eq]; apply Keeps.upd)
    | split

theorem State.tagQueue_keeps {s₀ s : State} (h : Keeps B s₀ s) (hB : [Block.obs] ⊆ B) (bs : Bytes) :
    Keeps B s₀ (State.tagQueue s bs) := by
  unfold State.tagQueue
  try dsimp only
  repeat' with_reducible first
    | assumption
    | exact .inr rfl
    | exact .inl (inB hB (by decide))
    | exact fun w => w
    | intro _
    | apply Keeps.ite
    | (rw [State.mk_eq]; apply Keeps.upd)

theorem State.fallDue_keeps {s₀ s : State} (h : Keeps B s₀ s)
    (hB : [Block.mem, .ctxs, .sched, .obs] ⊆ B) (c l i n p : Nat) :
    Keeps B s₀ (State.fallDue s c l i n p) := by
  unfold State.fallDue
  try dsimp only
  repeat' with_reducible first
    | assumption
    | exact .inr rfl
    | exact .inl (inB hB (by decide))
    | exact fun w => w
    | exact List.Subset.trans (by decide) hB
    | intro _
    | apply Keeps.ite
    | apply State.check_keeps
    | apply State.tagDraw_keeps
    | apply State.traceWait_keeps
    | (rw [State.mk_eq]; apply Keeps.upd)

theorem State.dueAt_keeps {s₀ s : State} (h : Keeps B s₀ s) (hB : [Block.mem, .ctxs, .sched, .obs] ⊆ B) (c p : Nat) :
    Keeps B s₀ (State.dueAt s c p) := by
  unfold State.dueAt
  try dsimp only
  repeat' with_reducible first
    | assumption
    | exact .inr rfl
    | exact fun w => w
    | exact List.Subset.trans (by decide) hB
    | intro _
    | apply Keeps.ite
    | apply State.each_keeps
    | apply State.cut_keeps
    | apply State.fallDue_keeps
    | split

theorem State.settleReason_keeps {s₀ s : State} (h : Keeps B s₀ s) (hB : [Block.obs] ⊆ B) (e reason n : Nat) :
    Keeps B s₀ (State.settleReason s e reason n) := by
  unfold State.settleReason
  try dsimp only
  repeat' with_reducible first
    | assumption
    | exact .inr rfl
    | exact .inl (inB hB (by decide))
    | exact fun w => w
    | intro _
    | apply Keeps.ite
    | (rw [State.mk_eq]; apply Keeps.upd)

theorem State.enterReasons_keeps {s₀ s : State} (h : Keeps B s₀ s) (hB : [Block.obs] ⊆ B) :
    Keeps B s₀ (State.enterReasons s) := by
  unfold State.enterReasons
  try dsimp only
  repeat' with_reducible first
    | assumption
    | exact .inr rfl
    | exact .inl (inB hB (by decide))
    | exact fun w => w
    | exact List.Subset.trans (by decide) hB
    | intro _
    | apply Keeps.ite
    | apply State.each_keeps
    | apply State.modEngine_keeps
    | (rw [State.mk_eq]; apply Keeps.upd)

theorem State.voidStalls_keeps {s₀ s : State} (h : Keeps B s₀ s) (hB : [Block.obs] ⊆ B) (d : Due) :
    Keeps B s₀ (State.voidStalls s d) := by
  unfold State.voidStalls
  try dsimp only
  repeat' with_reducible first
    | assumption
    | exact .inr rfl
    | exact fun w => w
    | exact List.Subset.trans (by decide) hB
    | intro _
    | apply Keeps.ite
    | apply State.settleReason_keeps

theorem State.dropTag_keeps {s₀ s : State} (h : Keeps B s₀ s) (hB : [Block.sched, .obs] ⊆ B) (d : Due) (supp : Bool) :
    Keeps B s₀ (State.dropTag s d supp) := by
  unfold State.dropTag
  try dsimp only
  repeat' with_reducible first
    | assumption
    | exact .inr rfl
    | exact fun w => w
    | exact List.Subset.trans (by decide) hB
    | intro _
    | apply Keeps.ite
    | apply State.tagDraw_keeps
    | apply State.tagQueue_keeps

theorem State.refresh_keeps {s₀ s : State} (h : Keeps B s₀ s) (hB : [Block.sched] ⊆ B) :
    Keeps B s₀ (State.refresh s) := by
  unfold State.refresh
  try dsimp only
  repeat' with_reducible first
    | assumption
    | exact .inr rfl
    | exact .inl (inB hB (by decide))
    | exact fun w => w
    | intro _
    | apply Keeps.ite
    | (rw [State.mk_eq]; apply Keeps.upd)

theorem State.dropDue_keeps {s₀ s : State} (h : Keeps B s₀ s)
    (hB : [Block.mem, .kvt, .ctxs, .sched, .ports, .obs, .out] ⊆ B) (p : Due → Bool) (supp : Bool) :
    Keeps B s₀ (State.dropDue s p supp) := by
  unfold State.dropDue
  try dsimp only
  repeat' with_reducible first
    | assumption
    | exact .inr rfl
    | exact .inl (inB hB (by decide))
    | exact fun w => w
    | exact List.Subset.trans (by decide) hB
    | intro _
    | apply Keeps.ite
    | apply State.each_keeps
    | apply State.check_keeps
    | apply State.dropTag_keeps
    | apply State.refresh_keeps
    | apply State.setOf_keeps
    | apply State.voidStalls_keeps
    | (rw [State.mk_eq]; apply Keeps.upd)

theorem State.settle_keeps {s₀ s : State} (h : Keeps B s₀ s)
    (hB : [Block.obs] ⊆ B) (d : Due) (l : Nat) (st : PlanStep) (c : Nat) :
    Keeps B s₀ (State.settle s d l st c) := by
  unfold State.settle
  try dsimp only
  repeat' with_reducible first
    | assumption
    | exact .inr rfl
    | exact fun w => w
    | exact List.Subset.trans (by decide) hB
    | intro _
    | apply Keeps.ite
    | apply State.perf_keeps
    | apply State.settleReason_keeps
    | split

theorem State.startRun_keeps {s₀ s : State} (h : Keeps B s₀ s)
    (hB : [Block.sched, .obs] ⊆ B) (d : Due) (out : Nat) (mid : Option Int) :
    Keeps B s₀ (State.startRun s d out mid) := by
  unfold State.startRun
  try dsimp only
  repeat' with_reducible first
    | assumption
    | exact .inr rfl
    | exact .inl (inB hB (by decide))
    | exact fun w => w
    | exact List.Subset.trans (by decide) hB
    | intro _
    | apply Keeps.ite
    | apply State.perf_keeps
    | apply State.refresh_keeps
    | apply State.settle_keeps
    | apply State.tagDraw_keeps
    | (rw [State.mk_eq]; apply Keeps.upd)

theorem State.runStep_keeps {s₀ s : State} (h : Keeps B s₀ s)
    (hB : [Block.sched, .obs] ⊆ B) (c l i kind out : Nat) (mid : Option Int) (f : Due → PlanStep → State → State)
      (hf : ∀ a0 a1 t, Keeps B s₀ t → Keeps B s₀ (f a0 a1 t)) :
    Keeps B s₀ (State.runStep s c l i kind out mid f) := by
  unfold State.runStep
  try dsimp only
  repeat' with_reducible first
    | assumption
    | exact .inr rfl
    | exact fun w => w
    | exact List.Subset.trans (by decide) hB
    | intro _
    | apply Keeps.ite
    | apply hf
    | apply State.startRun_keeps
    | split

theorem State.runTag_keeps {s₀ s : State} (h : Keeps B s₀ s)
    (hB : [Block.obs] ⊆ B) (r : Run) (hung : Bool) (fin : Option Int) :
    Keeps B s₀ (State.runTag s r hung fin) := by
  unfold State.runTag
  try dsimp only
  repeat' with_reducible first
    | assumption
    | exact .inr rfl
    | exact fun w => w
    | exact List.Subset.trans (by decide) hB
    | intro _
    | apply Keeps.ite
    | apply State.tagQueue_keeps

theorem State.leaves_keeps {s₀ s : State} (h : Keeps B s₀ s) (hB : [Block.sched] ⊆ B) (r : Run) (hung : Bool) :
    Keeps B s₀ (State.leaves s r hung) := by
  unfold State.leaves
  try dsimp only
  repeat' with_reducible first
    | assumption
    | exact .inr rfl
    | exact .inl (inB hB (by decide))
    | exact fun w => w
    | intro _
    | apply Keeps.ite
    | (rw [State.mk_eq]; apply Keeps.upd)

theorem State.closeRun_keeps {s₀ s : State} (h : Keeps B s₀ s)
    (hB : [Block.mem, .kvt, .sched, .ports, .obs, .out] ⊆ B) (r : Run) :
    Keeps B s₀ (State.closeRun s r) := by
  unfold State.closeRun
  try dsimp only
  repeat' with_reducible first
    | assumption
    | exact .inr rfl
    | exact fun w => w
    | exact List.Subset.trans (by decide) hB
    | intro _
    | apply Keeps.ite
    | apply State.leaves_keeps
    | apply State.runTag_keeps
    | apply State.setOf_keeps

theorem State.freeUnit_keeps {s₀ s : State} (h : Keeps B s₀ s) (hB : [Block.sched] ⊆ B) (r : Run) :
    Keeps B s₀ (State.freeUnit s r) := by
  unfold State.freeUnit
  try dsimp only
  repeat' with_reducible first
    | assumption
    | exact .inr rfl
    | exact .inl (inB hB (by decide))
    | exact fun w => w
    | intro _
    | apply Keeps.ite
    | apply foldl_keeps
    | (rw [State.mk_eq]; apply Keeps.upd)

theorem State.endRun_keeps {s₀ s : State} (h : Keeps B s₀ s)
    (hB : [Block.mem, .kvt, .sched, .ports, .obs, .out] ⊆ B) (r : Run) :
    Keeps B s₀ (State.endRun s r) := by
  unfold State.endRun
  try dsimp only
  repeat' with_reducible first
    | assumption
    | exact .inr rfl
    | exact .inl (inB hB (by decide))
    | exact fun w => w
    | exact List.Subset.trans (by decide) hB
    | intro _
    | apply Keeps.ite
    | apply State.closeRun_keeps
    | apply State.freeUnit_keeps
    | apply State.perf_keeps
    | apply State.refresh_keeps
    | (rw [State.mk_eq]; apply Keeps.upd)

theorem State.abandon_keeps {s₀ s : State} (h : Keeps B s₀ s)
    (hB : [Block.mem, .kvt, .ctxs, .sched, .ports, .obs, .out] ⊆ B) (r : Run) :
    Keeps B s₀ (State.abandon s r) := by
  unfold State.abandon
  try dsimp only
  repeat' with_reducible first
    | assumption
    | exact .inr rfl
    | exact fun w => w
    | exact List.Subset.trans (by decide) hB
    | intro _
    | apply Keeps.ite
    | apply State.check_keeps
    | apply State.freeUnit_keeps
    | apply State.leaves_keeps
    | apply State.refresh_keeps
    | apply State.runTag_keeps
    | apply State.setOf_keeps

theorem State.countClasses_keeps {s₀ s : State} (h : Keeps B s₀ s) (hB : [Block.ctxs, .sched, .obs] ⊆ B) :
    Keeps B s₀ (State.countClasses s) := by
  unfold State.countClasses
  try dsimp only
  repeat' with_reducible first
    | assumption
    | exact .inr rfl
    | exact .inl (inB hB (by decide))
    | exact fun w => w
    | exact List.Subset.trans (by decide) hB
    | intro _
    | apply Keeps.ite
    | apply State.each_keeps
    | apply State.enterReasons_keeps
    | apply State.modEngine_keeps
    | apply State.modRecs_keeps
    | apply State.perf_keeps
    | (rw [State.mk_eq]; apply Keeps.upd)

/-! ## Flags -/

theorem State.flagCount_keeps {s₀ s : State} (h : Keeps B s₀ s) (hB : [Block.mem] ⊆ B) (c layer f : Nat) :
    Keeps B s₀ (State.flagCount s c layer f) := by
  unfold State.flagCount
  try dsimp only
  repeat' with_reducible first
    | assumption
    | exact .inr rfl
    | exact fun w => w
    | exact List.Subset.trans (by decide) hB
    | intro _
    | apply Keeps.ite
    | apply State.write_keeps

theorem State.raise_keeps {s₀ s : State} (h : Keeps B s₀ s)
    (hB : [Block.ctxs, .obs] ⊆ B) (c slot layer : Nat) (offs : List Nat) (f : FormatFlag) :
    Keeps B s₀ (State.raise s c slot layer offs f) := by
  unfold State.raise
  try dsimp only
  repeat' with_reducible first
    | assumption
    | exact .inr rfl
    | exact fun w => w
    | exact List.Subset.trans (by decide) hB
    | intro _
    | apply Keeps.ite
    | apply State.each_keeps
    | apply State.check_keeps
    | apply State.modBatch_keeps
    | apply State.modRecs_keeps
    | apply State.perf_keeps

theorem State.countFlags_keeps {s₀ s : State} (h : Keeps B s₀ s)
    (hB : [Block.mem, .ctxs] ⊆ B) (c k : Nat) (p : Nat → Bool) :
    Keeps B s₀ (State.countFlags s c k p) := by
  unfold State.countFlags
  try dsimp only
  repeat' with_reducible first
    | assumption
    | exact .inr rfl
    | exact fun w => w
    | exact List.Subset.trans (by decide) hB
    | intro _
    | apply Keeps.ite
    | apply State.each_keeps
    | apply State.flagCount_keeps
    | apply State.modBatch_keeps

theorem State.layerEnd_keeps {s₀ s : State} (h : Keeps B s₀ s) (hB : [Block.mem, .ctxs] ⊆ B) (c l i n : Nat) :
    Keeps B s₀ (State.layerEnd s c l i n) := by
  unfold State.layerEnd
  try dsimp only
  repeat' with_reducible first
    | assumption
    | exact .inr rfl
    | exact fun w => w
    | exact List.Subset.trans (by decide) hB
    | intro _
    | apply Keeps.ite
    | apply State.each_keeps
    | apply State.countFlags_keeps
    | split

theorem State.raiseNonfinite_keeps {s₀ s : State} (h : Keeps B s₀ s) (hB : [Block.ctxs, .agg] ⊆ B) (c layer : Nat) :
    Keeps B s₀ (State.raiseNonfinite s c layer) := by
  unfold State.raiseNonfinite
  try dsimp only
  repeat' with_reducible first
    | assumption
    | exact .inr rfl
    | exact fun w => w
    | exact List.Subset.trans (by decide) hB
    | intro _
    | apply Keeps.ite
    | apply State.modRecs_keeps
    | apply State.report_keeps

theorem State.capture_keeps {s₀ s : State} (h : Keeps B s₀ s)
    (hB : [Block.packs] ⊆ B) (kind : Nat) (units : List (Nat × Nat)) (data : Bytes) :
    Keeps B s₀ (State.capture s kind units data).2 := by
  unfold State.capture
  try dsimp only
  repeat' with_reducible first
    | assumption
    | exact .inr rfl
    | exact .inl (inB hB (by decide))
    | exact fun w => w
    | intro _
    | apply Keeps.ite
    | apply foldl_keeps
    | (rw [State.mk_eq]; apply Keeps.upd)
    | refine Keeps.snd (by assumption) ?_
    | refine Keeps.fst (by assumption) ?_
    | split

theorem State.readFail_keeps {s₀ s : State} (h : Keeps B s₀ s)
    (hB : [Block.history, .memChecks, .obs, .agg] ⊆ B) (a ctx : Nat) :
    Keeps B s₀ (State.readFail s a ctx) := by
  unfold State.readFail
  try dsimp only
  repeat' with_reducible first
    | assumption
    | exact .inr rfl
    | exact fun w => w
    | exact List.Subset.trans (by decide) hB
    | intro _
    | apply Keeps.ite
    | apply State.tallyCount_keeps
    | apply State.tallyFail_keeps

theorem State.eccEvents_keeps {s₀ s : State} (h : Keeps B s₀ s)
    (hB : [Block.history, .memChecks, .obs] ⊆ B) (ctx : Nat) (units : List (Nat × Decoded)) :
    Keeps B s₀ (State.eccEvents s ctx units) := by
  unfold State.eccEvents
  try dsimp only
  repeat' with_reducible first
    | assumption
    | exact .inr rfl
    | exact fun w => w
    | exact List.Subset.trans (by decide) hB
    | intro _
    | apply Keeps.ite
    | apply State.each_keeps
    | apply State.eccCorrected_keeps
    | apply State.eccUncorrected_keeps
    | apply State.healthEvent_keeps

theorem State.checkedRead_keeps {s₀ s : State} (h : Keeps B s₀ s)
    (hB : [Block.ctxs, .history, .memChecks, .obs, .agg] ⊆ B) (c slot a n : Nat) (ups : List Upset) :
    Keeps B s₀ (State.checkedRead s c slot a n ups) := by
  unfold State.checkedRead
  try dsimp only
  repeat' with_reducible first
    | assumption
    | exact .inr rfl
    | exact fun w => w
    | exact List.Subset.trans (by decide) hB
    | intro _
    | apply Keeps.ite
    | apply State.each_keeps
    | apply State.check_keeps
    | apply State.eccEvents_keeps
    | apply State.perf_keeps
    | apply State.readFail_keeps

theorem State.countWrite_keeps {s₀ s : State} (h : Keeps B s₀ s) (hB : [Block.obs] ⊆ B) (a n : Nat) :
    Keeps B s₀ (State.countWrite s a n) := by
  unfold State.countWrite
  try dsimp only
  repeat' with_reducible first
    | assumption
    | exact .inr rfl
    | exact fun w => w
    | exact List.Subset.trans (by decide) hB
    | intro _
    | apply Keeps.ite
    | apply State.perf_keeps

theorem State.refusedHere_keeps {s₀ s : State} (h : Keeps B s₀ s)
    (hB : [Block.ctxs, .obs, .agg] ⊆ B) (c l : Nat) (st : PlanStep) (status : Nat) :
    Keeps B s₀ (State.refusedHere s c l st status) := by
  unfold State.refusedHere
  try dsimp only
  repeat' with_reducible first
    | assumption
    | exact .inr rfl
    | exact fun w => w
    | exact List.Subset.trans (by decide) hB
    | intro _
    | apply Keeps.ite
    | apply State.check_keeps
    | apply State.perf_keeps
    | apply State.report_keeps

theorem State.seenBy_keeps {s₀ s : State} (h : Keeps B s₀ s) (hB : [Block.mem] ⊆ B) (c l : Nat) (ups : List Upset)
    (reads : List (Nat × Nat)) : Keeps B s₀ (State.seenBy s c l ups reads) :=
  State.setMem_keeps h hB _ fun w => Memory.wf_foldl _ (fun m _ k => by
    split; exacts [k, Memory.wf_writeBytes k _ _]) _
    ((State.asRead_keeps (B := [Block.mem]) (Keeps.refl s) (fun _ k => k) ups).wf w)

theorem State.unitRead_keeps {s₀ s : State} (h : Keeps B s₀ s)
    (hB : [Block.tick, .ctxs, .history, .memChecks, .obs, .agg] ⊆ B) (c l : Nat) (st : PlanStep) (a n : Nat) (ups :
      List Upset) :
    Keeps B s₀ (State.unitRead s c l st a n ups) := by
  unfold State.unitRead
  try dsimp only
  repeat' with_reducible first
    | assumption
    | exact .inr rfl
    | exact fun w => w
    | exact List.Subset.trans (by decide) hB
    | intro _
    | apply Keeps.ite
    | apply State.checkedRead_keeps
    | apply State.fresh_keeps
    | apply State.refusedHere_keeps

theorem State.unitStore_keeps {s₀ s : State} (h : Keeps B s₀ s)
    (hB : [Block.mem, .ctxs, .obs, .agg] ⊆ B) (c l : Nat) (st : PlanStep) (a : Nat) (bs : Bytes) :
    Keeps B s₀ (State.unitStore s c l st a bs) := by
  unfold State.unitStore
  try dsimp only
  repeat' with_reducible first
    | assumption
    | exact .inr rfl
    | exact fun w => w
    | exact List.Subset.trans (by decide) hB
    | intro _
    | apply Keeps.ite
    | apply State.countWrite_keeps
    | apply State.refusedHere_keeps
    | apply State.unitWrite_keeps

theorem State.residueFail_keeps {s₀ s : State} (h : Keeps B s₀ s)
    (hB : [Block.looms, .ctxs, .history, .packs, .obs, .agg] ⊆ B) (c slot : Nat) (path : ResPath) (l kind uk unit :
      Nat) (data : Bytes) :
    Keeps B s₀ (State.residueFail s c slot path l kind uk unit data) := by
  unfold State.residueFail
  try dsimp only
  repeat' with_reducible first
    | assumption
    | exact .inr rfl
    | exact fun w => w
    | exact List.Subset.trans (by decide) hB
    | intro _
    | apply Keeps.ite
    | apply State.capture_keeps
    | apply State.check_keeps
    | apply State.healthEvent_keeps
    | apply State.modLoom_keeps
    | apply State.perf_keeps
    | apply State.report_keeps

theorem State.consume_keeps {s₀ s : State} (h : Keeps B s₀ s)
    (hB : [Block.mem, .looms, .ctxs, .history, .packs, .obs, .agg] ⊆ B) (c slot layer : Nat) (offs : List Nat) (rec_
      : Bytes) (a : Nat) (clear : Bool) :
    Keeps B s₀ (State.consume s c slot layer offs rec_ a clear) := by
  unfold State.consume
  try dsimp only
  repeat' with_reducible first
    | assumption
    | exact .inr rfl
    | exact fun w => w
    | exact List.Subset.trans (by decide) hB
    | intro _
    | apply Keeps.ite
    | apply State.modLoom_keeps
    | apply State.raise_keeps
    | apply State.residueFail_keeps
    | apply State.write_keeps

theorem State.consumeAll_keeps {s₀ s : State} (h : Keeps B s₀ s)
    (hB : [Block.mem, .looms, .ctxs, .history, .packs, .obs, .agg] ⊆ B) (c slot layer : Nat) (offs : List Nat) (rec_
      : Bytes) (a n : Nat) (clear : Bool) :
    Keeps B s₀ (State.consumeAll s c slot layer offs rec_ a n clear) := by
  unfold State.consumeAll
  try dsimp only
  repeat' with_reducible first
    | assumption
    | exact .inr rfl
    | exact fun w => w
    | exact List.Subset.trans (by decide) hB
    | intro _
    | apply Keeps.ite
    | apply State.each_keeps
    | apply State.consume_keeps

theorem State.perfConversions_keeps {s₀ s : State} (h : Keeps B s₀ s)
    (hB : [Block.obs] ⊆ B) (n loom : Nat) (ctx unit : Option Nat) :
    Keeps B s₀ (State.perfConversions s n loom ctx unit) := by
  unfold State.perfConversions
  try dsimp only
  repeat' with_reducible first
    | assumption
    | exact .inr rfl
    | exact .inl (inB hB (by decide))
    | exact fun w => w
    | intro _
    | apply Keeps.ite
    | (rw [State.mk_eq]; apply Keeps.upd)

theorem State.fold_keeps {s₀ s : State} (h : Keeps B s₀ s)
    (hB : [Block.ctxs] ⊆ B) (c slot : Nat) (second : Bool) (loom idx iter : Nat) (out : Bytes) :
    Keeps B s₀ (State.fold s c slot second loom idx iter out) := by
  unfold State.fold
  try dsimp only
  repeat' with_reducible first
    | assumption
    | exact .inr rfl
    | exact fun w => w
    | exact List.Subset.trans (by decide) hB
    | intro _
    | apply Keeps.ite
    | apply State.each_keeps
    | apply State.modBatch_keeps

theorem State.foldStep_keeps {s₀ s : State} (h : Keeps B s₀ s)
    (hB : [Block.ctxs] ⊆ B) (c l i iter slot : Nat) (out : Bytes) :
    Keeps B s₀ (State.foldStep s c l i iter slot out) := by
  unfold State.foldStep
  try dsimp only
  repeat' with_reducible first
    | assumption
    | exact .inr rfl
    | exact fun w => w
    | exact List.Subset.trans (by decide) hB
    | intro _
    | apply Keeps.ite
    | apply State.fold_keeps

end Sys2Proof.Machine
end

