-- ==== Sys2Proof/Laws/KeepsSteps.lean ====
section
/-! SUPPORT. Every operation keeps the queue and memory's canonical form (`Keeps`):
the steps of plans: beaters, fullers, pages, attention, remote operations, the KV store. One
lemma an operation: `State.<name>_keeps`, `hB` lists the blocks it may change. -/

namespace Sys2Proof.Machine

variable {B : List Block}

/-! ## Beater -/

theorem State.dentFail_keeps {s₀ s : State} (h : Keeps B s₀ s) (hB : [Block.heddles] ⊆ B) (g : Nat) (f : LastFail) :
    Keeps B s₀ (State.dentFail s g f) := by
  unfold State.dentFail
  try dsimp only
  repeat' with_reducible first
    | assumption
    | exact .inr rfl
    | exact fun w => w
    | exact List.Subset.trans (by decide) hB
    | intro _
    | apply Keeps.ite
    | apply State.modHeddle_keeps

theorem State.uncorrectedDent_keeps {s₀ s : State} (h : Keeps B s₀ s)
    (hB : [Block.harnesses, .scrub, .ctxs, .history, .packs, .agg] ⊆ B) (c slot g : Nat) (f : LastFail) (data :
      Bytes) :
    Keeps B s₀ (State.uncorrectedDent s c slot g f data) := by
  unfold State.uncorrectedDent
  try dsimp only
  repeat' with_reducible first
    | assumption
    | exact .inr rfl
    | exact .inl (inB hB (by decide))
    | exact fun w => w
    | exact List.Subset.trans (by decide) hB
    | intro _
    | apply Keeps.ite
    | apply State.each_keeps
    | apply State.capture_keeps
    | apply State.check_keeps
    | apply State.healthEvent_keeps
    | apply State.modBatch_keeps
    | apply State.modHarness_keeps
    | apply State.report_keeps
    | (rw [State.mk_eq]; apply Keeps.upd)

theorem State.dentEvents_keeps {s₀ s : State} (h : Keeps B s₀ s)
    (hB : [Block.heddles, .harnesses, .scrub, .ctxs, .history, .packs, .obs, .agg] ⊆ B) (c slot l g aw : Nat) (ws :
      List (DentWork × Option ActBlock)) :
    Keeps B s₀ (State.dentEvents s c slot l g aw ws) := by
  unfold State.dentEvents
  try dsimp only
  repeat' with_reducible first
    | assumption
    | exact .inr rfl
    | exact fun w => w
    | exact List.Subset.trans (by decide) hB
    | intro _
    | apply Keeps.ite
    | apply State.each_keeps
    | apply State.check_keeps
    | apply State.dentFail_keeps
    | apply State.modHeddle_keeps
    | apply State.perf_keeps
    | apply State.perfConversions_keeps
    | apply State.uncorrectedDent_keeps
    | split

theorem State.noteTile_keeps {s₀ s : State} (h : Keeps B s₀ s)
    (hB : [Block.heddles] ⊆ B) (g bank : Nat) (accs : List Acc) (eBase : Int) :
    Keeps B s₀ (State.noteTile s g bank accs eBase) := by
  unfold State.noteTile
  try dsimp only
  repeat' with_reducible first
    | assumption
    | exact .inr rfl
    | exact fun w => w
    | exact List.Subset.trans (by decide) hB
    | intro _
    | apply Keeps.ite
    | apply State.modHeddle_keeps

theorem State.drain_keeps {s₀ s : State} (h : Keeps B s₀ s)
    (hB : [Block.mem, .ctxs, .obs, .agg] ⊆ B) (c l : Nat) (st : PlanStep) (a : Nat) (store : Bool) (ops : List Resd)
      :
    Keeps B s₀ (State.drain s c l st a store ops) := by
  unfold State.drain
  try dsimp only
  repeat' with_reducible first
    | assumption
    | exact .inr rfl
    | exact fun w => w
    | exact List.Subset.trans (by decide) hB
    | intro _
    | apply Keeps.ite
    | apply State.each_keeps
    | apply State.countWrite_keeps
    | apply State.redPut_keeps
    | apply State.refusedHere_keeps

theorem State.mvmHeddle_keeps {s₀ s : State} (h : Keeps B s₀ s)
    (hB : [Block.mem, .heddles, .harnesses, .scrub, .ctxs, .history, .packs, .obs, .agg] ⊆ B) (c l : Nat) (st :
      PlanStep) (x : MvmIn) (i : Fin 64) (g : Nat) (copy : Nat → Bytes) (ups : List Upset) :
    Keeps B s₀ (State.mvmHeddle s c l st x i g copy ups).1 := by
  unfold State.mvmHeddle
  try dsimp only
  repeat' with_reducible first
    | assumption
    | exact .inr rfl
    | exact fun w => w
    | exact List.Subset.trans (by decide) hB
    | intro _
    | apply Keeps.ite
    | apply State.dentEvents_keeps
    | apply State.drain_keeps
    | apply State.noteTile_keeps
    | apply State.raise_keeps

theorem State.mvmSeen_keeps {s₀ s : State} (h : Keeps B s₀ s)
    (hB : [Block.mem] ⊆ B) (c l iter : Nat) (st : PlanStep) (ups : List Upset) :
    Keeps B s₀ (State.mvmSeen s c l iter st ups) := by
  unfold State.mvmSeen
  try dsimp only
  repeat' with_reducible first
    | assumption
    | exact .inr rfl
    | exact fun w => w
    | exact List.Subset.trans (by decide) hB
    | intro _
    | apply Keeps.ite
    | apply State.seenBy_keeps

theorem State.mvmWork_keeps {s₀ s : State} (h : Keeps B s₀ s)
    (hB : [Block.tick, .mem, .heddles, .harnesses, .looms, .scrub, .ctxs, .history, .packs, .memChecks, .obs, .agg]
      ⊆ B) (c l : Nat) (d : Due) (st : PlanStep) (ups : List Upset) :
    Keeps B s₀ (State.mvmWork s c l d st ups) := by
  unfold State.mvmWork
  try dsimp only
  repeat' with_reducible first
    | assumption
    | exact .inr rfl
    | exact fun w => w
    | exact List.Subset.trans (by decide) hB
    | intro _
    | apply Keeps.ite
    | apply foldl_keeps
    | apply State.mvmHeddle_keeps
    | apply State.mvmSeen_keeps
    | apply State.residueFail_keeps
    | apply State.unitRead_keeps

theorem State.mvmStep_keeps {s₀ s : State} (h : Keeps B s₀ s)
    (hB : [Block.tick, .mem, .heddles, .harnesses, .looms, .scrub, .ctxs, .sched, .history, .packs, .memChecks,
      .obs, .agg] ⊆ B) (c l i : Nat) (ups : List Upset) :
    Keeps B s₀ (State.mvmStep s c l i ups) := by
  unfold State.mvmStep
  try dsimp only
  repeat' with_reducible first
    | assumption
    | exact .inr rfl
    | exact fun w => w
    | exact List.Subset.trans (by decide) hB
    | intro _
    | apply Keeps.ite
    | apply State.mvmWork_keeps
    | apply State.runStep_keeps

theorem State.mendWork_keeps {s₀ s : State} (h : Keeps B s₀ s)
    (hB : [Block.tick, .mem, .looms, .ctxs, .history, .packs, .memChecks, .obs, .agg] ⊆ B) (c l : Nat) (d : Due) (st
      : PlanStep) (ups : List Upset) :
    Keeps B s₀ (State.mendWork s c l d st ups) := by
  unfold State.mendWork
  try dsimp only
  repeat' with_reducible first
    | assumption
    | exact .inr rfl
    | exact fun w => w
    | exact List.Subset.trans (by decide) hB
    | intro _
    | apply Keeps.ite
    | apply State.each_keeps
    | apply State.perf_keeps
    | apply State.residueFail_keeps
    | apply State.seenBy_keeps
    | apply State.unitRead_keeps

/-! ## Fuller -/

theorem State.tableEcc_keeps {s₀ s : State} (h : Keeps B s₀ s)
    (hB : [Block.sec, .looms, .ctxs, .history, .packs, .obs, .agg] ⊆ B) (c slot l unit : Nat) (data : Bytes) (ups :
      List Upset) :
    Keeps B s₀ (State.tableEcc s c slot l unit data ups) := by
  unfold State.tableEcc
  try dsimp only
  repeat' with_reducible first
    | assumption
    | exact .inr rfl
    | exact .inl (inB hB (by decide))
    | exact fun w => w
    | exact List.Subset.trans (by decide) hB
    | intro _
    | apply Keeps.ite
    | apply State.each_keeps
    | apply State.residueFail_keeps
    | (rw [State.mk_eq]; apply Keeps.upd)
    | split

theorem State.fullWork_keeps {s₀ s : State} (h : Keeps B s₀ s)
    (hB : [Block.tick, .sec, .mem, .looms, .ctxs, .history, .packs, .memChecks, .obs, .agg] ⊆ B) (c l : Nat) (d :
      Due) (st : PlanStep) (ups : List Upset) :
    Keeps B s₀ (State.fullWork s c l d st ups) := by
  unfold State.fullWork
  try dsimp only
  repeat' with_reducible first
    | assumption
    | exact .inr rfl
    | exact fun w => w
    | exact List.Subset.trans (by decide) hB
    | intro _
    | apply Keeps.ite
    | apply State.each_keeps
    | apply State.consumeAll_keeps
    | apply State.foldStep_keeps
    | apply State.perf_keeps
    | apply State.raise_keeps
    | apply State.raiseNonfinite_keeps
    | apply State.report_keeps
    | apply State.residueFail_keeps
    | apply State.seenBy_keeps
    | apply State.tableEcc_keeps
    | apply State.unitRead_keeps
    | apply State.unitStore_keeps

/-! ## Pages -/

theorem State.walkerNote_keeps {s₀ s : State} (h : Keeps B s₀ s) (hB : [Block.tick, .kvt, .obs] ⊆ B) (t i : Nat) :
    Keeps B s₀ (State.walkerNote s t i) := by
  unfold State.walkerNote
  try dsimp only
  repeat' with_reducible first
    | assumption
    | exact .inr rfl
    | exact .inl (inB hB (by decide))
    | exact fun w => w
    | exact List.Subset.trans (by decide) hB
    | intro _
    | apply Keeps.ite
    | apply State.fresh_keeps
    | apply State.perf_keeps
    | (rw [State.mk_eq]; apply Keeps.upd)

theorem State.pageFault_keeps {s₀ s : State} (h : Keeps B s₀ s)
    (hB : [Block.kvt, .ctxs, .agg] ⊆ B) (c slot shuttle cause t a page : Nat) :
    Keeps B s₀ (State.pageFault s c slot shuttle cause t a page) := by
  unfold State.pageFault
  try dsimp only
  repeat' with_reducible first
    | assumption
    | exact .inr rfl
    | exact .inl (inB hB (by decide))
    | exact fun w => w
    | exact List.Subset.trans (by decide) hB
    | intro _
    | apply Keeps.ite
    | apply State.check_keeps
    | apply State.modShuttle_keeps
    | apply State.report_keeps
    | (rw [State.mk_eq]; apply Keeps.upd)

theorem State.pageTally_keeps {s₀ s : State} (h : Keeps B s₀ s)
    (hB : [Block.kvt, .ctxs, .history, .memChecks, .obs, .agg] ⊆ B) (c slot shuttle t a page addr : Nat) :
    Keeps B s₀ (State.pageTally s c slot shuttle t a page addr) := by
  unfold State.pageTally
  try dsimp only
  repeat' with_reducible first
    | assumption
    | exact .inr rfl
    | exact fun w => w
    | exact List.Subset.trans (by decide) hB
    | intro _
    | apply Keeps.ite
    | apply State.pageFault_keeps
    | apply State.readFail_keeps

theorem State.blockWrite_keeps {s₀ s : State} (h : Keeps B s₀ s)
    (hB : [Block.mem] ⊆ B) (bad : List Nat) (a : Nat) (bs : Bytes) :
    Keeps B s₀ (State.blockWrite s bad a bs) := by
  unfold State.blockWrite
  try dsimp only
  repeat' with_reducible first
    | assumption
    | exact .inr rfl
    | exact fun w => w
    | exact List.Subset.trans (by decide) hB
    | intro _
    | apply Keeps.ite
    | apply State.each_keeps
    | apply State.write_keeps
    | exact fun _ => Memory.wf_empty
    | apply State.setMem_keeps
    | exact fun w => Memory.wf_foldl _ (fun _ _ h => Memory.wf_addErr h _ _) _ w
    | exact Memory.wf_clearErr (by assumption) _

theorem State.openPage_keeps {s₀ s : State} (h : Keeps B s₀ s)
    (hB : [Block.mem] ⊆ B) (bad : List Nat) (g : PageGeom) (room c t a n frame : Nat) :
    Keeps B s₀ (State.openPage s bad g room c t a n frame) := by
  unfold State.openPage
  try dsimp only
  repeat' with_reducible first
    | assumption
    | exact .inr rfl
    | exact fun w => w
    | exact List.Subset.trans (by decide) hB
    | intro _
    | apply Keeps.ite
    | apply State.each_keeps
    | apply State.blockWrite_keeps

theorem State.appendRow_keeps {s₀ s : State} (h : Keeps B s₀ s)
    (hB : [Block.mem] ⊆ B) (bad : List Nat) (sp : AppendSpec) (g : PageGeom) (frame t : Nat) (exps : List Nat) (r :
      List F32 × List F32) :
    Keeps B s₀ (State.appendRow s bad sp g frame t exps r).1 := by
  unfold State.appendRow
  try dsimp only
  repeat' with_reducible first
    | assumption
    | exact .inr rfl
    | exact fun w => w
    | exact List.Subset.trans (by decide) hB
    | intro _
    | apply Keeps.ite
    | apply State.blockWrite_keeps

theorem State.appendLatent_keeps {s₀ s : State} (h : Keeps B s₀ s)
    (hB : [Block.mem] ⊆ B) (bad : List Nat) (sp : AppendSpec) (g : PageGeom) (frame t : Nat) (r : List F32) :
    Keeps B s₀ (State.appendLatent s bad sp g frame t r).1 := by
  unfold State.appendLatent
  try dsimp only
  repeat' with_reducible first
    | assumption
    | exact .inr rfl
    | exact fun w => w
    | exact List.Subset.trans (by decide) hB
    | intro _
    | apply Keeps.ite
    | apply State.blockWrite_keeps

theorem State.appendPage_keeps {s₀ s : State} (h : Keeps B s₀ s)
    (hB : [Block.mem] ⊆ B) (bad : List Nat) (sp : AppendSpec) (c t a n frame o : Nat) (rows : List (List F32 × List
      F32)) :
    Keeps B s₀ (State.appendPage s bad sp c t a n frame o rows).1 := by
  unfold State.appendPage
  try dsimp only
  repeat' with_reducible first
    | assumption
    | exact .inr rfl
    | exact fun w => w
    | exact List.Subset.trans (by decide) hB
    | intro _
    | apply Keeps.ite
    | apply foldl_keeps
    | apply State.appendLatent_keeps
    | apply State.appendRow_keeps
    | apply State.blockWrite_keeps
    | apply State.openPage_keeps
    | refine Keeps.snd (by assumption) ?_
    | refine Keeps.fst (by assumption) ?_
    | split

theorem State.fillTo_keeps {s₀ s : State} (h : Keeps B s₀ s) (hB : [Block.mem] ⊆ B) (i n : Nat) :
    Keeps B s₀ (State.fillTo s i n) := by
  unfold State.fillTo
  try dsimp only
  repeat' with_reducible first
    | assumption
    | exact .inr rfl
    | exact fun w => w
    | exact List.Subset.trans (by decide) hB
    | intro _
    | apply Keeps.ite
    | apply State.write_keeps

/-! ## Attention -/

theorem State.notePage_keeps {s₀ s : State} (h : Keeps B s₀ s)
    (hB : [Block.kvt, .ctxs, .history, .memChecks, .obs, .agg] ⊆ B) (c slot shuttle t a : Nat) (notes : List
      PageNote) (page : Nat) (cause : Nat) (block : Nat) :
    Keeps B s₀ (State.notePage s c slot shuttle t a notes page cause block).1 := by
  unfold State.notePage
  try dsimp only
  repeat' with_reducible first
    | assumption
    | exact .inr rfl
    | exact fun w => w
    | exact List.Subset.trans (by decide) hB
    | intro _
    | apply Keeps.ite
    | apply State.pageFault_keeps
    | apply State.pageTally_keeps
    | split

theorem State.lookUp_keeps {s₀ s : State} (h : Keeps B s₀ s)
    (hB : [Block.tick, .kvt, .history, .memChecks, .obs] ⊆ B) (c t a n : Nat) (ups : List Upset) :
    Keeps B s₀ (State.lookUp s c t a n ups) := by
  unfold State.lookUp
  try dsimp only
  repeat' with_reducible first
    | assumption
    | exact .inr rfl
    | exact fun w => w
    | exact List.Subset.trans (by decide) hB
    | intro _
    | apply Keeps.ite
    | apply State.eccEvents_keeps
    | apply State.perf_keeps
    | apply State.walkerNote_keeps

theorem State.appendTo_keeps {s₀ s : State} (h : Keeps B s₀ s)
    (hB : [Block.mem, .kvt, .ctxs, .history, .memChecks, .obs, .agg] ⊆ B) (ups : List Upset) (e : AttnEnv) (notes :
      List PageNote) (n : Nat) (js : List Nat) (rows : List (List F32 × List F32)) :
    Keeps B s₀ (State.appendTo s ups e notes n js rows).1 := by
  unfold State.appendTo
  try dsimp only
  repeat' with_reducible first
    | assumption
    | exact .inr rfl
    | exact fun w => w
    | exact List.Subset.trans (by decide) hB
    | intro _
    | apply Keeps.ite
    | apply foldl_keeps
    | apply State.appendPage_keeps
    | apply State.asRead_keeps
    | apply State.countWrite_keeps
    | apply State.fault_keeps
    | apply State.fillTo_keeps
    | apply State.notePage_keeps
    | apply State.perf_keeps
    | apply State.raise_keeps
    | apply State.raiseNonfinite_keeps
    | refine Keeps.snd (by assumption) ?_
    | refine Keeps.fst (by assumption) ?_
    | split

theorem State.attnAppend_keeps {s₀ s : State} (h : Keeps B s₀ s)
    (hB : [Block.tick, .mem, .kvt, .ctxs, .history, .memChecks, .obs, .agg] ⊆ B) (ups : List Upset) (e : AttnEnv)
      (rows : List (List F32)) :
    Keeps B s₀ (State.attnAppend s ups e rows).1 := by
  unfold State.attnAppend
  try dsimp only
  repeat' with_reducible first
    | assumption
    | exact .inr rfl
    | exact fun w => w
    | exact List.Subset.trans (by decide) hB
    | intro _
    | apply Keeps.ite
    | apply foldl_keeps
    | apply State.appendTo_keeps
    | apply State.lookUp_keeps

theorem State.attnReadEvents_keeps {s₀ s : State} (h : Keeps B s₀ s)
    (hB : [Block.tick, .mem, .kvt, .ctxs, .history, .memChecks, .obs, .agg] ⊆ B) (ups : List Upset) (e : AttnEnv)
      (notes : List PageNote) (n : Nat) (views : List PageView) :
    Keeps B s₀ (State.attnReadEvents s ups e notes n views) := by
  unfold State.attnReadEvents
  try dsimp only
  repeat' with_reducible first
    | assumption
    | exact .inr rfl
    | exact fun w => w
    | exact List.Subset.trans (by decide) hB
    | intro _
    | apply Keeps.ite
    | apply foldl_keeps
    | apply State.asRead_keeps
    | apply State.check_keeps
    | apply State.eccEvents_keeps
    | apply State.fault_keeps
    | apply State.lookUp_keeps
    | apply State.notePage_keeps
    | apply State.perf_keeps
    | apply State.raise_keeps
    | refine Keeps.snd (by assumption) ?_
    | refine Keeps.fst (by assumption) ?_
    | split

theorem State.shuttleFails_keeps {s₀ s : State} (h : Keeps B s₀ s)
    (hB : [Block.looms, .kvt, .ctxs, .history, .packs, .obs, .agg] ⊆ B) (c l : Nat) (st : PlanStep) (shuttle : Nat)
      (residue stat : Bool) (data : Bytes) :
    Keeps B s₀ (State.shuttleFails s c l st shuttle residue stat data) := by
  unfold State.shuttleFails
  try dsimp only
  repeat' with_reducible first
    | assumption
    | exact .inr rfl
    | exact fun w => w
    | exact List.Subset.trans (by decide) hB
    | intro _
    | apply Keeps.ite
    | apply State.modShuttle_keeps
    | apply State.residueFail_keeps

theorem State.putPartials_keeps {s₀ s : State} (h : Keeps B s₀ s)
    (hB : [Block.mem, .kvt, .ctxs, .obs, .agg] ⊆ B) (c l : Nat) (d : Due) (st : PlanStep) (at_ : Nat) (segs : List
      (List Partial)) (kept bytes : Bytes) :
    Keeps B s₀ (State.putPartials s c l d st at_ segs kept bytes) := by
  unfold State.putPartials
  try dsimp only
  repeat' with_reducible first
    | assumption
    | exact .inr rfl
    | exact .inl (inB hB (by decide))
    | exact fun w => w
    | exact List.Subset.trans (by decide) hB
    | intro _
    | apply Keeps.ite
    | apply State.foldStep_keeps
    | apply State.unitStore_keeps
    | (rw [State.mk_eq]; apply Keeps.upd)

theorem State.leadRows_keeps {s₀ s : State} (h : Keeps B s₀ s)
    (hB : [Block.mem, .kvt, .ctxs, .obs, .agg] ⊆ B) (c l : Nat) (d : Due) (st : PlanStep) (a : AttnParam) (shuttle
      unit : Nat) (m : State) (segs : List (List Partial)) (kept : Bytes) :
    Keeps B s₀ (State.leadRows s c l d st a shuttle unit m segs kept) := by
  unfold State.leadRows
  try dsimp only
  repeat' with_reducible first
    | assumption
    | exact .inr rfl
    | exact fun w => w
    | exact List.Subset.trans (by decide) hB
    | intro _
    | apply Keeps.ite
    | apply State.check_keeps
    | apply State.foldStep_keeps
    | apply State.modShuttle_keeps
    | apply State.raiseNonfinite_keeps
    | apply State.unitStore_keeps

theorem State.attnWork_keeps {s₀ s : State} (h : Keeps B s₀ s)
    (hB : [Block.tick, .mem, .looms, .kvt, .ctxs, .history, .packs, .memChecks, .obs, .agg] ⊆ B) (c l : Nat) (d :
      Due) (st : PlanStep) (ups : List Upset) :
    Keeps B s₀ (State.attnWork s c l d st ups) := by
  unfold State.attnWork
  try dsimp only
  repeat' with_reducible first
    | assumption
    | exact .inr rfl
    | exact fun w => w
    | exact List.Subset.trans (by decide) hB
    | intro _
    | apply Keeps.ite
    | apply State.each_keeps
    | apply State.attnAppend_keeps
    | apply State.attnReadEvents_keeps
    | apply State.leadRows_keeps
    | apply State.modShuttle_keeps
    | apply State.putPartials_keeps
    | apply State.seenBy_keeps
    | apply State.shuttleFails_keeps
    | apply State.unitRead_keeps
    | refine Keeps.snd (by assumption) ?_
    | refine Keeps.fst (by assumption) ?_
    | split

/-! ## Remote -/

theorem State.noteSealed_keeps {s₀ s : State} (h : Keeps B s₀ s) (hB : [Block.agg] ⊆ B) (a n : Nat) :
    Keeps B s₀ (State.noteSealed s a n) := by
  unfold State.noteSealed
  try dsimp only
  repeat' with_reducible first
    | assumption
    | exact .inr rfl
    | exact fun w => w
    | exact List.Subset.trans (by decide) hB
    | intro _
    | apply Keeps.ite
    | apply State.report_keeps

theorem State.pieceFail_keeps {s₀ s : State} (h : Keeps B s₀ s) (hB : [Block.history, .agg] ⊆ B) (a path : Nat) :
    Keeps B s₀ (State.pieceFail s a path) := by
  unfold State.pieceFail
  try dsimp only
  repeat' with_reducible first
    | assumption
    | exact .inr rfl
    | exact fun w => w
    | exact List.Subset.trans (by decide) hB
    | intro _
    | apply Keeps.ite
    | apply State.healthEvent_keeps
    | apply State.report_keeps

theorem State.applyPut_keeps {s₀ s : State} (h : Keeps B s₀ s)
    (hB : [Block.mem, .kvt, .history, .obs, .agg] ⊆ B) (words : Bool) (path a : Nat) (ps : List Piece) :
    Keeps B s₀ (State.applyPut s words path a ps) := by
  unfold State.applyPut
  try dsimp only
  repeat' with_reducible first
    | assumption
    | exact .inr rfl
    | exact fun w => w
    | exact List.Subset.trans (by decide) hB
    | intro _
    | apply Keeps.ite
    | apply State.each_keeps
    | apply State.arrived_keeps
    | apply State.countWrite_keeps
    | apply State.pieceFail_keeps
    | apply State.pieceWrite_keeps
    | apply State.redPut_keeps

theorem State.applyAdd_keeps {s₀ s : State} (h : Keeps B s₀ s)
    (hB : [Block.mem, .history, .agg] ⊆ B) (path a : Nat) (ps : List Piece) :
    Keeps B s₀ (State.applyAdd s path a ps) := by
  unfold State.applyAdd
  try dsimp only
  repeat' with_reducible first
    | assumption
    | exact .inr rfl
    | exact fun w => w
    | exact List.Subset.trans (by decide) hB
    | intro _
    | apply Keeps.ite
    | apply State.each_keeps
    | apply State.pieceFail_keeps
    | apply State.redPut_keeps
    | apply State.write_keeps

theorem State.perfIssued_keeps {s₀ s : State} (h : Keeps B s₀ s) (hB : [Block.obs] ⊆ B) (c l : Nat) (st : PlanStep) :
    Keeps B s₀ (State.perfIssued s c l st) := by
  unfold State.perfIssued
  try dsimp only
  repeat' with_reducible first
    | assumption
    | exact .inr rfl
    | exact fun w => w
    | exact List.Subset.trans (by decide) hB
    | intro _
    | apply Keeps.ite
    | apply State.perf_keeps

theorem State.sendStepOp_keeps {s₀ s : State} (h : Keeps B s₀ s)
    (hB : [Block.ports, .out] ⊆ B) (c l opc dst dstAddr srcAddr : Nat) (st : PlanStep) (ps : List Piece) :
    Keeps B s₀ (State.sendStepOp s c l opc dst dstAddr srcAddr st ps) := by
  unfold State.sendStepOp
  try dsimp only
  repeat' with_reducible first
    | assumption
    | exact .inr rfl
    | exact fun w => w
    | exact List.Subset.trans (by decide) hB
    | intro _
    | apply Keeps.ite
    | apply State.issue_keeps

theorem State.land_keeps {s₀ s : State} (h : Keeps B s₀ s)
    (hB : [Block.mem, .kvt, .history, .obs, .agg] ⊆ B) (opc : Nat) (words : Bool) (a : Nat) (ps : List Piece) :
    Keeps B s₀ (State.land s opc words a ps) := by
  unfold State.land
  try dsimp only
  repeat' with_reducible first
    | assumption
    | exact .inr rfl
    | exact fun w => w
    | exact List.Subset.trans (by decide) hB
    | intro _
    | apply Keeps.ite
    | apply State.applyAdd_keeps
    | apply State.applyPut_keeps

theorem State.handOff_keeps {s₀ s : State} (h : Keeps B s₀ s)
    (hB : [Block.ctxs, .history, .memChecks, .obs, .agg, .out] ⊆ B) (c l i : Nat) (st : PlanStep) :
    Keeps B s₀ (State.handOff s c l i st) := by
  unfold State.handOff
  try dsimp only
  repeat' with_reducible first
    | assumption
    | exact .inr rfl
    | exact fun w => w
    | exact List.Subset.trans (by decide) hB
    | intro _
    | apply Keeps.ite
    | apply State.each_keeps
    | apply State.checkedRead_keeps
    | apply State.emit_keeps
    | split

theorem State.putWork_keeps {s₀ s : State} (h : Keeps B s₀ s)
    (hB : [Block.tick, .mem, .kvt, .ctxs, .history, .memChecks, .ports, .obs, .agg, .out] ⊆ B) (c l opc : Nat) (st :
      PlanStep) (ups : List Upset) :
    Keeps B s₀ (State.putWork s c l opc st ups) := by
  unfold State.putWork
  try dsimp only
  repeat' with_reducible first
    | assumption
    | exact .inr rfl
    | exact fun w => w
    | exact List.Subset.trans (by decide) hB
    | intro _
    | apply Keeps.ite
    | apply State.arrived_keeps
    | apply State.countWrite_keeps
    | apply State.land_keeps
    | apply State.perfIssued_keeps
    | apply State.refusedHere_keeps
    | apply State.seenBy_keeps
    | apply State.sendStepOp_keeps
    | apply State.unitRead_keeps
    | apply State.unitWrite_keeps

theorem State.getWork_keeps {s₀ s : State} (h : Keeps B s₀ s)
    (hB : [Block.tick, .mem, .kvt, .ctxs, .history, .memChecks, .ports, .obs, .agg, .out] ⊆ B) (c l : Nat) (st :
      PlanStep) (ups : List Upset) :
    Keeps B s₀ (State.getWork s c l st ups) := by
  unfold State.getWork
  try dsimp only
  repeat' with_reducible first
    | assumption
    | exact .inr rfl
    | exact fun w => w
    | exact List.Subset.trans (by decide) hB
    | intro _
    | apply Keeps.ite
    | apply State.applyPut_keeps
    | apply State.asRead_keeps
    | apply State.checkedRead_keeps
    | apply State.noteSealed_keeps
    | apply State.perfIssued_keeps
    | apply State.refusedHere_keeps
    | apply State.seenBy_keeps
    | apply State.sendStepOp_keeps
    | apply State.unitRead_keeps
    | apply State.unitStore_keeps

theorem State.answer_keeps {s₀ s : State} (h : Keeps B s₀ s)
    (hB : [Block.ports, .out] ⊆ B) (op : RemoteOp) (path opc status : Nat) (dstAddr : Nat) (ps : List Piece) :
    Keeps B s₀ (State.answer s op path opc status dstAddr ps) := by
  unfold State.answer
  try dsimp only
  repeat' with_reducible first
    | assumption
    | exact .inr rfl
    | exact fun w => w
    | exact List.Subset.trans (by decide) hB
    | intro _
    | apply Keeps.ite
    | apply State.issue_keeps

theorem State.arrive_keeps {s₀ s : State} (h : Keeps B s₀ s)
    (hB : [Block.ports, .agg, .out] ⊆ B) (op : RemoteOp) (path opc a n : Nat) (f : State → State) (hf : ∀ t, Keeps B
      s₀ t → Keeps B s₀ (f t)) :
    Keeps B s₀ (State.arrive s op path opc a n f) := by
  unfold State.arrive
  try dsimp only
  repeat' with_reducible first
    | assumption
    | exact .inr rfl
    | exact fun w => w
    | exact List.Subset.trans (by decide) hB
    | intro _
    | apply Keeps.ite
    | apply hf
    | apply State.answer_keeps
    | apply State.report_keeps

theorem State.shadowArrive_keeps {s₀ s : State} (h : Keeps B s₀ s)
    (hB : [Block.twin, .ports, .agg, .out] ⊆ B) (op : RemoteOp) (path : Nat) :
    Keeps B s₀ (State.shadowArrive s op path) := by
  unfold State.shadowArrive
  try dsimp only
  repeat' with_reducible first
    | assumption
    | exact .inr rfl
    | exact .inl (inB hB (by decide))
    | exact fun w => w
    | exact List.Subset.trans (by decide) hB
    | intro _
    | apply Keeps.ite
    | apply State.answer_keeps
    | apply State.report_keeps
    | (rw [State.mk_eq]; apply Keeps.upd)

theorem State.acked_keeps {s₀ s : State} (h : Keeps B s₀ s)
    (hB : [Block.mem, .kvt, .sched, .ports, .obs, .out] ⊆ B) (r : Run) :
    Keeps B s₀ (State.acked s r) := by
  unfold State.acked
  try dsimp only
  repeat' with_reducible first
    | assumption
    | exact .inr rfl
    | exact .inl (inB hB (by decide))
    | exact fun w => w
    | exact List.Subset.trans (by decide) hB
    | intro _
    | apply Keeps.ite
    | apply State.closeRun_keeps
    | (rw [State.mk_eq]; apply Keeps.upd)

theorem State.setAnswered_keeps {s₀ s : State} (h : Keeps B s₀ s) (hB : [Block.sched] ⊆ B) (c l i : Nat) :
    Keeps B s₀ (State.setAnswered s c l i) := by
  unfold State.setAnswered
  try dsimp only
  repeat' with_reducible first
    | assumption
    | exact .inr rfl
    | exact .inl (inB hB (by decide))
    | exact fun w => w
    | intro _
    | apply Keeps.ite
    | (rw [State.mk_eq]; apply Keeps.upd)

theorem State.answered_keeps {s₀ s : State} (h : Keeps B s₀ s)
    (hB : [Block.mem, .kvt, .sched, .ports, .obs, .agg, .out] ⊆ B) (c l i : Nat) (headerErr : Word) (refused :
      PlanStep → State → State) (hf : ∀ a0 t, Keeps B s₀ t → Keeps B s₀ (refused a0 t)) :
    Keeps B s₀ (State.answered s c l i headerErr refused) := by
  unfold State.answered
  try dsimp only
  repeat' with_reducible first
    | assumption
    | exact .inr rfl
    | exact fun w => w
    | exact List.Subset.trans (by decide) hB
    | intro _
    | apply Keeps.ite
    | apply hf
    | apply State.acked_keeps
    | apply State.report_keeps
    | apply State.setAnswered_keeps
    | split

/-! ## Kv -/

theorem State.zeroRows_keeps {s₀ s : State} (h : Keeps B s₀ s) (hB : [Block.mem] ⊆ B) (t a n frame : Nat) :
    Keeps B s₀ (State.zeroRows s t a n frame) := by
  unfold State.zeroRows
  try dsimp only
  repeat' with_reducible first
    | assumption
    | exact .inr rfl
    | exact fun w => w
    | exact List.Subset.trans (by decide) hB
    | intro _
    | apply Keeps.ite
    | apply State.each_keeps
    | apply State.write_keeps

theorem State.unmapPage_keeps {s₀ s : State} (h : Keeps B s₀ s) (hB : [Block.mem, .kvt] ⊆ B) (t a n : Nat) :
    Keeps B s₀ (State.unmapPage s t a n) := by
  unfold State.unmapPage
  try dsimp only
  repeat' with_reducible first
    | assumption
    | exact .inr rfl
    | exact .inl (inB hB (by decide))
    | exact fun w => w
    | exact List.Subset.trans (by decide) hB
    | intro _
    | apply Keeps.ite
    | apply State.forgetArrived_keeps
    | apply State.write_keeps
    | apply State.zeroRows_keeps
    | (rw [State.mk_eq]; apply Keeps.upd)

theorem State.mapPage_keeps {s₀ s : State} (h : Keeps B s₀ s)
    (hB : [Block.mem, .kvt, .streams] ⊆ B) (t a n frame : Nat) (shared : Bool) (knot : Nat) :
    Keeps B s₀ (State.mapPage s t a n frame shared knot) := by
  unfold State.mapPage
  try dsimp only
  repeat' with_reducible first
    | assumption
    | exact .inr rfl
    | exact .inl (inB hB (by decide))
    | exact fun w => w
    | exact List.Subset.trans (by decide) hB
    | intro _
    | apply Keeps.ite
    | apply State.modStream_keeps
    | apply State.write_keeps
    | (rw [State.mk_eq]; apply Keeps.upd)

theorem State.pageCmd_keeps {s₀ s : State} (h : Keeps B s₀ s) (hB : [Block.mem, .kvt, .streams] ⊆ B) (c : PageCmd) :
    Keeps B s₀ (State.pageCmd s c) := by
  unfold State.pageCmd
  try dsimp only
  repeat' with_reducible first
    | assumption
    | exact .inr rfl
    | exact fun w => w
    | exact List.Subset.trans (by decide) hB
    | intro _
    | apply Keeps.ite
    | apply State.mapPage_keeps
    | apply State.unmapPage_keeps
    | split

theorem State.pageBoundary_keeps {s₀ s : State} (h : Keeps B s₀ s)
    (hB : [Block.mbx, .mem, .kvt, .streams, .out] ⊆ B) (t : Nat) :
    Keeps B s₀ (State.pageBoundary s t) := by
  unfold State.pageBoundary
  try dsimp only
  repeat' with_reducible first
    | assumption
    | exact .inr rfl
    | exact .inl (inB hB (by decide))
    | exact fun w => w
    | exact List.Subset.trans (by decide) hB
    | intro _
    | apply Keeps.ite
    | apply State.each_keeps
    | apply State.complete_keeps
    | apply State.pageCmd_keeps
    | (rw [State.mk_eq]; apply Keeps.upd)

theorem State.pageIssue_keeps {s₀ s : State} (h : Keeps B s₀ s)
    (hB : [Block.mbx, .mem, .kvt, .streams, .out] ⊆ B) (m t : Nat) (c : PageCmd) :
    Keeps B s₀ (State.pageIssue s m t c) := by
  unfold State.pageIssue
  try dsimp only
  repeat' with_reducible first
    | assumption
    | exact .inr rfl
    | exact .inl (inB hB (by decide))
    | exact fun w => w
    | exact List.Subset.trans (by decide) hB
    | intro _
    | apply Keeps.ite
    | apply State.complete_keeps
    | apply State.pageCmd_keeps
    | (rw [State.mk_eq]; apply Keeps.upd)

theorem State.unmapAll_keeps {s₀ s : State} (h : Keeps B s₀ s) (hB : [Block.mem, .kvt] ⊆ B) (t : Nat) :
    Keeps B s₀ (State.unmapAll s t) := by
  unfold State.unmapAll
  try dsimp only
  repeat' with_reducible first
    | assumption
    | exact .inr rfl
    | exact fun w => w
    | exact List.Subset.trans (by decide) hB
    | intro _
    | apply Keeps.ite
    | apply State.each_keeps
    | apply State.unmapPage_keeps

theorem State.resetStream_keeps {s₀ s : State} (h : Keeps B s₀ s) (hB : [Block.mem, .kvt] ⊆ B) (t : Nat) :
    Keeps B s₀ (State.resetStream s t) := by
  unfold State.resetStream
  try dsimp only
  repeat' with_reducible first
    | assumption
    | exact .inr rfl
    | exact fun w => w
    | exact List.Subset.trans (by decide) hB
    | intro _
    | apply Keeps.ite
    | apply State.setCommit_keeps
    | apply State.unmapAll_keeps

theorem State.closeStream_keeps {s₀ s : State} (h : Keeps B s₀ s) (hB : [Block.mem, .kvt, .streams] ⊆ B) (t : Nat) :
    Keeps B s₀ (State.closeStream s t) := by
  unfold State.closeStream
  try dsimp only
  repeat' with_reducible first
    | assumption
    | exact .inr rfl
    | exact fun w => w
    | exact List.Subset.trans (by decide) hB
    | intro _
    | apply Keeps.ite
    | apply State.modStream_keeps
    | apply State.unmapAll_keeps
    | apply State.write_keeps

end Sys2Proof.Machine
end

