-- ==== Sys2Proof/Laws/KeepsModule.lean ====
section
/-! SUPPORT. Every operation keeps the queue and memory's canonical form (`Keeps`):
harnesses, set operations, scrubbing, contexts, twins, retirement, faults and resets. One
lemma an operation: `State.<name>_keeps`, `hB` lists the blocks it may change. -/

namespace Sys2Proof.Machine

variable {B : List Block}

/-! ## Harness -/

theorem State.dropWindow_keeps {s₀ s : State} (h : Keeps B s₀ s) (hB : [Block.harnesses, .windows] ⊆ B) (h : Nat) :
    Keeps B s₀ (State.dropWindow s h) := by
  unfold State.dropWindow
  try dsimp only
  repeat' with_reducible first
    | assumption
    | exact .inr rfl
    | exact .inl (inB hB (by decide))
    | exact fun w => w
    | exact List.Subset.trans (by decide) hB
    | intro _
    | apply Keeps.ite
    | apply State.modHarness_keeps
    | (rw [State.mk_eq]; apply Keeps.upd)

theorem State.calStop_keeps {s₀ s : State} (h : Keeps B s₀ s) (hB : [Block.harnesses, .windows] ⊆ B) (h : Nat) :
    Keeps B s₀ (State.calStop s h) := by
  unfold State.calStop
  try dsimp only
  repeat' with_reducible first
    | assumption
    | exact .inr rfl
    | exact fun w => w
    | exact List.Subset.trans (by decide) hB
    | intro _
    | apply Keeps.ite
    | apply State.dropWindow_keeps
    | apply State.modHarness_keeps

theorem State.retrimStart_keeps {s₀ s : State} (h : Keeps B s₀ s)
    (hB : [Block.harnesses, .looms, .windows] ⊆ B) (l : Nat) :
    Keeps B s₀ (State.retrimStart s l) := by
  unfold State.retrimStart
  try dsimp only
  repeat' with_reducible first
    | assumption
    | exact .inr rfl
    | exact .inl (inB hB (by decide))
    | exact fun w => w
    | exact List.Subset.trans (by decide) hB
    | intro _
    | apply Keeps.ite
    | apply State.modLoom_keeps
    | (rw [State.mk_eq]; apply Keeps.upd)

theorem State.retrimCheck_keeps {s₀ s : State} (h : Keeps B s₀ s)
    (hB : [Block.harnesses, .looms, .windows] ⊆ B) (l : Nat) :
    Keeps B s₀ (State.retrimCheck s l) := by
  unfold State.retrimCheck
  try dsimp only
  repeat' with_reducible first
    | assumption
    | exact .inr rfl
    | exact fun w => w
    | exact List.Subset.trans (by decide) hB
    | intro _
    | apply Keeps.ite
    | apply State.modLoom_keeps
    | apply State.retrimStart_keeps

theorem State.trimmed_keeps {s₀ s : State} (h : Keeps B s₀ s)
    (hB : [Block.harnesses, .looms, .windows] ⊆ B) (h : Nat) :
    Keeps B s₀ (State.trimmed s h) := by
  unfold State.trimmed
  try dsimp only
  repeat' with_reducible first
    | assumption
    | exact .inr rfl
    | exact fun w => w
    | exact List.Subset.trans (by decide) hB
    | intro _
    | apply Keeps.ite
    | apply State.modHarness_keeps
    | apply State.retrimCheck_keeps

theorem State.calWindow_keeps {s₀ s : State} (h : Keeps B s₀ s) (hB : [Block.windows] ⊆ B) (h n : Nat) :
    Keeps B s₀ (State.calWindow s h n) := by
  unfold State.calWindow
  try dsimp only
  repeat' with_reducible first
    | assumption
    | exact .inr rfl
    | exact .inl (inB hB (by decide))
    | exact fun w => w
    | intro _
    | apply Keeps.ite
    | (rw [State.mk_eq]; apply Keeps.upd)

theorem State.endWindow_keeps {s₀ s : State} (h : Keeps B s₀ s)
    (hB : [Block.harnesses, .looms, .windows] ⊆ B) (w : CalWindow) :
    Keeps B s₀ (State.endWindow s w) := by
  unfold State.endWindow
  try dsimp only
  repeat' with_reducible first
    | assumption
    | exact .inr rfl
    | exact fun w => w
    | exact List.Subset.trans (by decide) hB
    | intro _
    | apply Keeps.ite
    | apply State.modHarness_keeps
    | apply State.retrimCheck_keeps

theorem State.endWindows_keeps {s₀ s : State} (h : Keeps B s₀ s) (hB : [Block.harnesses, .looms, .windows] ⊆ B) :
    Keeps B s₀ (State.endWindows s) := by
  unfold State.endWindows
  try dsimp only
  repeat' with_reducible first
    | assumption
    | exact .inr rfl
    | exact .inl (inB hB (by decide))
    | exact fun w => w
    | exact List.Subset.trans (by decide) hB
    | intro _
    | apply Keeps.ite
    | apply State.each_keeps
    | apply State.endWindow_keeps
    | (rw [State.mk_eq]; apply Keeps.upd)

theorem State.rowMismatch_keeps {s₀ s : State} (h : Keeps B s₀ s) (hB : [Block.heddles, .scrub] ⊆ B) (g r : Nat) :
    Keeps B s₀ (State.rowMismatch s g r) := by
  unfold State.rowMismatch
  try dsimp only
  repeat' with_reducible first
    | assumption
    | exact .inr rfl
    | exact .inl (inB hB (by decide))
    | exact fun w => w
    | exact List.Subset.trans (by decide) hB
    | intro _
    | apply Keeps.ite
    | apply State.modHeddle_keeps
    | (rw [State.mk_eq]; apply Keeps.upd)

theorem State.rowRewrite_keeps {s₀ s : State} (h : Keeps B s₀ s) (hB : [Block.heddles] ⊆ B) (g r : Nat) :
    Keeps B s₀ (State.rowRewrite s g r) := by
  unfold State.rowRewrite
  try dsimp only
  repeat' with_reducible first
    | assumption
    | exact .inr rfl
    | exact fun w => w
    | exact List.Subset.trans (by decide) hB
    | intro _
    | apply Keeps.ite
    | apply State.modHeddle_keeps

theorem State.scrubRows_keeps {s₀ s : State} (h : Keeps B s₀ s)
    (hB : [Block.heddles, .scrub] ⊆ B) (g : Nat) (rows : List Nat) :
    Keeps B s₀ (State.scrubRows s g rows).1 := by
  unfold State.scrubRows
  try dsimp only
  repeat' with_reducible first
    | assumption
    | exact .inr rfl
    | exact fun w => w
    | exact List.Subset.trans (by decide) hB
    | intro _
    | apply Keeps.ite
    | apply State.each_keeps
    | apply State.rowMismatch_keeps
    | apply State.rowRewrite_keeps
    | split

theorem State.patternRead_keeps {s₀ s : State} (h : Keeps B s₀ s)
    (hB : [Block.history, .memChecks, .obs, .agg] ⊆ B) (g : Nat) (ups : List Upset) :
    Keeps B s₀ (State.patternRead s g ups).2 := by
  unfold State.patternRead
  try dsimp only
  repeat' with_reducible first
    | assumption
    | exact .inr rfl
    | exact fun w => w
    | exact List.Subset.trans (by decide) hB
    | intro _
    | apply Keeps.ite
    | apply State.each_keeps
    | apply State.eccEvents_keeps
    | apply State.readFail_keeps

theorem State.patternGone_keeps {s₀ s : State} (h : Keeps B s₀ s) (hB : [Block.heddles, .scrub, .agg] ⊆ B) (g : Nat) :
    Keeps B s₀ (State.patternGone s g) := by
  unfold State.patternGone
  try dsimp only
  repeat' with_reducible first
    | assumption
    | exact .inr rfl
    | exact .inl (inB hB (by decide))
    | exact fun w => w
    | exact List.Subset.trans (by decide) hB
    | intro _
    | apply Keeps.ite
    | apply State.modHeddle_keeps
    | apply State.report_keeps
    | (rw [State.mk_eq]; apply Keeps.upd)

theorem State.scrubList_keeps {s₀ s : State} (h : Keeps B s₀ s)
    (hB : [Block.heddles, .scrub, .history, .memChecks, .obs, .agg] ⊆ B) (g : Nat) (rows : List Nat) (ups : List
      Upset) :
    Keeps B s₀ (State.scrubList s g rows ups).1 := by
  unfold State.scrubList
  try dsimp only
  repeat' with_reducible first
    | assumption
    | exact .inr rfl
    | exact fun w => w
    | exact List.Subset.trans (by decide) hB
    | intro _
    | apply Keeps.ite
    | apply State.each_keeps
    | apply State.modHeddle_keeps
    | apply State.patternGone_keeps
    | apply State.patternRead_keeps
    | apply State.rowMismatch_keeps
    | apply State.scrubRows_keeps
    | refine Keeps.snd (by assumption) ?_
    | refine Keeps.fst (by assumption) ?_
    | split

theorem State.scrubHarness_keeps {s₀ s : State} (h : Keeps B s₀ s)
    (hB : [Block.heddles, .scrub, .history, .memChecks, .obs, .agg] ⊆ B) (h : Nat) :
    Keeps B s₀ (State.scrubHarness s h) := by
  unfold State.scrubHarness
  try dsimp only
  repeat' with_reducible first
    | assumption
    | exact .inr rfl
    | exact fun w => w
    | exact List.Subset.trans (by decide) hB
    | intro _
    | apply Keeps.ite
    | apply State.each_keeps
    | apply State.scrubList_keeps

theorem State.programHeddle_keeps {s₀ s : State} (h : Keeps B s₀ s) (hB : [Block.heddles] ⊆ B) (g : Nat) :
    Keeps B s₀ (State.programHeddle s g) := by
  unfold State.programHeddle
  try dsimp only
  repeat' with_reducible first
    | assumption
    | exact .inr rfl
    | exact fun w => w
    | exact List.Subset.trans (by decide) hB
    | intro _
    | apply Keeps.ite
    | apply foldl_keeps
    | apply State.modHeddle_keeps

theorem State.reprogram_keeps {s₀ s : State} (h : Keeps B s₀ s)
    (hB : [Block.heddles, .scrub, .history, .memChecks, .obs, .agg] ⊆ B) (h : Nat) :
    Keeps B s₀ (State.reprogram s h) := by
  unfold State.reprogram
  try dsimp only
  repeat' with_reducible first
    | assumption
    | exact .inr rfl
    | exact fun w => w
    | exact List.Subset.trans (by decide) hB
    | intro _
    | apply Keeps.ite
    | apply State.each_keeps
    | apply State.patternGone_keeps
    | apply State.patternRead_keeps
    | apply State.programHeddle_keeps

theorem State.loseCells_keeps {s₀ s : State} (h : Keeps B s₀ s) (hB : [Block.heddles] ⊆ B) (h : Nat) :
    Keeps B s₀ (State.loseCells s h) := by
  unfold State.loseCells
  try dsimp only
  repeat' with_reducible first
    | assumption
    | exact .inr rfl
    | exact fun w => w
    | exact List.Subset.trans (by decide) hB
    | intro _
    | apply Keeps.ite
    | apply State.each_keeps
    | apply State.modHeddle_keeps

theorem State.returnActive_keeps {s₀ s : State} (h : Keeps B s₀ s) (hB : [Block.harnesses, .agg] ⊆ B) (h : Nat) :
    Keeps B s₀ (State.returnActive s h) := by
  unfold State.returnActive
  try dsimp only
  repeat' with_reducible first
    | assumption
    | exact .inr rfl
    | exact fun w => w
    | exact List.Subset.trans (by decide) hB
    | intro _
    | apply Keeps.ite
    | apply State.modHarness_keeps
    | apply State.report_keeps

theorem State.reqActive_keeps {s₀ s : State} (h : Keeps B s₀ s) (hB : [Block.harnesses, .agg] ⊆ B) (h : Nat) :
    Keeps B s₀ (State.reqActive s h) := by
  unfold State.reqActive
  try dsimp only
  repeat' with_reducible first
    | assumption
    | exact .inr rfl
    | exact fun w => w
    | exact List.Subset.trans (by decide) hB
    | intro _
    | apply Keeps.ite
    | apply State.modHarness_keeps
    | apply State.report_keeps
    | apply State.returnActive_keeps

theorem State.reqRetention_keeps {s₀ s : State} (h : Keeps B s₀ s)
    (hB : [Block.harnesses, .windows, .agg] ⊆ B) (h : Nat) :
    Keeps B s₀ (State.reqRetention s h) := by
  unfold State.reqRetention
  try dsimp only
  repeat' with_reducible first
    | assumption
    | exact .inr rfl
    | exact fun w => w
    | exact List.Subset.trans (by decide) hB
    | intro _
    | apply Keeps.ite
    | apply State.calStop_keeps
    | apply State.modHarness_keeps
    | apply State.report_keeps

theorem State.reqOff_keeps {s₀ s : State} (h : Keeps B s₀ s) (hB : [Block.harnesses, .windows, .agg] ⊆ B) (h : Nat) :
    Keeps B s₀ (State.reqOff s h) := by
  unfold State.reqOff
  try dsimp only
  repeat' with_reducible first
    | assumption
    | exact .inr rfl
    | exact fun w => w
    | exact List.Subset.trans (by decide) hB
    | intro _
    | apply Keeps.ite
    | apply State.calStop_keeps
    | apply State.dropWindow_keeps
    | apply State.modHarness_keeps
    | apply State.report_keeps

theorem State.nowActive_keeps {s₀ s : State} (h : Keeps B s₀ s)
    (hB : [Block.harnesses, .looms, .windows, .sched] ⊆ B) (h : Nat) :
    Keeps B s₀ (State.nowActive s h) := by
  unfold State.nowActive
  try dsimp only
  repeat' with_reducible first
    | assumption
    | exact .inr rfl
    | exact fun w => w
    | exact List.Subset.trans (by decide) hB
    | intro _
    | apply Keeps.ite
    | apply State.modHarness_keeps
    | apply State.refresh_keeps
    | apply State.reprogram_keeps
    | apply State.trimmed_keeps

theorem State.wakeHarness_keeps {s₀ s : State} (h : Keeps B s₀ s)
    (hB : [Block.heddles, .harnesses, .looms, .scrub, .windows, .history, .memChecks, .obs, .agg] ⊆ B) (h : Nat) :
    Keeps B s₀ (State.wakeHarness s h) := by
  unfold State.wakeHarness
  try dsimp only
  repeat' with_reducible first
    | assumption
    | exact .inr rfl
    | exact fun w => w
    | exact List.Subset.trans (by decide) hB
    | intro _
    | apply Keeps.ite
    | apply State.modHarness_keeps
    | apply State.reprogram_keeps
    | apply State.trimmed_keeps

theorem State.transitionDone_keeps {s₀ s : State} (h : Keeps B s₀ s)
    (hB : [Block.heddles, .harnesses, .looms, .scrub, .windows, .sched, .history, .memChecks, .obs, .agg] ⊆ B) (h :
      Nat) :
    Keeps B s₀ (State.transitionDone s h) := by
  unfold State.transitionDone
  try dsimp only
  repeat' with_reducible first
    | assumption
    | exact .inr rfl
    | exact fun w => w
    | exact List.Subset.trans (by decide) hB
    | intro _
    | apply Keeps.ite
    | apply State.loseCells_keeps
    | apply State.modHarness_keeps
    | apply State.nowActive_keeps
    | apply State.report_keeps
    | apply State.reprogram_keeps
    | apply State.retrimCheck_keeps
    | split

theorem State.onHarness_keeps {s₀ s : State} (h : Keeps B s₀ s)
    (hB : [Block.acc, .agg] ⊆ B) (who : Who) (f : Nat → State → State) (hf : ∀ a0 t, Keeps B s₀ t → Keeps B s₀ (f a0
      t)) :
    Keeps B s₀ (State.onHarness s who f) := by
  unfold State.onHarness
  try dsimp only
  repeat' with_reducible first
    | assumption
    | exact .inr rfl
    | exact fun w => w
    | exact List.Subset.trans (by decide) hB
    | intro _
    | apply Keeps.ite
    | apply hf
    | apply State.prvWrite_keeps

theorem State.fullTrim_keeps {s₀ s : State} (h : Keeps B s₀ s) (hB : [Block.harnesses] ⊆ B) (h : Nat) :
    Keeps B s₀ (State.fullTrim s h) := by
  unfold State.fullTrim
  try dsimp only
  repeat' with_reducible first
    | assumption
    | exact .inr rfl
    | exact fun w => w
    | exact List.Subset.trans (by decide) hB
    | intro _
    | apply Keeps.ite
    | apply State.modHarness_keeps

/-! ## SetOps -/

theorem State.releaseHarness_keeps {s₀ s : State} (h : Keeps B s₀ s)
    (hB : [Block.heddles, .harnesses] ⊆ B) (sealed_ : Bool) (h : Nat) :
    Keeps B s₀ (State.releaseHarness s sealed_ h) := by
  unfold State.releaseHarness
  try dsimp only
  repeat' with_reducible first
    | assumption
    | exact .inr rfl
    | exact fun w => w
    | exact List.Subset.trans (by decide) hB
    | intro _
    | apply Keeps.ite
    | apply State.each_keeps
    | apply State.modHarness_keeps
    | apply State.modHeddle_keeps

theorem State.releaseSet_keeps {s₀ s : State} (h : Keeps B s₀ s)
    (hB : [Block.heddles, .harnesses] ⊆ B) (sealed_ : Bool) (w : WeightSet) :
    Keeps B s₀ (State.releaseSet s sealed_ w) := by
  unfold State.releaseSet
  try dsimp only
  repeat' with_reducible first
    | assumption
    | exact .inr rfl
    | exact fun w => w
    | exact List.Subset.trans (by decide) hB
    | intro _
    | apply Keeps.ite
    | apply State.each_keeps
    | apply State.releaseHarness_keeps

theorem State.zeroHeddle_keeps {s₀ s : State} (h : Keeps B s₀ s) (hB : [Block.mem, .heddles] ⊆ B) (g : Nat) :
    Keeps B s₀ (State.zeroHeddle s g) := by
  unfold State.zeroHeddle
  try dsimp only
  repeat' with_reducible first
    | assumption
    | exact .inr rfl
    | exact fun w => w
    | exact List.Subset.trans (by decide) hB
    | intro _
    | apply Keeps.ite
    | apply State.modHeddle_keeps
    | apply State.zero_keeps

theorem State.zeroHarness_keeps {s₀ s : State} (h : Keeps B s₀ s)
    (hB : [Block.mem, .heddles, .harnesses] ⊆ B) (h : Nat) :
    Keeps B s₀ (State.zeroHarness s h) := by
  unfold State.zeroHarness
  try dsimp only
  repeat' with_reducible first
    | assumption
    | exact .inr rfl
    | exact fun w => w
    | exact List.Subset.trans (by decide) hB
    | intro _
    | apply Keeps.ite
    | apply State.each_keeps
    | apply State.modHarness_keeps
    | apply State.modHeddle_keeps
    | apply State.zeroHeddle_keeps

theorem State.noteCopy_keeps {s₀ s : State} (h : Keeps B s₀ s) (hB : [Block.sealed] ⊆ B) (c a n : Nat) :
    Keeps B s₀ (State.noteCopy s c a n) := by
  unfold State.noteCopy
  try dsimp only
  repeat' with_reducible first
    | assumption
    | exact .inr rfl
    | exact .inl (inB hB (by decide))
    | exact fun w => w
    | intro _
    | apply Keeps.ite
    | (rw [State.mk_eq]; apply Keeps.upd)

theorem State.copyTo_keeps {s₀ s : State} (h : Keeps B s₀ s)
    (hB : [Block.mem, .ctxs, .history, .memChecks, .obs, .agg] ⊆ B) (c a : Nat) (src : List (Nat × Nat)) :
    Keeps B s₀ (State.copyTo s c a src) := by
  unfold State.copyTo
  try dsimp only
  repeat' with_reducible first
    | assumption
    | exact .inr rfl
    | exact fun w => w
    | exact List.Subset.trans (by decide) hB
    | intro _
    | apply Keeps.ite
    | apply State.each_keeps
    | apply foldl_keeps
    | apply State.checkedRead_keeps
    | apply State.unitWrite_keeps
    | exact fun _ => Memory.wf_empty
    | apply State.setMem_keeps
    | exact fun w => Memory.wf_foldl _ (fun _ _ h => Memory.wf_addErr h _ _) _ w
    | refine Keeps.snd (by assumption) ?_
    | refine Keeps.fst (by assumption) ?_
    | exact Memory.wf_foldl _ (fun _ _ h => Memory.wf_addErr h _ _) _ (by assumption)

theorem State.buildRowCopies_keeps {s₀ s : State} (h : Keeps B s₀ s)
    (hB : [Block.mem, .sealed, .ctxs, .history, .memChecks, .obs, .agg] ⊆ B) (c : Nat) (plan : Bytes) (w :
      WeightSet) :
    Keeps B s₀ (State.buildRowCopies s c plan w) := by
  unfold State.buildRowCopies
  refine State.each_keeps (State.modCtl_keeps h (List.Subset.trans (by decide) hB) ..) fun t a ht => ?_
  extract_lets
  split
  · exact ht
  · refine State.each_keeps (State.noteCopy_keeps ht (List.Subset.trans (by decide) hB) ..) fun u b hu => ?_
    exact State.modCtl_keeps (State.copyTo_keeps hu (List.Subset.trans (by decide) hB) ..)
      (List.Subset.trans (by decide) hB) ..

theorem State.buildAuxCopies_keeps {s₀ s : State} (h : Keeps B s₀ s)
    (hB : [Block.mem, .sealed, .ctxs, .history, .memChecks, .obs, .agg] ⊆ B) (c : Nat) (w : WeightSet) :
    Keeps B s₀ (State.buildAuxCopies s c w) := by
  unfold State.buildAuxCopies
  try dsimp only
  repeat' with_reducible first
    | assumption
    | exact .inr rfl
    | exact fun w => w
    | exact List.Subset.trans (by decide) hB
    | intro _
    | apply Keeps.ite
    | apply State.each_keeps
    | apply State.copyTo_keeps
    | apply State.noteCopy_keeps

theorem State.buildCopies_keeps {s₀ s : State} (h : Keeps B s₀ s)
    (hB : [Block.mem, .sealed, .ctxs, .history, .memChecks, .obs, .agg] ⊆ B) (c : Nat) (plan : Bytes) (w :
      WeightSet) :
    Keeps B s₀ (State.buildCopies s c plan w) := by
  unfold State.buildCopies
  try dsimp only
  repeat' with_reducible first
    | assumption
    | exact .inr rfl
    | exact fun w => w
    | exact List.Subset.trans (by decide) hB
    | intro _
    | apply Keeps.ite
    | apply State.buildAuxCopies_keeps
    | apply State.buildRowCopies_keeps

theorem State.repairCopies_keeps {s₀ s : State} (h : Keeps B s₀ s)
    (hB : [Block.mem, .ctxs, .history, .memChecks, .obs, .agg] ⊆ B) (c : Nat) :
    Keeps B s₀ (State.repairCopies s c) := by
  unfold State.repairCopies
  try dsimp only
  repeat' with_reducible first
    | assumption
    | exact .inr rfl
    | exact fun w => w
    | exact List.Subset.trans (by decide) hB
    | intro _
    | apply Keeps.ite
    | apply State.each_keeps
    | apply foldl_keeps
    | apply State.copyTo_keeps
    | exact fun _ => Memory.wf_empty
    | apply State.setMem_keeps
    | exact fun w => Memory.wf_foldl _ (fun _ _ h => Memory.wf_addErr h _ _) _ w
    | refine Keeps.snd (by assumption) ?_
    | refine Keeps.fst (by assumption) ?_
    | exact Memory.wf_foldl _ (fun _ _ h => Memory.wf_clearErr h _) _ (by assumption)

theorem State.claimSet_keeps {s₀ s : State} (h : Keeps B s₀ s)
    (hB : [Block.heddles] ⊆ B) (c role : Nat) (w : WeightSet) :
    Keeps B s₀ (State.claimSet s c role w) := by
  unfold State.claimSet
  try dsimp only
  repeat' with_reducible first
    | assumption
    | exact .inr rfl
    | exact fun w => w
    | exact List.Subset.trans (by decide) hB
    | intro _
    | apply Keeps.ite
    | apply State.each_keeps
    | apply State.modHeddle_keeps

theorem State.flipSet_keeps {s₀ s : State} (h : Keeps B s₀ s)
    (hB : [Block.mem, .heddles, .harnesses, .kvt, .ctxs] ⊆ B) (c : Nat) :
    Keeps B s₀ (State.flipSet s c) := by
  unfold State.flipSet
  try dsimp only
  repeat' with_reducible first
    | assumption
    | exact .inr rfl
    | exact fun w => w
    | exact List.Subset.trans (by decide) hB
    | intro _
    | apply Keeps.ite
    | apply State.each_keeps
    | apply State.claimSet_keeps
    | apply State.modCtl_keeps
    | apply State.modCtx_keeps
    | apply State.releaseSet_keeps
    | apply State.resetStream_keeps
    | split

theorem State.rollLoad_keeps {s₀ s : State} (h : Keeps B s₀ s)
    (hB : [Block.heddles, .harnesses, .ctxs] ⊆ B) (c : Nat) (staged : Bool) (before after : WeightSet) :
    Keeps B s₀ (State.rollLoad s c staged before after) := by
  unfold State.rollLoad
  try dsimp only
  repeat' with_reducible first
    | assumption
    | exact .inr rfl
    | exact fun w => w
    | exact List.Subset.trans (by decide) hB
    | intro _
    | apply Keeps.ite
    | apply State.each_keeps
    | apply State.modCtx_keeps
    | apply State.modHeddle_keeps
    | apply State.releaseHarness_keeps

theorem State.dropHeld_keeps {s₀ s : State} (h : Keeps B s₀ s)
    (hB : [Block.heddles, .harnesses, .ctxs] ⊆ B) (c status : Nat) (tier : Option Nat) :
    Keeps B s₀ (State.dropHeld s c status tier) := by
  unfold State.dropHeld
  try dsimp only
  repeat' with_reducible first
    | assumption
    | exact .inr rfl
    | exact fun w => w
    | exact List.Subset.trans (by decide) hB
    | intro _
    | apply Keeps.ite
    | apply State.modCtx_keeps
    | apply State.rollLoad_keeps
    | split

theorem State.endHeld_keeps {s₀ s : State} (h : Keeps B s₀ s)
    (hB : [Block.mbx, .heddles, .harnesses, .ctxs, .out] ⊆ B) (c status : Nat) (tier : Option Nat) :
    Keeps B s₀ (State.endHeld s c status tier) := by
  unfold State.endHeld
  try dsimp only
  repeat' with_reducible first
    | assumption
    | exact .inr rfl
    | exact fun w => w
    | exact List.Subset.trans (by decide) hB
    | intro _
    | apply Keeps.ite
    | apply State.complete_keeps
    | apply State.dropHeld_keeps
    | split

theorem State.endSwitch_keeps {s₀ s : State} (h : Keeps B s₀ s)
    (hB : [Block.mem, .sealed, .ctxs, .history, .memChecks, .obs, .agg] ⊆ B) (c reason : Nat) :
    Keeps B s₀ (State.endSwitch s c reason) := by
  unfold State.endSwitch
  try dsimp only
  repeat' with_reducible first
    | assumption
    | exact .inr rfl
    | exact fun w => w
    | exact List.Subset.trans (by decide) hB
    | intro _
    | apply Keeps.ite
    | apply State.buildCopies_keeps
    | apply State.modCtx_keeps

/-! ## Scrub -/

theorem State.judgeTarget_keeps {s₀ s : State} (h : Keeps B s₀ s)
    (hB : [Block.history, .packs] ⊆ B) (t : Target) (clean : Bool) :
    Keeps B s₀ (State.judgeTarget s t clean) := by
  unfold State.judgeTarget
  try dsimp only
  repeat' with_reducible first
    | assumption
    | exact .inr rfl
    | exact fun w => w
    | exact List.Subset.trans (by decide) hB
    | intro _
    | apply Keeps.ite
    | apply State.capture_keeps
    | apply State.healthEvent_keeps

theorem State.judgeTargets_keeps {s₀ s : State} (h : Keeps B s₀ s)
    (hB : [Block.scrub, .history, .packs] ⊆ B) (c k : Nat) (clean : Bool) :
    Keeps B s₀ (State.judgeTargets s c k clean) := by
  unfold State.judgeTargets
  try dsimp only
  repeat' with_reducible first
    | assumption
    | exact .inr rfl
    | exact .inl (inB hB (by decide))
    | exact fun w => w
    | exact List.Subset.trans (by decide) hB
    | intro _
    | apply Keeps.ite
    | apply State.each_keeps
    | apply State.judgeTarget_keeps
    | (rw [State.mk_eq]; apply Keeps.upd)

theorem State.targetDone_keeps {s₀ s : State} (h : Keeps B s₀ s)
    (hB : [Block.harnesses, .scrub, .ctxs, .history, .packs] ⊆ B) (g d : Nat) (fixed : Bool) :
    Keeps B s₀ (State.targetDone s g d fixed) := by
  unfold State.targetDone
  try dsimp only
  repeat' with_reducible first
    | assumption
    | exact .inr rfl
    | exact .inl (inB hB (by decide))
    | exact fun w => w
    | exact List.Subset.trans (by decide) hB
    | intro _
    | apply Keeps.ite
    | apply State.each_keeps
    | apply State.judgeTarget_keeps
    | apply State.modCtx_keeps
    | apply State.modHarness_keeps
    | (rw [State.mk_eq]; apply Keeps.upd)

theorem State.scrubTaken_keeps {s₀ s : State} (h : Keeps B s₀ s) (hB : [Block.scrub] ⊆ B) (g : Nat) :
    Keeps B s₀ (State.scrubTaken s g) := by
  unfold State.scrubTaken
  try dsimp only
  repeat' with_reducible first
    | assumption
    | exact .inr rfl
    | exact .inl (inB hB (by decide))
    | exact fun w => w
    | intro _
    | apply Keeps.ite
    | (rw [State.mk_eq]; apply Keeps.upd)

/-! ## Contexts -/

theorem State.noteMsg_keeps {s₀ s : State} (h : Keeps B s₀ s)
    (hB : [Block.relayed] ⊆ B) (msg origin scope pick : Nat) :
    Keeps B s₀ (State.noteMsg s msg origin scope pick) := by
  unfold State.noteMsg
  try dsimp only
  repeat' with_reducible first
    | assumption
    | exact .inr rfl
    | exact .inl (inB hB (by decide))
    | exact fun w => w
    | intro _
    | apply Keeps.ite
    | (rw [State.mk_eq]; apply Keeps.upd)

theorem State.originate_keeps {s₀ s : State} (h : Keeps B s₀ s)
    (hB : [Block.relayed, .ports, .out] ⊆ B) (c msg pick arg arg2 : Nat) :
    Keeps B s₀ (State.originate s c msg pick arg arg2) := by
  unfold State.originate
  try dsimp only
  repeat' with_reducible first
    | assumption
    | exact .inr rfl
    | exact fun w => w
    | exact List.Subset.trans (by decide) hB
    | intro _
    | apply Keeps.ite
    | apply State.noteMsg_keeps
    | apply State.sendGroup_keeps

theorem State.relay_keeps {s₀ s : State} (h : Keeps B s₀ s)
    (hB : [Block.relayed, .ports, .out] ⊆ B) (c msg origin scope pick arg arg2 : Nat) :
    Keeps B s₀ (State.relay s c msg origin scope pick arg arg2) := by
  unfold State.relay
  try dsimp only
  repeat' with_reducible first
    | assumption
    | exact .inr rfl
    | exact fun w => w
    | exact List.Subset.trans (by decide) hB
    | intro _
    | apply Keeps.ite
    | apply State.noteMsg_keeps
    | apply State.sendOn_keeps

theorem State.pageSettle_keeps {s₀ s : State} (h : Keeps B s₀ s) (hB : [Block.mbx, .mem, .kvt, .streams, .out] ⊆ B) :
    Keeps B s₀ (State.pageSettle s) := by
  unfold State.pageSettle
  try dsimp only
  repeat' with_reducible first
    | assumption
    | exact .inr rfl
    | exact fun w => w
    | exact List.Subset.trans (by decide) hB
    | intro _
    | apply Keeps.ite
    | apply State.each_keeps
    | apply State.pageBoundary_keeps

theorem State.flipAtStop_keeps {s₀ s : State} (h : Keeps B s₀ s)
    (hB : [Block.mem, .heddles, .harnesses, .kvt, .ctxs] ⊆ B) (c : Nat) :
    Keeps B s₀ (State.flipAtStop s c) := by
  unfold State.flipAtStop
  try dsimp only
  repeat' with_reducible first
    | assumption
    | exact .inr rfl
    | exact fun w => w
    | exact List.Subset.trans (by decide) hB
    | intro _
    | apply Keeps.ite
    | apply State.flipSet_keeps
    | apply State.modCtl_keeps

theorem State.disableCtx_keeps {s₀ s : State} (h : Keeps B s₀ s)
    (hB : [Block.mbx, .mem, .heddles, .harnesses, .kvt, .ctxs, .sched, .streams, .reqs, .ports, .obs, .out] ⊆ B) (c
      : Nat) :
    Keeps B s₀ (State.disableCtx s c) := by
  unfold State.disableCtx
  try dsimp only
  repeat' with_reducible first
    | assumption
    | exact .inr rfl
    | exact .inl (inB hB (by decide))
    | exact fun w => w
    | exact List.Subset.trans (by decide) hB
    | intro _
    | apply Keeps.ite
    | apply State.cut_keeps
    | apply State.dropDue_keeps
    | apply State.flipAtStop_keeps
    | apply State.modCtx_keeps
    | apply State.pageSettle_keeps
    | apply State.prune_keeps
    | (rw [State.mk_eq]; apply Keeps.upd)

theorem State.failCtx_keeps {s₀ s : State} (h : Keeps B s₀ s)
    (hB : [Block.mbx, .mem, .heddles, .harnesses, .kvt, .ctxs, .sched, .streams, .reqs, .ports, .obs, .out] ⊆ B) (c
      code : Nat) :
    Keeps B s₀ (State.failCtx s c code) := by
  unfold State.failCtx
  try dsimp only
  repeat' with_reducible first
    | assumption
    | exact .inr rfl
    | exact fun w => w
    | exact List.Subset.trans (by decide) hB
    | intro _
    | apply Keeps.ite
    | apply State.disableCtx_keeps
    | apply State.modCtl_keeps

theorem State.abortCtx_keeps {s₀ s : State} (h : Keeps B s₀ s)
    (hB : [Block.mbx, .mem, .heddles, .harnesses, .kvt, .ctxs, .sched, .streams, .reqs, .relayed, .ports, .obs,
      .out] ⊆ B) (c : Nat) :
    Keeps B s₀ (State.abortCtx s c) := by
  unfold State.abortCtx
  try dsimp only
  repeat' with_reducible first
    | assumption
    | exact .inr rfl
    | exact fun w => w
    | exact List.Subset.trans (by decide) hB
    | intro _
    | apply Keeps.ite
    | apply State.failCtx_keeps
    | apply State.originate_keeps

theorem State.stopAt_keeps {s₀ s : State} (h : Keeps B s₀ s) (hB : [Block.ctxs] ⊆ B) (c p : Nat) :
    Keeps B s₀ (State.stopAt s c p) := by
  unfold State.stopAt
  try dsimp only
  repeat' with_reducible first
    | assumption
    | exact .inr rfl
    | exact fun w => w
    | exact List.Subset.trans (by decide) hB
    | intro _
    | apply Keeps.ite
    | apply State.modCtl_keeps

theorem State.stopCtx_keeps {s₀ s : State} (h : Keeps B s₀ s)
    (hB : [Block.ctxs, .relayed, .ports, .out] ⊆ B) (c : Nat) :
    Keeps B s₀ (State.stopCtx s c) := by
  unfold State.stopCtx
  try dsimp only
  repeat' with_reducible first
    | assumption
    | exact .inr rfl
    | exact fun w => w
    | exact List.Subset.trans (by decide) hB
    | intro _
    | apply Keeps.ite
    | apply State.originate_keeps
    | apply State.stopAt_keeps

theorem State.enableZero_keeps {s₀ s : State} (h : Keeps B s₀ s)
    (hB : [Block.mbx, .mem, .heddles, .harnesses, .kvt, .ctxs, .sched, .streams, .reqs, .relayed, .ports, .obs,
      .out] ⊆ B) (c : Nat) :
    Keeps B s₀ (State.enableZero s c) := by
  unfold State.enableZero
  try dsimp only
  repeat' with_reducible first
    | assumption
    | exact .inr rfl
    | exact fun w => w
    | exact List.Subset.trans (by decide) hB
    | intro _
    | apply Keeps.ite
    | apply State.abortCtx_keeps
    | apply State.failCtx_keeps
    | apply State.stopCtx_keeps

theorem State.cutSettle_keeps {s₀ s : State} (h : Keeps B s₀ s)
    (hB : [Block.mbx, .mem, .heddles, .harnesses, .kvt, .ctxs, .sched, .streams, .reqs, .ports, .obs, .out] ⊆ B) (c
      : Nat) :
    Keeps B s₀ (State.cutSettle s c) := by
  unfold State.cutSettle
  try dsimp only
  repeat' with_reducible first
    | assumption
    | exact .inr rfl
    | exact fun w => w
    | exact List.Subset.trans (by decide) hB
    | intro _
    | apply Keeps.ite
    | apply State.cut_keeps
    | apply State.disableCtx_keeps

theorem State.cut_keeps {s₀ s : State} (h : Keeps B s₀ s)
    (hB : [Block.mbx, .mem, .heddles, .harnesses, .kvt, .ctxs, .sched, .rings, .streams, .reqs, .cuts, .ports, .obs,
      .out] ⊆ B) (c cause : Nat) (records : Bool) :
    Keeps B s₀ (State.cut s c cause records) := by
  unfold State.cut
  try dsimp only
  repeat' with_reducible first
    | assumption
    | exact .inr rfl
    | exact .inl (inB hB (by decide))
    | exact fun w => w
    | exact List.Subset.trans (by decide) hB
    | intro _
    | apply Keeps.ite
    | apply State.each_keeps
    | apply State.cutSettle_keeps
    | apply State.disableCtx_keeps
    | apply State.dropDue_keeps
    | apply State.finish_keeps
    | apply State.modCtl_keeps
    | (rw [State.mk_eq]; apply Keeps.upd)

theorem State.gstop_keeps {s₀ s : State} (h : Keeps B s₀ s)
    (hB : [Block.mbx, .mem, .heddles, .harnesses, .kvt, .ctxs, .sched, .rings, .streams, .reqs, .cuts, .relayed,
      .ports, .obs, .out] ⊆ B) (c cause : Nat) (records : Bool) :
    Keeps B s₀ (State.gstop s c cause records) := by
  unfold State.gstop
  try dsimp only
  repeat' with_reducible first
    | assumption
    | exact .inr rfl
    | exact fun w => w
    | exact List.Subset.trans (by decide) hB
    | intro _
    | apply Keeps.ite
    | apply State.cut_keeps
    | apply State.originate_keeps

/-! ## Twin -/

theorem State.shadowDirty_keeps {s₀ s : State} (h : Keeps B s₀ s) (hB : [Block.twin] ⊆ B) (c t : Nat) :
    Keeps B s₀ (State.shadowDirty s c t) := by
  unfold State.shadowDirty
  try dsimp only
  repeat' with_reducible first
    | assumption
    | exact .inr rfl
    | exact .inl (inB hB (by decide))
    | exact fun w => w
    | intro _
    | apply Keeps.ite
    | (rw [State.mk_eq]; apply Keeps.upd)

theorem State.shadowBlock_keeps {s₀ s : State} (h : Keeps B s₀ s)
    (hB : [Block.history, .memChecks, .ports, .obs, .agg, .out] ⊆ B) (p a : Nat) :
    Keeps B s₀ (State.shadowBlock s p a) := by
  unfold State.shadowBlock
  try dsimp only
  repeat' with_reducible first
    | assumption
    | exact .inr rfl
    | exact fun w => w
    | exact List.Subset.trans (by decide) hB
    | intro _
    | apply Keeps.ite
    | apply State.each_keeps
    | apply State.emit_keeps
    | apply State.readFail_keeps
    | apply State.sendFlits_keeps

theorem State.sendShadow_keeps {s₀ s : State} (h : Keeps B s₀ s)
    (hB : [Block.history, .memChecks, .twin, .ports, .obs, .agg, .out] ⊆ B) (t : Nat) :
    Keeps B s₀ (State.sendShadow s t) := by
  unfold State.sendShadow
  try dsimp only
  repeat' with_reducible first
    | assumption
    | exact .inl (inB hB (by decide))
    | exact .inr rfl
    | exact fun w => w
    | exact List.Subset.trans (by decide) hB
    | intro _
    | apply Keeps.ite
    | apply State.each_keeps
    | apply State.shadowBlock_keeps
    | apply State.shadowSend_keeps
    | (rw [State.mk_eq]; apply Keeps.upd)
    | split

theorem State.applyShadow_keeps {s₀ s : State} (h : Keeps B s₀ s) (hB : [Block.mem, .twin] ⊆ B) (r : ShadowRec) :
    Keeps B s₀ (State.applyShadow s r) := by
  unfold State.applyShadow
  try dsimp only
  repeat' with_reducible first
    | assumption
    | exact .inr rfl
    | exact .inl (inB hB (by decide))
    | exact fun w => w
    | exact List.Subset.trans (by decide) hB
    | intro _
    | apply Keeps.ite
    | apply State.each_keeps
    | apply State.pieceWrite_keeps
    | apply State.write_keeps
    | (rw [State.mk_eq]; apply Keeps.upd)

theorem State.dropShadow_keeps {s₀ s : State} (h : Keeps B s₀ s) (hB : [Block.mem, .kvt] ⊆ B) (r : ShadowRec) :
    Keeps B s₀ (State.dropShadow s r) := by
  unfold State.dropShadow
  try dsimp only
  repeat' with_reducible first
    | assumption
    | exact .inr rfl
    | exact fun w => w
    | exact List.Subset.trans (by decide) hB
    | intro _
    | apply Keeps.ite
    | apply State.each_keeps
    | apply State.unmapPage_keeps
    | apply State.write_keeps

theorem State.unpair_keeps {s₀ s : State} (h : Keeps B s₀ s) (hB : [Block.twin] ⊆ B) (state : Nat) :
    Keeps B s₀ (State.unpair s state) := by
  unfold State.unpair
  try dsimp only
  repeat' with_reducible first
    | assumption
    | exact .inr rfl
    | exact .inl (inB hB (by decide))
    | exact fun w => w
    | intro _
    | apply Keeps.ite
    | (rw [State.mk_eq]; apply Keeps.upd)

theorem State.place?_keeps {s₀ s : State} (h : Keeps B s₀ s)
    (hB : [Block.reqs, .twin] ⊆ B) (r : ShadowRec) (q : ShadowReq) :
    Keeps B s₀ (State.place? s r q).1 := by
  unfold State.place?
  try dsimp only
  repeat' with_reducible first
    | assumption
    | exact .inr rfl
    | exact .inl (inB hB (by decide))
    | exact fun w => w
    | intro _
    | apply Keeps.ite
    | (rw [State.mk_eq]; apply Keeps.upd)
    | split

theorem State.placeAll_keeps {s₀ s : State} (h : Keeps B s₀ s) (hB : [Block.reqs, .twin] ⊆ B) (x0 : List ShadowRec) :
    Keeps B s₀ (State.placeAll s x0).1 := by
  induction x0 generalizing s with
  | nil => exact h
  | cons r t ih =>
    unfold State.placeAll
    dsimp only
    repeat' with_reducible first
      | assumption
      | exact List.Subset.trans (by decide) hB
      | apply ih
      | apply State.place?_keeps
      | split

theorem State.adoptStream_keeps {s₀ s : State} (h : Keeps B s₀ s)
    (hB : [Block.mem, .kvt, .streams, .twin] ⊆ B) (r : ShadowRec) :
    Keeps B s₀ (State.adoptStream s r) := by
  unfold State.adoptStream
  try dsimp only
  repeat' with_reducible first
    | assumption
    | exact .inr rfl
    | exact .inl (inB hB (by decide))
    | exact fun w => w
    | exact List.Subset.trans (by decide) hB
    | intro _
    | apply Keeps.ite
    | apply State.each_keeps
    | apply State.modStream_keeps
    | apply State.publish_keeps
    | apply State.write_keeps
    | (rw [State.mk_eq]; apply Keeps.upd)

theorem State.adopt_keeps {s₀ s : State} (h : Keeps B s₀ s)
    (hB : [Block.mem, .kvt, .streams, .reqs, .twin] ⊆ B) (p : ShadowRec → Bool) (ahead : Bool) :
    Keeps B s₀ (State.adopt s p ahead) := by
  unfold State.adopt
  try dsimp only
  repeat' with_reducible first
    | assumption
    | exact .inr rfl
    | exact .inl (inB hB (by decide))
    | exact fun w => w
    | exact List.Subset.trans (by decide) hB
    | intro _
    | apply Keeps.ite
    | apply State.each_keeps
    | apply State.adoptStream_keeps
    | apply State.placeAll_keeps
    | (rw [State.mk_eq]; apply Keeps.upd)

theorem State.peerGone_keeps {s₀ s : State} (h : Keeps B s₀ s)
    (hB : [Block.mem, .kvt, .streams, .reqs, .twin] ⊆ B) (always : Bool) :
    Keeps B s₀ (State.peerGone s always) := by
  unfold State.peerGone
  try dsimp only
  repeat' with_reducible first
    | assumption
    | exact .inr rfl
    | exact .inl (inB hB (by decide))
    | exact fun w => w
    | exact List.Subset.trans (by decide) hB
    | intro _
    | apply Keeps.ite
    | apply State.adopt_keeps
    | apply State.unpair_keeps
    | (rw [State.mk_eq]; apply Keeps.upd)

theorem State.detach_keeps {s₀ s : State} (h : Keeps B s₀ s) (hB : [Block.mem, .kvt, .twin] ⊆ B) :
    Keeps B s₀ (State.detach s) := by
  unfold State.detach
  try dsimp only
  repeat' with_reducible first
    | assumption
    | exact .inr rfl
    | exact fun w => w
    | exact List.Subset.trans (by decide) hB
    | intro _
    | apply Keeps.ite
    | apply State.each_keeps
    | apply State.dropShadow_keeps
    | apply State.unpair_keeps

theorem State.dropRequest_keeps {s₀ s : State} (h : Keeps B s₀ s) (hB : [Block.reqs] ⊆ B) (id : Nat) :
    Keeps B s₀ (State.dropRequest s id) := by
  unfold State.dropRequest
  try dsimp only
  repeat' with_reducible first
    | assumption
    | exact .inr rfl
    | exact fun w => w
    | exact List.Subset.trans (by decide) hB
    | intro _
    | apply Keeps.ite
    | apply State.modRequest_keeps

theorem State.handOver_keeps {s₀ s : State} (h : Keeps B s₀ s)
    (hB : [Block.mbx, .mem, .kvt, .streams, .reqs, .history, .memChecks, .twin, .ports, .obs, .agg, .out] ⊆ B) (c :
      Nat) :
    Keeps B s₀ (State.handOver s c) := by
  unfold State.handOver
  try dsimp only
  repeat' with_reducible first
    | assumption
    | exact .inr rfl
    | exact .inl (inB hB (by decide))
    | exact fun w => w
    | exact List.Subset.trans (by decide) hB
    | intro _
    | apply Keeps.ite
    | apply State.each_keeps
    | apply State.closeStream_keeps
    | apply State.dropRequest_keeps
    | apply State.pageSettle_keeps
    | apply State.prune_keeps
    | apply State.sendShadow_keeps
    | apply State.sendTwin_keeps
    | apply State.shadowSend_keeps
    | (rw [State.mk_eq]; apply Keeps.upd)
    | split

/-! ## Retire -/

theorem State.claimFor_keeps {s₀ s : State} (h : Keeps B s₀ s) (hB : [Block.heddles] ⊆ B) (c role new : Nat) :
    Keeps B s₀ (State.claimFor s c role new) := by
  unfold State.claimFor
  try dsimp only
  repeat' with_reducible first
    | assumption
    | exact .inr rfl
    | exact fun w => w
    | exact List.Subset.trans (by decide) hB
    | intro _
    | apply Keeps.ite
    | apply State.each_keeps
    | apply State.modHeddle_keeps

theorem State.programFrom_keeps {s₀ s : State} (h : Keeps B s₀ s)
    (hB : [Block.mem, .heddles, .harnesses, .looms, .scrub, .windows, .history, .memChecks, .obs, .agg] ⊆ B) (old
      new : Nat) (w : WeightSet) :
    Keeps B s₀ (State.programFrom s old new w) := by
  unfold State.programFrom
  try dsimp only
  repeat' with_reducible first
    | assumption
    | exact .inr rfl
    | exact fun w => w
    | exact List.Subset.trans (by decide) hB
    | intro _
    | apply Keeps.ite
    | apply State.each_keeps
    | apply State.patternGone_keeps
    | apply State.patternRead_keeps
    | apply State.programHeddle_keeps
    | apply State.unitWrite_keeps
    | apply State.wakeHarness_keeps

theorem State.flipHarness_keeps {s₀ s : State} (h : Keeps B s₀ s)
    (hB : [Block.heddles, .harnesses, .ctxs] ⊆ B) (c old new : Nat) :
    Keeps B s₀ (State.flipHarness s c old new) := by
  unfold State.flipHarness
  try dsimp only
  repeat' with_reducible first
    | assumption
    | exact .inr rfl
    | exact fun w => w
    | exact List.Subset.trans (by decide) hB
    | intro _
    | apply Keeps.ite
    | apply State.modCtx_keeps
    | apply State.releaseHarness_keeps

theorem State.handMasked_keeps {s₀ s : State} (h : Keeps B s₀ s)
    (hB : [Block.mbx, .mem, .kvt, .streams, .reqs, .history, .memChecks, .twin, .ports, .obs, .agg, .out] ⊆ B) (c :
      Nat) :
    Keeps B s₀ (State.handMasked s c) := by
  unfold State.handMasked
  try dsimp only
  repeat' with_reducible first
    | assumption
    | exact .inr rfl
    | exact fun w => w
    | exact List.Subset.trans (by decide) hB
    | intro _
    | apply Keeps.ite
    | apply State.handOver_keeps

theorem State.spareFor_keeps {s₀ s : State} (h : Keeps B s₀ s)
    (hB : [Block.mbx, .mem, .heddles, .harnesses, .looms, .scrub, .windows, .kvt, .ctxs, .sched, .streams, .reqs,
      .history, .memChecks, .relayed, .ports, .obs, .agg, .out] ⊆ B) (c old : Nat) :
    Keeps B s₀ (State.spareFor s c old) := by
  unfold State.spareFor
  try dsimp only
  repeat' with_reducible first
    | assumption
    | exact .inr rfl
    | exact fun w => w
    | exact List.Subset.trans (by decide) hB
    | intro _
    | apply Keeps.ite
    | apply State.claimFor_keeps
    | apply State.enableZero_keeps
    | apply State.modCtl_keeps
    | apply State.modCtx_keeps
    | apply State.programFrom_keeps
    | apply State.trimmed_keeps
    | split

theorem State.flipPrograms_keeps {s₀ s : State} (h : Keeps B s₀ s)
    (hB : [Block.mem, .heddles, .harnesses, .looms, .scrub, .windows, .ctxs, .history, .memChecks, .obs, .agg] ⊆ B)
      (c : Nat) :
    Keeps B s₀ (State.flipPrograms s c) := by
  unfold State.flipPrograms
  try dsimp only
  repeat' with_reducible first
    | assumption
    | exact .inr rfl
    | exact fun w => w
    | exact List.Subset.trans (by decide) hB
    | intro _
    | apply Keeps.ite
    | apply State.each_keeps
    | apply State.modCtl_keeps
    | apply State.programFrom_keeps
    | apply State.trimmed_keeps

theorem State.flipReady_keeps {s₀ s : State} (h : Keeps B s₀ s)
    (hB : [Block.mem, .heddles, .harnesses, .looms, .scrub, .windows, .ctxs, .history, .memChecks, .twin, .obs,
      .agg] ⊆ B) (c : Nat) :
    Keeps B s₀ (State.flipReady s c) := by
  unfold State.flipReady
  try dsimp only
  repeat' with_reducible first
    | assumption
    | exact .inr rfl
    | exact .inl (inB hB (by decide))
    | exact fun w => w
    | exact List.Subset.trans (by decide) hB
    | intro _
    | apply Keeps.ite
    | apply State.each_keeps
    | apply State.flipHarness_keeps
    | apply State.flipPrograms_keeps
    | apply State.modCtl_keeps
    | (rw [State.mk_eq]; apply Keeps.upd)

theorem State.replaceUnit_keeps {s₀ s : State} (h : Keeps B s₀ s)
    (hB : [Block.mbx, .mem, .heddles, .harnesses, .kvt, .ctxs, .sched, .streams, .reqs, .history, .memChecks,
      .relayed, .twin, .ports, .obs, .agg, .out] ⊆ B) (c kind idx : Nat) :
    Keeps B s₀ (State.replaceUnit s c kind idx) := by
  unfold State.replaceUnit
  try dsimp only
  repeat' with_reducible first
    | assumption
    | exact .inr rfl
    | exact fun w => w
    | exact List.Subset.trans (by decide) hB
    | intro _
    | apply Keeps.ite
    | apply State.enableZero_keeps
    | apply State.handMasked_keeps
    | apply State.modCtl_keeps
    | split

theorem State.unitGoneFor_keeps {s₀ s : State} (h : Keeps B s₀ s)
    (hB : [Block.mbx, .mem, .heddles, .harnesses, .looms, .scrub, .windows, .kvt, .ctxs, .sched, .rings, .streams,
      .reqs, .history, .memChecks, .cuts, .relayed, .twin, .ports, .obs, .agg, .out] ⊆ B) (c kind idx cause : Nat) :
    Keeps B s₀ (State.unitGoneFor s c kind idx cause) := by
  unfold State.unitGoneFor
  try dsimp only
  repeat' with_reducible first
    | assumption
    | exact .inr rfl
    | exact fun w => w
    | exact List.Subset.trans (by decide) hB
    | intro _
    | apply Keeps.ite
    | apply State.enableZero_keeps
    | apply State.gstop_keeps
    | apply State.handMasked_keeps
    | apply State.replaceUnit_keeps
    | apply State.spareFor_keeps

theorem State.stagedProgram_keeps {s₀ s : State} (h : Keeps B s₀ s)
    (hB : [Block.mem, .heddles, .harnesses, .looms, .scrub, .windows, .history, .memChecks, .obs, .agg] ⊆ B) (c old
      new : Nat) (w : WeightSet) :
    Keeps B s₀ (State.stagedProgram s c old new w) := by
  unfold State.stagedProgram
  try dsimp only
  repeat' with_reducible first
    | assumption
    | exact .inr rfl
    | exact fun w => w
    | exact List.Subset.trans (by decide) hB
    | intro _
    | apply Keeps.ite
    | apply State.programFrom_keeps
    | apply State.releaseHarness_keeps
    | apply State.trimmed_keeps

theorem State.stagedPrograms_keeps {s₀ s : State} (h : Keeps B s₀ s)
    (hB : [Block.mem, .heddles, .harnesses, .looms, .scrub, .windows, .ctxs, .history, .memChecks, .obs, .agg] ⊆ B)
      (c : Nat) :
    Keeps B s₀ (State.stagedPrograms s c) := by
  unfold State.stagedPrograms
  try dsimp only
  repeat' with_reducible first
    | assumption
    | exact .inr rfl
    | exact fun w => w
    | exact List.Subset.trans (by decide) hB
    | intro _
    | apply Keeps.ite
    | apply State.each_keeps
    | apply State.modCtx_keeps
    | apply State.stagedProgram_keeps

theorem State.windowPrograms_keeps {s₀ s : State} (h : Keeps B s₀ s)
    (hB : [Block.mem, .heddles, .harnesses, .looms, .scrub, .windows, .ctxs, .history, .memChecks, .obs, .agg] ⊆ B)
      :
    Keeps B s₀ (State.windowPrograms s) := by
  unfold State.windowPrograms
  try dsimp only
  repeat' with_reducible first
    | assumption
    | exact .inr rfl
    | exact fun w => w
    | exact List.Subset.trans (by decide) hB
    | intro _
    | apply Keeps.ite
    | apply State.each_keeps
    | apply State.flipPrograms_keeps
    | apply State.stagedPrograms_keeps

theorem State.stagedGone_keeps {s₀ s : State} (h : Keeps B s₀ s)
    (hB : [Block.mem, .heddles, .harnesses, .looms, .scrub, .windows, .sealed, .ctxs, .history, .memChecks, .obs,
      .agg] ⊆ B) (c h : Nat) :
    Keeps B s₀ (State.stagedGone s c h) := by
  unfold State.stagedGone
  try dsimp only
  repeat' with_reducible first
    | assumption
    | exact .inr rfl
    | exact fun w => w
    | exact List.Subset.trans (by decide) hB
    | intro _
    | apply Keeps.ite
    | apply State.claimFor_keeps
    | apply State.endSwitch_keeps
    | apply State.modCtx_keeps
    | apply State.stagedProgram_keeps
    | split

theorem State.unitGone_keeps {s₀ s : State} (h : Keeps B s₀ s)
    (hB : [Block.mbx, .mem, .heddles, .harnesses, .looms, .scrub, .windows, .sealed, .kvt, .ctxs, .sched, .rings,
      .streams, .reqs, .history, .memChecks, .cuts, .relayed, .twin, .ports, .obs, .agg, .out] ⊆ B) (kind idx cause
      : Nat) :
    Keeps B s₀ (State.unitGone s kind idx cause) := by
  unfold State.unitGone
  try dsimp only
  repeat' with_reducible first
    | assumption
    | exact .inr rfl
    | exact fun w => w
    | exact List.Subset.trans (by decide) hB
    | intro _
    | apply Keeps.ite
    | apply State.each_keeps
    | apply State.stagedGone_keeps
    | apply State.unitGoneFor_keeps

theorem State.joinMap_keeps {s₀ s : State} (h : Keeps B s₀ s) (hB : [Block.ctxs, .unitMap] ⊆ B) (kind idx : Nat) :
    Keeps B s₀ (State.joinMap s kind idx) := by
  unfold State.joinMap
  try dsimp only
  repeat' with_reducible first
    | assumption
    | exact .inr rfl
    | exact .inl (inB hB (by decide))
    | exact fun w => w
    | exact List.Subset.trans (by decide) hB
    | intro _
    | apply Keeps.ite
    | apply State.each_keeps
    | apply State.modRecs_keeps
    | (rw [State.mk_eq]; apply Keeps.upd)

theorem State.takeDown_keeps {s₀ s : State} (h : Keeps B s₀ s)
    (hB : [Block.time, .heddles, .harnesses, .windows, .ports] ⊆ B) (kind idx : Nat) :
    Keeps B s₀ (State.takeDown s kind idx) := by
  unfold State.takeDown
  try dsimp only
  repeat' with_reducible first
    | assumption
    | exact .inr rfl
    | exact fun w => w
    | exact List.Subset.trans (by decide) hB
    | intro _
    | apply Keeps.ite
    | apply State.each_keeps
    | apply State.calStop_keeps
    | apply State.loseCells_keeps
    | apply State.modHarness_keeps
    | apply State.modPort_keeps
    | apply State.reprogram_keeps
    | apply State.upstreamDown_keeps

theorem State.suppressDue_keeps {s₀ s : State} (h : Keeps B s₀ s)
    (hB : [Block.mem, .kvt, .ctxs, .sched, .ports, .obs, .out] ⊆ B) :
    Keeps B s₀ (State.suppressDue s) := by
  unfold State.suppressDue
  try dsimp only
  repeat' with_reducible first
    | assumption
    | exact .inr rfl
    | exact fun w => w
    | exact List.Subset.trans (by decide) hB
    | intro _
    | apply Keeps.ite
    | apply State.dropDue_keeps

theorem State.permanent_keeps {s₀ s : State} (h : Keeps B s₀ s)
    (hB : [Block.time, .mbx, .mem, .heddles, .harnesses, .looms, .scrub, .windows, .sealed, .kvt, .ctxs, .sched,
      .rings, .streams, .reqs, .history, .unitMap, .memChecks, .domains, .cuts, .relayed, .twin, .ports, .obs, .agg,
      .out] ⊆ B) (kind idx cause : Nat) :
    Keeps B s₀ (State.permanent s kind idx cause) := by
  unfold State.permanent
  try dsimp only
  repeat' with_reducible first
    | assumption
    | exact .inr rfl
    | exact fun w => w
    | exact List.Subset.trans (by decide) hB
    | intro _
    | apply Keeps.ite
    | apply State.joinMap_keeps
    | apply State.modDomain_keeps
    | apply State.refresh_keeps
    | apply State.suppressDue_keeps
    | apply State.takeDown_keeps
    | apply State.unitGone_keeps

theorem State.leaveService_keeps {s₀ s : State} (h : Keeps B s₀ s)
    (hB : [Block.mbx, .mem, .heddles, .harnesses, .kvt, .ctxs, .sched, .rings, .streams, .reqs, .cuts, .relayed,
      .alerts, .twin, .ports, .obs, .out] ⊆ B) :
    Keeps B s₀ (State.leaveService s) := by
  unfold State.leaveService
  try dsimp only
  repeat' with_reducible first
    | assumption
    | exact .inr rfl
    | exact fun w => w
    | exact List.Subset.trans (by decide) hB
    | intro _
    | apply Keeps.ite
    | apply State.each_keeps
    | apply State.disableCtx_keeps
    | apply State.gstop_keeps
    | apply State.sendTwin_keeps
    | apply State.setOos_keeps
    | apply State.unpair_keeps

theorem State.retire_keeps {s₀ s : State} (h : Keeps B s₀ s)
    (hB : [Block.time, .mbx, .mem, .heddles, .harnesses, .looms, .scrub, .windows, .sealed, .kvt, .ctxs, .sched,
      .rings, .streams, .reqs, .history, .unitMap, .memChecks, .domains, .cuts, .relayed, .alerts, .twin, .ports,
      .obs, .agg, .out] ⊆ B) (kind idx cause : Nat) :
    Keeps B s₀ (State.retire s kind idx cause) := by
  unfold State.retire
  try dsimp only
  repeat' with_reducible first
    | assumption
    | exact .inr rfl
    | exact fun w => w
    | exact List.Subset.trans (by decide) hB
    | intro _
    | apply Keeps.ite
    | apply State.complete_keeps
    | apply State.healthEvent_keeps
    | apply State.leaveService_keeps
    | apply State.modDomain_keeps
    | apply State.permanent_keeps
    | split

/-! ## Faults -/

theorem State.notify_keeps {s₀ s : State} (h : Keeps B s₀ s) (hB : [Block.relayed, .ports, .out] ⊆ B) (e : LogEntry) :
    Keeps B s₀ (State.notify s e) := by
  unfold State.notify
  try dsimp only
  repeat' with_reducible first
    | assumption
    | exact .inr rfl
    | exact fun w => w
    | exact List.Subset.trans (by decide) hB
    | intro _
    | apply Keeps.ite
    | apply State.each_keeps
    | apply State.emit_keeps
    | apply State.originate_keeps

theorem State.declare_keeps {s₀ s : State} (h : Keeps B s₀ s)
    (hB : [Block.log, .storm, .relayed, .marks, .alerts, .ports, .out] ⊆ B) (kind idx det : Nat) :
    Keeps B s₀ (State.declare s kind idx det) := by
  unfold State.declare
  try dsimp only
  repeat' with_reducible first
    | assumption
    | exact .inr rfl
    | exact fun w => w
    | exact List.Subset.trans (by decide) hB
    | intro _
    | apply Keeps.ite
    | apply State.notify_keeps
    | apply State.pushLog_keeps
    | apply State.storm_keeps

theorem State.countEcho_keeps {s₀ s : State} (h : Keeps B s₀ s) (hB : [Block.storm] ⊆ B) :
    Keeps B s₀ (State.countEcho s) := by
  unfold State.countEcho
  try dsimp only
  repeat' with_reducible first
    | assumption
    | exact .inr rfl
    | exact .inl (inB hB (by decide))
    | exact fun w => w
    | intro _
    | apply Keeps.ite
    | (rw [State.mk_eq]; apply Keeps.upd)

theorem State.declareEcho_keeps {s₀ s : State} (h : Keeps B s₀ s)
    (hB : [Block.log, .storm, .relayed, .ports, .out] ⊆ B) (kind idx det : Nat) :
    Keeps B s₀ (State.declareEcho s kind idx det) := by
  unfold State.declareEcho
  try dsimp only
  repeat' with_reducible first
    | assumption
    | exact .inr rfl
    | exact fun w => w
    | exact List.Subset.trans (by decide) hB
    | intro _
    | apply Keeps.ite
    | apply State.countEcho_keeps
    | apply State.notify_keeps
    | apply State.pushLog_keeps

theorem State.fence_keeps {s₀ s : State} (h : Keeps B s₀ s)
    (hB : [Block.mbx, .mem, .heddles, .harnesses, .kvt, .ctxs, .sched, .rings, .streams, .reqs, .domains, .cuts,
      .relayed, .ports, .obs, .out] ⊆ B) (kind idx det orig seq : Nat) :
    Keeps B s₀ (State.fence s kind idx det orig seq) := by
  unfold State.fence
  try dsimp only
  repeat' with_reducible first
    | assumption
    | exact .inr rfl
    | exact fun w => w
    | exact List.Subset.trans (by decide) hB
    | intro _
    | apply Keeps.ite
    | apply State.each_keeps
    | apply State.gstop_keeps
    | apply State.modDomain_keeps
    | apply State.suppressDue_keeps

theorem State.countModule_keeps {s₀ s : State} (h : Keeps B s₀ s) (hB : [Block.modResets, .alerts, .out] ⊆ B) :
    Keeps B s₀ (State.countModule s) := by
  unfold State.countModule
  try dsimp only
  repeat' with_reducible first
    | assumption
    | exact .inr rfl
    | exact .inl (inB hB (by decide))
    | exact fun w => w
    | exact List.Subset.trans (by decide) hB
    | intro _
    | apply Keeps.ite
    | apply State.setOos_keeps
    | (rw [State.mk_eq]; apply Keeps.upd)

theorem State.moduleReset_keeps {s₀ s : State} (h : Keeps B s₀ s)
    (hB : [Block.mbx, .mem, .heddles, .harnesses, .kvt, .ctxs, .sched, .rings, .streams, .reqs, .log, .storm,
      .domains, .modResets, .cuts, .relayed, .marks, .alerts, .twin, .ports, .obs, .out] ⊆ B) (det : Nat) :
    Keeps B s₀ (State.moduleReset s det) := by
  unfold State.moduleReset
  try dsimp only
  repeat' with_reducible first
    | assumption
    | exact .inr rfl
    | exact fun w => w
    | exact List.Subset.trans (by decide) hB
    | intro _
    | apply Keeps.ite
    | apply State.each_keeps
    | apply State.countModule_keeps
    | apply State.declare_keeps
    | apply State.declareEcho_keeps
    | apply State.fence_keeps
    | apply State.gstop_keeps
    | apply State.modDomain_keeps
    | apply State.sendTwin_keeps
    | apply State.unpair_keeps

theorem State.fault_keeps {s₀ s : State} (h : Keeps B s₀ s)
    (hB : [Block.mbx, .mem, .heddles, .harnesses, .kvt, .ctxs, .sched, .rings, .streams, .reqs, .log, .storm,
      .domains, .modResets, .cuts, .relayed, .marks, .alerts, .twin, .ports, .obs, .out] ⊆ B) (kind idx det : Nat) :
    Keeps B s₀ (State.fault s kind idx det) := by
  unfold State.fault
  try dsimp only
  repeat' with_reducible first
    | assumption
    | exact .inr rfl
    | exact fun w => w
    | exact List.Subset.trans (by decide) hB
    | intro _
    | apply Keeps.ite
    | apply State.declare_keeps
    | apply State.declareEcho_keeps
    | apply State.fence_keeps
    | apply State.moduleReset_keeps

theorem State.sramStruck_keeps {s₀ s : State} (h : Keeps B s₀ s)
    (hB : [Block.mbx, .mem, .heddles, .harnesses, .kvt, .ctxs, .sched, .rings, .streams, .reqs, .memChecks, .log,
      .storm, .domains, .modResets, .cuts, .relayed, .marks, .alerts, .twin, .ports, .obs, .out] ⊆ B) (c slot : Nat)
      (ups : List Upset) :
    Keeps B s₀ (State.sramStruck s c slot ups) := by
  unfold State.sramStruck
  try dsimp only
  repeat' with_reducible first
    | assumption
    | exact .inr rfl
    | exact fun w => w
    | exact List.Subset.trans (by decide) hB
    | intro _
    | apply Keeps.ite
    | apply State.each_keeps
    | apply State.check_keeps
    | apply State.eccCorrected_keeps
    | apply State.eccUncorrected_keeps
    | apply State.fault_keeps
    | split

theorem State.harnessReset_keeps {s₀ s : State} (h : Keeps B s₀ s)
    (hB : [Block.mbx, .mem, .heddles, .harnesses, .kvt, .ctxs, .sched, .rings, .streams, .reqs, .log, .storm,
      .domains, .modResets, .cuts, .relayed, .marks, .alerts, .twin, .ports, .obs, .out] ⊆ B) (h : Nat) :
    Keeps B s₀ (State.harnessReset s h) := by
  unfold State.harnessReset
  try dsimp only
  repeat' with_reducible first
    | assumption
    | exact .inr rfl
    | exact fun w => w
    | exact List.Subset.trans (by decide) hB
    | intro _
    | apply Keeps.ite
    | apply State.fault_keeps
    | apply State.modHarness_keeps

theorem State.countReset_keeps {s₀ s : State} (h : Keeps B s₀ s)
    (hB : [Block.time, .mbx, .mem, .heddles, .harnesses, .looms, .scrub, .windows, .sealed, .kvt, .ctxs, .sched,
      .rings, .streams, .reqs, .history, .unitMap, .memChecks, .domains, .cuts, .relayed, .alerts, .twin, .ports,
      .obs, .agg, .out] ⊆ B) (kind idx t : Nat) :
    Keeps B s₀ (State.countReset s kind idx t) := by
  unfold State.countReset
  try dsimp only
  repeat' with_reducible first
    | assumption
    | exact .inr rfl
    | exact fun w => w
    | exact List.Subset.trans (by decide) hB
    | intro _
    | apply Keeps.ite
    | apply State.modDomain_keeps
    | apply State.retire_keeps

theorem State.decide?_keeps {s₀ s : State} (h : Keeps B s₀ s)
    (hB : [Block.time, .mbx, .mem, .heddles, .harnesses, .looms, .scrub, .windows, .sealed, .kvt, .ctxs, .sched,
      .rings, .streams, .reqs, .history, .unitMap, .memChecks, .log, .domains, .cuts, .relayed, .alerts, .twin,
      .ports, .obs, .agg, .out] ⊆ B) (key from_ : Nat) :
    Keeps B s₀ (State.decide? s key from_) := by
  unfold State.decide?
  try dsimp only
  repeat' with_reducible first
    | assumption
    | exact .inr rfl
    | exact .inl (inB hB (by decide))
    | exact fun w => w
    | exact List.Subset.trans (by decide) hB
    | intro _
    | apply Keeps.ite
    | apply State.each_keeps
    | apply State.countReset_keeps
    | apply State.modDomain_keeps
    | (rw [State.mk_eq]; apply Keeps.upd)

/-! ## ModReset -/

theorem State.reboot_keeps {s₀ s : State} (h : Keeps B s₀ s)
    (hB : [Block.clk, .time, .pwr, .hs, .sec, .acc, .mbx, .mem, .heddles, .harnesses, .looms, .scrub, .windows,
      .sealed, .kvt, .ctxs, .sched, .rings, .streams, .tenants, .reqs, .engine, .unitMap, .packs, .twill, .storm,
      .domains, .dumps, .cuts, .relayed, .alerts, .twin, .ports, .thm, .mon, .obs] ⊆ B) :
    Keeps B s₀ (State.reboot s) := by
  unfold State.reboot
  try dsimp only
  repeat' with_reducible first
    | assumption
    | exact .inl (inB hB (by decide))
    | exact .inr rfl
    | exact fun w => w
    | exact List.Subset.trans (by decide) hB
    | intro _
    | apply Keeps.ite
    | apply foldl_keeps
    | apply State.alertHsShutdown_keeps
    | apply State.alertHsTherm_keeps
    | apply State.alertLinkFail_keeps
    | apply State.alertStorm_keeps
    | apply State.alertThermal_keeps
    | apply State.tagSeed_keeps
    | (rw [State.mk_eq]; apply Keeps.upd)
    | exact fun _ => Memory.wf_empty
    | refine Keeps.snd (by assumption) ?_
    | refine Keeps.fst (by assumption) ?_
    | exact Memory.wf_foldl _ (fun _ _ w => Memory.wf_zeroRange w _ _) _ ‹_›

/-! ## Phases -/

theorem State.stopFlight_keeps {s₀ s : State} (h : Keeps B s₀ s)
    (hB : [Block.mem, .kvt, .ctxs, .sched, .ports, .obs, .out] ⊆ B) (r : Run) :
    Keeps B s₀ (State.stopFlight s r) := by
  unfold State.stopFlight
  try dsimp only
  repeat' with_reducible first
    | assumption
    | exact .inr rfl
    | exact .inl (inB hB (by decide))
    | exact fun w => w
    | exact List.Subset.trans (by decide) hB
    | intro _
    | apply Keeps.ite
    | apply State.abandon_keeps
    | apply State.check_keeps
    | apply State.freeUnit_keeps
    | apply State.refresh_keeps
    | (rw [State.mk_eq]; apply Keeps.upd)

theorem State.storeDump_keeps {s₀ s : State} (h : Keeps B s₀ s) (hB : [Block.log, .dumps, .marks] ⊆ B) (d : Dump) :
    Keeps B s₀ (State.storeDump s d) := by
  unfold State.storeDump
  try dsimp only
  repeat' with_reducible first
    | assumption
    | exact .inr rfl
    | exact .inl (inB hB (by decide))
    | exact fun w => w
    | intro _
    | apply Keeps.ite
    | (rw [State.mk_eq]; apply Keeps.upd)

theorem State.resetHarness_keeps {s₀ s : State} (h : Keeps B s₀ s)
    (hB : [Block.heddles, .harnesses, .windows] ⊆ B) (h : Nat) :
    Keeps B s₀ (State.resetHarness s h) := by
  unfold State.resetHarness
  try dsimp only
  repeat' with_reducible first
    | assumption
    | exact .inr rfl
    | exact fun w => w
    | exact List.Subset.trans (by decide) hB
    | intro _
    | apply Keeps.ite
    | apply State.each_keeps
    | apply State.dropWindow_keeps
    | apply State.modHarness_keeps
    | apply State.modHeddle_keeps

theorem State.resetBeaters_keeps {s₀ s : State} (h : Keeps B s₀ s) (hB : [Block.heddles] ⊆ B) (l : Nat) :
    Keeps B s₀ (State.resetBeaters s l) := by
  unfold State.resetBeaters
  try dsimp only
  repeat' with_reducible first
    | assumption
    | exact .inr rfl
    | exact .inl (inB hB (by decide))
    | exact fun w => w
    | intro _
    | apply Keeps.ite
    | (rw [State.mk_eq]; apply Keeps.upd)

theorem State.resetPort_keeps {s₀ s : State} (h : Keeps B s₀ s) (hB : [Block.time, .ports] ⊆ B) (p : Nat) :
    Keeps B s₀ (State.resetPort s p) := by
  unfold State.resetPort
  try dsimp only
  repeat' with_reducible first
    | assumption
    | exact .inr rfl
    | exact fun w => w
    | exact List.Subset.trans (by decide) hB
    | intro _
    | apply Keeps.ite
    | apply State.fresh_keeps
    | apply State.modPort_keeps
    | apply State.upstreamDown_keeps

theorem State.resetShuttle_keeps {s₀ s : State} (h : Keeps B s₀ s) (hB : [Block.kvt] ⊆ B) (n : Nat) :
    Keeps B s₀ (State.resetShuttle s n) := by
  unfold State.resetShuttle
  try dsimp only
  repeat' with_reducible first
    | assumption
    | exact .inr rfl
    | exact fun w => w
    | exact List.Subset.trans (by decide) hB
    | intro _
    | apply Keeps.ite
    | apply State.modShuttle_keeps

theorem State.endMailboxes_keeps {s₀ s : State} (h : Keeps B s₀ s) (hB : [Block.mbx, .out] ⊆ B) :
    Keeps B s₀ (State.endMailboxes s) := by
  unfold State.endMailboxes
  try dsimp only
  repeat' with_reducible first
    | assumption
    | exact .inr rfl
    | exact fun w => w
    | exact List.Subset.trans (by decide) hB
    | intro _
    | apply Keeps.ite
    | apply State.each_keeps
    | apply State.complete_keeps

theorem State.resetWeaver_keeps {s₀ s : State} (h : Keeps B s₀ s)
    (hB : [Block.time, .pwr, .mbx, .heddles, .harnesses, .kvt, .ctxs, .domains, .out] ⊆ B) :
    Keeps B s₀ (State.resetWeaver s) := by
  unfold State.resetWeaver
  try dsimp only
  repeat' with_reducible first
    | assumption
    | exact .inr rfl
    | exact .inl (inB hB (by decide))
    | exact fun w => w
    | exact List.Subset.trans (by decide) hB
    | intro _
    | apply Keeps.ite
    | apply State.each_keeps
    | apply State.dropHeld_keeps
    | apply State.endMailboxes_keeps
    | (rw [State.mk_eq]; apply Keeps.upd)

theorem State.resetCrypto_keeps {s₀ s : State} (h : Keeps B s₀ s)
    (hB : [Block.mbx, .heddles, .harnesses, .ctxs, .out] ⊆ B) :
    Keeps B s₀ (State.resetCrypto s) := by
  unfold State.resetCrypto
  try dsimp only
  repeat' with_reducible first
    | assumption
    | exact .inr rfl
    | exact fun w => w
    | exact List.Subset.trans (by decide) hB
    | intro _
    | apply Keeps.ite
    | apply State.each_keeps
    | apply State.complete_keeps
    | apply State.endHeld_keeps

theorem State.clearSels_keeps {s₀ s : State} (h : Keeps B s₀ s) (hB : [Block.acc] ⊆ B) (f : Selectors → Selectors) :
    Keeps B s₀ (State.clearSels s f) := by
  unfold State.clearSels
  try dsimp only
  repeat' with_reducible first
    | assumption
    | exact .inr rfl
    | exact .inl (inB hB (by decide))
    | exact fun w => w
    | intro _
    | apply Keeps.ite
    | (rw [State.mk_eq]; apply Keeps.upd)

theorem State.resetHub_keeps {s₀ s : State} (h : Keeps B s₀ s)
    (hB : [Block.time, .pwr, .sec, .acc, .mbx, .heddles, .harnesses, .kvt, .ctxs, .rings, .reqs, .domains, .out] ⊆
      B) (i : Nat) :
    Keeps B s₀ (State.resetHub s i) := by
  unfold State.resetHub
  try dsimp only
  repeat' with_reducible first
    | assumption
    | exact .inr rfl
    | exact .inl (inB hB (by decide))
    | exact fun w => w
    | exact List.Subset.trans (by decide) hB
    | intro _
    | apply Keeps.ite
    | apply State.clearSels_keeps
    | apply State.resetCrypto_keeps
    | apply State.resetWeaver_keeps
    | (rw [State.mk_eq]; apply Keeps.upd)
    | split

theorem State.resetStore_keeps {s₀ s : State} (h : Keeps B s₀ s) (hB : [Block.mem, .sealed] ⊆ B) (i : Nat) :
    Keeps B s₀ (State.resetStore s i) := by
  unfold State.resetStore
  try dsimp only
  repeat' with_reducible first
    | assumption
    | exact .inr rfl
    | exact .inl (inB hB (by decide))
    | exact fun w => w
    | exact List.Subset.trans (by decide) hB
    | intro _
    | apply Keeps.ite
    | apply State.zero_keeps
    | (rw [State.mk_eq]; apply Keeps.upd)

theorem State.resetLoom_keeps {s₀ s : State} (h : Keeps B s₀ s)
    (hB : [Block.time, .mem, .heddles, .looms, .sealed, .kvt, .ports] ⊆ B) (i : Nat) :
    Keeps B s₀ (State.resetLoom s i) := by
  unfold State.resetLoom
  try dsimp only
  repeat' with_reducible first
    | assumption
    | exact .inr rfl
    | exact fun w => w
    | exact List.Subset.trans (by decide) hB
    | intro _
    | apply Keeps.ite
    | apply State.each_keeps
    | apply State.modLoom_keeps
    | apply State.resetBeaters_keeps
    | apply State.resetPort_keeps
    | apply State.resetShuttle_keeps
    | apply State.resetStore_keeps

theorem State.resetIslands_keeps {s₀ s : State} (h : Keeps B s₀ s)
    (hB : [Block.time, .pwr, .sec, .acc, .mbx, .mem, .heddles, .harnesses, .looms, .windows, .sealed, .kvt, .ctxs,
      .rings, .reqs, .domains, .ports, .out] ⊆ B) (kind i : Nat) :
    Keeps B s₀ (State.resetIslands s kind i) := by
  unfold State.resetIslands
  try dsimp only
  repeat' with_reducible first
    | assumption
    | exact .inr rfl
    | exact fun w => w
    | exact List.Subset.trans (by decide) hB
    | intro _
    | apply Keeps.ite
    | apply State.each_keeps
    | apply State.resetHarness_keeps
    | apply State.resetHub_keeps
    | apply State.resetLoom_keeps
    | apply State.resetPort_keeps
    | apply State.resetShuttle_keeps
    | split

theorem State.forgetSteps_keeps {s₀ s : State} (h : Keeps B s₀ s) (hB : [Block.sched] ⊆ B) (kind i : Nat) :
    Keeps B s₀ (State.forgetSteps s kind i) := by
  unfold State.forgetSteps
  try dsimp only
  repeat' with_reducible first
    | assumption
    | exact .inr rfl
    | exact .inl (inB hB (by decide))
    | exact fun w => w
    | exact List.Subset.trans (by decide) hB
    | intro _
    | apply Keeps.ite
    | apply State.fresh_keeps
    | (rw [State.mk_eq]; apply Keeps.upd)

theorem State.restoreHarness_keeps {s₀ s : State} (h : Keeps B s₀ s)
    (hB : [Block.heddles, .harnesses, .looms, .scrub, .windows, .history, .memChecks, .obs, .agg] ⊆ B) (h : Nat) :
    Keeps B s₀ (State.restoreHarness s h) := by
  unfold State.restoreHarness
  try dsimp only
  repeat' with_reducible first
    | assumption
    | exact .inr rfl
    | exact fun w => w
    | exact List.Subset.trans (by decide) hB
    | intro _
    | apply Keeps.ite
    | apply State.scrubHarness_keeps
    | apply State.trimmed_keeps

/-! ## Recovery -/

theorem State.sramRead_keeps {s₀ s : State} (h : Keeps B s₀ s)
    (hB : [Block.memChecks, .obs] ⊆ B) (bits : List (BitVec 64)) :
    Keeps B s₀ (State.sramRead s bits).2 := by
  unfold State.sramRead
  try dsimp only
  repeat' with_reducible first
    | assumption
    | exact .inr rfl
    | exact fun w => w
    | exact List.Subset.trans (by decide) hB
    | intro _
    | apply Keeps.ite
    | apply State.each_keeps
    | apply State.eccCorrected_keeps
    | apply State.eccUncorrected_keeps

theorem State.noteDamage_keeps {s₀ s : State} (h : Keeps B s₀ s) (hB : [Block.dumps, .marks] ⊆ B) :
    Keeps B s₀ (State.noteDamage s) := by
  unfold State.noteDamage
  try dsimp only
  repeat' with_reducible first
    | assumption
    | exact .inr rfl
    | exact .inl (inB hB (by decide))
    | exact fun w => w
    | intro _
    | apply Keeps.ite
    | (rw [State.mk_eq]; apply Keeps.upd)

end Sys2Proof.Machine
end

