-- ==== Sys2Proof/Laws/KeepsRun.lean ====
section
/-! SUPPORT. Every operation keeps the queue and memory's canonical form (`Keeps`):
admission, sampling, emission, plans, weights, launch and switching. One
lemma an operation: `State.<name>_keeps`, `hB` lists the blocks it may change. -/

namespace Sys2Proof.Machine

variable {B : List Block}

/-! ## Admission -/

theorem State.mapFrame_keeps {s₀ s : State} (h : Keeps B s₀ s)
    (hB : [Block.mem, .kvt, .ctxs, .streams, .history, .memChecks, .obs, .agg] ⊆ B) (c t a n frame : Nat) :
    Keeps B s₀ (State.mapFrame s c t a n frame) := by
  unfold State.mapFrame
  try dsimp only
  repeat' with_reducible first
    | assumption
    | exact .inr rfl
    | exact fun w => w
    | exact List.Subset.trans (by decide) hB
    | intro _
    | apply Keeps.ite
    | apply foldl_keeps
    | apply State.checkedRead_keeps
    | apply State.mapPage_keeps
    | apply State.unitWrite_keeps
    | apply State.write_keeps
    | exact fun _ => Memory.wf_empty
    | apply State.setMem_keeps
    | exact fun w => Memory.wf_foldl _ (fun _ _ h => Memory.wf_addErr h _ _) _ w
    | refine Keeps.snd (by assumption) ?_
    | refine Keeps.fst (by assumption) ?_
    | exact Memory.wf_foldl _ (fun _ _ h => Memory.wf_addErr h _ _) _ (by assumption)

theorem State.mapFrames_keeps {s₀ s : State} (h : Keeps B s₀ s)
    (hB : [Block.mem, .kvt, .ctxs, .streams, .history, .memChecks, .obs, .agg] ⊆ B) (c t len : Nat) :
    Keeps B s₀ (State.mapFrames s c t len) := by
  unfold State.mapFrames
  try dsimp only
  repeat' with_reducible first
    | assumption
    | exact .inr rfl
    | exact fun w => w
    | exact List.Subset.trans (by decide) hB
    | intro _
    | apply Keeps.ite
    | apply State.each_keeps
    | apply State.mapFrame_keeps

theorem State.admitReq_keeps {s₀ s : State} (h : Keeps B s₀ s)
    (hB : [Block.mem, .kvt, .ctxs, .streams, .reqs, .history, .memChecks, .obs, .agg] ⊆ B) (c k from_ : Nat) (q :
      Request) :
    Keeps B s₀ (State.admitReq s c k from_ q) := by
  unfold State.admitReq
  try dsimp only
  repeat' with_reducible first
    | assumption
    | exact .inr rfl
    | exact fun w => w
    | exact List.Subset.trans (by decide) hB
    | intro _
    | apply Keeps.ite
    | apply State.mapFrames_keeps
    | apply State.modBatch_keeps
    | apply State.modCtl_keeps
    | apply State.modCtx_keeps
    | apply State.modRequest_keeps
    | apply State.perf_keeps
    | apply State.resetStream_keeps

theorem State.searchRing_keeps {s₀ s : State} (h : Keeps B s₀ s)
    (hB : [Block.mem, .kvt, .ctxs, .rings, .streams, .reqs, .history, .memChecks, .obs, .agg] ⊆ B) (c k b from_ :
      Nat) (x0 : Bool) (x1 : List Request) :
    Keeps B s₀ (State.searchRing c k b from_ x0 x1 s).1 := by
  induction x1 generalizing s x0 with
  | nil => exact h
  | cons q t ih =>
    unfold State.searchRing
    repeat' with_reducible first
      | assumption
      | exact List.Subset.trans (by decide) hB
      | apply ih
      | apply State.admitReq_keeps
      | apply State.prune_keeps
      | apply State.finish_keeps
      | split

theorem State.searchRings_keeps {s₀ s : State} (h : Keeps B s₀ s)
    (hB : [Block.mem, .kvt, .ctxs, .rings, .streams, .reqs, .history, .memChecks, .obs, .agg] ⊆ B) (c k b from_ :
      Nat) (x0 : List Nat) :
    Keeps B s₀ (State.searchRings c k b from_ x0 s) := by
  induction x0 generalizing s with
  | nil => exact h
  | cons r t ih =>
    have k := State.searchRing_keeps h (List.Subset.trans (by decide) hB) c k b from_ true (s.pendingOf r)
    unfold State.searchRings
    split
    · exact Keeps.fst ‹_› k
    · exact ih (Keeps.fst ‹_› k)

theorem State.visitSlot_keeps {s₀ s : State} (h : Keeps B s₀ s)
    (hB : [Block.mem, .kvt, .ctxs, .rings, .streams, .reqs, .history, .memChecks, .obs, .agg] ⊆ B) (c k b from_ :
      Nat) (fill : Bool) :
    Keeps B s₀ (State.visitSlot s c k b from_ fill) := by
  unfold State.visitSlot
  try dsimp only
  repeat' with_reducible first
    | assumption
    | exact .inr rfl
    | exact fun w => w
    | exact List.Subset.trans (by decide) hB
    | intro _
    | apply Keeps.ite
    | apply State.modBatch_keeps
    | apply State.prune_keeps
    | apply State.searchRings_keeps

theorem State.batchBoundary_keeps {s₀ s : State} (h : Keeps B s₀ s)
    (hB : [Block.mem, .heddles, .harnesses, .looms, .scrub, .windows, .ctxs, .history, .memChecks, .twin, .obs,
      .agg] ⊆ B) (c : Nat) :
    Keeps B s₀ (State.batchBoundary s c) := by
  unfold State.batchBoundary
  try dsimp only
  repeat' with_reducible first
    | assumption
    | exact .inr rfl
    | exact fun w => w
    | exact List.Subset.trans (by decide) hB
    | intro _
    | apply Keeps.ite
    | apply State.flipReady_keeps
    | apply State.modCtl_keeps

theorem State.batchWork_keeps {s₀ s : State} (h : Keeps B s₀ s)
    (hB : [Block.mbx, .mem, .heddles, .harnesses, .looms, .scrub, .windows, .kvt, .ctxs, .sched, .rings, .streams,
      .reqs, .history, .memChecks, .log, .storm, .domains, .modResets, .cuts, .relayed, .marks, .alerts, .twin,
      .ports, .obs, .agg, .out] ⊆ B) (c : Nat) (d : Due) (st : PlanStep) (ups : List Upset) :
    Keeps B s₀ (State.batchWork s c d st ups) := by
  unfold State.batchWork
  try dsimp only
  repeat' with_reducible first
    | assumption
    | exact .inr rfl
    | exact fun w => w
    | exact List.Subset.trans (by decide) hB
    | intro _
    | apply Keeps.ite
    | apply State.each_keeps
    | apply State.batchBoundary_keeps
    | apply State.pageBoundary_keeps
    | apply State.sramStruck_keeps
    | apply State.visitSlot_keeps

/-! ## Sample -/

theorem State.sampleWork_keeps {s₀ s : State} (h : Keeps B s₀ s)
    (hB : [Block.tick, .mbx, .mem, .heddles, .harnesses, .looms, .kvt, .ctxs, .sched, .rings, .streams, .reqs,
      .history, .packs, .memChecks, .log, .storm, .domains, .modResets, .cuts, .relayed, .marks, .alerts, .twin,
      .ports, .obs, .agg, .out] ⊆ B) (c : Nat) (d : Due) (st : PlanStep) (ups : List Upset) :
    Keeps B s₀ (State.sampleWork s c d st ups) := by
  unfold State.sampleWork
  try dsimp only
  repeat' with_reducible first
    | assumption
    | exact .inr rfl
    | exact fun w => w
    | exact List.Subset.trans (by decide) hB
    | intro _
    | apply Keeps.ite
    | apply State.each_keeps
    | apply State.consume_keeps
    | apply State.consumeAll_keeps
    | apply State.fold_keeps
    | apply State.raiseNonfinite_keeps
    | apply State.report_keeps
    | apply State.seenBy_keeps
    | apply State.sramStruck_keeps
    | apply State.unitRead_keeps
    | apply State.unitStore_keeps
    | split

/-! ## Emit -/

theorem State.noteReplay_keeps {s₀ s : State} (h : Keeps B s₀ s) (hB : [Block.ctxs] ⊆ B) (c : Nat) :
    Keeps B s₀ (State.noteReplay s c) := by
  unfold State.noteReplay
  try dsimp only
  repeat' with_reducible first
    | assumption
    | exact .inr rfl
    | exact fun w => w
    | exact List.Subset.trans (by decide) hB
    | intro _
    | apply Keeps.ite
    | apply State.modRecs_keeps

theorem State.judge_keeps {s₀ s : State} (h : Keeps B s₀ s)
    (hB : [Block.mem, .scrub, .ctxs, .history, .packs, .memChecks, .obs, .agg] ⊆ B) (c k : Nat) :
    Keeps B s₀ (State.judge s c k).1 := by
  unfold State.judge
  try dsimp only
  repeat' with_reducible first
    | assumption
    | exact .inr rfl
    | exact fun w => w
    | exact List.Subset.trans (by decide) hB
    | intro _
    | apply Keeps.ite
    | apply State.check_keeps
    | apply State.countFlags_keeps
    | apply State.judgeTargets_keeps
    | apply State.modBatch_keeps
    | apply State.noteReplay_keeps
    | apply State.repairCopies_keeps
    | split

theorem State.commitTo_keeps {s₀ s : State} (h : Keeps B s₀ s) (hB : [Block.mem, .twin] ⊆ B) (c t p : Nat) :
    Keeps B s₀ (State.commitTo s c t p) := by
  unfold State.commitTo
  try dsimp only
  repeat' with_reducible first
    | assumption
    | exact .inr rfl
    | exact fun w => w
    | exact List.Subset.trans (by decide) hB
    | intro _
    | apply Keeps.ite
    | apply State.setCommit_keeps
    | apply State.shadowDirty_keeps

theorem State.settlePrompt_keeps {s₀ s : State} (h : Keeps B s₀ s)
    (hB : [Block.mem, .scrub, .ctxs, .history, .packs, .memChecks, .twin, .obs, .agg] ⊆ B) (c k : Nat) :
    Keeps B s₀ (State.settlePrompt s c k) := by
  unfold State.settlePrompt
  try dsimp only
  repeat' with_reducible first
    | assumption
    | exact .inr rfl
    | exact fun w => w
    | exact List.Subset.trans (by decide) hB
    | intro _
    | apply Keeps.ite
    | apply State.commitTo_keeps
    | apply State.judge_keeps
    | apply State.modBatch_keeps
    | refine Keeps.snd (by assumption) ?_
    | refine Keeps.fst (by assumption) ?_
    | split

theorem State.commitPrompt_keeps {s₀ s : State} (h : Keeps B s₀ s) (hB : [Block.mem, .twin] ⊆ B) (c k : Nat) :
    Keeps B s₀ (State.commitPrompt s c k) := by
  unfold State.commitPrompt
  try dsimp only
  repeat' with_reducible first
    | assumption
    | exact .inr rfl
    | exact fun w => w
    | exact List.Subset.trans (by decide) hB
    | intro _
    | apply Keeps.ite
    | apply State.commitTo_keeps
    | split

theorem State.promptCheck_keeps {s₀ s : State} (h : Keeps B s₀ s)
    (hB : [Block.mem, .scrub, .ctxs, .history, .packs, .memChecks, .twin, .obs, .agg] ⊆ B) (c k : Nat) :
    Keeps B s₀ (State.promptCheck s c k) := by
  unfold State.promptCheck
  try dsimp only
  repeat' with_reducible first
    | assumption
    | exact .inr rfl
    | exact fun w => w
    | exact List.Subset.trans (by decide) hB
    | intro _
    | apply Keeps.ite
    | apply State.commitPrompt_keeps
    | apply State.settlePrompt_keeps

theorem State.twillMismatch_keeps {s₀ s : State} (h : Keeps B s₀ s)
    (hB : [Block.history, .packs, .twill] ⊆ B) (c k : Nat) (b : BatchSlot) :
    Keeps B s₀ (State.twillMismatch s c k b) := by
  unfold State.twillMismatch
  try dsimp only
  repeat' with_reducible first
    | assumption
    | exact .inr rfl
    | exact .inl (inB hB (by decide))
    | exact fun w => w
    | exact List.Subset.trans (by decide) hB
    | intro _
    | apply Keeps.ite
    | apply State.each_keeps
    | apply State.capture_keeps
    | apply State.healthEvent_keeps
    | (rw [State.mk_eq]; apply Keeps.upd)
    | refine Keeps.snd (by assumption) ?_
    | refine Keeps.fst (by assumption) ?_
    | split

theorem State.twillCompare_keeps {s₀ s : State} (h : Keeps B s₀ s)
    (hB : [Block.ctxs, .history, .packs, .twill] ⊆ B) (c k : Nat) :
    Keeps B s₀ (State.twillCompare s c k) := by
  unfold State.twillCompare
  try dsimp only
  repeat' with_reducible first
    | assumption
    | exact .inr rfl
    | exact fun w => w
    | exact List.Subset.trans (by decide) hB
    | intro _
    | apply Keeps.ite
    | apply State.modBatch_keeps
    | apply State.twillMismatch_keeps

theorem State.noteStatus_keeps {s₀ s : State} (h : Keeps B s₀ s)
    (hB : [Block.ctxs] ⊆ B) (c stream status : Nat) (word : Word) (held : Bool) :
    Keeps B s₀ (State.noteStatus s c stream status word held) := by
  unfold State.noteStatus
  try dsimp only
  repeat' with_reducible first
    | assumption
    | exact .inr rfl
    | exact fun w => w
    | exact List.Subset.trans (by decide) hB
    | intro _
    | apply Keeps.ite
    | apply State.modRecs_keeps

theorem State.clearChecks_keeps {s₀ s : State} (h : Keeps B s₀ s) (hB : [Block.ctxs] ⊆ B) (c k : Nat) :
    Keeps B s₀ (State.clearChecks s c k) := by
  unfold State.clearChecks
  try dsimp only
  repeat' with_reducible first
    | assumption
    | exact .inr rfl
    | exact fun w => w
    | exact List.Subset.trans (by decide) hB
    | intro _
    | apply Keeps.ite
    | apply State.check_keeps
    | apply State.modBatch_keeps

theorem State.emitCancelled_keeps {s₀ s : State} (h : Keeps B s₀ s)
    (hB : [Block.mem, .scrub, .ctxs, .rings, .tenants, .reqs, .history, .packs] ⊆ B) (c k w : Nat) (q : Request)
      (status : Nat) :
    Keeps B s₀ (State.emitCancelled s c k w q status) := by
  unfold State.emitCancelled
  try dsimp only
  repeat' with_reducible first
    | assumption
    | exact .inr rfl
    | exact fun w => w
    | exact List.Subset.trans (by decide) hB
    | intro _
    | apply Keeps.ite
    | apply State.charge_keeps
    | apply State.clearChecks_keeps
    | apply State.countFlags_keeps
    | apply State.finish_keeps
    | apply State.judgeTargets_keeps

theorem State.emitFailed_keeps {s₀ s : State} (h : Keeps B s₀ s)
    (hB : [Block.ctxs, .rings, .tenants, .reqs] ⊆ B) (c k w : Nat) (q : Request) (status y pos a : Nat) (check :
      Check) (held : Bool) :
    Keeps B s₀ (State.emitFailed s c k w q status y pos a check held) := by
  unfold State.emitFailed
  try dsimp only
  repeat' with_reducible first
    | assumption
    | exact .inr rfl
    | exact fun w => w
    | exact List.Subset.trans (by decide) hB
    | intro _
    | apply Keeps.ite
    | apply State.charge_keeps
    | apply State.check_keeps
    | apply State.clearChecks_keeps
    | apply State.finish_keeps
    | apply State.lateCancels_keeps
    | apply State.modRequest_keeps
    | apply State.noteStatus_keeps
    | apply State.putRecord_keeps

theorem State.putTokens_keeps {s₀ s : State} (h : Keeps B s₀ s) (hB : [Block.rings] ⊆ B) (w : Nat) (q : Request)
    (word : Word) (pos index proposed : Nat) (final : Bool) (ys : List Nat) :
    Keeps B s₀ (State.putTokens s w q word pos index proposed final ys) := by
  induction ys generalizing s pos index proposed with
  | nil => exact h
  | cons y ys ih => exact ih (State.putRecord_keeps h hB ..) ..

theorem State.emitTokens_keeps {s₀ s : State} (h : Keeps B s₀ s)
    (hB : [Block.mem, .scrub, .ctxs, .rings, .tenants, .reqs, .history, .packs, .twin, .obs] ⊆ B) (c k w : Nat) (q :
      Request) (ys : List Nat) (pos a : Nat) (check : Check) (advance : Bool) :
    Keeps B s₀ (State.emitTokens s c k w q ys pos a check advance) := by
  unfold State.emitTokens
  try dsimp only
  repeat' with_reducible first
    | assumption
    | exact .inr rfl
    | exact fun w => w
    | exact List.Subset.trans (by decide) hB
    | intro _
    | apply Keeps.ite
    | apply State.charge_keeps
    | apply State.check_keeps
    | apply State.clearChecks_keeps
    | apply State.emitCancelled_keeps
    | apply State.lateCancels_keeps
    | apply State.modBatch_keeps
    | apply State.modRequest_keeps
    | apply State.modRing_keeps
    | apply State.noteStatus_keeps
    | apply State.perf_keeps
    | apply State.setCommit_keeps
    | apply State.shadowDirty_keeps
    | apply State.putTokens_keeps

theorem State.noteSpec_keeps {s₀ s : State} (h : Keeps B s₀ s)
    (hB : [Block.ctxs, .obs] ⊆ B) (c k : Nat) (q : Request) (a : Nat) :
    Keeps B s₀ (State.noteSpec s c k q a) := by
  unfold State.noteSpec
  try dsimp only
  repeat' with_reducible first
    | assumption
    | exact .inr rfl
    | exact fun w => w
    | exact List.Subset.trans (by decide) hB
    | intro _
    | apply Keeps.ite
    | apply State.modRecs_keeps
    | apply State.perf_keeps

theorem State.emitWindow_keeps {s₀ s : State} (h : Keeps B s₀ s)
    (hB : [Block.mem, .scrub, .ctxs, .rings, .tenants, .reqs, .history, .packs, .twin, .obs] ⊆ B) (c k p : Nat) (q :
      Request) (w : Nat) (main prop : List Nat) :
    Keeps B s₀ (State.emitWindow s c k p q w main prop) := by
  unfold State.emitWindow
  try dsimp only
  repeat' with_reducible first
    | assumption
    | exact .inr rfl
    | exact fun w => w
    | exact List.Subset.trans (by decide) hB
    | intro _
    | apply Keeps.ite
    | apply State.check_keeps
    | apply State.emitFailed_keeps
    | apply State.emitTokens_keeps
    | apply State.modBatch_keeps
    | apply State.modRequest_keeps
    | apply State.noteSpec_keeps
    | apply State.perf_keeps

theorem State.emitWork_keeps {s₀ s : State} (h : Keeps B s₀ s)
    (hB : [Block.tick, .mbx, .mem, .heddles, .harnesses, .scrub, .kvt, .ctxs, .sched, .rings, .streams, .tenants,
      .reqs, .history, .packs, .memChecks, .twill, .log, .storm, .domains, .modResets, .cuts, .relayed, .marks,
      .alerts, .twin, .ports, .obs, .agg, .out] ⊆ B) (c : Nat) (d : Due) (st : PlanStep) (ups : List Upset) :
    Keeps B s₀ (State.emitWork s c d st ups) := by
  unfold State.emitWork
  try dsimp only
  repeat' with_reducible first
    | assumption
    | exact .inr rfl
    | exact fun w => w
    | exact List.Subset.trans (by decide) hB
    | intro _
    | apply Keeps.ite
    | apply State.each_keeps
    | apply State.emitCancelled_keeps
    | apply State.emitWindow_keeps
    | apply State.judge_keeps
    | apply State.modBatch_keeps
    | apply State.noteSpec_keeps
    | apply State.seenBy_keeps
    | apply State.settlePrompt_keeps
    | apply State.sramStruck_keeps
    | apply State.twillCompare_keeps
    | apply State.unitRead_keeps
    | refine Keeps.snd (by assumption) ?_
    | refine Keeps.fst (by assumption) ?_
    | split

/-! ## PlanCheck -/

theorem State.zeroKnots_keeps {s₀ s : State} (h : Keeps B s₀ s) (hB : [Block.mem, .obs] ⊆ B) (c : Nat) :
    Keeps B s₀ (State.zeroKnots s c) := by
  unfold State.zeroKnots
  try dsimp only
  repeat' with_reducible first
    | assumption
    | exact .inr rfl
    | exact .inl (inB hB (by decide))
    | exact fun w => w
    | exact List.Subset.trans (by decide) hB
    | intro _
    | apply Keeps.ite
    | apply State.each_keeps
    | apply State.write_keeps
    | (rw [State.mk_eq]; apply Keeps.upd)

theorem State.arm_keeps {s₀ s : State} (h : Keeps B s₀ s)
    (hB : [Block.mem, .harnesses, .sealed, .ctxs, .history, .memChecks, .obs, .agg] ⊆ B) (c : Nat) :
    Keeps B s₀ (State.arm s c) := by
  unfold State.arm
  try dsimp only
  repeat' with_reducible first
    | assumption
    | exact .inr rfl
    | exact fun w => w
    | exact List.Subset.trans (by decide) hB
    | intro _
    | apply Keeps.ite
    | apply State.each_keeps
    | apply State.buildCopies_keeps
    | apply State.fullTrim_keeps
    | apply State.modCtl_keeps
    | apply State.reqActive_keeps
    | apply State.zeroKnots_keeps

/-! ## Weights -/

theorem State.writeHeddle_keeps {s₀ s : State} (h : Keeps B s₀ s)
    (hB : [Block.mem, .heddles, .harnesses, .looms, .scrub, .windows, .history, .memChecks, .obs, .agg] ⊆ B) (w :
      Nat × ImageAt × Bytes) :
    Keeps B s₀ (State.writeHeddle s w) := by
  unfold State.writeHeddle
  try dsimp only
  repeat' with_reducible first
    | assumption
    | exact .inr rfl
    | exact fun w => w
    | exact List.Subset.trans (by decide) hB
    | intro _
    | apply Keeps.ite
    | apply State.programHeddle_keeps
    | apply State.unitWrite_keeps
    | apply State.wakeHarness_keeps

theorem State.loadDone_keeps {s₀ s : State} (h : Keeps B s₀ s)
    (hB : [Block.mbx, .ctxs, .out] ⊆ B) (m c status : Nat) (tier : Option Nat) (res : List Nat) :
    Keeps B s₀ (State.loadDone s m c status tier res) := by
  unfold State.loadDone
  try dsimp only
  repeat' with_reducible first
    | assumption
    | exact .inr rfl
    | exact fun w => w
    | exact List.Subset.trans (by decide) hB
    | intro _
    | apply Keeps.ite
    | apply State.complete_keeps
    | apply State.modCtl_keeps

theorem State.runLoad_keeps {s₀ s : State} (h : Keeps B s₀ s)
    (hB : [Block.mbx, .mem, .heddles, .harnesses, .looms, .scrub, .windows, .ctxs, .history, .memChecks, .obs, .agg,
      .out] ⊆ B) (m c : Nat) (staged : Bool) (before : WeightSet) (p : Placed) (res : List Nat) :
    Keeps B s₀ (State.runLoad s m c staged before p res) := by
  unfold State.runLoad
  try dsimp only
  repeat' with_reducible first
    | assumption
    | exact .inr rfl
    | exact fun w => w
    | exact List.Subset.trans (by decide) hB
    | intro _
    | apply Keeps.ite
    | apply State.each_keeps
    | apply State.claimSet_keeps
    | apply State.loadDone_keeps
    | apply State.modCtx_keeps
    | apply State.unitWrite_keeps
    | apply State.writeHeddle_keeps

theorem State.closeCtx_keeps {s₀ s : State} (h : Keeps B s₀ s)
    (hB : [Block.heddles, .harnesses, .ctxs] ⊆ B) (c : Nat) :
    Keeps B s₀ (State.closeCtx s c) := by
  unfold State.closeCtx
  try dsimp only
  repeat' with_reducible first
    | assumption
    | exact .inr rfl
    | exact fun w => w
    | exact List.Subset.trans (by decide) hB
    | intro _
    | apply Keeps.ite
    | apply State.each_keeps
    | apply State.modCtx_keeps
    | apply State.releaseSet_keeps

theorem State.restorePatterns_keeps {s₀ s : State} (h : Keeps B s₀ s)
    (hB : [Block.mem, .heddles] ⊆ B) (c : Nat) (lost : List Nat) (rs : List (Bool × Nat × LoadRec)) :
    Keeps B s₀ (State.restorePatterns s c lost rs).1 := by
  unfold State.restorePatterns
  try dsimp only
  repeat' with_reducible first
    | assumption
    | exact .inr rfl
    | exact fun w => w
    | exact List.Subset.trans (by decide) hB
    | intro _
    | apply Keeps.ite
    | apply foldl_keeps
    | apply State.modHeddle_keeps
    | apply State.unitWrite_keeps
    | refine Keeps.snd (by assumption) ?_
    | refine Keeps.fst (by assumption) ?_
    | split

/-! ## Launch -/

theorem State.tellWindows_keeps {s₀ s : State} (h : Keeps B s₀ s) (hB : [Block.out] ⊆ B) (c : Nat) :
    Keeps B s₀ (State.tellWindows s c) := by
  unfold State.tellWindows
  try dsimp only
  repeat' with_reducible first
    | assumption
    | exact .inr rfl
    | exact fun w => w
    | exact List.Subset.trans (by decide) hB
    | intro _
    | apply Keeps.ite
    | apply State.each_keeps
    | apply State.emit_keeps

theorem State.tellGroup_keeps {s₀ s : State} (h : Keeps B s₀ s) (hB : [Block.relayed, .ports, .out] ⊆ B) (c : Nat) :
    Keeps B s₀ (State.tellGroup s c) := by
  unfold State.tellGroup
  try dsimp only
  repeat' with_reducible first
    | assumption
    | exact .inr rfl
    | exact .inl (inB hB (by decide))
    | exact fun w => w
    | exact List.Subset.trans (by decide) hB
    | intro _
    | apply Keeps.ite
    | apply State.originate_keeps
    | (rw [State.mk_eq]; apply Keeps.upd)

theorem State.startCheck_keeps {s₀ s : State} (h : Keeps B s₀ s)
    (hB : [Block.ctxs, .relayed, .ports, .out] ⊆ B) (c : Nat) :
    Keeps B s₀ (State.startCheck s c) := by
  unfold State.startCheck
  try dsimp only
  repeat' with_reducible first
    | assumption
    | exact .inr rfl
    | exact fun w => w
    | exact List.Subset.trans (by decide) hB
    | intro _
    | apply Keeps.ite
    | apply State.modCtl_keeps
    | apply State.tellGroup_keeps
    | apply State.tellWindows_keeps

theorem State.powerTo_keeps {s₀ s : State} (h : Keeps B s₀ s)
    (hB : [Block.pwr] ⊆ B) (target : Nat) (mbx : Option Nat) :
    Keeps B s₀ (State.powerTo s target mbx) := by
  unfold State.powerTo
  try dsimp only
  repeat' with_reducible first
    | assumption
    | exact .inr rfl
    | exact .inl (inB hB (by decide))
    | exact fun w => w
    | intro _
    | apply Keeps.ite
    | (rw [State.mk_eq]; apply Keeps.upd)

theorem State.ctxEnable_keeps {s₀ s : State} (h : Keeps B s₀ s)
    (hB : [Block.pwr, .ctxs, .relayed, .ports, .agg, .out] ⊆ B) (c : Nat) :
    Keeps B s₀ (State.ctxEnable s c) := by
  unfold State.ctxEnable
  try dsimp only
  repeat' with_reducible first
    | assumption
    | exact .inr rfl
    | exact .inl (inB hB (by decide))
    | exact fun w => w
    | exact List.Subset.trans (by decide) hB
    | intro _
    | apply Keeps.ite
    | apply State.powerTo_keeps
    | apply State.report_keeps
    | apply State.startCheck_keeps
    | (rw [State.mk_eq]; apply Keeps.upd)

theorem State.ctxDisable_keeps {s₀ s : State} (h : Keeps B s₀ s)
    (hB : [Block.pwr, .mbx, .mem, .heddles, .harnesses, .kvt, .ctxs, .sched, .streams, .reqs, .relayed, .ports,
      .obs, .out] ⊆ B) (c : Nat) :
    Keeps B s₀ (State.ctxDisable s c) := by
  unfold State.ctxDisable
  try dsimp only
  repeat' with_reducible first
    | assumption
    | exact .inr rfl
    | exact .inl (inB hB (by decide))
    | exact fun w => w
    | exact List.Subset.trans (by decide) hB
    | intro _
    | apply Keeps.ite
    | apply State.enableZero_keeps
    | (rw [State.mk_eq]; apply Keeps.upd)

theorem State.settle?_keeps {s₀ s : State} (h : Keeps B s₀ s) (hB : [Block.ctxs] ⊆ B) (c : Nat) :
    Keeps B s₀ (State.settle? s c) := by
  unfold State.settle?
  try dsimp only
  repeat' with_reducible first
    | assumption
    | exact .inr rfl
    | exact fun w => w
    | exact List.Subset.trans (by decide) hB
    | intro _
    | apply Keeps.ite
    | apply State.modCtl_keeps

theorem State.maskSet_keeps {s₀ s : State} (h : Keeps B s₀ s) (hB : [Block.ctxs] ⊆ B) (c : Nat) (on : Bool) :
    Keeps B s₀ (State.maskSet s c on) := by
  unfold State.maskSet
  try dsimp only
  repeat' with_reducible first
    | assumption
    | exact .inr rfl
    | exact fun w => w
    | exact List.Subset.trans (by decide) hB
    | intro _
    | apply Keeps.ite
    | apply State.modCtl_keeps
    | apply State.settle?_keeps

theorem State.strictSet_keeps {s₀ s : State} (h : Keeps B s₀ s)
    (hB : [Block.ctxs] ⊆ B) (c : Nat) (strict : Bool) (mask : BitVec 16) :
    Keeps B s₀ (State.strictSet s c strict mask) := by
  unfold State.strictSet
  try dsimp only
  repeat' with_reducible first
    | assumption
    | exact .inr rfl
    | exact fun w => w
    | exact List.Subset.trans (by decide) hB
    | intro _
    | apply Keeps.ite
    | apply State.modCtl_keeps
    | apply State.settle?_keeps

theorem State.twillSet_keeps {s₀ s : State} (h : Keeps B s₀ s) (hB : [Block.ctxs, .agg] ⊆ B) (c : Nat) (on : Bool) :
    Keeps B s₀ (State.twillSet s c on) := by
  unfold State.twillSet
  try dsimp only
  repeat' with_reducible first
    | assumption
    | exact .inr rfl
    | exact fun w => w
    | exact List.Subset.trans (by decide) hB
    | intro _
    | apply Keeps.ite
    | apply State.modCtl_keeps
    | apply State.report_keeps

theorem State.onCtx_keeps {s₀ s : State} (h : Keeps B s₀ s)
    (hB : [Block.acc, .agg] ⊆ B) (who : Who) (f : Nat → State → State) (hf : ∀ a0 t, Keeps B s₀ t → Keeps B s₀ (f a0
      t)) :
    Keeps B s₀ (State.onCtx s who f) := by
  unfold State.onCtx
  try dsimp only
  repeat' with_reducible first
    | assumption
    | exact .inr rfl
    | exact fun w => w
    | exact List.Subset.trans (by decide) hB
    | intro _
    | apply Keeps.ite
    | apply hf
    | apply State.prvWrite_keeps

theorem State.tryLaunch_keeps {s₀ s : State} (h : Keeps B s₀ s)
    (hB : [Block.ctxs, .relayed, .ports, .out] ⊆ B) (c : Nat) :
    Keeps B s₀ (State.tryLaunch s c) := by
  unfold State.tryLaunch
  try dsimp only
  repeat' with_reducible first
    | assumption
    | exact .inr rfl
    | exact fun w => w
    | exact List.Subset.trans (by decide) hB
    | intro _
    | apply Keeps.ite
    | apply State.modCtl_keeps
    | apply State.noteMsg_keeps
    | apply State.originate_keeps

theorem State.noteReady_keeps {s₀ s : State} (h : Keeps B s₀ s)
    (hB : [Block.ctxs, .relayed, .ports, .out] ⊆ B) (c place pick : Nat) :
    Keeps B s₀ (State.noteReady s c place pick) := by
  unfold State.noteReady
  try dsimp only
  repeat' with_reducible first
    | assumption
    | exact .inr rfl
    | exact fun w => w
    | exact List.Subset.trans (by decide) hB
    | intro _
    | apply Keeps.ite
    | apply State.modCtl_keeps
    | apply State.tryLaunch_keeps

theorem State.endSampling_keeps {s₀ s : State} (h : Keeps B s₀ s) (hB : [Block.obs] ⊆ B) (c : Nat) :
    Keeps B s₀ (State.endSampling s c) := by
  unfold State.endSampling
  try dsimp only
  repeat' with_reducible first
    | assumption
    | exact .inr rfl
    | exact .inl (inB hB (by decide))
    | exact fun w => w
    | intro _
    | apply Keeps.ite
    | (rw [State.mk_eq]; apply Keeps.upd)

theorem State.enterRunning_keeps {s₀ s : State} (h : Keeps B s₀ s)
    (hB : [Block.mem, .ctxs, .sched, .obs] ⊆ B) (c : Nat) :
    Keeps B s₀ (State.enterRunning s c) := by
  unfold State.enterRunning
  try dsimp only
  repeat' with_reducible first
    | assumption
    | exact .inr rfl
    | exact fun w => w
    | exact List.Subset.trans (by decide) hB
    | intro _
    | apply Keeps.ite
    | apply State.dueAt_keeps
    | apply State.endSampling_keeps
    | apply State.modCtx_keeps

theorem State.stopFrom_keeps {s₀ s : State} (h : Keeps B s₀ s) (hB : [Block.ctxs] ⊆ B) (c p : Nat) :
    Keeps B s₀ (State.stopFrom s c p) := by
  unfold State.stopFrom
  try dsimp only
  repeat' with_reducible first
    | assumption
    | exact .inr rfl
    | exact fun w => w
    | exact List.Subset.trans (by decide) hB
    | intro _
    | apply Keeps.ite
    | apply State.cut_keeps
    | apply State.modCtl_keeps
    | apply State.stopAt_keeps

/-! ## Switch -/

theorem State.acceptSwitch_keeps {s₀ s : State} (h : Keeps B s₀ s)
    (hB : [Block.ctxs, .relayed] ⊆ B) (c : Nat) (b : Mailbox) (plan : Bytes) (w : WeightSet) :
    Keeps B s₀ (State.acceptSwitch s c b plan w) := by
  unfold State.acceptSwitch
  try dsimp only
  repeat' with_reducible first
    | assumption
    | exact .inr rfl
    | exact .inl (inB hB (by decide))
    | exact fun w => w
    | exact List.Subset.trans (by decide) hB
    | intro _
    | apply Keeps.ite
    | apply State.modCtx_keeps
    | (rw [State.mk_eq]; apply Keeps.upd)

theorem State.dropStaged_keeps {s₀ s : State} (h : Keeps B s₀ s)
    (hB : [Block.mbx, .mem, .heddles, .harnesses, .sealed, .ctxs, .history, .memChecks, .obs, .agg, .out] ⊆ B) (c :
      Nat) :
    Keeps B s₀ (State.dropStaged s c) := by
  unfold State.dropStaged
  try dsimp only
  repeat' with_reducible first
    | assumption
    | exact .inr rfl
    | exact fun w => w
    | exact List.Subset.trans (by decide) hB
    | intro _
    | apply Keeps.ite
    | apply State.endHeld_keeps
    | apply State.endSwitch_keeps
    | apply State.modCtx_keeps
    | apply State.releaseSet_keeps

theorem State.noteIdle_keeps {s₀ s : State} (h : Keeps B s₀ s) (hB : [Block.ctxs] ⊆ B) (c n : Nat) :
    Keeps B s₀ (State.noteIdle s c n) := by
  unfold State.noteIdle
  try dsimp only
  repeat' with_reducible first
    | assumption
    | exact .inr rfl
    | exact fun w => w
    | exact List.Subset.trans (by decide) hB
    | intro _
    | apply Keeps.ite
    | apply State.modCtx_keeps

theorem State.tryFlip_keeps {s₀ s : State} (h : Keeps B s₀ s)
    (hB : [Block.ctxs, .relayed, .ports, .out] ⊆ B) (c : Nat) :
    Keeps B s₀ (State.tryFlip s c) := by
  unfold State.tryFlip
  try dsimp only
  repeat' with_reducible first
    | assumption
    | exact .inr rfl
    | exact fun w => w
    | exact List.Subset.trans (by decide) hB
    | intro _
    | apply Keeps.ite
    | apply State.modCtx_keeps
    | apply State.noteMsg_keeps
    | apply State.originate_keeps

theorem State.noteDrained_keeps {s₀ s : State} (h : Keeps B s₀ s)
    (hB : [Block.ctxs, .relayed, .ports, .out] ⊆ B) (c place switchId : Nat) :
    Keeps B s₀ (State.noteDrained s c place switchId) := by
  unfold State.noteDrained
  try dsimp only
  repeat' with_reducible first
    | assumption
    | exact .inr rfl
    | exact fun w => w
    | exact List.Subset.trans (by decide) hB
    | intro _
    | apply Keeps.ite
    | apply State.modCtx_keeps
    | apply State.tryFlip_keeps

theorem State.takeSuccessor_keeps {s₀ s : State} (h : Keeps B s₀ s)
    (hB : [Block.mem, .kvt, .ctxs, .sched, .reqs, .ports, .obs, .out] ⊆ B) (c f : Nat) (p : Bytes) :
    Keeps B s₀ (State.takeSuccessor s c f p) := by
  unfold State.takeSuccessor
  try dsimp only
  repeat' with_reducible first
    | assumption
    | exact .inr rfl
    | exact .inl (inB hB (by decide))
    | exact fun w => w
    | exact List.Subset.trans (by decide) hB
    | intro _
    | apply Keeps.ite
    | apply State.each_keeps
    | apply State.dropDue_keeps
    | apply State.endSampling_keeps
    | apply State.freeUnit_keeps
    | apply State.modCtx_keeps
    | apply State.prune_keeps
    | apply State.zeroKnots_keeps
    | (rw [State.mk_eq]; apply Keeps.upd)

theorem State.flipNow_keeps {s₀ s : State} (h : Keeps B s₀ s)
    (hB : [Block.mbx, .mem, .heddles, .harnesses, .kvt, .ctxs, .sched, .streams, .reqs, .ports, .obs, .out] ⊆ B) (c
      : Nat) :
    Keeps B s₀ (State.flipNow s c) := by
  unfold State.flipNow
  try dsimp only
  repeat' with_reducible first
    | assumption
    | exact .inr rfl
    | exact fun w => w
    | exact List.Subset.trans (by decide) hB
    | intro _
    | apply Keeps.ite
    | apply State.dueAt_keeps
    | apply State.flipSet_keeps
    | apply State.modCtl_keeps
    | apply State.pageSettle_keeps
    | apply State.takeSuccessor_keeps
    | split

end Sys2Proof.Machine
end

