-- ==== Sys2Proof/Laws/KeepsChip.lean ====
section
/-! SUPPORT. Every operation keeps the queue and memory's canonical form (`Keeps`):
time, monitors, power, the host site, temperature, serving, health, links, boot and security. One
lemma an operation: `State.<name>_keeps`, `hB` lists the blocks it may change. -/

namespace Sys2Proof.Machine

variable {B : List Block}

/-! ## TimeBase -/

theorem State.sendTime_keeps {s₀ s : State} (h : Keeps B s₀ s)
    (hB : [Block.ports, .out] ⊆ B) (ports : List Nat) (msg pick arg arg2 : Nat) :
    Keeps B s₀ (State.sendTime s ports msg pick arg arg2) := by
  unfold State.sendTime
  try dsimp only
  repeat' with_reducible first
    | assumption
    | exact .inr rfl
    | exact fun w => w
    | exact List.Subset.trans (by decide) hB
    | intro _
    | apply Keeps.ite
    | apply State.sendOn_keeps

theorem State.leaderLen_keeps {s₀ s : State} (h : Keeps B s₀ s) (hB : [Block.tick, .time, .ports, .out] ⊆ B) :
    Keeps B s₀ (State.leaderLen s) := by
  unfold State.leaderLen
  try dsimp only
  repeat' with_reducible first
    | assumption
    | exact .inr rfl
    | exact .inl (inB hB (by decide))
    | exact fun w => w
    | exact List.Subset.trans (by decide) hB
    | intro _
    | apply Keeps.ite
    | apply State.fresh_keeps
    | apply State.sendTime_keeps
    | (rw [State.mk_eq]; apply Keeps.upd)

theorem State.lenUp_keeps {s₀ s : State} (h : Keeps B s₀ s) (hB : [Block.tick, .time, .ports, .out] ⊆ B) :
    Keeps B s₀ (State.lenUp s) := by
  unfold State.lenUp
  try dsimp only
  repeat' with_reducible first
    | assumption
    | exact .inr rfl
    | exact fun w => w
    | exact List.Subset.trans (by decide) hB
    | intro _
    | apply Keeps.ite
    | apply State.leaderLen_keeps
    | apply State.sendTime_keeps

theorem State.lenUpdate_keeps {s₀ s : State} (h : Keeps B s₀ s) (hB : [Block.tick, .clk, .time, .ports, .out] ⊆ B) :
    Keeps B s₀ (State.lenUpdate s) := by
  unfold State.lenUpdate
  try dsimp only
  repeat' with_reducible first
    | assumption
    | exact .inr rfl
    | exact .inl (inB hB (by decide))
    | exact fun w => w
    | exact List.Subset.trans (by decide) hB
    | intro _
    | apply Keeps.ite
    | apply State.lenUp_keeps
    | (rw [State.mk_eq]; apply Keeps.upd)

theorem State.setLen_keeps {s₀ s : State} (h : Keeps B s₀ s)
    (hB : [Block.clk, .time] ⊆ B) (len : Nat) (by_ : Bool × Bool × Bool) (remote : Bool) :
    Keeps B s₀ (State.setLen s len by_ remote) := by
  unfold State.setLen
  try dsimp only
  repeat' with_reducible first
    | assumption
    | exact .inr rfl
    | exact .inl (inB hB (by decide))
    | exact fun w => w
    | intro _
    | apply Keeps.ite
    | (rw [State.mk_eq]; apply Keeps.upd)

theorem State.closePick_keeps {s₀ s : State} (h : Keeps B s₀ s) (hB : [Block.clk, .ctxs, .sched, .obs] ⊆ B) :
    Keeps B s₀ (State.closePick s) := by
  unfold State.closePick
  try dsimp only
  repeat' with_reducible first
    | assumption
    | exact .inr rfl
    | exact .inl (inB hB (by decide))
    | exact fun w => w
    | exact List.Subset.trans (by decide) hB
    | intro _
    | apply Keeps.ite
    | apply State.each_keeps
    | apply State.countClasses_keeps
    | apply State.modRecs_keeps
    | apply State.perf_keeps
    | (rw [State.mk_eq]; apply Keeps.upd)

theorem State.openPick_keeps {s₀ s : State} (h : Keeps B s₀ s) (hB : [Block.mem, .ctxs, .sched, .obs] ⊆ B) :
    Keeps B s₀ (State.openPick s) := by
  unfold State.openPick
  try dsimp only
  repeat' with_reducible first
    | assumption
    | exact .inr rfl
    | exact fun w => w
    | exact List.Subset.trans (by decide) hB
    | intro _
    | apply Keeps.ite
    | apply State.each_keeps
    | apply State.dueAt_keeps
    | apply State.noteIdle_keeps

theorem State.dropTags_keeps {s₀ s : State} (h : Keeps B s₀ s) (hB : [Block.obs] ⊆ B) :
    Keeps B s₀ (State.dropTags s) := by
  unfold State.dropTags
  try dsimp only
  repeat' with_reducible first
    | assumption
    | exact .inr rfl
    | exact .inl (inB hB (by decide))
    | exact fun w => w
    | intro _
    | apply Keeps.ite
    | (rw [State.mk_eq]; apply Keeps.upd)

theorem State.alignEnd_keeps {s₀ s : State} (h : Keeps B s₀ s) (hB : [Block.time, .mbx, .out] ⊆ B) :
    Keeps B s₀ (State.alignEnd s) := by
  unfold State.alignEnd
  try dsimp only
  repeat' with_reducible first
    | assumption
    | exact .inr rfl
    | exact .inl (inB hB (by decide))
    | exact fun w => w
    | exact List.Subset.trans (by decide) hB
    | intro _
    | apply Keeps.ite
    | apply State.complete_keeps
    | (rw [State.mk_eq]; apply Keeps.upd)
    | split

theorem State.turnPick_keeps {s₀ s : State} (h : Keeps B s₀ s) (hB : [Block.clk] ⊆ B) :
    Keeps B s₀ (State.turnPick s) := by
  unfold State.turnPick
  try dsimp only
  repeat' with_reducible first
    | assumption
    | exact .inr rfl
    | exact .inl (inB hB (by decide))
    | exact fun w => w
    | intro _
    | apply Keeps.ite
    | (rw [State.mk_eq]; apply Keeps.upd)

theorem State.turnObs_keeps {s₀ s : State} (h : Keeps B s₀ s) (hB : [Block.obs] ⊆ B) :
    Keeps B s₀ (State.turnObs s) := by
  unfold State.turnObs
  try dsimp only
  repeat' with_reducible first
    | assumption
    | exact .inr rfl
    | exact .inl (inB hB (by decide))
    | exact fun w => w
    | intro _
    | apply Keeps.ite
    | (rw [State.mk_eq]; apply Keeps.upd)

theorem State.deadRead_keeps {s₀ s : State} (h : Keeps B s₀ s) (hB : [Block.out] ⊆ B) :
    Keeps B s₀ (State.deadRead s) := by
  unfold State.deadRead
  try dsimp only
  repeat' with_reducible first
    | assumption
    | exact .inr rfl
    | exact fun w => w
    | exact List.Subset.trans (by decide) hB
    | intro _
    | apply Keeps.ite
    | apply State.emit_keeps

theorem State.readPickLo_keeps {s₀ s : State} (h : Keeps B s₀ s) (hB : [Block.acc] ⊆ B) (j : Nat) :
    Keeps B s₀ (State.readPickLo s j).2 := by
  unfold State.readPickLo
  try dsimp only
  repeat' with_reducible first
    | assumption
    | exact .inr rfl
    | exact fun w => w
    | exact List.Subset.trans (by decide) hB
    | intro _
    | apply Keeps.ite
    | apply State.modLatch_keeps

theorem State.readAs_keeps {s₀ s : State} (h : Keeps B s₀ s)
    (hB : [Block.acc, .agg, .out] ⊆ B) (who : Who) (f : Nat → State → Word × State) (hf : ∀ a0 t, Keeps B s₀ t →
      Keeps B s₀ (f a0 t).2) :
    Keeps B s₀ (State.readAs s who f) := by
  unfold State.readAs
  try dsimp only
  repeat' with_reducible first
    | assumption
    | exact .inr rfl
    | exact fun w => w
    | exact List.Subset.trans (by decide) hB
    | intro _
    | apply Keeps.ite
    | apply hf
    | apply State.access_keeps
    | apply State.deadRead_keeps
    | apply State.emit_keeps
    | refine Keeps.snd (by assumption) ?_
    | refine Keeps.fst (by assumption) ?_
    | split

theorem State.timeRole_keeps {s₀ s : State} (h : Keeps B s₀ s) (hB : [Block.time, .agg] ⊆ B) (role upstream : Nat) :
    Keeps B s₀ (State.timeRole s role upstream) := by
  unfold State.timeRole
  try dsimp only
  repeat' with_reducible first
    | assumption
    | exact .inr rfl
    | exact .inl (inB hB (by decide))
    | exact fun w => w
    | exact List.Subset.trans (by decide) hB
    | intro _
    | apply Keeps.ite
    | apply State.report_keeps
    | (rw [State.mk_eq]; apply Keeps.upd)

theorem State.followOffset_keeps {s₀ s : State} (h : Keeps B s₀ s)
    (hB : [Block.clk, .time] ⊆ B) (ofs : Int) (upAligned : Bool) :
    Keeps B s₀ (State.followOffset s ofs upAligned) := by
  unfold State.followOffset
  try dsimp only
  repeat' with_reducible first
    | assumption
    | exact .inr rfl
    | exact .inl (inB hB (by decide))
    | exact fun w => w
    | intro _
    | apply Keeps.ite
    | (rw [State.mk_eq]; apply Keeps.upd)

theorem State.alignGo_keeps {s₀ s : State} (h : Keeps B s₀ s) (hB : [Block.time, .mbx, .ports, .out] ⊆ B) :
    Keeps B s₀ (State.alignGo s) := by
  unfold State.alignGo
  try dsimp only
  repeat' with_reducible first
    | assumption
    | exact .inr rfl
    | exact .inl (inB hB (by decide))
    | exact fun w => w
    | exact List.Subset.trans (by decide) hB
    | intro _
    | apply Keeps.ite
    | apply State.complete_keeps
    | apply State.sendTime_keeps
    | (rw [State.mk_eq]; apply Keeps.upd)
    | split

/-! ## Monitor -/

theorem State.calBegin_keeps {s₀ s : State} (h : Keeps B s₀ s) (hB : [Block.mon] ⊆ B) :
    Keeps B s₀ (State.calBegin s) := by
  unfold State.calBegin
  try dsimp only
  repeat' with_reducible first
    | assumption
    | exact .inr rfl
    | exact .inl (inB hB (by decide))
    | exact fun w => w
    | intro _
    | apply Keeps.ite
    | (rw [State.mk_eq]; apply Keeps.upd)
    | split

theorem State.calDrift_keeps {s₀ s : State} (h : Keeps B s₀ s) (hB : [Block.mon] ⊆ B) :
    Keeps B s₀ (State.calDrift s) := by
  unfold State.calDrift
  try dsimp only
  repeat' with_reducible first
    | assumption
    | exact .inr rfl
    | exact fun w => w
    | exact List.Subset.trans (by decide) hB
    | intro _
    | apply Keeps.ite
    | apply State.each_keeps
    | apply State.calBegin_keeps
    | apply State.modChan_keeps

theorem State.periodOf_keeps {s₀ s : State} (h : Keeps B s₀ s)
    (hB : [Block.mon] ⊆ B) (raw : List (BitVec 24 × Bool)) (n : Nat) :
    Keeps B s₀ (State.periodOf s raw n) := by
  unfold State.periodOf
  try dsimp only
  repeat' with_reducible first
    | assumption
    | exact .inr rfl
    | exact fun w => w
    | exact List.Subset.trans (by decide) hB
    | intro _
    | apply Keeps.ite
    | apply State.modChan_keeps
    | split

theorem State.calStep_keeps {s₀ s : State} (h : Keeps B s₀ s) (hB : [Block.mon] ⊆ B) :
    Keeps B s₀ (State.calStep s) := by
  unfold State.calStep
  try dsimp only
  repeat' with_reducible first
    | assumption
    | exact .inr rfl
    | exact .inl (inB hB (by decide))
    | exact fun w => w
    | exact List.Subset.trans (by decide) hB
    | intro _
    | apply Keeps.ite
    | apply State.calBegin_keeps
    | (rw [State.mk_eq]; apply Keeps.upd)
    | split

theorem State.periodChange_keeps {s₀ s : State} (h : Keeps B s₀ s) (hB : [Block.mon] ⊆ B) :
    Keeps B s₀ (State.periodChange s) := by
  unfold State.periodChange
  try dsimp only
  repeat' with_reducible first
    | assumption
    | exact .inr rfl
    | exact .inl (inB hB (by decide))
    | exact fun w => w
    | exact List.Subset.trans (by decide) hB
    | intro _
    | apply Keeps.ite
    | apply State.each_keeps
    | apply State.modChan_keeps
    | (rw [State.mk_eq]; apply Keeps.upd)
    | split

theorem State.capEval_keeps {s₀ s : State} (h : Keeps B s₀ s)
    (hB : [Block.tick, .clk, .time, .pwr, .log, .ports, .out] ⊆ B) :
    Keeps B s₀ (State.capEval s) := by
  unfold State.capEval
  try dsimp only
  repeat' with_reducible first
    | assumption
    | exact .inr rfl
    | exact .inl (inB hB (by decide))
    | exact fun w => w
    | exact List.Subset.trans (by decide) hB
    | intro _
    | apply Keeps.ite
    | apply State.lenUpdate_keeps
    | apply State.logEvent_keeps
    | (rw [State.mk_eq]; apply Keeps.upd)

theorem State.readMonAcc_keeps {s₀ s : State} (h : Keeps B s₀ s) (hB : [Block.acc] ⊆ B) (j : Nat) :
    Keeps B s₀ (State.readMonAcc s j).2 := by
  unfold State.readMonAcc
  try dsimp only
  repeat' with_reducible first
    | assumption
    | exact .inr rfl
    | exact fun w => w
    | exact List.Subset.trans (by decide) hB
    | intro _
    | apply Keeps.ite
    | apply State.modLatch_keeps

theorem State.onChan_keeps {s₀ s : State} (h : Keeps B s₀ s)
    (hB : [Block.acc, .agg] ⊆ B) (who : Who) (f : Nat → State → State) (hf : ∀ a0 t, Keeps B s₀ t → Keeps B s₀ (f a0
      t)) :
    Keeps B s₀ (State.onChan s who f) := by
  unfold State.onChan
  try dsimp only
  repeat' with_reducible first
    | assumption
    | exact .inr rfl
    | exact fun w => w
    | exact List.Subset.trans (by decide) hB
    | intro _
    | apply Keeps.ite
    | apply hf
    | apply State.prvWrite_keeps

theorem State.monClear_keeps {s₀ s : State} (h : Keeps B s₀ s) (hB : [Block.mon] ⊆ B) (n : Nat) :
    Keeps B s₀ (State.monClear s n) := by
  unfold State.monClear
  try dsimp only
  repeat' with_reducible first
    | assumption
    | exact .inr rfl
    | exact fun w => w
    | exact List.Subset.trans (by decide) hB
    | intro _
    | apply Keeps.ite
    | apply State.modChan_keeps

theorem State.monSource_keeps {s₀ s : State} (h : Keeps B s₀ s) (hB : [Block.mon] ⊆ B) (n src : Nat) :
    Keeps B s₀ (State.monSource s n src) := by
  unfold State.monSource
  try dsimp only
  repeat' with_reducible first
    | assumption
    | exact .inr rfl
    | exact fun w => w
    | exact List.Subset.trans (by decide) hB
    | intro _
    | apply Keeps.ite
    | apply State.modChan_keeps

theorem State.monCal_keeps {s₀ s : State} (h : Keeps B s₀ s) (hB : [Block.mon] ⊆ B) :
    Keeps B s₀ (State.monCal s) := by
  unfold State.monCal
  try dsimp only
  repeat' with_reducible first
    | assumption
    | exact .inr rfl
    | exact .inl (inB hB (by decide))
    | exact fun w => w
    | exact List.Subset.trans (by decide) hB
    | intro _
    | apply Keeps.ite
    | apply State.calBegin_keeps
    | (rw [State.mk_eq]; apply Keeps.upd)

theorem State.monPeriod_keeps {s₀ s : State} (h : Keeps B s₀ s) (hB : [Block.mon] ⊆ B) (p : Nat) :
    Keeps B s₀ (State.monPeriod s p) := by
  unfold State.monPeriod
  try dsimp only
  repeat' with_reducible first
    | assumption
    | exact .inr rfl
    | exact .inl (inB hB (by decide))
    | exact fun w => w
    | intro _
    | apply Keeps.ite
    | (rw [State.mk_eq]; apply Keeps.upd)

theorem State.monRestore_keeps {s₀ s : State} (h : Keeps B s₀ s)
    (hB : [Block.mon] ⊆ B) (n : Nat) (gain : Bool) (v : Nat) :
    Keeps B s₀ (State.monRestore s n gain v) := by
  unfold State.monRestore
  try dsimp only
  repeat' with_reducible first
    | assumption
    | exact .inr rfl
    | exact fun w => w
    | exact List.Subset.trans (by decide) hB
    | intro _
    | apply Keeps.ite
    | apply State.modChan_keeps

/-! ## Power -/

theorem State.dark_keeps {s₀ s : State} (h : Keeps B s₀ s)
    (hB : [Block.clk, .time, .pwr, .hs, .sec, .acc, .mbx, .mem, .heddles, .harnesses, .looms, .scrub, .windows,
      .sealed, .kvt, .ctxs, .sched, .rings, .streams, .tenants, .reqs, .engine, .history, .unitMap, .packs,
      .memChecks, .lifetime, .twill, .log, .storm, .domains, .modResets, .dumps, .cuts, .relayed, .marks, .alerts,
      .twin, .ports, .thm, .mon, .obs, .agg] ⊆ B) :
    Keeps B s₀ (State.dark s) := by
  refine ⟨h.queue, fun _ => Memory.wf_empty, fun b e => ?_⟩
  cases b <;> first | exact h.same _ e | exact absurd (hB (by decide)) e

theorem State.railDown_keeps {s₀ s : State} (h : Keeps B s₀ s) (hB : [Block.pwr] ⊆ B) :
    Keeps B s₀ (State.railDown s) := by
  unfold State.railDown
  try dsimp only
  repeat' with_reducible first
    | assumption
    | exact .inr rfl
    | exact .inl (inB hB (by decide))
    | exact fun w => w
    | intro _
    | apply Keeps.ite
    | (rw [State.mk_eq]; apply Keeps.upd)

theorem State.portsTo_keeps {s₀ s : State} (h : Keeps B s₀ s) (hB : [Block.time, .ports] ⊆ B) (state : Nat) :
    Keeps B s₀ (State.portsTo s state) := by
  unfold State.portsTo
  try dsimp only
  repeat' with_reducible first
    | assumption
    | exact .inr rfl
    | exact fun w => w
    | exact List.Subset.trans (by decide) hB
    | intro _
    | apply Keeps.ite
    | apply State.each_keeps
    | apply State.fresh_keeps
    | apply State.modPort_keeps
    | apply State.upstreamDown_keeps

theorem State.harnessesReturn_keeps {s₀ s : State} (h : Keeps B s₀ s)
    (hB : [Block.heddles, .harnesses, .looms, .scrub, .windows, .sched, .history, .memChecks, .obs, .agg] ⊆ B) :
    Keeps B s₀ (State.harnessesReturn s) := by
  unfold State.harnessesReturn
  try dsimp only
  repeat' with_reducible first
    | assumption
    | exact .inr rfl
    | exact fun w => w
    | exact List.Subset.trans (by decide) hB
    | intro _
    | apply Keeps.ite
    | apply State.each_keeps
    | apply State.returnActive_keeps
    | apply State.transitionDone_keeps

theorem State.storesZero_keeps {s₀ s : State} (h : Keeps B s₀ s) (hB : [Block.mem] ⊆ B) :
    Keeps B s₀ (State.storesZero s) := by
  unfold State.storesZero
  try dsimp only
  repeat' with_reducible first
    | assumption
    | exact .inr rfl
    | exact fun w => w
    | exact List.Subset.trans (by decide) hB
    | intro _
    | apply Keeps.ite
    | apply State.each_keeps
    | apply State.zero_keeps

theorem State.toRetention_keeps {s₀ s : State} (h : Keeps B s₀ s)
    (hB : [Block.time, .mem, .harnesses, .windows, .ports] ⊆ B) :
    Keeps B s₀ (State.toRetention s) := by
  unfold State.toRetention
  try dsimp only
  repeat' with_reducible first
    | assumption
    | exact .inr rfl
    | exact fun w => w
    | exact List.Subset.trans (by decide) hB
    | intro _
    | apply Keeps.ite
    | apply State.each_keeps
    | apply State.calStop_keeps
    | apply State.modHarness_keeps
    | apply State.portsTo_keeps
    | apply State.reprogram_keeps
    | apply State.storesZero_keeps

theorem State.toStandby_keeps {s₀ s : State} (h : Keeps B s₀ s)
    (hB : [Block.time, .mem, .heddles, .harnesses, .windows, .ports] ⊆ B) :
    Keeps B s₀ (State.toStandby s) := by
  unfold State.toStandby
  try dsimp only
  repeat' with_reducible first
    | assumption
    | exact .inr rfl
    | exact fun w => w
    | exact List.Subset.trans (by decide) hB
    | intro _
    | apply Keeps.ite
    | apply State.each_keeps
    | apply State.calStop_keeps
    | apply State.loseCells_keeps
    | apply State.modHarness_keeps
    | apply State.portsTo_keeps
    | apply State.reprogram_keeps
    | exact fun _ => Memory.wf_empty
    | apply State.setMem_keeps
    | exact fun w => Memory.wf_foldl _ (fun _ _ h => Memory.wf_addErr h _ _) _ w
    | unfold State.setMem
    | exact Memory.wf_empty

/-! ## HostSite -/

theorem State.modHs_keeps {s₀ s : State} (h : Keeps B s₀ s) (hB : [Block.hs] ⊆ B) (f : HostSite → HostSite) :
    Keeps B s₀ (State.modHs s f) := by
  unfold State.modHs
  try dsimp only
  repeat' with_reducible first
    | assumption
    | exact .inr rfl
    | exact .inl (inB hB (by decide))
    | exact fun w => w
    | intro _
    | apply Keeps.ite
    | (rw [State.mk_eq]; apply Keeps.upd)

theorem State.hostOff_keeps {s₀ s : State} (h : Keeps B s₀ s)
    (hB : [Block.acc, .mbx, .mem, .heddles, .harnesses, .kvt, .ctxs, .sched, .rings, .streams, .reqs, .log, .storm,
      .domains, .modResets, .cuts, .relayed, .marks, .alerts, .twin, .ports, .obs, .out] ⊆ B) :
    Keeps B s₀ (State.hostOff s) := by
  unfold State.hostOff
  try dsimp only
  repeat' with_reducible first
    | assumption
    | exact .inr rfl
    | exact .inl (inB hB (by decide))
    | exact fun w => w
    | exact List.Subset.trans (by decide) hB
    | intro _
    | apply Keeps.ite
    | apply State.fault_keeps
    | (rw [State.mk_eq]; apply Keeps.upd)

/-! ## Thermal -/

theorem State.throttleEval_keeps {s₀ s : State} (h : Keeps B s₀ s)
    (hB : [Block.tick, .clk, .time, .ports, .thm, .out] ⊆ B) :
    Keeps B s₀ (State.throttleEval s) := by
  unfold State.throttleEval
  try dsimp only
  repeat' with_reducible first
    | assumption
    | exact .inr rfl
    | exact .inl (inB hB (by decide))
    | exact fun w => w
    | exact List.Subset.trans (by decide) hB
    | intro _
    | apply Keeps.ite
    | apply State.enforce_keeps
    | apply State.lenUpdate_keeps
    | (rw [State.mk_eq]; apply Keeps.upd)

theorem State.enforce_keeps {s₀ s : State} (h : Keeps B s₀ s)
    (hB : [Block.tick, .clk, .time, .ports, .thm, .out] ⊆ B) :
    Keeps B s₀ (State.enforce s) := by
  unfold State.enforce
  try dsimp only
  repeat' with_reducible first
    | assumption
    | exact .inr rfl
    | exact .inl (inB hB (by decide))
    | exact fun w => w
    | exact List.Subset.trans (by decide) hB
    | intro _
    | apply Keeps.ite
    | apply State.throttleEval_keeps
    | (rw [State.mk_eq]; apply Keeps.upd)

theorem State.throttleRequest_keeps {s₀ s : State} (h : Keeps B s₀ s)
    (hB : [Block.tick, .clk, .time, .marks, .alerts, .ports, .thm, .out] ⊆ B) :
    Keeps B s₀ (State.throttleRequest s) := by
  unfold State.throttleRequest
  try dsimp only
  repeat' with_reducible first
    | assumption
    | exact .inr rfl
    | exact .inl (inB hB (by decide))
    | exact fun w => w
    | exact List.Subset.trans (by decide) hB
    | intro _
    | apply Keeps.ite
    | apply State.alertThermal_keeps
    | apply State.enforce_keeps
    | (rw [State.mk_eq]; apply Keeps.upd)

theorem State.retrimEval_keeps {s₀ s : State} (h : Keeps B s₀ s)
    (hB : [Block.harnesses, .looms, .windows] ⊆ B) (l : Nat) :
    Keeps B s₀ (State.retrimEval s l) := by
  unfold State.retrimEval
  try dsimp only
  repeat' with_reducible first
    | assumption
    | exact .inr rfl
    | exact fun w => w
    | exact List.Subset.trans (by decide) hB
    | intro _
    | apply Keeps.ite
    | apply State.retrimCheck_keeps
    | apply State.retrimStart_keeps

theorem State.peakClear_keeps {s₀ s : State} (h : Keeps B s₀ s) (hB : [Block.thm] ⊆ B) (n : Nat) :
    Keeps B s₀ (State.peakClear s n) := by
  unfold State.peakClear
  try dsimp only
  repeat' with_reducible first
    | assumption
    | exact .inr rfl
    | exact .inl (inB hB (by decide))
    | exact fun w => w
    | intro _
    | apply Keeps.ite
    | (rw [State.mk_eq]; apply Keeps.upd)

theorem State.trip_keeps {s₀ s : State} (h : Keeps B s₀ s)
    (hB : [Block.pwr, .hs, .acc, .mbx, .mem, .heddles, .harnesses, .kvt, .ctxs, .sched, .rings, .streams, .reqs,
      .log, .storm, .cuts, .relayed, .marks, .alerts, .twin, .ports, .thm, .obs, .agg, .out] ⊆ B) (n : Nat) :
    Keeps B s₀ (State.trip s n) := by
  unfold State.trip
  try dsimp only
  repeat' with_reducible first
    | assumption
    | exact .inl (inB hB (by decide))
    | exact .inr rfl
    | exact fun w => w
    | exact List.Subset.trans (by decide) hB
    | intro _
    | apply Keeps.ite
    | apply State.each_keeps
    | apply State.alertHsShutdown_keeps
    | apply State.declare_keeps
    | apply State.gstop_keeps
    | apply State.report_keeps
    | apply State.sendTwin_keeps
    | apply State.unpair_keeps
    | (rw [State.mk_eq]; apply Keeps.upd)

theorem State.restart_keeps {s₀ s : State} (h : Keeps B s₀ s)
    (hB : [Block.clk, .time, .pwr, .hs, .sec, .acc, .mbx, .mem, .heddles, .harnesses, .looms, .scrub, .windows,
      .sealed, .kvt, .ctxs, .sched, .rings, .streams, .tenants, .reqs, .engine, .unitMap, .packs, .twill, .storm,
      .domains, .modResets, .dumps, .cuts, .relayed, .alerts, .twin, .ports, .thm, .mon, .obs, .out] ⊆ B) :
    Keeps B s₀ (State.restart s) := by
  unfold State.restart
  try dsimp only
  repeat' with_reducible first
    | assumption
    | exact Memory.wf_empty
    | exact .inr rfl
    | exact .inl (inB hB (by decide))
    | exact fun w => w
    | exact List.Subset.trans (by decide) hB
    | intro _
    | apply Keeps.ite
    | apply State.countModule_keeps
    | apply State.reboot_keeps
    | (rw [State.mk_eq]; apply Keeps.upd)

/-! ## Serving -/

theorem State.doorbell_keeps {s₀ s : State} (h : Keeps B s₀ s)
    (hB : [Block.acc, .agg] ⊆ B) (who : Who) (r : Nat) (f : State → State) (hf : ∀ t, Keeps B s₀ t → Keeps B s₀ (f
      t)) :
    Keeps B s₀ (State.doorbell s who r f) := by
  unfold State.doorbell
  try dsimp only
  repeat' with_reducible first
    | assumption
    | exact .inr rfl
    | exact fun w => w
    | exact List.Subset.trans (by decide) hB
    | intro _
    | apply Keeps.ite
    | apply hf
    | apply State.access_keeps
    | apply State.report_keeps
    | refine Keeps.snd (by assumption) ?_
    | refine Keeps.fst (by assumption) ?_
    | split

theorem State.setSqTail_keeps {s₀ s : State} (h : Keeps B s₀ s) (hB : [Block.rings] ⊆ B) (r v : Nat) :
    Keeps B s₀ (State.setSqTail s r v) := by
  unfold State.setSqTail
  try dsimp only
  repeat' with_reducible first
    | assumption
    | exact .inr rfl
    | exact fun w => w
    | exact List.Subset.trans (by decide) hB
    | intro _
    | apply Keeps.ite
    | apply State.modRing_keeps

theorem State.setCqHead_keeps {s₀ s : State} (h : Keeps B s₀ s) (hB : [Block.rings, .engine, .out] ⊆ B) (r v : Nat) :
    Keeps B s₀ (State.setCqHead s r v) := by
  unfold State.setCqHead
  try dsimp only
  repeat' with_reducible first
    | assumption
    | exact .inr rfl
    | exact fun w => w
    | exact List.Subset.trans (by decide) hB
    | intro _
    | apply Keeps.ite
    | apply State.modRing_keeps
    | apply unspill_keeps

theorem State.passEntry_keeps {s₀ s : State} (h : Keeps B s₀ s) (hB : [Block.rings] ⊆ B) (r : Nat) :
    Keeps B s₀ (State.passEntry s r) := by
  unfold State.passEntry
  try dsimp only
  repeat' with_reducible first
    | assumption
    | exact .inr rfl
    | exact fun w => w
    | exact List.Subset.trans (by decide) hB
    | intro _
    | apply Keeps.ite
    | apply State.modRing_keeps

theorem State.bareRecord_keeps {s₀ s : State} (h : Keeps B s₀ s)
    (hB : [Block.rings] ⊆ B) (r place : Nat) (cancels : Option Nat) (tag status flags stream : Nat) :
    Keeps B s₀ (State.bareRecord s r place cancels tag status flags stream) := by
  unfold State.bareRecord
  try dsimp only
  repeat' with_reducible first
    | assumption
    | exact .inr rfl
    | exact fun w => w
    | exact List.Subset.trans (by decide) hB
    | intro _
    | apply Keeps.ite
    | apply State.putRecord_keeps

theorem State.refuseEntry_keeps {s₀ s : State} (h : Keeps B s₀ s)
    (hB : [Block.rings] ⊆ B) (r : Nat) (e : Bytes) (status flags : Nat) :
    Keeps B s₀ (State.refuseEntry s r e status flags) := by
  unfold State.refuseEntry
  try dsimp only
  repeat' with_reducible first
    | assumption
    | exact .inr rfl
    | exact fun w => w
    | exact List.Subset.trans (by decide) hB
    | intro _
    | apply Keeps.ite
    | apply State.bareRecord_keeps
    | apply State.modRing_keeps
    | apply State.passEntry_keeps

theorem State.fetch_keeps {s₀ s : State} (h : Keeps B s₀ s)
    (hB : [Block.rings, .reqs] ⊆ B) (r : Nat) (e : Bytes) (prompt : List Word) :
    Keeps B s₀ (State.fetch s r e prompt) := by
  unfold State.fetch
  try dsimp only
  repeat' with_reducible first
    | assumption
    | exact .inr rfl
    | exact .inl (inB hB (by decide))
    | exact fun w => w
    | exact List.Subset.trans (by decide) hB
    | intro _
    | apply Keeps.ite
    | apply State.passEntry_keeps
    | apply State.refuseEntry_keeps
    | (rw [State.mk_eq]; apply Keeps.upd)

theorem State.finishPending_keeps {s₀ s : State} (h : Keeps B s₀ s)
    (hB : [Block.rings, .reqs] ⊆ B) (q : Request) (p : Nat) :
    Keeps B s₀ (State.finishPending s q p) := by
  unfold State.finishPending
  try dsimp only
  repeat' with_reducible first
    | assumption
    | exact .inr rfl
    | exact fun w => w
    | exact List.Subset.trans (by decide) hB
    | intro _
    | apply Keeps.ite
    | apply State.bareRecord_keeps
    | apply State.modRequest_keeps

theorem State.cancelRequest_keeps {s₀ s : State} (h : Keeps B s₀ s)
    (hB : [Block.rings, .reqs] ⊆ B) (q : Option Request) :
    Keeps B s₀ (State.cancelRequest s q) := by
  unfold State.cancelRequest
  try dsimp only
  repeat' with_reducible first
    | assumption
    | exact .inr rfl
    | exact fun w => w
    | exact List.Subset.trans (by decide) hB
    | intro _
    | apply Keeps.ite
    | apply State.finishPending_keeps
    | apply State.modRequest_keeps
    | apply State.prune_keeps
    | split

theorem State.acceptCancel_keeps {s₀ s : State} (h : Keeps B s₀ s)
    (hB : [Block.rings, .reqs] ⊆ B) (r tag stream : Nat) (q : Option Request) :
    Keeps B s₀ (State.acceptCancel s r tag stream q) := by
  unfold State.acceptCancel
  try dsimp only
  repeat' with_reducible first
    | assumption
    | exact .inr rfl
    | exact fun w => w
    | exact List.Subset.trans (by decide) hB
    | intro _
    | apply Keeps.ite
    | apply State.bareRecord_keeps
    | apply State.cancelRequest_keeps

theorem State.fetchCancel_keeps {s₀ s : State} (h : Keeps B s₀ s)
    (hB : [Block.rings, .reqs] ⊆ B) (r : Nat) (e : Bytes) :
    Keeps B s₀ (State.fetchCancel s r e) := by
  unfold State.fetchCancel
  try dsimp only
  repeat' with_reducible first
    | assumption
    | exact .inr rfl
    | exact fun w => w
    | exact List.Subset.trans (by decide) hB
    | intro _
    | apply Keeps.ite
    | apply State.acceptCancel_keeps
    | apply State.passEntry_keeps
    | apply State.refuseEntry_keeps

theorem State.failCommand_keeps {s₀ s : State} (h : Keeps B s₀ s)
    (hB : [Block.mbx, .heddles, .harnesses, .ctxs, .out] ⊆ B) (m : Nat) :
    Keeps B s₀ (State.failCommand s m) := by
  unfold State.failCommand
  try dsimp only
  repeat' with_reducible first
    | assumption
    | exact .inr rfl
    | exact fun w => w
    | exact List.Subset.trans (by decide) hB
    | intro _
    | apply Keeps.ite
    | apply State.complete_keeps
    | apply State.endHeld_keeps
    | apply State.modCtl_keeps
    | split

/-! ## Health -/

theorem State.eventWritten_keeps {s₀ s : State} (h : Keeps B s₀ s)
    (hB : [Block.time, .mbx, .mem, .heddles, .harnesses, .looms, .scrub, .windows, .sealed, .kvt, .ctxs, .sched,
      .rings, .streams, .reqs, .history, .unitMap, .packs, .memChecks, .lifetime, .twill, .domains, .cuts, .relayed,
      .twin, .ports, .obs, .agg, .out] ⊆ B) :
    Keeps B s₀ (State.eventWritten s) := by
  unfold State.eventWritten
  try dsimp only
  repeat' with_reducible first
    | assumption
    | exact .inr rfl
    | exact .inl (inB hB (by decide))
    | exact fun w => w
    | exact List.Subset.trans (by decide) hB
    | intro _
    | apply Keeps.ite
    | apply State.permanent_keeps
    | (rw [State.mk_eq]; apply Keeps.upd)
    | split

theorem State.leaveMap_keeps {s₀ s : State} (h : Keeps B s₀ s)
    (hB : [Block.history, .unitMap, .packs, .memChecks, .lifetime, .twill, .domains, .ports] ⊆ B) (kind idx : Nat) :
    Keeps B s₀ (State.leaveMap s kind idx) := by
  unfold State.leaveMap
  try dsimp only
  repeat' with_reducible first
    | assumption
    | exact .inr rfl
    | exact .inl (inB hB (by decide))
    | exact fun w => w
    | exact List.Subset.trans (by decide) hB
    | intro _
    | apply Keeps.ite
    | apply State.each_keeps
    | apply State.modDomain_keeps
    | apply State.modPort_keeps
    | (rw [State.mk_eq]; apply Keeps.upd)

theorem State.replayCapture_keeps {s₀ s : State} (h : Keeps B s₀ s)
    (hB : [Block.history, .packs] ⊆ B) (c i : Nat) (x : Capture) (u : Nat × Nat) (differs : Bool) :
    Keeps B s₀ (State.replayCapture s c i x u differs) := by
  unfold State.replayCapture
  try dsimp only
  repeat' with_reducible first
    | assumption
    | exact .inr rfl
    | exact .inl (inB hB (by decide))
    | exact fun w => w
    | exact List.Subset.trans (by decide) hB
    | intro _
    | apply Keeps.ite
    | apply State.healthEvent_keeps
    | (rw [State.mk_eq]; apply Keeps.upd)

theorem State.runItem_keeps {s₀ s : State} (h : Keeps B s₀ s)
    (hB : [Block.history, .unitMap, .packs, .memChecks, .lifetime, .twill] ⊆ B) (c : Nat) (u : Nat × Nat) (differs :
      Bool) :
    Keeps B s₀ (State.runItem s c u differs) := by
  unfold State.runItem
  try dsimp only
  repeat' with_reducible first
    | assumption
    | exact .inr rfl
    | exact .inl (inB hB (by decide))
    | exact fun w => w
    | exact List.Subset.trans (by decide) hB
    | intro _
    | apply Keeps.ite
    | apply State.healthEvent_keeps
    | (rw [State.mk_eq]; apply Keeps.upd)

theorem State.testHeddle_keeps {s₀ s : State} (h : Keeps B s₀ s)
    (hB : [Block.heddles, .harnesses, .scrub, .ctxs, .history, .packs, .memChecks, .obs, .agg] ⊆ B) (c l bank : Nat)
      (input : Bytes) (i : Fin 64) (g : Nat) (ups : List Upset) :
    Keeps B s₀ (State.testHeddle s c l bank input i g ups).1 := by
  unfold State.testHeddle
  try dsimp only
  repeat' with_reducible first
    | assumption
    | exact .inr rfl
    | exact fun w => w
    | exact List.Subset.trans (by decide) hB
    | intro _
    | apply Keeps.ite
    | apply State.dentEvents_keeps
    | apply State.noteTile_keeps
    | apply State.patternGone_keeps
    | apply State.patternRead_keeps

theorem State.testHarness_keeps {s₀ s : State} (h : Keeps B s₀ s)
    (hB : [Block.heddles, .harnesses, .looms, .scrub, .ctxs, .history, .packs, .memChecks, .obs, .agg] ⊆ B) (c l
      bank harness : Nat) (record input : Bytes) (ups : List Upset) :
    Keeps B s₀ (State.testHarness s c l bank harness record input ups).1 := by
  unfold State.testHarness
  try dsimp only
  repeat' with_reducible first
    | assumption
    | exact .inr rfl
    | exact fun w => w
    | exact List.Subset.trans (by decide) hB
    | intro _
    | apply Keeps.ite
    | apply foldl_keeps
    | apply State.residueFail_keeps
    | apply State.testHeddle_keeps

theorem State.testChecks_keeps {s₀ s : State} (h : Keeps B s₀ s)
    (hB : [Block.sec, .looms, .kvt, .ctxs, .history, .packs, .obs, .agg] ⊆ B) (c l : Nat) (st : PlanStep) (u : Nat ×
      Nat) (data : Bytes) (ups : List Upset) :
    Keeps B s₀ (State.testChecks s c l st u data ups) := by
  unfold State.testChecks
  try dsimp only
  repeat' with_reducible first
    | assumption
    | exact .inr rfl
    | exact fun w => w
    | exact List.Subset.trans (by decide) hB
    | intro _
    | apply Keeps.ite
    | apply State.fault_keeps
    | apply State.residueFail_keeps
    | apply State.shuttleFails_keeps
    | apply State.tableEcc_keeps

theorem State.itemWork_keeps {s₀ s : State} (h : Keeps B s₀ s)
    (hB : [Block.sec, .heddles, .harnesses, .looms, .scrub, .kvt, .ctxs, .history, .unitMap, .packs, .memChecks,
      .lifetime, .twill, .obs, .agg] ⊆ B) (c l : Nat) (d : Due) (st : PlanStep) (u : Nat × Nat) (x : PackItem)
      (output : Bytes) (ups : List Upset) :
    Keeps B s₀ (State.itemWork s c l d st u x output ups) := by
  unfold State.itemWork
  try dsimp only
  repeat' with_reducible first
    | assumption
    | exact .inr rfl
    | exact fun w => w
    | exact List.Subset.trans (by decide) hB
    | intro _
    | apply Keeps.ite
    | apply State.checkedRead_keeps
    | apply State.runItem_keeps
    | apply State.testChecks_keeps
    | apply State.testHarness_keeps
    | refine Keeps.snd (by assumption) ?_
    | refine Keeps.fst (by assumption) ?_
    | split

theorem State.testWork_keeps {s₀ s : State} (h : Keeps B s₀ s)
    (hB : [Block.sec, .heddles, .harnesses, .looms, .scrub, .kvt, .ctxs, .history, .unitMap, .packs, .memChecks,
      .lifetime, .twill, .obs, .agg] ⊆ B) (c l : Nat) (d : Due) (st : PlanStep) (seen : TestSeen) :
    Keeps B s₀ (State.testWork s c l d st seen) := by
  unfold State.testWork
  try dsimp only
  repeat' with_reducible first
    | assumption
    | exact .inr rfl
    | exact fun w => w
    | exact List.Subset.trans (by decide) hB
    | intro _
    | apply Keeps.ite
    | apply State.itemWork_keeps
    | apply State.replayCapture_keeps
    | apply State.testChecks_keeps
    | split

/-! ## Links -/

theorem State.resendAll_keeps {s₀ s : State} (h : Keeps B s₀ s)
    (hB : [Block.ctxs, .ports, .obs, .out] ⊆ B) (p : Nat) :
    Keeps B s₀ (State.resendAll s p) := by
  unfold State.resendAll
  try dsimp only
  repeat' with_reducible first
    | assumption
    | exact .inr rfl
    | exact fun w => w
    | exact List.Subset.trans (by decide) hB
    | intro _
    | apply Keeps.ite
    | apply State.each_keeps
    | apply State.check_keeps
    | apply State.emit_keeps
    | apply State.modPort_keeps
    | apply State.perf_keeps

theorem State.lossOn_keeps {s₀ s : State} (h : Keeps B s₀ s) (hB : [Block.ports, .out] ⊆ B) (p : Nat) :
    Keeps B s₀ (State.lossOn s p) := by
  unfold State.lossOn
  try dsimp only
  repeat' with_reducible first
    | assumption
    | exact .inr rfl
    | exact fun w => w
    | exact List.Subset.trans (by decide) hB
    | intro _
    | apply Keeps.ite
    | apply State.emit_keeps
    | apply State.modPort_keeps

theorem State.takeSeq_keeps {s₀ s : State} (h : Keeps B s₀ s) (hB : [Block.ports, .out] ⊆ B) (p seq : Nat) :
    Keeps B s₀ (State.takeSeq s p seq) := by
  unfold State.takeSeq
  try dsimp only
  repeat' with_reducible first
    | assumption
    | exact .inr rfl
    | exact fun w => w
    | exact List.Subset.trans (by decide) hB
    | intro _
    | apply Keeps.ite
    | apply State.lossOn_keeps
    | apply State.modPort_keeps

theorem State.flit_keeps {s₀ s : State} (h : Keeps B s₀ s)
    (hB : [Block.ctxs, .ports, .obs, .out] ⊆ B) (p : Nat) (f : Flit) :
    Keeps B s₀ (State.flit s p f) := by
  unfold State.flit
  try dsimp only
  repeat' with_reducible first
    | assumption
    | exact .inr rfl
    | exact fun w => w
    | exact List.Subset.trans (by decide) hB
    | intro _
    | apply Keeps.ite
    | apply State.lossOn_keeps
    | apply State.modPort_keeps
    | apply State.resendAll_keeps
    | apply State.takeSeq_keeps

theorem State.startRetrain_keeps {s₀ s : State} (h : Keeps B s₀ s) (hB : [Block.ports] ⊆ B) (p : Nat) :
    Keeps B s₀ (State.startRetrain s p) := by
  unfold State.startRetrain
  try dsimp only
  repeat' with_reducible first
    | assumption
    | exact .inr rfl
    | exact fun w => w
    | exact List.Subset.trans (by decide) hB
    | intro _
    | apply Keeps.ite
    | apply State.modPort_keeps

theorem State.portEnable_keeps {s₀ s : State} (h : Keeps B s₀ s)
    (hB : [Block.time, .ports, .agg] ⊆ B) (p : Nat) (on : Bool) :
    Keeps B s₀ (State.portEnable s p on) := by
  unfold State.portEnable
  try dsimp only
  repeat' with_reducible first
    | assumption
    | exact .inr rfl
    | exact fun w => w
    | exact List.Subset.trans (by decide) hB
    | intro _
    | apply Keeps.ite
    | apply State.fresh_keeps
    | apply State.modPort_keeps
    | apply State.report_keeps
    | apply State.upstreamDown_keeps

theorem State.takeIdent_keeps {s₀ s : State} (h : Keeps B s₀ s)
    (hB : [Block.tick, .ports] ⊆ B) (p id peerPort profile fw : Nat) :
    Keeps B s₀ (State.takeIdent s p id peerPort profile fw) := by
  unfold State.takeIdent
  try dsimp only
  repeat' with_reducible first
    | assumption
    | exact .inr rfl
    | exact fun w => w
    | exact List.Subset.trans (by decide) hB
    | intro _
    | apply Keeps.ite
    | apply State.fresh_keeps
    | apply State.modPort_keeps

theorem State.takePlanId_keeps {s₀ s : State} (h : Keeps B s₀ s)
    (hB : [Block.relayed, .ports, .out] ⊆ B) (p g origin leader : Nat) (aligned : Bool) :
    Keeps B s₀ (State.takePlanId s p g origin leader aligned) := by
  unfold State.takePlanId
  try dsimp only
  repeat' with_reducible first
    | assumption
    | exact .inr rfl
    | exact fun w => w
    | exact List.Subset.trans (by decide) hB
    | intro _
    | apply Keeps.ite
    | apply State.each_keeps
    | apply State.modPort_keeps
    | apply State.noteMsg_keeps
    | apply State.sendOn_keeps

/-! ## Boot -/

theorem State.modSec_keeps {s₀ s : State} (h : Keeps B s₀ s) (hB : [Block.sec] ⊆ B) (f : Sec → Sec) :
    Keeps B s₀ (State.modSec s f) := by
  unfold State.modSec
  try dsimp only
  repeat' with_reducible first
    | assumption
    | exact .inr rfl
    | exact .inl (inB hB (by decide))
    | exact fun w => w
    | intro _
    | apply Keeps.ite
    | (rw [State.mk_eq]; apply Keeps.upd)

theorem State.toStage_keeps {s₀ s : State} (h : Keeps B s₀ s) (hB : [Block.sec] ⊆ B) (n : Nat) :
    Keeps B s₀ (State.toStage s n) := by
  unfold State.toStage
  try dsimp only
  repeat' with_reducible first
    | assumption
    | exact .inr rfl
    | exact fun w => w
    | exact List.Subset.trans (by decide) hB
    | intro _
    | apply Keeps.ite
    | apply State.modSec_keeps

theorem State.enterBootStage_keeps {s₀ s : State} (h : Keeps B s₀ s) (hB : [Block.sec] ⊆ B) :
    Keeps B s₀ (State.enterBootStage s) := by
  unfold State.enterBootStage
  try dsimp only
  repeat' with_reducible first
    | assumption
    | exact .inr rfl
    | exact fun w => w
    | exact List.Subset.trans (by decide) hB
    | intro _
    | apply Keeps.ite
    | apply State.modSec_keeps
    | apply State.toStage_keeps

theorem State.applyRecord_keeps {s₀ s : State} (h : Keeps B s₀ s) (hB : [Block.pwr, .sec, .acc, .scrub, .mon] ⊆ B) :
    Keeps B s₀ (State.applyRecord s) := by
  unfold State.applyRecord
  try dsimp only
  repeat' with_reducible first
    | assumption
    | exact .inl (inB hB (by decide))
    | exact .inr rfl
    | exact fun w => w
    | exact List.Subset.trans (by decide) hB
    | intro _
    | apply Keeps.ite
    | apply State.modSec_keeps
    | (rw [State.mk_eq]; apply Keeps.upd)

theorem State.withoutRecord_keeps {s₀ s : State} (h : Keeps B s₀ s) (hB : [Block.mon] ⊆ B) :
    Keeps B s₀ (State.withoutRecord s) := by
  unfold State.withoutRecord
  try dsimp only
  repeat' with_reducible first
    | assumption
    | exact .inr rfl
    | exact .inl (inB hB (by decide))
    | exact fun w => w
    | intro _
    | apply Keeps.ite
    | (rw [State.mk_eq]; apply Keeps.upd)

theorem State.bistResult_keeps {s₀ s : State} (h : Keeps B s₀ s)
    (hB : [Block.sec, .history, .log, .out] ⊆ B) (item whenRun : Nat) (tested : List Nat) (o : BistOutcome) :
    Keeps B s₀ (State.bistResult s item whenRun tested o) := by
  unfold State.bistResult
  try dsimp only
  repeat' with_reducible first
    | assumption
    | exact .inr rfl
    | exact fun w => w
    | exact List.Subset.trans (by decide) hB
    | intro _
    | apply Keeps.ite
    | apply State.each_keeps
    | apply State.healthEvent_keeps
    | apply State.logEvent_keeps
    | apply State.modSec_keeps

theorem State.loadMap_keeps {s₀ s : State} (h : Keeps B s₀ s)
    (hB : [Block.time, .heddles, .harnesses, .windows, .history, .unitMap, .packs, .memChecks, .lifetime, .twill,
      .domains, .ports] ⊆ B) :
    Keeps B s₀ (State.loadMap s) := by
  unfold State.loadMap
  try dsimp only
  repeat' with_reducible first
    | assumption
    | exact .inr rfl
    | exact .inl (inB hB (by decide))
    | exact fun w => w
    | exact List.Subset.trans (by decide) hB
    | intro _
    | apply Keeps.ite
    | apply State.each_keeps
    | apply State.modDomain_keeps
    | apply State.takeDown_keeps
    | (rw [State.mk_eq]; apply Keeps.upd)

theorem State.trimAll_keeps {s₀ s : State} (h : Keeps B s₀ s) (hB : [Block.harnesses, .looms] ⊆ B) :
    Keeps B s₀ (State.trimAll s) := by
  unfold State.trimAll
  try dsimp only
  repeat' with_reducible first
    | assumption
    | exact .inl (inB hB (by decide))
    | exact .inr rfl
    | exact fun w => w
    | exact List.Subset.trans (by decide) hB
    | intro _
    | apply Keeps.ite
    | apply State.each_keeps
    | apply foldl_keeps
    | apply State.modLoom_keeps
    | (rw [State.mk_eq]; apply Keeps.upd)

theorem State.rcvProgram_keeps {s₀ s : State} (h : Keeps B s₀ s) (hB : [Block.sec] ⊆ B) (v : Word) :
    Keeps B s₀ (State.rcvProgram s v) := by
  unfold State.rcvProgram
  try dsimp only
  repeat' with_reducible first
    | assumption
    | exact .inr rfl
    | exact fun w => w
    | exact List.Subset.trans (by decide) hB
    | intro _
    | apply Keeps.ite
    | apply State.modSec_keeps

theorem State.rcvVerify_keeps {s₀ s : State} (h : Keeps B s₀ s) (hB : [Block.sec] ⊆ B) :
    Keeps B s₀ (State.rcvVerify s) := by
  unfold State.rcvVerify
  try dsimp only
  repeat' with_reducible first
    | assumption
    | exact .inr rfl
    | exact fun w => w
    | exact List.Subset.trans (by decide) hB
    | intro _
    | apply Keeps.ite
    | apply State.enterBootStage_keeps
    | apply State.modSec_keeps

theorem State.bistStale_keeps {s₀ s : State} (h : Keeps B s₀ s)
    (hB : [Block.mon] ⊆ B) (item : Nat) (tested : List Nat) :
    Keeps B s₀ (State.bistStale s item tested) := by
  unfold State.bistStale
  try dsimp only
  repeat' with_reducible first
    | assumption
    | exact .inr rfl
    | exact fun w => w
    | exact List.Subset.trans (by decide) hB
    | intro _
    | apply Keeps.ite
    | apply State.each_keeps
    | apply State.modChan_keeps

/-! ## Security -/

theorem State.unlock_keeps {s₀ s : State} (h : Keeps B s₀ s) (hB : [Block.sec, .ctxs] ⊆ B) :
    Keeps B s₀ (State.unlock s) := by
  unfold State.unlock
  try dsimp only
  repeat' with_reducible first
    | assumption
    | exact .inr rfl
    | exact .inl (inB hB (by decide))
    | exact fun w => w
    | exact List.Subset.trans (by decide) hB
    | intro _
    | apply Keeps.ite
    | apply State.modSec_keeps
    | (rw [State.mk_eq]; apply Keeps.upd)

end Sys2Proof.Machine
end

