-- ==== Sys2Proof/Laws/KeepsRegs.lean ====
section
/-! SUPPORT. Every operation keeps the queue and memory's canonical form (`Keeps`):
observation, register reads and writes, and BAR accesses. One
lemma an operation: `State.<name>_keeps`, `hB` lists the blocks it may change. -/

namespace Sys2Proof.Machine

variable {B : List Block}

/-! ## Observe -/

theorem State.modObs_keeps {s₀ s : State} (h : Keeps B s₀ s) (hB : [Block.obs] ⊆ B) (f : Observe → Observe) :
    Keeps B s₀ (State.modObs s f) := by
  unfold State.modObs
  try dsimp only
  repeat' with_reducible first
    | assumption
    | exact .inr rfl
    | exact .inl (inB hB (by decide))
    | exact fun w => w
    | intro _
    | apply Keeps.ite
    | (rw [State.mk_eq]; apply Keeps.upd)

theorem State.readBusy_keeps {s₀ s : State} (h : Keeps B s₀ s) (hB : [Block.acc] ⊆ B) (j : Nat) :
    Keeps B s₀ (State.readBusy s j).2 := by
  unfold State.readBusy
  try dsimp only
  repeat' with_reducible first
    | assumption
    | exact .inr rfl
    | exact fun w => w
    | exact List.Subset.trans (by decide) hB
    | intro _
    | apply Keeps.ite
    | apply State.modLatch_keeps

theorem State.pmcRun_keeps {s₀ s : State} (h : Keeps B s₀ s) (hB : [Block.obs] ⊆ B) (on : Bool) :
    Keeps B s₀ (State.pmcRun s on) := by
  unfold State.pmcRun
  try dsimp only
  repeat' with_reducible first
    | assumption
    | exact .inr rfl
    | exact fun w => w
    | exact List.Subset.trans (by decide) hB
    | intro _
    | apply Keeps.ite
    | apply State.modObs_keeps

theorem State.pmcWrite_keeps {s₀ s : State} (h : Keeps B s₀ s)
    (hB : [Block.obs] ⊆ B) (n : Nat) (hi : Bool) (v : Nat) :
    Keeps B s₀ (State.pmcWrite s n hi v) := by
  unfold State.pmcWrite
  try dsimp only
  repeat' with_reducible first
    | assumption
    | exact .inr rfl
    | exact fun w => w
    | exact List.Subset.trans (by decide) hB
    | intro _
    | apply Keeps.ite
    | apply State.modPmc_keeps

theorem State.prvRead_keeps {s₀ s : State} (h : Keeps B s₀ s)
    (hB : [Block.agg] ⊆ B) (j : Nat) (f : State → Word × State) (hf : ∀ t, Keeps B s₀ t → Keeps B s₀ (f t).2) :
    Keeps B s₀ (State.prvRead s j f).2 := by
  unfold State.prvRead
  try dsimp only
  repeat' with_reducible first
    | assumption
    | exact .inr rfl
    | exact fun w => w
    | exact List.Subset.trans (by decide) hB
    | intro _
    | apply Keeps.ite
    | apply hf
    | apply State.report_keeps
    | split

theorem State.readPmc_keeps {s₀ s : State} (h : Keeps B s₀ s) (hB : [Block.obs, .agg] ⊆ B) (j : Nat) :
    Keeps B s₀ (State.readPmc s j).2 := by
  unfold State.readPmc
  try dsimp only
  repeat' with_reducible first
    | assumption
    | exact .inr rfl
    | exact fun w => w
    | exact List.Subset.trans (by decide) hB
    | intro _
    | apply Keeps.ite
    | apply State.modObs_keeps
    | apply State.prvRead_keeps

theorem State.tagSeed_keeps {s₀ s : State} (h : Keeps B s₀ s) (hB : [Block.sched, .obs] ⊆ B) (v : Word) :
    Keeps B s₀ (State.tagSeed s v) := by
  unfold State.tagSeed
  try dsimp only
  repeat' with_reducible first
    | assumption
    | exact .inr rfl
    | exact .inl (inB hB (by decide))
    | exact fun w => w
    | intro _
    | apply Keeps.ite
    | (rw [State.mk_eq]; apply Keeps.upd)

theorem State.tagCtrl_keeps {s₀ s : State} (h : Keeps B s₀ s) (hB : [Block.obs] ⊆ B) (v : Nat) :
    Keeps B s₀ (State.tagCtrl s v) := by
  unfold State.tagCtrl
  try dsimp only
  repeat' with_reducible first
    | assumption
    | exact .inr rfl
    | exact fun w => w
    | exact List.Subset.trans (by decide) hB
    | intro _
    | apply Keeps.ite
    | apply State.arm_keeps
    | apply State.modObs_keeps

theorem State.traceCtrl_keeps {s₀ s : State} (h : Keeps B s₀ s) (hB : [Block.obs] ⊆ B) (v : Nat) :
    Keeps B s₀ (State.traceCtrl s v) := by
  unfold State.traceCtrl
  try dsimp only
  repeat' with_reducible first
    | assumption
    | exact .inr rfl
    | exact fun w => w
    | exact List.Subset.trans (by decide) hB
    | intro _
    | apply Keeps.ite
    | apply State.arm_keeps
    | apply State.modObs_keeps

/-! ## Regs -/

theorem State.readEffect_keeps {s₀ s : State} (h : Keeps B s₀ s)
    (hB : [Block.acc, .obs, .agg] ⊆ B) (j : Nat) (r : Reg) :
    Keeps B s₀ (State.readEffect s j r) := by
  unfold State.readEffect
  try dsimp only
  repeat' with_reducible first
    | assumption
    | exact .inr rfl
    | exact fun w => w
    | exact List.Subset.trans (by decide) hB
    | intro _
    | apply Keeps.ite
    | apply State.readBusy_keeps
    | apply State.readMonAcc_keeps
    | apply State.readPickLo_keeps
    | apply State.readPmc_keeps
    | refine Keeps.snd (by assumption) ?_
    | refine Keeps.fst (by assumption) ?_
    | split

theorem State.readReg_keeps {s₀ s : State} (h : Keeps B s₀ s) (hB : [Block.acc, .obs, .agg] ⊆ B) (j : Nat) (r : Reg) :
    Keeps B s₀ (State.readReg s j r).2 := by
  unfold State.readReg
  try dsimp only
  repeat' with_reducible first
    | assumption
    | exact .inr rfl
    | exact fun w => w
    | exact List.Subset.trans (by decide) hB
    | intro _
    | apply Keeps.ite
    | apply State.readEffect_keeps
    | apply State.report_keeps
    | split

theorem State.readXfer_keeps {s₀ s : State} (h : Keeps B s₀ s) (hB : [Block.agg] ⊆ B) (j off : Nat) :
    Keeps B s₀ (State.readXfer s j off).2 := by
  unfold State.readXfer
  try dsimp only
  repeat' with_reducible first
    | assumption
    | exact .inr rfl
    | exact fun w => w
    | exact List.Subset.trans (by decide) hB
    | intro _
    | apply Keeps.ite
    | apply State.report_keeps
    | split

theorem State.readBar0_keeps {s₀ s : State} (h : Keeps B s₀ s) (hB : [Block.acc, .obs, .agg] ⊆ B) (j off : Nat) :
    Keeps B s₀ (State.readBar0 s j off).2 := by
  unfold State.readBar0
  try dsimp only
  repeat' with_reducible first
    | assumption
    | exact .inr rfl
    | exact fun w => w
    | exact List.Subset.trans (by decide) hB
    | intro _
    | apply Keeps.ite
    | apply State.readReg_keeps
    | apply State.readXfer_keeps
    | refine Keeps.snd (by assumption) ?_
    | refine Keeps.fst (by assumption) ?_
    | split

/-! ## RegWrite -/

theorem State.mbxClaim_keeps {s₀ s : State} (h : Keeps B s₀ s) (hB : [Block.mbx, .agg] ⊆ B) (j m : Nat) :
    Keeps B s₀ (State.mbxClaim s j m) := by
  unfold State.mbxClaim
  try dsimp only
  repeat' with_reducible first
    | assumption
    | exact .inr rfl
    | exact fun w => w
    | exact List.Subset.trans (by decide) hB
    | intro _
    | apply Keeps.ite
    | apply State.modMailbox_keeps
    | apply State.report_keeps

theorem State.mbxRelease_keeps {s₀ s : State} (h : Keeps B s₀ s) (hB : [Block.mbx, .agg] ⊆ B) (j m : Nat) :
    Keeps B s₀ (State.mbxRelease s j m) := by
  unfold State.mbxRelease
  try dsimp only
  repeat' with_reducible first
    | assumption
    | exact .inr rfl
    | exact fun w => w
    | exact List.Subset.trans (by decide) hB
    | intro _
    | apply Keeps.ite
    | apply State.modMailbox_keeps
    | apply State.report_keeps

theorem State.mbxHolder_keeps {s₀ s : State} (h : Keeps B s₀ s)
    (hB : [Block.mbx, .agg] ⊆ B) (j m : Nat) (f : Mailbox → Mailbox) :
    Keeps B s₀ (State.mbxHolder s j m f) := by
  unfold State.mbxHolder
  try dsimp only
  repeat' with_reducible first
    | assumption
    | exact .inr rfl
    | exact fun w => w
    | exact List.Subset.trans (by decide) hB
    | intro _
    | apply Keeps.ite
    | apply State.modMailbox_keeps
    | apply State.report_keeps

theorem State.mbxIdle_keeps {s₀ s : State} (h : Keeps B s₀ s)
    (hB : [Block.mbx, .agg] ⊆ B) (j m : Nat) (f : Mailbox → Mailbox) :
    Keeps B s₀ (State.mbxIdle s j m f) := by
  unfold State.mbxIdle
  try dsimp only
  repeat' with_reducible first
    | assumption
    | exact .inr rfl
    | exact fun w => w
    | exact List.Subset.trans (by decide) hB
    | intro _
    | apply Keeps.ite
    | apply State.mbxHolder_keeps
    | apply State.report_keeps

theorem State.mbxCmd_keeps {s₀ s : State} (h : Keeps B s₀ s) (hB : [Block.mbx, .agg] ⊆ B) (j m v : Nat) :
    Keeps B s₀ (State.mbxCmd s j m v) := by
  unfold State.mbxCmd
  try dsimp only
  repeat' with_reducible first
    | assumption
    | exact .inr rfl
    | exact fun w => w
    | exact List.Subset.trans (by decide) hB
    | intro _
    | apply Keeps.ite
    | apply State.mbxIdle_keeps

theorem State.dropBase_keeps {s₀ s : State} (h : Keeps B s₀ s) (hB : [Block.agg] ⊆ B) :
    Keeps B s₀ (State.dropBase s) := by
  unfold State.dropBase
  try dsimp only
  repeat' with_reducible first
    | assumption
    | exact .inr rfl
    | exact fun w => w
    | exact List.Subset.trans (by decide) hB
    | intro _
    | apply Keeps.ite
    | apply State.report_keeps

theorem State.setTableBase_keeps {s₀ s : State} (h : Keeps B s₀ s) (hB : [Block.kvt, .agg] ⊆ B) (v : Nat) :
    Keeps B s₀ (State.setTableBase s v) := by
  unfold State.setTableBase
  try dsimp only
  repeat' with_reducible first
    | assumption
    | exact .inr rfl
    | exact .inl (inB hB (by decide))
    | exact fun w => w
    | exact List.Subset.trans (by decide) hB
    | intro _
    | apply Keeps.ite
    | apply State.dropBase_keeps
    | (rw [State.mk_eq]; apply Keeps.upd)

theorem State.setSmapBase_keeps {s₀ s : State} (h : Keeps B s₀ s) (hB : [Block.kvt, .agg] ⊆ B) (v : Nat) :
    Keeps B s₀ (State.setSmapBase s v) := by
  unfold State.setSmapBase
  try dsimp only
  repeat' with_reducible first
    | assumption
    | exact .inr rfl
    | exact .inl (inB hB (by decide))
    | exact fun w => w
    | exact List.Subset.trans (by decide) hB
    | intro _
    | apply Keeps.ite
    | apply State.dropBase_keeps
    | (rw [State.mk_eq]; apply Keeps.upd)

theorem State.setArena_keeps {s₀ s : State} (h : Keeps B s₀ s)
    (hB : [Block.kvt, .agg] ⊆ B) (c : Nat) (f : Arena → Arena) :
    Keeps B s₀ (State.setArena s c f) := by
  unfold State.setArena
  try dsimp only
  repeat' with_reducible first
    | assumption
    | exact .inr rfl
    | exact fun w => w
    | exact List.Subset.trans (by decide) hB
    | intro _
    | apply Keeps.ite
    | apply State.dropBase_keeps
    | apply State.modArena_keeps

theorem State.setTagBase_keeps {s₀ s : State} (h : Keeps B s₀ s) (hB : [Block.obs, .agg] ⊆ B) (a : Nat) :
    Keeps B s₀ (State.setTagBase s a) := by
  unfold State.setTagBase
  try dsimp only
  repeat' with_reducible first
    | assumption
    | exact .inr rfl
    | exact fun w => w
    | exact List.Subset.trans (by decide) hB
    | intro _
    | apply Keeps.ite
    | apply State.modObs_keeps
    | apply State.report_keeps

theorem State.setTrcBase_keeps {s₀ s : State} (h : Keeps B s₀ s) (hB : [Block.obs, .agg] ⊆ B) (a : Nat) :
    Keeps B s₀ (State.setTrcBase s a) := by
  unfold State.setTrcBase
  try dsimp only
  repeat' with_reducible first
    | assumption
    | exact .inr rfl
    | exact fun w => w
    | exact List.Subset.trans (by decide) hB
    | intro _
    | apply Keeps.ite
    | apply State.modObs_keeps
    | apply State.report_keeps

theorem State.writeOpen_keeps {s₀ s : State} (h : Keeps B s₀ s)
    (hB : [Block.clk, .time, .pwr, .sec, .acc, .mbx, .heddles, .scrub, .kvt, .ctxs, .rings, .unitMap, .twill,
      .storm, .dumps, .cuts, .alerts, .thm, .mon, .obs, .agg] ⊆ B) (j : Nat) (r : Reg) (v : Nat) :
    Keeps B s₀ (State.writeOpen s j r v) := by
  unfold State.writeOpen
  try dsimp only
  repeat' with_reducible first
    | assumption
    | exact .inr rfl
    | exact .inl (inB hB (by decide))
    | exact fun w => w
    | exact List.Subset.trans (by decide) hB
    | intro _
    | apply Keeps.ite
    | apply State.alertHsShutdown_keeps
    | apply State.alertHsTherm_keeps
    | apply State.alertLinkFail_keeps
    | apply State.alertStorm_keeps
    | apply State.alertThermal_keeps
    | apply State.gstop_keeps
    | apply State.mbxClaim_keeps
    | apply State.mbxCmd_keeps
    | apply State.mbxHolder_keeps
    | apply State.mbxIdle_keeps
    | apply State.mbxRelease_keeps
    | apply State.modChan_keeps
    | apply State.modHeddle_keeps
    | apply State.modObs_keeps
    | apply State.modRecs_keeps
    | apply State.modRing_keeps
    | apply State.modSec_keeps
    | apply State.modSel_keeps
    | apply State.modSlot_keeps
    | apply State.peakClear_keeps
    | apply State.rcvProgram_keeps
    | apply State.rcvVerify_keeps
    | (rw [State.mk_eq]; apply Keeps.upd)
    | split

theorem State.writePrv_keeps {s₀ s : State} (h : Keeps B s₀ s)
    (hB : [Block.time, .pwr, .sec, .acc, .mbx, .mem, .heddles, .harnesses, .looms, .scrub, .windows, .kvt, .ctxs,
      .sched, .rings, .streams, .tenants, .reqs, .history, .packs, .memChecks, .log, .storm, .domains, .modResets,
      .cuts, .relayed, .marks, .alerts, .twin, .ports, .thm, .mon, .obs, .agg, .out] ⊆ B) (j : Nat) (r : Reg) (v :
      Nat) :
    Keeps B s₀ (State.writePrv s j r v) := by
  unfold State.writePrv
  try dsimp only
  repeat' with_reducible first
    | assumption
    | exact .inr rfl
    | exact .inl (inB hB (by decide))
    | exact fun w => w
    | exact List.Subset.trans (by decide) hB
    | intro _
    | apply Keeps.ite
    | apply foldl_keeps
    | apply State.ctxDisable_keeps
    | apply State.ctxEnable_keeps
    | apply State.fullTrim_keeps
    | apply State.gstop_keeps
    | apply State.harnessReset_keeps
    | apply State.maskSet_keeps
    | apply State.mbxHolder_keeps
    | apply State.modDomain_keeps
    | apply State.modHeddle_keeps
    | apply State.modLoom_keeps
    | apply State.modObs_keeps
    | apply State.modPmc_keeps
    | apply State.modPort_keeps
    | apply State.modSec_keeps
    | apply State.modSel_keeps
    | apply State.modShuttle_keeps
    | apply State.modSlot_keeps
    | apply State.modTenant_keeps
    | apply State.monCal_keeps
    | apply State.monClear_keeps
    | apply State.monPeriod_keeps
    | apply State.monRestore_keeps
    | apply State.monSource_keeps
    | apply State.pmcRun_keeps
    | apply State.pmcWrite_keeps
    | apply State.portEnable_keeps
    | apply State.reqActive_keeps
    | apply State.reqOff_keeps
    | apply State.reqRetention_keeps
    | apply State.setArena_keeps
    | apply State.setSmapBase_keeps
    | apply State.setTableBase_keeps
    | apply State.setTagBase_keeps
    | apply State.setTrcBase_keeps
    | apply State.startRetrain_keeps
    | apply State.strictSet_keeps
    | apply State.tagCtrl_keeps
    | apply State.tagSeed_keeps
    | apply State.timeRole_keeps
    | apply State.traceCtrl_keeps
    | apply State.twillSet_keeps
    | (rw [State.mk_eq]; apply Keeps.upd)
    | refine Keeps.snd (by assumption) ?_
    | refine Keeps.fst (by assumption) ?_
    | split

theorem State.writeReg_keeps {s₀ s : State} (h : Keeps B s₀ s)
    (hB : [Block.clk, .time, .pwr, .sec, .acc, .mbx, .mem, .heddles, .harnesses, .looms, .scrub, .windows, .kvt,
      .ctxs, .sched, .rings, .streams, .tenants, .reqs, .history, .unitMap, .packs, .memChecks, .twill, .log,
      .storm, .domains, .modResets, .dumps, .cuts, .relayed, .marks, .alerts, .twin, .ports, .thm, .mon, .obs, .agg,
      .out] ⊆ B) (j : Nat) (r : Reg) (v : Word) :
    Keeps B s₀ (State.writeReg s j r v) := by
  unfold State.writeReg
  try dsimp only
  repeat' with_reducible first
    | assumption
    | exact .inr rfl
    | exact fun w => w
    | exact List.Subset.trans (by decide) hB
    | intro _
    | apply Keeps.ite
    | apply State.report_keeps
    | apply State.writeOpen_keeps
    | apply State.writePrv_keeps

theorem State.writeXfer_keeps {s₀ s : State} (h : Keeps B s₀ s)
    (hB : [Block.mem, .agg] ⊆ B) (j off : Nat) (v : Word) :
    Keeps B s₀ (State.writeXfer s j off v) := by
  unfold State.writeXfer
  try dsimp only
  repeat' with_reducible first
    | assumption
    | exact .inr rfl
    | exact fun w => w
    | exact List.Subset.trans (by decide) hB
    | intro _
    | apply Keeps.ite
    | apply State.report_keeps
    | apply State.write_keeps

theorem State.writeBar0_keeps {s₀ s : State} (h : Keeps B s₀ s)
    (hB : [Block.clk, .time, .pwr, .sec, .acc, .mbx, .mem, .heddles, .harnesses, .looms, .scrub, .windows, .kvt,
      .ctxs, .sched, .rings, .streams, .tenants, .reqs, .history, .unitMap, .packs, .memChecks, .twill, .log,
      .storm, .domains, .modResets, .dumps, .cuts, .relayed, .marks, .alerts, .twin, .ports, .thm, .mon, .obs, .agg,
      .out] ⊆ B) (j off : Nat) (v : Word) :
    Keeps B s₀ (State.writeBar0 s j off v) := by
  unfold State.writeBar0
  try dsimp only
  repeat' with_reducible first
    | assumption
    | exact .inr rfl
    | exact fun w => w
    | exact List.Subset.trans (by decide) hB
    | intro _
    | apply Keeps.ite
    | apply State.writeReg_keeps
    | apply State.writeXfer_keeps
    | split

/-! ## Access -/

theorem State.misaligned_keeps {s₀ s : State} (h : Keeps B s₀ s)
    (hB : [Block.acc, .agg, .out] ⊆ B) (who : Who) (write : Bool) :
    Keeps B s₀ (State.misaligned s who write) := by
  unfold State.misaligned
  try dsimp only
  repeat' with_reducible first
    | assumption
    | exact .inr rfl
    | exact fun w => w
    | exact List.Subset.trans (by decide) hB
    | intro _
    | apply Keeps.ite
    | apply State.access_keeps
    | apply State.deadRead_keeps
    | apply State.emit_keeps
    | apply State.report_keeps
    | apply State.write_keeps
    | refine Keeps.snd (by assumption) ?_
    | refine Keeps.fst (by assumption) ?_
    | split

theorem State.bar0Write_keeps {s₀ s : State} (h : Keeps B s₀ s)
    (hB : [Block.clk, .time, .pwr, .sec, .acc, .mbx, .mem, .heddles, .harnesses, .looms, .scrub, .windows, .kvt,
      .ctxs, .sched, .rings, .streams, .tenants, .reqs, .history, .unitMap, .packs, .memChecks, .twill, .log,
      .storm, .domains, .modResets, .dumps, .cuts, .relayed, .marks, .alerts, .twin, .ports, .thm, .mon, .obs, .agg,
      .out] ⊆ B) (who : Who) (off : Nat) (v : Word) :
    Keeps B s₀ (State.bar0Write s who off v) := by
  unfold State.bar0Write
  try dsimp only
  repeat' with_reducible first
    | assumption
    | exact .inr rfl
    | exact fun w => w
    | exact List.Subset.trans (by decide) hB
    | intro _
    | apply Keeps.ite
    | apply State.access_keeps
    | apply State.misaligned_keeps
    | apply State.writeBar0_keeps
    | refine Keeps.snd (by assumption) ?_
    | refine Keeps.fst (by assumption) ?_
    | split

theorem State.bar0Read_keeps {s₀ s : State} (h : Keeps B s₀ s)
    (hB : [Block.acc, .obs, .agg, .out] ⊆ B) (who : Who) (off : Nat) :
    Keeps B s₀ (State.bar0Read s who off) := by
  unfold State.bar0Read
  try dsimp only
  repeat' with_reducible first
    | assumption
    | exact .inr rfl
    | exact fun w => w
    | exact List.Subset.trans (by decide) hB
    | intro _
    | apply Keeps.ite
    | apply State.access_keeps
    | apply State.deadRead_keeps
    | apply State.emit_keeps
    | apply State.misaligned_keeps
    | apply State.readBar0_keeps
    | refine Keeps.snd (by assumption) ?_
    | refine Keeps.fst (by assumption) ?_
    | split

theorem State.access4_keeps {s₀ s : State} (h : Keeps B s₀ s) (hB : [Block.acc] ⊆ B) (who : Who) :
    Keeps B s₀ (State.access4 s who).2 := by
  unfold State.access4
  try dsimp only
  repeat' with_reducible first
    | assumption
    | exact .inr rfl
    | exact fun w => w
    | exact List.Subset.trans (by decide) hB
    | intro _
    | apply Keeps.ite
    | apply State.assignSlot_keeps
    | refine Keeps.snd (by assumption) ?_
    | refine Keeps.fst (by assumption) ?_
    | split

theorem State.readBar4_keeps {s₀ s : State} (h : Keeps B s₀ s) (hB : [Block.agg, .out] ⊆ B) (j off n : Nat) :
    Keeps B s₀ (State.readBar4 s j off n) := by
  unfold State.readBar4
  try dsimp only
  repeat' with_reducible first
    | assumption
    | exact .inr rfl
    | exact fun w => w
    | exact List.Subset.trans (by decide) hB
    | intro _
    | apply Keeps.ite
    | apply State.emit_keeps
    | apply State.noteSealed_keeps
    | apply State.report_keeps

theorem State.writeBar4_keeps {s₀ s : State} (h : Keeps B s₀ s)
    (hB : [Block.mem, .agg] ⊆ B) (j off : Nat) (data : Bytes) :
    Keeps B s₀ (State.writeBar4 s j off data) := by
  unfold State.writeBar4
  try dsimp only
  repeat' with_reducible first
    | assumption
    | exact .inr rfl
    | exact fun w => w
    | exact List.Subset.trans (by decide) hB
    | intro _
    | apply Keeps.ite
    | apply State.report_keeps
    | apply State.write_keeps
    | split

theorem State.modAcc_keeps {s₀ s : State} (h : Keeps B s₀ s) (hB : [Block.acc] ⊆ B) (f : Access → Access) :
    Keeps B s₀ (State.modAcc s f) := by
  unfold State.modAcc
  try dsimp only
  repeat' with_reducible first
    | assumption
    | exact .inr rfl
    | exact .inl (inB hB (by decide))
    | exact fun w => w
    | intro _
    | apply Keeps.ite
    | (rw [State.mk_eq]; apply Keeps.upd)

end Sys2Proof.Machine
end

