-- ==== Sys2Proof/Laws/State.lean ====
section
/-! SUPPORT. Reading the state after an update of one entry, one output or one report: the entry updated, every other
entry, and every other block. Later proofs cite these and unfold no update. -/

namespace Sys2Proof.Machine

variable (s : State)

/-! ## modHeddle -/

@[simp] theorem State.modHeddle_heddle (g : Nat) (f : Heddle → Heddle) : (s.modHeddle g f).heddle g = f (s.heddle g) := Tab.getD_upd_same ..
theorem State.modHeddle_heddle_other {g k : Nat} (h' : k ≠ g) (f : Heddle → Heddle) : (s.modHeddle g f).heddle k = s.heddle k :=
  Tab.getD_upd_other _ _ h' _
@[simp] theorem State.modHeddle_pending (g : Nat) (f : Heddle → Heddle) : (s.modHeddle g f).pending = s.pending := rfl
@[simp] theorem State.modHeddle_tick (g : Nat) (f : Heddle → Heddle) : (s.modHeddle g f).tick = s.tick := rfl
@[simp] theorem State.modHeddle_clk (g : Nat) (f : Heddle → Heddle) : (s.modHeddle g f).clk = s.clk := rfl
@[simp] theorem State.modHeddle_time (g : Nat) (f : Heddle → Heddle) : (s.modHeddle g f).time = s.time := rfl
@[simp] theorem State.modHeddle_pwr (g : Nat) (f : Heddle → Heddle) : (s.modHeddle g f).pwr = s.pwr := rfl
@[simp] theorem State.modHeddle_hs (g : Nat) (f : Heddle → Heddle) : (s.modHeddle g f).hs = s.hs := rfl
@[simp] theorem State.modHeddle_sec (g : Nat) (f : Heddle → Heddle) : (s.modHeddle g f).sec = s.sec := rfl
@[simp] theorem State.modHeddle_acc (g : Nat) (f : Heddle → Heddle) : (s.modHeddle g f).acc = s.acc := rfl
@[simp] theorem State.modHeddle_mbx (g : Nat) (f : Heddle → Heddle) : (s.modHeddle g f).mbx = s.mbx := rfl
@[simp] theorem State.modHeddle_mem (g : Nat) (f : Heddle → Heddle) : (s.modHeddle g f).mem = s.mem := rfl
@[simp] theorem State.modHeddle_kvt (g : Nat) (f : Heddle → Heddle) : (s.modHeddle g f).kvt = s.kvt := rfl
@[simp] theorem State.modHeddle_ctxs (g : Nat) (f : Heddle → Heddle) : (s.modHeddle g f).ctxs = s.ctxs := rfl
@[simp] theorem State.modHeddle_sched (g : Nat) (f : Heddle → Heddle) : (s.modHeddle g f).sched = s.sched := rfl
@[simp] theorem State.modHeddle_srv (g : Nat) (f : Heddle → Heddle) : (s.modHeddle g f).srv = s.srv := rfl
@[simp] theorem State.modHeddle_health (g : Nat) (f : Heddle → Heddle) : (s.modHeddle g f).health = s.health := rfl
@[simp] theorem State.modHeddle_rcv (g : Nat) (f : Heddle → Heddle) : (s.modHeddle g f).rcv = s.rcv := rfl
@[simp] theorem State.modHeddle_twin (g : Nat) (f : Heddle → Heddle) : (s.modHeddle g f).twin = s.twin := rfl
@[simp] theorem State.modHeddle_ports (g : Nat) (f : Heddle → Heddle) : (s.modHeddle g f).ports = s.ports := rfl
@[simp] theorem State.modHeddle_thm (g : Nat) (f : Heddle → Heddle) : (s.modHeddle g f).thm = s.thm := rfl
@[simp] theorem State.modHeddle_mon (g : Nat) (f : Heddle → Heddle) : (s.modHeddle g f).mon = s.mon := rfl
@[simp] theorem State.modHeddle_obs (g : Nat) (f : Heddle → Heddle) : (s.modHeddle g f).obs = s.obs := rfl
@[simp] theorem State.modHeddle_agg (g : Nat) (f : Heddle → Heddle) : (s.modHeddle g f).agg = s.agg := rfl
@[simp] theorem State.modHeddle_out (g : Nat) (f : Heddle → Heddle) : (s.modHeddle g f).out = s.out := rfl
@[simp] theorem State.modHeddle_get_harness (g : Nat) (f : Heddle → Heddle) (k : Nat) : (s.modHeddle g f).harness k = s.harness k := rfl
@[simp] theorem State.modHeddle_get_loom (g : Nat) (f : Heddle → Heddle) (k : Nat) : (s.modHeddle g f).loom k = s.loom k := rfl
@[simp] theorem State.modHeddle_get_shuttle (g : Nat) (f : Heddle → Heddle) (k : Nat) : (s.modHeddle g f).shuttle k = s.shuttle k := rfl
@[simp] theorem State.modHeddle_get_arena (g : Nat) (f : Heddle → Heddle) (k : Nat) : (s.modHeddle g f).arena k = s.arena k := rfl
@[simp] theorem State.modHeddle_get_ctx (g : Nat) (f : Heddle → Heddle) (k : Nat) : (s.modHeddle g f).ctx k = s.ctx k := rfl
@[simp] theorem State.modHeddle_get_mailbox (g : Nat) (f : Heddle → Heddle) (k : Nat) : (s.modHeddle g f).mailbox k = s.mailbox k := rfl
@[simp] theorem State.modHeddle_get_slot (g : Nat) (f : Heddle → Heddle) (k : Nat) : (s.modHeddle g f).slot k = s.slot k := rfl
@[simp] theorem State.modHeddle_get_sel (g : Nat) (f : Heddle → Heddle) (k : Nat) : (s.modHeddle g f).sel k = s.sel k := rfl
@[simp] theorem State.modHeddle_get_latch (g : Nat) (f : Heddle → Heddle) (k : Nat) : (s.modHeddle g f).latch k = s.latch k := rfl
@[simp] theorem State.modHeddle_get_ring (g : Nat) (f : Heddle → Heddle) (k : Nat) : (s.modHeddle g f).ring k = s.ring k := rfl
@[simp] theorem State.modHeddle_get_stream (g : Nat) (f : Heddle → Heddle) (k : Nat) : (s.modHeddle g f).stream k = s.stream k := rfl
@[simp] theorem State.modHeddle_get_tenant (g : Nat) (f : Heddle → Heddle) (k : Nat) : (s.modHeddle g f).tenant k = s.tenant k := rfl
@[simp] theorem State.modHeddle_get_port (g : Nat) (f : Heddle → Heddle) (k : Nat) : (s.modHeddle g f).port k = s.port k := rfl
@[simp] theorem State.modHeddle_get_sensor (g : Nat) (f : Heddle → Heddle) (k : Nat) : (s.modHeddle g f).sensor k = s.sensor k := rfl
@[simp] theorem State.modHeddle_get_chan (g : Nat) (f : Heddle → Heddle) (k : Nat) : (s.modHeddle g f).chan k = s.chan k := rfl
@[simp] theorem State.modHeddle_get_engine (g : Nat) (f : Heddle → Heddle) (k : Nat) : (s.modHeddle g f).engine k = s.engine k := rfl
@[simp] theorem State.modHeddle_get_pmc (g : Nat) (f : Heddle → Heddle) (k : Nat) : (s.modHeddle g f).pmc k = s.pmc k := rfl

/-! ## modHarness -/

@[simp] theorem State.modHarness_harness (h : Nat) (f : Harness → Harness) : (s.modHarness h f).harness h = f (s.harness h) := Tab.getD_upd_same ..
theorem State.modHarness_harness_other {h k : Nat} (h' : k ≠ h) (f : Harness → Harness) : (s.modHarness h f).harness k = s.harness k :=
  Tab.getD_upd_other _ _ h' _
@[simp] theorem State.modHarness_pending (h : Nat) (f : Harness → Harness) : (s.modHarness h f).pending = s.pending := rfl
@[simp] theorem State.modHarness_tick (h : Nat) (f : Harness → Harness) : (s.modHarness h f).tick = s.tick := rfl
@[simp] theorem State.modHarness_clk (h : Nat) (f : Harness → Harness) : (s.modHarness h f).clk = s.clk := rfl
@[simp] theorem State.modHarness_time (h : Nat) (f : Harness → Harness) : (s.modHarness h f).time = s.time := rfl
@[simp] theorem State.modHarness_pwr (h : Nat) (f : Harness → Harness) : (s.modHarness h f).pwr = s.pwr := rfl
@[simp] theorem State.modHarness_hs (h : Nat) (f : Harness → Harness) : (s.modHarness h f).hs = s.hs := rfl
@[simp] theorem State.modHarness_sec (h : Nat) (f : Harness → Harness) : (s.modHarness h f).sec = s.sec := rfl
@[simp] theorem State.modHarness_acc (h : Nat) (f : Harness → Harness) : (s.modHarness h f).acc = s.acc := rfl
@[simp] theorem State.modHarness_mbx (h : Nat) (f : Harness → Harness) : (s.modHarness h f).mbx = s.mbx := rfl
@[simp] theorem State.modHarness_mem (h : Nat) (f : Harness → Harness) : (s.modHarness h f).mem = s.mem := rfl
@[simp] theorem State.modHarness_kvt (h : Nat) (f : Harness → Harness) : (s.modHarness h f).kvt = s.kvt := rfl
@[simp] theorem State.modHarness_ctxs (h : Nat) (f : Harness → Harness) : (s.modHarness h f).ctxs = s.ctxs := rfl
@[simp] theorem State.modHarness_sched (h : Nat) (f : Harness → Harness) : (s.modHarness h f).sched = s.sched := rfl
@[simp] theorem State.modHarness_srv (h : Nat) (f : Harness → Harness) : (s.modHarness h f).srv = s.srv := rfl
@[simp] theorem State.modHarness_health (h : Nat) (f : Harness → Harness) : (s.modHarness h f).health = s.health := rfl
@[simp] theorem State.modHarness_rcv (h : Nat) (f : Harness → Harness) : (s.modHarness h f).rcv = s.rcv := rfl
@[simp] theorem State.modHarness_twin (h : Nat) (f : Harness → Harness) : (s.modHarness h f).twin = s.twin := rfl
@[simp] theorem State.modHarness_ports (h : Nat) (f : Harness → Harness) : (s.modHarness h f).ports = s.ports := rfl
@[simp] theorem State.modHarness_thm (h : Nat) (f : Harness → Harness) : (s.modHarness h f).thm = s.thm := rfl
@[simp] theorem State.modHarness_mon (h : Nat) (f : Harness → Harness) : (s.modHarness h f).mon = s.mon := rfl
@[simp] theorem State.modHarness_obs (h : Nat) (f : Harness → Harness) : (s.modHarness h f).obs = s.obs := rfl
@[simp] theorem State.modHarness_agg (h : Nat) (f : Harness → Harness) : (s.modHarness h f).agg = s.agg := rfl
@[simp] theorem State.modHarness_out (h : Nat) (f : Harness → Harness) : (s.modHarness h f).out = s.out := rfl
@[simp] theorem State.modHarness_get_heddle (h : Nat) (f : Harness → Harness) (k : Nat) : (s.modHarness h f).heddle k = s.heddle k := rfl
@[simp] theorem State.modHarness_get_loom (h : Nat) (f : Harness → Harness) (k : Nat) : (s.modHarness h f).loom k = s.loom k := rfl
@[simp] theorem State.modHarness_get_shuttle (h : Nat) (f : Harness → Harness) (k : Nat) : (s.modHarness h f).shuttle k = s.shuttle k := rfl
@[simp] theorem State.modHarness_get_arena (h : Nat) (f : Harness → Harness) (k : Nat) : (s.modHarness h f).arena k = s.arena k := rfl
@[simp] theorem State.modHarness_get_ctx (h : Nat) (f : Harness → Harness) (k : Nat) : (s.modHarness h f).ctx k = s.ctx k := rfl
@[simp] theorem State.modHarness_get_mailbox (h : Nat) (f : Harness → Harness) (k : Nat) : (s.modHarness h f).mailbox k = s.mailbox k := rfl
@[simp] theorem State.modHarness_get_slot (h : Nat) (f : Harness → Harness) (k : Nat) : (s.modHarness h f).slot k = s.slot k := rfl
@[simp] theorem State.modHarness_get_sel (h : Nat) (f : Harness → Harness) (k : Nat) : (s.modHarness h f).sel k = s.sel k := rfl
@[simp] theorem State.modHarness_get_latch (h : Nat) (f : Harness → Harness) (k : Nat) : (s.modHarness h f).latch k = s.latch k := rfl
@[simp] theorem State.modHarness_get_ring (h : Nat) (f : Harness → Harness) (k : Nat) : (s.modHarness h f).ring k = s.ring k := rfl
@[simp] theorem State.modHarness_get_stream (h : Nat) (f : Harness → Harness) (k : Nat) : (s.modHarness h f).stream k = s.stream k := rfl
@[simp] theorem State.modHarness_get_tenant (h : Nat) (f : Harness → Harness) (k : Nat) : (s.modHarness h f).tenant k = s.tenant k := rfl
@[simp] theorem State.modHarness_get_port (h : Nat) (f : Harness → Harness) (k : Nat) : (s.modHarness h f).port k = s.port k := rfl
@[simp] theorem State.modHarness_get_sensor (h : Nat) (f : Harness → Harness) (k : Nat) : (s.modHarness h f).sensor k = s.sensor k := rfl
@[simp] theorem State.modHarness_get_chan (h : Nat) (f : Harness → Harness) (k : Nat) : (s.modHarness h f).chan k = s.chan k := rfl
@[simp] theorem State.modHarness_get_engine (h : Nat) (f : Harness → Harness) (k : Nat) : (s.modHarness h f).engine k = s.engine k := rfl
@[simp] theorem State.modHarness_get_pmc (h : Nat) (f : Harness → Harness) (k : Nat) : (s.modHarness h f).pmc k = s.pmc k := rfl

/-! ## modLoom -/

@[simp] theorem State.modLoom_loom (l : Nat) (f : Loom → Loom) : (s.modLoom l f).loom l = f (s.loom l) := Tab.getD_upd_same ..
theorem State.modLoom_loom_other {l k : Nat} (h' : k ≠ l) (f : Loom → Loom) : (s.modLoom l f).loom k = s.loom k :=
  Tab.getD_upd_other _ _ h' _
@[simp] theorem State.modLoom_pending (l : Nat) (f : Loom → Loom) : (s.modLoom l f).pending = s.pending := rfl
@[simp] theorem State.modLoom_tick (l : Nat) (f : Loom → Loom) : (s.modLoom l f).tick = s.tick := rfl
@[simp] theorem State.modLoom_clk (l : Nat) (f : Loom → Loom) : (s.modLoom l f).clk = s.clk := rfl
@[simp] theorem State.modLoom_time (l : Nat) (f : Loom → Loom) : (s.modLoom l f).time = s.time := rfl
@[simp] theorem State.modLoom_pwr (l : Nat) (f : Loom → Loom) : (s.modLoom l f).pwr = s.pwr := rfl
@[simp] theorem State.modLoom_hs (l : Nat) (f : Loom → Loom) : (s.modLoom l f).hs = s.hs := rfl
@[simp] theorem State.modLoom_sec (l : Nat) (f : Loom → Loom) : (s.modLoom l f).sec = s.sec := rfl
@[simp] theorem State.modLoom_acc (l : Nat) (f : Loom → Loom) : (s.modLoom l f).acc = s.acc := rfl
@[simp] theorem State.modLoom_mbx (l : Nat) (f : Loom → Loom) : (s.modLoom l f).mbx = s.mbx := rfl
@[simp] theorem State.modLoom_mem (l : Nat) (f : Loom → Loom) : (s.modLoom l f).mem = s.mem := rfl
@[simp] theorem State.modLoom_kvt (l : Nat) (f : Loom → Loom) : (s.modLoom l f).kvt = s.kvt := rfl
@[simp] theorem State.modLoom_ctxs (l : Nat) (f : Loom → Loom) : (s.modLoom l f).ctxs = s.ctxs := rfl
@[simp] theorem State.modLoom_sched (l : Nat) (f : Loom → Loom) : (s.modLoom l f).sched = s.sched := rfl
@[simp] theorem State.modLoom_srv (l : Nat) (f : Loom → Loom) : (s.modLoom l f).srv = s.srv := rfl
@[simp] theorem State.modLoom_health (l : Nat) (f : Loom → Loom) : (s.modLoom l f).health = s.health := rfl
@[simp] theorem State.modLoom_rcv (l : Nat) (f : Loom → Loom) : (s.modLoom l f).rcv = s.rcv := rfl
@[simp] theorem State.modLoom_twin (l : Nat) (f : Loom → Loom) : (s.modLoom l f).twin = s.twin := rfl
@[simp] theorem State.modLoom_ports (l : Nat) (f : Loom → Loom) : (s.modLoom l f).ports = s.ports := rfl
@[simp] theorem State.modLoom_thm (l : Nat) (f : Loom → Loom) : (s.modLoom l f).thm = s.thm := rfl
@[simp] theorem State.modLoom_mon (l : Nat) (f : Loom → Loom) : (s.modLoom l f).mon = s.mon := rfl
@[simp] theorem State.modLoom_obs (l : Nat) (f : Loom → Loom) : (s.modLoom l f).obs = s.obs := rfl
@[simp] theorem State.modLoom_agg (l : Nat) (f : Loom → Loom) : (s.modLoom l f).agg = s.agg := rfl
@[simp] theorem State.modLoom_out (l : Nat) (f : Loom → Loom) : (s.modLoom l f).out = s.out := rfl
@[simp] theorem State.modLoom_get_heddle (l : Nat) (f : Loom → Loom) (k : Nat) : (s.modLoom l f).heddle k = s.heddle k := rfl
@[simp] theorem State.modLoom_get_harness (l : Nat) (f : Loom → Loom) (k : Nat) : (s.modLoom l f).harness k = s.harness k := rfl
@[simp] theorem State.modLoom_get_shuttle (l : Nat) (f : Loom → Loom) (k : Nat) : (s.modLoom l f).shuttle k = s.shuttle k := rfl
@[simp] theorem State.modLoom_get_arena (l : Nat) (f : Loom → Loom) (k : Nat) : (s.modLoom l f).arena k = s.arena k := rfl
@[simp] theorem State.modLoom_get_ctx (l : Nat) (f : Loom → Loom) (k : Nat) : (s.modLoom l f).ctx k = s.ctx k := rfl
@[simp] theorem State.modLoom_get_mailbox (l : Nat) (f : Loom → Loom) (k : Nat) : (s.modLoom l f).mailbox k = s.mailbox k := rfl
@[simp] theorem State.modLoom_get_slot (l : Nat) (f : Loom → Loom) (k : Nat) : (s.modLoom l f).slot k = s.slot k := rfl
@[simp] theorem State.modLoom_get_sel (l : Nat) (f : Loom → Loom) (k : Nat) : (s.modLoom l f).sel k = s.sel k := rfl
@[simp] theorem State.modLoom_get_latch (l : Nat) (f : Loom → Loom) (k : Nat) : (s.modLoom l f).latch k = s.latch k := rfl
@[simp] theorem State.modLoom_get_ring (l : Nat) (f : Loom → Loom) (k : Nat) : (s.modLoom l f).ring k = s.ring k := rfl
@[simp] theorem State.modLoom_get_stream (l : Nat) (f : Loom → Loom) (k : Nat) : (s.modLoom l f).stream k = s.stream k := rfl
@[simp] theorem State.modLoom_get_tenant (l : Nat) (f : Loom → Loom) (k : Nat) : (s.modLoom l f).tenant k = s.tenant k := rfl
@[simp] theorem State.modLoom_get_port (l : Nat) (f : Loom → Loom) (k : Nat) : (s.modLoom l f).port k = s.port k := rfl
@[simp] theorem State.modLoom_get_sensor (l : Nat) (f : Loom → Loom) (k : Nat) : (s.modLoom l f).sensor k = s.sensor k := rfl
@[simp] theorem State.modLoom_get_chan (l : Nat) (f : Loom → Loom) (k : Nat) : (s.modLoom l f).chan k = s.chan k := rfl
@[simp] theorem State.modLoom_get_engine (l : Nat) (f : Loom → Loom) (k : Nat) : (s.modLoom l f).engine k = s.engine k := rfl
@[simp] theorem State.modLoom_get_pmc (l : Nat) (f : Loom → Loom) (k : Nat) : (s.modLoom l f).pmc k = s.pmc k := rfl

/-! ## modShuttle -/

@[simp] theorem State.modShuttle_shuttle (n : Nat) (f : Shuttle → Shuttle) : (s.modShuttle n f).shuttle n = f (s.shuttle n) := Tab.getD_upd_same ..
theorem State.modShuttle_shuttle_other {n k : Nat} (h' : k ≠ n) (f : Shuttle → Shuttle) : (s.modShuttle n f).shuttle k = s.shuttle k :=
  Tab.getD_upd_other _ _ h' _
@[simp] theorem State.modShuttle_pending (n : Nat) (f : Shuttle → Shuttle) : (s.modShuttle n f).pending = s.pending := rfl
@[simp] theorem State.modShuttle_tick (n : Nat) (f : Shuttle → Shuttle) : (s.modShuttle n f).tick = s.tick := rfl
@[simp] theorem State.modShuttle_clk (n : Nat) (f : Shuttle → Shuttle) : (s.modShuttle n f).clk = s.clk := rfl
@[simp] theorem State.modShuttle_time (n : Nat) (f : Shuttle → Shuttle) : (s.modShuttle n f).time = s.time := rfl
@[simp] theorem State.modShuttle_pwr (n : Nat) (f : Shuttle → Shuttle) : (s.modShuttle n f).pwr = s.pwr := rfl
@[simp] theorem State.modShuttle_hs (n : Nat) (f : Shuttle → Shuttle) : (s.modShuttle n f).hs = s.hs := rfl
@[simp] theorem State.modShuttle_sec (n : Nat) (f : Shuttle → Shuttle) : (s.modShuttle n f).sec = s.sec := rfl
@[simp] theorem State.modShuttle_acc (n : Nat) (f : Shuttle → Shuttle) : (s.modShuttle n f).acc = s.acc := rfl
@[simp] theorem State.modShuttle_mbx (n : Nat) (f : Shuttle → Shuttle) : (s.modShuttle n f).mbx = s.mbx := rfl
@[simp] theorem State.modShuttle_mem (n : Nat) (f : Shuttle → Shuttle) : (s.modShuttle n f).mem = s.mem := rfl
@[simp] theorem State.modShuttle_arr (n : Nat) (f : Shuttle → Shuttle) : (s.modShuttle n f).arr = s.arr := rfl
@[simp] theorem State.modShuttle_ctxs (n : Nat) (f : Shuttle → Shuttle) : (s.modShuttle n f).ctxs = s.ctxs := rfl
@[simp] theorem State.modShuttle_sched (n : Nat) (f : Shuttle → Shuttle) : (s.modShuttle n f).sched = s.sched := rfl
@[simp] theorem State.modShuttle_srv (n : Nat) (f : Shuttle → Shuttle) : (s.modShuttle n f).srv = s.srv := rfl
@[simp] theorem State.modShuttle_health (n : Nat) (f : Shuttle → Shuttle) : (s.modShuttle n f).health = s.health := rfl
@[simp] theorem State.modShuttle_rcv (n : Nat) (f : Shuttle → Shuttle) : (s.modShuttle n f).rcv = s.rcv := rfl
@[simp] theorem State.modShuttle_twin (n : Nat) (f : Shuttle → Shuttle) : (s.modShuttle n f).twin = s.twin := rfl
@[simp] theorem State.modShuttle_ports (n : Nat) (f : Shuttle → Shuttle) : (s.modShuttle n f).ports = s.ports := rfl
@[simp] theorem State.modShuttle_thm (n : Nat) (f : Shuttle → Shuttle) : (s.modShuttle n f).thm = s.thm := rfl
@[simp] theorem State.modShuttle_mon (n : Nat) (f : Shuttle → Shuttle) : (s.modShuttle n f).mon = s.mon := rfl
@[simp] theorem State.modShuttle_obs (n : Nat) (f : Shuttle → Shuttle) : (s.modShuttle n f).obs = s.obs := rfl
@[simp] theorem State.modShuttle_agg (n : Nat) (f : Shuttle → Shuttle) : (s.modShuttle n f).agg = s.agg := rfl
@[simp] theorem State.modShuttle_out (n : Nat) (f : Shuttle → Shuttle) : (s.modShuttle n f).out = s.out := rfl
@[simp] theorem State.modShuttle_get_heddle (n : Nat) (f : Shuttle → Shuttle) (k : Nat) : (s.modShuttle n f).heddle k = s.heddle k := rfl
@[simp] theorem State.modShuttle_get_harness (n : Nat) (f : Shuttle → Shuttle) (k : Nat) : (s.modShuttle n f).harness k = s.harness k := rfl
@[simp] theorem State.modShuttle_get_loom (n : Nat) (f : Shuttle → Shuttle) (k : Nat) : (s.modShuttle n f).loom k = s.loom k := rfl
@[simp] theorem State.modShuttle_get_arena (n : Nat) (f : Shuttle → Shuttle) (k : Nat) : (s.modShuttle n f).arena k = s.arena k := rfl
@[simp] theorem State.modShuttle_get_ctx (n : Nat) (f : Shuttle → Shuttle) (k : Nat) : (s.modShuttle n f).ctx k = s.ctx k := rfl
@[simp] theorem State.modShuttle_get_mailbox (n : Nat) (f : Shuttle → Shuttle) (k : Nat) : (s.modShuttle n f).mailbox k = s.mailbox k := rfl
@[simp] theorem State.modShuttle_get_slot (n : Nat) (f : Shuttle → Shuttle) (k : Nat) : (s.modShuttle n f).slot k = s.slot k := rfl
@[simp] theorem State.modShuttle_get_sel (n : Nat) (f : Shuttle → Shuttle) (k : Nat) : (s.modShuttle n f).sel k = s.sel k := rfl
@[simp] theorem State.modShuttle_get_latch (n : Nat) (f : Shuttle → Shuttle) (k : Nat) : (s.modShuttle n f).latch k = s.latch k := rfl
@[simp] theorem State.modShuttle_get_ring (n : Nat) (f : Shuttle → Shuttle) (k : Nat) : (s.modShuttle n f).ring k = s.ring k := rfl
@[simp] theorem State.modShuttle_get_stream (n : Nat) (f : Shuttle → Shuttle) (k : Nat) : (s.modShuttle n f).stream k = s.stream k := rfl
@[simp] theorem State.modShuttle_get_tenant (n : Nat) (f : Shuttle → Shuttle) (k : Nat) : (s.modShuttle n f).tenant k = s.tenant k := rfl
@[simp] theorem State.modShuttle_get_port (n : Nat) (f : Shuttle → Shuttle) (k : Nat) : (s.modShuttle n f).port k = s.port k := rfl
@[simp] theorem State.modShuttle_get_sensor (n : Nat) (f : Shuttle → Shuttle) (k : Nat) : (s.modShuttle n f).sensor k = s.sensor k := rfl
@[simp] theorem State.modShuttle_get_chan (n : Nat) (f : Shuttle → Shuttle) (k : Nat) : (s.modShuttle n f).chan k = s.chan k := rfl
@[simp] theorem State.modShuttle_get_engine (n : Nat) (f : Shuttle → Shuttle) (k : Nat) : (s.modShuttle n f).engine k = s.engine k := rfl
@[simp] theorem State.modShuttle_get_pmc (n : Nat) (f : Shuttle → Shuttle) (k : Nat) : (s.modShuttle n f).pmc k = s.pmc k := rfl

/-! ## modArena -/

@[simp] theorem State.modArena_arena (c : Nat) (f : Arena → Arena) : (s.modArena c f).arena c = f (s.arena c) := Tab.getD_upd_same ..
theorem State.modArena_arena_other {c k : Nat} (h' : k ≠ c) (f : Arena → Arena) : (s.modArena c f).arena k = s.arena k :=
  Tab.getD_upd_other _ _ h' _
@[simp] theorem State.modArena_pending (c : Nat) (f : Arena → Arena) : (s.modArena c f).pending = s.pending := rfl
@[simp] theorem State.modArena_tick (c : Nat) (f : Arena → Arena) : (s.modArena c f).tick = s.tick := rfl
@[simp] theorem State.modArena_clk (c : Nat) (f : Arena → Arena) : (s.modArena c f).clk = s.clk := rfl
@[simp] theorem State.modArena_time (c : Nat) (f : Arena → Arena) : (s.modArena c f).time = s.time := rfl
@[simp] theorem State.modArena_pwr (c : Nat) (f : Arena → Arena) : (s.modArena c f).pwr = s.pwr := rfl
@[simp] theorem State.modArena_hs (c : Nat) (f : Arena → Arena) : (s.modArena c f).hs = s.hs := rfl
@[simp] theorem State.modArena_sec (c : Nat) (f : Arena → Arena) : (s.modArena c f).sec = s.sec := rfl
@[simp] theorem State.modArena_acc (c : Nat) (f : Arena → Arena) : (s.modArena c f).acc = s.acc := rfl
@[simp] theorem State.modArena_mbx (c : Nat) (f : Arena → Arena) : (s.modArena c f).mbx = s.mbx := rfl
@[simp] theorem State.modArena_mem (c : Nat) (f : Arena → Arena) : (s.modArena c f).mem = s.mem := rfl
@[simp] theorem State.modArena_arr (c : Nat) (f : Arena → Arena) : (s.modArena c f).arr = s.arr := rfl
@[simp] theorem State.modArena_ctxs (c : Nat) (f : Arena → Arena) : (s.modArena c f).ctxs = s.ctxs := rfl
@[simp] theorem State.modArena_sched (c : Nat) (f : Arena → Arena) : (s.modArena c f).sched = s.sched := rfl
@[simp] theorem State.modArena_srv (c : Nat) (f : Arena → Arena) : (s.modArena c f).srv = s.srv := rfl
@[simp] theorem State.modArena_health (c : Nat) (f : Arena → Arena) : (s.modArena c f).health = s.health := rfl
@[simp] theorem State.modArena_rcv (c : Nat) (f : Arena → Arena) : (s.modArena c f).rcv = s.rcv := rfl
@[simp] theorem State.modArena_twin (c : Nat) (f : Arena → Arena) : (s.modArena c f).twin = s.twin := rfl
@[simp] theorem State.modArena_ports (c : Nat) (f : Arena → Arena) : (s.modArena c f).ports = s.ports := rfl
@[simp] theorem State.modArena_thm (c : Nat) (f : Arena → Arena) : (s.modArena c f).thm = s.thm := rfl
@[simp] theorem State.modArena_mon (c : Nat) (f : Arena → Arena) : (s.modArena c f).mon = s.mon := rfl
@[simp] theorem State.modArena_obs (c : Nat) (f : Arena → Arena) : (s.modArena c f).obs = s.obs := rfl
@[simp] theorem State.modArena_agg (c : Nat) (f : Arena → Arena) : (s.modArena c f).agg = s.agg := rfl
@[simp] theorem State.modArena_out (c : Nat) (f : Arena → Arena) : (s.modArena c f).out = s.out := rfl
@[simp] theorem State.modArena_get_heddle (c : Nat) (f : Arena → Arena) (k : Nat) : (s.modArena c f).heddle k = s.heddle k := rfl
@[simp] theorem State.modArena_get_harness (c : Nat) (f : Arena → Arena) (k : Nat) : (s.modArena c f).harness k = s.harness k := rfl
@[simp] theorem State.modArena_get_loom (c : Nat) (f : Arena → Arena) (k : Nat) : (s.modArena c f).loom k = s.loom k := rfl
@[simp] theorem State.modArena_get_shuttle (c : Nat) (f : Arena → Arena) (k : Nat) : (s.modArena c f).shuttle k = s.shuttle k := rfl
@[simp] theorem State.modArena_get_ctx (c : Nat) (f : Arena → Arena) (k : Nat) : (s.modArena c f).ctx k = s.ctx k := rfl
@[simp] theorem State.modArena_get_mailbox (c : Nat) (f : Arena → Arena) (k : Nat) : (s.modArena c f).mailbox k = s.mailbox k := rfl
@[simp] theorem State.modArena_get_slot (c : Nat) (f : Arena → Arena) (k : Nat) : (s.modArena c f).slot k = s.slot k := rfl
@[simp] theorem State.modArena_get_sel (c : Nat) (f : Arena → Arena) (k : Nat) : (s.modArena c f).sel k = s.sel k := rfl
@[simp] theorem State.modArena_get_latch (c : Nat) (f : Arena → Arena) (k : Nat) : (s.modArena c f).latch k = s.latch k := rfl
@[simp] theorem State.modArena_get_ring (c : Nat) (f : Arena → Arena) (k : Nat) : (s.modArena c f).ring k = s.ring k := rfl
@[simp] theorem State.modArena_get_stream (c : Nat) (f : Arena → Arena) (k : Nat) : (s.modArena c f).stream k = s.stream k := rfl
@[simp] theorem State.modArena_get_tenant (c : Nat) (f : Arena → Arena) (k : Nat) : (s.modArena c f).tenant k = s.tenant k := rfl
@[simp] theorem State.modArena_get_port (c : Nat) (f : Arena → Arena) (k : Nat) : (s.modArena c f).port k = s.port k := rfl
@[simp] theorem State.modArena_get_sensor (c : Nat) (f : Arena → Arena) (k : Nat) : (s.modArena c f).sensor k = s.sensor k := rfl
@[simp] theorem State.modArena_get_chan (c : Nat) (f : Arena → Arena) (k : Nat) : (s.modArena c f).chan k = s.chan k := rfl
@[simp] theorem State.modArena_get_engine (c : Nat) (f : Arena → Arena) (k : Nat) : (s.modArena c f).engine k = s.engine k := rfl
@[simp] theorem State.modArena_get_pmc (c : Nat) (f : Arena → Arena) (k : Nat) : (s.modArena c f).pmc k = s.pmc k := rfl

/-! ## modCtx -/

@[simp] theorem State.modCtx_ctx (c : Nat) (f : Ctx → Ctx) : (s.modCtx c f).ctx c = f (s.ctx c) := Tab.getD_upd_same ..
theorem State.modCtx_ctx_other {c k : Nat} (h' : k ≠ c) (f : Ctx → Ctx) : (s.modCtx c f).ctx k = s.ctx k :=
  Tab.getD_upd_other _ _ h' _
@[simp] theorem State.modCtx_pending (c : Nat) (f : Ctx → Ctx) : (s.modCtx c f).pending = s.pending := rfl
@[simp] theorem State.modCtx_tick (c : Nat) (f : Ctx → Ctx) : (s.modCtx c f).tick = s.tick := rfl
@[simp] theorem State.modCtx_clk (c : Nat) (f : Ctx → Ctx) : (s.modCtx c f).clk = s.clk := rfl
@[simp] theorem State.modCtx_time (c : Nat) (f : Ctx → Ctx) : (s.modCtx c f).time = s.time := rfl
@[simp] theorem State.modCtx_pwr (c : Nat) (f : Ctx → Ctx) : (s.modCtx c f).pwr = s.pwr := rfl
@[simp] theorem State.modCtx_hs (c : Nat) (f : Ctx → Ctx) : (s.modCtx c f).hs = s.hs := rfl
@[simp] theorem State.modCtx_sec (c : Nat) (f : Ctx → Ctx) : (s.modCtx c f).sec = s.sec := rfl
@[simp] theorem State.modCtx_acc (c : Nat) (f : Ctx → Ctx) : (s.modCtx c f).acc = s.acc := rfl
@[simp] theorem State.modCtx_mbx (c : Nat) (f : Ctx → Ctx) : (s.modCtx c f).mbx = s.mbx := rfl
@[simp] theorem State.modCtx_mem (c : Nat) (f : Ctx → Ctx) : (s.modCtx c f).mem = s.mem := rfl
@[simp] theorem State.modCtx_arr (c : Nat) (f : Ctx → Ctx) : (s.modCtx c f).arr = s.arr := rfl
@[simp] theorem State.modCtx_kvt (c : Nat) (f : Ctx → Ctx) : (s.modCtx c f).kvt = s.kvt := rfl
@[simp] theorem State.modCtx_sched (c : Nat) (f : Ctx → Ctx) : (s.modCtx c f).sched = s.sched := rfl
@[simp] theorem State.modCtx_srv (c : Nat) (f : Ctx → Ctx) : (s.modCtx c f).srv = s.srv := rfl
@[simp] theorem State.modCtx_health (c : Nat) (f : Ctx → Ctx) : (s.modCtx c f).health = s.health := rfl
@[simp] theorem State.modCtx_rcv (c : Nat) (f : Ctx → Ctx) : (s.modCtx c f).rcv = s.rcv := rfl
@[simp] theorem State.modCtx_twin (c : Nat) (f : Ctx → Ctx) : (s.modCtx c f).twin = s.twin := rfl
@[simp] theorem State.modCtx_ports (c : Nat) (f : Ctx → Ctx) : (s.modCtx c f).ports = s.ports := rfl
@[simp] theorem State.modCtx_thm (c : Nat) (f : Ctx → Ctx) : (s.modCtx c f).thm = s.thm := rfl
@[simp] theorem State.modCtx_mon (c : Nat) (f : Ctx → Ctx) : (s.modCtx c f).mon = s.mon := rfl
@[simp] theorem State.modCtx_obs (c : Nat) (f : Ctx → Ctx) : (s.modCtx c f).obs = s.obs := rfl
@[simp] theorem State.modCtx_agg (c : Nat) (f : Ctx → Ctx) : (s.modCtx c f).agg = s.agg := rfl
@[simp] theorem State.modCtx_out (c : Nat) (f : Ctx → Ctx) : (s.modCtx c f).out = s.out := rfl
@[simp] theorem State.modCtx_get_heddle (c : Nat) (f : Ctx → Ctx) (k : Nat) : (s.modCtx c f).heddle k = s.heddle k := rfl
@[simp] theorem State.modCtx_get_harness (c : Nat) (f : Ctx → Ctx) (k : Nat) : (s.modCtx c f).harness k = s.harness k := rfl
@[simp] theorem State.modCtx_get_loom (c : Nat) (f : Ctx → Ctx) (k : Nat) : (s.modCtx c f).loom k = s.loom k := rfl
@[simp] theorem State.modCtx_get_shuttle (c : Nat) (f : Ctx → Ctx) (k : Nat) : (s.modCtx c f).shuttle k = s.shuttle k := rfl
@[simp] theorem State.modCtx_get_arena (c : Nat) (f : Ctx → Ctx) (k : Nat) : (s.modCtx c f).arena k = s.arena k := rfl
@[simp] theorem State.modCtx_get_mailbox (c : Nat) (f : Ctx → Ctx) (k : Nat) : (s.modCtx c f).mailbox k = s.mailbox k := rfl
@[simp] theorem State.modCtx_get_slot (c : Nat) (f : Ctx → Ctx) (k : Nat) : (s.modCtx c f).slot k = s.slot k := rfl
@[simp] theorem State.modCtx_get_sel (c : Nat) (f : Ctx → Ctx) (k : Nat) : (s.modCtx c f).sel k = s.sel k := rfl
@[simp] theorem State.modCtx_get_latch (c : Nat) (f : Ctx → Ctx) (k : Nat) : (s.modCtx c f).latch k = s.latch k := rfl
@[simp] theorem State.modCtx_get_ring (c : Nat) (f : Ctx → Ctx) (k : Nat) : (s.modCtx c f).ring k = s.ring k := rfl
@[simp] theorem State.modCtx_get_stream (c : Nat) (f : Ctx → Ctx) (k : Nat) : (s.modCtx c f).stream k = s.stream k := rfl
@[simp] theorem State.modCtx_get_tenant (c : Nat) (f : Ctx → Ctx) (k : Nat) : (s.modCtx c f).tenant k = s.tenant k := rfl
@[simp] theorem State.modCtx_get_port (c : Nat) (f : Ctx → Ctx) (k : Nat) : (s.modCtx c f).port k = s.port k := rfl
@[simp] theorem State.modCtx_get_sensor (c : Nat) (f : Ctx → Ctx) (k : Nat) : (s.modCtx c f).sensor k = s.sensor k := rfl
@[simp] theorem State.modCtx_get_chan (c : Nat) (f : Ctx → Ctx) (k : Nat) : (s.modCtx c f).chan k = s.chan k := rfl
@[simp] theorem State.modCtx_get_engine (c : Nat) (f : Ctx → Ctx) (k : Nat) : (s.modCtx c f).engine k = s.engine k := rfl
@[simp] theorem State.modCtx_get_pmc (c : Nat) (f : Ctx → Ctx) (k : Nat) : (s.modCtx c f).pmc k = s.pmc k := rfl

/-! ## modMailbox -/

@[simp] theorem State.modMailbox_mailbox (m : Nat) (f : Mailbox → Mailbox) : (s.modMailbox m f).mailbox m = f (s.mailbox m) := Tab.getD_upd_same ..
theorem State.modMailbox_mailbox_other {m k : Nat} (h' : k ≠ m) (f : Mailbox → Mailbox) : (s.modMailbox m f).mailbox k = s.mailbox k :=
  Tab.getD_upd_other _ _ h' _
@[simp] theorem State.modMailbox_pending (m : Nat) (f : Mailbox → Mailbox) : (s.modMailbox m f).pending = s.pending := rfl
@[simp] theorem State.modMailbox_tick (m : Nat) (f : Mailbox → Mailbox) : (s.modMailbox m f).tick = s.tick := rfl
@[simp] theorem State.modMailbox_clk (m : Nat) (f : Mailbox → Mailbox) : (s.modMailbox m f).clk = s.clk := rfl
@[simp] theorem State.modMailbox_time (m : Nat) (f : Mailbox → Mailbox) : (s.modMailbox m f).time = s.time := rfl
@[simp] theorem State.modMailbox_pwr (m : Nat) (f : Mailbox → Mailbox) : (s.modMailbox m f).pwr = s.pwr := rfl
@[simp] theorem State.modMailbox_hs (m : Nat) (f : Mailbox → Mailbox) : (s.modMailbox m f).hs = s.hs := rfl
@[simp] theorem State.modMailbox_sec (m : Nat) (f : Mailbox → Mailbox) : (s.modMailbox m f).sec = s.sec := rfl
@[simp] theorem State.modMailbox_acc (m : Nat) (f : Mailbox → Mailbox) : (s.modMailbox m f).acc = s.acc := rfl
@[simp] theorem State.modMailbox_mem (m : Nat) (f : Mailbox → Mailbox) : (s.modMailbox m f).mem = s.mem := rfl
@[simp] theorem State.modMailbox_arr (m : Nat) (f : Mailbox → Mailbox) : (s.modMailbox m f).arr = s.arr := rfl
@[simp] theorem State.modMailbox_kvt (m : Nat) (f : Mailbox → Mailbox) : (s.modMailbox m f).kvt = s.kvt := rfl
@[simp] theorem State.modMailbox_ctxs (m : Nat) (f : Mailbox → Mailbox) : (s.modMailbox m f).ctxs = s.ctxs := rfl
@[simp] theorem State.modMailbox_sched (m : Nat) (f : Mailbox → Mailbox) : (s.modMailbox m f).sched = s.sched := rfl
@[simp] theorem State.modMailbox_srv (m : Nat) (f : Mailbox → Mailbox) : (s.modMailbox m f).srv = s.srv := rfl
@[simp] theorem State.modMailbox_health (m : Nat) (f : Mailbox → Mailbox) : (s.modMailbox m f).health = s.health := rfl
@[simp] theorem State.modMailbox_rcv (m : Nat) (f : Mailbox → Mailbox) : (s.modMailbox m f).rcv = s.rcv := rfl
@[simp] theorem State.modMailbox_twin (m : Nat) (f : Mailbox → Mailbox) : (s.modMailbox m f).twin = s.twin := rfl
@[simp] theorem State.modMailbox_ports (m : Nat) (f : Mailbox → Mailbox) : (s.modMailbox m f).ports = s.ports := rfl
@[simp] theorem State.modMailbox_thm (m : Nat) (f : Mailbox → Mailbox) : (s.modMailbox m f).thm = s.thm := rfl
@[simp] theorem State.modMailbox_mon (m : Nat) (f : Mailbox → Mailbox) : (s.modMailbox m f).mon = s.mon := rfl
@[simp] theorem State.modMailbox_obs (m : Nat) (f : Mailbox → Mailbox) : (s.modMailbox m f).obs = s.obs := rfl
@[simp] theorem State.modMailbox_agg (m : Nat) (f : Mailbox → Mailbox) : (s.modMailbox m f).agg = s.agg := rfl
@[simp] theorem State.modMailbox_out (m : Nat) (f : Mailbox → Mailbox) : (s.modMailbox m f).out = s.out := rfl
@[simp] theorem State.modMailbox_get_heddle (m : Nat) (f : Mailbox → Mailbox) (k : Nat) : (s.modMailbox m f).heddle k = s.heddle k := rfl
@[simp] theorem State.modMailbox_get_harness (m : Nat) (f : Mailbox → Mailbox) (k : Nat) : (s.modMailbox m f).harness k = s.harness k := rfl
@[simp] theorem State.modMailbox_get_loom (m : Nat) (f : Mailbox → Mailbox) (k : Nat) : (s.modMailbox m f).loom k = s.loom k := rfl
@[simp] theorem State.modMailbox_get_shuttle (m : Nat) (f : Mailbox → Mailbox) (k : Nat) : (s.modMailbox m f).shuttle k = s.shuttle k := rfl
@[simp] theorem State.modMailbox_get_arena (m : Nat) (f : Mailbox → Mailbox) (k : Nat) : (s.modMailbox m f).arena k = s.arena k := rfl
@[simp] theorem State.modMailbox_get_ctx (m : Nat) (f : Mailbox → Mailbox) (k : Nat) : (s.modMailbox m f).ctx k = s.ctx k := rfl
@[simp] theorem State.modMailbox_get_slot (m : Nat) (f : Mailbox → Mailbox) (k : Nat) : (s.modMailbox m f).slot k = s.slot k := rfl
@[simp] theorem State.modMailbox_get_sel (m : Nat) (f : Mailbox → Mailbox) (k : Nat) : (s.modMailbox m f).sel k = s.sel k := rfl
@[simp] theorem State.modMailbox_get_latch (m : Nat) (f : Mailbox → Mailbox) (k : Nat) : (s.modMailbox m f).latch k = s.latch k := rfl
@[simp] theorem State.modMailbox_get_ring (m : Nat) (f : Mailbox → Mailbox) (k : Nat) : (s.modMailbox m f).ring k = s.ring k := rfl
@[simp] theorem State.modMailbox_get_stream (m : Nat) (f : Mailbox → Mailbox) (k : Nat) : (s.modMailbox m f).stream k = s.stream k := rfl
@[simp] theorem State.modMailbox_get_tenant (m : Nat) (f : Mailbox → Mailbox) (k : Nat) : (s.modMailbox m f).tenant k = s.tenant k := rfl
@[simp] theorem State.modMailbox_get_port (m : Nat) (f : Mailbox → Mailbox) (k : Nat) : (s.modMailbox m f).port k = s.port k := rfl
@[simp] theorem State.modMailbox_get_sensor (m : Nat) (f : Mailbox → Mailbox) (k : Nat) : (s.modMailbox m f).sensor k = s.sensor k := rfl
@[simp] theorem State.modMailbox_get_chan (m : Nat) (f : Mailbox → Mailbox) (k : Nat) : (s.modMailbox m f).chan k = s.chan k := rfl
@[simp] theorem State.modMailbox_get_engine (m : Nat) (f : Mailbox → Mailbox) (k : Nat) : (s.modMailbox m f).engine k = s.engine k := rfl
@[simp] theorem State.modMailbox_get_pmc (m : Nat) (f : Mailbox → Mailbox) (k : Nat) : (s.modMailbox m f).pmc k = s.pmc k := rfl

/-! ## modSlot -/

@[simp] theorem State.modSlot_slot (j : Nat) (f : Slot → Slot) : (s.modSlot j f).slot j = f (s.slot j) := Tab.getD_upd_same ..
theorem State.modSlot_slot_other {j k : Nat} (h' : k ≠ j) (f : Slot → Slot) : (s.modSlot j f).slot k = s.slot k :=
  Tab.getD_upd_other _ _ h' _
@[simp] theorem State.modSlot_pending (j : Nat) (f : Slot → Slot) : (s.modSlot j f).pending = s.pending := rfl
@[simp] theorem State.modSlot_tick (j : Nat) (f : Slot → Slot) : (s.modSlot j f).tick = s.tick := rfl
@[simp] theorem State.modSlot_clk (j : Nat) (f : Slot → Slot) : (s.modSlot j f).clk = s.clk := rfl
@[simp] theorem State.modSlot_time (j : Nat) (f : Slot → Slot) : (s.modSlot j f).time = s.time := rfl
@[simp] theorem State.modSlot_pwr (j : Nat) (f : Slot → Slot) : (s.modSlot j f).pwr = s.pwr := rfl
@[simp] theorem State.modSlot_hs (j : Nat) (f : Slot → Slot) : (s.modSlot j f).hs = s.hs := rfl
@[simp] theorem State.modSlot_sec (j : Nat) (f : Slot → Slot) : (s.modSlot j f).sec = s.sec := rfl
@[simp] theorem State.modSlot_mbx (j : Nat) (f : Slot → Slot) : (s.modSlot j f).mbx = s.mbx := rfl
@[simp] theorem State.modSlot_mem (j : Nat) (f : Slot → Slot) : (s.modSlot j f).mem = s.mem := rfl
@[simp] theorem State.modSlot_arr (j : Nat) (f : Slot → Slot) : (s.modSlot j f).arr = s.arr := rfl
@[simp] theorem State.modSlot_kvt (j : Nat) (f : Slot → Slot) : (s.modSlot j f).kvt = s.kvt := rfl
@[simp] theorem State.modSlot_ctxs (j : Nat) (f : Slot → Slot) : (s.modSlot j f).ctxs = s.ctxs := rfl
@[simp] theorem State.modSlot_sched (j : Nat) (f : Slot → Slot) : (s.modSlot j f).sched = s.sched := rfl
@[simp] theorem State.modSlot_srv (j : Nat) (f : Slot → Slot) : (s.modSlot j f).srv = s.srv := rfl
@[simp] theorem State.modSlot_health (j : Nat) (f : Slot → Slot) : (s.modSlot j f).health = s.health := rfl
@[simp] theorem State.modSlot_rcv (j : Nat) (f : Slot → Slot) : (s.modSlot j f).rcv = s.rcv := rfl
@[simp] theorem State.modSlot_twin (j : Nat) (f : Slot → Slot) : (s.modSlot j f).twin = s.twin := rfl
@[simp] theorem State.modSlot_ports (j : Nat) (f : Slot → Slot) : (s.modSlot j f).ports = s.ports := rfl
@[simp] theorem State.modSlot_thm (j : Nat) (f : Slot → Slot) : (s.modSlot j f).thm = s.thm := rfl
@[simp] theorem State.modSlot_mon (j : Nat) (f : Slot → Slot) : (s.modSlot j f).mon = s.mon := rfl
@[simp] theorem State.modSlot_obs (j : Nat) (f : Slot → Slot) : (s.modSlot j f).obs = s.obs := rfl
@[simp] theorem State.modSlot_agg (j : Nat) (f : Slot → Slot) : (s.modSlot j f).agg = s.agg := rfl
@[simp] theorem State.modSlot_out (j : Nat) (f : Slot → Slot) : (s.modSlot j f).out = s.out := rfl
@[simp] theorem State.modSlot_get_heddle (j : Nat) (f : Slot → Slot) (k : Nat) : (s.modSlot j f).heddle k = s.heddle k := rfl
@[simp] theorem State.modSlot_get_harness (j : Nat) (f : Slot → Slot) (k : Nat) : (s.modSlot j f).harness k = s.harness k := rfl
@[simp] theorem State.modSlot_get_loom (j : Nat) (f : Slot → Slot) (k : Nat) : (s.modSlot j f).loom k = s.loom k := rfl
@[simp] theorem State.modSlot_get_shuttle (j : Nat) (f : Slot → Slot) (k : Nat) : (s.modSlot j f).shuttle k = s.shuttle k := rfl
@[simp] theorem State.modSlot_get_arena (j : Nat) (f : Slot → Slot) (k : Nat) : (s.modSlot j f).arena k = s.arena k := rfl
@[simp] theorem State.modSlot_get_ctx (j : Nat) (f : Slot → Slot) (k : Nat) : (s.modSlot j f).ctx k = s.ctx k := rfl
@[simp] theorem State.modSlot_get_mailbox (j : Nat) (f : Slot → Slot) (k : Nat) : (s.modSlot j f).mailbox k = s.mailbox k := rfl
@[simp] theorem State.modSlot_get_sel (j : Nat) (f : Slot → Slot) (k : Nat) : (s.modSlot j f).sel k = s.sel k := rfl
@[simp] theorem State.modSlot_get_latch (j : Nat) (f : Slot → Slot) (k : Nat) : (s.modSlot j f).latch k = s.latch k := rfl
@[simp] theorem State.modSlot_get_ring (j : Nat) (f : Slot → Slot) (k : Nat) : (s.modSlot j f).ring k = s.ring k := rfl
@[simp] theorem State.modSlot_get_stream (j : Nat) (f : Slot → Slot) (k : Nat) : (s.modSlot j f).stream k = s.stream k := rfl
@[simp] theorem State.modSlot_get_tenant (j : Nat) (f : Slot → Slot) (k : Nat) : (s.modSlot j f).tenant k = s.tenant k := rfl
@[simp] theorem State.modSlot_get_port (j : Nat) (f : Slot → Slot) (k : Nat) : (s.modSlot j f).port k = s.port k := rfl
@[simp] theorem State.modSlot_get_sensor (j : Nat) (f : Slot → Slot) (k : Nat) : (s.modSlot j f).sensor k = s.sensor k := rfl
@[simp] theorem State.modSlot_get_chan (j : Nat) (f : Slot → Slot) (k : Nat) : (s.modSlot j f).chan k = s.chan k := rfl
@[simp] theorem State.modSlot_get_engine (j : Nat) (f : Slot → Slot) (k : Nat) : (s.modSlot j f).engine k = s.engine k := rfl
@[simp] theorem State.modSlot_get_pmc (j : Nat) (f : Slot → Slot) (k : Nat) : (s.modSlot j f).pmc k = s.pmc k := rfl

/-! ## modSel -/

@[simp] theorem State.modSel_sel (j : Nat) (f : Selectors → Selectors) : (s.modSel j f).sel j = f (s.sel j) := Tab.getD_upd_same ..
theorem State.modSel_sel_other {j k : Nat} (h' : k ≠ j) (f : Selectors → Selectors) : (s.modSel j f).sel k = s.sel k :=
  Tab.getD_upd_other _ _ h' _
@[simp] theorem State.modSel_pending (j : Nat) (f : Selectors → Selectors) : (s.modSel j f).pending = s.pending := rfl
@[simp] theorem State.modSel_tick (j : Nat) (f : Selectors → Selectors) : (s.modSel j f).tick = s.tick := rfl
@[simp] theorem State.modSel_clk (j : Nat) (f : Selectors → Selectors) : (s.modSel j f).clk = s.clk := rfl
@[simp] theorem State.modSel_time (j : Nat) (f : Selectors → Selectors) : (s.modSel j f).time = s.time := rfl
@[simp] theorem State.modSel_pwr (j : Nat) (f : Selectors → Selectors) : (s.modSel j f).pwr = s.pwr := rfl
@[simp] theorem State.modSel_hs (j : Nat) (f : Selectors → Selectors) : (s.modSel j f).hs = s.hs := rfl
@[simp] theorem State.modSel_sec (j : Nat) (f : Selectors → Selectors) : (s.modSel j f).sec = s.sec := rfl
@[simp] theorem State.modSel_mbx (j : Nat) (f : Selectors → Selectors) : (s.modSel j f).mbx = s.mbx := rfl
@[simp] theorem State.modSel_mem (j : Nat) (f : Selectors → Selectors) : (s.modSel j f).mem = s.mem := rfl
@[simp] theorem State.modSel_arr (j : Nat) (f : Selectors → Selectors) : (s.modSel j f).arr = s.arr := rfl
@[simp] theorem State.modSel_kvt (j : Nat) (f : Selectors → Selectors) : (s.modSel j f).kvt = s.kvt := rfl
@[simp] theorem State.modSel_ctxs (j : Nat) (f : Selectors → Selectors) : (s.modSel j f).ctxs = s.ctxs := rfl
@[simp] theorem State.modSel_sched (j : Nat) (f : Selectors → Selectors) : (s.modSel j f).sched = s.sched := rfl
@[simp] theorem State.modSel_srv (j : Nat) (f : Selectors → Selectors) : (s.modSel j f).srv = s.srv := rfl
@[simp] theorem State.modSel_health (j : Nat) (f : Selectors → Selectors) : (s.modSel j f).health = s.health := rfl
@[simp] theorem State.modSel_rcv (j : Nat) (f : Selectors → Selectors) : (s.modSel j f).rcv = s.rcv := rfl
@[simp] theorem State.modSel_twin (j : Nat) (f : Selectors → Selectors) : (s.modSel j f).twin = s.twin := rfl
@[simp] theorem State.modSel_ports (j : Nat) (f : Selectors → Selectors) : (s.modSel j f).ports = s.ports := rfl
@[simp] theorem State.modSel_thm (j : Nat) (f : Selectors → Selectors) : (s.modSel j f).thm = s.thm := rfl
@[simp] theorem State.modSel_mon (j : Nat) (f : Selectors → Selectors) : (s.modSel j f).mon = s.mon := rfl
@[simp] theorem State.modSel_obs (j : Nat) (f : Selectors → Selectors) : (s.modSel j f).obs = s.obs := rfl
@[simp] theorem State.modSel_agg (j : Nat) (f : Selectors → Selectors) : (s.modSel j f).agg = s.agg := rfl
@[simp] theorem State.modSel_out (j : Nat) (f : Selectors → Selectors) : (s.modSel j f).out = s.out := rfl
@[simp] theorem State.modSel_get_heddle (j : Nat) (f : Selectors → Selectors) (k : Nat) : (s.modSel j f).heddle k = s.heddle k := rfl
@[simp] theorem State.modSel_get_harness (j : Nat) (f : Selectors → Selectors) (k : Nat) : (s.modSel j f).harness k = s.harness k := rfl
@[simp] theorem State.modSel_get_loom (j : Nat) (f : Selectors → Selectors) (k : Nat) : (s.modSel j f).loom k = s.loom k := rfl
@[simp] theorem State.modSel_get_shuttle (j : Nat) (f : Selectors → Selectors) (k : Nat) : (s.modSel j f).shuttle k = s.shuttle k := rfl
@[simp] theorem State.modSel_get_arena (j : Nat) (f : Selectors → Selectors) (k : Nat) : (s.modSel j f).arena k = s.arena k := rfl
@[simp] theorem State.modSel_get_ctx (j : Nat) (f : Selectors → Selectors) (k : Nat) : (s.modSel j f).ctx k = s.ctx k := rfl
@[simp] theorem State.modSel_get_mailbox (j : Nat) (f : Selectors → Selectors) (k : Nat) : (s.modSel j f).mailbox k = s.mailbox k := rfl
@[simp] theorem State.modSel_get_slot (j : Nat) (f : Selectors → Selectors) (k : Nat) : (s.modSel j f).slot k = s.slot k := rfl
@[simp] theorem State.modSel_get_latch (j : Nat) (f : Selectors → Selectors) (k : Nat) : (s.modSel j f).latch k = s.latch k := rfl
@[simp] theorem State.modSel_get_ring (j : Nat) (f : Selectors → Selectors) (k : Nat) : (s.modSel j f).ring k = s.ring k := rfl
@[simp] theorem State.modSel_get_stream (j : Nat) (f : Selectors → Selectors) (k : Nat) : (s.modSel j f).stream k = s.stream k := rfl
@[simp] theorem State.modSel_get_tenant (j : Nat) (f : Selectors → Selectors) (k : Nat) : (s.modSel j f).tenant k = s.tenant k := rfl
@[simp] theorem State.modSel_get_port (j : Nat) (f : Selectors → Selectors) (k : Nat) : (s.modSel j f).port k = s.port k := rfl
@[simp] theorem State.modSel_get_sensor (j : Nat) (f : Selectors → Selectors) (k : Nat) : (s.modSel j f).sensor k = s.sensor k := rfl
@[simp] theorem State.modSel_get_chan (j : Nat) (f : Selectors → Selectors) (k : Nat) : (s.modSel j f).chan k = s.chan k := rfl
@[simp] theorem State.modSel_get_engine (j : Nat) (f : Selectors → Selectors) (k : Nat) : (s.modSel j f).engine k = s.engine k := rfl
@[simp] theorem State.modSel_get_pmc (j : Nat) (f : Selectors → Selectors) (k : Nat) : (s.modSel j f).pmc k = s.pmc k := rfl

/-! ## modLatch -/

@[simp] theorem State.modLatch_latch (j : Nat) (f : Latches → Latches) : (s.modLatch j f).latch j = f (s.latch j) := Tab.getD_upd_same ..
theorem State.modLatch_latch_other {j k : Nat} (h' : k ≠ j) (f : Latches → Latches) : (s.modLatch j f).latch k = s.latch k :=
  Tab.getD_upd_other _ _ h' _
@[simp] theorem State.modLatch_pending (j : Nat) (f : Latches → Latches) : (s.modLatch j f).pending = s.pending := rfl
@[simp] theorem State.modLatch_tick (j : Nat) (f : Latches → Latches) : (s.modLatch j f).tick = s.tick := rfl
@[simp] theorem State.modLatch_clk (j : Nat) (f : Latches → Latches) : (s.modLatch j f).clk = s.clk := rfl
@[simp] theorem State.modLatch_time (j : Nat) (f : Latches → Latches) : (s.modLatch j f).time = s.time := rfl
@[simp] theorem State.modLatch_pwr (j : Nat) (f : Latches → Latches) : (s.modLatch j f).pwr = s.pwr := rfl
@[simp] theorem State.modLatch_hs (j : Nat) (f : Latches → Latches) : (s.modLatch j f).hs = s.hs := rfl
@[simp] theorem State.modLatch_sec (j : Nat) (f : Latches → Latches) : (s.modLatch j f).sec = s.sec := rfl
@[simp] theorem State.modLatch_mbx (j : Nat) (f : Latches → Latches) : (s.modLatch j f).mbx = s.mbx := rfl
@[simp] theorem State.modLatch_mem (j : Nat) (f : Latches → Latches) : (s.modLatch j f).mem = s.mem := rfl
@[simp] theorem State.modLatch_arr (j : Nat) (f : Latches → Latches) : (s.modLatch j f).arr = s.arr := rfl
@[simp] theorem State.modLatch_kvt (j : Nat) (f : Latches → Latches) : (s.modLatch j f).kvt = s.kvt := rfl
@[simp] theorem State.modLatch_ctxs (j : Nat) (f : Latches → Latches) : (s.modLatch j f).ctxs = s.ctxs := rfl
@[simp] theorem State.modLatch_sched (j : Nat) (f : Latches → Latches) : (s.modLatch j f).sched = s.sched := rfl
@[simp] theorem State.modLatch_srv (j : Nat) (f : Latches → Latches) : (s.modLatch j f).srv = s.srv := rfl
@[simp] theorem State.modLatch_health (j : Nat) (f : Latches → Latches) : (s.modLatch j f).health = s.health := rfl
@[simp] theorem State.modLatch_rcv (j : Nat) (f : Latches → Latches) : (s.modLatch j f).rcv = s.rcv := rfl
@[simp] theorem State.modLatch_twin (j : Nat) (f : Latches → Latches) : (s.modLatch j f).twin = s.twin := rfl
@[simp] theorem State.modLatch_ports (j : Nat) (f : Latches → Latches) : (s.modLatch j f).ports = s.ports := rfl
@[simp] theorem State.modLatch_thm (j : Nat) (f : Latches → Latches) : (s.modLatch j f).thm = s.thm := rfl
@[simp] theorem State.modLatch_mon (j : Nat) (f : Latches → Latches) : (s.modLatch j f).mon = s.mon := rfl
@[simp] theorem State.modLatch_obs (j : Nat) (f : Latches → Latches) : (s.modLatch j f).obs = s.obs := rfl
@[simp] theorem State.modLatch_agg (j : Nat) (f : Latches → Latches) : (s.modLatch j f).agg = s.agg := rfl
@[simp] theorem State.modLatch_out (j : Nat) (f : Latches → Latches) : (s.modLatch j f).out = s.out := rfl
@[simp] theorem State.modLatch_get_heddle (j : Nat) (f : Latches → Latches) (k : Nat) : (s.modLatch j f).heddle k = s.heddle k := rfl
@[simp] theorem State.modLatch_get_harness (j : Nat) (f : Latches → Latches) (k : Nat) : (s.modLatch j f).harness k = s.harness k := rfl
@[simp] theorem State.modLatch_get_loom (j : Nat) (f : Latches → Latches) (k : Nat) : (s.modLatch j f).loom k = s.loom k := rfl
@[simp] theorem State.modLatch_get_shuttle (j : Nat) (f : Latches → Latches) (k : Nat) : (s.modLatch j f).shuttle k = s.shuttle k := rfl
@[simp] theorem State.modLatch_get_arena (j : Nat) (f : Latches → Latches) (k : Nat) : (s.modLatch j f).arena k = s.arena k := rfl
@[simp] theorem State.modLatch_get_ctx (j : Nat) (f : Latches → Latches) (k : Nat) : (s.modLatch j f).ctx k = s.ctx k := rfl
@[simp] theorem State.modLatch_get_mailbox (j : Nat) (f : Latches → Latches) (k : Nat) : (s.modLatch j f).mailbox k = s.mailbox k := rfl
@[simp] theorem State.modLatch_get_slot (j : Nat) (f : Latches → Latches) (k : Nat) : (s.modLatch j f).slot k = s.slot k := rfl
@[simp] theorem State.modLatch_get_sel (j : Nat) (f : Latches → Latches) (k : Nat) : (s.modLatch j f).sel k = s.sel k := rfl
@[simp] theorem State.modLatch_get_ring (j : Nat) (f : Latches → Latches) (k : Nat) : (s.modLatch j f).ring k = s.ring k := rfl
@[simp] theorem State.modLatch_get_stream (j : Nat) (f : Latches → Latches) (k : Nat) : (s.modLatch j f).stream k = s.stream k := rfl
@[simp] theorem State.modLatch_get_tenant (j : Nat) (f : Latches → Latches) (k : Nat) : (s.modLatch j f).tenant k = s.tenant k := rfl
@[simp] theorem State.modLatch_get_port (j : Nat) (f : Latches → Latches) (k : Nat) : (s.modLatch j f).port k = s.port k := rfl
@[simp] theorem State.modLatch_get_sensor (j : Nat) (f : Latches → Latches) (k : Nat) : (s.modLatch j f).sensor k = s.sensor k := rfl
@[simp] theorem State.modLatch_get_chan (j : Nat) (f : Latches → Latches) (k : Nat) : (s.modLatch j f).chan k = s.chan k := rfl
@[simp] theorem State.modLatch_get_engine (j : Nat) (f : Latches → Latches) (k : Nat) : (s.modLatch j f).engine k = s.engine k := rfl
@[simp] theorem State.modLatch_get_pmc (j : Nat) (f : Latches → Latches) (k : Nat) : (s.modLatch j f).pmc k = s.pmc k := rfl

/-! ## modRing -/

@[simp] theorem State.modRing_ring (r : Nat) (f : Ring → Ring) : (s.modRing r f).ring r = f (s.ring r) := Tab.getD_upd_same ..
theorem State.modRing_ring_other {r k : Nat} (h' : k ≠ r) (f : Ring → Ring) : (s.modRing r f).ring k = s.ring k :=
  Tab.getD_upd_other _ _ h' _
@[simp] theorem State.modRing_pending (r : Nat) (f : Ring → Ring) : (s.modRing r f).pending = s.pending := rfl
@[simp] theorem State.modRing_tick (r : Nat) (f : Ring → Ring) : (s.modRing r f).tick = s.tick := rfl
@[simp] theorem State.modRing_clk (r : Nat) (f : Ring → Ring) : (s.modRing r f).clk = s.clk := rfl
@[simp] theorem State.modRing_time (r : Nat) (f : Ring → Ring) : (s.modRing r f).time = s.time := rfl
@[simp] theorem State.modRing_pwr (r : Nat) (f : Ring → Ring) : (s.modRing r f).pwr = s.pwr := rfl
@[simp] theorem State.modRing_hs (r : Nat) (f : Ring → Ring) : (s.modRing r f).hs = s.hs := rfl
@[simp] theorem State.modRing_sec (r : Nat) (f : Ring → Ring) : (s.modRing r f).sec = s.sec := rfl
@[simp] theorem State.modRing_acc (r : Nat) (f : Ring → Ring) : (s.modRing r f).acc = s.acc := rfl
@[simp] theorem State.modRing_mbx (r : Nat) (f : Ring → Ring) : (s.modRing r f).mbx = s.mbx := rfl
@[simp] theorem State.modRing_mem (r : Nat) (f : Ring → Ring) : (s.modRing r f).mem = s.mem := rfl
@[simp] theorem State.modRing_arr (r : Nat) (f : Ring → Ring) : (s.modRing r f).arr = s.arr := rfl
@[simp] theorem State.modRing_kvt (r : Nat) (f : Ring → Ring) : (s.modRing r f).kvt = s.kvt := rfl
@[simp] theorem State.modRing_ctxs (r : Nat) (f : Ring → Ring) : (s.modRing r f).ctxs = s.ctxs := rfl
@[simp] theorem State.modRing_sched (r : Nat) (f : Ring → Ring) : (s.modRing r f).sched = s.sched := rfl
@[simp] theorem State.modRing_health (r : Nat) (f : Ring → Ring) : (s.modRing r f).health = s.health := rfl
@[simp] theorem State.modRing_rcv (r : Nat) (f : Ring → Ring) : (s.modRing r f).rcv = s.rcv := rfl
@[simp] theorem State.modRing_twin (r : Nat) (f : Ring → Ring) : (s.modRing r f).twin = s.twin := rfl
@[simp] theorem State.modRing_ports (r : Nat) (f : Ring → Ring) : (s.modRing r f).ports = s.ports := rfl
@[simp] theorem State.modRing_thm (r : Nat) (f : Ring → Ring) : (s.modRing r f).thm = s.thm := rfl
@[simp] theorem State.modRing_mon (r : Nat) (f : Ring → Ring) : (s.modRing r f).mon = s.mon := rfl
@[simp] theorem State.modRing_obs (r : Nat) (f : Ring → Ring) : (s.modRing r f).obs = s.obs := rfl
@[simp] theorem State.modRing_agg (r : Nat) (f : Ring → Ring) : (s.modRing r f).agg = s.agg := rfl
@[simp] theorem State.modRing_out (r : Nat) (f : Ring → Ring) : (s.modRing r f).out = s.out := rfl
@[simp] theorem State.modRing_get_heddle (r : Nat) (f : Ring → Ring) (k : Nat) : (s.modRing r f).heddle k = s.heddle k := rfl
@[simp] theorem State.modRing_get_harness (r : Nat) (f : Ring → Ring) (k : Nat) : (s.modRing r f).harness k = s.harness k := rfl
@[simp] theorem State.modRing_get_loom (r : Nat) (f : Ring → Ring) (k : Nat) : (s.modRing r f).loom k = s.loom k := rfl
@[simp] theorem State.modRing_get_shuttle (r : Nat) (f : Ring → Ring) (k : Nat) : (s.modRing r f).shuttle k = s.shuttle k := rfl
@[simp] theorem State.modRing_get_arena (r : Nat) (f : Ring → Ring) (k : Nat) : (s.modRing r f).arena k = s.arena k := rfl
@[simp] theorem State.modRing_get_ctx (r : Nat) (f : Ring → Ring) (k : Nat) : (s.modRing r f).ctx k = s.ctx k := rfl
@[simp] theorem State.modRing_get_mailbox (r : Nat) (f : Ring → Ring) (k : Nat) : (s.modRing r f).mailbox k = s.mailbox k := rfl
@[simp] theorem State.modRing_get_slot (r : Nat) (f : Ring → Ring) (k : Nat) : (s.modRing r f).slot k = s.slot k := rfl
@[simp] theorem State.modRing_get_sel (r : Nat) (f : Ring → Ring) (k : Nat) : (s.modRing r f).sel k = s.sel k := rfl
@[simp] theorem State.modRing_get_latch (r : Nat) (f : Ring → Ring) (k : Nat) : (s.modRing r f).latch k = s.latch k := rfl
@[simp] theorem State.modRing_get_stream (r : Nat) (f : Ring → Ring) (k : Nat) : (s.modRing r f).stream k = s.stream k := rfl
@[simp] theorem State.modRing_get_tenant (r : Nat) (f : Ring → Ring) (k : Nat) : (s.modRing r f).tenant k = s.tenant k := rfl
@[simp] theorem State.modRing_get_port (r : Nat) (f : Ring → Ring) (k : Nat) : (s.modRing r f).port k = s.port k := rfl
@[simp] theorem State.modRing_get_sensor (r : Nat) (f : Ring → Ring) (k : Nat) : (s.modRing r f).sensor k = s.sensor k := rfl
@[simp] theorem State.modRing_get_chan (r : Nat) (f : Ring → Ring) (k : Nat) : (s.modRing r f).chan k = s.chan k := rfl
@[simp] theorem State.modRing_get_engine (r : Nat) (f : Ring → Ring) (k : Nat) : (s.modRing r f).engine k = s.engine k := rfl
@[simp] theorem State.modRing_get_pmc (r : Nat) (f : Ring → Ring) (k : Nat) : (s.modRing r f).pmc k = s.pmc k := rfl

/-! ## modStream -/

@[simp] theorem State.modStream_stream (t : Nat) (f : Stream → Stream) : (s.modStream t f).stream t = f (s.stream t) := Tab.getD_upd_same ..
theorem State.modStream_stream_other {t k : Nat} (h' : k ≠ t) (f : Stream → Stream) : (s.modStream t f).stream k = s.stream k :=
  Tab.getD_upd_other _ _ h' _
@[simp] theorem State.modStream_pending (t : Nat) (f : Stream → Stream) : (s.modStream t f).pending = s.pending := rfl
@[simp] theorem State.modStream_tick (t : Nat) (f : Stream → Stream) : (s.modStream t f).tick = s.tick := rfl
@[simp] theorem State.modStream_clk (t : Nat) (f : Stream → Stream) : (s.modStream t f).clk = s.clk := rfl
@[simp] theorem State.modStream_time (t : Nat) (f : Stream → Stream) : (s.modStream t f).time = s.time := rfl
@[simp] theorem State.modStream_pwr (t : Nat) (f : Stream → Stream) : (s.modStream t f).pwr = s.pwr := rfl
@[simp] theorem State.modStream_hs (t : Nat) (f : Stream → Stream) : (s.modStream t f).hs = s.hs := rfl
@[simp] theorem State.modStream_sec (t : Nat) (f : Stream → Stream) : (s.modStream t f).sec = s.sec := rfl
@[simp] theorem State.modStream_acc (t : Nat) (f : Stream → Stream) : (s.modStream t f).acc = s.acc := rfl
@[simp] theorem State.modStream_mbx (t : Nat) (f : Stream → Stream) : (s.modStream t f).mbx = s.mbx := rfl
@[simp] theorem State.modStream_mem (t : Nat) (f : Stream → Stream) : (s.modStream t f).mem = s.mem := rfl
@[simp] theorem State.modStream_arr (t : Nat) (f : Stream → Stream) : (s.modStream t f).arr = s.arr := rfl
@[simp] theorem State.modStream_kvt (t : Nat) (f : Stream → Stream) : (s.modStream t f).kvt = s.kvt := rfl
@[simp] theorem State.modStream_ctxs (t : Nat) (f : Stream → Stream) : (s.modStream t f).ctxs = s.ctxs := rfl
@[simp] theorem State.modStream_sched (t : Nat) (f : Stream → Stream) : (s.modStream t f).sched = s.sched := rfl
@[simp] theorem State.modStream_health (t : Nat) (f : Stream → Stream) : (s.modStream t f).health = s.health := rfl
@[simp] theorem State.modStream_rcv (t : Nat) (f : Stream → Stream) : (s.modStream t f).rcv = s.rcv := rfl
@[simp] theorem State.modStream_twin (t : Nat) (f : Stream → Stream) : (s.modStream t f).twin = s.twin := rfl
@[simp] theorem State.modStream_ports (t : Nat) (f : Stream → Stream) : (s.modStream t f).ports = s.ports := rfl
@[simp] theorem State.modStream_thm (t : Nat) (f : Stream → Stream) : (s.modStream t f).thm = s.thm := rfl
@[simp] theorem State.modStream_mon (t : Nat) (f : Stream → Stream) : (s.modStream t f).mon = s.mon := rfl
@[simp] theorem State.modStream_obs (t : Nat) (f : Stream → Stream) : (s.modStream t f).obs = s.obs := rfl
@[simp] theorem State.modStream_agg (t : Nat) (f : Stream → Stream) : (s.modStream t f).agg = s.agg := rfl
@[simp] theorem State.modStream_out (t : Nat) (f : Stream → Stream) : (s.modStream t f).out = s.out := rfl
@[simp] theorem State.modStream_get_heddle (t : Nat) (f : Stream → Stream) (k : Nat) : (s.modStream t f).heddle k = s.heddle k := rfl
@[simp] theorem State.modStream_get_harness (t : Nat) (f : Stream → Stream) (k : Nat) : (s.modStream t f).harness k = s.harness k := rfl
@[simp] theorem State.modStream_get_loom (t : Nat) (f : Stream → Stream) (k : Nat) : (s.modStream t f).loom k = s.loom k := rfl
@[simp] theorem State.modStream_get_shuttle (t : Nat) (f : Stream → Stream) (k : Nat) : (s.modStream t f).shuttle k = s.shuttle k := rfl
@[simp] theorem State.modStream_get_arena (t : Nat) (f : Stream → Stream) (k : Nat) : (s.modStream t f).arena k = s.arena k := rfl
@[simp] theorem State.modStream_get_ctx (t : Nat) (f : Stream → Stream) (k : Nat) : (s.modStream t f).ctx k = s.ctx k := rfl
@[simp] theorem State.modStream_get_mailbox (t : Nat) (f : Stream → Stream) (k : Nat) : (s.modStream t f).mailbox k = s.mailbox k := rfl
@[simp] theorem State.modStream_get_slot (t : Nat) (f : Stream → Stream) (k : Nat) : (s.modStream t f).slot k = s.slot k := rfl
@[simp] theorem State.modStream_get_sel (t : Nat) (f : Stream → Stream) (k : Nat) : (s.modStream t f).sel k = s.sel k := rfl
@[simp] theorem State.modStream_get_latch (t : Nat) (f : Stream → Stream) (k : Nat) : (s.modStream t f).latch k = s.latch k := rfl
@[simp] theorem State.modStream_get_ring (t : Nat) (f : Stream → Stream) (k : Nat) : (s.modStream t f).ring k = s.ring k := rfl
@[simp] theorem State.modStream_get_tenant (t : Nat) (f : Stream → Stream) (k : Nat) : (s.modStream t f).tenant k = s.tenant k := rfl
@[simp] theorem State.modStream_get_port (t : Nat) (f : Stream → Stream) (k : Nat) : (s.modStream t f).port k = s.port k := rfl
@[simp] theorem State.modStream_get_sensor (t : Nat) (f : Stream → Stream) (k : Nat) : (s.modStream t f).sensor k = s.sensor k := rfl
@[simp] theorem State.modStream_get_chan (t : Nat) (f : Stream → Stream) (k : Nat) : (s.modStream t f).chan k = s.chan k := rfl
@[simp] theorem State.modStream_get_engine (t : Nat) (f : Stream → Stream) (k : Nat) : (s.modStream t f).engine k = s.engine k := rfl
@[simp] theorem State.modStream_get_pmc (t : Nat) (f : Stream → Stream) (k : Nat) : (s.modStream t f).pmc k = s.pmc k := rfl

/-! ## modTenant -/

@[simp] theorem State.modTenant_tenant (t : Nat) (f : Tenant → Tenant) : (s.modTenant t f).tenant t = f (s.tenant t) := Tab.getD_upd_same ..
theorem State.modTenant_tenant_other {t k : Nat} (h' : k ≠ t) (f : Tenant → Tenant) : (s.modTenant t f).tenant k = s.tenant k :=
  Tab.getD_upd_other _ _ h' _
@[simp] theorem State.modTenant_pending (t : Nat) (f : Tenant → Tenant) : (s.modTenant t f).pending = s.pending := rfl
@[simp] theorem State.modTenant_tick (t : Nat) (f : Tenant → Tenant) : (s.modTenant t f).tick = s.tick := rfl
@[simp] theorem State.modTenant_clk (t : Nat) (f : Tenant → Tenant) : (s.modTenant t f).clk = s.clk := rfl
@[simp] theorem State.modTenant_time (t : Nat) (f : Tenant → Tenant) : (s.modTenant t f).time = s.time := rfl
@[simp] theorem State.modTenant_pwr (t : Nat) (f : Tenant → Tenant) : (s.modTenant t f).pwr = s.pwr := rfl
@[simp] theorem State.modTenant_hs (t : Nat) (f : Tenant → Tenant) : (s.modTenant t f).hs = s.hs := rfl
@[simp] theorem State.modTenant_sec (t : Nat) (f : Tenant → Tenant) : (s.modTenant t f).sec = s.sec := rfl
@[simp] theorem State.modTenant_acc (t : Nat) (f : Tenant → Tenant) : (s.modTenant t f).acc = s.acc := rfl
@[simp] theorem State.modTenant_mbx (t : Nat) (f : Tenant → Tenant) : (s.modTenant t f).mbx = s.mbx := rfl
@[simp] theorem State.modTenant_mem (t : Nat) (f : Tenant → Tenant) : (s.modTenant t f).mem = s.mem := rfl
@[simp] theorem State.modTenant_arr (t : Nat) (f : Tenant → Tenant) : (s.modTenant t f).arr = s.arr := rfl
@[simp] theorem State.modTenant_kvt (t : Nat) (f : Tenant → Tenant) : (s.modTenant t f).kvt = s.kvt := rfl
@[simp] theorem State.modTenant_ctxs (t : Nat) (f : Tenant → Tenant) : (s.modTenant t f).ctxs = s.ctxs := rfl
@[simp] theorem State.modTenant_sched (t : Nat) (f : Tenant → Tenant) : (s.modTenant t f).sched = s.sched := rfl
@[simp] theorem State.modTenant_health (t : Nat) (f : Tenant → Tenant) : (s.modTenant t f).health = s.health := rfl
@[simp] theorem State.modTenant_rcv (t : Nat) (f : Tenant → Tenant) : (s.modTenant t f).rcv = s.rcv := rfl
@[simp] theorem State.modTenant_twin (t : Nat) (f : Tenant → Tenant) : (s.modTenant t f).twin = s.twin := rfl
@[simp] theorem State.modTenant_ports (t : Nat) (f : Tenant → Tenant) : (s.modTenant t f).ports = s.ports := rfl
@[simp] theorem State.modTenant_thm (t : Nat) (f : Tenant → Tenant) : (s.modTenant t f).thm = s.thm := rfl
@[simp] theorem State.modTenant_mon (t : Nat) (f : Tenant → Tenant) : (s.modTenant t f).mon = s.mon := rfl
@[simp] theorem State.modTenant_obs (t : Nat) (f : Tenant → Tenant) : (s.modTenant t f).obs = s.obs := rfl
@[simp] theorem State.modTenant_agg (t : Nat) (f : Tenant → Tenant) : (s.modTenant t f).agg = s.agg := rfl
@[simp] theorem State.modTenant_out (t : Nat) (f : Tenant → Tenant) : (s.modTenant t f).out = s.out := rfl
@[simp] theorem State.modTenant_get_heddle (t : Nat) (f : Tenant → Tenant) (k : Nat) : (s.modTenant t f).heddle k = s.heddle k := rfl
@[simp] theorem State.modTenant_get_harness (t : Nat) (f : Tenant → Tenant) (k : Nat) : (s.modTenant t f).harness k = s.harness k := rfl
@[simp] theorem State.modTenant_get_loom (t : Nat) (f : Tenant → Tenant) (k : Nat) : (s.modTenant t f).loom k = s.loom k := rfl
@[simp] theorem State.modTenant_get_shuttle (t : Nat) (f : Tenant → Tenant) (k : Nat) : (s.modTenant t f).shuttle k = s.shuttle k := rfl
@[simp] theorem State.modTenant_get_arena (t : Nat) (f : Tenant → Tenant) (k : Nat) : (s.modTenant t f).arena k = s.arena k := rfl
@[simp] theorem State.modTenant_get_ctx (t : Nat) (f : Tenant → Tenant) (k : Nat) : (s.modTenant t f).ctx k = s.ctx k := rfl
@[simp] theorem State.modTenant_get_mailbox (t : Nat) (f : Tenant → Tenant) (k : Nat) : (s.modTenant t f).mailbox k = s.mailbox k := rfl
@[simp] theorem State.modTenant_get_slot (t : Nat) (f : Tenant → Tenant) (k : Nat) : (s.modTenant t f).slot k = s.slot k := rfl
@[simp] theorem State.modTenant_get_sel (t : Nat) (f : Tenant → Tenant) (k : Nat) : (s.modTenant t f).sel k = s.sel k := rfl
@[simp] theorem State.modTenant_get_latch (t : Nat) (f : Tenant → Tenant) (k : Nat) : (s.modTenant t f).latch k = s.latch k := rfl
@[simp] theorem State.modTenant_get_ring (t : Nat) (f : Tenant → Tenant) (k : Nat) : (s.modTenant t f).ring k = s.ring k := rfl
@[simp] theorem State.modTenant_get_stream (t : Nat) (f : Tenant → Tenant) (k : Nat) : (s.modTenant t f).stream k = s.stream k := rfl
@[simp] theorem State.modTenant_get_port (t : Nat) (f : Tenant → Tenant) (k : Nat) : (s.modTenant t f).port k = s.port k := rfl
@[simp] theorem State.modTenant_get_sensor (t : Nat) (f : Tenant → Tenant) (k : Nat) : (s.modTenant t f).sensor k = s.sensor k := rfl
@[simp] theorem State.modTenant_get_chan (t : Nat) (f : Tenant → Tenant) (k : Nat) : (s.modTenant t f).chan k = s.chan k := rfl
@[simp] theorem State.modTenant_get_engine (t : Nat) (f : Tenant → Tenant) (k : Nat) : (s.modTenant t f).engine k = s.engine k := rfl
@[simp] theorem State.modTenant_get_pmc (t : Nat) (f : Tenant → Tenant) (k : Nat) : (s.modTenant t f).pmc k = s.pmc k := rfl

/-! ## modPort -/

@[simp] theorem State.modPort_port (p : Nat) (f : Port → Port) : (s.modPort p f).port p = f (s.port p) := Tab.getD_upd_same ..
theorem State.modPort_port_other {p k : Nat} (h' : k ≠ p) (f : Port → Port) : (s.modPort p f).port k = s.port k :=
  Tab.getD_upd_other _ _ h' _
@[simp] theorem State.modPort_pending (p : Nat) (f : Port → Port) : (s.modPort p f).pending = s.pending := rfl
@[simp] theorem State.modPort_tick (p : Nat) (f : Port → Port) : (s.modPort p f).tick = s.tick := rfl
@[simp] theorem State.modPort_clk (p : Nat) (f : Port → Port) : (s.modPort p f).clk = s.clk := rfl
@[simp] theorem State.modPort_time (p : Nat) (f : Port → Port) : (s.modPort p f).time = s.time := rfl
@[simp] theorem State.modPort_pwr (p : Nat) (f : Port → Port) : (s.modPort p f).pwr = s.pwr := rfl
@[simp] theorem State.modPort_hs (p : Nat) (f : Port → Port) : (s.modPort p f).hs = s.hs := rfl
@[simp] theorem State.modPort_sec (p : Nat) (f : Port → Port) : (s.modPort p f).sec = s.sec := rfl
@[simp] theorem State.modPort_acc (p : Nat) (f : Port → Port) : (s.modPort p f).acc = s.acc := rfl
@[simp] theorem State.modPort_mbx (p : Nat) (f : Port → Port) : (s.modPort p f).mbx = s.mbx := rfl
@[simp] theorem State.modPort_mem (p : Nat) (f : Port → Port) : (s.modPort p f).mem = s.mem := rfl
@[simp] theorem State.modPort_arr (p : Nat) (f : Port → Port) : (s.modPort p f).arr = s.arr := rfl
@[simp] theorem State.modPort_kvt (p : Nat) (f : Port → Port) : (s.modPort p f).kvt = s.kvt := rfl
@[simp] theorem State.modPort_ctxs (p : Nat) (f : Port → Port) : (s.modPort p f).ctxs = s.ctxs := rfl
@[simp] theorem State.modPort_sched (p : Nat) (f : Port → Port) : (s.modPort p f).sched = s.sched := rfl
@[simp] theorem State.modPort_srv (p : Nat) (f : Port → Port) : (s.modPort p f).srv = s.srv := rfl
@[simp] theorem State.modPort_health (p : Nat) (f : Port → Port) : (s.modPort p f).health = s.health := rfl
@[simp] theorem State.modPort_rcv (p : Nat) (f : Port → Port) : (s.modPort p f).rcv = s.rcv := rfl
@[simp] theorem State.modPort_twin (p : Nat) (f : Port → Port) : (s.modPort p f).twin = s.twin := rfl
@[simp] theorem State.modPort_thm (p : Nat) (f : Port → Port) : (s.modPort p f).thm = s.thm := rfl
@[simp] theorem State.modPort_mon (p : Nat) (f : Port → Port) : (s.modPort p f).mon = s.mon := rfl
@[simp] theorem State.modPort_obs (p : Nat) (f : Port → Port) : (s.modPort p f).obs = s.obs := rfl
@[simp] theorem State.modPort_agg (p : Nat) (f : Port → Port) : (s.modPort p f).agg = s.agg := rfl
@[simp] theorem State.modPort_out (p : Nat) (f : Port → Port) : (s.modPort p f).out = s.out := rfl
@[simp] theorem State.modPort_get_heddle (p : Nat) (f : Port → Port) (k : Nat) : (s.modPort p f).heddle k = s.heddle k := rfl
@[simp] theorem State.modPort_get_harness (p : Nat) (f : Port → Port) (k : Nat) : (s.modPort p f).harness k = s.harness k := rfl
@[simp] theorem State.modPort_get_loom (p : Nat) (f : Port → Port) (k : Nat) : (s.modPort p f).loom k = s.loom k := rfl
@[simp] theorem State.modPort_get_shuttle (p : Nat) (f : Port → Port) (k : Nat) : (s.modPort p f).shuttle k = s.shuttle k := rfl
@[simp] theorem State.modPort_get_arena (p : Nat) (f : Port → Port) (k : Nat) : (s.modPort p f).arena k = s.arena k := rfl
@[simp] theorem State.modPort_get_ctx (p : Nat) (f : Port → Port) (k : Nat) : (s.modPort p f).ctx k = s.ctx k := rfl
@[simp] theorem State.modPort_get_mailbox (p : Nat) (f : Port → Port) (k : Nat) : (s.modPort p f).mailbox k = s.mailbox k := rfl
@[simp] theorem State.modPort_get_slot (p : Nat) (f : Port → Port) (k : Nat) : (s.modPort p f).slot k = s.slot k := rfl
@[simp] theorem State.modPort_get_sel (p : Nat) (f : Port → Port) (k : Nat) : (s.modPort p f).sel k = s.sel k := rfl
@[simp] theorem State.modPort_get_latch (p : Nat) (f : Port → Port) (k : Nat) : (s.modPort p f).latch k = s.latch k := rfl
@[simp] theorem State.modPort_get_ring (p : Nat) (f : Port → Port) (k : Nat) : (s.modPort p f).ring k = s.ring k := rfl
@[simp] theorem State.modPort_get_stream (p : Nat) (f : Port → Port) (k : Nat) : (s.modPort p f).stream k = s.stream k := rfl
@[simp] theorem State.modPort_get_tenant (p : Nat) (f : Port → Port) (k : Nat) : (s.modPort p f).tenant k = s.tenant k := rfl
@[simp] theorem State.modPort_get_sensor (p : Nat) (f : Port → Port) (k : Nat) : (s.modPort p f).sensor k = s.sensor k := rfl
@[simp] theorem State.modPort_get_chan (p : Nat) (f : Port → Port) (k : Nat) : (s.modPort p f).chan k = s.chan k := rfl
@[simp] theorem State.modPort_get_engine (p : Nat) (f : Port → Port) (k : Nat) : (s.modPort p f).engine k = s.engine k := rfl
@[simp] theorem State.modPort_get_pmc (p : Nat) (f : Port → Port) (k : Nat) : (s.modPort p f).pmc k = s.pmc k := rfl

/-! ## modSensor -/

@[simp] theorem State.modSensor_sensor (n : Nat) (f : Sensor → Sensor) : (s.modSensor n f).sensor n = f (s.sensor n) := Tab.getD_upd_same ..
theorem State.modSensor_sensor_other {n k : Nat} (h' : k ≠ n) (f : Sensor → Sensor) : (s.modSensor n f).sensor k = s.sensor k :=
  Tab.getD_upd_other _ _ h' _
@[simp] theorem State.modSensor_pending (n : Nat) (f : Sensor → Sensor) : (s.modSensor n f).pending = s.pending := rfl
@[simp] theorem State.modSensor_tick (n : Nat) (f : Sensor → Sensor) : (s.modSensor n f).tick = s.tick := rfl
@[simp] theorem State.modSensor_clk (n : Nat) (f : Sensor → Sensor) : (s.modSensor n f).clk = s.clk := rfl
@[simp] theorem State.modSensor_time (n : Nat) (f : Sensor → Sensor) : (s.modSensor n f).time = s.time := rfl
@[simp] theorem State.modSensor_pwr (n : Nat) (f : Sensor → Sensor) : (s.modSensor n f).pwr = s.pwr := rfl
@[simp] theorem State.modSensor_hs (n : Nat) (f : Sensor → Sensor) : (s.modSensor n f).hs = s.hs := rfl
@[simp] theorem State.modSensor_sec (n : Nat) (f : Sensor → Sensor) : (s.modSensor n f).sec = s.sec := rfl
@[simp] theorem State.modSensor_acc (n : Nat) (f : Sensor → Sensor) : (s.modSensor n f).acc = s.acc := rfl
@[simp] theorem State.modSensor_mbx (n : Nat) (f : Sensor → Sensor) : (s.modSensor n f).mbx = s.mbx := rfl
@[simp] theorem State.modSensor_mem (n : Nat) (f : Sensor → Sensor) : (s.modSensor n f).mem = s.mem := rfl
@[simp] theorem State.modSensor_arr (n : Nat) (f : Sensor → Sensor) : (s.modSensor n f).arr = s.arr := rfl
@[simp] theorem State.modSensor_kvt (n : Nat) (f : Sensor → Sensor) : (s.modSensor n f).kvt = s.kvt := rfl
@[simp] theorem State.modSensor_ctxs (n : Nat) (f : Sensor → Sensor) : (s.modSensor n f).ctxs = s.ctxs := rfl
@[simp] theorem State.modSensor_sched (n : Nat) (f : Sensor → Sensor) : (s.modSensor n f).sched = s.sched := rfl
@[simp] theorem State.modSensor_srv (n : Nat) (f : Sensor → Sensor) : (s.modSensor n f).srv = s.srv := rfl
@[simp] theorem State.modSensor_health (n : Nat) (f : Sensor → Sensor) : (s.modSensor n f).health = s.health := rfl
@[simp] theorem State.modSensor_rcv (n : Nat) (f : Sensor → Sensor) : (s.modSensor n f).rcv = s.rcv := rfl
@[simp] theorem State.modSensor_twin (n : Nat) (f : Sensor → Sensor) : (s.modSensor n f).twin = s.twin := rfl
@[simp] theorem State.modSensor_ports (n : Nat) (f : Sensor → Sensor) : (s.modSensor n f).ports = s.ports := rfl
@[simp] theorem State.modSensor_mon (n : Nat) (f : Sensor → Sensor) : (s.modSensor n f).mon = s.mon := rfl
@[simp] theorem State.modSensor_obs (n : Nat) (f : Sensor → Sensor) : (s.modSensor n f).obs = s.obs := rfl
@[simp] theorem State.modSensor_agg (n : Nat) (f : Sensor → Sensor) : (s.modSensor n f).agg = s.agg := rfl
@[simp] theorem State.modSensor_out (n : Nat) (f : Sensor → Sensor) : (s.modSensor n f).out = s.out := rfl
@[simp] theorem State.modSensor_get_heddle (n : Nat) (f : Sensor → Sensor) (k : Nat) : (s.modSensor n f).heddle k = s.heddle k := rfl
@[simp] theorem State.modSensor_get_harness (n : Nat) (f : Sensor → Sensor) (k : Nat) : (s.modSensor n f).harness k = s.harness k := rfl
@[simp] theorem State.modSensor_get_loom (n : Nat) (f : Sensor → Sensor) (k : Nat) : (s.modSensor n f).loom k = s.loom k := rfl
@[simp] theorem State.modSensor_get_shuttle (n : Nat) (f : Sensor → Sensor) (k : Nat) : (s.modSensor n f).shuttle k = s.shuttle k := rfl
@[simp] theorem State.modSensor_get_arena (n : Nat) (f : Sensor → Sensor) (k : Nat) : (s.modSensor n f).arena k = s.arena k := rfl
@[simp] theorem State.modSensor_get_ctx (n : Nat) (f : Sensor → Sensor) (k : Nat) : (s.modSensor n f).ctx k = s.ctx k := rfl
@[simp] theorem State.modSensor_get_mailbox (n : Nat) (f : Sensor → Sensor) (k : Nat) : (s.modSensor n f).mailbox k = s.mailbox k := rfl
@[simp] theorem State.modSensor_get_slot (n : Nat) (f : Sensor → Sensor) (k : Nat) : (s.modSensor n f).slot k = s.slot k := rfl
@[simp] theorem State.modSensor_get_sel (n : Nat) (f : Sensor → Sensor) (k : Nat) : (s.modSensor n f).sel k = s.sel k := rfl
@[simp] theorem State.modSensor_get_latch (n : Nat) (f : Sensor → Sensor) (k : Nat) : (s.modSensor n f).latch k = s.latch k := rfl
@[simp] theorem State.modSensor_get_ring (n : Nat) (f : Sensor → Sensor) (k : Nat) : (s.modSensor n f).ring k = s.ring k := rfl
@[simp] theorem State.modSensor_get_stream (n : Nat) (f : Sensor → Sensor) (k : Nat) : (s.modSensor n f).stream k = s.stream k := rfl
@[simp] theorem State.modSensor_get_tenant (n : Nat) (f : Sensor → Sensor) (k : Nat) : (s.modSensor n f).tenant k = s.tenant k := rfl
@[simp] theorem State.modSensor_get_port (n : Nat) (f : Sensor → Sensor) (k : Nat) : (s.modSensor n f).port k = s.port k := rfl
@[simp] theorem State.modSensor_get_chan (n : Nat) (f : Sensor → Sensor) (k : Nat) : (s.modSensor n f).chan k = s.chan k := rfl
@[simp] theorem State.modSensor_get_engine (n : Nat) (f : Sensor → Sensor) (k : Nat) : (s.modSensor n f).engine k = s.engine k := rfl
@[simp] theorem State.modSensor_get_pmc (n : Nat) (f : Sensor → Sensor) (k : Nat) : (s.modSensor n f).pmc k = s.pmc k := rfl

/-! ## modChan -/

@[simp] theorem State.modChan_chan (n : Nat) (f : Channel → Channel) : (s.modChan n f).chan n = f (s.chan n) := Tab.getD_upd_same ..
theorem State.modChan_chan_other {n k : Nat} (h' : k ≠ n) (f : Channel → Channel) : (s.modChan n f).chan k = s.chan k :=
  Tab.getD_upd_other _ _ h' _
@[simp] theorem State.modChan_pending (n : Nat) (f : Channel → Channel) : (s.modChan n f).pending = s.pending := rfl
@[simp] theorem State.modChan_tick (n : Nat) (f : Channel → Channel) : (s.modChan n f).tick = s.tick := rfl
@[simp] theorem State.modChan_clk (n : Nat) (f : Channel → Channel) : (s.modChan n f).clk = s.clk := rfl
@[simp] theorem State.modChan_time (n : Nat) (f : Channel → Channel) : (s.modChan n f).time = s.time := rfl
@[simp] theorem State.modChan_pwr (n : Nat) (f : Channel → Channel) : (s.modChan n f).pwr = s.pwr := rfl
@[simp] theorem State.modChan_hs (n : Nat) (f : Channel → Channel) : (s.modChan n f).hs = s.hs := rfl
@[simp] theorem State.modChan_sec (n : Nat) (f : Channel → Channel) : (s.modChan n f).sec = s.sec := rfl
@[simp] theorem State.modChan_acc (n : Nat) (f : Channel → Channel) : (s.modChan n f).acc = s.acc := rfl
@[simp] theorem State.modChan_mbx (n : Nat) (f : Channel → Channel) : (s.modChan n f).mbx = s.mbx := rfl
@[simp] theorem State.modChan_mem (n : Nat) (f : Channel → Channel) : (s.modChan n f).mem = s.mem := rfl
@[simp] theorem State.modChan_arr (n : Nat) (f : Channel → Channel) : (s.modChan n f).arr = s.arr := rfl
@[simp] theorem State.modChan_kvt (n : Nat) (f : Channel → Channel) : (s.modChan n f).kvt = s.kvt := rfl
@[simp] theorem State.modChan_ctxs (n : Nat) (f : Channel → Channel) : (s.modChan n f).ctxs = s.ctxs := rfl
@[simp] theorem State.modChan_sched (n : Nat) (f : Channel → Channel) : (s.modChan n f).sched = s.sched := rfl
@[simp] theorem State.modChan_srv (n : Nat) (f : Channel → Channel) : (s.modChan n f).srv = s.srv := rfl
@[simp] theorem State.modChan_health (n : Nat) (f : Channel → Channel) : (s.modChan n f).health = s.health := rfl
@[simp] theorem State.modChan_rcv (n : Nat) (f : Channel → Channel) : (s.modChan n f).rcv = s.rcv := rfl
@[simp] theorem State.modChan_twin (n : Nat) (f : Channel → Channel) : (s.modChan n f).twin = s.twin := rfl
@[simp] theorem State.modChan_ports (n : Nat) (f : Channel → Channel) : (s.modChan n f).ports = s.ports := rfl
@[simp] theorem State.modChan_thm (n : Nat) (f : Channel → Channel) : (s.modChan n f).thm = s.thm := rfl
@[simp] theorem State.modChan_obs (n : Nat) (f : Channel → Channel) : (s.modChan n f).obs = s.obs := rfl
@[simp] theorem State.modChan_agg (n : Nat) (f : Channel → Channel) : (s.modChan n f).agg = s.agg := rfl
@[simp] theorem State.modChan_out (n : Nat) (f : Channel → Channel) : (s.modChan n f).out = s.out := rfl
@[simp] theorem State.modChan_get_heddle (n : Nat) (f : Channel → Channel) (k : Nat) : (s.modChan n f).heddle k = s.heddle k := rfl
@[simp] theorem State.modChan_get_harness (n : Nat) (f : Channel → Channel) (k : Nat) : (s.modChan n f).harness k = s.harness k := rfl
@[simp] theorem State.modChan_get_loom (n : Nat) (f : Channel → Channel) (k : Nat) : (s.modChan n f).loom k = s.loom k := rfl
@[simp] theorem State.modChan_get_shuttle (n : Nat) (f : Channel → Channel) (k : Nat) : (s.modChan n f).shuttle k = s.shuttle k := rfl
@[simp] theorem State.modChan_get_arena (n : Nat) (f : Channel → Channel) (k : Nat) : (s.modChan n f).arena k = s.arena k := rfl
@[simp] theorem State.modChan_get_ctx (n : Nat) (f : Channel → Channel) (k : Nat) : (s.modChan n f).ctx k = s.ctx k := rfl
@[simp] theorem State.modChan_get_mailbox (n : Nat) (f : Channel → Channel) (k : Nat) : (s.modChan n f).mailbox k = s.mailbox k := rfl
@[simp] theorem State.modChan_get_slot (n : Nat) (f : Channel → Channel) (k : Nat) : (s.modChan n f).slot k = s.slot k := rfl
@[simp] theorem State.modChan_get_sel (n : Nat) (f : Channel → Channel) (k : Nat) : (s.modChan n f).sel k = s.sel k := rfl
@[simp] theorem State.modChan_get_latch (n : Nat) (f : Channel → Channel) (k : Nat) : (s.modChan n f).latch k = s.latch k := rfl
@[simp] theorem State.modChan_get_ring (n : Nat) (f : Channel → Channel) (k : Nat) : (s.modChan n f).ring k = s.ring k := rfl
@[simp] theorem State.modChan_get_stream (n : Nat) (f : Channel → Channel) (k : Nat) : (s.modChan n f).stream k = s.stream k := rfl
@[simp] theorem State.modChan_get_tenant (n : Nat) (f : Channel → Channel) (k : Nat) : (s.modChan n f).tenant k = s.tenant k := rfl
@[simp] theorem State.modChan_get_port (n : Nat) (f : Channel → Channel) (k : Nat) : (s.modChan n f).port k = s.port k := rfl
@[simp] theorem State.modChan_get_sensor (n : Nat) (f : Channel → Channel) (k : Nat) : (s.modChan n f).sensor k = s.sensor k := rfl
@[simp] theorem State.modChan_get_engine (n : Nat) (f : Channel → Channel) (k : Nat) : (s.modChan n f).engine k = s.engine k := rfl
@[simp] theorem State.modChan_get_pmc (n : Nat) (f : Channel → Channel) (k : Nat) : (s.modChan n f).pmc k = s.pmc k := rfl

/-! ## modEngine -/

@[simp] theorem State.modEngine_engine (n : Nat) (f : Engine → Engine) : (s.modEngine n f).engine n = f (s.engine n) := Tab.getD_upd_same ..
theorem State.modEngine_engine_other {n k : Nat} (h' : k ≠ n) (f : Engine → Engine) : (s.modEngine n f).engine k = s.engine k :=
  Tab.getD_upd_other _ _ h' _
@[simp] theorem State.modEngine_pending (n : Nat) (f : Engine → Engine) : (s.modEngine n f).pending = s.pending := rfl
@[simp] theorem State.modEngine_tick (n : Nat) (f : Engine → Engine) : (s.modEngine n f).tick = s.tick := rfl
@[simp] theorem State.modEngine_clk (n : Nat) (f : Engine → Engine) : (s.modEngine n f).clk = s.clk := rfl
@[simp] theorem State.modEngine_time (n : Nat) (f : Engine → Engine) : (s.modEngine n f).time = s.time := rfl
@[simp] theorem State.modEngine_pwr (n : Nat) (f : Engine → Engine) : (s.modEngine n f).pwr = s.pwr := rfl
@[simp] theorem State.modEngine_hs (n : Nat) (f : Engine → Engine) : (s.modEngine n f).hs = s.hs := rfl
@[simp] theorem State.modEngine_sec (n : Nat) (f : Engine → Engine) : (s.modEngine n f).sec = s.sec := rfl
@[simp] theorem State.modEngine_acc (n : Nat) (f : Engine → Engine) : (s.modEngine n f).acc = s.acc := rfl
@[simp] theorem State.modEngine_mbx (n : Nat) (f : Engine → Engine) : (s.modEngine n f).mbx = s.mbx := rfl
@[simp] theorem State.modEngine_mem (n : Nat) (f : Engine → Engine) : (s.modEngine n f).mem = s.mem := rfl
@[simp] theorem State.modEngine_arr (n : Nat) (f : Engine → Engine) : (s.modEngine n f).arr = s.arr := rfl
@[simp] theorem State.modEngine_kvt (n : Nat) (f : Engine → Engine) : (s.modEngine n f).kvt = s.kvt := rfl
@[simp] theorem State.modEngine_ctxs (n : Nat) (f : Engine → Engine) : (s.modEngine n f).ctxs = s.ctxs := rfl
@[simp] theorem State.modEngine_sched (n : Nat) (f : Engine → Engine) : (s.modEngine n f).sched = s.sched := rfl
@[simp] theorem State.modEngine_srv (n : Nat) (f : Engine → Engine) : (s.modEngine n f).srv = s.srv := rfl
@[simp] theorem State.modEngine_health (n : Nat) (f : Engine → Engine) : (s.modEngine n f).health = s.health := rfl
@[simp] theorem State.modEngine_rcv (n : Nat) (f : Engine → Engine) : (s.modEngine n f).rcv = s.rcv := rfl
@[simp] theorem State.modEngine_twin (n : Nat) (f : Engine → Engine) : (s.modEngine n f).twin = s.twin := rfl
@[simp] theorem State.modEngine_ports (n : Nat) (f : Engine → Engine) : (s.modEngine n f).ports = s.ports := rfl
@[simp] theorem State.modEngine_thm (n : Nat) (f : Engine → Engine) : (s.modEngine n f).thm = s.thm := rfl
@[simp] theorem State.modEngine_mon (n : Nat) (f : Engine → Engine) : (s.modEngine n f).mon = s.mon := rfl
@[simp] theorem State.modEngine_agg (n : Nat) (f : Engine → Engine) : (s.modEngine n f).agg = s.agg := rfl
@[simp] theorem State.modEngine_out (n : Nat) (f : Engine → Engine) : (s.modEngine n f).out = s.out := rfl
@[simp] theorem State.modEngine_get_heddle (n : Nat) (f : Engine → Engine) (k : Nat) : (s.modEngine n f).heddle k = s.heddle k := rfl
@[simp] theorem State.modEngine_get_harness (n : Nat) (f : Engine → Engine) (k : Nat) : (s.modEngine n f).harness k = s.harness k := rfl
@[simp] theorem State.modEngine_get_loom (n : Nat) (f : Engine → Engine) (k : Nat) : (s.modEngine n f).loom k = s.loom k := rfl
@[simp] theorem State.modEngine_get_shuttle (n : Nat) (f : Engine → Engine) (k : Nat) : (s.modEngine n f).shuttle k = s.shuttle k := rfl
@[simp] theorem State.modEngine_get_arena (n : Nat) (f : Engine → Engine) (k : Nat) : (s.modEngine n f).arena k = s.arena k := rfl
@[simp] theorem State.modEngine_get_ctx (n : Nat) (f : Engine → Engine) (k : Nat) : (s.modEngine n f).ctx k = s.ctx k := rfl
@[simp] theorem State.modEngine_get_mailbox (n : Nat) (f : Engine → Engine) (k : Nat) : (s.modEngine n f).mailbox k = s.mailbox k := rfl
@[simp] theorem State.modEngine_get_slot (n : Nat) (f : Engine → Engine) (k : Nat) : (s.modEngine n f).slot k = s.slot k := rfl
@[simp] theorem State.modEngine_get_sel (n : Nat) (f : Engine → Engine) (k : Nat) : (s.modEngine n f).sel k = s.sel k := rfl
@[simp] theorem State.modEngine_get_latch (n : Nat) (f : Engine → Engine) (k : Nat) : (s.modEngine n f).latch k = s.latch k := rfl
@[simp] theorem State.modEngine_get_ring (n : Nat) (f : Engine → Engine) (k : Nat) : (s.modEngine n f).ring k = s.ring k := rfl
@[simp] theorem State.modEngine_get_stream (n : Nat) (f : Engine → Engine) (k : Nat) : (s.modEngine n f).stream k = s.stream k := rfl
@[simp] theorem State.modEngine_get_tenant (n : Nat) (f : Engine → Engine) (k : Nat) : (s.modEngine n f).tenant k = s.tenant k := rfl
@[simp] theorem State.modEngine_get_port (n : Nat) (f : Engine → Engine) (k : Nat) : (s.modEngine n f).port k = s.port k := rfl
@[simp] theorem State.modEngine_get_sensor (n : Nat) (f : Engine → Engine) (k : Nat) : (s.modEngine n f).sensor k = s.sensor k := rfl
@[simp] theorem State.modEngine_get_chan (n : Nat) (f : Engine → Engine) (k : Nat) : (s.modEngine n f).chan k = s.chan k := rfl
@[simp] theorem State.modEngine_get_pmc (n : Nat) (f : Engine → Engine) (k : Nat) : (s.modEngine n f).pmc k = s.pmc k := rfl

/-! ## modPmc -/

@[simp] theorem State.modPmc_pmc (n : Nat) (f : Pmc → Pmc) : (s.modPmc n f).pmc n = f (s.pmc n) := Tab.getD_upd_same ..
theorem State.modPmc_pmc_other {n k : Nat} (h' : k ≠ n) (f : Pmc → Pmc) : (s.modPmc n f).pmc k = s.pmc k :=
  Tab.getD_upd_other _ _ h' _
@[simp] theorem State.modPmc_pending (n : Nat) (f : Pmc → Pmc) : (s.modPmc n f).pending = s.pending := rfl
@[simp] theorem State.modPmc_tick (n : Nat) (f : Pmc → Pmc) : (s.modPmc n f).tick = s.tick := rfl
@[simp] theorem State.modPmc_clk (n : Nat) (f : Pmc → Pmc) : (s.modPmc n f).clk = s.clk := rfl
@[simp] theorem State.modPmc_time (n : Nat) (f : Pmc → Pmc) : (s.modPmc n f).time = s.time := rfl
@[simp] theorem State.modPmc_pwr (n : Nat) (f : Pmc → Pmc) : (s.modPmc n f).pwr = s.pwr := rfl
@[simp] theorem State.modPmc_hs (n : Nat) (f : Pmc → Pmc) : (s.modPmc n f).hs = s.hs := rfl
@[simp] theorem State.modPmc_sec (n : Nat) (f : Pmc → Pmc) : (s.modPmc n f).sec = s.sec := rfl
@[simp] theorem State.modPmc_acc (n : Nat) (f : Pmc → Pmc) : (s.modPmc n f).acc = s.acc := rfl
@[simp] theorem State.modPmc_mbx (n : Nat) (f : Pmc → Pmc) : (s.modPmc n f).mbx = s.mbx := rfl
@[simp] theorem State.modPmc_mem (n : Nat) (f : Pmc → Pmc) : (s.modPmc n f).mem = s.mem := rfl
@[simp] theorem State.modPmc_arr (n : Nat) (f : Pmc → Pmc) : (s.modPmc n f).arr = s.arr := rfl
@[simp] theorem State.modPmc_kvt (n : Nat) (f : Pmc → Pmc) : (s.modPmc n f).kvt = s.kvt := rfl
@[simp] theorem State.modPmc_ctxs (n : Nat) (f : Pmc → Pmc) : (s.modPmc n f).ctxs = s.ctxs := rfl
@[simp] theorem State.modPmc_sched (n : Nat) (f : Pmc → Pmc) : (s.modPmc n f).sched = s.sched := rfl
@[simp] theorem State.modPmc_srv (n : Nat) (f : Pmc → Pmc) : (s.modPmc n f).srv = s.srv := rfl
@[simp] theorem State.modPmc_health (n : Nat) (f : Pmc → Pmc) : (s.modPmc n f).health = s.health := rfl
@[simp] theorem State.modPmc_rcv (n : Nat) (f : Pmc → Pmc) : (s.modPmc n f).rcv = s.rcv := rfl
@[simp] theorem State.modPmc_twin (n : Nat) (f : Pmc → Pmc) : (s.modPmc n f).twin = s.twin := rfl
@[simp] theorem State.modPmc_ports (n : Nat) (f : Pmc → Pmc) : (s.modPmc n f).ports = s.ports := rfl
@[simp] theorem State.modPmc_thm (n : Nat) (f : Pmc → Pmc) : (s.modPmc n f).thm = s.thm := rfl
@[simp] theorem State.modPmc_mon (n : Nat) (f : Pmc → Pmc) : (s.modPmc n f).mon = s.mon := rfl
@[simp] theorem State.modPmc_agg (n : Nat) (f : Pmc → Pmc) : (s.modPmc n f).agg = s.agg := rfl
@[simp] theorem State.modPmc_out (n : Nat) (f : Pmc → Pmc) : (s.modPmc n f).out = s.out := rfl
@[simp] theorem State.modPmc_get_heddle (n : Nat) (f : Pmc → Pmc) (k : Nat) : (s.modPmc n f).heddle k = s.heddle k := rfl
@[simp] theorem State.modPmc_get_harness (n : Nat) (f : Pmc → Pmc) (k : Nat) : (s.modPmc n f).harness k = s.harness k := rfl
@[simp] theorem State.modPmc_get_loom (n : Nat) (f : Pmc → Pmc) (k : Nat) : (s.modPmc n f).loom k = s.loom k := rfl
@[simp] theorem State.modPmc_get_shuttle (n : Nat) (f : Pmc → Pmc) (k : Nat) : (s.modPmc n f).shuttle k = s.shuttle k := rfl
@[simp] theorem State.modPmc_get_arena (n : Nat) (f : Pmc → Pmc) (k : Nat) : (s.modPmc n f).arena k = s.arena k := rfl
@[simp] theorem State.modPmc_get_ctx (n : Nat) (f : Pmc → Pmc) (k : Nat) : (s.modPmc n f).ctx k = s.ctx k := rfl
@[simp] theorem State.modPmc_get_mailbox (n : Nat) (f : Pmc → Pmc) (k : Nat) : (s.modPmc n f).mailbox k = s.mailbox k := rfl
@[simp] theorem State.modPmc_get_slot (n : Nat) (f : Pmc → Pmc) (k : Nat) : (s.modPmc n f).slot k = s.slot k := rfl
@[simp] theorem State.modPmc_get_sel (n : Nat) (f : Pmc → Pmc) (k : Nat) : (s.modPmc n f).sel k = s.sel k := rfl
@[simp] theorem State.modPmc_get_latch (n : Nat) (f : Pmc → Pmc) (k : Nat) : (s.modPmc n f).latch k = s.latch k := rfl
@[simp] theorem State.modPmc_get_ring (n : Nat) (f : Pmc → Pmc) (k : Nat) : (s.modPmc n f).ring k = s.ring k := rfl
@[simp] theorem State.modPmc_get_stream (n : Nat) (f : Pmc → Pmc) (k : Nat) : (s.modPmc n f).stream k = s.stream k := rfl
@[simp] theorem State.modPmc_get_tenant (n : Nat) (f : Pmc → Pmc) (k : Nat) : (s.modPmc n f).tenant k = s.tenant k := rfl
@[simp] theorem State.modPmc_get_port (n : Nat) (f : Pmc → Pmc) (k : Nat) : (s.modPmc n f).port k = s.port k := rfl
@[simp] theorem State.modPmc_get_sensor (n : Nat) (f : Pmc → Pmc) (k : Nat) : (s.modPmc n f).sensor k = s.sensor k := rfl
@[simp] theorem State.modPmc_get_chan (n : Nat) (f : Pmc → Pmc) (k : Nat) : (s.modPmc n f).chan k = s.chan k := rfl
@[simp] theorem State.modPmc_get_engine (n : Nat) (f : Pmc → Pmc) (k : Nat) : (s.modPmc n f).engine k = s.engine k := rfl

/-! ## emit -/

@[simp] theorem State.emit_pending (o : Output) : (s.emit o).pending = s.pending := rfl
@[simp] theorem State.emit_tick (o : Output) : (s.emit o).tick = s.tick := rfl
@[simp] theorem State.emit_clk (o : Output) : (s.emit o).clk = s.clk := rfl
@[simp] theorem State.emit_time (o : Output) : (s.emit o).time = s.time := rfl
@[simp] theorem State.emit_pwr (o : Output) : (s.emit o).pwr = s.pwr := rfl
@[simp] theorem State.emit_hs (o : Output) : (s.emit o).hs = s.hs := rfl
@[simp] theorem State.emit_sec (o : Output) : (s.emit o).sec = s.sec := rfl
@[simp] theorem State.emit_acc (o : Output) : (s.emit o).acc = s.acc := rfl
@[simp] theorem State.emit_mbx (o : Output) : (s.emit o).mbx = s.mbx := rfl
@[simp] theorem State.emit_mem (o : Output) : (s.emit o).mem = s.mem := rfl
@[simp] theorem State.emit_arr (o : Output) : (s.emit o).arr = s.arr := rfl
@[simp] theorem State.emit_kvt (o : Output) : (s.emit o).kvt = s.kvt := rfl
@[simp] theorem State.emit_ctxs (o : Output) : (s.emit o).ctxs = s.ctxs := rfl
@[simp] theorem State.emit_sched (o : Output) : (s.emit o).sched = s.sched := rfl
@[simp] theorem State.emit_srv (o : Output) : (s.emit o).srv = s.srv := rfl
@[simp] theorem State.emit_health (o : Output) : (s.emit o).health = s.health := rfl
@[simp] theorem State.emit_rcv (o : Output) : (s.emit o).rcv = s.rcv := rfl
@[simp] theorem State.emit_twin (o : Output) : (s.emit o).twin = s.twin := rfl
@[simp] theorem State.emit_ports (o : Output) : (s.emit o).ports = s.ports := rfl
@[simp] theorem State.emit_thm (o : Output) : (s.emit o).thm = s.thm := rfl
@[simp] theorem State.emit_mon (o : Output) : (s.emit o).mon = s.mon := rfl
@[simp] theorem State.emit_obs (o : Output) : (s.emit o).obs = s.obs := rfl
@[simp] theorem State.emit_agg (o : Output) : (s.emit o).agg = s.agg := rfl
@[simp] theorem State.emit_get_heddle (o : Output) (k : Nat) : (s.emit o).heddle k = s.heddle k := rfl
@[simp] theorem State.emit_get_harness (o : Output) (k : Nat) : (s.emit o).harness k = s.harness k := rfl
@[simp] theorem State.emit_get_loom (o : Output) (k : Nat) : (s.emit o).loom k = s.loom k := rfl
@[simp] theorem State.emit_get_shuttle (o : Output) (k : Nat) : (s.emit o).shuttle k = s.shuttle k := rfl
@[simp] theorem State.emit_get_arena (o : Output) (k : Nat) : (s.emit o).arena k = s.arena k := rfl
@[simp] theorem State.emit_get_ctx (o : Output) (k : Nat) : (s.emit o).ctx k = s.ctx k := rfl
@[simp] theorem State.emit_get_mailbox (o : Output) (k : Nat) : (s.emit o).mailbox k = s.mailbox k := rfl
@[simp] theorem State.emit_get_slot (o : Output) (k : Nat) : (s.emit o).slot k = s.slot k := rfl
@[simp] theorem State.emit_get_sel (o : Output) (k : Nat) : (s.emit o).sel k = s.sel k := rfl
@[simp] theorem State.emit_get_latch (o : Output) (k : Nat) : (s.emit o).latch k = s.latch k := rfl
@[simp] theorem State.emit_get_ring (o : Output) (k : Nat) : (s.emit o).ring k = s.ring k := rfl
@[simp] theorem State.emit_get_stream (o : Output) (k : Nat) : (s.emit o).stream k = s.stream k := rfl
@[simp] theorem State.emit_get_tenant (o : Output) (k : Nat) : (s.emit o).tenant k = s.tenant k := rfl
@[simp] theorem State.emit_get_port (o : Output) (k : Nat) : (s.emit o).port k = s.port k := rfl
@[simp] theorem State.emit_get_sensor (o : Output) (k : Nat) : (s.emit o).sensor k = s.sensor k := rfl
@[simp] theorem State.emit_get_chan (o : Output) (k : Nat) : (s.emit o).chan k = s.chan k := rfl
@[simp] theorem State.emit_get_engine (o : Output) (k : Nat) : (s.emit o).engine k = s.engine k := rfl
@[simp] theorem State.emit_get_pmc (o : Output) (k : Nat) : (s.emit o).pmc k = s.pmc k := rfl

/-! ## report -/

@[simp] theorem State.report_pending (r : Report) : (s.report r).pending = s.pending := rfl
@[simp] theorem State.report_tick (r : Report) : (s.report r).tick = s.tick := rfl
@[simp] theorem State.report_clk (r : Report) : (s.report r).clk = s.clk := rfl
@[simp] theorem State.report_time (r : Report) : (s.report r).time = s.time := rfl
@[simp] theorem State.report_pwr (r : Report) : (s.report r).pwr = s.pwr := rfl
@[simp] theorem State.report_hs (r : Report) : (s.report r).hs = s.hs := rfl
@[simp] theorem State.report_sec (r : Report) : (s.report r).sec = s.sec := rfl
@[simp] theorem State.report_acc (r : Report) : (s.report r).acc = s.acc := rfl
@[simp] theorem State.report_mbx (r : Report) : (s.report r).mbx = s.mbx := rfl
@[simp] theorem State.report_mem (r : Report) : (s.report r).mem = s.mem := rfl
@[simp] theorem State.report_arr (r : Report) : (s.report r).arr = s.arr := rfl
@[simp] theorem State.report_kvt (r : Report) : (s.report r).kvt = s.kvt := rfl
@[simp] theorem State.report_ctxs (r : Report) : (s.report r).ctxs = s.ctxs := rfl
@[simp] theorem State.report_sched (r : Report) : (s.report r).sched = s.sched := rfl
@[simp] theorem State.report_srv (r : Report) : (s.report r).srv = s.srv := rfl
@[simp] theorem State.report_health (r : Report) : (s.report r).health = s.health := rfl
@[simp] theorem State.report_rcv (r : Report) : (s.report r).rcv = s.rcv := rfl
@[simp] theorem State.report_twin (r : Report) : (s.report r).twin = s.twin := rfl
@[simp] theorem State.report_ports (r : Report) : (s.report r).ports = s.ports := rfl
@[simp] theorem State.report_thm (r : Report) : (s.report r).thm = s.thm := rfl
@[simp] theorem State.report_mon (r : Report) : (s.report r).mon = s.mon := rfl
@[simp] theorem State.report_obs (r : Report) : (s.report r).obs = s.obs := rfl
@[simp] theorem State.report_out (r : Report) : (s.report r).out = s.out := rfl
@[simp] theorem State.report_get_heddle (r : Report) (k : Nat) : (s.report r).heddle k = s.heddle k := rfl
@[simp] theorem State.report_get_harness (r : Report) (k : Nat) : (s.report r).harness k = s.harness k := rfl
@[simp] theorem State.report_get_loom (r : Report) (k : Nat) : (s.report r).loom k = s.loom k := rfl
@[simp] theorem State.report_get_shuttle (r : Report) (k : Nat) : (s.report r).shuttle k = s.shuttle k := rfl
@[simp] theorem State.report_get_arena (r : Report) (k : Nat) : (s.report r).arena k = s.arena k := rfl
@[simp] theorem State.report_get_ctx (r : Report) (k : Nat) : (s.report r).ctx k = s.ctx k := rfl
@[simp] theorem State.report_get_mailbox (r : Report) (k : Nat) : (s.report r).mailbox k = s.mailbox k := rfl
@[simp] theorem State.report_get_slot (r : Report) (k : Nat) : (s.report r).slot k = s.slot k := rfl
@[simp] theorem State.report_get_sel (r : Report) (k : Nat) : (s.report r).sel k = s.sel k := rfl
@[simp] theorem State.report_get_latch (r : Report) (k : Nat) : (s.report r).latch k = s.latch k := rfl
@[simp] theorem State.report_get_ring (r : Report) (k : Nat) : (s.report r).ring k = s.ring k := rfl
@[simp] theorem State.report_get_stream (r : Report) (k : Nat) : (s.report r).stream k = s.stream k := rfl
@[simp] theorem State.report_get_tenant (r : Report) (k : Nat) : (s.report r).tenant k = s.tenant k := rfl
@[simp] theorem State.report_get_port (r : Report) (k : Nat) : (s.report r).port k = s.port k := rfl
@[simp] theorem State.report_get_sensor (r : Report) (k : Nat) : (s.report r).sensor k = s.sensor k := rfl
@[simp] theorem State.report_get_chan (r : Report) (k : Nat) : (s.report r).chan k = s.chan k := rfl
@[simp] theorem State.report_get_engine (r : Report) (k : Nat) : (s.report r).engine k = s.engine k := rfl
@[simp] theorem State.report_get_pmc (r : Report) (k : Nat) : (s.report r).pmc k = s.pmc k := rfl

/-! ## setMem -/

@[simp] theorem State.setMem_pending (m : Memory) : (s.setMem m).pending = s.pending := rfl
@[simp] theorem State.setMem_tick (m : Memory) : (s.setMem m).tick = s.tick := rfl
@[simp] theorem State.setMem_clk (m : Memory) : (s.setMem m).clk = s.clk := rfl
@[simp] theorem State.setMem_time (m : Memory) : (s.setMem m).time = s.time := rfl
@[simp] theorem State.setMem_pwr (m : Memory) : (s.setMem m).pwr = s.pwr := rfl
@[simp] theorem State.setMem_hs (m : Memory) : (s.setMem m).hs = s.hs := rfl
@[simp] theorem State.setMem_sec (m : Memory) : (s.setMem m).sec = s.sec := rfl
@[simp] theorem State.setMem_acc (m : Memory) : (s.setMem m).acc = s.acc := rfl
@[simp] theorem State.setMem_mbx (m : Memory) : (s.setMem m).mbx = s.mbx := rfl
@[simp] theorem State.setMem_arr (m : Memory) : (s.setMem m).arr = s.arr := rfl
@[simp] theorem State.setMem_kvt (m : Memory) : (s.setMem m).kvt = s.kvt := rfl
@[simp] theorem State.setMem_ctxs (m : Memory) : (s.setMem m).ctxs = s.ctxs := rfl
@[simp] theorem State.setMem_sched (m : Memory) : (s.setMem m).sched = s.sched := rfl
@[simp] theorem State.setMem_srv (m : Memory) : (s.setMem m).srv = s.srv := rfl
@[simp] theorem State.setMem_health (m : Memory) : (s.setMem m).health = s.health := rfl
@[simp] theorem State.setMem_rcv (m : Memory) : (s.setMem m).rcv = s.rcv := rfl
@[simp] theorem State.setMem_twin (m : Memory) : (s.setMem m).twin = s.twin := rfl
@[simp] theorem State.setMem_ports (m : Memory) : (s.setMem m).ports = s.ports := rfl
@[simp] theorem State.setMem_thm (m : Memory) : (s.setMem m).thm = s.thm := rfl
@[simp] theorem State.setMem_mon (m : Memory) : (s.setMem m).mon = s.mon := rfl
@[simp] theorem State.setMem_obs (m : Memory) : (s.setMem m).obs = s.obs := rfl
@[simp] theorem State.setMem_agg (m : Memory) : (s.setMem m).agg = s.agg := rfl
@[simp] theorem State.setMem_out (m : Memory) : (s.setMem m).out = s.out := rfl
@[simp] theorem State.setMem_get_heddle (m : Memory) (k : Nat) : (s.setMem m).heddle k = s.heddle k := rfl
@[simp] theorem State.setMem_get_harness (m : Memory) (k : Nat) : (s.setMem m).harness k = s.harness k := rfl
@[simp] theorem State.setMem_get_loom (m : Memory) (k : Nat) : (s.setMem m).loom k = s.loom k := rfl
@[simp] theorem State.setMem_get_shuttle (m : Memory) (k : Nat) : (s.setMem m).shuttle k = s.shuttle k := rfl
@[simp] theorem State.setMem_get_arena (m : Memory) (k : Nat) : (s.setMem m).arena k = s.arena k := rfl
@[simp] theorem State.setMem_get_ctx (m : Memory) (k : Nat) : (s.setMem m).ctx k = s.ctx k := rfl
@[simp] theorem State.setMem_get_mailbox (m : Memory) (k : Nat) : (s.setMem m).mailbox k = s.mailbox k := rfl
@[simp] theorem State.setMem_get_slot (m : Memory) (k : Nat) : (s.setMem m).slot k = s.slot k := rfl
@[simp] theorem State.setMem_get_sel (m : Memory) (k : Nat) : (s.setMem m).sel k = s.sel k := rfl
@[simp] theorem State.setMem_get_latch (m : Memory) (k : Nat) : (s.setMem m).latch k = s.latch k := rfl
@[simp] theorem State.setMem_get_ring (m : Memory) (k : Nat) : (s.setMem m).ring k = s.ring k := rfl
@[simp] theorem State.setMem_get_stream (m : Memory) (k : Nat) : (s.setMem m).stream k = s.stream k := rfl
@[simp] theorem State.setMem_get_tenant (m : Memory) (k : Nat) : (s.setMem m).tenant k = s.tenant k := rfl
@[simp] theorem State.setMem_get_port (m : Memory) (k : Nat) : (s.setMem m).port k = s.port k := rfl
@[simp] theorem State.setMem_get_sensor (m : Memory) (k : Nat) : (s.setMem m).sensor k = s.sensor k := rfl
@[simp] theorem State.setMem_get_chan (m : Memory) (k : Nat) : (s.setMem m).chan k = s.chan k := rfl
@[simp] theorem State.setMem_get_engine (m : Memory) (k : Nat) : (s.setMem m).engine k = s.engine k := rfl
@[simp] theorem State.setMem_get_pmc (m : Memory) (k : Nat) : (s.setMem m).pmc k = s.pmc k := rfl

/-! ## fresh -/

@[simp] theorem State.fresh_pending : (s.fresh).pending = s.pending := rfl
@[simp] theorem State.fresh_clk : (s.fresh).clk = s.clk := rfl
@[simp] theorem State.fresh_time : (s.fresh).time = s.time := rfl
@[simp] theorem State.fresh_pwr : (s.fresh).pwr = s.pwr := rfl
@[simp] theorem State.fresh_hs : (s.fresh).hs = s.hs := rfl
@[simp] theorem State.fresh_sec : (s.fresh).sec = s.sec := rfl
@[simp] theorem State.fresh_acc : (s.fresh).acc = s.acc := rfl
@[simp] theorem State.fresh_mbx : (s.fresh).mbx = s.mbx := rfl
@[simp] theorem State.fresh_mem : (s.fresh).mem = s.mem := rfl
@[simp] theorem State.fresh_arr : (s.fresh).arr = s.arr := rfl
@[simp] theorem State.fresh_kvt : (s.fresh).kvt = s.kvt := rfl
@[simp] theorem State.fresh_ctxs : (s.fresh).ctxs = s.ctxs := rfl
@[simp] theorem State.fresh_sched : (s.fresh).sched = s.sched := rfl
@[simp] theorem State.fresh_srv : (s.fresh).srv = s.srv := rfl
@[simp] theorem State.fresh_health : (s.fresh).health = s.health := rfl
@[simp] theorem State.fresh_rcv : (s.fresh).rcv = s.rcv := rfl
@[simp] theorem State.fresh_twin : (s.fresh).twin = s.twin := rfl
@[simp] theorem State.fresh_ports : (s.fresh).ports = s.ports := rfl
@[simp] theorem State.fresh_thm : (s.fresh).thm = s.thm := rfl
@[simp] theorem State.fresh_mon : (s.fresh).mon = s.mon := rfl
@[simp] theorem State.fresh_obs : (s.fresh).obs = s.obs := rfl
@[simp] theorem State.fresh_agg : (s.fresh).agg = s.agg := rfl
@[simp] theorem State.fresh_out : (s.fresh).out = s.out := rfl
@[simp] theorem State.fresh_get_heddle  (k : Nat) : (s.fresh).heddle k = s.heddle k := rfl
@[simp] theorem State.fresh_get_harness  (k : Nat) : (s.fresh).harness k = s.harness k := rfl
@[simp] theorem State.fresh_get_loom  (k : Nat) : (s.fresh).loom k = s.loom k := rfl
@[simp] theorem State.fresh_get_shuttle  (k : Nat) : (s.fresh).shuttle k = s.shuttle k := rfl
@[simp] theorem State.fresh_get_arena  (k : Nat) : (s.fresh).arena k = s.arena k := rfl
@[simp] theorem State.fresh_get_ctx  (k : Nat) : (s.fresh).ctx k = s.ctx k := rfl
@[simp] theorem State.fresh_get_mailbox  (k : Nat) : (s.fresh).mailbox k = s.mailbox k := rfl
@[simp] theorem State.fresh_get_slot  (k : Nat) : (s.fresh).slot k = s.slot k := rfl
@[simp] theorem State.fresh_get_sel  (k : Nat) : (s.fresh).sel k = s.sel k := rfl
@[simp] theorem State.fresh_get_latch  (k : Nat) : (s.fresh).latch k = s.latch k := rfl
@[simp] theorem State.fresh_get_ring  (k : Nat) : (s.fresh).ring k = s.ring k := rfl
@[simp] theorem State.fresh_get_stream  (k : Nat) : (s.fresh).stream k = s.stream k := rfl
@[simp] theorem State.fresh_get_tenant  (k : Nat) : (s.fresh).tenant k = s.tenant k := rfl
@[simp] theorem State.fresh_get_port  (k : Nat) : (s.fresh).port k = s.port k := rfl
@[simp] theorem State.fresh_get_sensor  (k : Nat) : (s.fresh).sensor k = s.sensor k := rfl
@[simp] theorem State.fresh_get_chan  (k : Nat) : (s.fresh).chan k = s.chan k := rfl
@[simp] theorem State.fresh_get_engine  (k : Nat) : (s.fresh).engine k = s.engine k := rfl
@[simp] theorem State.fresh_get_pmc  (k : Nat) : (s.fresh).pmc k = s.pmc k := rfl

/-! ## Parts of a context, reset domains -/

@[simp] theorem State.modCtl_ctl (c : Nat) (f : CtxCtl → CtxCtl) : ((s.modCtl c f).ctx c).ctl = f (s.ctx c).ctl := by
  simp [State.modCtl]
@[simp] theorem State.modRecs_recs (c : Nat) (f : CtxRecords → CtxRecords) :
    ((s.modRecs c f).ctx c).recs = f (s.ctx c).recs := by
  simp [State.modRecs]
theorem State.modCtl_other {c k : Nat} (h : k ≠ c) (f : CtxCtl → CtxCtl) : (s.modCtl c f).ctx k = s.ctx k :=
  s.modCtx_ctx_other h _
theorem State.modRecs_other {c k : Nat} (h : k ≠ c) (f : CtxRecords → CtxRecords) : (s.modRecs c f).ctx k = s.ctx k :=
  s.modCtx_ctx_other h _
@[simp] theorem State.modBatch_batch (c k : Nat) (f : BatchSlot → BatchSlot) :
    (s.modBatch c k f).batch c k = f (s.batch c k) := by
  simp [State.modBatch, State.batch]
theorem State.modBatch_other {c k j : Nat} (h : j ≠ k) (f : BatchSlot → BatchSlot) :
    (s.modBatch c k f).batch c j = s.batch c j := by
  simp [State.modBatch, State.batch, Tab.getD_upd_other _ _ h]
theorem State.modBatch_ctx_other {c k x : Nat} (h : x ≠ c) (f : BatchSlot → BatchSlot) :
    (s.modBatch c k f).ctx x = s.ctx x :=
  s.modCtx_ctx_other h _
@[simp] theorem State.modDomain_domain (kind idx : Nat) (f : Domain → Domain) :
    (s.modDomain kind idx f).domain kind idx = f (s.domain kind idx) :=
  Tab.getD_upd_same ..
theorem State.modDomain_other {kind idx k i : Nat} (h : domKey k i ≠ domKey kind idx) (f : Domain → Domain) :
    (s.modDomain kind idx f).domain k i = s.domain k i :=
  Tab.getD_upd_other _ _ h _
/-- The keys of two domains differ when their kinds or their indices do. -/
theorem domKey_inj {k i k' i' : Nat} (hi : i < 65536) (hi' : i' < 65536) (h : domKey k i = domKey k' i') :
    k = k' ∧ i = i' := by
  unfold domKey at h; omega

/-! ## Memory -/

theorem Memory.byte_setByte_same (m : Memory) (a : Nat) (b : Byte) : (m.setByte a b).byte a = b := Tab.getD_put_same ..
theorem Memory.byte_setByte_other (m : Memory) {a x : Nat} (h : x ≠ a) (b : Byte) : (m.setByte a b).byte x = m.byte x :=
  Tab.getD_put_other _ _ h _
/-- Bytes outside a write read as before. -/
theorem Memory.byte_writeBytes_other (m : Memory) (a : Nat) (bs : Bytes) {x : Nat} (h : x < a ∨ a + bs.length ≤ x) :
    (m.writeBytes a bs).byte x = m.byte x := by
  induction bs generalizing m a with
  | nil => rfl
  | cons b bs ih =>
    simp only [List.length_cons] at h
    rw [Memory.writeBytes, ih _ _ (by omega), Memory.byte_setByte_other _ (by omega)]
/-- A byte of a write reads as written. -/
theorem Memory.byte_writeBytes_same (m : Memory) (a : Nat) (bs : Bytes) {i : Nat} (h : i < bs.length) :
    (m.writeBytes a bs).byte (a + i) = bs[i] := by
  induction bs generalizing m a i with
  | nil => exact absurd h (Nat.not_lt_zero _)
  | cons b bs ih =>
    cases i with
    | zero => rw [Memory.writeBytes, Memory.byte_writeBytes_other _ _ _ (by omega)]; exact Memory.byte_setByte_same ..
    | succ i =>
      have := ih (m.setByte a b) (a + 1) (i := i) (by simpa using h)
      simpa [Memory.writeBytes, Nat.add_assoc, Nat.add_comm 1 i] using this
theorem Memory.readBytes_eq (m : Memory) (a n : Nat) : m.readBytes a n = (List.range n).map fun i => m.byte (a + i) := by
  induction n generalizing a with
  | zero => rfl
  | succ n ih =>
    rw [Memory.readBytes, ih, List.range_succ_eq_map]
    simp [Nat.add_assoc, Nat.add_comm 1]
@[simp] theorem State.write_byte_other (a : Nat) (bs : Bytes) {x : Nat} (h : x < a ∨ a + bs.length ≤ x) :
    (s.write a bs).byte x = s.byte x :=
  Memory.byte_writeBytes_other _ _ _ h
/-- Reading back what was written. -/
theorem State.read_write (a : Nat) (bs : Bytes) : (s.write a bs).read a bs.length = bs := by
  show (s.mem.writeBytes a bs).readBytes a bs.length = bs
  rw [Memory.readBytes_eq]
  apply List.ext_getElem <;> simp
  intro i h
  exact Memory.byte_writeBytes_same _ _ _ h

end Sys2Proof.Machine
end

