-- ==== Sys2Proof/Laws/Ops.lean ====
section
/-! SUPPORT. What shared operations do, said once: a requester's access, a mailbox's command and its completion, a fault's
log entry and its fence. Later proofs cite these and unfold none of them. -/

namespace Sys2Proof.Machine

variable {s t u : State} {who : Who} {j m op : Nat}

theorem yields_of {i : Instr} {P : State → Prop} (h : exec i s = .next t) (p : P t) : yields i s P := ⟨t, h, p⟩

/-! ## Requesters -/

/-- A write of a PRV field by a privileged requester is done. -/
theorem State.prvWrite_done (h : s.actsPrv who j) (f : Nat → State → State) : s.prvWrite who f = f j s := by
  simp [State.prvWrite, State.anyWrite, h.1.1, h.1.2, h.2]
/-- By any other requester it is counted, and nothing else happens. -/
theorem State.prvWrite_denied (h : s.actsAs who j) (hp : s.priv j = false) (f : Nat → State → State) :
    s.prvWrite who f = s.report (.prvDenied j) := by
  simp [State.prvWrite, State.anyWrite, h.1, h.2, hp]
theorem State.anyWrite_done (h : s.actsAs who j) (f : Nat → State → State) : s.anyWrite who f = f j s := by
  simp [State.anyWrite, h.1, h.2]
theorem State.readAs_done (h : s.actsAs who j) (f : Nat → State → Word × State) :
    s.readAs who f = (f j s).2.emit (.readData j (f j s).1) := by
  simp [State.readAs, h.1, h.2]
theorem State.onHarness_done (h : s.actsPrv who j) (f : Nat → State → State) :
    s.onHarness who f = f (s.sel j).harn s := State.prvWrite_done h _
theorem State.onCtx_done (h : s.actsPrv who j) (f : Nat → State → State) : s.onCtx who f = f (s.sel j).ctx s :=
  State.prvWrite_done h _
theorem State.onChan_done (h : s.actsPrv who j) (f : Nat → State → State) : s.onChan who f = f (s.sel j).mon s :=
  State.prvWrite_done h _

/-! ## Mailbox commands -/

/-- A command that waits in its mailbox, barred by nothing, is performed. -/
theorem State.command_done (h : s.awaits m op) (f : Mailbox → State → State) :
    s.command m op f = f (s.mailbox m) s := by
  obtain ⟨a, b, c, d⟩ := h
  simp [State.command, a, b, c, d]
theorem State.command_absent (h : s.serves = false ∨ (s.mailbox m).busy = false ∨ (s.mailbox m).opcode ≠ op)
    (f : Mailbox → State → State) : s.command m op f = s := by
  rcases h with h | h | h <;> simp [State.command, h]
theorem State.command_barred (a : s.serves = true) (b : (s.mailbox m).busy = true) (c : (s.mailbox m).opcode = op)
    (d : s.cmdBarred m (s.mailbox m) = true) (f : Mailbox → State → State) : s.command m op f = s.complete m 0x11 [] := by
  simp [State.command, a, b, c, d]
/-- Completing a mailbox: its registers, and nothing but them and the interrupt. -/
theorem State.complete_completes (s : State) (m st : Nat) (r : List Nat) : s.completes (s.complete m st r) m st r := by
  refine ⟨?_, fun k hk => ?_, rfl⟩
  · simp [State.complete]
  · simp [State.complete, State.modMailbox_mailbox_other _ hk]
theorem State.complete_eq (s : State) (m st : Nat) (r : List Nat) :
    s.complete m st r = { s with mbx := (s.complete m st r).mbx, out := .msix (1 + m) :: s.out } := rfl
/-- Completing after an effect that leaves the mailboxes alone. -/
theorem State.completes_after (h : u.mbx = s.mbx) (hc : u.clk = s.clk) (m st : Nat) (r : List Nat) :
    s.completes (u.complete m st r) m st r := by
  have e (k : Nat) : u.mailbox k = s.mailbox k := by simp [State.mailbox, h]
  obtain ⟨a, b, c⟩ := u.complete_completes m st r
  exact ⟨by rw [a, e, hc], fun k hk => by rw [b k hk, e], c⟩

/-! ## Faults -/

theorem markLog_mem {root : Option LogEntry} {w : List Nat} {l : List LogEntry} {e : LogEntry} (h : e ∈ l) :
    ∃ e' ∈ markLog root w l, e'.seq = e.seq ∧ e'.kind = e.kind ∧ e'.index = e.index ∧ e'.detector = e.detector ∧
      e'.originPick = e.originPick ∧ e'.isLocal = e.isLocal := by
  refine ⟨_, List.mem_map_of_mem h, ?_⟩
  split <;> simp
theorem Keeps.log_eq {B : List Block} (h : Keeps B s t) (hb : Block.log ∉ B) :
    t.rcv.log = s.rcv.log ∧ t.rcv.logSeq = s.rcv.logSeq := by
  have := h.same .log hb
  simpa only [Block.same, Prod.mk.injEq] using this
theorem State.logged_of_eq {k i d : Nat} (h : s.logged t k i d) (e : u.rcv.log = t.rcv.log) : s.logged u k i d := by
  unfold State.logged; rw [e]; exact h
theorem State.alertStorm_log (s : State) : s.alertStorm.rcv.log = s.rcv.log := by
  unfold State.alertStorm; split <;> rfl
theorem State.pushLog_mem (s : State) (e : LogEntry) : e ∈ (s.pushLog e).rcv.log := by simp [State.pushLog, logCap]
theorem State.notify_logged {k i d : Nat} (h : s.logged u k i d) (e : LogEntry) : s.logged (u.notify e) k i d :=
  State.logged_of_eq h (Keeps.log_eq (B := [.relayed, .ports, .out]) (State.notify_keeps (.refl _) (by decide) _)
    (by decide)).1
/-- Declaring a fault logs it (R312). -/
theorem State.declare_logged (s : State) (k i d : Nat) : s.logged (s.declare k i d) k i d := by
  refine State.notify_logged ?_ _
  unfold State.logged State.storm
  dsimp only
  split
  · exact markLog_mem (s.pushLog_mem _)
  · rw [State.alertStorm_log]
    exact markLog_mem (s.pushLog_mem _)
/-- So does an echo (R291). -/
theorem State.declareEcho_logged (s : State) (k i d : Nat) : s.logged (s.declareEcho k i d) k i d := by
  refine State.notify_logged (State.logged_of_eq (t := s.pushLog (s.entry k i d true))
    (u := (s.pushLog (s.entry k i d true)).countEcho) ?_ rfl) _
  exact ⟨_, s.pushLog_mem _, rfl, rfl, rfl, rfl, rfl, rfl⟩
/-- A module reset logs the fault of the module with its detector. -/
theorem State.moduleReset_logged (s : State) (d : Nat) : s.logged (s.moduleReset d) 0xB 0 d := by
  unfold State.moduleReset
  dsimp only
  split
  · exact s.declareEcho_logged ..
  · generalize hx : (if s.twin.state = 1 then _ else s : State) = u
    generalize hy : (if u.twin.state = 0 then u else _ : State) = v
    have kv : Keeps [.twin, .kvt, .mem, .ports, .out] s v := by
      subst hy hx
      have ku : Keeps [.twin, .kvt, .mem, .ports, .out] s
          (if s.twin.state = 1 then s.sendTwin 17 s.clk.pick 0 else s) :=
        Keeps.ite (State.sendTwin_keeps (.refl _) (by decide) ..) (.refl _)
      exact Keeps.ite ku (State.unpair_keeps ku (by decide) ..)
    have h : s.logged (v.declare 0xB 0 d) 0xB 0 d := by
      have h := v.declare_logged 0xB 0 d
      have hc : v.clk = s.clk := kv.same .clk (by decide)
      unfold State.logged at *
      rw [(kv.log_eq (by decide)).2, hc] at h
      exact h
    refine State.logged_of_eq h (Keeps.log_eq (B := [.mbx, .mem, .heddles, .harnesses, .kvt, .ctxs, .sched, .rings, .streams,
      .reqs, .engine, .domains, .modResets, .cuts, .relayed, .alerts, .ports, .obs, .out]) ?_ (by decide)).1
    refine State.modDomain_keeps (State.fence_keeps ?_ (by decide) ..) (by decide) ..
    exact State.each_keeps (State.countModule_keeps (.refl _) (by decide)) fun t a ht => State.gstop_keeps ht (by decide) ..
/-- A fault logs its entry (R312). -/
theorem State.fault_logged (s : State) (k i d : Nat) (hk : k ≠ 0xB ∨ i = 0) : s.logged (s.fault k i d) k i d := by
  unfold State.fault
  split
  · rename_i h
    obtain rfl : i = 0 := hk.resolve_left (· h)
    subst h; exact s.moduleReset_logged d
  · dsimp only
    have h := s.declare_logged k i d
    split
    · exact s.declareEcho_logged ..
    · refine State.logged_of_eq h (Keeps.log_eq (B := [.mbx, .mem, .heddles, .harnesses, .kvt, .ctxs, .sched, .rings,
        .streams, .reqs, .engine, .domains, .cuts, .relayed, .ports, .obs, .out]) ?_ (by decide)).1
      exact State.fence_keeps (.refl _) (by decide) ..

/-- F1 of a domain (R293): its phase, the fault that began it, when and with which entry. -/
theorem State.fence_domain (s : State) (k i d o q : Nat) :
    ((s.fence k i d o q).domain k i).phase = 2 ∧ ((s.fence k i d o q).domain k i).detector = d ∧
      ((s.fence k i d o q).domain k i).originPick = o ∧ ((s.fence k i d o q).domain k i).fencePick = s.clk.pick ∧
      ((s.fence k i d o q).domain k i).logSeq = q := by
  unfold State.fence
  dsimp only
  generalize hx : State.modDomain s k i _ = u
  have hu : (u.domain k i).phase = 2 ∧ (u.domain k i).detector = d ∧ (u.domain k i).originPick = o ∧
      (u.domain k i).fencePick = s.clk.pick ∧ (u.domain k i).logSeq = q := by
    subst hx; simp
  have keep {v : State} (h : Keeps [.mbx, .mem, .heddles, .harnesses, .kvt, .ctxs, .sched, .rings, .streams, .reqs, .engine,
      .cuts, .relayed, .ports, .obs, .out] u v) : v.domain k i = u.domain k i := by
    have := h.same .domains (by decide)
    simp only [Block.same] at this
    simp [State.domain, this]
  have hs : Keeps [.mbx, .mem, .heddles, .harnesses, .kvt, .ctxs, .sched, .rings, .streams, .reqs, .engine,
      .cuts, .relayed, .ports, .obs, .out] u u.suppressDue := State.suppressDue_keeps (.refl _) (by decide)
  split
  · rw [keep (State.each_keeps hs fun t a ht => State.gstop_keeps ht (by decide) ..)]; exact hu
  · split
    · rw [keep (State.each_keeps hs fun t a ht => State.gstop_keeps ht (by decide) ..)]; exact hu
    · rw [keep hs]; exact hu
theorem mem_enclosing (k i : Nat) : (k, i) ∈ enclosing k i := by
  unfold enclosing; split <;> simp
/-- After a fault of a domain below the module the domain is being recovered or retired. -/
theorem State.fault_troubled (s : State) (k i d : Nat) (hk : k ≠ 0xB) : (s.fault k i d).troubled k i = true := by
  unfold State.fault
  simp only [hk, if_false]
  split
  · have := Keeps.same (State.declareEcho_keeps (.refl s) (List.Subset.refl _) k i d) .domains (by decide)
    simp only [Block.same] at this
    unfold State.troubled State.domain
    rw [this]
    assumption
  · unfold State.troubled
    rw [List.any_eq_true]
    exact ⟨(k, i), mem_enclosing k i, by simp [(State.fence_domain _ k i d _ _).1]⟩

end Sys2Proof.Machine
end

