-- ==== Sys2Proof/WellFormed.lean ====
section
/-! DEFINITION. Which operands of a command are well formed: the lengths of the byte strings whose size the spec
fixes, and the field widths of a remote operation's header (Table 6.2). Every other operand's type says everything. -/

namespace Sys2Proof

/-- A piece carries 1 to 4,096 payload bytes (R149). -/
def Piece.wf (p : Piece) : Bool := decide (1 ≤ p.data.length ∧ p.data.length ≤ 4096)

/-- The header fields fit their widths (Table 6.2) and the pieces are pieces. -/
def RemoteOp.wf (o : RemoteOp) : Bool :=
  decide (o.opc < 256 ∧ o.status < 256 ∧ o.srcPlace < 65536 ∧ o.dstPlace < 65536 ∧ o.context < 256) &&
  decide (o.dstAddr < 2 ^ 64 ∧ o.srcAddr < 2 ^ 64 ∧ o.length < 2 ^ 32) && o.pieces.all Piece.wf

/-- A chunk of a sealed stream has a 16-byte GCM tag (R228). -/
def Chunk.wf (c : Chunk) : Bool := decide (c.tag.length = 16)

/-- The operands of a command are well formed. -/
def Instr.wf : Instr → Bool
  | .bar4Read _ _ n => decide (1 ≤ n.val)
  | .bar4Write _ _ data => decide (1 ≤ data.length ∧ data.length ≤ 4096)
  | .put op _ => op.wf
  | .get op _ => op.wf
  | .getData op _ => op.wf
  | .add48 op _ => op.wf
  | .knotSet op _ => op.wf
  | .monPeriodEnd raw => decide (raw.length = 32)
  | .generate _ entry _ => decide (entry.length = 64)
  | .prefill _ entry _ => decide (entry.length = 64)
  | .cancel _ entry => decide (entry.length = 64)
  | .wgtKey _ record => decide (record.length = 2048)
  | .wgtLoadSealed _ chunks => chunks.all Chunk.wf
  | .wgtRestore _ chunks _ => chunks.all Chunk.wf
  | .twinPair _ bitmap _ => decide (bitmap.length = 32)
  | .shadowRecord r => decide (r.smapEntry.length = 16) && r.ptEntries.all (fun e => decide (e.2.length = 16))
  | .xeastFlit _ flit => decide (flit.bytes.length = 252)
  | .attest _ nonce bitmap => decide (nonce.length = 32 ∧ bitmap.length = 32)
  | .powerOn .. | .inputPowerLoss | .inputOutOfRange .. | .railFault .. | .referenceOscillatorFail
  | .pickBoundary | .pickLengthChange | .hubPickLoRead .. | .bar0MisalignedAccess .. | .registerWrite ..
  | .unassignedOpcode .. | .mvmStep .. | .mendStep .. | .fullStep .. | .attnStep .. | .putStep .. | .getStep ..
  | .addStep .. | .knotStep .. | .recvStep .. | .calStep .. | .testStep .. | .batchStep .. | .sampleStep ..
  | .emitStep .. | .stepEnd .. | .unfilledSlotKnotSet .. | .ack .. | .nack .. | .contextEnable ..
  | .contextDisable .. | .maskingSet .. | .strictSet .. | .twillSet .. | .checkComplete .. | .armingReady ..
  | .armingHoldTimeout .. | .ready .. | .launch .. | .abort .. | .launchReadyTimeout .. | .armedTimeout ..
  | .launchCalWindow .. | .launchPick .. | .stop .. | .stopIterationEnd .. | .planLoad .. | .planUnload ..
  | .planStatus .. | .planMap .. | .sequencerCalWindow .. | .fullTrim .. | .fullTrimDone ..
  | .harnessReqActive .. | .harnessReqRetention .. | .harnessReqOff .. | .harnessTransitionDone ..
  | .harnessReturnResume .. | .harnessReset .. | .scrubRowCompare .. | .scrubRewrite .. | .scrubPassComplete ..
  | .scrubLate .. | .targetedScrub .. | .thermalUpdate | .throttleGraceEnd | .throttleEval
  | .sensorConversion .. | .tripRestart | .monAccLoRead .. | .monClear .. | .monSourceSet .. | .monCal ..
  | .monPeriodSet .. | .monCalRestore .. | .thmPeakClear .. | .pwrStateSet .. | .powerStateReached
  | .budgetRefill | .sqTailDoorbell .. | .cqHeadDoorbell .. | .hostReadFail .. | .ringSetup ..
  | .ringTeardown .. | .streamOpen .. | .streamClose .. | .streamReset .. | .reqCancel .. | .roleSet ..
  | .kvMap .. | .kvUnmap .. | .ctxOpen .. | .ctxClose .. | .wgtLoadOpen .. | .loadTierResume ..
  | .loadTierTimeout .. | .wgtCommit .. | .wgtStageOpen .. | .wgtStagePlan .. | .wgtSwitch ..
  | .wgtStageDrop .. | .switchDrained .. | .drainLimit .. | .weightFlip .. | .drained .. | .flip ..
  | .switchAcceptTimeout .. | .sealedHarnessRelease .. | .spareCountSet .. | .hbmPatrol .. | .healthEventWrite
  | .poweredSecond | .healthDumapRead .. | .healthEventRead .. | .healthUnitRestore .. | .healthPackLoad ..
  | .healthPackUnload .. | .healthCaptureRead .. | .overrun .. | .starved .. | .memoryTimeout ..
  | .tierTimeout .. | .sequencerFault .. | .hubWatchdog .. | .weaverHeartbeat | .mailboxTimeout ..
  | .sramUncorrectable | .lockStepMismatch | .drainComplete .. | .dumpComplete .. | .resetRelease ..
  | .restoreComplete .. | .restoreTimeout .. | .dumpRead .. | .dumpRelease .. | .errlogRead ..
  | .domainReset .. | .domainRetire .. | .moduleReturn .. | .twinDetach .. | .gstop .. | .fault ..
  | .stormWindowClose | .shadowRecordSend .. | .heartbeatSend | .heartbeat .. | .peerLost | .depart ..
  | .detach .. | .handover .. | .hsResetRelease | .hsThrottleEval .. | .hsShutdown .. | .hsThermAssert
  | .page .. | .voutCommand .. | .readVout | .readIout .. | .readPout .. | .statusWord | .clearFaults
  | .ucieLinkDown .. | .mbxClaim .. | .mbxRelease .. | .replayTimeout .. | .xlRetrain .. | .retrainComplete ..
  | .linkFailure .. | .portEnableSet .. | .portEqualised .. | .ident .. | .planId .. | .syncSend ..
  | .syncReceive .. | .holdoverExpire | .timeRoleSet .. | .timeAlign .. | .timeQuery .. | .timeReply ..
  | .timeAlignTimeout | .timeStep .. | .timeStepApply | .picklenReq .. | .picklen .. | .bmReset
  | .i3cOffsetWrite .. | .i3cRegisterAccess .. | .i3cDynamicAddress .. | .romVerifyDone .. | .bootStageDone ..
  | .bootPhaseLate | .keyDerivationDone .. | .fwLoad .. | .adorakuStarted | .certRead .. | .flashUpdate ..
  | .debugChallenge .. | .debugUnlock .. | .dbgScan .. | .dbgCore .. | .bistRun .. | .secRcvDataWrite ..
  | .secRcvVerify | .obsBusyLoRead .. | .pmcRunSet .. | .pmcCntWrite .. | .pmcCntLoRead ..
  | .pmcTagSeedWrite .. | .tagArm .. | .tagRecordWrite | .traceArm .. | .traceStop .. | .traceSample
  | .obsDump .. | .monDump .. | .bmResetRelease | .railsBackInRegulation | .inputBackInRange
  | .ucieLinkTrained .. | .hsThermDeassert => true

end Sys2Proof
end

