-- ==== Sys2Proof/Tests/Slice0.lean ====
section
/-! SUPPORT. Tests: the smoke tests of WellFormed, one command's effect on fixed values, and for every statement of the
obligations states and operands that meet the hypotheses of its clauses together. -/

namespace Sys2Proof.Tests

set_option Elab.async false

open Sys2Proof Sys2Proof.Machine

/-! ## Well-formedness: an ill-formed term for each check -/

/-- A remote operation whose fields all fit. -/
def anOp : RemoteOp := ⟨1, 0, 0, 0, 1, 0x1000, 0, 8, 0, [⟨[1, 2, 3, 4, 5, 6, 7, 8], 0⟩]⟩

theorem test_wf_bar4Read : (Instr.bar4Read .weaver 0 0).wf = false ∧ (Instr.bar4Read .weaver 0 1).wf = true := by decide
theorem test_wf_bar4Write : (Instr.bar4Write .weaver 0 []).wf = false := by decide
theorem test_wf_put : (Instr.put { anOp with pieces := [⟨[], 0⟩] } 0).wf = false ∧ (Instr.put anOp 0).wf = true := by decide
theorem test_wf_get : (Instr.get { anOp with opc := 256 } 0).wf = false := by decide
theorem test_wf_getData : (Instr.getData { anOp with srcPlace := 65536 } 0).wf = false := by decide
theorem test_wf_add48 : (Instr.add48 { anOp with context := 256 } 0).wf = false := by decide
theorem test_wf_knotSet : (Instr.knotSet { anOp with length := 2 ^ 32 } 0).wf = false := by decide
theorem test_wf_monPeriodEnd : (Instr.monPeriodEnd []).wf = false := by decide
theorem test_wf_generate : (Instr.generate 0 [] []).wf = false ∧ (Instr.prefill 0 [] []).wf = false ∧
    (Instr.cancel 0 []).wf = false := by decide
theorem test_wf_wgtKey : (Instr.wgtKey 0 []).wf = false := by decide
theorem test_wf_wgtLoadSealed : (Instr.wgtLoadSealed 0 [⟨[], []⟩]).wf = false := by decide
theorem test_wf_wgtRestore : (Instr.wgtRestore 0 [⟨[], []⟩] (⟨[], [], [], []⟩, [])).wf = false := by decide
theorem test_wf_twinPair : (Instr.twinPair 0 [] ⟨0, 0, 0, 0, 0, [], false⟩).wf = false := by decide
theorem test_wf_shadowRecord : (Instr.shadowRecord ⟨0, 0, 0, [], [], 0, 0, none, false⟩).wf = false := by decide
theorem test_wf_xeastFlit : (Instr.xeastFlit 0 ⟨[], 0⟩).wf = false := by decide
theorem test_wf_attest : (Instr.attest 0 [] []).wf = false := by decide

/-! ## States to start from -/

/-- Booted to stage 4. -/
def live : State := { State.reset with sec := { stage := 4 } }

/-- Mailbox 0, held by the weaver core, is BUSY with a command. -/
def boxed (s : State) (op : Nat) (args : Tab Nat) : State :=
  { s with mbx := [(0, { slot := 64, held := true, opcode := op, busy := true, args := args })] }

/-- Context 1 alone. -/
def withCtx (s : State) (x : Ctx) : State := { s with ctxs := [(1, x)] }

/-- A step record (Table 6.6): START 0, LEN 8. -/
def stepRec (kind unit every slot length src dst set : Nat) (param : Nat := 0) : Bytes :=
  toLe 4 0 ++ toLe 4 8 ++ toLe 1 kind ++ toLe 1 0 ++ toLe 2 unit ++ toLe 2 every ++ toLe 2 0 ++ toLe 4 0 ++ toLe 4 param ++
    toLe 8 0 ++ toLe 8 set ++ toLe 2 0 ++ toLe 2 slot ++ toLe 4 length ++ toLe 8 src ++ toLe 8 dst

/-- A plan image of period 100 and group 5 whose every list holds the one step that `r` begins with, a parameter block after it
at 0x98, and the one region `g`. -/
def anImage (place places lead : Nat) (r : Bytes) (g : Bytes := []) : Bytes :=
  toLe 4 0 ++ toLe 4 100 ++ toLe 4 0 ++ toLe 2 place ++ toLe 2 places ++ toLe 8 5 ++ toLe 4 lead ++ toLe 4 0 ++ toLe 8 0 ++
    toLe 4 (0x58 + r.length) ++ toLe 4 (if g = [] then 0 else 1) ++ (List.range 5).flatMap (fun _ => toLe 4 0x58 ++ toLe 4 1) ++
    r ++ g

/-- A region of 4 KiB at `base` of a type. -/
def aRegion (base type : Nat) : Bytes := toLe 8 base ++ toLe 6 4096 ++ toLe 1 type ++ toLe 1 0

/-- A step due at list `l`, index 0, whose inputs completed at pick 0. -/
def aDue (l : Nat) : Due := ⟨1, l, 0, 0, 0, false, 8, some 0, some 0, some 0, 0⟩

/-- Context 1 runs the plan whose one step is `r`, and the step of list `l` is due at pick 1. -/
def stepping (l : Nat) (r : Bytes) (g : Bytes := []) : State :=
  { withCtx live { ctl := { opened := true, state := 4, launchPick := some 0, plan := some (anImage 0 1 16 r g) } } with
    clk := { pick := 1 }, sched := { due := [aDue l] } }

/-- A running step of list `l`, index 0. -/
def aRun (l outstanding : Nat) (ended : Option Nat) : Run :=
  ⟨1, l, 0, 0, 0, 0, 0, [], outstanding, ended, false, false, 0, 0, 0, 0, none, none⟩

/-- The I3C target without PRIV. -/
def plain : State := { live with acc := { slots := [] } }
/-- Host requester 7 in slot 8, privileged, on link 0. -/
def hosted : State := { live with acc := { slots := [(8, { rid := 7, valid := true, priv := true })], linksUp := [0, 3] } }

/-- Port 3 is Up. -/
def portUp : State := { live with ports := [(3, { state := 2 })] }

/-- A request of ring 0 in a state, on stream 2. -/
def aReq (state : Nat) : Request :=
  ⟨7, 1, false, 2, 9, [0], 1, 0, 0, 1, 0, 0, 0, 0, state, 1, 0, 0, none, false, false, none⟩

/-- The request fills slot 0 of context 1. -/
def serving (s : State) (q : Request) : State :=
  { s with ctxs := s.ctxs.map (fun x => (x.1, { x.2 with slots := [(0, { req := some q.id })] })), srv := { s.srv with reqs := [q] } }

/-- Every sensor reads 25.0 degrees. -/
def warm (s : State) (q : Int := 100) : State :=
  { s with thm := { s.thm with sensors := (List.range 944).map fun n => (n, { reading := q }) } }

/-- Harness 0 alone differs from reset. -/
def withHarness (s : State) (x : Harness) : State := { s with arr := { s.arr with harnesses := [(0, x)] } }

/-- Heddle 0 is programmed. -/
def withHeddle (s : State) (x : Heddle) : State := { s with arr := { s.arr with heddles := [(0, { x with programmed := true })] } }

/-- The next state of a command that gives one. -/
def after (c : Instr) (s : State) : Option State :=
  match exec c s with
  | .next t => some t
  | _ => none

/-- Context 1 in a state, of a plan of so many places. -/
def member (place places n : Nat) (l : Option Nat) (pick : Nat := 0) : State :=
  { withCtx live { ctl := { opened := true, state := n, launchPick := l, plan := some (anImage place places 16 (stepRec 8 0 0 0xFFFF 8 0 0 0)) } } with
    clk := { pick := pick } }

/-! ## Witnesses: hypotheses that are met together -/

theorem witness_UnprivilegedWriteIsCountedOnly :
    prvCommand (.maskingSet .i3c true) = some .i3c ∧ plain.actsAs .i3c 62 ∧ plain.priv 62 = false := by decide +kernel

theorem witness_MailboxCommandGuards :
    mailboxCommand (.kvMap 0) = some (0, 0x3020) ∧ (live.mailbox 0).busy = false ∧
    (boxed plain 0x3020 []).serves = true ∧ ((boxed plain 0x3020 []).mailbox 0).busy = true ∧
    ((boxed plain 0x3020 []).mailbox 0).opcode = 0x3020 ∧
    (boxed { plain with pwr := { mode := 2 } } 0x3020 []).cmdBarred 0
      ((boxed { plain with pwr := { mode := 2 } } 0x3020 []).mailbox 0) = true := by decide +kernel

theorem witness_StepRunsFrontCommand : live.pending = [] := by decide +kernel

theorem witness_StepKeepsQueueAndMemory : live.mem.wf = true := by decide +kernel

theorem witness_InputPowerComesAndGoes :
    (({ live with pwr := { input := false } } : State).pwr.input = false ∧
      ({ live with pwr := { input := false } } : State).tooHot = false) ∧
    live.pwr.input = true ∧ (live.powered = true ∧ live.pwr.inputLow = false) ∧
    (({ live with pwr := { inputLow := true } } : State).powered = true) := by decide +kernel

theorem witness_RailsAndResetPinsHoldTheModule :
    live.powered = true ∧
    (({ live with pwr := { railFault := true } } : State).powered = true) ∧ live.pwr.bmResetHeld = false ∧
    (({ live with pwr := { bmResetHeld := true } } : State).powered = true) := by decide +kernel

theorem witness_HostSiteSignals :
    let s : State := { live with hs := { railsOn := true, pwrgd := true }, clk := { wall := 40000000 } }
    let hot : State := { live with hs := { railsOn := true, therm := true }, clk := { wall := 400000000 } }
    (s.powered = true ∧ s.hs.pwrgd = true ∧ s.hs.resetReleased = false ∧ s.hs.pwrgdWall + 40000000 ≤ s.clk.wall) ∧
    s.hs.railsOn = true ∧
    (hot.powered = true ∧ hot.hs.railsOn = true ∧ hot.hs.therm = true ∧ hot.hs.thermSince + 400000000 ≤ hot.clk.wall) ∧
    (s.hs.present = true ∧ s.hs.therm = false ∧ s.rcv.alertHsTherm = false) := by decide +kernel

/-- 0.55 V and 1.05 V bound HS_CORE's set point, 0.70 V and 0.90 V HS_SOC's: codes of 1/4096 V, to the nearest 5 mV. -/
theorem witness_RailControlBus :
    let soc : State := { live with hs := { pmbPage := 1 } }
    live.powered = true ∧ live.hs.pmbPage = 0 ∧ voutStep 2253 = 110 ∧ voutStep 4301 = 210 ∧
    soc.powered = true ∧ soc.hs.pmbPage = 1 ∧ voutStep 2867 = 140 ∧ voutStep 3686 = 180 ∧
    voutStep 2242 < 110 ∧ 210 < voutStep 4312 ∧ voutStep 2856 < 140 ∧ 180 < voutStep 3697 := by decide +kernel

theorem witness_PowerStatesAreReached :
    let bad := boxed live 0x0020 [(0, 7)]
    let good := boxed live 0x0020 [(0, 2)]
    let going : State := { live with pwr := { target := some 3, targetMbx := some 0 } }
    (bad.awaits 0 0x0020 ∧ bad.pwr.target = none ∧ bad.pwr.targetMbx ≠ some 0 ∧ bad.stateRefused ((bad.mailbox 0).arg 0) = true) ∧
    (good.awaits 0 0x0020 ∧ good.stateRefused ((good.mailbox 0).arg 0) = false ∧
      ¬((good.mailbox 0).arg 0 = 1 ∧ good.pwr.mode = 1)) ∧
    (going.up = true ∧ going.pwr.target = some 3 ∧ going.pwr.targetMbx = some 0 ∧ going.pwr.enableAfter = []) := by
  decide +kernel

theorem witness_PickCounterAdvances :
    let longer (e : Nat) : State := { live with clk := { reqLen := 20, elapsed := e, reqs := [(0, 16)] } }
    let shorter (e : Nat) : State := { live with clk := { lenQ := 20, reqLen := 16, elapsed := e } }
    let e : PickSwitch := ⟨5, 24, true, false, false⟩
    let sched : State := { live with time := { role := 1, sched := [e] }, clk := { pick := 5 } }
    (live.pwr.input = true ∧ live.pwr.oscFailed = false) ∧
    ({ live with pwr := { oscFailed := true } } : State).pwr.oscFailed = true ∧
    ((longer 8).up = true ∧ (longer 8).time.role = 0 ∧ (longer 8).clk.lenQ < (longer 8).clk.reqLen ∧
      (∀ r ∈ (longer 8).clk.reqs, (longer 8).clk.elapsed < r.1 + 8 → (longer 8).clk.reqLen ≤ r.2)) ∧
    ((shorter 1000).up = true ∧ (shorter 1000).time.role = 0 ∧ (shorter 1000).clk.reqLen < (shorter 1000).clk.lenQ ∧
      (shorter 1000).clk.lastChange + 1000 ≤ (shorter 1000).clk.elapsed) ∧
    ((longer 7).time.role = 0 ∧ (longer 7).clk.lenQ < (longer 7).clk.reqLen ∧
      ∃ r ∈ (longer 7).clk.reqs, (longer 7).clk.elapsed < r.1 + 8 ∧ r.2 ≤ (longer 7).clk.lenQ) ∧
    ((shorter 999).time.role = 0 ∧ (shorter 999).clk.reqLen < (shorter 999).clk.lenQ ∧
      (shorter 999).clk.elapsed < (shorter 999).clk.lastChange + 1000) ∧
    (sched.up = true ∧ sched.time.role ≠ 0 ∧ sched.time.sched = [e] ∧ e.pick ≤ sched.clk.pick ∧ e.len ≠ sched.clk.lenQ) ∧
    live.actsAs .weaver 64 ∧ hosted.actsAs (.host 7 0) 8 := by
  dsimp only
  (repeat' apply And.intro) <;> decide +kernel

theorem witness_TimeRolesAndSync :
    let busy := withCtx live { ctl := { state := 4 } }
    let follow (o : Int) (runs : List Run) : State :=
      { portUp with time := { role := 2, upstream := 3, ofs := o }, sched := { runs := runs } }
    let late : State := { live with time := { state := 2, holdoverSince := some 0 }, clk := { wall := 400000000 } }
    let st (k : Nat) : SyncStamps := ⟨k, 0, 0, 0, 9, true, 1, 0, 0⟩
    (busy.actsPrv .weaver 64 ∧ busy.timeBusy = true) ∧ (live.actsPrv .weaver 64 ∧ live.timeBusy = false) ∧
    (portUp.awake = true ∧ (portUp.port 3).state = 2 ∧ ¬(portUp.time.role = 2 ∧ 3 = portUp.time.upstream)) ∧
    (∀ runs ∈ [[], [aRun 0 0 none]], (follow (-4001) runs).awake = true ∧ ((follow (-4001) runs).port 3).state = 2 ∧
      (follow (-4001) runs).time.role = 2 ∧ 3 = (follow (-4001) runs).time.upstream ∧ 0 < (follow (-4001) runs).clk.lenQ ∧
      (follow (-4001) runs).timeBusy = false ∧ (follow (-4001) runs).time.ofs < -4000) ∧
    ((follow 0 []).offsetFrom ((follow 0 []).port 3).lastSyncHere (st 0) = 0 ∧
      (follow 0 []).offsetFrom ((follow 0 []).port 3).lastSyncHere (st 1024) < -4000) ∧
    (late.up = true ∧ late.time.state = 2 ∧ late.time.holdoverSince = some 0 ∧ 400000000 ≤ late.clk.wall - 0) := by
  dsimp only
  (repeat' apply And.intro) <;> decide +kernel

theorem witness_TimeDomainMessages :
    let lead : State := { boxed portUp 0x0010 [] with time := { role := 1 } }
    let child : State := { lead with ports := [(3, { state := 2, leader := lead.timeLeader, peerDepth := 1 })] }
    let asked : State := { live with time := { role := 1, query := true, alignMbx := some 0 }, clk := { wall := 40000000 } }
    let follow : State := { portUp with time := { role := 2, upstream := 3 } }
    let stepAt : State := { live with time := { step := some (0, 9) }, clk := { pick := 5 } }
    let reqs : State := { follow with ports := [(3, { state := 2 }), (4, { state := 2 })] }
    let x : PickSwitch := ⟨255, 64, false, false, false⟩
    let planned : State := { lead with time := { role := 1, sched := [x], remoteReqs := [(3, 64)] } }
    let noted (s : State) (n : Nat) : State := { s with time := { s.time with remoteReqs := Tab.put 16 s.time.remoteReqs 3 n } }
    ((boxed live 0x0010 []).awaits 0 0x0010 ∧ (boxed live 0x0010 []).time.role ≠ 1) ∧
    (child.awaits 0 0x0010 ∧ child.time.role = 1 ∧ child.time.alignMbx = none ∧ child.childPorts = [3]) ∧
    (follow.up = true ∧ follow.time.role = 2 ∧ 3 = follow.time.upstream ∧ follow.childPorts = []) ∧
    (asked.up = true ∧ asked.time.query = true ∧ asked.time.alignMbx = some 0 ∧ asked.time.alignReplies = [] ∧
      40000000 ≤ asked.clk.wall - asked.time.alignSince) ∧
    (stepAt.up = true ∧ stepAt.time.step = some (0, 9) ∧ stepAt.sched.runs = [] ∧ (0 : Int) + stepAt.ownLead ≤ stepAt.clk.pick ∧
      stepAt.clk.pick ≤ 9) ∧
    (reqs.up = true ∧ reqs.time.role = 2 ∧ (reqs.port 4).state = 2 ∧ 4 ≠ reqs.time.upstream) ∧
    (lead.up = true ∧ lead.time.role = 1 ∧ (lead.port 3).state = 2 ∧ lead.time.sched = [] ∧
      (noted lead 64).treeLen ≠ lead.treeLen ∧ (noted lead 64).treeLen ≠ lead.clk.lenQ) ∧
    (planned.time.sched = [x] ∧ x.pick < planned.clk.pick + 256 ∧ (noted planned 16).treeLen ≠ planned.treeLen ∧
      (noted planned 16).treeLen < x.len) := by
  dsimp only
  (repeat' apply And.intro) <;> decide +kernel

theorem witness_MisalignedAccessIsRecorded :
    (live.actsAs .weaver 64 ∧ (1 : BitVec 26).toNat % 4 ≠ 0) ∧
    (({ live with sec := { live.sec with i3cOffset := 3 } } : State).i3cUp = true ∧ live.sec.stage ≠ 5) := by
  (repeat' apply And.intro) <;> decide +kernel

/-- One register of each kind that mixes PRV fields with others, and one whose fields are all PRV. -/
theorem witness_PrvFieldsRefuseField :
    (plain.actsAs .i3c 62 ∧ plain.priv 62 = false) ∧
    (∀ x ∈ [(0x80008, Reg.monChan), (0xB0010, .healthStat), (0xB0060, .gstop), (0x100028, .scrubStat), (0x120004, .satStat),
        (0x40000, .tableBase)], x.1 % 4 = 0 ∧ inXfer x.1 = false ∧ regAt x.1 = some x.2 ∧ x.2.prvMask ≠ 0) ∧
    (({ plain with sec := { plain.sec with i3cOffset := 0x40000 } } : State).i3cUp = true) := by
  (repeat' apply And.intro) <;> decide +kernel

theorem witness_MailboxClaims :
    let held : State := { live with mbx := [(0, { held := true, slot := 64 })] }
    let i3c : State := { live with sec := { live.sec with i3cOffset := 0x10780 } }
    let unpriv : State := { plain with mbx := [(12, { busy := true, held := true, slot := 62, opcode := 0x3020 })] }
    let allowed : State := { plain with mbx := [(12, { busy := true, held := true, slot := 62, opcode := 0x2002 })] }
    (live.actsAs .weaver 64 ∧ live.actsAs .i3c 62 ∧ (62 : Nat) < 64 ∧ (live.mailbox 0).held = false ∧ live.priv 62 = true) ∧
    (plain.actsAs .i3c 62 ∧ plain.priv 62 = false ∧ (12 : Nat) ≤ 12) ∧
    ((held.mailbox 0).held = true ∧ (held.mailbox 0).slot = 64 ∧ held.actsAs .weaver 64) ∧
    (i3c.i3cUp = true ∧ i3c.sec.stage ≠ 5 ∧ (i3c.mailbox 15).held = false) ∧
    (mailboxCommand (.kvMap 12) = some (12, 0x3020) ∧ unpriv.serves = true ∧ (unpriv.mailbox 12).busy = true ∧
      (unpriv.mailbox 12).opcode = 0x3020 ∧ unpriv.priv (unpriv.mailbox 12).slot = false) ∧
    (allowed.sec.stage = 4 ∧ allowed.rcv.oos = false ∧ allowed.pwr.mode ≠ 2 ∧ (allowed.mailbox 12).opcode = 0x2002) := by
  dsimp only
  (repeat' apply And.intro) <;> decide +kernel

theorem witness_MailboxRegisters :
    let held : State := { live with mbx := [(15, { held := true, slot := 64 })] }
    (held.actsAs .weaver 64 ∧ (0x107CC : BitVec 26).toNat = 0x10010 + 0x80 * 15 + 4 * 15 ∧ (held.mailbox 15).busy = false ∧
      (held.mailbox 15).held = true ∧ (held.mailbox 15).slot = 64) ∧
    ((0x10784 : BitVec 26).toNat = 0x10004 + 0x80 * 15 ∧ (0x80000000 : Word).getLsbD 31 = true) ∧
    ((boxed live 0x0011 []).serves = true ∧ ((boxed live 0x0011 []).mailbox 0).busy = true ∧
      ((boxed live 0x0011 []).mailbox 0).opcode ∉ assignedOpcodes) := by
  dsimp only
  (repeat' apply And.intro) <;> decide +kernel

/-- The last byte of HBM answers and lies in no rule's way but the pattern area's; the byte after it does not answer. -/
theorem witness_WindowReadsAndWrites :
    (hosted.up = true ∧ hosted.sec.stage ≠ 5 ∧ hosted.acc.linksUp.contains 0 = true ∧ hosted.slotOfRid 7 = some 8) ∧
    hosted.answers hbmEnd 1 = false ∧ (hosted.answers hubBase 1 = true ∧ inHub hubBase 1 = true) ∧
    (hosted.answers 0 4096 = true ∧ inHub 0 4096 = false ∧ hosted.sealedAt 0 = false) ∧
    hosted.writeBarred 8 0x8000000 4096 = none ∧ hosted.writeBarred 8 patternBase 1 = some (.droppedWrite 8) ∧
    hosted.writeBarred 8 hbmEnd 1 = some (.badBar4 8) ∧ hosted.writeBarred 8 hubBase 1 = some .hubRegion := by
  (repeat' apply And.intro) <;> decide +kernel

theorem witness_LinksAndI3cTarget :
    let one : State := { live with acc := { linksUp := [2] } }
    let host : State := { live with hs := { present := true, resetReleased := true }, acc := { linksEver := [0] } }
    let at_ (o : Nat) : State := { live with sec := { live.sec with i3cOffset := o } }
    (hosted.acc.linksUp.contains 0 = true ∧ ∃ k ∈ hosted.acc.linksUp, k ≠ 0) ∧
    (one.up = true ∧ one.acc.linksUp = [2] ∧ one.troubled 0xA 6 = false) ∧
    (host.up = true ∧ host.hs.present = true ∧ host.hs.resetReleased = true ∧ 1 ≤ host.sec.stage ∧ host.sec.stage ≤ 4) ∧
    (live.i3cUp = true ∧ live.priv 62 = true) ∧
    (inXfer (at_ 0x90000).sec.i3cOffset = false ∧ regAt 0x90000 = some .ceil ∧ (at_ 0x90000).i3cUp = true) := by
  dsimp only
  (repeat' apply And.intro) <;> decide +kernel

/-! ### Steps -/

theorem witness_StepsStartWhenReady :
    let hub (k : Nat) : State := serving (stepping 4 (stepRec k 0 0 0 8 0 0 0)) (aReq 2)
    (∀ x ∈ [(Instr.mvmStep 1 0 0 [], 1, 0), (.mendStep 1 0 0 [], 2, 0), (.fullStep 1 0 0 [], 3, 0), (.attnStep 1 0 0 [], 4, 0),
       (.putStep 1 0 0 [], 5, 0), (.getStep 1 0 (0, []), 6, 0), (.addStep 1 0 0 [], 7, 0), (.knotStep 1 0 0, 8, 0),
       (.calStep 1 0 0, 9, 0), (.testStep 1 0 0 ⟨[], [], []⟩, 0xA, 0), (.batchStep 1 4 (0, []), 0xB, 4),
       (.sampleStep 1 4 0 [], 0xC, 4), (.emitStep 1 4 (0, []), 0xD, 4), (.recvStep 1 0 0, 0xE, 0)],
      stepCommand x.1 = some (1, x.2.2, 0, x.2.1) ∧ stepUpsets x.1 = [] ∧
        (stepping x.2.2 (stepRec x.2.1 0 0 0xFFFF 8 0 0 0)).mayStart 1 x.2.2 0 x.2.1 (aDue x.2.2)) ∧
    live.startable 1 0 0 = none ∧
    (∀ x ∈ [(Instr.batchStep 1 4 (0, [.sram 3]), 0xB), (.sampleStep 1 4 0 [.sram 3], 0xC), (.emitStep 1 4 (0, [.sram 3]), 0xD)],
      stepCommand x.1 = some (1, 4, 0, x.2) ∧ (hub x.2).mayStart 1 4 0 x.2 (aDue 4) ∧
      ((hub x.2).slotReq 1 ((hub x.2).stepAt 1 4 0).slot).isSome = true ∧ stepUpsets x.1 = [.sram 3]) ∧
    (secded 1).detected = 0 ∧ (secded 3).detected ≠ 0 := by
  dsimp only
  (repeat' apply And.intro) <;> decide +kernel

theorem witness_StepsEndAndSetKnots :
    let r := stepRec 8 0 0 0xFFFF 8 0 0 0x2000
    let s (o : Nat) : State :=
      { stepping 0 r with sched := { runs := [{ aRun 0 o none with began := 1 }] }, clk := { pick := 73 } }
    let void : State := { stepping 0 r with sched := { due := [{ aDue 0 with void := true }] }, clk := { pick := 8 } }
    (∀ o ∈ [0, 1], (s o).up = true ∧ (s o).sched.runs.find? (fun r => sameRun 1 0 0 r && r.ended.isNone) =
        some { aRun 0 o none with began := 1 } ∧ ((s o).ctx 1).ctl.cut = false) ∧
    (((s 0).stepAt 1 0 0).set ≠ 0 ∧ addrPlace ((s 0).stepAt 1 0 0).set = planPlace ((s 0).image 1) ∧
      ((s 0).stepAt 1 0 0).slot = 0xFFFF ∧ (s 0).obs.trcBuf.on = false ∧ (s 0).kvt.unpublished = [] ∧
      (s 0).stepEndPick 1 ((s 0).stepAt 1 0 0) 0 + 64 < (s 0).clk.pick ∧
      (s 0).clk.pick ≤ 1 + ((s 0).stepAt 1 0 0).len + 64 ∧ (s 0).suppresses 1 0 ((s 0).stepAt 1 0 0) = false) ∧
    (void.up = true ∧ (void.sched.due.find? (fun d => sameStep 1 0 0 d && d.void && decide (d.voidEnd ≤ void.clk.pick))).isSome) := by
  dsimp only
  (repeat' apply And.intro) <;> decide +kernel

/-- A heddle of 8-bit weights, one used column, whose rows are 0: their selvage is 0 too. -/
theorem witness_DentProductsAreExact :
    let h : Heddle := { colsUsed := 64, width := 8 }
    let a : ActBlock := ⟨List.replicate 64 (-128), 0, 0, 0⟩
    h.colsUsed * 8 ≤ 512 ∧ (63 : Nat) < h.colsUsed ∧
    (∀ k, k < 64 → h.row (64 * 7 + k) = (rowWithSelvage (h.row (64 * 7 + k))).toNat) ∧
    (∀ k, k < 64 → -(2 ^ (8 - 1) : Int) ≤ a.elems.getD k 0 ∧ a.elems.getD k 0 < 2 ^ (8 - 1)) := by
  dsimp only
  (repeat' apply And.intro) <;> decide +kernel

/-- A mending product of residue 3 where its value 1 has residue 1. -/
theorem witness_MvmFillsItsBank :
    let s := stepping 0 (stepRec 1 0 0 0xFFFF 8 0 0 0 0x98 ++ toLe 8 0 ++ toLe 8 1)
    let p := stepParam (s.image 1) (s.stepAt 1 0 0) 16
    (s.mayStart 1 0 0 1 (aDue 0) ∧ bitOf (mvmHeddles p) 0 = true ∧ bitOf (mvmHeddles p) 1 = false) ∧
    (stepping 0 (stepRec 2 0 0 0 8 0 0 0)).mayStart 1 0 0 2 (aDue 0) ∧ mendFaults [.fault (.mending 0 0 0) 1 3] ≠ [] := by
  dsimp only
  (repeat' apply And.intro) <;> decide +kernel

/-- A result in the step's own loom is taken; one in another loom's memory, in no region of the plan, is refused. -/
theorem witness_VectorStepsWriteTheirResult :
    let p : Bytes := toLe 1 2 ++ List.replicate 31 0
    let add (dst : Nat) := stepping 0 (stepRec 3 0 0 0xFFFF 8 0x1000 dst 0 0x98 ++ p)
    let samp (dst : Nat) := serving (stepping 4 (stepRec 0xC 0 0 0 8 0x1000 dst 0) (aRegion 0x2000 0)) (aReq 2)
    let att (lead : Nat) := serving (stepping 0 (stepRec 4 0 0 0 8 0x1000 0x2000 0)) (aReq lead)
    let far := loomStore 1
    ((add 0x2000).mayStart 1 0 0 3 (aDue 0) ∧ fullFn (stepParam ((add 0x2000).image 1) ((add 0x2000).stepAt 1 0 0) 32) = 2 ∧
      (∀ a ∈ [0x1000, 0x2000, 0], loomOfAddr a = 0) ∧ (add 0x2000).fabricStatus 1 0 1 0x2000 0 = 0) ∧
    ((add far).mayStart 1 0 0 3 (aDue 0) ∧ (add far).fabricStatus 1 0 1 far 0 ≠ 0) ∧
    (∀ x ∈ [(0x2000, 0), (0, 1)], (samp x.1).mayStart 1 4 0 0xC (aDue 4) ∧
      (samp x.1).slotReq 1 ((samp x.1).stepAt 1 4 0).slot = some (aReq 2) ∧ (samp x.1).fabricStatus 1 4 1 x.1 0 = x.2) ∧
    ((att 2).mayStart 1 0 0 4 (aDue 0) ∧ (att 2).slotReq 1 ((att 2).stepAt 1 0 0).slot = some (aReq 2) ∧
      bitOf ((att 2).stepAt 1 0 0).flags 0 = false) := by
  dsimp only
  (repeat' apply And.intro) <;> decide +kernel

/-- Through a port, handing a page off or not; within the package, taken by the loom itself, by the region of a plan, or by
none. -/
theorem witness_MovesAndRemoteIssues :
    let move (k u dst : Nat) (g : Bytes := []) : State := stepping 0 (stepRec k u 0 0xFFFF 8 0x1000 dst 0) g
    let hand := serving (stepping 0 (stepRec 5 0 0 0 8 0x1000 0x2000 0)) (aReq 3)
    let far := loomStore 1
    (∀ k ∈ [5, 6, 7], ∀ u ∈ [0, 8, 0x1F, 0x11], (move k u 0x2000).mayStart 1 0 0 k (aDue 0)) ∧
    (hand.mayStart 1 0 0 5 (aDue 0) ∧ hand.handingOff 1 (hand.stepAt 1 0 0) = some (aReq 3)) ∧
    ((move 5 0x1F 0x2000).handingOff 1 ((move 5 0x1F 0x2000).stepAt 1 0 0) = none ∧
      (move 5 0x1F 0x2000).fabricStatus 1 0 1 0x2000 8 = 0 ∧ (move 5 0x1F 0x2000).wordRegion 1 0x2000 8 = false ∧
      (move 5 0x1F 0x2000).kvt.unpublished = []) ∧
    ((move 7 0x1F 0x2000).fabricStatus 1 0 4 0x2000 8 = 0 ∧ loomOfAddr 0x1000 = 0 ∧ (move 7 0x1F 0x2000).mem.tallyErr = []) ∧
    (move 5 0x1F 0x2000 (aRegion 0x2000 2)).wordRegion 1 0x2000 8 = true ∧
    (∀ k ∈ [5, 6, 7], (move k 0x1F far).mayStart 1 0 0 k (aDue 0) ∧ (move k 0x1F far).fabricStatus 1 0 1 far 8 ≠ 0 ∧
      (move k 0x1F far).fabricStatus 1 0 4 far 8 ≠ 0) ∧
    ((move 5 0x11 0x2000).nackStatus 1 1 0x2000 8 = 1 ∧ (move 5 0x11 0x2000 (aRegion 0x2000 0)).nackStatus 1 1 0x2000 8 = 0 ∧
      (move 7 0x11 0x2000 (aRegion 0x2000 2)).nackStatus 1 4 0x2000 8 = 0) ∧
    ((move 6 0x11 0x2000).nackStatus 1 2 0x1000 8 = 1 ∧ (move 6 0x11 far (aRegion 0x1000 0)).nackStatus 1 2 0x1000 8 = 0 ∧
      (move 6 0x11 0x2000).fabricStatus 1 0 1 0x2000 8 = 0 ∧ (move 6 0x11 far (aRegion 0x1000 0)).fabricStatus 1 0 1 far 8 ≠ 0) := by
  dsimp only
  (repeat' apply And.intro) <;> decide +kernel

theorem witness_RefusedOperationsWriteNothing :
    let op := sealOp anOp
    ((Instr.put op 0, 1, op.dstAddr, op.length) ∈ [(Instr.put op 0, 1, op.dstAddr, op.length), (.get op 0, 2, op.srcAddr, op.length),
        (.add48 op 0, 4, op.dstAddr, op.length), (.knotSet op 0, 5, op.dstAddr, 8)] ∧
      live.awake = true ∧ op.tally = crc32c (opHeader op) ∧ op.opc = 1 ∧ live.nackStatus op.context 1 op.dstAddr op.length = 1) ∧
    anOp.tally ≠ crc32c (opHeader anOp) ∧ (1 : Word) ≠ 0 := by
  dsimp only
  (repeat' apply And.intro) <;> decide +kernel

/-- A region at 0x1000 of type `t` in the plan of context 1. -/
def declared (t : Nat) : State := stepping 0 (stepRec 6 0 0 0xFFFF 8 0x5000 0x1000 0) (aRegion 0x1000 t)

theorem witness_AcceptedOperationsTakeEffect :
    let op (n : Nat) : RemoteOp := sealOp { anOp with opc := n, srcAddr := 0x1000 }
    let good : RemoteOp := sealOp { anOp with opc := 4, pieces := [⟨List.replicate 8 1, crc32c (List.replicate 8 1)⟩] }
    let bad : RemoteOp := sealOp { anOp with opc := 4, pieces := [⟨List.replicate 8 1, ~~~crc32c (List.replicate 8 1)⟩] }
    let runs (o : Nat) (e : Option Nat) : State := { declared 0 with sched := { runs := [aRun 0 o e] } }
    ((declared 0).awake = true ∧ (op 1).tally = crc32c (opHeader (op 1)) ∧
      (declared 0).nackStatus 1 1 0x1000 8 = 0 ∧ (declared 0).wordRegion 1 0x1000 8 = false ∧ (declared 0).kvt.unpublished = []) ∧
    ((op 2).tally = crc32c (opHeader (op 2)) ∧ (declared 0).nackStatus 1 2 0x1000 8 = 0) ∧
    (good.tally = crc32c (opHeader good) ∧ (declared 2).nackStatus 1 4 0x1000 8 = 0 ∧
      ∀ p ∈ good.pieces, pieceErr p = 0 ∧ p.data.length % 8 = 0) ∧
    (bad.tally = crc32c (opHeader bad) ∧ ∀ p ∈ bad.pieces, pieceErr p ≠ 0 ∧ p.data.length % 8 = 0) ∧
    ((op 5).tally = crc32c (opHeader (op 5)) ∧ (declared 1).nackStatus 1 5 0x1000 8 = 0) ∧
    ((op 3).tally = crc32c (opHeader (op 3)) ∧ (runs 1 none).getRun 1 0 0x1000 = some (aRun 0 1 none)) ∧
    ((runs 1 none).outRun 1 0 0 = some (aRun 0 1 none) ∧ (runs 2 (some 3)).outRun 1 0 0 = some (aRun 0 2 (some 3)) ∧
      (runs 1 (some 3)).outRun 1 0 0 = some (aRun 0 1 (some 3)) ∧ (runs 1 none).sched.sets = []) ∧
    ({ live with sched := { sets := [(1, 0, 0)] } } : State).sched.sets.contains (1, 0, 0) = true := by
  dsimp only
  (repeat' apply And.intro) <;> decide +kernel

/-- Vocabulary 1 lets token 0 in; no position beyond it needs a frame. -/
theorem witness_BatchBoundary :
    let s := stepping 4 (stepRec 0xB 0 0 0xFFFF 8 0 0 0)
    let q := aReq 0
    let f : State := { stepping 4 (stepRec 0xC 0 0 0 8 0 0 0 0x98 ++ List.replicate 0x20 1) with
      srv := { reqs := [q], rings := [(0, { up := true, ctx := 1, n := 4, spillEntries := 4 })], tenants := [(0, { bal := 1 })] } }
    s.mayStart 1 4 0 0xB (aDue 4) ∧
    (f.request q.id = some q ∧ f.mayFill 1 0 q = true ∧ f.condSix 1 0 q = true ∧ f.condNine 1 0 q = true) := by
  dsimp only
  (repeat' apply And.intro) <;> decide +kernel

/-- The step reads its token in a region of its plan. -/
theorem witness_EmitAdvancesTheRequest :
    let p : Bytes := toLe 8 0x1000 ++ List.replicate 24 0
    let s := serving (stepping 4 (stepRec 0xD 0 0 0 8 0 0 0 0x98 ++ p) (aRegion 0x1000 0)) (aReq 2)
    let r : State := { s with srv := { s.srv with rings := [(0, { up := true, ctx := 1, n := 4 })] } }
    let c := serving { stepping 4 (stepRec 0xD 0 0 0 8 0 0 0) with sched := { due := [{ aDue 4 with start := 1 }] }, clk := { pick := 2 } }
      { aReq 2 with cancelAt := some 0 }
    let main := addrLocal (emitMain (stepParam (r.image 1) (r.stepAt 1 4 0) 32))
    (r.mayStart 1 4 0 0xD (aDue 4) ∧ r.slotReq 1 (r.stepAt 1 4 0).slot = some (aReq 2) ∧ (aReq 2).state = 2 ∧
      (aReq 2).cancelAt = none ∧ (r.ctx 1).ctl.twillEff = false ∧ (r.ctx 1).ctl.strictEff = false ∧
      max (emitW (stepParam (r.image 1) (r.stepAt 1 4 0) 32)) 1 = 1 ∧ r.fabricStatus 1 4 2 main 4 = 0 ∧
      r.failingBlocks [] main 4 = [] ∧ (r.batch 1 0).attempt = {} ∧ (r.batch 1 0).check = {} ∧ (r.batch 1 0).raised = [] ∧
      1 ≤ r.recordRoom 0 ∧ (r.ring 0).up = true ∧ (r.tenant 0).writtenAt ≠ some r.clk.elapsed ∧
      (r.tenant 0).beforeRefill.map (·.1) ≠ some r.clk.elapsed) ∧
    (c.mayStart 1 4 0 0xD { aDue 4 with start := 1 } ∧
      c.slotReq 1 (c.stepAt 1 4 0).slot = some { aReq 2 with cancelAt := some 0 } ∧ (0 : Nat) < 1 ∧
      (c.batch 1 (c.stepAt 1 4 0).slot).raised = []) := by
  dsimp only
  (repeat' apply And.intro) <;> decide +kernel
/-! ### Arrays, temperature, monitor -/

theorem witness_HarnessStatesChange :
    let used := stepping 0 (stepRec 1 0 0 0xFFFF 8 0 0 0)
    let held := withHarness live { state := 3, goal := some 1, reprogram := true, held := true }
    let moves (g : Nat) (p : Bool) : State := withHarness live { state := 3, goal := some g, reprogram := p }
    (live.actsPrv .weaver 64 ∧ (live.sel 64).harn = 0) ∧
    ({ live with health := { dumap := [(1, 0)] } } : State).outOfUse 1 0 = true ∧
    ((withHarness live { state := 0 }).outOfUse 1 0 = false ∧ (withHarness live { state := 2 }).outOfUse 1 0 = false) ∧
    (live.tierInWindow (tierOfHarness 0) = false ∧ (warm live).tierInWindow (tierOfHarness 0) = true) ∧
    (live.harnessInPlan 0 = false ∧ used.harnessInPlan 0 = true ∧ used.actsPrv .weaver 64) ∧
    ((held.harness 0).held = true ∧ (warm held).tierInWindow (tierOfHarness 0) = true) ∧
    (∀ g ∈ [0, 1, 2], ∀ p ∈ [false, true], (moves g p).powered = true ∧ ((moves g p).harness 0).state = 3 ∧
      ((moves g p).harness 0).goal = some g ∧ ((moves g p).harness 0).held = false ∧ ((moves g p).harness 0).trimBusy = false ∧
      (moves g p).harnessBusy 0 = false) ∧
    ((warm (moves 1 true)).tierInWindow (tierOfHarness 0) = true ∧ (warm (moves 1 true)).harnessBusy 0 = false) := by
  dsimp only
  (repeat' apply And.intro) <;> decide +kernel

/-- A window that ends beside one of another harness, as the last of four of a trim, after the first or with no trim. -/
theorem witness_CalibrationWindowsAndTrims :
    let cal := stepping 0 (stepRec 9 0 0 0xFFFF 48 0 0 0)
    let armed : State := withCtx live
      { ctl := { opened := true, state := 3, launchPick := some 48, plan := some (anImage 0 1 16 (stepRec 1 0 0 0xFFFF 8 0 0 0)) } }
    let old (n : Nat) : State := { withHarness live { trimWindows := n, trimBit := decide (0 < n) } with clk := { elapsed := 249952 } }
    let ends (n : Nat) : State := { old n with
      arr := { (old n).arr with windows := [⟨1, 249953, false, false⟩, ⟨0, 249953, decide (0 < n), false⟩] } }
    let trims (x : Harness) : State := withHarness live { x with trimBusy := true }
    cal.mayStart 1 0 0 9 (aDue 0) ∧
    (armed.up = true ∧ (armed.ctx 1).ctl.state = 3 ∧ (armed.ctx 1).ctl.launchPick = some (armed.clk.pick + 48) ∧
      ∃ x ∈ planSteps (armed.image 1), (stepDomain x.1 (armed.physStep 1 x.1 x.2.2)).1 = 1) ∧
    (∀ n ∈ [0, 1, 4], (old n).awake = true ∧ ((old n).harness 0).state = 1 ∧ ((old n).harness 0).trimBusy = false ∧
      (old n).harnessRuns 0 = false ∧ (old n).troubled 1 0 = false ∧ (old n).arr.windows = [] ∧ 250000 ≤ (old n).sinceCal 0 + 48) ∧
    (∀ n ∈ [0, 1, 4], (ends n).pwr.input = true ∧ (ends n).pwr.oscFailed = false ∧
      (ends n).arr.windows = [⟨1, 249953, false, false⟩] ++ ⟨0, 249953, decide (0 < n), false⟩ :: [] ∧
      249953 ≤ (ends n).clk.elapsed + 1 ∧ notedNow ((ends n).harness 0).setAt 9 (ends n).clk.elapsed = false) ∧
    (live.actsPrv .weaver 64 ∧ (withHarness live { state := 2 }).actsPrv .weaver 64 ∧ cal.actsPrv .weaver 64 ∧
      (stepping 0 (stepRec 1 0 0 0xFFFF 8 0 0 0)).harnessRuns 0 = true) ∧
    (∀ x ∈ [({} : Harness), { state := 3, goal := some 1, reprogram := true }], ((trims x).harness 0).trimBusy = true ∧
      (trims x).powered = true ∧ notedNow ((trims x).harness 0).setAt 9 (trims x).clk.elapsed = false) := by
  dsimp only
  (repeat' apply And.intro) <;> decide +kernel

/-- Two cells of the pattern copy's first ECC word struck together are beyond correction, one is corrected. -/
theorem witness_ScrubComparesAndRepairs :
    let s := withHeddle (warm live) { repair := [511] }
    let bad := withHeddle (warm live) { rows := [(511, 1)] }
    let struck (n : BitVec 512) : List Upset := [.flips (BitVec.ofNat 48 (patternAddr 0)) n]
    let aim (t : State) : State := { t with arr := { t.arr with targets := [⟨0, 7, 1, [0], 0, [], false, false⟩] } }
    let next (t : State) : State := { t with arr := { t.arr with scrubNext := [1] } }
    let late : State := { s with clk := { wall := 240000000001 } }
    let pass (c : Nat) : State := withHeddle live { passCorr := c, passConvs := 1 }
    (s.scrubs 0 = true ∧ s.scrubTurn 0 = true ∧ s.failingBlocks [] (patternAddr 0) 0x9000 = [] ∧
      s.failingBlocks (struck 1) (patternAddr 0) 0x9000 = [] ∧ s.rowStored 0 511 = s.rowExpected 0 511) ∧
    (bad.scrubs 0 = true ∧ bad.scrubTurn 0 = true ∧ bad.rowStored 0 511 ≠ bad.rowExpected 0 511 ∧ bad.selvageBad 0 511 = true) ∧
    (s.failingBlocks (struck 0x10001) (patternAddr 0) 0x9000 ≠ [] ∧ s.selvageBad 0 511 = false) ∧
    ((∃ x ∈ (aim s).arr.targets, x.scrubbed = false) ∧ ∃ k rest, (next s).arr.scrubNext = k :: rest ∧ k ≠ 0) ∧
    ((511 : Nat) ∈ (s.heddle 0).repair ∧ (s.harness (harnessOfHeddle 0)).state = 1 ∧
      s.slotsRun (harnessOfHeddle 0) = false ∧ s.writable 0 = true) ∧
    (∀ c ∈ [3, 4], (pass c).scrubs 0 = true ∧ (pass c).scrubTurn 0 = true) ∧
    (late.scrubs 0 = true ∧ 240000000000 < late.clk.wall - (late.heddle 0).lastCompare) ∧
    (∀ t ∈ [s, bad], (aim t).scrubs 0 = true ∧ (∃ x ∈ (aim t).arr.targets, x.heddle = 0 ∧ x.dent = 7 ∧ x.scrubbed = false) ∧
      (aim t).repairable 0 = true ∧ (aim t).slotsRun (harnessOfHeddle 0) = false) ∧
    ((aim bad).badRows 0 (dentRows 7)).isEmpty = false ∧
    (s.up = true ∧ (hbmEnd - 1) / 4096 * 4096 < hbmEnd ∧ s.pwr.mode ≠ 3 ∧
      sumNat ((struckUnits (struck 1) (patternAddr 0) 4096).map (·.2.corrected)) = 1 ∧
      sumNat ((struckUnits (struck 0x10001) (patternAddr 0) 4096).map (·.2.detected)) = 1) := by
  dsimp only
  (repeat' apply And.intro) <;> first | decide +kernel | exact ⟨1, [], by decide +kernel, by decide⟩

theorem witness_ThermalThrottle :
    let grace (q : Int) : State := { live with thm := { request := true, moduleHot := q }, clk := { wall := 1000000000 } }
    let eval (q : Int) : State := { live with thm := { enforce := true, moduleHot := q, thermLen := 20 }, clk := { wall := 400000000 } }
    live.up = true ∧ (live.sec.screen = 0 ∧ ({ live with sec := { live.sec with screen := 2 } } : State).sec.screen = 2) ∧
    ((warm live 380).hotNow 0).1 = 380 ∧ ((warm live 367).hotNow 4).1 = 367 ∧ ((warm live 352).hotNow 4).1 = 352 ∧
    (live.booted = true ∧ (live.loom 0).retrimBusy = false ∧ (warm live 25).drifted 0 = true) ∧
    (∀ q ∈ [(380 : Int), 379, 368, 367], (grace q).up = true ∧ (grace q).thm.request = true ∧ (grace q).thm.enforce = false ∧
      1000000000 ≤ (grace q).clk.wall - (grace q).thm.requestWall ∧ (eval q).up = true ∧ (eval q).thm.enforce = true ∧
      40000000 ≤ (eval q).clk.wall - (eval q).thm.lastEval ∧
      ∀ w, (eval q).thm.thermChange = some w → 400000000 ≤ (eval q).clk.wall - w) ∧
    live.actsAs .weaver 64 := by
  dsimp only
  (repeat' apply And.intro) <;> decide +kernel

/-- The second conversion of a sensor at 110.0 degrees trips the module. -/
theorem witness_TripAndRestart :
    let hot : State := { live with thm := { sensors := [(0, { reading := 440, hot := 1 })] } }
    let x := (live.sensor 0).convert (live.soundReadings (sensorNear 0)) 100
    let y := (hot.sensor 0).convert (hot.soundReadings (sensorNear 0)) 440
    let cool : State := { live with pwr := { tripped := true }, thm := { coolSince := some 0 }, clk := { wall := 40000000000 } }
    let cold : State := { live with pwr := { tripped := true, coldStart := true } }
    (live.pwr.input = true ∧ live.pwr.oscFailed = false ∧ live.pwr.tripped = false) ∧
    (x.2 = false ∧ x.1.hot < 2 ∧ 0 ∉ sensorNear 0 ∧ ∀ k ∈ sensorNear 0, k ≠ 0 → (live.sensor k).reading < 400) ∧
    (hot.pwr.input = true ∧ hot.pwr.oscFailed = false ∧ y.2 = false ∧ hot.pwr.tripped = false ∧
      1 ≤ (hot.sensor 0).hot ∧ y.1.suspect = false) ∧
    (cool.pwr.input = true ∧ cool.pwr.oscFailed = false ∧ cool.pwr.tripped = true ∧ cool.pwr.coldStart = false ∧
      cool.thm.coolSince = some 0 ∧ 40000000000 ≤ cool.clk.wall - 0) ∧
    (cold.pwr.input = true ∧ cold.pwr.oscFailed = false ∧ cold.pwr.tripped = true ∧ cold.pwr.coldStart = true ∧
      cold.tooHot = false) := by
  dsimp only
  (repeat' apply And.intro) <;> decide +kernel

theorem witness_MonitorChannels :
    let m (c : Channel) : State := { live with mon := { calPhase := none, chans := (List.range 32).map fun n => (n, c) } }
    let full : Channel := { ready := true, gain := 2 ^ 20 }
    let cal : State := { live with mon := { calPhase := some 7 } }
    (∀ b ∈ [false, true], (m { ready := true, clearNext := b }).up = true ∧ (m { ready := true, clearNext := b }).mon.calPhase = none ∧
      (m { ready := true, clearNext := b }).mon.periodReq = none ∧ (∀ n, n < 32 → ((m { ready := true, clearNext := b }).chan n).ready = true ∧
        ((m { ready := true, clearNext := b }).chan n).clearNext = b)) ∧
    ((∀ n, n < 10 → ((m full).chan n).ready = true) ∧ (m full).pwr.capLen ≤ 64 ∧
      (after (.monPeriodEnd (List.replicate 32 (0xFFFFFF, false))) (m full)).any
        (fun t => decide (4000000000 < t.inputPower)) = true) ∧
    (cal.up = true ∧ cal.mon.calPhase = some 7 ∧ (7 : Nat) / 2 = 31 / 8 ∧ cal.mon.periodReq = none) ∧
    (live.actsPrv .weaver 64 ∧ (live.sel 64).mon = 0 ∧ live.mon.calPhase ≠ none ∧ (m full).actsPrv .weaver 64 ∧
      ({ live with acc := { live.acc with slots := [], sels := [(64, { mon := 31 })] } } : State).actsPrv .weaver 64) := by
  dsimp only
  (repeat' apply And.intro) <;> decide +kernel
/-! ### Contexts, plans, weights -/

/-- A plan of context 1 that passes the check under `aSet` with function table set 1: one region, no step. -/
def passingImage (succ : Nat := 0) : Bytes :=
  toLe 2 1 ++ toLe 1 succ ++ toLe 1 1 ++ toLe 4 1024 ++ toLe 4 1 ++ toLe 2 0 ++ toLe 2 1 ++ toLe 8 5 ++ toLe 4 16384 ++
    toLe 2 1 ++ toLe 2 0 ++ toLe 8 0 ++ toLe 4 0x80 ++ toLe 4 1 ++ toLe 40 0 ++ toLe 0x28 0 ++ aRegion 0x1000 0

/-- A recipe of one layer of 64 channels and one 8-bit tensor of 64 rows and one column. -/
def aRecipe : Bytes :=
  toLe 2 1 ++ toLe 2 1 ++ toLe 2 1 ++ toLe 58 0 ++
    (toLe 1 8 ++ toLe 7 0 ++ toLe 4 0x3F800000 ++ toLe 4 64 ++ toLe 8 0 ++ toLe 2 0 ++ toLe 2 1 ++ toLe 4 0) ++
    (toLe 1 8 ++ toLe 1 8 ++ toLe 2 0 ++ toLe 4 0x3F800000 ++ toLe 4 64 ++ toLe 4 1)

/-- A complete set: its one tensor lies in the auxiliary area. -/
def aSet (committed : Bool) : WeightSet := { committed := committed, recipe := aRecipe, aux := [⟨0, 0, 65, [0, 0, 0, 0]⟩] }

def tabled (s : State) : State := { s with sec := { s.sec with tableSet := 1 } }

theorem witness_ContextRegistersAct :
    let inState (n : Nat) : State := withCtx live { ctl := { state := n, plan := some (anImage 0 1 16 (stepRec 8 0 0 0xFFFF 8 0 0 0)) } }
    let at1 (s : State) : State := { s with acc := { s.acc with sels := [(64, { ctx := 1 })] } }
    (∀ n ∈ [0, 1, 2, 3, 4, 5], (at1 (inState n)).actsPrv .weaver 64 ∧ ((at1 (inState n)).sel 64).ctx = 1 ∧
      ((at1 (inState n)).ctx 1).ctl.state = n) ∧
    (({ live with rcv := { oos := true } } : State).actsPrv .weaver 64 ∧ ({ live with pwr := { mode := 2 } } : State).actsPrv .weaver 64 ∧
      ({ live with pwr := { target := some 2 } } : State).actsPrv .weaver 64 ∧ live.pwr.target = none ∧ live.pwr.mode ≠ 2) := by
  dsimp only
  (repeat' apply And.intro) <;> decide +kernel

theorem witness_PlansAreLoadedAndChecked :
    let checking : State := withCtx (tabled live) { ctl := { state := 1, opened := true, plan := some passingImage }, cur := aSet true }
    let bare : State := withCtx live { ctl := { state := 1, opened := true } }
    let g : GroupView := ⟨[], []⟩
    let two : State := { live with ctxs := [(1, { ctl := { state := 1 } }), (2, { ctl := { state := 1, checkFrom := 1 } })] }
    let load (n : Nat) : State := withCtx (boxed live 0x2000 [(0, 1), (3, n)]) { ctl := { opened := true } }
    (checking.ready = true ∧ (checking.ctx 1).ctl.state = 1 ∧
      (∀ d ∈ checking.ctxs, d.2.ctl.state = 1 → (checking.ctx 1).ctl.checkFrom ≤ d.2.ctl.checkFrom) ∧
      checking.planCheck 1 (some passingImage) (aSet true) false g = none ∧
      (withCtx live { ctl := { state := 1, opened := true, plan := some passingImage }, cur := aSet true }).planCheck 1
        (some passingImage) (aSet true) false g = some (0x0305, none)) ∧
    (bare.ready = true ∧ (bare.ctx 1).ctl.plan = none ∧ bare.planCheck 1 none {} false g = some (0x010B, none)) ∧
    ((two.ctx 1).ctl.state = 1 ∧ 1 ∈ two.ctxNums ∧ (two.ctx 1).ctl.checkFrom < (two.ctx 2).ctl.checkFrom) ∧
    (∀ n ∈ [0, 4096, 1015808 * 4096, 1015808 * 4096 + 1], (load n).awaits 0 0x2000 ∧
      ceilDiv ((load n).mailbox 0 |>.arg 3) 4096 = ceilDiv n 4096) ∧
    ((boxed live 0x2001 [(0, 256)]).awaits 0 0x2001 ∧ (withCtx (boxed live 0x2001 [(0, 1)]) (checking.ctx 1)).awaits 0 0x2001) ∧
    ((boxed live 0x2002 [(0, 256)]).awaits 0 0x2002 ∧ (boxed live 0x2002 [(0, 255)]).awaits 0 0x2002) ∧
    (∀ k ∈ [0, 1, 4, 5], (withCtx (boxed live 0x2003 [(0, 1), (1, 3), (2, k)]) { ctl := { opened := true, device := true } }).awaits 0 0x2003) := by
  (repeat' apply And.intro) <;> decide +kernel

theorem witness_ReadyAndLaunch :
    let k : CtxCtl := { state := 2, plan := some (anImage 0 1 16 (stepRec 1 0 0 0xFFFF 8 0 0 0)) }
    let waits : State := withHarness (withCtx live { ctl := k }) { state := 3, held := true, heldAt := 1 }
    let late : State := { waits with clk := { wall := 4000000001 } }
    (∀ x ∈ [(0, 1), (0, 2), (1, 2)], (member x.1 x.2 2 none).awake = true ∧ ((member x.1 x.2 2 none).ctx 1).ctl.state = 2 ∧
      (member x.1 x.2 2 none).armingDone 1 = true ∧ planPlace ((member x.1 x.2 2 none).image 1) = x.1 ∧
      planPlaces ((member x.1 x.2 2 none).image 1) = x.2) ∧
    (late.up = true ∧ (late.ctx 1).ctl.state = 2 ∧
      ∃ h ∈ late.planHarnesses 1, (late.harness h).held = true ∧ 4000000000 ≤ late.clk.wall - (late.harness h).heldAt) ∧
    (∀ p ∈ [0, 1], (member p 2 3 none).up = true ∧ (member p 2 3 none).seen 3 0 5 9 = false ∧ 1 ∈ (member p 2 3 none).inGroup 5) ∧
    ({ live with rcv := { seenMsgs := [(3, 0, 5, 9)] } } : State).seen 3 0 5 9 = true := by
  dsimp only
  (repeat' apply And.intro) <;> decide +kernel

theorem witness_LaunchAndAbort :
    let due : State := { member 0 1 3 (some 9) with clk := { pick := 9 } }
    let first (n : Nat) : State := { withCtx live { ctl := { state := n, firstReadyWall := some 0 } } with clk := { wall := 4000000000 } }
    let armed : State := { member 1 2 3 none with clk := { wall := 8000000000 } }
    let switches : State := withCtx live { (member 1 2 4 (some 0)).ctx 1 with sw := { state := 3, programs := [(1, 2)] } }
    ((member 1 2 3 none).up = true ∧ (member 1 2 3 none).seen 4 0 5 1024 = false ∧ 1 ∈ (member 1 2 3 none).inGroup 5 ∧
      (member 1 2 3 none).clk.pick + 1024 ≤ 1024 ∧ 1024 < (member 1 2 3 none 1).clk.pick + 1024 ∧ (member 1 2 4 (some 0)).seen 4 0 5 1024 = false) ∧
    (∀ n ∈ [0, 1, 2, 3, 4, 5], (member 1 2 n none).up = true ∧ 1 ∈ (member 1 2 n none).inGroup 5) ∧
    (switches.up = true ∧ 1 ∈ switches.inGroup 5 ∧ (switches.ctx 1).ctl.state = 4 ∧ 3 ≤ (switches.ctx 1).sw.state) ∧
    (∀ n ∈ [0, 1, 3, 4], (first n).up = true ∧ ((first n).ctx 1).ctl.firstReadyWall = some 0 ∧ ((first n).ctx 1).ctl.launchPick = none ∧
      4000000000 ≤ (first n).clk.wall - 0) ∧
    (armed.up = true ∧ (armed.ctx 1).ctl.state = 3 ∧ (armed.ctx 1).ctl.launchPick = none ∧
      8000000000 ≤ armed.clk.wall - (armed.ctx 1).ctl.readyWall) ∧
    (due.awake = true ∧ (due.ctx 1).ctl.state = 3 ∧ (due.ctx 1).ctl.launchPick = some due.clk.pick ∧ (due.ctx 1).ctl.cut = false ∧
      (due.ctx 1).ctl.stopEnd = none ∧ planPeriod (due.image 1) ≠ 0 ∧
      ∃ x ∈ planSteps (due.image 1), x.2.2.start = 0 ∧ x.2.2.phase = 0) := by
  dsimp only
  (repeat' apply And.intro) <;> decide +kernel

theorem witness_StopOfPlans :
    let ends : State := { withCtx live { ctl := { state := 5, stopEnd := some 9, plan := some [] } } with clk := { pick := 9 } }
    (∀ n ∈ [3, 4, 5], (member 1 2 n (some 0)).up = true ∧ ((member 1 2 n (some 0)).ctx 1).ctl.cut = false ∧ (member 1 2 n (some 0)).seenStop 5 9 = false ∧
      1 ∈ (member 1 2 n (some 0)).inGroup 5) ∧
    ({ live with rcv := { seenMsgs := [(6, 0, 5, 9)] } } : State).seenStop 5 9 = true ∧
    (ends.up = true ∧ (ends.ctx 1).ctl.state = 5 ∧ (ends.ctx 1).ctl.cut = false ∧ (ends.ctx 1).ctl.stopEnd = some 9 ∧
      9 ≤ ends.clk.pick ∧ (ends.ctx 1).ctl.plan.isSome = true) := by
  dsimp only
  (repeat' apply And.intro) <;> decide +kernel

/-- The key record's own verdict is a free value: both branches are reached by what the ciphers answer. -/
theorem witness_ContextsOpenAndClose :
    let opened (x : CtxCtl) (op : Nat) (args : Tab Nat) : State := withCtx (boxed live op args) { ctl := x }
    let key (k : CtxCtl) (ready ended : Bool) : State :=
      { opened k 0x1002 [(0, 1)] with sec := { live.sec with keysReady := ready, derivationEnded := ended } }
    (boxed live 0x1000 [(0, 255), (2, 1)]).awaits 0 0x1000 ∧ (boxed live 0x1000 [(0, 256)]).awaits 0 0x1000 ∧
    (boxed live 0x1000 [(0, 1)]).awaits 0 0x1000 ∧
    (opened { opened := true } 0x1001 [(0, 1)]).awaits 0 0x1001 ∧ (opened { opened := true, state := 1 } 0x1001 [(0, 1)]).awaits 0 0x1001 ∧
    (key { opened := true } true true).awaits 0 0x1002 ∧
    (∀ r ∈ [false, true], ∀ e ∈ [false, true], (key { opened := true, sealed := true } r e).awaits 0 0x1002 ∧
      (key { opened := true, sealed := true } r e).sec.debug = false ∧
      pastXfer 0 ((key { opened := true, sealed := true } r e).mailbox 0) (((key { opened := true, sealed := true } r e).mailbox 0).arg2 1) 2048 = false) ∧
    live.actsPrv .weaver 64 := by
  dsimp only
  (repeat' apply And.intro) <;> decide +kernel

/-- A descriptor of the 64 bytes of `aRecipe`'s tensor, all 0. -/
def aDesc (digest : Bytes) (map : Nat := 0) : Bytes := toLe 2 0 ++ toLe 1 9 ++ toLe 1 0 ++ toLe 4 0x3F800000 ++ toLe 8 0 ++ toLe 8 0 ++ toLe 8 map ++ digest ++ toLe 32 0

/-- An open load that is taken, one of a wrong digest, one without a spare; a sealed stream is what the free cipher says it
is, so its placement is shown on the stream. -/
theorem witness_LoadsAreAllOrNothing :
    let zeroBytes : Bytes := List.replicate 64 0
    let data (d : Bytes) : OpenData := ⟨d, zeroBytes, [], []⟩
    let s (n : Nat) : State := withCtx (boxed live 0x1004 [(0, 1)]) { ctl := { opened := true, auxSize := n }, cur := { recipe := aRecipe } }
    let d (g : Bytes) : OpenDesc := parseDesc ((s 0).hostData 0 ((s 0).mailbox 0) (((s 0).mailbox 0).arg2 1) 96 (aDesc g))
    let good : Bytes := sha256 zeroBytes
    let sealed (k : Bool) (n : Nat) : State :=
      withCtx (boxed live 0x1003 [(0, 1), (6, n)]) { ctl := { opened := true, sealed := true, keyHeld := k } }
    let stream : Bytes := toLe 4 1 ++ toLe 4 112 ++ toLe 56 0 ++ aRecipe ++ toLe 16 0
    (∀ n ∈ [0, 4096], (s n).awaits 0 0x1004 ∧ ((s n).ctx 1).ctl.sealed = false ∧ (d good).bad = false ∧
      (s n).loadTarget 1 0 = some { recipe := aRecipe }) ∧
    ((s 4096).placeOpen 1 false { recipe := aRecipe } (d good) ((s 4096).openData 0 ((s 4096).mailbox 0) aRecipe (d good) (data [])) =
      .ok ⟨{ recipe := aRecipe, aux := [⟨0, 0, 65, [0, 0, 0, 0]⟩] }, [], [(0, List.replicate 65 0)]⟩ ∧
      (s 4096).sparesShort { recipe := aRecipe } { recipe := aRecipe, aux := [⟨0, 0, 65, [0, 0, 0, 0]⟩] } = false ∧
      (s 4096).sparesShort {} { harnesses := List.range 128 } = true ∧
      (s 0).placeOpen 1 false { recipe := aRecipe } (d good) ((s 0).openData 0 ((s 0).mailbox 0) aRecipe (d good) (data [])) = .error 0x35 ∧
      (s 4096).placeOpen 1 false { recipe := aRecipe } (d zeroBytes) ((s 4096).openData 0 ((s 4096).mailbox 0) aRecipe (d zeroBytes) (data [])) =
        .error 0x16) ∧
    ((mapTiers (toLe 4 0)).filter (fun t => !live.tierInWindow t) = [0]) ∧
    ((sealed false 0).awaits 0 0x1003 ∧ (sealed true 0).awaits 0 0x1003 ∧ (sealed true 0).loadTarget 1 0 = some {} ∧
      openStream [] 0 0 ((sealed true 0).chunkAt 0 ((sealed true 0).mailbox 0) 0 []) = some [] ∧
      (match (sealed true 0).placeStream 1 false {} [] with | .error e => decide (e = 0x15) | .ok _ => false) = true ∧
      (match (sealed true 1).placeStream 1 false {} stream with | .error _ => false | .ok x => decide (x.1.set = { recipe := aRecipe })) = true) ∧
    (withCtx (sealed true 0) { ctl := { opened := true }, held := some ⟨0, [], 0, false, {}, {}, [], []⟩ }).awaits 0 0x1003 := by
  dsimp only
  (repeat' apply And.intro) <;> decide +kernel

theorem witness_HeldLoadsAndRelease :
    let w : Nat × ImageAt × Bytes := (0, ⟨5, 0, 0, 64, 0, 1, 0⟩, List.replicate 64 0)
    let h (ws : List (Nat × ImageAt × Bytes)) : HeldLoad := ⟨0, [0], 0, false, {}, { images := [⟨5, 0, 0, 64, 0, 1, 0⟩], harnesses := [0] }, ws, [1]⟩
    let s (ws : List (Nat × ImageAt × Bytes)) : State := withCtx (boxed live 0x1003 []) { ctl := { sealed := true }, held := some (h ws) }
    let late : State := { s [w] with clk := { wall := 4000000000 } }
    let zero := withHarness live { zeroing := true }
    let one := withHeddle live { zeroing := true, rows := [(0, 1)] }
    (∀ ws ∈ [[], [w]], (s ws).awake = true ∧ ((s ws).ctx 1).held = some (h ws) ∧ (warm (s ws)).awake = true) ∧
    (([w].filter (fun w => !(s [w]).mayWrite 1 (h [w]) w)) ≠ [] ∧ ([w].filter (fun w => !(warm (s [w])).mayWrite 1 (h [w]) w)) = []) ∧
    (late.up = true ∧ (late.ctx 1).held = some (h [w]) ∧ 4000000000 ≤ late.clk.wall - (h [w]).since ∧ 0 ∈ (h [w]).tiers ∧
      late.tierInWindow 0 = false ∧ ∀ t ∈ (h [w]).tiers, late.tierInWindow t = false → 0 ≤ t) ∧
    ((live.ctx 1).held = none) ∧
    ((warm zero).awake = true ∧ ((warm zero).harness 0).zeroing = true ∧ (warm zero).tierInWindow (tierOfHarness 0) = true) ∧
    ((warm one).awake = true ∧ ((warm one).harness 0).zeroing = false ∧ (warm one).tierInWindow (tierOfHarness 0) = true ∧
      0 ∈ heddlesOf 0 ∧ ((warm one).heddle 0).zeroing = true) ∧
    zero.tierInWindow (tierOfHarness 0) = false ∧
    ((live.harness 0).zeroing = false ∧ ∀ g ∈ heddlesOf 0, (live.heddle g).zeroing = false) := by
  dsimp only
  (repeat' apply And.intro) <;> decide +kernel

theorem witness_CommitStageAndRestore :
    let s (op : Nat) (args : Tab Nat) (x : Ctx) : State := withCtx (boxed live op args) x
    let opened : CtxCtl := { opened := true }
    let back : State := s 0x100A [(0, 1), (1, 1)] { ctl := opened, cur := aSet true }
    ((s 0x1005 [(0, 1)] { ctl := opened, cur := aSet false }).awaits 0 0x1005 ∧ (aSet false).complete = true ∧
      ({} : WeightSet).complete = false ∧ (s 0x1005 [(0, 1)] { ctl := opened, cur := aSet true }).awaits 0 0x1005 ∧
      (s 0x1005 [(0, 1), (1, 1)] { ctl := opened, staged := some (aSet false) }).awaits 0 0x1005) ∧
    ((s 0x1006 [(0, 1)] { ctl := opened, cur := aSet true }).awaits 0 0x1006 ∧ (s 0x1006 [(0, 1)] { ctl := opened }).awaits 0 0x1006) ∧
    ((s 0x100A [(0, 256)] {}).awaits 0 0x100A ∧ back.awaits 0 0x100A ∧
      (match back.restoreData 0 (back.mailbox 0) 1 [] ⟨aDesc (sha256 (List.replicate 64 0)), List.replicate 64 0, [], []⟩ with
        | .error _ => false | .ok rs => decide (rs = [])) = true ∧
      (match back.restoreData 0 (back.mailbox 0) 1 [] ⟨[], [], [], []⟩ with | .error e => decide (e = 0x11) | .ok _ => false) = true) := by
  dsimp only
  (repeat' apply And.intro) <;> decide +kernel

theorem witness_SwitchIsAcceptedAndDrained :
    let g : GroupView := ⟨[], []⟩
    let opened : CtxCtl := { opened := true }
    let sw (n : Nat) (p : Option Bytes) : State :=
      withCtx (tabled (boxed live 0x1008 [(0, 1), (1, 1)])) { ctl := { opened with state := n, successor := p }, staged := some (aSet true) }
    let runs (place places : Nat) : CtxCtl :=
      { state := 4, launchPick := some 0, plan := some (anImage place places 16 (stepRec 8 0 0 0xFFFF 8 0 0 0)) }
    let drained (place places : Nat) : State :=
      { withCtx live { staged := some (aSet true), sw := { state := 3, idleFrom := some 0 }, ctl := runs place places } with
        clk := { pick := 100 } }
    let limit : State := withCtx live { ctl := { launchPick := some 0 }, sw := { state := 3 } }
    let dropped (b : Bool) : State := withCtx (boxed live 0x1009 [(0, 1)])
      { staged := some (aSet true), held := some ⟨1, [0], 0, b, {}, {}, [], []⟩ }
    ((withCtx (boxed live 0x1007 [(0, 1), (3, 64)]) { ctl := opened }).awaits 0 0x1007 ∧ (boxed live 0x1007 []).awaits 0 0x1007 ∧
      (withCtx (boxed live 0x1007 [(0, 1), (3, poolBlocks * 4096 + 1)]) { ctl := opened }).awaits 0 0x1007) ∧
    ((∀ n ∈ [0, 4], (sw n (some passingImage)).awaits 0 0x1008 ∧
        (sw n (some passingImage)).planCheck 1 ((sw n (some passingImage)).ctx 1).nextPlan (aSet true) false g = none) ∧
      (sw 0 none).awaits 0 0x1008 ∧ (sw 0 none).planCheck 1 ((sw 0 none).ctx 1).nextPlan (aSet true) false g = some (0x010B, none) ∧
      (boxed live 0x1008 []).awaits 0 0x1008) ∧
    (∀ b ∈ [true, false], (dropped b).awaits 0 0x1009 ∧ ((dropped b).ctx 1).staged.isSome = true ∧ ((dropped b).ctx 1).sw.flipPick = none ∧
      ((dropped b).ctx 1).held.map (fun h => (h.staged, h.mbx)) = some (b, 1)) ∧
    ((boxed live 0x1009 []).awaits 0 0x1009 ∧ (withCtx (boxed live 0x1009 [(0, 1)]) { staged := some (aSet true) }).awaits 0 0x1009) ∧
    (∀ x ∈ [(0, 1), (0, 2), (1, 2)], (drained x.1 x.2).awake = true ∧ ((drained x.1 x.2).ctx 1).ctl.launchPick.getD 0 +
      (0 + 1) * planPeriod ((drained x.1 x.2).image 1) ≤ (drained x.1 x.2).clk.pick) ∧
    (limit.up = true ∧ (limit.ctx 1).sw.state = 3 ∧ (limit.ctx 1).sw.limitReached = false ∧ (limit.ctx 1).ctl.launchPick = some 0 ∧
      0 + ((limit.ctx 1).sw.fromIter + (limit.ctx 1).sw.drainIter) * planPeriod (limit.image 1) ≤ limit.clk.pick) := by
  dsimp only
  (repeat' apply And.intro) <;> decide +kernel

theorem witness_SwitchFlips :
    let flip (p : Option Bytes) : State :=
      { withCtx live { ctl := { state := 4, successor := p }, sw := { state := 4, flipPick := some 9 }, staged := some (aSet true) } with
        clk := { pick := 9 } }
    let runs (place : Nat) : CtxCtl :=
      { state := 4, launchPick := some 0, plan := some (anImage place 2 16 (stepRec 8 0 0 0xFFFF 8 0 0 0)) }
    let drains (place : Nat) (f : Option Nat) : State :=
      withCtx live { sw := { state := 4, switchId := 7, flipPick := f, drainedFrom := [(0, 7)] }, ctl := runs place }
    let waited : State := { drains 0 none with clk := { wall := 4000000000 } }
    let saw : State := { live with rcv := { seenMsgs := [(9, 1, 5, 7), (0xA, 0, 5, 1024)] } }
    let waits : State :=
      { withCtx live { ctl := runs 0, sw := { state := 4, flipPick := some 9, programs := [(0, 1)] }, staged := some (aSet true) } with
        clk := { pick := 9 } }
    (∀ p ∈ [none, some passingImage], (flip p).awake = true ∧ ((flip p).ctx 1).ctl.state = 4 ∧ ((flip p).ctx 1).sw.state = 4 ∧
      ((flip p).ctx 1).sw.flipPick = some (flip p).clk.pick ∧ ((flip p).ctx 1).sw.programs = []) ∧
    (waits.awake = true ∧ (waits.ctx 1).ctl.state = 4 ∧ (waits.ctx 1).sw.state = 4 ∧
      (waits.ctx 1).sw.flipPick = some waits.clk.pick ∧ (waits.ctx 1).sw.programs = [(0, 1)] ∧
      waits.tierInWindow (tierOfHarness 1) = false) ∧
    (∀ q ∈ [0, 1], (drains q none).up = true ∧ (drains q none).seen 9 1 5 7 = false ∧ 1 ∈ (drains q none).inGroup 5 ∧
      planPlace ((drains q none).image 1) = q) ∧
    ((drains 1 none).seen 0xA 0 5 1024 = false ∧ (drains 1 none).clk.pick + 1024 ≤ 1024 ∧ (drains 1 none).seen 0xA 0 5 1023 = false ∧
      (drains 1 (some 5)).seen 0xA 0 5 1024 = false ∧ ((drains 1 none).ctx 1).sw.switchId % 2 ^ 32 = 7) ∧
    (saw.seen 9 1 5 7 = true ∧ saw.seen 0xA 0 5 1024 = true) ∧
    (waited.up = true ∧ 3 ≤ (waited.ctx 1).sw.state ∧ (waited.ctx 1).sw.flipPick = none ∧ planPlace (waited.image 1) = 0 ∧
      1 < planPlaces (waited.image 1) ∧
      planPlaces (waited.image 1) = 2 ∧ (1, (waited.ctx 1).sw.switchId) ∉ (waited.ctx 1).sw.drainedFrom ∧
      4000000000 ≤ waited.clk.wall - (waited.ctx 1).sw.acceptWall) ∧
    (∀ p ∈ [0, 1], p = 0 ∨ (1 : Fin 4096).val = p) := by
  dsimp only
  (repeat' apply And.intro) <;> decide +kernel
/-! ### Serving, pages, health -/

/-- A queue entry of stream 2, tag 9. -/
def anEntry (opcode prompt maxNew cancelTag : Nat) : Bytes :=
  toLe 2 opcode ++ toLe 2 2 ++ toLe 4 9 ++ toLe 8 0 ++ toLe 4 prompt ++ toLe 4 maxNew ++ toLe 12 0 ++ toLe 2 1 ++ toLe 2 0 ++
    toLe 4 0x3F800000 ++ toLe 8 0 ++ toLe 4 cancelTag ++ toLe 8 0

/-- Ring 0 of 16 entries in context 1, one entry waiting; stream 2 is open with four pages. -/
def ringed (g : Ring) (qs : List Request := []) : State :=
  let s : State := { withCtx live { ctl := { opened := true } } with
    srv := { rings := [(0, g)], streams := [(2, { opened := true, ctx := 1 })], reqs := qs }
    kvt := { tableBase := 0x10000, arenas := [(1, { base := 0x100000, frames := 4, frameBlk := 2 })] } }
  s.write (s.smapAddr 2) (smapBytes 0 4 1 0 true)
def aRing : Ring := { up := true, ctx := 1, n := 4, sqTail := 1, spillEntries := 16 }

/-- The commands' mailbox, in a state. -/
def commands (s : State) (op : Nat) (args : Tab Nat) : State := boxed s op args

theorem witness_RingsAndBudgets :
    let s := ringed aRing
    let down : State := { s with rcv := { domains := [(domKey 0xA 6, { phase := 1 })] } }
    let setup (n : Nat) : State := commands s 0x3000 [(0, 1), (2, 1), (7, n), (10, 16)]
    let fill : State := { live with srv := { tenants := [(0, { rate := 5, cap := 8, bal := 6 }), (1, { rate := 5, cap := 8, bal := 9 })] }, clk := { wall := 4000000000 } }
    (s.actsAs .weaver 64 ∧ (s.ring 0).up = true ∧ s.hostDown = false ∧ (s.ring 1).up = false ∧ down.actsAs .weaver 64 ∧ down.hostDown = true) ∧
    ((setup 4).awaits 0 0x3000 ∧ (setup 4).setupRefused ((setup 4).mailbox 0) = false ∧ (setup 3).awaits 0 0x3000 ∧
      (setup 3).setupRefused ((setup 3).mailbox 0) = true) ∧
    ((commands s 0x3001 [(0, 0)]).awaits 0 0x3001 ∧ (ringed aRing [aReq 0]).pendingOf 0 = [aReq 0] ∧ (ringed aRing [aReq 0]).admittedOf 0 = [] ∧
      1 ≤ (ringed aRing [aReq 0]).room 0 ∧ (commands (ringed aRing [aReq 1]) 0x3001 [(0, 0)]).awaits 0 0x3001 ∧
      (ringed aRing [aReq 1]).admittedOf 0 ≠ []) ∧
    ((commands live 0x3006 [(0, 3)]).awaits 0 0x3006 ∧ live.enabled = [] ∧ (withCtx live { ctl := { state := 1 } }).enabled ≠ []) ∧
    (fill.up = true ∧ fill.srv.refilled < fill.clk.wall / 4000000000) := by
  dsimp only
  (repeat' apply And.intro) <;> decide +kernel

theorem witness_RequestsAreFetchedAndCancelled :
    let s := ringed aRing
    let busy := ringed aRing [aReq 0]
    let full := ringed { aRing with unread := 16, spilled := List.replicate 16 [] }
    let last : State := ringed { aRing with unread := 16, spilled := List.replicate 15 [] } [aReq 0]
    (entOpcode (anEntry 1 1 1 0) ≠ 2 ∧ entOpcode (anEntry 1 1 1 0) ≠ 3 ∧ entOpcode (anEntry 2 1 1 0) = 2) ∧
    (∀ o ∈ [1, 2], s.canFetch 0 = true ∧ s.entStatus 0 (anEntry o 1 1 0) = 0 ∧ s.promptFits (entPromptLen (anEntry o 1 1 0)) = true) ∧
    (s.entStatus 0 (anEntry 2 1 2 0) = 0x11 ∧ s.entStatus 0 (anEntry 1 1 1024 0) = 0x31 ∧ s.entStatus 0 (anEntry 1 1 1023 0) = 0 ∧
      1 ≤ s.room 0 ∧ full.room 0 = 0 ∧ (ringed {}).canFetch 0 = false ∧ s.promptFits (2 ^ 29 + 1) = false) ∧
    ((commands live 0x2000 []).serves = true ∧ readsHost 0x2000 = true ∧ viaXfer 0 ((commands live 0x2000 []).mailbox 0) = false ∧
      (commands live 0x2000 []).cmdBarred 0 ((commands live 0x2000 []).mailbox 0) = false) ∧
    (entOpcode (anEntry 3 0 0 9) = 3 ∧ s.cancelOk 0 (anEntry 3 0 0 9) = true ∧ s.cancelOk 0 (anEntry 3 1 0 9) = false ∧
      s.cancelTarget 2 9 = none ∧ s.cancelRoom 0 none = true ∧
      full.cancelRoom 0 none = false) ∧
    (∀ n ∈ [0, 1, 2, 3, 4], (ringed aRing [aReq n]).canFetch 0 = true ∧ (ringed aRing [aReq n]).cancelTarget 2 9 = some (aReq n) ∧
      (ringed aRing [aReq n]).cancelRoom 0 (some (aReq n)) = true ∧ ((ringed aRing [aReq n]).ring (aReq n).ring).up = true) ∧
    ((commands busy 0x3005 [(0, 2), (1, 9)]).awaits 0 0x3005 ∧ (commands s 0x3005 [(0, 2), (1, 9)]).awaits 0 0x3005 ∧
      last.cancelTarget 2 9 = some (aReq 0) ∧ last.cancelRoom 0 (some (aReq 0)) = false) := by
  dsimp only
  (repeat' apply And.intro) <;> decide +kernel

theorem witness_PagesAndStreams :
    let s (op : Nat) (args : Tab Nat) : State := commands (ringed aRing) op args
    let batch (op : Nat) (args : Tab Nat) : State := commands (ringed aRing [aReq 1]) op args
    let waits : State := { s 0x3020 [(0, 2)] with kvt := { waitingCmds := [(0, .unmap 2 0 0)] } }
    let mapped : State := (s 0x3021 [(0, 2)]).write 0x10000 (ptBytes true true false 1 0 0x100000 0 2 0)
    (waits.awaits 0 0x3020 ∧ waits.pageWaits 0 = true) ∧
    ((s 0x3020 [(0, 2), (3, 0x100000)]).awaits 0 0x3020 ∧ (s 0x3020 [(0, 2), (3, 0x100000)]).pageWaits 0 = false ∧
      (ringed aRing).mapRefused 2 0 0 0x100000 false = false ∧ (ringed aRing).mapRefused 2 0 0 0x101000 false = true ∧
      (ringed aRing).mapRefused 2 0 4 0x100000 false = true ∧ (ringed aRing).mapRefused 2 0 3 0x106000 false = false ∧
      (ringed aRing).inBatch 2 = false) ∧
    ((batch 0x3020 [(0, 2), (3, 0x100000)]).awaits 0 0x3020 ∧ (batch 0x3020 []).inBatch 2 = true ∧ (batch 0x3020 []).pageWaits 0 = false ∧
      (batch 0x3020 []).mapRefused 2 0 0 0x100000 false = false ∧ (batch 0x3021 [(0, 2)]).awaits 0 0x3021) ∧
    (mapped.awaits 0 0x3021 ∧ mapped.pageWaits 0 = false ∧ mapped.smapValid 2 = true ∧ mapped.smapPages 2 = 4 ∧
      (let e := mapped.ptEntry (mapped.ptIndex 2 0 0); ptValid e = true ∧ ptStream e = 2 ∧ ptLayer e = 0 ∧ ptPage e = 0) ∧
      (s 0x3021 [(0, 2), (2, 3)]).awaits 0 0x3021 ∧ ptValid ((s 0x3021 []).ptEntry ((s 0x3021 []).ptIndex 2 0 3)) = false ∧
      (s 0x3021 [(0, 2), (2, 4)]).awaits 0 0x3021) ∧
    ((s 0x3002 [(0, 65535), (1, 1), (3, 2097151), (4, 65535), (6, 65535)]).awaits 0 0x3002 ∧ (ringed aRing).ownStream 1 65535 = true ∧
      ((ringed aRing).ctx 1).ctl.opened = true ∧ (s 0x3002 [(0, 2)]).awaits 0 0x3002) ∧
    (∀ o ∈ [0x3003, 0x3004], (s o [(0, 2)]).awaits 0 o ∧ (ringed aRing).streamBusy 2 = false ∧ (batch o [(0, 2)]).awaits 0 o ∧
      (batch o [(0, 2)]).streamBusy 2 = true) := by
  dsimp only
  (repeat' apply And.intro) <;> decide +kernel

/-- Whether a pack object is proven is a free value; a revocation object is refused whatever it is. -/
theorem witness_HealthHistory :
    let e (k : Nat) : HealthEvent := ⟨0, 0, k, 1, 0, 0, 5, 0, 0⟩
    let q (k : Nat) : State := { live with health := { queue := [e k], events := [e 3, e 4] } }
    let cap : Capture := ⟨1, 0, 3, [(1, 0)], [], 0⟩
    let win (h : Health) : State := { stepping 0 (stepRec 0xA 0x100 0 0xFFFF 8 0 0 0) with health := h }
    let box (op : Nat) (args : Tab Nat) : State := commands live op args
    let pack (k n : Nat) : Health := { pack := [⟨k, n, [], 0⟩] }
    (∀ k ∈ [0, 1, 2, 8, 9, 0xA, 0xB, 0xC, 0xD], (q k).up = true ∧ (q k).health.queue = [e k]) ∧
    (threeInSpan ((q 3).health.writeEvent.counted 1 5) = true ∧ threeInSpan ((q 0).health.writeEvent.counted 1 5) = false) ∧
    live.powered = true ∧ (box 0x4000 [(2, 20)]).awaits 0 0x4000 ∧ (box 0x4001 [(1, 3)]).awaits 0 0x4001 ∧
    ((box 0x4005 [(0, 64)]).awaits 0 0x4005 ∧ (box 0x4005 [(0, 63)]).awaits 0 0x4005 ∧
      ([(63, cap)] : Tab Capture).find? (fun e => e.1 == 63) = some (63, cap)) ∧
    ((box 0x4002 [(0, 1), (1, 4095)]).awaits 0 0x4002 ∧ live.health.queue = [] ∧ live.health.events = [] ∧ live.enabled = [] ∧ 4095 < unitCount 1 ∧ unitCount 1 ≤ 4096) ∧
    ((box 0x4003 [(2, 0x1000001)]).awaits 0 0x4003 ∧ (box 0x4003 [(2, 64)]).awaits 0 0x4003 ∧
      objType (toLe 4 0 ++ toLe 2 7) = 7 ∧ objStatus 0 (toLe 4 0 ++ toLe 2 7) = 0x11) ∧
    (box 0x4004 []).awaits 0 0x4004 ∧
    ((win { captures := [(5, cap)] }).mayStart 1 0 0 0xA (aDue 0) ∧
      testUnit 0 ((win {}).stepAt 1 0 0) = (1, 0) ∧ ({ captures := [(5, cap)] } : Health).captureFor (1, 0) = some (5, cap) ∧
      (pack 1 8).captureFor (1, 0) = none ∧ (pack 1 8).itemFor (1, 0) 8 = some ⟨1, 8, [], 0⟩ ∧
      (pack 1 9).itemFor (1, 0) 8 = none ∧ (pack 3 8).itemFor (3, 0) 8 = some ⟨3, 8, [], 0⟩) := by
  dsimp only
  (repeat' apply And.intro) <;> decide +kernel
/-! ### Faults and recovery -/

/-- A recovery domain in a phase. -/
def withDomain (s : State) (kind idx : Nat) (d : Domain) : State := { s with rcv := { s.rcv with domains := [(domKey kind idx, d)] } }

theorem witness_DetectorsFenceTheirDomain :
    let slow : State := { boxed live 0x3020 [] with clk := { wall := 8000000000 } }
    let r := stepRec 3 0 0 0xFFFF 8 0 0 0
    let overran (c : Bool) : State := { stepping 0 r with
      ctxs := [(1, { ctl := { opened := true, state := 4, cut := c, launchPick := some 0, plan := some (anImage 0 1 16 r) } })]
      sched := { runs := [aRun 0 0 none] }, clk := { pick := 72 } }
    let starved : State := { stepping 0 r with sched := { due := [{ aDue 0 with voidEnd := 8 }] }, clk := { pick := 72 } }
    let reset (k i : Nat) : State := boxed live 0x4013 [(0, k), (1, i)]
    (live.awake = true ∧ live.up = true ∧ live.ready = true ∧ live.troubled 5 0 = false ∧ (withDomain live 5 0 { phase := 3 }).awake = true ∧
      (withDomain live 5 0 { phase := 3 }).troubled 5 0 = true) ∧
    (slow.booted = true ∧ slow.limitFrom (slow.mailbox 0) = some 0 ∧ (slow.mailbox 0).busy = true ∧
      mailboxLimit (slow.mailbox 0) ≤ slow.clk.wall - 0) ∧
    (live.actsPrv .weaver 64 ∧ (live.sel 64).harn < 4096) ∧
    (∀ c ∈ [false, true], (overran c).up = true ∧ (overran c).sched.runs.find? (fun r => sameRun 1 0 0 r) = some (aRun 0 0 none) ∧
      (aRun 0 0 none).began + ((overran c).stepAt 1 0 0).len + 64 ≤ (overran c).clk.pick ∧
      (overran c).suppresses 1 0 ((overran c).stepAt 1 0 0) = false ∧ ((overran c).ctx 1).ctl.cut = c) ∧
    (starved.up = true ∧ (∃ d ∈ starved.sched.due, sameStep 1 0 0 d = true ∧ d.void = false ∧ d.voidEnd + 64 ≤ starved.clk.pick) ∧
      (starved.ctx 1).ctl.state = 4 ∧ (starved.ctx 1).ctl.cut = false) ∧
    ((live.domain 0xB 0).phase = 0 ∧ ((withDomain live 0xB 0 { phase := 2 }).domain 0xB 0).phase ≠ 0) ∧
    (∀ x ∈ [(1, 4096), (1, 4095), (0xA, 0), (0xB, 0), (9, 3)], (reset x.1 x.2).awaits 0 0x4013) ∧
    (domainCount 1 ≤ 4096 ∧ 4095 < domainCount 1 ∧ live.troubled 1 4095 = false) ∧
    ((withDomain (reset 9 3) 9 3 { mbx := some 0 }).awaits 0 0x4013 ∧
      (withDomain (reset 9 3) 9 3 { mbx := some 0 }).rcv.domains.any (fun d => d.2.mbx == some 0) = true ∧
      (withDomain (reset 9 3) 9 3 { retired := true }).awaits 0 0x4013) := by
  dsimp only
  (repeat' apply And.intro) <;> decide +kernel

theorem witness_CutsNoticesAndStorms :
    let retire (k i : Nat) : State := boxed live 0x4014 [(0, k), (1, i)]
    let n : FaultNotice := ⟨2, 5, 7, 3, 9, 5⟩
    let storm (d : Domain) (r : List LogEntry) : State :=
      { live with rcv := { stormOpen := true, latched := r, domains := [(domKey 9 3, d)] }, clk := { elapsed := 65536 } }
    let root : LogEntry := ⟨0, 0, 0, 9, 1, 3, true, true, false, false, false, 0⟩
    let s := storm { undecided := [30], starts := [0, 10, 20], phase := 2 } [root]
    (∀ x ∈ [(9, 4), (0xA, 0), (0xB, 0), (9, 3)], (retire x.1 x.2).awaits 0 0x4014) ∧ (live.domain 9 3).retired = false ∧
    (∀ k ∈ [2, 4, 5], (member 1 2 k (some 0)).up = true ∧ (member 1 2 k (some 0)).seen 7 2 5 9 = false ∧
      (1 ∈ (member 1 2 k (some 0)).ofGroup 5) ∧ ((member 1 2 k (some 0)).ctx 1).ctl.state = k ∧ (member 1 2 k (some 0)).seen 8 2 5 9 = false) ∧
    (({ live with rcv := { seenMsgs := [(7, 2, 5, 9), (8, 2, 5, 9)] } } : State).seen 7 2 5 9 = true ∧
      ({ live with rcv := { seenMsgs := [(7, 2, 5, 9), (8, 2, 5, 9)] } } : State).seen 8 n.place n.group n.originPick = true) ∧
    (s.powered = true ∧ s.rcv.stormOpen = true ∧ 65536 ≤ s.clk.elapsed - s.rcv.stormLast ∧ firstOf s.rcv.latched = some root ∧
      (s.domain 9 3).undecided = [30] ∧ (s.domain 9 3).starts = [0, 10, 20] ∧ (30 : Nat) - 0 < 2400000000000 ∧ (s.domain 9 3).phase = 2) ∧
    ((storm { undecided := [30], starts := [0, 10, 20] } [root]).domain 9 3).retired = false ∧
    firstOf (storm { undecided := [30] } []).rcv.latched = none ∧ live.rcv.stormOpen = false ∧
    ({ live with rcv := { stormOpen := true }, clk := { elapsed := 65535 } } : State).clk.elapsed - 0 < 65536 := by
  dsimp only
  (repeat' apply And.intro) <;> decide +kernel

theorem witness_PhasesOfRecovery :
    let r := stepRec 3 0 0 0xFFFF 8 0 0 0
    let ph (k i p : Nat) : State := withDomain live k i { phase := p }
    let flying : State := { withDomain (stepping 0 r) 9 0 { phase := 2, drainBy := 100 } with sched := { runs := [aRun 0 0 none] } }
    let doomed : State := withDomain live 9 3 { phase := 3, doomed := true }
    let unread : Dump := ⟨9, 1, 3, 0, 0, 0, 0, [], false, false, false, false, 0, 0, []⟩
    let late (k i n : Nat) : State := { withDomain live k i { phase := 5 } with clk := { elapsed := 10 ^ 12 * n, wall := 10 ^ 12 * n } }
    let full : State := { ph 9 3 3 with rcv := { (ph 9 3 3).rcv with dumps := List.replicate 63 unread } }
    (live.powered = true ∧ ((ph 9 3 2).domain 9 3).phase = 2 ∧ (ph 9 3 2).drained 9 3 = true ∧ (flying.domain 9 0).phase = 2 ∧
      flying.drained 9 0 = false) ∧
    ((makeRoom false ((ph 9 3 3).makeDump 9 3 []).size (ph 9 3 3).rcv.dumps).2 = true ∧
      (makeRoom false (full.makeDump 9 3 []).size full.rcv.dumps).2 = false ∧
      ((ph 9 3 3).domain 9 3).doomed = false ∧ (doomed.domain 9 3).phase = 3 ∧ (doomed.domain 9 3).doomed = true ∧
      ((ph 0xB 0 3).domain 0xB 0).phase = 3) ∧
    (∀ x ∈ [(9, 3), (0xA, 0)], (late x.1 x.2 1).restoreLate x.1 x.2 = true ∧ (late x.1 x.2 0).restoreLate x.1 x.2 = false) ∧
    (∀ h ∈ domainHarnesses 1 4095, notedNow ((ph 1 4095 5).harness h).setAt 8 0 = false) ∧
    (∀ x ∈ [(1, 4095), (9, 3), (0xA, 0), (0xA, 1)], ((ph x.1 x.2 4).domain x.1 x.2).phase = 4 ∧ ((ph x.1 x.2 5).domain x.1 x.2).phase = 5) ∧
    ((ph 9 3 5).restorable 9 3 = true ∧ (ph 7 3 5).restorable 7 3 = false ∧ live.hs.shut = false) := by
  dsimp only
  (repeat' apply And.intro) <;> decide +kernel

/-- Of a word of 64 bits, one bit struck is corrected and two are not. -/
theorem witness_DumpsAndReturn :
    let d : Dump := ⟨9, 1, 3, 7, 0, 0, 0, [], false, false, false, false, 0, 0, []⟩
    let e : LogEntry := ⟨1, 0, 0, 9, 1, 3, true, true, false, false, false, 0⟩
    let s (op : Nat) (args : Tab Nat) : State := { boxed live op args with rcv := { dumps := [d], log := [e] } }
    let log : State := s 0x4012 [(1, 2)]
    ((secded 1).detected = 0 ∧ (secded 3).detected ≠ 0) ∧
    ((s 0x4010 [(0, 8)]).awaits 0 0x4010 ∧ (s 0x4010 [(0, 8)]).namedDump 8 = none ∧ (s 0x4010 [(0, 7), (3, 128)]).awaits 0 0x4010 ∧
      (s 0x4010 []).namedDump 7 = some d ∧ (s 0x4010 []).namedDump 0xFFFFFFFF = some d ∧ (∀ b ∈ [false, true],
        (Dump.bytes { d with damaged := d.damaged || b } ((s 0x4010 []).dumpRoot d)).length = 128) ∧
      pastXfer 0 ((s 0x4010 [(0, 7), (3, 128)]).mailbox 0) (((s 0x4010 [(0, 7), (3, 128)]).mailbox 0).arg2 1) 128 = false) ∧
    ((s 0x4011 [(0, 8)]).awaits 0 0x4011 ∧ (s 0x4011 [(0, 7)]).awaits 0 0x4011) ∧
    (log.awaits 0 0x4012 ∧ (log.rcv.log.reverse.filter (fun e => decide ((log.mailbox 0).arg 0 ≤ e.seq ∧
        e.seq < (log.mailbox 0).arg 0 + (log.mailbox 0).arg 1)))[0]? = some e ∧
      pastXfer 0 (log.mailbox 0) ((log.mailbox 0).arg2 2) (32 * (log.mailbox 0).arg 1) = false) ∧
    ((s 0x4015 []).awaits 0 0x4015 ∧ ({ boxed live 0x4015 [] with rcv := { oos := true } } : State).awaits 0 0x4015) := by
  dsimp only
  (repeat' apply And.intro) <;> decide +kernel

/-! ### Links and twins -/

/-- Port 3, in a state. -/
def withPort (s : State) (x : Port) : State := { s with ports := [(3, x)] }

theorem differs_of_complement (w : Word) : w ≠ ~~~w := by
  intro h
  have := congrArg (·.getLsbD 0) h
  simp at this

/-- A flit of TYPE `t` and SEQ `seq`, sound or not. -/
def aFlit (t seq : Nat) (sound : Bool) : Flit :=
  let b : Bytes := toLe 1 t ++ toLe 2 seq ++ toLe 249 0
  ⟨b, if sound then crc32 (slice b 0 252) else ~~~crc32 (slice b 0 252)⟩

theorem aFlit_sound (t seq : Nat) : crc32 (slice (aFlit t seq true).bytes 0 252) = (aFlit t seq true).crc := rfl
theorem aFlit_broken (t seq : Nat) : crc32 (slice (aFlit t seq false).bytes 0 252) ≠ (aFlit t seq false).crc := differs_of_complement _

theorem witness_XeastFlits :
    let body (t seq : Nat) : Bytes := slice (aFlit t seq true).bytes 0 252
    crc32 (slice (aFlit 1 0 true).bytes 0 252) = (aFlit 1 0 true).crc ∧
    crc32 (slice (aFlit 1 0 false).bytes 0 252) ≠ (aFlit 1 0 false).crc ∧
    fld (byteAt (body 1 0) 0) 0 4 = 1 ∧ fld (le (body 1 5) 1 2) 0 12 = 5 ∧ fld (byteAt (body 0x43 0) 0) 0 4 = 3 ∧
    bitOf (byteAt (body 0x43 0) 0) 6 = true :=
  ⟨aFlit_sound 1 0, aFlit_broken 1 0, by decide +kernel, by decide +kernel, by decide +kernel, by decide +kernel⟩

theorem witness_XeastPorts :
    let up : Port := { state := 2, unacked := [(0, 0, 0)] }
    let sel (s : State) : State := { s with acc := { s.acc with sels := [(64, { port := 3 })] } }
    let late : State := { withPort live up with clk := { elapsed := 256 } }
    let re : Port := { state := 2, retrain := true, identSeen := true }
    let slow : State := { withPort live re with clk := { wall := 20000001 } }
    let used : State := sel { stepping 0 (stepRec 5 3 0 0xFFFF 8 0 0 0) with ports := [(3, { state := 2 })] }
    (∀ n ∈ [1, 2], (withPort live { state := n }).awake = true ∧ ((withPort live { state := n }).port 3).state = n) ∧
    (late.awake = true ∧ (late.port 3).state = 2 ∧ (late.port 3).retrain = false ∧ (late.port 3).unacked ≠ [] ∧
      (late.port 3).ackPick + 256 ≤ late.clk.elapsed) ∧
    ((withPort live { up with resends := 8 }).awake = true ∧ 8 ≤ ((withPort live { up with resends := 8 }).port 3).resends ∧
      (sel (withPort live up)).actsPrv .weaver 64 ∧ ((sel (withPort live up)).sel 64).port = 3 ∧ (sel (withPort live re)).actsPrv .weaver 64) ∧
    ((withPort live re).awake = true ∧ ((withPort live re).port 3).retrain = true ∧ ((withPort live re).port 3).identSeen = true ∧
      ((withPort live re).port 3).wrongPeer = false ∧ (withPort live re).clk.wall ≤ ((withPort live re).port 3).retrainWall + 20000000) ∧
    (slow.awake = true ∧ (slow.port 3).state = 2 ∧ slow.troubled 7 3 = false ∧ (slow.port 3).retrain = true ∧
      (slow.port 3).retrainWall + 20000000 < slow.clk.wall ∧ ((withPort live { re with wrongPeer := true }).port 3).wrongPeer = true ∧
      4 ≤ (({ up with retrainStarts := [0, 1, 2, 3] } : Port).retrainStarts.filter (fun w => decide (live.clk.wall < w + 4000000000))).length) ∧
    (used.actsPrv .weaver 64 ∧ (used.sel 64).port = 3 ∧ used.portInPlan 3 = true ∧ (sel live).portInPlan 3 = false ∧ (sel live).actsPrv .weaver 64) ∧
    ((withPort live { state := 1 }).awake = true ∧ ((withPort live { state := 1 }).port 3).enable = true ∧
      ((withPort live re).port 3).equalised = false ∧ ((withPort live { re with equalised := true }).port 3).equalised = true ∧
      ((withPort live { state := 1 }).port 3).equalised = false ∧ ((withPort live { state := 1, equalised := true }).port 3).equalised = true ∧
      live.twinWired 33 7 32 = true ∧ live.twinWired 33 7 31 = false) ∧
    ((withPort (member 0 2 4 (some 0)) up).awake = true ∧ 1 ∈ (withPort (member 0 2 4 (some 0)) up).inGroup 5 ∧
      ((withPort (member 0 2 4 (some 0)) up).port 3).state = 2 ∧ (withPort live up).inGroup 5 = [] ∧
      (withPort (member 0 2 4 (some 0)) up).seen 2 1 5 7 = false) := by
  dsimp only
  (repeat' apply And.intro) <;> decide +kernel

theorem witness_TwinPair :
    let wired (s : State) : State := { s with ports := [(33, { state := 2 })] }
    let offer : State := { wired (withCtx (boxed live 0x4016 [(0, 0)]) { ctl := { opened := true }, cur := { committed := true } }) with
      time := { role := 1, state := 1 } }
    let peer : PeerView := ⟨arithProfile, offer.fwForm, 1, offer.timeLeader, 1, [(1, false, 0, 0, 0)], true⟩
    let pair (t : Twin) : State := { wired live with twin := { t with contexts := [1] } }
    let rec_ : ShadowRec := ⟨2, 1, 0, toLe 16 0, [], 0, 0, none, false⟩
    let shadowing : State := { pair { state := 1, shadows := [(2, rec_)] } with clk := { elapsed := 8192 } }
    (offer.awaits 0 0x4016 ∧ bitmapCtxs (slice [2] 0 32) = [1] ∧ offer.twin.state ≠ 1 ∧ offer.twinPorts ≠ [] ∧ peer.side ≠ 0 ∧
      offer.pairable peer 1 = true ∧ offer.inHalf 1 0 = true ∧ offer.time.role ≠ 0 ∧ (boxed live 0x4016 [(0, 2)]).awaits 0 0x4016) ∧
    ((pair { state := 1 }).up = true ∧ (pair { state := 1 }).clk.pick % 1024 = 0) ∧
    ((pair { state := 1, dirty := [(2, 0)] }).awake = true ∧ (∃ d ∈ (pair { state := 1, dirty := [(2, 0)] }).twin.dirty, d.1 = 2) ∧
      (pair { state := 1, dirty := [(2, 0)] }).twinPortOf 2 = some 33) ∧
    ((pair { state := 1 }).shadows 1 = true ∧ rec_.pendingOnly = false ∧ ({ rec_ with pendingOnly := true } : ShadowRec).pendingOnly = true) ∧
    (∀ a ∈ [false, true], shadowing.up = true ∧ shadowing.twin.state = 1 ∧ 8192 ≤ shadowing.clk.elapsed - shadowing.twin.lastBeat ∧
      ({ shadowing.twin with adopt := a } : Twin).adopt = a) ∧
    (∀ n ∈ [0, 1, 2, 3], ({ boxed live 0x4017 [] with twin := { state := n } } : State).awaits 0 0x4017) ∧
    (∀ n ∈ [1, 3], (pair { state := n }).up = true ∧ (pair { state := n }).twin.state = n) ∧
    (shadowing.shadows 1 = true ∧ ∃ x ∈ shadowing.twin.shadows, x.2.context = 1) := by
  dsimp only
  (repeat' apply And.intro) <;> decide +kernel
/-! ### Boot, identity, observation -/

/-- In a boot stage. -/
def atStage (n : Nat) : State := { State.reset with sec := { stage := n } }

/-- Whether an object's signatures verify is a free value: a state in which none does is shown, the rest is what it answers. -/
theorem witness_BootAndRecoveryMode :
    let late (n : Nat) : State := { atStage n with clk := { wall := 2000000001 } }
    let load : State := boxed (atStage 2) 0x5000 [(2, 64)]
    let o : Bytes := toLe 4 0 ++ toLe 2 2 ++ toLe 8 0 ++ toLe 2 arithProfile
    (∀ n ∈ [0, 1, 3, 4, 5], (atStage n).up = true ∧ (atStage n).sec.stage = n) ∧ (atStage 0).bootVerifies = false ∧
    (∀ n ∈ [0, 1, 3], (late n).up = true ∧ (late n).sec.phaseLate = false ∧
      (late n).sec.stageWall + (if n = 0 then 200000000 else if n = 1 then 2000000000 else 400000000) < (late n).clk.wall ∧
      (atStage n).clk.wall ≤ (atStage n).sec.stageWall + 200000000) ∧
    (({ live with sec := { live.sec with derivation := true } } : State).sec.derivation = true) ∧
    (load.awaits 0 0x5000 ∧ load.sec.stage = 2 ∧ load.priv (load.mailbox 0).slot = true ∧ (load.mailbox 0).arg 2 ≤ 0x1000000 ∧
      pastXfer 0 (load.mailbox 0) ((load.mailbox 0).arg2 0) ((load.mailbox 0).arg 2) = false ∧ objType o = 2 ∧
      objProfile o = arithProfile ∧ objStatus 0 o ≠ 0 ∧ objType [] ≠ 2) ∧
    ((boxed live 0x4020 [(0, 3)]).awaits 0 0x4020 ∧ (boxed live 0x4020 [(0, 1), (1, 0xFFFFFFFF)]).awaits 0 0x4020 ∧
      (boxed live 0x4020 [(0, 0), (1, 4095)]).awaits 0 0x4020 ∧ live.bistEligible 0 4095 = true ∧ live.bistEligible 1 32 = false) := by
  dsimp only
  (repeat' apply And.intro) <;> decide +kernel

theorem witness_SecurityCommands :
    let debug (op : Nat) (args : Tab Nat) : State := { boxed live op args with sec := { live.sec with debug := true } }
    let keys (r e : Bool) : State := { boxed live 0x5002 [] with sec := { live.sec with derivationEnded := e, keysReady := r } }
    let token : Bytes := toLe 4 0 ++ toLe 2 5 ++ toLe 2 0 ++ toLe 4 40 ++ toLe 52 0 ++ toLe 8 7 ++ List.replicate 32 1
    let asked : State := { boxed live 0x5005 [] with sec := { live.sec with moduleId := 7, nonce := some (List.replicate 32 1) } }
    let twice : State := { live with mbx := [(0, { held := true, busy := true, opcode := 0x5002 }), (1, { held := true, busy := true, opcode := 0x5002 })] }
    ((boxed live 0x5001 []).awaits 0 0x5001 ∧ (boxed live 0x5003 [(0, 3)]).awaits 0 0x5003 ∧ (boxed live 0x5003 [(0, 2)]).awaits 0 0x5003 ∧
      objStatus 0 token ≠ 0) ∧
    (∀ r ∈ [false, true], ∀ e ∈ [false, true], (keys r e).awaits 0 0x5002 ∧ (keys r e).sec.debug = false ∧
      (keys r e).attesting 0 = false ∧ pastXfer 0 ((keys r e).mailbox 0) (((keys r e).mailbox 0).arg2 0) 32 = false ∧
      pastXfer 0 ((keys r e).mailbox 0) (((keys r e).mailbox 0).arg2 2) 32 = false) ∧
    twice.attesting 1 = true ∧ ((debug 0x5002 []).awaits 0 0x5002 ∧ (debug 0x5002 []).sec.debug = true ∧ (boxed live 0x5004 []).awaits 0 0x5004) ∧
    (asked.awaits 0 0x5005 ∧ objType token = 5 ∧ le (objBody token) 0 8 = asked.sec.moduleId ∧
      asked.sec.nonce = some (slice (objBody token) 8 32) ∧ (objBody token).length = 40 ∧ asked.ctxs = []) ∧
    ((boxed live 0x5006 []).awaits 0 0x5006 ∧ live.sec.debug = false ∧ (debug 0x5006 [(0, 0x0A000007), (4, 8)]).awaits 0 0x5006 ∧
      7 < islandCount 10 ∧ (debug 0x5006 [(0, 0x0A000008)]).awaits 0 0x5006 ∧ islandCount 10 ≤ 8) ∧
    (∀ op ∈ [0, 1, 2, 3, 4, 5], (debug 0x5007 [(0, 4), (1, op)]).awaits 0 0x5007) := by
  dsimp only
  (repeat' apply And.intro) <;> decide +kernel

theorem witness_ObservationCommands :
    let buf (b : Buffer) : State := { live with obs := { tagBuf := b, trcBuf := { b with base := b.base + 0x10000 } } }
    let free : Buffer := { base := 0x10000000, blocks := 1 }
    let bad : Buffer := { base := 1, blocks := 1 }
    let rec_ : State := { live with obs := { tagBuf := { free with on := true }, tagWaiting := [(5, toLe 24 0)] } }
    let samp (l : Option Nat) : State := { live with obs := { trcBuf := { free with on := true }, trcMode := 1, trcLast := l }, clk := { pick := 4096 } }
    let large : State := { member 0 5 1 none with obs := { trcBuf := free } }
    (live.actsAs .weaver 64 ∧ isEngine (live.sel 64).eng = true ∧ live.actsPrv .weaver 64 ∧ live.priv 64 = true ∧ plain.actsAs .i3c 62 ∧
      plain.priv 62 = false) ∧
    ((buf bad).actsPrv .weaver 64 ∧ (buf bad).badBuffer bad (buf bad).obs.trcBuf = true ∧
      (buf free).badBuffer free (buf free).obs.trcBuf = false ∧
      (buf free).badBuffer (buf free).obs.trcBuf free = false ∧ free.recording = false ∧ { free with on := true, full := true }.recording = false ∧ bitOf (1 : Word).toNat 0 = true ∧ (buf free).obs.tagBuf.on = false) ∧
    (rec_.awake = true ∧ rec_.obs.tagBuf.on = true ∧ rec_.obs.tagWaiting = [(5, toLe 24 0)] ∧
      ({ free with wptr := 4064 } : Buffer).place 32 0 = ({ free with wptr := 4096, seq := 1 }, some (0x10000FE0, none)) ∧
      (({ free with wptr := 4080 } : Buffer).place 32 0).2 = none) ∧
    (bitOf (0x01000001 : Word).toNat 24 = true ∧ fld (0x01000001 : Word).toNat 0 2 = 1 ∧ large.actsPrv .weaver 64 ∧
      large.largeGroup = true ∧ live.largeGroup = false) ∧
    (∀ l ∈ [none, some 4096], (samp l).awake = true ∧ (samp l).obs.trcBuf.on = true ∧ (samp l).obs.trcMode = 1 ∧
      (samp l).obs.trcStart ≤ (samp l).clk.pick ∧
      ((samp l).clk.pick - (samp l).obs.trcStart) % 2 ^ max 6 (min 20 (samp l).obs.trcPeriod) = 0) ∧
    ((boxed live 0x6000 [(2, 8)]).awaits 0 0x6000 ∧ (boxed live 0x6001 [(2, 8)]).awaits 0 0x6001) := by
  dsimp only
  (repeat' apply And.intro) <;> decide +kernel

/-! ## The spec's worked examples and its public check functions -/

/-- R4's example: heddle 1,000 of tier 5 of loom 2, and its harness. -/
theorem test_index_example : harnessOfHeddle (2 * 65536 + 5 * 8192 + 1000) = 2703 ∧ tierOfHarness 2703 = 2 * 8 + 5 := by decide

/-- The pattern area of R427's example. -/
theorem test_pattern_area : patternBase = 0x011DC0000000 ∧ patternBase + 9 * 2 ^ 30 = hbmEnd := by decide

/-- R51's example: DA = 1, DB = 41, and column 297 of code 13 is the only flagged candidate. -/
def exampleDent : List Conv :=
  (List.range 512).map (fun c =>
    ⟨12 + (if c < 5 then 50 else if c = 13 then 6 else if c = 297 then 1 else 0), decide (c = 297), false⟩) ++
    ([16, 12, 20, 9, 14, 11, 8, 10, 7, 4] ++ [30, 28, 33, 31, 29, 35]).map cleanConv

theorem test_selvage_example : syndromeA exampleDent = 1 ∧ syndromeB exampleDent = 41 ∧
    resolve exampleDent = .corrected 297 1 ∧ (dentCounts exampleDent).getD 297 0 = 12 := by decide +kernel

/-- Width 4 (R75): +7 and -2; R81's example: y = 14, 6, 5 and -4.5 take exponent 0x80 and the integers 7, 3, 2 and -2. -/
theorem test_weight_example : weightInt 4 0b0111 = 7 ∧ weightInt 4 0b1110 = -2 ∧ blockExp 0x41600000 7 = 0x80 ∧
    [(0x41600000 : F32), 0x40C00000, 0x40A00000, 0xC0900000].map (weightBits 4 0x80) = [7, 3, 2, 14] := by decide +kernel

/-- R112's example in both orders of arrival, its value as a fuller converts it, and the same with W_REF 121. -/
theorem test_reduction_example :
    redAdd (redAdd ⟨0, 0, false⟩ (redOf 4000000)) (redOf (-3000000)) = ⟨1000000, 1, false⟩ ∧
    redAdd (redAdd ⟨0, 0, false⟩ (redOf (-3000000))) (redOf 4000000) = ⟨1000000, 1, false⟩ ∧
    convertWord 119 123 0x3D800000 1000000 = (0x41742400, false) ∧
    convertWord 119 121 0x3D800000 4000000 = (0x41742400, false) := by decide +kernel

/-- R114 and R115: -40 has residue 2; the clamps continue with 1 and 5; the plane product of the example. -/
theorem test_residue_example : mod7 (-40) = 2 ∧ mod7 (2 ^ 31 - 1) = 1 ∧ mod7 (-(2 ^ 31)) = 5 ∧
    (planeProduct 4 0 [10, 7, 12, 5] 0).val = 32 := by decide +kernel

/-- The keys of R134's example: 3.0 at exponent 124, 0.01 alone at 116, raised to the floor 117. -/
theorem test_key_example : blockExp 0x40400000 31 = 124 ∧ blockExp 0x3C23D70A 31 = 116 ∧ floorExps 7 [124, 116] = [124, 117] := by
  decide +kernel

/-- The page sizes of Table 5.4's examples. -/
theorem test_page_sizes : (⟨false, 8, 8, 128, 0⟩ : PageGeom).size = 520 * 1024 ∧ (⟨false, 4, 8, 128, 0⟩ : PageGeom).size = 392 * 1024 ∧
    (⟨true, 8, 1, 512, 64⟩ : PageGeom).size = 152 * 1024 := by decide +kernel

/-- The window of R217's example: two proposals match and three tokens go out. -/
theorem test_window_example : matches? [5, 9, 40] [5, 9, 3, 8] = 2 ∧
    cutTokens 0xFFFFFFFF 0xFFFFFFFF 100 ([5, 9, 3, 8].take 3) = ([5, 9, 3], false) := by decide

/-- R268's two words: 0x0003_483F with status 0, 0x0003_0011 with status 0x21. -/
theorem test_check_words :
    (let k : Check := { corrected := true, dentReplay := true, eccCorr := true, emptyRow := true, replays := 1 }
     k.word = 0x0003483F ∧ k.checkStatus = 0) ∧
    (let k : Check := { residueBad := true }
     k.word = 0x00030011 ∧ k.checkStatus = 0x21 ∧ wordFailed k.word = true) := by decide

/-- R277's example: the third event within 2,592,000 s makes the unit permanent, one at 2,700,000 does not. -/
theorem test_three_in_span :
    let e (t : Nat) : HealthEvent := ⟨0, t, 1, 1, 0, 0, 2703, 0, 0⟩
    threeInSpan [e 100000, e 1900000, e 2650000] = true ∧ threeInSpan [e 100000, e 1900000, e 2700000] = false := by decide

/-- CRC-32C and CRC-32 of the digits 1 to 9, and SHA-256 of "abc": the published values of the functions the spec names. -/
theorem test_published_values :
    crc32c [0x31, 0x32, 0x33, 0x34, 0x35, 0x36, 0x37, 0x38, 0x39] = 0xE3069283 ∧
    crc32 [0x31, 0x32, 0x33, 0x34, 0x35, 0x36, 0x37, 0x38, 0x39] = 0xCBF43926 ∧
    sha256 [0x61, 0x62, 0x63] = [0xBA, 0x78, 0x16, 0xBF, 0x8F, 0x01, 0xCF, 0xEA, 0x41, 0x41, 0x40, 0xDE, 0x5D, 0xAE, 0x22, 0x23,
      0xB0, 0x03, 0x61, 0xA3, 0x96, 0x17, 0x7A, 0x9C, 0xB4, 0x10, 0xFF, 0x61, 0xF2, 0x00, 0x15, 0xAD] := by decide +kernel

/-! ## One command's effect on fixed values -/

/-- Table 13.7: the end of the grace at 96.00 degrees requests 20 quarters, the evaluation at 95.50 makes them 24. -/
theorem test_throttle_episode :
    let s : State := { live with thm := { request := true, moduleHot := 384 }, clk := { wall := 1000000000 } }
    let t : State := { live with thm := { enforce := true, thermLen := 20, moduleHot := 382 }, clk := { wall := 40000000 } }
    (after .throttleGraceEnd s).map (fun t => (t.thm.enforce, t.thm.thermLen)) = some (true, 20) ∧
    (after .throttleEval t).map (fun t => (t.thm.enforce, t.thm.thermLen)) = some (true, 24) := by
  decide +kernel

/-- R203's example: 1,499 refills to 3,499 and -1,501 to 499, under RATE 2,000 and CAP 4,000. -/
theorem test_refill_example :
    let s : State := { live with srv := { tenants := [(0, { rate := 2000, cap := 4000, bal := 1499 }), (1, { rate := 2000, cap := 4000, bal := -1501 })] }, clk := { wall := 4000000000 } }
    (after .budgetRefill s).map (fun t => ((t.tenant 0).bal, (t.tenant 1).bal)) = some (3499, 499) := by
  decide +kernel

/-- A plan with PERIOD 13,888 and LAUNCH_LEAD 50,000 of group 5. -/
def longPlan (places : Nat) : Bytes :=
  toLe 4 0 ++ toLe 4 13888 ++ toLe 4 0 ++ toLe 2 0 ++ toLe 2 places ++ toLe 8 5 ++ toLe 4 50000 ++ toLe 100 0

/-- R249's example: drained at the end of iteration 261, the flip is at 4,765,208. -/
theorem test_flip_example :
    let x : Ctx := { ctl := { state := 4, launchPick := some 1071000, plan := some (longPlan 1) }, sw := { state := 3, idleFrom := some 261 },
                     staged := some {} }
    let s : State := { withCtx live x with clk := { pick := 4709656 } }
    (after (.switchDrained 1) s).map (fun t => (t.ctx 1).sw.flipPick) = some (some 4765208) := by
  decide +kernel

/-- R173's example: the leader holds the last READY at 1,021,000 and sets L = 1,071,000. -/
theorem test_launch_example :
    let rs : List (Nat × Nat) := [(0, 1002000), (1, 1004000), (2, 1011500), (4, 1008250)]
    let s : State := { withCtx live { ctl := { state := 3, readies := rs, plan := some (longPlan 5) } } with clk := { pick := 1021000 } }
    (after (.ready 5 3 1020000) s).map (fun t => (t.ctx 1).ctl.launchPick) = some (some 1071000) := by
  decide +kernel

/-- R19: an opcode outside the assigned codes completes with 0x11, DONE and not BUSY. -/
theorem test_unassigned_opcode :
    (after (.unassignedOpcode 0) (boxed live 0x0011 [])).map
      (fun t => ((t.mailbox 0).status, (t.mailbox 0).done, (t.mailbox 0).busy)) = some (0x11, true, false) := by
  decide +kernel

/-- R34: the low word of the pick counter, whose high word is latched for the requester that read. -/
theorem test_pick_read :
    let s : State := { live with clk := { pick := 0x123456789A } }
    (after (.hubPickLoRead .weaver) s).map (fun t => t.out) = some [.readData 64 0x3456789A] := by
  decide +kernel

/-- R10: a misaligned read completes with all ones. -/
theorem test_misaligned_read :
    (after (.bar0MisalignedAccess .weaver false) live).map (fun t => t.out) = some [.readData 64 0xFFFFFFFF] := by
  decide +kernel

/-- R350: input power outside its range takes BM_PWRGD low and the module runs on. -/
theorem test_input_out_of_range :
    (after (.inputOutOfRange 45000) live).map (fun t => (t.pwr.bmPwrgd, t.up)) = some (false, true) := by
  decide +kernel

/-- R368: the second conversion at 110.0 degrees trips the module, the first does not. -/
theorem test_trip :
    (after (.sensorConversion 5 440) live).map (fun t => t.pwr.tripped) = some false ∧
    ((after (.sensorConversion 5 440) live).bind (after (.sensorConversion 5 440))).map (fun t => (t.pwr.tripped, t.thm.tripSensor)) =
      some (true, 5) := by
  decide +kernel

/-- R69: a return from Off outside the programming window is held and recorded. -/
theorem test_return_outside_window :
    (after (.harnessReqActive .weaver) (withHarness live { state := 0 })).map
      (fun t => ((t.harness 0).state, (t.harness 0).held, t.agg)) = some (3, true, [.heldReturn 0]) := by
  decide +kernel

end Sys2Proof.Tests
end

section
/-! The scope's rules (chapter 00): every access from outside and every mailbox command goes through one shared operation, said
once for each; PRV fields, misaligned accesses and the mailbox registers follow from it. -/

namespace Sys2Proof.Machine

variable {s : State} {who : Who} {j m n off : Nat} {r : Reg}

/-! ## The shape of PRV writes and of mailbox commands -/

/-- Every command that writes a PRV field is one `State.prvWrite` of its requester. -/
theorem exec_eq_prvWrite {c : Instr} (h : prvCommand c = some who) :
    ∃ f : State → Nat → State → State, ∀ s, exec c s = .next (s.prvWrite who (f s)) := by
  unfold prvCommand at h
  split at h <;> cases h <;> exact ⟨_, fun _ => rfl⟩

/-- Every command that a mailbox carries is one `State.command` of its mailbox and opcode. -/
theorem exec_eq_command {c : Instr} {op : Nat} (h : mailboxCommand c = some (m, op)) :
    ∃ f : State → Mailbox → State → State, ∀ s, exec c s = .next (s.command m op (f s)) := by
  unfold mailboxCommand at h
  split at h <;> cases h <;> exact ⟨_, fun _ => rfl⟩

/-! ## BAR0 and I3C accesses -/

/-- The I3C target acts as identity slot 62 (R349). -/
theorem State.actsAs_i3c (hu : s.i3cUp = true) (h5 : s.sec.stage ≠ 5) : s.actsAs .i3c 62 := by
  have up : s.up = true := (Bool.and_eq_true_iff.mp hu).1
  exact ⟨by simp [State.access, up], h5⟩

theorem exec_i3cRegisterAccess_write (hu : s.i3cUp = true) (v : Word) :
    exec (.i3cRegisterAccess (some v)) s = .next (s.bar0Write .i3c s.sec.i3cOffset v) := by
  simp [exec, execI3cRegisterAccess, hu]
theorem exec_i3cRegisterAccess_read (hu : s.i3cUp = true) :
    exec (.i3cRegisterAccess none) s = .next (s.bar0Read .i3c s.sec.i3cOffset) := by
  simp [exec, execI3cRegisterAccess, hu]

theorem State.misaligned_write (h : s.actsAs who j) : s.misaligned who true = s.report .misaligned := by
  simp [State.misaligned, h.1, h.2]
theorem State.misaligned_read (h : s.actsAs who j) :
    s.misaligned who false = (s.report .misaligned).emit (.readData j 0xFFFFFFFF) := by
  simp [State.misaligned, h.1, h.2]

theorem State.bar0Write_of_misaligned (ha : off % 4 ≠ 0) (v : Word) : s.bar0Write who off v = s.misaligned who true :=
  if_pos ha
theorem State.bar0Read_of_misaligned (ha : off % 4 ≠ 0) : s.bar0Read who off = s.misaligned who false :=
  if_pos ha

/-- An aligned write of an assigned offset is the write of its register. -/
theorem State.bar0Write_reg (h : s.actsAs who j) (ha : off % 4 = 0) (hx : inXfer off = false) (hr : regAt off = some r)
    (v : Word) : s.bar0Write who off v = s.writeReg j r v := by
  simp [State.bar0Write, State.writeBar0, ha, h.1, h.2, hx, hr]
theorem exec_registerWrite_reg {off : BitVec 26} (h : s.actsAs who j) (ha : off.toNat % 4 = 0)
    (hx : inXfer off.toNat = false) (hr : regAt off.toNat = some r) (v : Word) :
    exec (.registerWrite who off v) s = .next (s.writeReg j r v) :=
  congrArg _ (State.bar0Write_reg h ha hx hr v)
/-- An aligned read of an assigned offset answers its register's word. -/
theorem State.bar0Read_reg (h : s.actsAs who j) (ha : off % 4 = 0) (hx : inXfer off = false) (hr : regAt off = some r) :
    s.bar0Read who off = (s.readReg j r).2.emit (.readData j (s.readReg j r).1) := by
  simp [State.bar0Read, State.readBar0, ha, h.1, h.2, hx, hr]

/-! ## PRV fields (R13) -/

theorem State.writeReg_open (h : r.prvMask = 0) (v : Word) : s.writeReg j r v = s.writeOpen j r v.toNat := by
  simp [State.writeReg, h]
theorem State.writeReg_denied (h : r.prvMask ≠ 0) (hp : s.priv j = false) (v : Word) :
    s.writeReg j r v = (s.writeOpen j r v.toNat).report (.prvDenied j) := by
  simp only [State.writeReg, beq_false_of_ne h, hp, Bool.false_eq_true, if_false]
theorem State.readReg_denied (h : r.prvMask ≠ 0) (hp : s.priv j = false) :
    s.readReg j r = (s.regWord j r &&& ~~~r.prvMask, s.report (.prvDenied j)) := by
  simp only [State.readReg, beq_false_of_ne h, hp, Bool.or_self, Bool.false_eq_true, if_false]

/-- The registers that hold PRV fields and fields of every requester side by side. -/
def Reg.mixed : Reg → Bool
  | .monChan | .healthStat | .gstop | .scrubStat | .satStat => true
  | _ => false

/-- A register with PRV fields that is not mixed has no field that every requester writes. -/
theorem State.writeOpen_of_prvOnly (h : r.prvMask ≠ 0) (hm : r.mixed = false) (v : Nat) : s.writeOpen j r v = s := by
  cases r <;> simp_all [Reg.prvMask, Reg.mixed, State.writeOpen]

/-! ## Mailbox registers (R330) -/

theorem State.mbxHolder_done (hh : (s.mailbox m).held = true) (hj : (s.mailbox m).slot = j) (f : Mailbox → Mailbox) :
    s.mbxHolder j m f = s.modMailbox m f := by
  simp [State.mbxHolder, hh, hj]
theorem State.mbxIdle_done (hb : (s.mailbox m).busy = false) (hh : (s.mailbox m).held = true)
    (hj : (s.mailbox m).slot = j) (f : Mailbox → Mailbox) : s.mbxIdle j m f = s.modMailbox m f := by
  simp [State.mbxIdle, hb, State.mbxHolder_done hh hj]
theorem State.mbxIdle_dropped (h : (s.mailbox m).busy = true ∨ (s.mailbox m).held = false ∨ (s.mailbox m).slot ≠ j)
    (f : Mailbox → Mailbox) : s.mbxIdle j m f = s.report (.mbxDrop m) := by
  rcases h with h | h | h <;> simp [State.mbxIdle, State.mbxHolder, h]

/-- The offsets of Table 16.3: word `w` of mailbox `m`'s block. -/
theorem regAt_mailbox {w : Nat} (hm : m < 16) (hw : w < 32) : regAt (0x10000 + 0x80 * m + 4 * w) = mbxReg m w := by
  have hin : 0x010000 ≤ 0x10000 + 0x80 * m + 4 * w ∧ 0x10000 + 0x80 * m + 4 * w < 0x010800 := by omega
  have block : (0x10000 + 0x80 * m + 4 * w - 0x010000) / 0x80 = m := by omega
  have word : (0x10000 + 0x80 * m + 4 * w) % 0x80 / 4 = w := by omega
  rw [regAt, if_pos hin, block, word]
theorem mbxReg_arg (hn : n < 16) : mbxReg m (4 + n) = some (.mbxArg m n) := by
  rw [mbxReg, if_neg (by omega), if_neg (by omega), if_neg (by omega), if_neg (by omega), if_pos (by omega),
    Nat.add_sub_cancel_left]
theorem inXfer_of_lt (h : off < 0x3000000) : inXfer off = false := by
  simp only [inXfer, decide_eq_false_iff_not]
  omega

/-- A write of WVR_MBX_ARG. -/
theorem exec_registerWrite_mbxArg {off : BitVec 26} (h : s.actsAs who j) (hm : m < 16) (hn : n < 16)
    (ho : off.toNat = 0x10010 + 0x80 * m + 4 * n) (v : Word) :
    exec (.registerWrite who off v) s =
      .next (s.mbxIdle j m fun b => { b with args := Tab.put 0 b.args n v.toNat }) := by
  have hr : regAt off.toNat = some (.mbxArg m n) := by
    rw [← mbxReg_arg hn, ← regAt_mailbox hm (by omega), ho]
    congr 1
    omega
  rw [exec_registerWrite_reg h (by omega) (inXfer_of_lt (by omega)) hr, State.writeReg_open rfl]
  rfl

/-- A write of WVR_MBX_CMD. -/
theorem exec_registerWrite_mbxCmd {off : BitVec 26} (h : s.actsAs who j) (hm : m < 16)
    (ho : off.toNat = 0x10004 + 0x80 * m) (v : Word) :
    exec (.registerWrite who off v) s = .next (s.mbxCmd j m v.toNat) := by
  have hr : regAt off.toNat = some (.mbxCmd m) := by
    have : off.toNat = 0x10000 + 0x80 * m + 4 * 1 := by omega
    rw [this, regAt_mailbox hm (by decide)]
    rfl
  rw [exec_registerWrite_reg h (by omega) (inXfer_of_lt (by omega)) hr, State.writeReg_open rfl]
  rfl

/-- The command register with GO, written by the holder while the mailbox is not BUSY. -/
theorem State.mbxCmd_go (hb : (s.mailbox m).busy = false) (hh : (s.mailbox m).held = true) (hj : (s.mailbox m).slot = j)
    {v : Nat} (hv : bitOf v 31 = true) :
    s.mbxCmd j m v = s.modMailbox m fun b => { b with
      opcode := fld v 0 16, tag := fld v 16 15, busy := true, done := false, res := [], since := s.clk.wall } := by
  simp [State.mbxCmd, State.mbxIdle_done hb hh hj, hv]

end Sys2Proof.Machine

open Sys2Proof Sys2Proof.Machine

/-- Settles O5: each such command is one `State.prvWrite`, which counts an unprivileged requester's and does nothing else. -/
theorem unprivilegedWriteIsCountedOnly : Obligations.UnprivilegedWriteIsCountedOnly := by
  intro c who s j hc ha hp
  obtain ⟨f, hf⟩ := exec_eq_prvWrite hc
  rw [hf, State.prvWrite_denied ha hp]
  rfl

/-- Settles O6: each mailbox command is one `State.command`, whose guards come before the command's own effect. -/
theorem mailboxCommandGuards : Obligations.MailboxCommandGuards := by
  intro c m op s hc
  obtain ⟨f, hf⟩ := exec_eq_command hc
  rw [hf]
  constructor
  · intro h
    rw [State.command_absent h]
  · intro hs hb ho hbar
    exact yields_of (by rw [hf, State.command_barred hs hb ho hbar])
      ⟨s.complete_completes m 0x11 [], s.complete_eq m 0x11 []⟩

/-- Settles O15: BAR0 and I3C accesses at a misaligned offset are one `State.misaligned`. -/
theorem misalignedAccessIsRecorded : Obligations.MisalignedAccessIsRecorded := by
  refine ⟨fun s who j h => ⟨?_, ?_⟩, fun s who j off v h ha => ?_, fun s v hu h5 ha => ⟨?_, ?_⟩⟩
  · exact congrArg _ (State.misaligned_write h)
  · exact congrArg _ (State.misaligned_read h)
  · exact congrArg _ ((State.bar0Write_of_misaligned ha v).trans (State.misaligned_write h))
  · rw [exec_i3cRegisterAccess_write hu, State.bar0Write_of_misaligned ha,
      State.misaligned_write (State.actsAs_i3c hu h5)]
    rfl
  · rw [exec_i3cRegisterAccess_read hu, State.bar0Read_of_misaligned ha,
      State.misaligned_read (State.actsAs_i3c hu h5)]
    rfl

/-- Settles O16: the five mixed registers take their open fields, every other register with PRV fields stays. -/
theorem prvFieldsRefuseField : Obligations.PrvFieldsRefuseField := by
  constructor
  · intro s who j off v r h hp ha hx hr hmask f t
    rw [exec_registerWrite_reg h ha hx hr, State.writeReg_denied hmask hp]
    split
    case h_6 =>
      rw [State.writeOpen_of_prvOnly hmask (by simp [Reg.mixed, *])]
      rfl
    all_goals rfl
  · intro s r hu h5 hp ha hx hr hmask
    rw [exec_i3cRegisterAccess_read hu, State.bar0Read_reg (State.actsAs_i3c hu h5) ha hx hr,
      State.readReg_denied hmask hp]
    rfl

/-- Settles O18: writes of ARG and CMD go through `State.mbxIdle`, which only the holder of an idle mailbox passes. -/
theorem mailboxRegisters : Obligations.MailboxRegisters := by
  refine ⟨fun s who j m n off v h hm hn ho => ⟨fun hb hh hj => ?_, fun hd => ?_⟩,
    fun s who j m off v h hm ho => ⟨fun hb hh hj hv => ?_, fun hd => ?_⟩, fun s m hs hb hop => ?_⟩
  · refine yields_of ((exec_registerWrite_mbxArg h hm hn ho v).trans (congrArg _ (State.mbxIdle_done hb hh hj _))) ?_
    exact ⟨s.modMailbox_mailbox .., fun k hk => s.modMailbox_mailbox_other hk _, rfl⟩
  · exact (exec_registerWrite_mbxArg h hm hn ho v).trans (congrArg _ (State.mbxIdle_dropped hd _))
  · refine yields_of ((exec_registerWrite_mbxCmd h hm ho v).trans (congrArg _ (State.mbxCmd_go hb hh hj hv))) ?_
    refine ⟨?_, fun k hk => State.modMailbox_mailbox_other _ hk _, rfl⟩
    simp [fld]
  · exact (exec_registerWrite_mbxCmd h hm ho v).trans (congrArg _ (State.mbxIdle_dropped hd _))
  · refine yields_of (t := s.complete m.val 0x11 []) ?_ ⟨s.complete_completes .., s.complete_eq ..⟩
    simp [exec, execUnassignedOpcode, hs, hb, hop]

end

section
/-! The module's pick counter (chapter 01): which pick lengths fall due, what a pick boundary leaves of the clock. -/

-- one proof at a time: side by side, their stacks and heaps do not fit beside the rest of the text
set_option Elab.async false

namespace Sys2Proof.Machine

variable {s : State} {c : Clock} {n : Nat}

/-! ## The length that falls due (R33) -/

theorem le_foldl_min {α : Type} (f : α → Nat) (l : List α) (a n : Nat) :
    n ≤ l.foldl (fun m r => min m (f r)) a ↔ n ≤ a ∧ ∀ r ∈ l, n ≤ f r := by
  induction l generalizing a with
  | nil => simp
  | cons r l ih => rw [List.foldl_cons, ih, le_min_iff, List.forall_mem_cons, and_assoc]

/-- A length has been requested for 8 picks when it is requested now and no request of the last 8 picks was shorter. -/
theorem Clock.le_ripeLen :
    n ≤ c.ripeLen ↔ n ≤ c.reqLen ∧ ∀ r ∈ c.reqs, c.elapsed < r.1 + 8 → n ≤ r.2 := by
  simp only [Clock.ripeLen, le_foldl_min, List.mem_filter, decide_eq_true_eq, and_imp]

theorem Clock.ripeLen_le_reqLen (c : Clock) : c.ripeLen ≤ c.reqLen := (Clock.le_ripeLen.mp le_rfl).1
theorem Clock.ripeLen_le_of_mem {r : Nat × Nat} (hr : r ∈ c.reqs) (h : c.elapsed < r.1 + 8) :
    c.ripeLen ≤ r.2 :=
  (Clock.le_ripeLen.mp le_rfl).2 r hr h

/-- A longer length is due once it has stood for 8 picks. -/
theorem Clock.dueLen_of_longer (h : c.lenQ < c.reqLen)
    (stood : ∀ r ∈ c.reqs, c.elapsed < r.1 + 8 → c.reqLen ≤ r.2) : c.dueLen = some c.reqLen := by
  have ripe : c.ripeLen = c.reqLen := le_antisymm c.ripeLen_le_reqLen (Clock.le_ripeLen.mpr ⟨le_rfl, stood⟩)
  rw [Clock.dueLen, ripe, if_pos h]
/-- A shorter length is due 1,000 picks after the last change. -/
theorem Clock.dueLen_of_shorter (h : c.reqLen < c.lenQ) (gap : c.lastChange + 1000 ≤ c.elapsed) :
    c.dueLen = some c.reqLen := by
  have ripe := c.ripeLen_le_reqLen
  rw [Clock.dueLen, if_neg (by omega), if_pos ⟨h, gap⟩]
/-- Nothing is due while no longer length has stood for 8 picks and a shorter one waits for its 1,000. -/
theorem Clock.dueLen_of_not_ripe (h : c.ripeLen ≤ c.lenQ)
    (gap : c.reqLen < c.lenQ → c.elapsed < c.lastChange + 1000) : c.dueLen = none := by
  rw [Clock.dueLen, if_neg (by omega), if_neg (by omega)]

/-! ## PICK_LENGTH_CHANGE -/

theorem exec_pickLengthChange_due (up : s.up = true) (free : s.time.role = 0)
    (due : s.clk.dueLen = some n) : exec .pickLengthChange s = .next (s.setLen n (s.localKinds n) false) := by
  simp [exec, execPickLengthChange, up, free, due]
theorem exec_pickLengthChange_idle (free : s.time.role = 0) (due : s.clk.dueLen = none) :
    exec .pickLengthChange s = .next s := by
  simp [exec, execPickLengthChange, free, due]
theorem exec_pickLengthChange_switch {e : PickSwitch} {rest : List PickSwitch} (up : s.up = true)
    (member : s.time.role ≠ 0) (sched : s.time.sched = e :: rest) (reached : e.pick ≤ s.clk.pick)
    (change : e.len ≠ s.clk.lenQ) :
    exec .pickLengthChange s = .next ((({ s with time := { s.time with sched := rest } } : State).setLen e.len
      (s.switchKinds e) (s.localLen != e.len)).fresh) := by
  simp only [exec, execPickLengthChange, up, member, sched, reached, change, Bool.not_true, Bool.false_eq_true,
    if_false, if_true]

/-- A source that requests the length of a switch, here or where PICKLEN was sent, is among those that set it (R35). -/
theorem State.switchKinds_of_source (s : State) (e : PickSwitch) :
    (e.byThermal = true ∨ e.len ≤ s.thm.thermLen → (s.switchKinds e).1 = true) ∧
    (e.byPower = true ∨ e.len ≤ s.pwr.capLen → (s.switchKinds e).2.1 = true) ∧
    (e.byScreen = true ∨ e.len ≤ s.thm.screenLen → (s.switchKinds e).2.2 = true) := by
  refine ⟨?_, ?_, ?_⟩ <;> rintro (h | h) <;> simp [State.switchKinds, State.localKinds, h]
/-- A BY_ bit stands for each source of a length that is not the reset length of 16 quarters. -/
theorem byBit_of_source {kind : Bool} {len : Nat} (source : kind = true) (long : len ≠ 16) : (kind && len != 16) = true := by
  simp [source, long]

/-! ## PICK_BOUNDARY -/

/-- What the end of a pick leaves of the clock: a long pick sets STRETCHED (R28). -/
theorem State.closePick_clk (s : State) :
    s.closePick.clk = { s.clk with stretched := s.clk.stretched || decide (16 < s.clk.lenQ) } := by
  have counted : Keeps [.ctxs, .sched, .obs] s
      ((s.countClasses.perf 0x01 1 4 none none).perf 0x02 (b2n (decide (16 < s.countClasses.clk.lenQ))) 4 none none) :=
    State.perf_keeps (State.perf_keeps (State.countClasses_keeps (.refl s) (by decide)) (by decide) ..) (by decide) ..
  have len : s.countClasses.clk = s.clk :=
    (State.countClasses_keeps (B := [.ctxs, .sched, .obs]) (.refl s) (by decide)).same .clk (by decide)
  have clk := counted.same .clk (by decide)
  simp only [Block.same] at clk
  unfold State.closePick
  dsimp only
  split
  case isTrue long =>
    refine Eq.trans ((State.each_keeps (B := [.ctxs]) (.refl _) fun t a ht =>
      State.modRecs_keeps ht (by decide) ..).same .clk (by decide)) ?_
    rw [len] at long
    simp [clk, long]
  case isFalse short =>
    rw [len] at short
    rw [clk]
    simp [short]

/-- The boundary itself advances the clock; what is done at it beside that leaves the clock alone. -/
theorem State.pickBoundary_clk (s : State) :
    s.closePick.flushRings.turnPick.turnObs.endWindows.openPick.dropTags.alignEnd.clk =
      s.closePick.turnPick.clk := by
  have flushed : s.closePick.flushRings.clk = s.closePick.clk :=
    (State.flushRings_keeps (B := [.mem, .rings, .engine, .out]) (.refl _) (by decide)).same .clk (by decide)
  have after : Keeps [.harnesses, .looms, .windows, .mem, .ctxs, .sched, .obs, .time, .mbx, .out]
      s.closePick.flushRings.turnPick
      s.closePick.flushRings.turnPick.turnObs.endWindows.openPick.dropTags.alignEnd :=
    State.alignEnd_keeps (State.dropTags_keeps (State.openPick_keeps (State.endWindows_keeps
      (State.turnObs_keeps (.refl _) (by decide)) (by decide)) (by decide)) (by decide)) (by decide)
  refine Eq.trans (after.same .clk (by decide)) ?_
  simp only [State.turnPick, flushed]

theorem exec_pickBoundary_runs (input : s.pwr.input = true) (osc : s.pwr.oscFailed = false) :
    exec .pickBoundary s =
      .next s.closePick.flushRings.turnPick.turnObs.endWindows.openPick.dropTags.alignEnd := by
  simp [exec, execPickBoundary, input, osc]

/-! ## The latching read -/

theorem exec_hubPickLoRead_done {who : Who} {j : Nat} (h : s.actsAs who j) :
    exec (.hubPickLoRead who) s = .next ((s.readPickLo j).2.emit (.readData j (s.readPickLo j).1)) :=
  congrArg Host.Outcome.next (State.readAs_done h _)

end Sys2Proof.Machine

open Sys2Proof Sys2Proof.Machine

/-- Settles O12: the clock of a boundary, the cases of `Clock.dueLen` (R33) and of the switch pick, the latching read. -/
theorem pickCounterAdvances : Obligations.PickCounterAdvances := by
  refine ⟨fun s input osc => ?_, fun s stopped => ?_, fun s up free change longer shorter => ?_,
    fun s free waits => ?_, fun s e rest up member sched reached change => ?_, fun s who j h => ?_⟩
  · refine yields_of (exec_pickBoundary_runs input osc) ?_
    rw [State.pickBoundary_clk, State.turnPick, State.closePick_clk]
  · rcases stopped with h | h <;> simp [exec, execPickBoundary, h]
  · have due : s.clk.dueLen = some s.clk.reqLen := by
      rcases Nat.lt_or_gt_of_ne change with h | h
      · exact Clock.dueLen_of_shorter h (shorter h)
      · exact Clock.dueLen_of_longer h (longer h)
    refine yields_of (exec_pickLengthChange_due up free due) ⟨rfl, rfl, rfl, rfl, ?_, ?_, ?_, rfl, rfl⟩ <;>
      simp [State.setLen, State.localKinds, Clock.logChange]
  · refine exec_pickLengthChange_idle free ?_
    rcases waits with ⟨longer, r, hr, recent, short⟩ | ⟨shorter, gap⟩
    · exact Clock.dueLen_of_not_ripe ((Clock.ripeLen_le_of_mem hr recent).trans short) (by omega)
    · exact Clock.dueLen_of_not_ripe (s.clk.ripeLen_le_reqLen.trans shorter.le) fun _ => gap
  · obtain ⟨thermal, power, screen⟩ := s.switchKinds_of_source e
    refine yields_of (exec_pickLengthChange_switch up member sched reached change)
      ⟨rfl, rfl, rfl, ?_, ?_, ?_, ?_, rfl, rfl⟩
    · exact fun source long => byBit_of_source (thermal source) long
    · exact fun source long => byBit_of_source (power source) long
    · exact fun source long => byBit_of_source (screen source) long
    · exact fun short => by simp [State.fresh, State.setLen, Clock.logChange, short]
  · refine yields_of (exec_hubPickLoRead_done h) ⟨rfl, ?_, fun k hk => ?_, rfl⟩
    · exact s.modLatch_latch ..
    · exact s.modLatch_latch_other hk _

end

section
/-! Plan steps (R29, R30, R158): a step command is one `State.runStep` of its step, whose work leaves the schedule alone. -/

-- one proof at a time: side by side, their stacks and heaps do not fit beside the rest of the text
set_option Elab.async false

namespace Sys2Proof.Machine

variable {s t : State} {cmd : Instr} {c l i k slot : Nat} {d : Due} {B : List Block}

/-! ## What a step command runs -/

/-- The work that a step command does in the state in which its step runs. -/
def stepWork : Instr → Due → PlanStep → State → State
  | .mvmStep c l _ ups => fun d st s => s.mvmWork c.val l.val d st ups
  | .mendStep c l _ ups => fun d st s => s.mendWork c.val l.val d st ups
  | .fullStep c l _ ups => fun d st s => s.fullWork c.val l.val d st ups
  | .attnStep c l _ ups => fun d st s => s.attnWork c.val l.val d st ups
  | .putStep c l i ups => fun _ st s => (s.putWork c.val l.val 1 st ups).handOff c.val l.val i.toNat st
  | .getStep c l i => fun _ st s => s.getWork c.val l.val st i.2
  | .addStep c l _ ups => fun _ st s => s.putWork c.val l.val 4 st ups
  | .calStep _ l _ => fun _ st s => s.calWindow (l.val * 1024 + st.unit) st.len
  | .testStep c l _ seen => fun d st s => s.testWork c.val l.val d st seen
  | .batchStep c _ i => fun d st s => s.batchWork c.val d st i.2
  | .sampleStep c _ _ ups => fun d st s => s.sampleWork c.val d st ups
  | .emitStep c _ i => fun d st s => s.emitWork c.val d st i.2
  | _ => fun _ _ s => s

/-- The remote operations that a step of KIND `k` leaves outstanding (R152, R218). -/
def State.stepOps (s : State) (c l i k : Nat) : Nat :=
  (if (k = 5 ∨ k = 6 ∨ k = 7) ∧ (s.stepAt c l i).unit ≤ 8 then 1 else 0) +
    (if k = 5 then (s.handOffBlocks c l i (s.stepAt c l i)).length else 0)

/-- The KIND belongs to the list, and no MVM is held back for its targeted scrubs (R52). -/
abbrev State.stepFits (s : State) (c l i k : Nat) : Prop :=
  kindFits k l = true ∧ (k = 1 → s.scrubbing c (s.stepAt c l i).slot (l * 1024 + (s.stepAt c l i).unit) = false)

/-- Every step command is one `State.runStep` of its step. -/
theorem exec_stepCommand (h : stepCommand cmd = some (c, l, i, k)) (s : State) :
    exec cmd s = .next (if s.stepFits c l i k then s.runStep c l i k (s.stepOps c l i k) none (stepWork cmd) else s) := by
  unfold stepCommand at h
  split at h <;> cases h
  case h_1 c l i ups =>
    simp [exec, execMvmStep, State.mvmStep, State.stepFits, kindFits, State.stepOps, stepWork]
  case h_8 c l i =>
    simp [exec, execKnotStep, State.stepFits, kindFits, State.stepOps, stepWork]
  case h_11 c l i =>
    by_cases hub : l.val = 4 <;> simp [exec, execBatchStep, State.stepFits, kindFits, State.stepOps, stepWork, hub]
  case h_12 c l i ups =>
    by_cases hub : l.val = 4 <;> simp [exec, execSampleStep, State.stepFits, kindFits, State.stepOps, stepWork, hub]
  case h_13 c l i =>
    by_cases hub : l.val = 4 <;> simp [exec, execEmitStep, State.stepFits, kindFits, State.stepOps, stepWork, hub]
  all_goals
    simp [exec, execMendStep, execFullStep, execAttnStep, execPutStep, execGetStep, execAddStep, execCalStep,
      execTestStep, execRecvStep, State.stepFits, kindFits, State.stepOps, opsOut, stepWork]

theorem State.runStep_of_none (h : s.startable c l i = none) (k out : Nat) (mid : Option Int)
    (f : Due → PlanStep → State → State) : s.runStep c l i k out mid f = s := by
  simp [State.runStep, h]

/-- A step command whose step may not start changes nothing. -/
theorem exec_stepCommand_idle (h : stepCommand cmd = some (c, l, i, k)) (idle : s.startable c l i = none) :
    exec cmd s = .next s := by
  rw [exec_stepCommand h, State.runStep_of_none idle, ite_self]
/-- One whose step may start does the step's work in the state in which it runs. -/
theorem exec_stepCommand_starts (h : stepCommand cmd = some (c, l, i, k)) (may : s.mayStart c l i k d) :
    exec cmd s = .next (stepWork cmd d (s.stepAt c l i) (s.startRun d (s.stepOps c l i k) none)) := by
  obtain ⟨up, start, kind, fits, scrubbed⟩ := may
  rw [exec_stepCommand h, if_pos ⟨fits, scrubbed⟩]
  simp [State.runStep, start, kind, up]

/-! ## The step that may start -/

/-- Why a waiting step may start (R29, R158). -/
structure State.Ready (s : State) (c l i : Nat) (d : Due) : Prop where
  waits : d ∈ s.sched.due
  ctx : d.ctx = c
  list : d.list = l
  idx : d.idx = i
  notVoid : d.void = false
  reached : d.start ≤ s.clk.pick
  inputs : ∃ a b e, d.knotAt = some a ∧ d.unitAt = some b ∧ d.tileAt = some e ∧
    a < s.clk.pick ∧ b < s.clk.pick ∧ e < s.clk.pick
  unitFree : s.unitTaken (unitKey l (s.stepAt c l i)) d.start = false
  tilesFree : s.tilesBusy (stepTiles (s.image c) l (s.stepAt c l i)) = false

theorem State.ready_of_startable (h : s.startable c l i = some d) : s.Ready c l i d := by
  have waits := List.mem_of_find?_eq_some h
  have p := List.find?_some h
  simp only [sameStep, Bool.and_eq_true, beq_iff_eq, decide_eq_true_eq, Bool.not_eq_true'] at p
  obtain ⟨⟨⟨⟨⟨⟨⟨⟨⟨rfl, rfl⟩, rfl⟩, void⟩, reached⟩, knot⟩, unit⟩, tile⟩, unitFree⟩, tilesFree⟩ := p
  refine ⟨waits, rfl, rfl, rfl, void, reached, ?_, unitFree, tilesFree⟩
  cases hk : d.knotAt <;> cases hu : d.unitAt <;> cases ht : d.tileAt <;> simp_all
theorem State.ready_of_mayStart (h : s.mayStart c l i k d) : s.Ready c l i d := State.ready_of_startable h.2.1

theorem State.unitBusy_of_not_taken {key : Option Nat} {p : Nat} (h : s.unitTaken key p = false) :
    s.unitBusy key = false :=
  (Bool.or_eq_false_iff.mp h).1

/-! ## Starting -/

/-- What a waiting step is, without the state of its inputs. -/
def Due.key (x : Due) : Nat × Nat × Nat × Nat × Nat × Bool := (x.ctx, x.list, x.idx, x.iter, x.start, x.void)

theorem State.tagDraw_frame (s : State) (c l k : Nat) :
    (s.tagDraw c l k).2 = { s with sched := { s.sched with lfsrs := (s.tagDraw c l k).2.sched.lfsrs } } := by
  unfold State.tagDraw; split <;> rfl
theorem State.perf_frame (s : State) (ev n loom : Nat) (ctx unit : Option Nat) :
    s.perf ev n loom ctx unit = { s with obs := (s.perf ev n loom ctx unit).obs } := by
  unfold State.perf; split <;> rfl
theorem State.settle_frame (s : State) (d : Due) (l : Nat) (st : PlanStep) (c : Nat) :
    s.settle d l st c = { s with obs := (s.settle d l st c).obs } := by
  unfold State.settle
  dsimp only
  split
  · rfl
  · split
    · rw [State.perf_frame]; rfl
    · rfl
    · rw [State.perf_frame]; rfl
/-- Refreshing the inputs of the waiting steps leaves which steps wait. -/
theorem State.refresh_due (s : State) : s.refresh.sched.due.map Due.key = s.sched.due.map Due.key := by
  simp only [State.refresh, List.map_map]
  refine List.map_congr_left fun x _ => ?_
  simp only [Function.comp_apply]
  split <;> rfl

/-- A started step joins the runs from this pick, and leaves the waiting list (R29, R30). -/
theorem State.startRun_sched (s : State) (d : Due) (out : Nat) (mid : Option Int) :
    ∃ r : Run, (s.startRun d out mid).sched.runs = s.sched.runs ++ [r] ∧ r.ctx = d.ctx ∧ r.list = d.list ∧
      r.idx = d.idx ∧ r.iter = d.iter ∧ r.start = d.start ∧ r.began = s.clk.pick ∧ r.ended = none ∧ r.outstanding = out ∧
      (s.startRun d out mid).sched.due.map Due.key =
        (s.sched.due.filter fun x => !(sameStep d.ctx d.list d.idx x && x.iter == d.iter)).map Due.key := by
  unfold State.startRun
  dsimp only
  rw [State.perf_frame, State.settle_frame, State.tagDraw_frame]
  exact ⟨_, rfl, rfl, rfl, rfl, rfl, rfl, rfl, rfl, rfl, State.refresh_due _⟩
/-- Starting a step changes the schedule and what is observed of it, nothing else. -/
theorem State.startRun_frame (s : State) (d : Due) (out : Nat) (mid : Option Int) :
    s.startRun d out mid = { s with sched := (s.startRun d out mid).sched, obs := (s.startRun d out mid).obs } := by
  unfold State.startRun
  dsimp only
  rw [State.perf_frame, State.settle_frame, State.tagDraw_frame]
  rfl

/-! ## Struck words of hub SRAM (R260, R261) -/

theorem Keeps.troubled_eq (h : Keeps B s t) (hb : Block.domains ∉ B) (k i : Nat) : t.troubled k i = s.troubled k i := by
  have same := h.same .domains hb
  simp only [Block.same] at same
  simp only [State.troubled, State.domain, same]

theorem State.sramStruck_cons (s : State) (c slot : Nat) (u : Upset) (ups : List Upset) :
    s.sramStruck c slot (u :: ups) = (s.sramStruck c slot [u]).sramStruck c slot ups := rfl

/-- A word that its code still corrects, or an upset of other memory, is counted and noted only. -/
theorem State.sramStruck_one_keeps {u : Upset} (h : ∀ b, u = .sram b → (secded b.toNat).detected = 0) (c slot : Nat) :
    Keeps [.ctxs, .memChecks, .obs] s (s.sramStruck c slot [u]) := by
  cases u
  case sram b =>
    simp only [State.sramStruck, State.each, List.foldl, h b rfl, if_true]
    exact .ite (.refl s) (State.check_keeps (State.eccCorrected_keeps (.refl s) (by decide) _) (by decide) ..)
  all_goals exact .refl s
theorem State.sramStruck_one_faults {b : BitVec 64} (h : (secded b.toNat).detected ≠ 0) (c slot : Nat) :
    (s.sramStruck c slot [.sram b]).troubled 0xA 0 = true := by
  simp only [State.sramStruck, State.each, List.foldl, h, if_false]
  exact State.fault_troubled _ 0xA 0 0xB (by decide)
theorem State.sramStruck_one_troubled (h : s.troubled 0xA 0 = true) (c slot : Nat) (u : Upset) :
    (s.sramStruck c slot [u]).troubled 0xA 0 = true := by
  by_cases lost : ∃ b, u = .sram b ∧ (secded b.toNat).detected ≠ 0
  · obtain ⟨b, rfl, hb⟩ := lost
    exact State.sramStruck_one_faults hb c slot
  · have holds : ∀ b, u = .sram b → (secded b.toNat).detected = 0 := by simpa using lost
    rw [(State.sramStruck_one_keeps holds c slot).troubled_eq (by decide), h]

theorem State.sramStruck_keeps_of_holds {ups : List Upset} (h : sramHolds ups) (c slot : Nat) :
    Keeps [.ctxs, .memChecks, .obs] s (s.sramStruck c slot ups) := by
  induction ups generalizing s with
  | nil => exact .refl s
  | cons u ups ih =>
    have one : ∀ b, u = .sram b → (secded b.toNat).detected = 0 := fun b e => h b (e ▸ .head _)
    exact (State.sramStruck_one_keeps one c slot).trans (ih fun b hb => h b (.tail _ hb))
theorem State.sramStruck_stays_troubled (h : s.troubled 0xA 0 = true) (c slot : Nat) (ups : List Upset) :
    (s.sramStruck c slot ups).troubled 0xA 0 = true := by
  induction ups generalizing s with
  | nil => exact h
  | cons u ups ih => exact ih (State.sramStruck_one_troubled h c slot u)
/-- A word beyond correction faults hub function 0. -/
theorem State.sramStruck_troubled {ups : List Upset} {b : BitVec 64} (hb : .sram b ∈ ups)
    (lost : (secded b.toNat).detected ≠ 0) (c slot : Nat) : (s.sramStruck c slot ups).troubled 0xA 0 = true := by
  induction hb generalizing s with
  | head ups => exact State.sramStruck_stays_troubled (State.sramStruck_one_faults lost c slot) c slot ups
  | tail u _ ih => exact ih

/-! ## The work of hub steps -/

/-- The blocks that a hub step may change beside what a struck word of hub SRAM changes: neither the schedule nor the
reset domains are among them. -/
def hubStepBlocks : List Block :=
  [.tick, .mbx, .mem, .heddles, .harnesses, .looms, .scrub, .windows, .kvt, .ctxs, .rings, .streams, .tenants, .reqs,
   .history, .packs, .memChecks, .twill, .twin, .obs, .agg, .out]

theorem State.batchWork_keeps_struck (s : State) (c : Nat) (d : Due) (st : PlanStep) (ups : List Upset) :
    Keeps hubStepBlocks (s.sramStruck c 0xFFFE ups) (s.batchWork c d st ups) :=
  State.each_keeps
    (State.each_keeps (State.batchBoundary_keeps (.refl _) (by decide) c) fun _ _ h =>
      State.pageBoundary_keeps h (by decide) _)
    fun _ _ h => State.visitSlot_keeps h (by decide) ..

theorem State.sampleWork_keeps_struck {q : Request} (s : State) (c : Nat) (d : Due) (st : PlanStep) (ups : List Upset)
    (served : s.slotReq c st.slot = some q) :
    Keeps hubStepBlocks (s.sramStruck c st.slot ups) (s.sampleWork c d st ups) := by
  unfold State.sampleWork
  rw [served]
  dsimp only
  -- the twin's logits are read and consumed after the main strand's, whose result goes on as it is without twill mode
  refine State.unitStore_keeps (.ite (State.fold_keeps (State.fold_keeps ?twin (by decide) ..) (by decide) ..) ?main)
    (by decide) ..
  case' twin =>
    refine .ite (State.each_keeps ?twinRead fun _ _ h => State.consumeAll_keeps h (by decide) ..) ?twinRead
    refine State.unitRead_keeps ?main (by decide) ..
  case main =>
    refine .ite (State.raiseNonfinite_keeps ?converted (by decide) ..) ?converted
    refine .ite (State.report_keeps ?consumed (by decide) _) ?consumed
    refine .ite (State.each_keeps ?read fun _ _ h => State.consumeAll_keeps h (by decide) ..) ?read
    exact State.unitRead_keeps (State.unitRead_keeps (.refl _) (by decide) ..) (by decide) ..
theorem State.sampleWork_unserved (s : State) (c : Nat) (d : Due) (st : PlanStep) (ups : List Upset)
    (h : s.slotReq c st.slot = none) : s.sampleWork c d st ups = s := by
  unfold State.sampleWork; rw [h]

theorem State.emitWork_keeps_struck {q : Request} (s : State) (c : Nat) (d : Due) (st : PlanStep) (ups : List Upset)
    (served : s.slotReq c st.slot = some q) :
    Keeps hubStepBlocks (s.sramStruck c st.slot ups) (s.emitWork c d st ups) := by
  unfold State.emitWork
  dsimp only
  rw [served]
  dsimp only
  have compared : Keeps hubStepBlocks (s.sramStruck c st.slot ups) ((s.sramStruck c st.slot ups).twillCompare c st.slot) :=
    State.twillCompare_keeps (.refl _) (by decide) ..
  have settled := State.settlePrompt_keeps compared (by decide) c st.slot
  refine .ite (State.emitCancelled_keeps (State.noteSpec_keeps compared (by decide) ..) (by decide) ..)
    (.ite (.ite settled compared) (.ite (.ite settled compared) ?_))
  refine .ite (State.emitWindow_keeps ?judged (by decide) ..) (.ite (State.modBatch_keeps ?judged (by decide) ..) ?judged)
  exact State.judge_keeps (State.each_keeps (.ite settled compared) fun _ _ h => State.unitRead_keeps h (by decide) ..)
    (by decide) ..
theorem State.emitWork_unserved (s : State) (c : Nat) (d : Due) (st : PlanStep) (ups : List Upset)
    (h : s.slotReq c st.slot = none) : s.emitWork c d st ups = s := by
  unfold State.emitWork; dsimp only; rw [h]

/-- Starting a step leaves the requests of the slots. -/
theorem State.startRun_slotReq (s : State) (d : Due) (out : Nat) (mid : Option Int) (c k : Nat) :
    (s.startRun d out mid).slotReq c k = s.slotReq c k := by
  rw [State.startRun_frame]; rfl

/-! ## The work of every step -/

/-- No step's work changes the schedule, unless hub SRAM is struck beyond correction. -/
theorem stepWork_sched (cmd : Instr) (d : Due) (st : PlanStep) (s : State) (holds : sramHolds (stepUpsets cmd)) :
    (stepWork cmd d st s).sched = s.sched := by
  have struck (c slot : Nat) : (s.sramStruck c slot (stepUpsets cmd)).sched = s.sched :=
    (State.sramStruck_keeps_of_holds holds c slot).same .sched (by decide)
  unfold stepWork
  split
  case h_1 => exact (State.mvmWork_keeps (.refl s) (List.Subset.refl _) ..).same .sched (by decide)
  case h_2 => exact (State.mendWork_keeps (.refl s) (List.Subset.refl _) ..).same .sched (by decide)
  case h_3 => exact (State.fullWork_keeps (.refl s) (List.Subset.refl _) ..).same .sched (by decide)
  case h_4 => exact (State.attnWork_keeps (.refl s) (List.Subset.refl _) ..).same .sched (by decide)
  case h_5 =>
    refine Eq.trans ((State.handOff_keeps (.refl _) (List.Subset.refl _) ..).same .sched (by decide)) ?_
    exact (State.putWork_keeps (.refl s) (List.Subset.refl _) ..).same .sched (by decide)
  case h_6 => exact (State.getWork_keeps (.refl s) (List.Subset.refl _) ..).same .sched (by decide)
  case h_7 => exact (State.putWork_keeps (.refl s) (List.Subset.refl _) ..).same .sched (by decide)
  case h_8 => exact (State.calWindow_keeps (.refl s) (List.Subset.refl _) ..).same .sched (by decide)
  case h_9 => exact (State.testWork_keeps (.refl s) (List.Subset.refl _) ..).same .sched (by decide)
  case h_10 => exact ((s.batchWork_keeps_struck ..).same .sched (by decide)).trans (struck ..)
  case h_11 =>
    cases served : s.slotReq _ st.slot with
    | none => rw [State.sampleWork_unserved (h := served)]
    | some q => exact ((s.sampleWork_keeps_struck (served := served) ..).same .sched (by decide)).trans (struck ..)
  case h_12 =>
    cases served : s.slotReq _ st.slot with
    | none => rw [State.emitWork_unserved (h := served)]
    | some q => exact ((s.emitWork_keeps_struck (served := served) ..).same .sched (by decide)).trans (struck ..)
  case h_13 => rfl

/-- A word of hub SRAM struck beyond correction while a hub step runs leaves hub function 0 in trouble (R261). -/
theorem stepWork_troubled {b : BitVec 64} (h : stepCommand cmd = some (c, l, i, k)) (d : Due) (st : PlanStep) (s : State)
    (hub : k = 0xB ∨ ((k = 0xC ∨ k = 0xD) ∧ (s.slotReq c st.slot).isSome = true)) (hb : .sram b ∈ stepUpsets cmd)
    (lost : (secded b.toNat).detected ≠ 0) : (stepWork cmd d st s).troubled 0xA 0 = true := by
  have struck (c slot : Nat) : (s.sramStruck c slot (stepUpsets cmd)).troubled 0xA 0 = true :=
    State.sramStruck_troubled hb lost c slot
  unfold stepCommand at h
  split at h <;> cases h
  case h_11 c l i => exact ((s.batchWork_keeps_struck ..).troubled_eq (by decide) 0xA 0).trans (struck ..)
  case h_12 c l i ups =>
    obtain ⟨q, served⟩ := Option.isSome_iff_exists.mp (hub.resolve_left (by decide)).2
    exact ((s.sampleWork_keeps_struck (served := served) ..).troubled_eq (by decide) 0xA 0).trans (struck ..)
  case h_13 c l i =>
    obtain ⟨q, served⟩ := Option.isSome_iff_exists.mp (hub.resolve_left (by decide)).2
    exact ((s.emitWork_keeps_struck (served := served) ..).troubled_eq (by decide) 0xA 0).trans (struck ..)
  all_goals simp at hub

/-- KNOT and RECV do no work beside starting (Table 6.7). -/
theorem stepWork_of_knot_or_recv (h : stepCommand cmd = some (c, l, i, k)) (hk : k = 8 ∨ k = 0xE) (d : Due)
    (st : PlanStep) (s : State) : stepWork cmd d st s = s := by
  unfold stepCommand at h
  split at h <;> cases h
  case h_8 | h_14 => rfl
  all_goals exact absurd hk (by decide)

end Sys2Proof.Machine

open Sys2Proof Sys2Proof.Machine

/-- Settles O21: a step command is one `State.runStep`, which starts its run (`State.startRun_sched`) and then does work that
leaves the schedule alone (`stepWork_sched`); what a struck word of hub SRAM faults stays in trouble to the end of the work. -/
theorem stepsStartWhenReady : Obligations.StepsStartWhenReady := by
  refine ⟨fun cmd c l i k s d h may holds => ?_, fun cmd c l i k s h idle => exec_stepCommand_idle h idle,
    fun cmd c l i k s d b h may hub hb lost => ?_⟩
  · obtain ⟨waits, rfl, rfl, rfl, notVoid, reached, inputs, unitFree, tilesFree⟩ := State.ready_of_mayStart may
    have sched := stepWork_sched cmd d (s.stepAt d.ctx d.list d.idx) (s.startRun d (s.stepOps d.ctx d.list d.idx k) none) holds
    obtain ⟨r, runs, ctx, list, idx, iter, start, began, ended, out, due⟩ :=
      s.startRun_sched d (s.stepOps d.ctx d.list d.idx k) none
    refine yields_of (exec_stepCommand_starts h may) ⟨r, sched ▸ runs, ctx, list, idx, iter, start, began, ended, out,
      sched ▸ due, waits, notVoid, reached, inputs, State.unitBusy_of_not_taken unitFree, tilesFree, fun hk => ?_⟩
    rw [stepWork_of_knot_or_recv h hk]
    exact State.startRun_frame ..
  · refine yields_of (exec_stepCommand_starts h may) (stepWork_troubled h d _ _ ?_ hb lost)
    simpa only [State.startRun_slotReq] using hub

end

section
/-! What power-on leaves (R350, Table 16.3). -/

namespace Sys2Proof.Machine

/-- A table that lists nothing reads its default at every number: after power-on every register of a harness, a context, a mailbox,
a port and an identity slot holds its reset value. -/
theorem Tab.getD_empty {α : Type} (d : α) (k : Nat) : Tab.getD d [] k = d := rfl

theorem State.reset_harness (h : Nat) : State.reset.harness h = {} := Tab.getD_empty ..
theorem State.reset_ctx (c : Nat) : State.reset.ctx c = {} := Tab.getD_empty ..
theorem State.reset_mailbox (m : Nat) : State.reset.mailbox m = {} := Tab.getD_empty ..
theorem State.reset_port (p : Nat) : State.reset.port p = {} := Tab.getD_empty ..
/-- Every identity slot but the I3C target's is free. -/
theorem State.reset_slot {j : Nat} (h : j ≠ 62) : State.reset.slot j = {} := if_neg h.symm

end Sys2Proof.Machine

open Sys2Proof Sys2Proof.Machine

/-- Settles O4: power-on lists nothing in any table, so each entry is its reset value; of the identity slots only 62, the
I3C target's, is in use. -/
theorem resetState : Obligations.ResetState := by
  refine ⟨Memory.wf_empty, rfl, rfl, rfl, rfl, rfl, fun h => ?_, fun c => ?_, fun m => ?_, fun p => ?_, ?_, fun j hj => ?_, rfl⟩
  · rw [State.reset_harness]
  · rw [State.reset_ctx]
  · rw [State.reset_mailbox]
    exact ⟨rfl, rfl⟩
  · rw [State.reset_port]
    exact ⟨rfl, rfl⟩
  · decide
  · rw [State.reset_slot (by omega)]

end

section
/-! The product of a dent (chapter 02): what its conversions count, why undisturbed ones read clean, and what the beater makes of
the counts of all planes. -/

-- one proof at a time: side by side, their stacks and heaps do not fit beside the rest of the text
set_option Elab.async false

namespace Sys2Proof.Machine

/-! ## Sums and bits -/

theorem sumNat_eq_sum (l : List Nat) : sumNat l = l.sum := List.sum_eq_foldl.symm
theorem sumInt_eq_sum (l : List Int) : sumInt l = l.sum := List.sum_eq_foldl.symm
theorem sumNat_map_range (n : Nat) (f : Nat → Nat) : sumNat ((List.range n).map f) = ∑ i ∈ Finset.range n, f i :=
  sumNat_eq_sum _
theorem sumInt_map_range (n : Nat) (f : Nat → Int) : sumInt ((List.range n).map f) = ∑ i ∈ Finset.range n, f i :=
  sumInt_eq_sum _

theorem b2n_bitOf (v i : Nat) : b2n (bitOf v i) = v / 2 ^ i % 2 := by
  rw [← Nat.toNat_testBit]
  cases h : v.testBit i <;> simp [b2n, bitOf, h]

theorem fld_succ (v lo w : Nat) : fld v lo (w + 1) = fld v lo w + 2 ^ w * b2n (bitOf v (lo + w)) := by
  rw [b2n_bitOf, fld, fld, Nat.mod_pow_succ, Nat.div_div_eq_div_mul, ← Nat.pow_add]

/-- A field is the sum of its bits by weight. -/
theorem sum_bits_eq_fld (v lo w : Nat) : ∑ j ∈ Finset.range w, 2 ^ j * b2n (bitOf v (lo + j)) = fld v lo w := by
  induction w with
  | zero => simp [fld, Nat.mod_one]
  | succ w ih => rw [Finset.sum_range_succ, ih, fld_succ]

/-- The weight of bit `b` of a two's complement number of `w` bits. -/
def signWeight (w b : Nat) : Int := if b + 1 = w then -2 ^ b else 2 ^ b

theorem signWeight_lower {n b : Nat} (h : b < n) : signWeight (n + 1) b = 2 ^ b := if_neg (by omega)
theorem signWeight_top (n : Nat) : signWeight (n + 1) n = -2 ^ n := if_pos rfl

theorem signed_of_lower {n u : Nat} (h : u < 2 ^ n) : signed (n + 1) u = u := by
  have : u % 2 ^ (n + 1) = u := Nat.mod_eq_of_lt (by rw [pow_succ]; omega)
  simp [signed, this, h]
theorem signed_of_upper {n u : Nat} (lo : 2 ^ n ≤ u) (hi : u < 2 ^ (n + 1)) : signed (n + 1) u = u - 2 ^ (n + 1) := by
  simp [signed, Nat.mod_eq_of_lt hi, Nat.not_lt.mpr lo]

/-- A two's complement field is the sum of its bits by signed weight. -/
theorem sum_signWeight_eq_signed {w : Nat} (hw : 1 ≤ w) (v lo : Nat) :
    ∑ b ∈ Finset.range w, signWeight w b * b2n (bitOf v (lo + b)) = signed w (fld v lo w) := by
  obtain ⟨n, rfl⟩ : ∃ n, w = n + 1 := ⟨w - 1, by omega⟩
  have lower : ∑ b ∈ Finset.range n, signWeight (n + 1) b * b2n (bitOf v (lo + b)) = (fld v lo n : Int) := by
    rw [← sum_bits_eq_fld, Nat.cast_sum]
    refine Finset.sum_congr rfl fun b hb => ?_
    rw [signWeight_lower (Finset.mem_range.mp hb)]
    push_cast
    rfl
  have below : fld v lo n < 2 ^ n := Nat.mod_lt _ (Nat.two_pow_pos n)
  rw [Finset.sum_range_succ, lower, signWeight_top, fld_succ]
  cases bitOf v (lo + n)
  · rw [signed_of_lower (by simpa [b2n] using below)]
    simp [b2n]
  · rw [signed_of_upper (by simp [b2n]) (by simp only [b2n, if_true, pow_succ]; omega)]
    simp only [b2n, if_true]
    push_cast
    ring

theorem unsigned_cast (w : Nat) (e : Int) : ((unsigned w e : Nat) : Int) = e % 2 ^ w := by
  have := Int.emod_nonneg e (pow_ne_zero w (two_ne_zero (α := Int)))
  simp [unsigned, Int.toNat_of_nonneg this]

theorem signed_unsigned {n : Nat} {e : Int} (lo : -(2 ^ n : Int) ≤ e) (hi : e < 2 ^ n) :
    signed (n + 1) (unsigned (n + 1) e) = e := by
  have two : (2 : Int) ^ (n + 1) = 2 * 2 ^ n := by ring
  have cast := unsigned_cast (n + 1) e
  rcases lt_or_ge e 0 with neg | nonneg
  · have value : e % 2 ^ (n + 1) = e + 2 ^ (n + 1) := by
      rw [← Int.add_emod_right, Int.emod_eq_of_lt (by omega) (by omega)]
    rw [signed_of_upper (by zify; omega) (by zify; omega)]
    omega
  · have value : e % 2 ^ (n + 1) = e := Int.emod_eq_of_lt nonneg (by omega)
    rw [signed_of_lower (by zify; omega)]
    omega

/-- An integer is the sum of the bits of its two's complement pattern by signed weight. -/
theorem sum_signWeight_unsigned {w : Nat} (hw : 1 ≤ w) {e : Int} (lo : -(2 ^ (w - 1) : Int) ≤ e) (hi : e < 2 ^ (w - 1)) :
    ∑ b ∈ Finset.range w, signWeight w b * b2n (bitOf (unsigned w e) b) = e := by
  obtain ⟨n, rfl⟩ : ∃ n, w = n + 1 := ⟨w - 1, by omega⟩
  have field : signed (n + 1) (fld (unsigned (n + 1) e) 0 (n + 1)) = signed (n + 1) (unsigned (n + 1) e) := by
    simp [fld, signed]
  have sum := sum_signWeight_eq_signed hw (unsigned (n + 1) e) 0
  simp only [Nat.zero_add] at sum
  rw [sum, field]
  exact signed_unsigned (n := n) lo hi

/-! ## Integers with their residues (R114, R115) -/

theorem Resd.ok_iff (x : Resd) : x.ok = true ↔ (x.res : Int) = x.val % 7 := by
  have := Int.emod_nonneg x.val (by decide : (7 : Int) ≠ 0)
  simp only [Resd.ok, mod7, beq_iff_eq]
  omega
theorem Resd.of_ok (v : Int) : (Resd.of v).ok = true := by simp [Resd.of, Resd.ok]
theorem Resd.add_ok {x y : Resd} (hx : x.ok = true) (hy : y.ok = true) : (x.add y).ok = true := by
  rw [Resd.ok_iff] at *
  simp only [Resd.add]
  omega
theorem Resd.neg_ok {x : Resd} (hx : x.ok = true) : x.neg.ok = true := by
  rw [Resd.ok_iff] at *
  simp only [Resd.neg]
  omega
/-- 8 is 1 modulo 7, so that a shift multiplies a residue by 1, 2 or 4. -/
theorem two_pow_mod_three (k : Nat) : (2 : Int) ^ (k % 3) ≡ 2 ^ k [ZMOD 7] := by
  have turns : (8 : Int) ^ (k / 3) ≡ 1 [ZMOD 7] := by simpa using (show (8 : Int) ≡ 1 [ZMOD 7] by decide).pow (k / 3)
  calc (2 : Int) ^ (k % 3) = 2 ^ (k % 3) * 1 := (mul_one _).symm
    _ ≡ 2 ^ (k % 3) * 8 ^ (k / 3) [ZMOD 7] := (Int.ModEq.refl _).mul turns.symm
    _ = 2 ^ k := by
      conv_rhs => rw [← Nat.mod_add_div k 3, pow_add, pow_mul]
      rfl
theorem Resd.shl_ok {x : Resd} (hx : x.ok = true) (k : Nat) : (x.shl k).ok = true := by
  rw [Resd.ok_iff] at *
  have agree : (x.res : Int) ≡ x.val [ZMOD 7] := by
    rw [hx]
    exact Int.mod_modEq ..
  simp only [Resd.shl]
  push_cast
  exact agree.mul (two_pow_mod_three k)

theorem Resd.foldl_add (l : List Resd) (x : Resd) (hx : x.ok = true) (hl : ∀ y ∈ l, y.ok = true) :
    (l.foldl Resd.add x).ok = true ∧ (l.foldl Resd.add x).val = x.val + (l.map Resd.val).sum := by
  induction l generalizing x with
  | nil => simp [hx]
  | cons y l ih =>
    obtain ⟨hy, hl⟩ := List.forall_mem_cons.mp hl
    obtain ⟨ok, val⟩ := ih (x.add y) (Resd.add_ok hx hy) hl
    exact ⟨ok, by rw [List.foldl_cons, val]; simp [Resd.add, add_assoc]⟩
/-- A sum of integers whose residues agree is their sum, and its residue agrees. -/
theorem Resd.sum_range {n : Nat} {f : Nat → Resd} (hf : ∀ i < n, (f i).ok = true) :
    (Resd.sum ((List.range n).map f)).ok = true ∧
      (Resd.sum ((List.range n).map f)).val = ∑ i ∈ Finset.range n, (f i).val := by
  obtain ⟨ok, val⟩ := Resd.foldl_add ((List.range n).map f) ⟨0, 0⟩ rfl (by simpa using hf)
  refine ⟨ok, val.trans ?_⟩
  rw [List.map_map, Int.zero_add]
  rfl
@[simp] theorem Resd.struck_nil (p : IntPlace) (x : Resd) : x.struck [] p = x := rfl

/-! ## The selvage of a row (R48) -/

/-- Three numbers packed side by side, the second from bit `n`, the third from bit `p`: the fields read them back. -/
theorem fld_packed {x y z n m p k q : Nat} (hp : p = n + m) (hq : q = p + k) (hx : x < 2 ^ n) (hy : y < 2 ^ m)
    (hz : z < 2 ^ k) :
    x + y * 2 ^ n + z * 2 ^ p < 2 ^ q ∧ (x + y * 2 ^ n + z * 2 ^ p) % 2 ^ n = x ∧
      fld (x + y * 2 ^ n + z * 2 ^ p) n m = y ∧ fld (x + y * 2 ^ n + z * 2 ^ p) p k = z := by
  have below {u v lo w : Nat} (hu : u < 2 ^ lo) (hv : v < 2 ^ w) : u + v * 2 ^ lo < 2 ^ (lo + w) :=
    calc u + v * 2 ^ lo < (v + 1) * 2 ^ lo := by rw [Nat.succ_mul]; omega
      _ ≤ 2 ^ w * 2 ^ lo := Nat.mul_le_mul_right _ hv
      _ = 2 ^ (lo + w) := by rw [← pow_add, Nat.add_comm]
  have low : x + y * 2 ^ n < 2 ^ p := hp ▸ below hx hy
  have inner : x + y * 2 ^ n + z * 2 ^ p = x + (y + z * 2 ^ m) * 2 ^ n := by rw [hp, pow_add]; ring
  refine ⟨hq ▸ below low hz, ?_, ?_, ?_⟩
  · rw [inner, Nat.add_mul_mod_self_right, Nat.mod_eq_of_lt hx]
  · rw [inner, fld, Nat.add_mul_div_right _ _ (Nat.two_pow_pos n), Nat.div_eq_of_lt hx, Nat.zero_add,
      Nat.add_mul_mod_self_right, Nat.mod_eq_of_lt hy]
  · rw [fld, Nat.add_mul_div_right _ _ (Nat.two_pow_pos _), Nat.div_eq_of_lt low, Nat.zero_add, Nat.mod_eq_of_lt hz]

theorem toNat_ofNat_of_lt {n v : Nat} (h : v < 2 ^ n) : (BitVec.ofNat n v).toNat = v := by
  rw [BitVec.toNat_ofNat, Nat.mod_eq_of_lt h]
theorem rowSum_eq (x : Nat) : rowSum x = ∑ c ∈ Finset.range 512, b2n (bitOf x c) := sumNat_map_range ..
theorem rowIndexSum_eq (x : Nat) : rowIndexSum x = (∑ c ∈ Finset.range 512, c * b2n (bitOf x c)) % 64 :=
  congrArg (· % 64) (sumNat_map_range ..)
theorem b2n_le_one (b : Bool) : b2n b ≤ 1 := by cases b <;> decide
theorem rowSum_lt (x : Nat) : rowSum x < 2 ^ 10 := by
  have : rowSum x ≤ ∑ _c ∈ Finset.range 512, 1 := (rowSum_eq x).trans_le (Finset.sum_le_sum fun c _ => b2n_le_one _)
  simp only [Finset.sum_const, Finset.card_range, smul_eq_mul] at this
  omega
theorem bitOf_mod {x c n : Nat} (h : c < n) : bitOf (x % 2 ^ n) c = bitOf x c := by
  simp [bitOf, Nat.testBit_mod_two_pow, h]

/-- The selvage bits of a row agree with its own data: its column count and its index sum (R48). -/
structure SelvageAgrees (r : Nat) : Prop where
  count : fld r 512 10 = ∑ c ∈ Finset.range 512, b2n (bitOf r c)
  index : fld r 522 6 = (∑ c ∈ Finset.range 512, c * b2n (bitOf r c)) % 64

theorem rowWithSelvage_agrees (x : Nat) : SelvageAgrees (rowWithSelvage x).toNat := by
  obtain ⟨lt, data, count, index⟩ := fld_packed (n := 512) (p := 522) (q := 528) (x := x % 2 ^ 512) rfl rfl
    (Nat.mod_lt x (pow_pos Nat.two_pos 512)) (rowSum_lt (x % 2 ^ 512))
    (show rowIndexSum (x % 2 ^ 512) < 2 ^ 6 from Nat.mod_lt _ (by decide))
  have stored : (rowWithSelvage x).toNat =
      x % 2 ^ 512 + rowSum (x % 2 ^ 512) * 2 ^ 512 + rowIndexSum (x % 2 ^ 512) * 2 ^ 522 :=
    toNat_ofNat_of_lt lt
  rw [← stored] at data count index
  have bits {c : Nat} (h : c ∈ Finset.range 512) : bitOf (x % 2 ^ 512) c = bitOf (rowWithSelvage x).toNat c := by
    rw [← data, bitOf_mod (Finset.mem_range.mp h)]
  refine ⟨count.trans ?_, index.trans ?_⟩
  · rw [rowSum_eq]
    exact Finset.sum_congr rfl fun c h => by rw [bits h]
  · rw [rowIndexSum_eq]
    exact congrArg (· % 64) (Finset.sum_congr rfl fun c h => by rw [bits h])

/-! ## Undisturbed conversions (R44, R47, R49) -/

/-- The conversions of 528 undisturbed columns that hold `n c` units each. -/
def cleanConvs (n : Nat → Nat) : List Conv := (List.range 528).map fun c => cleanConv (n c)

section
variable {n : Nat → Nat} (few : ∀ c, n c ≤ 64)
include few

theorem cleanConv_count (c : Nat) : (cleanConv (n c)).count = n c := if_pos (few c)
theorem cleanConvs_getD {c : Nat} (h : c < 528) : ((cleanConvs n).getD c (cleanConv 0)).count = n c := by
  rw [cleanConvs, List.getD_eq_getElem _ _ (by simpa using h), List.getElem_map, List.getElem_range, cleanConv_count few]
theorem cleanConvs_counts : (cleanConvs n).map Conv.count = (List.range 528).map n := by
  rw [cleanConvs, List.map_map]
  exact List.map_congr_left fun c _ => cleanConv_count few c
theorem cleanConvs_not_over : (cleanConvs n).any Conv.over = false := by
  simp [cleanConvs, Conv.over, cleanConv, few]

theorem syndromeA_cleanConvs :
    syndromeA (cleanConvs n) = (∑ c ∈ Finset.range 512, n c : Nat) - (∑ j ∈ Finset.range 10, 2 ^ j * n (512 + j) : Nat) := by
  have data : ((cleanConvs n).take 512).map Conv.count = (List.range 512).map n := by
    rw [List.map_take, cleanConvs_counts few, ← List.map_take, List.take_range]
    rfl
  have selvage : ∑ j ∈ Finset.range 10, 2 ^ j * ((cleanConvs n).getD (512 + j) (cleanConv 0)).count =
      ∑ j ∈ Finset.range 10, 2 ^ j * n (512 + j) :=
    Finset.sum_congr rfl fun j hj => by
      have := Finset.mem_range.mp hj
      rw [cleanConvs_getD few (by omega)]
  rw [syndromeA, data, sumNat_map_range, sumNat_map_range, selvage]
theorem syndromeB_cleanConvs : syndromeB (cleanConvs n) =
    (∑ c ∈ Finset.range 512, c * n c + 63 * ∑ k ∈ Finset.range 6, 2 ^ k * n (522 + k)) % 64 := by
  have data : ∑ c ∈ Finset.range 512, c * ((cleanConvs n).getD c (cleanConv 0)).count = ∑ c ∈ Finset.range 512, c * n c :=
    Finset.sum_congr rfl fun c hc => by
      have := Finset.mem_range.mp hc
      rw [cleanConvs_getD few (by omega)]
  have selvage : ∑ k ∈ Finset.range 6, 2 ^ k * ((cleanConvs n).getD (522 + k) (cleanConv 0)).count =
      ∑ k ∈ Finset.range 6, 2 ^ k * n (522 + k) :=
    Finset.sum_congr rfl fun k hk => by
      have := Finset.mem_range.mp hk
      rw [cleanConvs_getD few (by omega)]
  simp only [syndromeB, sumNat_map_range, data, selvage]
  omega
end

/-! ## The counts of a dent (R40, R50) -/

/-- The units in column `c` of dent `d` when the rows `rows` are driven 1 (R40). -/
def Heddle.units (h : Heddle) (d : Nat) (rows : Finset Nat) (c : Nat) : Nat :=
  ∑ k ∈ rows, b2n (bitOf (h.row (64 * d + k)) c)

theorem length_filter_map {α : Type} (r : Nat → α) (p : α → Bool) (l : List Nat) :
    ((l.map r).filter p).length = (l.map fun k => b2n (p (r k))).sum := by
  induction l with
  | nil => rfl
  | cons k l ih => cases hk : p (r k) <;> simp [hk, ih, b2n, Nat.add_comm]

theorem trueCounts_eq (h : Heddle) (d : Nat) {driven : List Nat} (nodup : driven.Nodup) :
    trueCounts h d driven = (List.range 528).map (h.units d driven.toFinset) := by
  refine List.map_congr_left fun c _ => ?_
  rw [length_filter_map, Heddle.units, List.sum_toFinset _ nodup]
theorem dentConvs_undisturbed (h : Heddle) (i d b : Nat) {driven : List Nat} (nodup : driven.Nodup) :
    dentConvs h i d b driven [] = cleanConvs (h.units d driven.toFinset) := by
  rw [dentConvs, List.foldl_nil, trueCounts_eq h d nodup, List.map_map]
  rfl

theorem Heddle.units_le (h : Heddle) (d : Nat) {rows : Finset Nat} (few : rows ⊆ Finset.range 64) (c : Nat) :
    h.units d rows c ≤ 64 :=
  calc h.units d rows c ≤ ∑ _k ∈ rows, 1 := Finset.sum_le_sum fun _ _ => b2n_le_one _
    _ = rows.card := (Finset.card_eq_sum_ones rows).symm
    _ ≤ (Finset.range 64).card := Finset.card_le_card few
    _ = 64 := Finset.card_range 64

/-- A weighted sum over columns of a dent's units is the sum over its driven rows of that of each row. -/
theorem Heddle.sum_units (h : Heddle) (d : Nat) (rows : Finset Nat) (n lo : Nat) (weight : Nat → Nat) :
    ∑ c ∈ Finset.range n, weight c * h.units d rows (lo + c) =
      ∑ k ∈ rows, ∑ c ∈ Finset.range n, weight c * b2n (bitOf (h.row (64 * d + k)) (lo + c)) := by
  simp only [Heddle.units, Finset.mul_sum]
  exact Finset.sum_comm

section
variable {h : Heddle} {d : Nat} {rows : Finset Nat} (few : rows ⊆ Finset.range 64)
  (agrees : ∀ k ∈ rows, SelvageAgrees (h.row (64 * d + k)))
include few agrees

/-- DA of an undisturbed dent is 0: the selvage columns count the units of the data columns. -/
theorem syndromeA_undisturbed : syndromeA (cleanConvs (h.units d rows)) = 0 := by
  have data := h.sum_units d rows 512 0 fun _ => 1
  simp only [one_mul, Nat.zero_add] at data
  have selvage := h.sum_units d rows 10 512 fun j => 2 ^ j
  simp only [sum_bits_eq_fld] at selvage
  rw [syndromeA_cleanConvs (h.units_le d few), data, selvage, Finset.sum_congr rfl fun k hk => (agrees k hk).count, sub_self]

/-- DB of an undisturbed dent is 0: the selvage columns hold the index sum of the data columns modulo 64. -/
theorem syndromeB_undisturbed : syndromeB (cleanConvs (h.units d rows)) = 0 := by
  have data := h.sum_units d rows 512 0 fun c => c
  simp only [Nat.zero_add] at data
  have selvage := h.sum_units d rows 6 522 fun j => 2 ^ j
  simp only [sum_bits_eq_fld] at selvage
  rw [syndromeB_cleanConvs (h.units_le d few), data, selvage, Finset.sum_congr rfl fun k hk => (agrees k hk).index,
    Nat.add_mod, Nat.mul_mod, ← Finset.sum_nat_mod, ← Nat.mul_mod, ← Nat.add_mod]
  omega

/-- An undisturbed dent reads clean. -/
theorem resolve_undisturbed : resolve (cleanConvs (h.units d rows)) = .clean := by
  simp [resolve, cleanConvs_not_over (h.units_le d few), syndromeA_undisturbed few agrees, syndromeB_undisturbed few agrees]
theorem dentCounts_undisturbed : dentCounts (cleanConvs (h.units d rows)) = (List.range 528).map (h.units d rows) := by
  rw [dentCounts, resolve_undisturbed few agrees, cleanConvs_counts (h.units_le d few)]
end

/-! ## Products (R101, R102) -/

/-- A value added or, for the topmost bit, subtracted keeps its residue and counts by its signed weight. -/
theorem Resd.signed_shl {x : Resd} (hx : x.ok = true) (w b : Nat) :
    (if b + 1 = w then (x.shl b).neg else x.shl b).ok = true ∧
      (if b + 1 = w then (x.shl b).neg else x.shl b).val = signWeight w b * x.val := by
  unfold signWeight
  split
  · exact ⟨Resd.neg_ok (Resd.shl_ok hx b), by simp [Resd.neg, Resd.shl, mul_comm]⟩
  · exact ⟨Resd.shl_ok hx b, by simp [Resd.shl, mul_comm]⟩

theorem weightInt_one (r lo : Nat) : weightInt 1 (fld r lo 1) = 2 * b2n (bitOf r lo) - 1 := by
  have bit : fld r lo 1 = b2n (bitOf r lo) := (b2n_bitOf ..).symm
  rw [weightInt, if_pos rfl, bit, Nat.mod_eq_of_lt (Nat.lt_succ_of_le (b2n_le_one _))]
theorem weightInt_of_width {w : Nat} (hw : w ≠ 1) (v : Nat) : weightInt w v = signed w v := if_neg hw

section
variable (h : Heddle) (d : Nat) (rows : Finset Nat) {w o : Nat} (fits : o * w + w ≤ 528)
include fits

theorem getD_units {i : Nat} (hi : i < w) :
    ((List.range 528).map (h.units d rows)).getD (o * w + i) 0 = h.units d rows (o * w + i) := by
  rw [List.getD_eq_getElem _ _ (by simp only [List.length_map, List.length_range]; omega), List.getElem_map, List.getElem_range]

/-- A plane's product is the sum of the weights of the rows that it drives, and its residue agrees. -/
theorem planeProduct_exact (hw : 1 ≤ w) :
    (planeProduct w rows.card ((List.range 528).map (h.units d rows)) o).ok = true ∧
      (planeProduct w rows.card ((List.range 528).map (h.units d rows)) o).val =
        ∑ k ∈ rows, weightInt w (fld (h.row (64 * d + k)) (o * w) w) := by
  by_cases one : w = 1
  · subst one
    rw [planeProduct, if_pos rfl]
    dsimp only
    rw [getD_units h d rows fits (by decide)]
    refine ⟨Resd.add_ok (Resd.shl_ok (Resd.of_ok _) 1) (Resd.neg_ok (Resd.of_ok _)), ?_⟩
    calc ((h.units d rows (o * 1) : Nat) : Int) * 2 ^ 1 + -(rows.card : Int)
      _ = ∑ k ∈ rows, (2 * (b2n (bitOf (h.row (64 * d + k)) (o * 1)) : Int) - 1) := by
          simp [Heddle.units, Finset.mul_sum, mul_comm, sub_eq_add_neg, Finset.sum_add_distrib]
      _ = ∑ k ∈ rows, weightInt 1 (fld (h.row (64 * d + k)) (o * 1) 1) :=
          Finset.sum_congr rfl fun k _ => (weightInt_one _ _).symm
  · rw [planeProduct, if_neg one]
    dsimp only
    obtain ⟨ok, val⟩ := Resd.sum_range (n := w) (f := fun i =>
      let x := Resd.of (((List.range 528).map (h.units d rows)).getD (o * w + i) 0 : Nat)
      if i + 1 = w then (x.shl i).neg else x.shl i) fun i _ => (Resd.signed_shl (Resd.of_ok _) w i).1
    refine ⟨ok, val.trans ?_⟩
    calc _ = ∑ i ∈ Finset.range w, signWeight w i * (h.units d rows (o * w + i) : Nat) :=
          Finset.sum_congr rfl fun i hi => by
            rw [(Resd.signed_shl (Resd.of_ok _) w i).2, getD_units h d rows fits (Finset.mem_range.mp hi)]
            rfl
      _ = ∑ k ∈ rows, ∑ i ∈ Finset.range w, signWeight w i * b2n (bitOf (h.row (64 * d + k)) (o * w + i)) := by
          simp only [Heddle.units, Nat.cast_sum, Finset.mul_sum]
          exact Finset.sum_comm
      _ = ∑ k ∈ rows, weightInt w (fld (h.row (64 * d + k)) (o * w) w) :=
          Finset.sum_congr rfl fun k _ => by rw [sum_signWeight_eq_signed hw, weightInt_of_width one]
end

/-- The dent product combines the planes' products by signed weight. -/
theorem dentProduct_eq {w aw o : Nat} {plane : Nat → Nat × List Nat}
    (ok : ∀ b, (planeProduct w (plane b).1 (plane b).2 o).ok = true) :
    (dentProduct w ((List.range aw).map plane) o).ok = true ∧
      (dentProduct w ((List.range aw).map plane) o).val =
        ∑ b ∈ Finset.range aw, signWeight aw b * (planeProduct w (plane b).1 (plane b).2 o).val := by
  have planes : dentProduct w ((List.range aw).map plane) o = Resd.sum ((List.range aw).map fun b =>
      if b + 1 = aw then ((planeProduct w (plane b).1 (plane b).2 o).shl b).neg
      else (planeProduct w (plane b).1 (plane b).2 o).shl b) := by
    rw [dentProduct, List.length_map, List.length_range]
    refine congrArg _ (List.map_congr_left fun b hb => ?_)
    have := List.mem_range.mp hb
    dsimp only
    rw [List.getD_eq_getElem _ _ (by simpa using this), List.getElem_map, List.getElem_range]
  rw [planes]
  obtain ⟨sumOk, val⟩ := Resd.sum_range fun b _ => (Resd.signed_shl (ok b) aw b).1
  exact ⟨sumOk, val.trans (Finset.sum_congr rfl fun b _ => (Resd.signed_shl (ok b) aw b).2)⟩

/-! ## The work of a dent -/

/-- Row `k` of the dent is driven 1 in plane `b` (R41, R94). -/
def ActBlock.drives (a : ActBlock) (aw b k : Nat) : Bool := !bitOf a.removed k && bitOf (unsigned aw (a.elems.getD k 0)) b
/-- The rows of the dent that plane `b` drives 1. -/
def ActBlock.driven (a : ActBlock) (aw b : Nat) : Finset Nat := {k ∈ Finset.range 64 | a.drives aw b k = true}

section
variable (a : ActBlock) (aw b : Nat)

theorem drivenRows_nodup : (drivenRows (some a) aw b).Nodup := List.nodup_range.filter _
theorem drivenRows_toFinset : (drivenRows (some a) aw b).toFinset = a.driven aw b := by
  ext k
  simp [drivenRows, ActBlock.driven, ActBlock.drives]
theorem drivenRows_length : (drivenRows (some a) aw b).length = (a.driven aw b).card := by
  rw [← drivenRows_toFinset, List.toFinset_card_of_nodup (drivenRows_nodup a aw b)]
theorem ActBlock.driven_subset : a.driven aw b ⊆ Finset.range 64 := Finset.filter_subset ..

/-- By signed weight the planes that drive a row make its element, or nothing of a removed row. -/
theorem ActBlock.sum_drives (haw : 1 ≤ aw) {k : Nat} (lo : -(2 ^ (aw - 1) : Int) ≤ a.elems.getD k 0)
    (hi : a.elems.getD k 0 < 2 ^ (aw - 1)) :
    ∑ b ∈ Finset.range aw, signWeight aw b * b2n (a.drives aw b k) = if bitOf a.removed k then 0 else a.elems.getD k 0 := by
  cases h : bitOf a.removed k
  · simpa [ActBlock.drives, h] using sum_signWeight_unsigned haw lo hi
  · simp [ActBlock.drives, h, b2n]
end

/-- Over the planes by signed weight, the sums of the driven rows' weights are the sum of element times weight. -/
theorem sum_planes (a : ActBlock) {aw : Nat} (haw : 1 ≤ aw) (weight : Nat → Int)
    (range : ∀ k, k < 64 → -(2 ^ (aw - 1) : Int) ≤ a.elems.getD k 0 ∧ a.elems.getD k 0 < 2 ^ (aw - 1)) :
    ∑ b ∈ Finset.range aw, signWeight aw b * ∑ k ∈ a.driven aw b, weight k =
      ∑ k ∈ Finset.range 64, if bitOf a.removed k then 0 else a.elems.getD k 0 * weight k := by
  have plane (b : Nat) : ∑ k ∈ a.driven aw b, weight k = ∑ k ∈ Finset.range 64, (b2n (a.drives aw b k) : Int) * weight k := by
    rw [ActBlock.driven, Finset.sum_filter]
    refine Finset.sum_congr rfl fun k _ => ?_
    cases a.drives aw b k <;> simp [b2n]
  simp only [plane, Finset.mul_sum, ← mul_assoc]
  rw [Finset.sum_comm]
  refine Finset.sum_congr rfl fun k hk => ?_
  obtain ⟨lo, hi⟩ := range k (Finset.mem_range.mp hk)
  rw [← Finset.sum_mul, a.sum_drives aw haw lo hi]
  split <;> simp

section
variable {h : Heddle} {d : Nat} (i : Fin 64) (w : Nat) {aw : Nat} (a : ActBlock)

/-- What the beater takes from plane `b` of an undisturbed dent: how many rows it drives 1, and the units of each column. -/
def Heddle.planeUnits (h : Heddle) (d : Nat) (a : ActBlock) (aw b : Nat) : Nat × List Nat :=
  ((a.driven aw b).card, (List.range 528).map (h.units d (a.driven aw b)))

/-- The conversions of plane `b` of an undisturbed dent: the conversions of the units that its rows hold. -/
theorem dentConvs_plane (b : Nat) :
    dentConvs h i.val d b (drivenRows (some a) aw b) [] = cleanConvs (h.units d (a.driven aw b)) := by
  rw [dentConvs_undisturbed h _ _ _ (drivenRows_nodup a aw b), drivenRows_toFinset]

variable (agrees : ∀ k, k < 64 → SelvageAgrees (h.row (64 * d + k)))
include agrees

theorem selvageAgrees_driven (b : Nat) : ∀ k ∈ a.driven aw b, SelvageAgrees (h.row (64 * d + k)) := fun k hk =>
  agrees k (Finset.mem_range.mp (a.driven_subset aw b hk))

/-- Every plane of an undisturbed dent reads clean. -/
theorem dentWork_clean : (dentWork h i d w aw (some a) []).results.length = aw ∧
    ∀ y ∈ (dentWork h i d w aw (some a) []).results, y.1 = .clean := by
  refine ⟨by simp [dentWork], fun y hy => ?_⟩
  simp only [dentWork, List.map_map, List.mem_map] at hy
  obtain ⟨b, -, rfl⟩ := hy
  simp only [Function.comp_apply, dentConvs_plane]
  exact resolve_undisturbed (a.driven_subset aw b) (selvageAgrees_driven a agrees b)

/-- The product of an output column of an undisturbed dent combines the products of its planes' units. -/
theorem dentWork_product {o : Nat} (ho : o < h.colsUsed) : (dentWork h i d w aw (some a) []).products[o]? =
    some (dentProduct w ((List.range aw).map (h.planeUnits d a aw)) o) := by
  have planes : ((List.range aw).map fun b => ((drivenRows (some a) aw b).length,
      dentCounts (dentConvs h i.val d b (drivenRows (some a) aw b) []))) = (List.range aw).map (h.planeUnits d a aw) :=
    List.map_congr_left fun b _ => by
      rw [drivenRows_length, dentConvs_plane, dentCounts_undisturbed (a.driven_subset aw b) (selvageAgrees_driven a agrees b)]
      rfl
  simp only [dentWork, Resd.struck_nil, List.map_map, Function.comp_def, planes, List.getElem?_map,
    List.getElem?_range ho, Option.map_some]
end

end Sys2Proof.Machine

open Sys2Proof Sys2Proof.Machine

/-- Settles O23: by R48 the selvage columns of a dent count what its data columns count, so both syndromes are 0 and the counts go
on as they are; two's complement over the planes and over the columns makes the sum of element times weight. -/
theorem dentProductsAreExact : Obligations.DentProductsAreExact := by
  intro h i d w aw o a _ hw haw fits ho selvage range
  have agrees (k : Nat) (hk : k < 64) : SelvageAgrees (h.row (64 * d + k)) := by
    rw [selvage k hk]
    exact rowWithSelvage_agrees _
  have columns : o * w + w ≤ 528 := by
    have : (o + 1) * w ≤ h.colsUsed * w := Nat.mul_le_mul_right w ho
    rw [Nat.succ_mul] at this
    omega
  have plane (b : Nat) : (planeProduct w (h.planeUnits d a aw b).1 (h.planeUnits d a aw b).2 o).ok = true ∧
      (planeProduct w (h.planeUnits d a aw b).1 (h.planeUnits d a aw b).2 o).val =
        ∑ k ∈ a.driven aw b, weightInt w (fld (h.row (64 * d + k)) (o * w) w) := by
    simp only [Heddle.planeUnits]
    exact planeProduct_exact h d (a.driven aw b) columns hw
  obtain ⟨ok, val⟩ := dentProduct_eq (aw := aw) fun b => (plane b).1
  refine ⟨⟨_, dentWork_product i w a agrees ho, ok, ?_⟩, dentWork_clean i w a agrees⟩
  rw [val, sumInt_map_range, ← sum_planes a haw _ range]
  exact Finset.sum_congr rfl fun b _ => by rw [(plane b).2]

end

section
/-! A re-trim that begins sets every listed harness anew (R58), and a table lists no default: in a table that lists a number twice,
which no update makes, the second entry then shows. The transitions of a harness and the end of its full trim are stated of every
state, also of these. -/

-- one proof at a time: side by side, their stacks and heaps do not fit beside the rest of the text
set_option Elab.async false

namespace Sys2Proof.Machine

theorem yields_exec {i : Instr} {s t : State} {P : State → Prop} (h : yields i s P) (e : exec i s = .next t) : P t := by
  obtain ⟨u, ran, holds⟩ := h
  cases ran.symm.trans e
  exact holds

/-! ## A table that lists a number twice -/

theorem Tab.getD_map_const {α : Type} (d a : α) {k : Nat} {l : List Nat} (h : k ∈ l) :
    Tab.getD d (l.map fun i => (i, a)) k = a := by
  induction l with
  | nil => cases h
  | cons i l ih =>
    by_cases hi : i = k
    · simp [Tab.getD, hi]
    · simpa [Tab.getD, hi] using ih ((List.mem_cons.mp h).resolve_left (Ne.symm hi))

/-- A harness that is Off, with a trim begun. -/
def offInTrim : Harness := { state := 0, trimBusy := true }

/-- After power-on: harness 0 is listed as `x`, and then again, like every harness of loom 0, as Off with a trim begun; a re-trim
of loom 0 is in progress, and its reference lies 250 degrees above its sensors. -/
def listedTwice (x : Harness) : State :=
  { State.reset with
    arr := { harnesses := (0, x) :: (List.range 1024).map fun i => (i, offInTrim)
             looms := [(0, { tRef := 1000, retrimBusy := true })] } }

variable {x : Harness}

theorem listedTwice_harness (x : Harness) : (listedTwice x).harness 0 = x := rfl
theorem listedTwice_harness_other {i : Nat} (h0 : i ≠ 0) (h : i < 1024) : (listedTwice x).harness i = offInTrim :=
  (if_neg h0.symm).trans (Tab.getD_map_const _ _ (List.mem_range.mpr h))
theorem listedTwice_modHarness {f : Harness → Harness} (h : f x ≠ {}) : (listedTwice x).modHarness 0 f = listedTwice (f x) := by
  simp [listedTwice, State.modHarness, Tab.upd, Tab.put, Tab.getD, Tab.ins, h]

theorem listedTwice_retrimDone (h : 4 ≤ x.retrimWindows) : (listedTwice x).retrimDone 0 = true := by
  refine List.all_eq_true.mpr fun i hi => ?_
  rw [Nat.zero_mul, Nat.zero_add]
  by_cases h0 : i = 0
  · simp [h0, listedTwice_harness, h]
  · simp [listedTwice_harness_other h0 (List.mem_range.mp hi), offInTrim]

theorem State.retrimCheck_again {s : State} {l : Nat} (busy : (s.loom l).retrimBusy = true) (done : s.retrimDone l = true)
    (drift : (s.modLoom l fun y => { y with retrimBusy := false }).drifted l = true) :
    s.retrimCheck l = (s.modLoom l fun y => { y with retrimBusy := false }).retrimStart l := by
  simp only [State.retrimCheck, busy, done, drift, Bool.and_self, if_true]

/-- The re-trim that begins once harness 0 has applied its trim makes the first entry of harness 0 the default: the second shows. -/
theorem listedTwice_retrimCheck : ((listedTwice { retrimWindows := 4 }).retrimCheck 0).harness 0 = { offInTrim with trimOld := true } := by
  rw [State.retrimCheck_again (by decide +kernel) (listedTwice_retrimDone le_rfl) (by decide +kernel)]
  decide +kernel
theorem listedTwice_trimmed (h : x = { trimBusy := true } ∨ x = { calBase := 1 }) :
    ((listedTwice x).trimmed 0).harness 0 = { offInTrim with trimOld := true } := by
  rw [← listedTwice_retrimCheck, State.trimmed]
  rcases h with rfl | rfl <;> rw [listedTwice_modHarness (by decide)] <;> rfl

theorem listedTwice_wakes : (listedTwice { state := 3, goal := some 1, calBase := 1 }).nowActive 0 =
    ((listedTwice { calBase := 1 }).trimmed 0).refresh := by
  rw [State.nowActive, listedTwice_modHarness (by decide)]

/-! ## The two commands that end a trim -/

/-- A wake that ends, with no step running and nothing to reprogram, makes the harness Active (R69). -/
theorem State.transitionDone_wake {s : State} {h : Nat} (moves : (s.harness h).state = 3) (unheld : (s.harness h).held = false)
    (idle : (s.harness h).trimBusy = false) (free : s.harnessBusy h = false) (goal : (s.harness h).goal = some 1)
    (whole : (s.harness h).reprogram = false) : s.transitionDone h = s.nowActive h := by
  simp [State.transitionDone, moves, unheld, idle, free, goal, whole]
theorem State.refresh_harness (s : State) (h : Nat) : s.refresh.harness h = s.harness h := rfl

theorem exec_harnessTransitionDone_powered {s : State} (h : Fin 4096) (on : s.powered = true) :
    exec (.harnessTransitionDone h) s = .next (s.transitionDone h.val) := by
  simp [exec, execHarnessTransitionDone, on]
/-- A full trim that ends while no return from Off is under way is applied (R60). -/
theorem exec_fullTrimDone_applied {s : State} {h : Fin 4096} (busy : (s.harness h.val).trimBusy = true) (on : s.powered = true)
    (settled : (s.harness h.val).state ≠ 3) : exec (.fullTrimDone h) s = .next (s.trimmed h.val).refresh := by
  simp [exec, execFullTrimDone, busy, on, settled]

end Sys2Proof.Machine

open Sys2Proof Sys2Proof.Machine

/-- Refutes O31: a wake from Retention ends in the pick of power-on, in a state that lists the harness twice; its trim lets a re-trim
of the loom begin, which drops the harness's first entry, and the harness reads Off by the second. -/
theorem not_harnessStatesChange : ¬ Obligations.HarnessStatesChange := by
  rintro ⟨-, -, -, transition, -⟩
  let s := listedTwice { state := 3, goal := some 1, calBase := 1 }
  have wakes : exec (.harnessTransitionDone 0) s = .next ((listedTwice { calBase := 1 }).trimmed 0).refresh := by
    rw [exec_harnessTransitionDone_powered 0 (by decide), State.transitionDone_wake rfl rfl rfl (by decide) rfl rfl]
    exact congrArg Host.Outcome.next listedTwice_wakes
  obtain ⟨-, -, -, -, active⟩ := yields_exec (transition s 0 (by decide) rfl rfl rfl (by decide)) wakes
  have state := (active rfl rfl).1
  rw [State.refresh_harness, Fin.val_zero, listedTwice_trimmed (.inr rfl)] at state
  exact absurd state (by decide)

/-- Refutes O32: a full trim of an Active harness ends in the pick of power-on, in a state that lists the harness twice; the re-trim
that begins drops its first entry, and by the second the trim is still going on. -/
theorem not_calibrationWindowsAndTrims : ¬ Obligations.CalibrationWindowsAndTrims := by
  rintro ⟨-, -, -, -, -, trimDone⟩
  let s := listedTwice { trimBusy := true }
  obtain ⟨busy, -⟩ := yields_exec (trimDone s 0 rfl (by decide) (by decide))
    (exec_fullTrimDone_applied rfl (by decide) (by decide))
  rw [State.refresh_harness, Fin.val_zero, listedTwice_trimmed (.inl rfl)] at busy
  exact absurd busy (by decide)

end

section
/-! A targeted scrub takes its dent off what the replays of every listed slot wait for (R68). A slot that then waits for nothing is
the default, which a table does not list: in a table that lists the slot twice, which no update makes, the second entry shows. The
targeted scrub is stated of every state, also of these. -/

-- one proof at a time: side by side, their stacks and heaps do not fit beside the rest of the text
set_option Elab.async false

namespace Sys2Proof.Machine

/-- After power-on: heddle 0 is programmed and a targeted scrub of its dent 0 is asked for; slot 0 of context 1 is listed as waiting
for dent 0, and then again as waiting for dent 1. -/
def slotListedTwice : State :=
  { State.reset with
    arr := { heddles := [(0, { programmed := true })], targets := [⟨0, 0, 1, [0], 0, [], false, false⟩] }
    ctxs := [(1, { slots := [(0, { replayTargets := [(0, 0)] }), (0, { replayTargets := [(0, 1)] })] })] }

/-- What the replay of slot 0 of context 1 waits for after the targeted scrub. -/
def replayTargetsAfter : Host.Outcome State Fault Refusal → List (Nat × Nat)
  | .next t => (t.batch 1 0).replayTargets
  | _ => []

/-- The slot waited for dent 0 alone; its second entry, waiting for dent 1, shows. -/
theorem slotListedTwice_scrubbed :
    (slotListedTwice.batch 1 0).replayTargets = [(0, 0)] ∧
      replayTargetsAfter (exec (.targetedScrub 0 0 []) slotListedTwice) = [(0, 1)] := by
  constructor <;> decide +kernel

/-- The scrub is of a heddle that holds contents, its dent waits for it, the pattern copy reads cleanly, and no row may be rewritten:
the tier is colder than the programming window. -/
theorem slotListedTwice_scrubs : slotListedTwice.scrubs 0 = true ∧
    (∃ x ∈ slotListedTwice.arr.targets, x.heddle = 0 ∧ x.dent = 0 ∧ x.scrubbed = false) ∧
    slotListedTwice.failingBlocks [] (patternAddr 0) 0x9000 = [] ∧ slotListedTwice.repairable 0 = false := by
  refine ⟨?_, ⟨_, List.mem_cons_self, rfl, rfl, rfl⟩, ?_, ?_⟩ <;> decide +kernel

end Sys2Proof.Machine

open Sys2Proof Sys2Proof.Machine

/-- Refutes O33: the slot that waited for the scrubbed dent alone waits for another one afterwards, by its second entry. -/
theorem not_scrubComparesAndRepairs : ¬ Obligations.ScrubComparesAndRepairs := by
  rintro ⟨-, -, -, -, -, -, targeted, -⟩
  obtain ⟨scrubs, target, readable, cold⟩ := slotListedTwice_scrubs
  obtain ⟨waited, waits⟩ := slotListedTwice_scrubbed
  obtain ⟨-, scrubbed⟩ := targeted slotListedTwice 0 0 [] scrubs target readable
  obtain ⟨t, ran, -, -, slots⟩ := scrubbed (by rw [Fin.val_zero, cold, Bool.and_false, Bool.false_and])
  rw [ran] at waits
  rcases slots 1 0 with opened | unlisted
  · exact absurd (waits.symm.trans (opened.trans (congrArg _ waited))) (by decide)
  · exact absurd unlisted (by decide)

end

section
/-! The accumulation of an MVM (R104-R107): a heddle's work changes no other heddle, and of its own it fills the bank's tile; a MEND
leaves the heddles and the memory as they are (R92) and sets a failed product against the path of every slot it serves (R116). -/

-- one proof at a time: side by side, their stacks and heaps do not fit beside the rest of the text
set_option Elab.async false

namespace Sys2Proof.Machine

variable {s t u : State} {B : List Block} {c g slot n : Nat}

/-! ## Conversions of one heddle -/

/-- From `s` to `t`, heddle `g` converts `n` times and keeps its rows, and every other heddle stays. -/
structure State.Converts (g n : Nat) (s t : State) : Prop where
  rows : (t.heddle g).rows = (s.heddle g).rows
  convs : (t.heddle g).convs = (s.heddle g).convs + n
  other : ∀ k, k ≠ g → t.heddle k = s.heddle k

theorem Keeps.heddle_eq (h : Keeps B s t) (hb : Block.heddles ∉ B) (k : Nat) : t.heddle k = s.heddle k := by
  have same : t.arr.heddles = s.arr.heddles := h.same .heddles hb
  rw [State.heddle, same, State.heddle]

theorem State.Converts.refl (s : State) : s.Converts g 0 s := ⟨rfl, rfl, fun _ _ => rfl⟩
theorem State.Converts.trans (h : s.Converts g n t) (h' : t.Converts g 0 u) : s.Converts g n u where
  rows := h'.rows.trans h.rows
  convs := h'.convs.trans h.convs
  other k hk := (h'.other k hk).trans (h.other k hk)
theorem Keeps.converts (k : Keeps B t u) (hb : Block.heddles ∉ B) (h : s.Converts g n t) : s.Converts g n u where
  rows := by rw [k.heddle_eq hb, h.rows]
  convs := by rw [k.heddle_eq hb, h.convs]
  other x hx := by rw [k.heddle_eq hb, h.other x hx]
theorem State.Converts.ite {p : Prop} [Decidable p] (h : s.Converts g n t) (h' : s.Converts g n u) :
    s.Converts g n (if p then t else u) := by
  split <;> assumption
/-- An update of a heddle that counts `n` conversions and keeps the rows. -/
theorem State.modHeddle_converts (s : State) (g : Nat) {f : Heddle → Heddle} (rows : ∀ h, (f h).rows = h.rows)
    (convs : ∀ h, (f h).convs = h.convs + n) : s.Converts g n (s.modHeddle g f) where
  rows := by rw [State.modHeddle_heddle, rows]
  convs := by rw [State.modHeddle_heddle, convs]
  other k hk := s.modHeddle_heddle_other hk f
theorem State.each_converts {α : Type} {f : State → α → State} {l : List α} (h : s.Converts g n t)
    (hf : ∀ (t : State) a, t.Converts g 0 (f t a)) : s.Converts g n (State.each l f t) := by
  induction l generalizing t with
  | nil => exact h
  | cons a l ih => exact ih (h.trans (hf t a))
theorem State.perf_converts (h : s.Converts g n t) (ev k loom : Nat) (ctx unit : Option Nat) :
    s.Converts g n (t.perf ev k loom ctx unit) :=
  (State.perf_keeps (B := [.obs]) (.refl t) (by decide) ..).converts (by decide) h

theorem State.dentFail_converts (s : State) (g : Nat) (f : LastFail) : s.Converts g 0 (s.dentFail g f) :=
  s.modHeddle_converts g (fun _ => rfl) fun _ => rfl
theorem State.noteTile_converts (s : State) (g bank : Nat) (accs : List Acc) (eBase : Int) :
    s.Converts g 0 (s.noteTile g bank accs eBase) :=
  s.modHeddle_converts g (fun _ => rfl) fun _ => rfl

/-- The dents of a heddle count 528 conversions for each of 8 dents and each plane (R54). -/
theorem State.dentEvents_converts (s : State) (c slot l g aw : Nat) (ws : List (DentWork × Option ActBlock)) :
    s.Converts g (8 * 528 * aw) (s.dentEvents c slot l g aw ws) := by
  unfold State.dentEvents
  dsimp only
  -- the counts, their events, the failures plane by plane, their event, the uncorrected dents
  refine State.each_converts (State.perf_converts (State.each_converts (.ite ?counted (Keeps.converts (B := [.ctxs])
    (State.check_keeps (.refl _) (by decide) ..) (by decide) ?counted)) fun t f => t.dentFail_converts g f) ..)
    fun t d => ?uncorrected
  case counted =>
    refine State.perf_converts (Keeps.converts (B := [.obs]) (State.perfConversions_keeps (.refl _) (by decide) ..) (by decide)
      ?_) ..
    exact s.modHeddle_converts g (fun _ => rfl) fun _ => rfl
  case uncorrected =>
    split
    · exact (State.uncorrectedDent_keeps (B := [.harnesses, .scrub, .ctxs, .history, .packs, .agg]) (.refl t) (by decide)
        ..).converts (by decide) (.refl t)
    · exact .refl t

/-! ## The tile that a step leaves (R107) -/

/-- A table filled in ascending order reads what was put. -/
theorem Tab.getD_foldl_put {α : Type} [DecidableEq α] (d : α) (f : Nat → α) {n k : Nat} (h : k < n) :
    Tab.getD d ((List.range n).foldl (fun t o => Tab.put d t o (f o)) []) k = f k := by
  induction n with
  | zero => omega
  | succ n ih =>
    rw [List.range_succ, List.foldl_append]
    by_cases last : k = n
    · subst last
      exact Tab.getD_put_same ..
    · exact (Tab.getD_put_other _ _ last _).trans (ih (by omega))

/-- The tile's accumulators and residues are those of the columns. -/
theorem tileOf_column (accs : List Acc) (eBase : Int) {o : Nat} (h : o < accs.length) :
    some (Tab.getD 0 (tileOf accs eBase).acc o, Tab.getD 0 (tileOf accs eBase).res o) =
      accs[o]?.map fun a => (a.sum.val, a.sum.res) := by
  rw [List.getElem?_eq_getElem h, Option.map_some, tileOf]
  dsimp only
  rw [Tab.getD_foldl_put 0 _ h, Tab.getD_foldl_put 0 _ h, List.getD_eq_getElem _ _ h]

theorem heddleAccs_length (h : Heddle) (i : Fin 64) (w eMin : Nat) (acts : List ActBlock) (ws : List DentWork)
    (outs : List Outlier) (copy : Nat → Bytes) (ups : List Upset) :
    (heddleAccs h i w eMin acts ws outs copy ups).length = h.colsUsed := by
  simp [heddleAccs]

/-! ## One selected heddle -/

/-- The accumulator tile of a bank. -/
def Heddle.bankTile (h : Heddle) (bank : Nat) : Tile := if bank = 0 then h.tile0 else h.tile1

/-- The accumulators of a selected heddle. -/
def MvmIn.accs (x : MvmIn) (h : Heddle) (i : Fin 64) (copy : Nat → Bytes) (ups : List Upset) : List Acc :=
  heddleAccs h i x.width (eMinOf x.acts) x.acts (heddleDents h i x ups) x.outs copy ups

/-- Heddle `h`, number `i` of its harness, stands as `h'` once an MVM that works on `x` has filled its bank. -/
structure MvmIn.Filled (x : MvmIn) (i : Fin 64) (copy : Nat → Bytes) (ups : List Upset) (h h' : Heddle) : Prop where
  tile : h'.bankTile x.bank = tileOf (x.accs h i copy ups) (h.eWmin + eMinOf x.acts)
  convs : h'.convs = h.convs + 8 * 528 * x.aw
  rows : h'.rows = h.rows

section
variable {x : MvmIn} {i : Fin 64} {copy : Nat → Bytes} {ups : List Upset} {h h' : Heddle} (filled : x.Filled i copy ups h h')
include filled

/-- Each used column of the bank holds its accumulator with the residue. -/
theorem MvmIn.Filled.column {o : Nat} (used : o < h.colsUsed) :
    some (Tab.getD 0 (h'.bankTile x.bank).acc o, Tab.getD 0 (h'.bankTile x.bank).res o) =
      (x.accs h i copy ups)[o]?.map fun a => (a.sum.val, a.sum.res) := by
  rw [filled.tile]
  exact tileOf_column _ _ (used.trans_eq (heddleAccs_length ..).symm)
theorem MvmIn.Filled.eBase : (h'.bankTile x.bank).eBase = h.eWmin + eMinOf x.acts := congrArg Tile.eBase filled.tile
theorem MvmIn.Filled.sat : (h'.bankTile x.bank).sat = (x.accs h i copy ups).any (·.sat) := congrArg Tile.sat filled.tile
end

theorem State.noteTile_bankTile (s : State) (g bank : Nat) (accs : List Acc) (eBase : Int) :
    ((s.noteTile g bank accs eBase).heddle g).bankTile bank = tileOf accs eBase := by
  simp only [State.noteTile, State.modHeddle_heddle, Heddle.bankTile]
  split <;> simp [*]

section
variable (s : State) (c l : Nat) (st : PlanStep) (x : MvmIn) (i : Fin 64) (g : Nat) (copy : Nat → Bytes) (ups : List Upset)

/-- After the tile, the flags and the drain leave every heddle alone. -/
theorem State.mvmHeddle_after_tile : ∃ t, s.Converts g (8 * 528 * x.aw) t ∧ Keeps [.mem, .ctxs, .obs, .agg]
    (t.noteTile g x.bank (x.accs (s.heddle g) i copy ups) ((s.heddle g).eWmin + eMinOf x.acts))
    (s.mvmHeddle c l st x i g copy ups).1 := by
  unfold State.mvmHeddle
  exact ⟨_, s.dentEvents_converts ..,
    State.drain_keeps (.ite (State.raise_keeps (.refl _) (by decide) ..) (.refl _)) (by decide) ..⟩

theorem State.mvmHeddle_converts : s.Converts g (8 * 528 * x.aw) (s.mvmHeddle c l st x i g copy ups).1 := by
  obtain ⟨t, converted, rest⟩ := s.mvmHeddle_after_tile c l st x i g copy ups
  exact rest.converts (by decide) (converted.trans (t.noteTile_converts ..))
theorem State.mvmHeddle_filled :
    x.Filled i copy ups (s.heddle g) ((s.mvmHeddle c l st x i g copy ups).1.heddle g) := by
  obtain ⟨t, -, rest⟩ := s.mvmHeddle_after_tile c l st x i g copy ups
  obtain ⟨rows, convs, -⟩ := s.mvmHeddle_converts c l st x i g copy ups
  exact ⟨by rw [rest.heddle_eq (by decide), State.noteTile_bankTile], convs, rows⟩
end

/-! ## All selected heddles -/

/-- Work done in turn on different heddles, each on its own alone: each is changed from what it was at first, the others stay. -/
theorem foldl_heddles_apart {α β : Type} {f : State × β → α → State × β} {g : α → Nat} {P : α → Heddle → Heddle → Prop}
    (inj : Function.Injective g) (own : ∀ r i, P i (r.1.heddle (g i)) ((f r i).1.heddle (g i)))
    (other : ∀ r i k, k ≠ g i → (f r i).1.heddle k = r.1.heddle k) {l : List α} (nodup : l.Nodup) (r : State × β) :
    (∀ i ∈ l, P i (r.1.heddle (g i)) ((l.foldl f r).1.heddle (g i))) ∧
      ∀ k, (∀ i ∈ l, k ≠ g i) → (l.foldl f r).1.heddle k = r.1.heddle k := by
  induction l generalizing r with
  | nil => simp
  | cons j l ih =>
    obtain ⟨fresh, nodup⟩ := List.nodup_cons.mp nodup
    obtain ⟨changed, stays⟩ := ih nodup (f r j)
    refine ⟨fun i hi => ?_, fun k hk => ?_⟩
    · rcases List.mem_cons.mp hi with rfl | hi
      · rw [List.foldl_cons, stays (g i) fun e he same => fresh (inj same ▸ he)]
        exact own r i
      · have before : (f r j).1.heddle (g i) = r.1.heddle (g i) :=
          other r j _ fun same => fresh (inj same ▸ hi)
        exact before ▸ changed i hi
    · obtain ⟨hj, hl⟩ := List.forall_mem_cons.mp hk
      exact (stays k hl).trans (other r j k hj)

/-! ## The checks of a read -/

/-- From `s` to `t`, context `c` keeps its control and the requests of its slots, and every slot that it lists stays listed. -/
structure State.SlotsStay (c : Nat) (s t : State) : Prop where
  ctl : (t.ctx c).ctl = (s.ctx c).ctl
  req : ∀ k, t.slotReq c k = s.slotReq c k
  listed : ∀ k ∈ (s.ctx c).slots.map (·.1), k ∈ (t.ctx c).slots.map (·.1)

theorem State.SlotsStay.refl (s : State) : s.SlotsStay c s := ⟨rfl, fun _ => rfl, fun _ h => h⟩
theorem State.SlotsStay.trans (h : s.SlotsStay c t) (h' : t.SlotsStay c u) : s.SlotsStay c u :=
  ⟨h'.ctl.trans h.ctl, fun k => (h'.req k).trans (h.req k), fun k hk => h'.listed k (h.listed k hk)⟩
theorem Keeps.slotsStay (k : Keeps B t u) (hb : Block.ctxs ∉ B ∧ Block.reqs ∉ B) (h : s.SlotsStay c t) : s.SlotsStay c u := by
  have ctxs : u.ctxs = t.ctxs := k.same .ctxs hb.1
  have reqs : u.srv.reqs = t.srv.reqs := (Prod.mk.inj (k.same .reqs hb.2)).1
  have ctx : u.ctx c = t.ctx c := by rw [State.ctx, ctxs, State.ctx]
  refine h.trans ⟨by rw [ctx], fun k => ?_, fun k hk => by rwa [ctx]⟩
  simp only [State.slotReq, State.batch, State.request, ctx, reqs]
theorem State.each_slotsStay {α : Type} {f : State → α → State} {l : List α} (h : s.SlotsStay c t)
    (hf : ∀ (t : State) a, t.SlotsStay c (f t a)) : s.SlotsStay c (State.each l f t) := by
  induction l generalizing t with
  | nil => exact h
  | cons a l ih => exact ih (h.trans (hf t a))
theorem State.perf_slotsStay (h : s.SlotsStay c t) (ev k loom : Nat) (ctx unit : Option Nat) :
    s.SlotsStay c (t.perf ev k loom ctx unit) :=
  (State.perf_keeps (B := [.obs]) (.refl t) (by decide) ..).slotsStay (by decide) h
theorem State.SlotsStay.servedSlots (h : s.SlotsStay c t) (slot : Nat) {k : Nat} (hk : k ∈ s.servedSlots c slot) :
    k ∈ t.servedSlots c slot := by
  unfold State.servedSlots at hk ⊢
  simp only [h.req]
  split at hk
  next every =>
    obtain ⟨listed, filled⟩ := List.mem_filter.mp hk
    rw [if_pos every]
    exact List.mem_filter.mpr ⟨h.listed k listed, filled⟩
  next one => rwa [if_neg one]

/-- Listing an entry keeps every number listed. -/
theorem Tab.mem_keys_ins {α : Type} (k : Nat) (v : α) {t : Tab α} {j : Nat} (h : j ∈ t.map (·.1)) :
    j ∈ (Tab.ins k v t).map (·.1) := by
  induction t with
  | nil => cases h
  | cons e t ih =>
    obtain ⟨i, a⟩ := e
    rw [Tab.ins]
    split
    next same => simpa [same] using h
    next =>
      split
      · exact List.mem_cons_of_mem _ h
      · rcases List.mem_cons.mp h with rfl | h
        · exact List.mem_cons_self
        · exact List.mem_cons_of_mem _ (ih h)

theorem State.modBatch_slotsStay (s : State) (c k : Nat) {f : BatchSlot → BatchSlot} (req : ∀ b, (f b).req = b.req)
    (kept : ∀ b, f b ≠ {}) : s.SlotsStay c (s.modBatch c k f) where
  ctl := by rw [State.modBatch, State.modCtx_ctx]
  req j := by
    have same : ((s.modBatch c k f).batch c j).req = (s.batch c j).req := by
      by_cases h : j = k
      · rw [h, State.modBatch_batch, req]
      · rw [s.modBatch_other h]
    rw [State.slotReq, same]
    rfl
  listed j hj := by
    rw [State.modBatch, State.modCtx_ctx]
    dsimp only
    rw [Tab.upd, Tab.put, if_neg (kept _)]
    exact Tab.mem_keys_ins k _ hj

/-- Marking the checks of the served slots. -/
theorem State.check_slotsStay (h : s.SlotsStay c t) (slot : Nat) {f : Check → Check} (marks : ∀ k, f k ≠ {}) :
    s.SlotsStay c (t.check c slot f) := by
  unfold State.check
  refine State.each_slotsStay h fun t k => t.modBatch_slotsStay c k (fun _ => rfl) fun b e => ?_
  exact marks b.attempt (congrArg BatchSlot.attempt e)

/-- Changing the checks of slots in turn: of each of them, what every change brings about stands. -/
theorem State.each_attempt {p : Check → Prop} {f : Check → Check} (hf : ∀ a, p (f a)) (l : List Nat) (s : State) {k : Nat}
    (h : k ∈ l ∨ p (s.batch c k).attempt) :
    p ((State.each l (fun s i => s.modBatch c i fun b => { b with attempt := f b.attempt }) s).batch c k).attempt := by
  induction l generalizing s with
  | nil => exact h.resolve_left List.not_mem_nil
  | cons i l ih =>
    refine ih _ ?_
    by_cases hi : k = i
    · subst hi
      exact .inr (by rw [State.modBatch_batch]; exact hf _)
    · rw [s.modBatch_other hi]
      exact h.imp_left fun h => (List.mem_cons.mp h).resolve_left hi
theorem State.check_attempt {p : Check → Prop} {f : Check → Check} (hf : ∀ a, p (f a)) {k : Nat}
    (served : k ∈ s.servedSlots c slot) : p ((s.check c slot f).batch c k).attempt :=
  State.each_attempt hf _ s (.inl served)

theorem State.checkedRead_slotsStay (s : State) (c slot a n : Nat) (ups : List Upset) :
    s.SlotsStay c (s.checkedRead c slot a n ups) := by
  unfold State.checkedRead
  dsimp only
  have events : s.SlotsStay c ((s.perf 0x13 (hbmUnits a n) (loomOfAddr a) none none).eccEvents c (struckUnits ups a n)) :=
    (State.eccEvents_keeps (B := [.history, .memChecks, .obs]) (.refl _) (by decide) ..).slotsStay (by decide)
      (State.perf_slotsStay (.refl s) ..)
  refine State.each_slotsStay ?_ fun t k => State.check_slotsStay ?_ slot fun k e => absurd (congrArg Check.tallyBad e) (by simp)
  · split
    · exact State.check_slotsStay events slot fun k e => absurd (congrArg Check.eccCorr e) (by simp)
    · exact events
  · exact (State.readFail_keeps (B := [.history, .memChecks, .obs, .agg]) (.refl t) (by decide) ..).slotsStay (by decide) (.refl t)

theorem State.refusedHere_slotsStay (s : State) (c l : Nat) (st : PlanStep) (status : Nat) :
    s.SlotsStay c (s.refusedHere c l st status) := by
  have reported : Keeps [.agg] s ((s.report (.nackSent status)).report (.nackGot status)) :=
    State.report_keeps (State.report_keeps (.refl s) (by decide) _) (by decide) _
  refine State.perf_slotsStay (State.check_slotsStay (reported.slotsStay (by decide) (.refl s)) st.slot fun k e => ?_) ..
  exact absurd (congrArg Check.nackBad e) (by simp)

/-- A read by a unit marks checks of its slots at most. -/
theorem State.unitRead_slotsStay (h : s.SlotsStay c t) (l : Nat) (st : PlanStep) (a n : Nat) (ups : List Upset) :
    s.SlotsStay c (t.unitRead c l st a n ups) := by
  unfold State.unitRead
  dsimp only
  split
  · exact h
  · split
    · exact h.trans (t.checkedRead_slotsStay ..)
    · exact (State.fresh_keeps (B := [.tick]) (.refl _) (by decide)).slotsStay (by decide) (h.trans (t.refusedHere_slotsStay ..))

/-! ## The work of an MVM -/

/-- The selected heddles in turn, and whether a check of the beaters has failed. -/
def State.mvmFill (s : State) (c l : Nat) (st : PlanStep) (x : MvmIn) (first heddles : Nat) (copy : Nat → Nat → Bytes)
    (ups : List Upset) : State × Bool :=
  ((List.finRange 64).filter fun i => bitOf heddles i.val).foldl (fun r i =>
    let (t, b) := r.1.mvmHeddle c l st x i (first + i.val) (copy (first + i.val)) ups
    (t, r.2 || b)) (s, false)

/-- Each selected heddle is filled from what it was at first, and the others stay. -/
theorem State.mvmFill_heddles (s : State) (c l : Nat) (st : PlanStep) (x : MvmIn) (first heddles : Nat)
    (copy : Nat → Nat → Bytes) (ups : List Upset) :
    (∀ i : Fin 64, bitOf heddles i.val = true → x.Filled i (copy (first + i.val)) ups (s.heddle (first + i.val))
      ((s.mvmFill c l st x first heddles copy ups).1.heddle (first + i.val))) ∧
    ∀ g, (∀ i : Fin 64, bitOf heddles i.val = true → g ≠ first + i.val) →
      (s.mvmFill c l st x first heddles copy ups).1.heddle g = s.heddle g := by
  obtain ⟨filled, others⟩ := foldl_heddles_apart (β := Bool) (g := fun i : Fin 64 => first + i.val)
    (f := fun r i => ((r.1.mvmHeddle c l st x i (first + i.val) (copy (first + i.val)) ups).1,
      r.2 || (r.1.mvmHeddle c l st x i (first + i.val) (copy (first + i.val)) ups).2))
    (P := fun i => x.Filled i (copy (first + i.val)) ups)
    (fun i j e => Fin.ext (Nat.add_left_cancel e)) (fun r i => r.1.mvmHeddle_filled ..)
    (fun r i => (r.1.mvmHeddle_converts ..).other)
    ((List.nodup_finRange 64).filter fun i => bitOf heddles i.val) (s, false)
  simp only [List.mem_filter, List.mem_finRange, true_and] at filled others
  exact ⟨filled, others⟩

section
variable (s : State) (c l : Nat) (d : Due) (st : PlanStep) (ups : List Upset)

/-- Beside filling its heddles an MVM reads its source and reports a failed check, and leaves every heddle alone. -/
theorem State.mvmWork_fills : ∃ t, Keeps [.tick, .ctxs, .history, .memChecks, .obs, .agg] s t ∧
    Keeps [.looms, .ctxs, .history, .packs, .obs, .agg]
      (t.mvmFill c l st ((s.mvmSeen c l d.iter st ups).mvmIn c l d.iter st) ((l * 1024 + st.unit) * 64)
        (mvmHeddles (stepParam (s.image c) st 16)) ((s.mvmSeen c l d.iter st ups).rowCopy c) ups).1
      (s.mvmWork c l d st ups) := by
  refine ⟨s.unitRead c l st (s.mvmSource c st).1 (s.mvmSource c st).2 ups, State.unitRead_keeps (.refl s) (by decide) .., ?_⟩
  have image : (s.unitRead c l st (s.mvmSource c st).1 (s.mvmSource c st).2 ups).image c = s.image c := by
    rw [State.image, (State.unitRead_slotsStay (.refl s) l st _ _ ups).ctl, State.image]
  rw [← image]
  exact .ite (State.residueFail_keeps (.refl _) (by decide) ..) (.refl _)

/-- An MVM fills the heddles that it selects, each from what it was when the work began, and no other heddle. -/
theorem State.mvmWork_heddles :
    let heddles := mvmHeddles (stepParam (s.image c) st 16)
    let seen := s.mvmSeen c l d.iter st ups
    let first := (l * 1024 + st.unit) * 64
    (∀ i : Fin 64, bitOf heddles i.val = true → (seen.mvmIn c l d.iter st).Filled i (seen.rowCopy c (first + i.val)) ups
      (s.heddle (first + i.val)) ((s.mvmWork c l d st ups).heddle (first + i.val))) ∧
    ∀ g, (∀ i : Fin 64, bitOf heddles i.val = true → g ≠ first + i.val) → (s.mvmWork c l d st ups).heddle g = s.heddle g := by
  intro heddles seen first
  obtain ⟨t, read, reported⟩ := s.mvmWork_fills c l d st ups
  obtain ⟨filled, others⟩ := t.mvmFill_heddles c l st (seen.mvmIn c l d.iter st) first heddles (seen.rowCopy c) ups
  refine ⟨fun i selected => ?_, fun g unselected => ?_⟩
  · rw [reported.heddle_eq (by decide), ← read.heddle_eq (by decide)]
    exact filled i selected
  · rw [reported.heddle_eq (by decide), others g unselected, read.heddle_eq (by decide)]
end

/-! ## The work of a MEND -/

/-- A residue failure is reported, set against the path of every slot that the step serves, and noted. -/
theorem State.residueFail_marks (s : State) (c slot : Nat) (path : ResPath) (l kind uk unit : Nat) (data : Bytes) :
    ∃ t, Keeps [.looms, .agg] s t ∧ .residue uk unit ∈ t.agg ∧
      Keeps [.history, .packs, .obs] (t.check c slot fun k => { k with residueBad := true })
        (s.residueFail c slot path l kind uk unit data) :=
  ⟨_, State.report_keeps (State.modLoom_keeps (.refl s) (by decide) ..) (by decide) _, List.mem_cons_self,
    State.perf_keeps (State.healthEvent_keeps (State.capture_keeps (.refl _) (by decide) ..) (by decide) ..) (by decide) ..⟩

/-- Reading records and row copies, a MEND leaves heddles and memory alone; a failed product is then a residue failure. -/
theorem State.mendWork_eq (s : State) (c l : Nat) (d : Due) (st : PlanStep) (ups : List Upset) :
    ∃ t data, Keeps [.tick, .ctxs, .history, .memChecks, .obs, .agg] s t ∧ s.SlotsStay c t ∧
      s.mendWork c l d st ups = if (mendFaults ups).isEmpty then t
        else t.residueFail c st.slot .mending l 4 4 (l * 16 + st.unit) data := by
  refine ⟨_, _, ?_, ?_, rfl⟩
  · exact State.perf_keeps (State.each_keeps (State.unitRead_keeps (.refl s) (by decide) ..) fun _ _ h =>
      State.unitRead_keeps h (by decide) ..) (by decide) ..
  · exact State.perf_slotsStay (State.each_slotsStay (State.unitRead_slotsStay (.refl s) ..) fun t a =>
      State.unitRead_slotsStay (.refl t) ..) ..

theorem Keeps.batch_eq (h : Keeps B s t) (hb : Block.ctxs ∉ B) (k : Nat) : t.batch c k = s.batch c k := by
  have same : t.ctxs = s.ctxs := h.same .ctxs hb
  rw [State.batch, State.ctx, same, State.batch, State.ctx]

theorem State.mendWork_leaves (s : State) (c l : Nat) (d : Due) (st : PlanStep) (ups : List Upset) :
    (s.mendWork c l d st ups).arr.heddles = s.arr.heddles ∧ (s.mendWork c l d st ups).mem = s.mem := by
  obtain ⟨t, data, read, -, work⟩ := s.mendWork_eq c l d st ups
  have reported : Keeps [.looms, .ctxs, .history, .packs, .obs, .agg] t (s.mendWork c l d st ups) := by
    rw [work]
    exact .ite (.refl t) (State.residueFail_keeps (.refl t) (by decide) ..)
  exact ⟨(reported.same .heddles (by decide)).trans (read.same .heddles (by decide)),
    (reported.same .mem (by decide)).trans (read.same .mem (by decide))⟩

theorem State.mendWork_failed (s : State) (c l : Nat) (d : Due) (st : PlanStep) {ups : List Upset}
    (failed : mendFaults ups ≠ []) :
    .residue 4 (l * 16 + st.unit) ∈ (s.mendWork c l d st ups).agg ∧
      ∀ k ∈ s.servedSlots c st.slot, ((s.mendWork c l d st ups).batch c k).attempt.residueBad = true := by
  obtain ⟨t, data, -, stay, work⟩ := s.mendWork_eq c l d st ups
  rw [work, if_neg (by simpa using failed)]
  obtain ⟨u, counted, reported, noted⟩ := t.residueFail_marks c st.slot .mending l 4 4 (l * 16 + st.unit) data
  have marked : Keeps [.ctxs] u (u.check c st.slot fun k => { k with residueBad := true }) :=
    State.check_keeps (.refl u) (by decide) ..
  refine ⟨?_, fun k hk => ?_⟩
  · have agg : _ = u.agg := (noted.same .agg (by decide)).trans (marked.same .agg (by decide))
    rwa [agg]
  · rw [noted.batch_eq (by decide)]
    exact State.check_attempt (p := fun a => a.residueBad = true) (fun _ => rfl)
      ((counted.slotsStay (by decide) (.refl t)).servedSlots _ (stay.servedSlots _ hk))

/-! ## What a starting step leaves -/

/-- What an MVM reads and works on does not depend on the schedule or on what is observed of it. -/
theorem State.mvmSeen_startRun (s : State) (r : Due) (out : Nat) (mid : Option Int) (c l iter : Nat) (st : PlanStep)
    (ups : List Upset) : (s.startRun r out mid).mvmSeen c l iter st ups =
      { s.mvmSeen c l iter st ups with sched := (s.startRun r out mid).sched, obs := (s.startRun r out mid).obs } := by
  conv_lhs => rw [State.startRun_frame]
  rfl
theorem State.mvmIn_startRun (s : State) (r : Due) (out : Nat) (mid : Option Int) (c l iter : Nat) (st : PlanStep)
    (ups : List Upset) : ((s.startRun r out mid).mvmSeen c l iter st ups).mvmIn c l iter st =
      (s.mvmSeen c l iter st ups).mvmIn c l iter st := by
  rw [State.mvmSeen_startRun]
  rfl
theorem State.rowCopy_startRun (s : State) (r : Due) (out : Nat) (mid : Option Int) (c l iter : Nat) (st : PlanStep)
    (ups : List Upset) : ((s.startRun r out mid).mvmSeen c l iter st ups).rowCopy c =
      (s.mvmSeen c l iter st ups).rowCopy c := by
  rw [State.mvmSeen_startRun]
  rfl
theorem State.startRun_image (s : State) (d : Due) (out : Nat) (mid : Option Int) (c : Nat) :
    (s.startRun d out mid).image c = s.image c := by
  rw [State.startRun_frame]
  rfl

end Sys2Proof.Machine

open Sys2Proof Sys2Proof.Machine

/-- Settles O24: each selected heddle works on its own registers alone, and its bank's tile is the last that it takes; a MEND reads,
and a failed product marks every slot that it serves. -/
theorem mvmFillsItsBank : Obligations.MvmFillsItsBank := by
  refine ⟨fun s c l i ups d may => ?_, fun s c l i ups d may => ?_⟩
  · intro st heddles seen x first
    let started := s.startRun d (s.stepOps c l.val i.toNat 1) none
    have starts : Keeps [.sched, .obs] s started := State.startRun_keeps (.refl s) (by decide) ..
    have heddle (g : Nat) : started.heddle g = s.heddle g := starts.heddle_eq (by decide) g
    obtain ⟨filled, others⟩ := started.mvmWork_heddles c.val l.val d st ups
    simp only [started, State.startRun_image, State.mvmIn_startRun, State.rowCopy_startRun] at filled others
    refine yields_of (exec_stepCommand_starts rfl may) ⟨fun k selected => ?_, fun g unselected => ?_⟩
    · have own := filled k selected
      rw [heddle] at own
      exact ⟨fun o used => own.column used, own.eBase, own.sat, own.convs, own.rows⟩
    · exact (others g unselected).trans (heddle g)
  · let started := s.startRun d (s.stepOps c l.val i.toNat 2) none
    have starts : Keeps [.sched, .obs] s started := State.startRun_keeps (.refl s) (by decide) ..
    obtain ⟨heddles, mem⟩ := started.mendWork_leaves c l d (s.stepAt c l i.toNat) ups
    refine yields_of (exec_stepCommand_starts rfl may) ⟨heddles.trans (starts.same .heddles (by decide)),
      mem.trans (starts.same .mem (by decide)), fun failed => ?_⟩
    obtain ⟨reported, marked⟩ := started.mendWork_failed c l d (s.stepAt c l i.toNat) failed
    exact ⟨reported, fun k served => marked k ((starts.slotsStay (by decide) (.refl s)).servedSlots _ served)⟩

end

section
/-! Page and stream commands (R131, R132, Table 8.10): unmapping a page writes memory and what is kept of waiting pages, and leaves
the bases of the page table and of the stream map; so every later write of the command finds its entry where it stood before. -/

-- one proof at a time: side by side, their stacks and heaps do not fit beside the rest of the text
set_option Elab.async false

namespace Sys2Proof.Machine

variable {s t : State} {m : Fin 16} {u a n : Nat}

/-! ## Bytes of an entry -/

theorem ptBytes_length (valid published shared : Bool) (ctx fill frame layer stream page : Nat) :
    (ptBytes valid published shared ctx fill frame layer stream page).length = 16 := rfl
theorem smapBytes_length (ptBase pages ctx commit : Nat) (valid : Bool) :
    (smapBytes ptBase pages ctx commit valid).length = 16 := rfl

/-- The first byte of a write that is not empty. -/
theorem State.write_byte_first (s : State) (x : Nat) (b : Byte) (bs : Bytes) : (s.write x (b :: bs)).byte x = b :=
  s.mem.byte_writeBytes_same x (b :: bs) (Nat.zero_lt_succ bs.length)

/-- An entry of 16 bytes is read back as written, and no other byte changes. -/
theorem State.write_entry (s : State) (x : Nat) {bs : Bytes} (entry : bs.length = 16) :
    (s.write x bs).read x 16 = bs ∧ ∀ y, y < x ∨ x + 16 ≤ y → (s.write x bs).byte y = s.byte y := by
  rw [← entry]
  exact ⟨s.read_write x bs, fun y outside => s.write_byte_other x bs outside⟩

/-- Clearing VALID, the lowest bit of an entry's first byte, leaves that byte even. -/
theorem valid_cleared_even {e : Bytes} (valid : ptValid e = true) : (BitVec.ofNat 8 (byteAt e 0 - 1)).toNat % 2 = 0 := by
  have odd : byteAt e 0 % 2 = 1 := by simpa [ptValid, bitOf, Nat.testBit_zero] using valid
  rw [BitVec.toNat_ofNat]
  omega

/-! ## Unmapping -/

/-- From `s` to `t` only memory and what is kept of the pages that wait for their publication may have changed. -/
def State.PagesOnly (s t : State) : Prop :=
  ∃ mem unpublished arrived,
    t = { s with mem := mem, kvt := { s.kvt with unpublished := unpublished, arrived := arrived } }

theorem State.PagesOnly.refl (s : State) : s.PagesOnly s := ⟨_, _, _, rfl⟩
theorem State.PagesOnly.trans {x : State} (h : s.PagesOnly t) (h' : t.PagesOnly x) : s.PagesOnly x := by
  obtain ⟨mem, unpublished, arrived, rfl⟩ := h
  obtain ⟨mem', unpublished', arrived', rfl⟩ := h'
  exact ⟨_, _, _, rfl⟩
theorem State.PagesOnly.ite {p : Prop} [Decidable p] {x y : State} (hx : s.PagesOnly x) (hy : s.PagesOnly y) :
    s.PagesOnly (if p then x else y) := by
  split <;> assumption
theorem State.PagesOnly.write (h : s.PagesOnly t) (x : Nat) (bs : Bytes) : s.PagesOnly (t.write x bs) := by
  obtain ⟨mem, unpublished, arrived, rfl⟩ := h
  exact ⟨_, _, _, rfl⟩
theorem State.PagesOnly.unpublish (h : s.PagesOnly t) (waiting : List (Nat × Nat × Bool)) :
    s.PagesOnly { t with kvt := { t.kvt with unpublished := waiting } } := by
  obtain ⟨mem, unpublished, arrived, rfl⟩ := h
  exact ⟨_, _, _, rfl⟩
theorem State.PagesOnly.forgetArrived (h : s.PagesOnly t) (blocks : List Nat) : s.PagesOnly (t.forgetArrived blocks) := by
  obtain ⟨mem, unpublished, arrived, rfl⟩ := h
  exact ⟨_, _, _, rfl⟩
theorem State.PagesOnly.each {α : Type} {l : List α} {f : State → α → State} (h : s.PagesOnly t)
    (hf : ∀ t x, s.PagesOnly t → s.PagesOnly (f t x)) : s.PagesOnly (State.each l f t) := by
  induction l generalizing t with
  | nil => exact h
  | cons x l ih => exact ih (hf t x h)
theorem State.PagesOnly.ptAddr (h : s.PagesOnly t) (i : Nat) : t.ptAddr i = s.ptAddr i := by
  obtain ⟨mem, unpublished, arrived, rfl⟩ := h
  rfl

theorem State.zeroRows_pagesOnly (h : s.PagesOnly t) (u a n frame : Nat) : s.PagesOnly (t.zeroRows u a n frame) :=
  .ite (h.each fun _ _ h => h.each fun _ _ h => h.write ..) h

/-- Entry `i` of the page table holds page `n` of attention layer `a` of stream `u`, where `i` is that page's index. -/
def State.HoldsPage (s : State) (u a n : Nat) : Prop :=
  let e := s.ptEntry (s.ptIndex u a n)
  ptValid e = true ∧ ptStream e = u ∧ ptLayer e = a ∧ ptPage e = n

/-- What unmapping a page does before it clears VALID: rows zeroed unless SHARED, and nothing of the page waits any more. -/
def State.vacatePage (s : State) (u a n : Nat) : State :=
  let i := s.ptIndex u a n
  let e := s.ptEntry i
  let zeroed := if ptShared e then s else s.zeroRows u a n (ptFrame e)
  let waiting := zeroed.kvt.unpublished.filter fun w => w.1 != i
  let rest : State := { zeroed with kvt := { zeroed.kvt with unpublished := waiting } }
  rest.forgetArrived (rest.frameBlocks i)

theorem State.vacatePage_pagesOnly (s : State) (u a n : Nat) : s.PagesOnly (s.vacatePage u a n) :=
  .forgetArrived (.unpublish (.ite (.refl s) (State.zeroRows_pagesOnly (.refl s) ..)) _) _

/-- Unmapping writes the first byte of the entry that holds the page again, less VALID. -/
theorem State.unmapPage_of_held (held : s.HoldsPage u a n) : s.unmapPage u a n =
    (s.vacatePage u a n).write (s.ptAddr (s.ptIndex u a n)) (toLe 1 (byteAt (s.ptEntry (s.ptIndex u a n)) 0 - 1)) := by
  obtain ⟨valid, stream, layer, page⟩ := held
  rw [← (s.vacatePage_pagesOnly u a n).ptAddr]
  simp only [State.unmapPage, valid, stream, layer, page, beq_self_eq_true, Bool.and_true, if_true]
  rfl
/-- It does nothing where the entry does not hold the page. -/
theorem State.unmapPage_of_not_held (free : ¬ s.HoldsPage u a n) : s.unmapPage u a n = s :=
  if_neg (by simpa [State.HoldsPage, and_assoc] using free)

theorem State.unmapPage_pagesOnly (s : State) (u a n : Nat) : s.PagesOnly (s.unmapPage u a n) := by
  by_cases held : s.HoldsPage u a n
  · rw [State.unmapPage_of_held held]
    exact (s.vacatePage_pagesOnly u a n).write ..
  · rw [State.unmapPage_of_not_held held]
    exact .refl s
theorem State.unmapPage_clears_valid (held : s.HoldsPage u a n) :
    ((s.unmapPage u a n).byte (s.ptAddr (s.ptIndex u a n))).toNat % 2 = 0 := by
  rw [State.unmapPage_of_held held, toLe, State.write_byte_first]
  exact valid_cleared_even held.1

theorem State.unmapAll_pagesOnly (s : State) (u : Nat) : s.PagesOnly (s.unmapAll u) :=
  (State.PagesOnly.refl s).each fun _ _ h => h.each fun t _ h => h.trans (t.unmapPage_pagesOnly ..)

/-! ## Mapping -/

/-- Mapping a page writes its entry, published at once unless it names a knot, and no other byte. FILL is the choice of log
entry 68. -/
theorem State.mapPage_leaves (s : State) (u a n frame : Nat) (shared : Bool) (knot : Nat) :
    let t := s.mapPage u a n frame shared knot
    let x := s.ptAddr (s.ptIndex u a n)
    t.read x 16 = ptBytes true (knot == 0) shared (s.smapCtx u) (if shared then 256 else 0) frame a u n ∧
      ∀ y, y < x ∨ x + 16 ≤ y → t.byte y = s.byte y :=
  s.write_entry _ (ptBytes_length ..)

/-! ## Commands that end -/

/-- A mailbox's command that waits is performed. -/
theorem exec_awaited {cmd : Instr} {k op : Nat} {f : Mailbox → State → State}
    (carried : exec cmd s = .next (s.command k op f)) (waits : s.awaits k op) : exec cmd s = .next (f (s.mailbox k) s) := by
  rw [carried, State.command_done waits]
/-- A command that is refused ends with 0x11 and changes nothing. -/
theorem yields_refused {cmd : Instr} {k : Nat} (ran : exec cmd s = .next (s.complete k 0x11 [])) :
    yields cmd s fun t => s.completes t k 0x11 [] ∧ t = { s with mbx := t.mbx, out := t.out } :=
  yields_of ran ⟨s.complete_completes .., s.complete_eq ..⟩

/-- Without an admitted batch of the stream a page command takes effect and completes at once. -/
theorem State.pageIssue_of_not_inBatch {k : Nat} (c : PageCmd) (alone : s.inBatch u = false) :
    s.pageIssue k u c = (s.pageCmd c).complete k 0 [] := if_neg (by simp [alone])
/-- In an admitted batch it waits for the boundary. -/
theorem State.pageIssue_of_inBatch {k : Nat} (c : PageCmd) (batch : s.inBatch u = true) : s.pageIssue k u c =
    { s with kvt := { s.kvt with waitingCmds := s.kvt.waitingCmds ++ [(k, c)] } } := if_pos batch
theorem State.pageCmd_completes (s : State) (c : PageCmd) (k : Nat) : s.completes ((s.pageCmd c).complete k 0 []) k 0 [] :=
  have keeps := State.pageCmd_keeps (.refl s) (List.Subset.refl _) c
  State.completes_after (keeps.same .mbx (by decide)) (keeps.same .clk (by decide)) ..

/-! ## The page commands (Table 5.8) -/

/-- The arguments of KV_MAP are refused (R132). -/
def State.RefusesMap (s : State) (b : Mailbox) : Prop :=
  1 < b.arg 5 ∨ s.mapRefused (b.arg 0) (b.arg 1) (b.arg 2) (b.arg2 3) (b.arg 5 == 1) = true
/-- The page command that KV_MAP's arguments name. -/
def Mailbox.mapCmd (b : Mailbox) : PageCmd := .map (b.arg 0) (b.arg 1) (b.arg 2) (b.arg2 3) (b.arg 5 == 1) (b.arg2 6)

theorem exec_kvMap_again (waits : s.awaits m.val 0x3020) (again : s.pageWaits m.val = true) :
    exec (.kvMap m) s = .next s :=
  (exec_awaited rfl waits).trans (congrArg _ (if_pos again))
theorem exec_kvMap_refused (waits : s.awaits m.val 0x3020) (first : s.pageWaits m.val = false)
    (bad : s.RefusesMap (s.mailbox m.val)) : exec (.kvMap m) s = .next (s.complete m.val 0x11 []) :=
  (exec_awaited rfl waits).trans
    (congrArg _ ((if_neg (by simp [first])).trans (if_pos (by simpa [State.RefusesMap] using bad))))
theorem exec_kvMap_issued (waits : s.awaits m.val 0x3020) (first : s.pageWaits m.val = false)
    (good : ¬ s.RefusesMap (s.mailbox m.val)) : exec (.kvMap m) s =
      .next (s.pageIssue m.val ((s.mailbox m.val).arg 0) (s.mailbox m.val).mapCmd) :=
  (exec_awaited rfl waits).trans
    (congrArg _ ((if_neg (by simp [first])).trans (if_neg (by simpa [State.RefusesMap] using good))))

/-- The arguments of KV_UNMAP are refused. -/
def State.RefusesUnmap (s : State) (b : Mailbox) : Prop :=
  65536 ≤ b.arg 0 ∨ s.smapValid (b.arg 0) = false ∨ s.smapPages (b.arg 0) ≤ b.arg 2 ∨ 16384 ≤ b.arg 1

theorem exec_kvUnmap_refused (waits : s.awaits m.val 0x3021) (first : s.pageWaits m.val = false)
    (bad : s.RefusesUnmap (s.mailbox m.val)) : exec (.kvUnmap m) s = .next (s.complete m.val 0x11 []) :=
  (exec_awaited rfl waits).trans (congrArg _ ((if_neg (by simp [first])).trans (if_pos bad)))
theorem exec_kvUnmap_issued (waits : s.awaits m.val 0x3021) (first : s.pageWaits m.val = false)
    (good : ¬ s.RefusesUnmap (s.mailbox m.val)) :
    let b := s.mailbox m.val
    exec (.kvUnmap m) s = .next (s.pageIssue m.val (b.arg 0) (.unmap (b.arg 0) (b.arg 1) (b.arg 2))) :=
  (exec_awaited rfl waits).trans (congrArg _ ((if_neg (by simp [first])).trans (if_neg good)))

/-! ## The stream commands (Table 8.10) -/

/-- The arguments of STREAM_OPEN are accepted. -/
def State.AcceptsOpen (s : State) (b : Mailbox) : Prop :=
  b.arg 0 < 65536 ∧ b.arg 1 < 256 ∧ b.arg 2 < 1024 ∧ b.arg 3 < 2097152 ∧ b.arg 4 ≠ 0 ∧ b.arg 4 < 65536 ∧ b.arg 6 < 65536 ∧
    (s.stream (b.arg 0)).opened = false ∧ (s.ctx (b.arg 1)).ctl.opened = true ∧ s.ownStream (b.arg 1) (b.arg 0) = true
/-- The stream that STREAM_OPEN opens. -/
def Mailbox.openedStream (b : Mailbox) : Stream :=
  { opened := true, ctx := b.arg 1, tenant := b.arg 2, recvPlace := b.arg 6, recvStream := b.arg 7 % 65536, layers := 0 }
/-- What an accepted STREAM_OPEN does before it completes. -/
def State.openStream (s : State) (b : Mailbox) : State :=
  (s.write (s.smapAddr (b.arg 0)) (smapBytes (b.arg 3) (b.arg 4) (b.arg 1) (b.arg 5) true)).modStream (b.arg 0)
    fun _ => b.openedStream

theorem State.not_acceptsOpen_iff (b : Mailbox) : ¬ s.AcceptsOpen b ↔
    (65536 ≤ b.arg 0 ∨ 256 ≤ b.arg 1 ∨ 1024 ≤ b.arg 2 ∨ 2097152 ≤ b.arg 3 ∨ b.arg 4 = 0 ∨ 65536 ≤ b.arg 4 ∨
      65536 ≤ b.arg 6 ∨ (s.stream (b.arg 0)).opened = true ∨ (s.ctx (b.arg 1)).ctl.opened = false ∨
      s.ownStream (b.arg 1) (b.arg 0) = false) := by
  simp only [State.AcceptsOpen, not_and_or, Nat.not_lt, ne_eq, not_not, Bool.not_eq_false, Bool.not_eq_true]
theorem exec_streamOpen_refused (waits : s.awaits m.val 0x3002) (bad : ¬ s.AcceptsOpen (s.mailbox m.val)) :
    exec (.streamOpen m) s = .next (s.complete m.val 0x11 []) :=
  (exec_awaited rfl waits).trans (congrArg _ (if_pos ((State.not_acceptsOpen_iff _).mp bad)))
theorem exec_streamOpen_accepted (waits : s.awaits m.val 0x3002) (good : s.AcceptsOpen (s.mailbox m.val))
    (done : s.openStream (s.mailbox m.val) = t) : exec (.streamOpen m) s = .next (t.complete m.val 0 []) :=
  done ▸ (exec_awaited rfl waits).trans (congrArg _ (if_neg fun bad => (State.not_acceptsOpen_iff _).mpr bad good))

/-- The stream is open and has no request Pending or admitted, so STREAM_CLOSE and STREAM_RESET accept it. -/
def State.AcceptsEnd (s : State) (u : Nat) : Prop := u < 65536 ∧ (s.stream u).opened = true ∧ s.streamBusy u = false

theorem State.not_acceptsEnd_iff (u : Nat) : ¬ s.AcceptsEnd u ↔
    (65536 ≤ u ∨ (s.stream u).opened = false ∨ s.streamBusy u = true) := by
  simp only [State.AcceptsEnd, not_and_or, Nat.not_lt, Bool.not_eq_false, Bool.not_eq_true]
theorem exec_streamEnd_refused {cmd : Instr} {op : Nat}
    (ends : (cmd = .streamClose m ∧ op = 0x3003) ∨ (cmd = .streamReset m ∧ op = 0x3004)) (waits : s.awaits m.val op)
    (bad : ¬ s.AcceptsEnd ((s.mailbox m.val).arg 0)) : exec cmd s = .next (s.complete m.val 0x11 []) := by
  have refused := (State.not_acceptsEnd_iff _).mp bad
  rcases ends with ⟨rfl, rfl⟩ | ⟨rfl, rfl⟩
  · exact (exec_awaited rfl waits).trans (congrArg _ (if_pos refused))
  · exact (exec_awaited rfl waits).trans (congrArg _ (if_pos refused))
theorem exec_streamClose_accepted (waits : s.awaits m.val 0x3003) (good : s.AcceptsEnd ((s.mailbox m.val).arg 0))
    (done : s.closeStream ((s.mailbox m.val).arg 0) = t) : exec (.streamClose m) s = .next (t.complete m.val 0 []) :=
  done ▸ (exec_awaited rfl waits).trans (congrArg _ (if_neg fun bad => (State.not_acceptsEnd_iff _).mpr bad good))
theorem exec_streamReset_accepted (waits : s.awaits m.val 0x3004) (good : s.AcceptsEnd ((s.mailbox m.val).arg 0))
    (done : s.resetStream ((s.mailbox m.val).arg 0) = t) : exec (.streamReset m) s = .next (t.complete m.val 0 []) :=
  done ▸ (exec_awaited rfl waits).trans (congrArg _ (if_neg fun bad => (State.not_acceptsEnd_iff _).mpr bad good))

/-- Opening a stream writes its entry of the stream map and the stream, and no other byte or stream. -/
theorem State.openStream_leaves (s : State) (b : Mailbox) : ∃ srv mem, let t : State := { s with srv := srv, mem := mem }
    s.openStream b = t ∧
      t.read (s.smapAddr (b.arg 0)) 16 = smapBytes (b.arg 3) (b.arg 4) (b.arg 1) (b.arg 5) true ∧
      (∀ x, x < s.smapAddr (b.arg 0) ∨ s.smapAddr (b.arg 0) + 16 ≤ x → t.byte x = s.byte x) ∧
      t.stream (b.arg 0) = b.openedStream ∧ ∀ x, x ≠ b.arg 0 → t.stream x = s.stream x :=
  have ⟨entry, elsewhere⟩ := s.write_entry (s.smapAddr (b.arg 0)) (smapBytes_length ..)
  ⟨_, _, rfl, entry, elsewhere, s.modStream_stream .., fun _ other => s.modStream_stream_other other _⟩
/-- Closing a stream clears VALID in its entry of the stream map and forgets the stream; every other stream stays. -/
theorem State.closeStream_leaves (s : State) (u : Nat) :
    ∃ srv mem kvt, let t : State := { s with srv := srv, mem := mem, kvt := kvt }
      s.closeStream u = t ∧ t.stream u = {} ∧ (∀ x, x ≠ u → t.stream x = s.stream x) ∧ t.byte (s.smapAddr u + 7) = 0 := by
  obtain ⟨mem, unpublished, arrived, unmapped⟩ := s.unmapAll_pagesOnly u
  rw [State.closeStream, unmapped]
  exact ⟨_, _, _, rfl, s.modStream_stream .., fun x other => s.modStream_stream_other other _, State.write_byte_first ..⟩
/-- Resetting a stream sets its COMMIT to 0; every stream stays. -/
theorem State.resetStream_leaves (s : State) (u : Nat) :
    ∃ mem kvt, let t : State := { s with mem := mem, kvt := kvt }
      s.resetStream u = t ∧ t.commitOf u = 0 := by
  obtain ⟨mem, unpublished, arrived, unmapped⟩ := s.unmapAll_pagesOnly u
  rw [State.resetStream, unmapped]
  exact ⟨_, _, rfl, congrArg leNat (State.read_write _ _ (toLe 4 0))⟩

end Sys2Proof.Machine

open Sys2Proof Sys2Proof.Machine

/-- Settles O50: a page command takes effect at once or joins the commands that wait for the boundary; unmapping leaves the bases of
both tables, so the last write of KV_UNMAP, STREAM_CLOSE and STREAM_RESET meets the entry that it is to clear. -/
theorem pagesAndStreams : Obligations.PagesAndStreams := by
  refine ⟨fun s m waits => ?_, fun s m waits first => ?_, fun s m waits => ?_, fun s m op cmd ends waits => ?_⟩
  · refine ⟨exec_kvMap_again waits, fun first bad => yields_refused (exec_kvMap_refused waits first bad),
      fun first good batch => ?_, fun first good alone => ?_⟩
    · exact (exec_kvMap_issued waits first good).trans (congrArg _ (State.pageIssue_of_inBatch _ batch))
    · let b := s.mailbox m.val
      obtain ⟨entry, elsewhere⟩ :=
        s.mapPage_leaves (b.arg 0) (b.arg 1) (b.arg 2) (b.arg2 3) (b.arg 5 == 1) (b.arg2 6)
      exact yields_of ((exec_kvMap_issued waits first good).trans (congrArg _ (State.pageIssue_of_not_inBatch _ alone)))
        ⟨State.pageCmd_completes .., entry, elsewhere⟩
  · refine ⟨fun bad => yields_refused (exec_kvUnmap_refused waits first bad), fun good batch => ?_, fun good alone => ?_⟩
    · exact (exec_kvUnmap_issued waits first good).trans (congrArg _ (State.pageIssue_of_inBatch _ batch))
    · let b := s.mailbox m.val
      have unmapped (free : ¬ s.HoldsPage (b.arg 0) (b.arg 1) (b.arg 2)) :=
        congrArg State.mem (State.unmapPage_of_not_held free)
      exact yields_of ((exec_kvUnmap_issued waits first good).trans (congrArg _ (State.pageIssue_of_not_inBatch _ alone)))
        ⟨State.pageCmd_completes .., State.unmapPage_clears_valid, unmapped⟩
  · refine ⟨fun bad => yields_refused (exec_streamOpen_refused waits bad), fun good => ?_⟩
    obtain ⟨srv, mem, done, entry, elsewhere, opened, others⟩ := s.openStream_leaves (s.mailbox m.val)
    exact yields_of (exec_streamOpen_accepted waits good done)
      ⟨State.completes_after rfl rfl .., entry, elsewhere, opened, others, rfl⟩
  · refine ⟨fun bad => yields_refused (exec_streamEnd_refused ends waits bad), fun good => ?_⟩
    rcases ends with ⟨rfl, rfl⟩ | ⟨rfl, rfl⟩
    · obtain ⟨srv, mem, kvt, done, forgotten, others, invalid⟩ := s.closeStream_leaves ((s.mailbox m.val).arg 0)
      exact yields_of (exec_streamClose_accepted waits good done)
        ⟨State.completes_after rfl rfl .., others, fun _ => ⟨forgotten, invalid⟩, nofun, rfl⟩
    · obtain ⟨mem, kvt, done, uncommitted⟩ := s.resetStream_leaves ((s.mailbox m.val).arg 0)
      exact yields_of (exec_streamReset_accepted waits good done)
        ⟨State.completes_after rfl rfl .., fun _ _ => rfl, nofun, fun _ => ⟨rfl, uncommitted⟩, rfl⟩

end

section
/-! The end of a step also closes its layer's work: flags that slots have raised enter the flag table (R96). A step of SLOT 0xFFFF
works for every filled slot, so its end may write flag counters beside its knot, which the statement of step ends does not allow for. -/

-- one proof at a time: side by side, their stacks and heaps do not fit beside the rest of the text
set_option Elab.async false

namespace Sys2Proof.Machine

/-- A plan image of period 100 whose hub list alone holds a step: SAMPLE, of LEN 8, SLOT 0xFFFF and SET 0x2000. Its parameters are
all zero, so that it works for layer 0. -/
def samplingImage : Bytes :=
  toLe 4 0 ++ toLe 4 100 ++ toLe 6 0 ++ toLe 2 1 ++ toLe 24 0 ++ toLe 8 0x58 ++ toLe 32 0 ++ toLe 4 0x58 ++ toLe 4 1 ++
    (toLe 4 0 ++ toLe 4 8 ++ toLe 1 0xC ++ toLe 23 0 ++ toLe 8 0x2000 ++ toLe 2 0 ++ toLe 2 0xFFFF ++ toLe 20 0)

/-- The run of that step in iteration 0, from pick 0, with no operation outstanding. -/
def samplingRun : Run := ⟨1, 4, 0, 0, 0, 0, 0x1360, [], 0, none, false, false, 0, 0, 0, 0, none, none⟩

/-- Context 1 runs the plan at the budgeted end of its step. Its slot 0 holds a Generating request for which layer 0 has raised a
flag that is yet to be counted; the recipe has one layer, and its flag table lies at 0x3000. -/
def flagRaised : State :=
  { State.reset with
    clk := { pick := 8 }
    sched := { runs := [samplingRun] }
    ctxs := [(1, {
      ctl := { opened := true, state := 4, launchPick := some 0, plan := some samplingImage }
      cur := { recipe := toLe 2 0 ++ toLe 2 1 ++ toLe 4 0 ++ toLe 8 0x3000 }
      slots := [(0, { req := some 7, raised := [(0, 0)] })] })]
    srv := { reqs := [⟨7, 1, false, 2, 9, [0], 1, 0, 0, 1, 0, 0, 0, 0, 2, 1, 0, 0, none, false, false, none⟩] } }

/-- The byte at `a` after a command. -/
def byteAfter (a : Nat) : Host.Outcome State Fault Refusal → Byte
  | .next t => t.byte a
  | _ => 0

theorem flagRaised_runs : flagRaised.up = true ∧
    flagRaised.sched.runs.find? (fun r => sameRun 1 4 0 r && r.ended.isNone) = some samplingRun ∧
    (flagRaised.ctx 1).ctl.cut = false := by
  refine ⟨?_, ?_, ?_⟩ <;> decide +kernel

/-- The step's SET names a knot of this module, at 0x2000, and its slot is 0xFFFF. -/
theorem flagRaised_sets : let st := flagRaised.stepAt (1 : Fin 256).val (4 : Fin 5).val (0 : BitVec 18).toNat
    st.set = 0x2000 ∧ addrPlace 0x2000 = planPlace (flagRaised.image (1 : Fin 256).val) ∧ st.slot = 0xFFFF := by
  refine ⟨?_, ?_, ?_⟩ <;> decide +kernel

/-- The flag's counter becomes 1. -/
theorem flagRaised_counted :
    flagRaised.byte 0x3000 = 0 ∧ byteAfter 0x3000 (exec (.stepEnd 1 4 0) flagRaised) = 1 := by
  constructor <;> decide +kernel

end Sys2Proof.Machine

open Sys2Proof Sys2Proof.Machine

/-- Refutes O22: a step of SLOT 0xFFFF ends and closes its layer's work; beside its knot at 0x2000, the counter at 0x3000 of a flag
that the layer has raised changes. -/
theorem not_stepsEndAndSetKnots : ¬ Obligations.StepsEndAndSetKnots := by
  rintro ⟨ends, -⟩
  obtain ⟨up, runs, uncut⟩ := flagRaised_runs
  obtain ⟨set, place, slot⟩ := flagRaised_sets
  obtain ⟨before, counted⟩ := flagRaised_counted
  obtain ⟨t, ran, -, -, sets, -⟩ := ends flagRaised 1 4 0 samplingRun up runs uncut
  obtain ⟨-, -, onlyKnot⟩ := sets rfl (by rw [set]; decide) (by rw [set]; exact place)
  obtain ⟨-, elsewhere⟩ := onlyKnot slot rfl rfl
  have kept : t.byte 0x3000 = 0 := (elsewhere 0x3000 (.inr (by rw [set]; decide))).trans before
  rw [ran] at counted
  exact absurd (counted.symm.trans kept) (by decide)

end

section
/-! How a context goes from state to state (Table 6.13): what the group messages send, what a command leaves of the context that it
works on, and that it leaves every other context alone. -/

-- one proof at a time: side by side, their stacks and heaps do not fit beside the rest of the text
set_option Elab.async false

namespace Sys2Proof.Machine

variable {s t u : State} {B : List Block} {c d : Nat} {α : Type}

/-! ## What is left of the contexts -/

theorem Keeps.ctx_eq (h : Keeps B s t) (hb : Block.ctxs ∉ B) (d : Nat) : t.ctx d = s.ctx d := by
  have same : t.ctxs = s.ctxs := h.same .ctxs hb
  rw [State.ctx, same, State.ctx]

/-- From `s` to `t` what `π` shows of context `c` stays, and every other context stays whole. -/
structure State.CtxStays (π : Ctx → α) (c : Nat) (s t : State) : Prop where
  own : π (t.ctx c) = π (s.ctx c)
  other : ∀ d, d ≠ c → t.ctx d = s.ctx d

section
variable {π : Ctx → α}

theorem State.CtxStays.refl (s : State) : s.CtxStays π c s := ⟨rfl, fun _ _ => rfl⟩
theorem State.CtxStays.trans (h : s.CtxStays π c t) (h' : t.CtxStays π c u) : s.CtxStays π c u :=
  ⟨h'.own.trans h.own, fun d hd => (h'.other d hd).trans (h.other d hd)⟩
theorem Keeps.ctxStays (k : Keeps B t u) (hb : Block.ctxs ∉ B) (h : s.CtxStays π c t) : s.CtxStays π c u :=
  h.trans ⟨congrArg π (k.ctx_eq hb c), fun d _ => k.ctx_eq hb d⟩
theorem State.CtxStays.map {β : Type} {π' : Ctx → β} (h : s.CtxStays π c t) (f : α → β) (hf : ∀ x, π' x = f (π x)) :
    s.CtxStays π' c t :=
  ⟨by rw [hf, hf, h.own], h.other⟩
theorem State.modCtx_ctxStays {f : Ctx → Ctx} (hf : ∀ x, π (f x) = π x) (h : s.CtxStays π c t) :
    s.CtxStays π c (t.modCtx c f) :=
  h.trans ⟨by rw [State.modCtx_ctx, hf], fun _ hd => t.modCtx_ctx_other hd f⟩
theorem State.each_ctxStays {β : Type} {l : List β} {f : State → β → State} (h : s.CtxStays π c t)
    (hf : ∀ (t : State) b, t.CtxStays π c (f t b)) : s.CtxStays π c (State.each l f t) := by
  induction l generalizing t with
  | nil => exact h
  | cons b l ih => exact ih (h.trans (hf t b))
end

/-- Context `c` alone has changed. -/
abbrev State.CtxOnly (c : Nat) (s t : State) : Prop := s.CtxStays (fun _ => ()) c t

theorem State.CtxStays.only {π : Ctx → α} (h : s.CtxStays π c t) : s.CtxOnly c t := ⟨rfl, h.other⟩
theorem State.modCtx_only (f : Ctx → Ctx) (h : s.CtxOnly c t) : s.CtxOnly c (t.modCtx c f) :=
  State.modCtx_ctxStays (fun _ => rfl) h
theorem State.modCtl_only (f : CtxCtl → CtxCtl) (h : s.CtxOnly c t) : s.CtxOnly c (t.modCtl c f) :=
  State.modCtx_only _ h

/-- A context without its batch slots, which alone the checks of its steps mark. -/
def Ctx.unslotted (x : Ctx) : Ctx := { x with slots := [] }
/-- A context without its batch slots and the places of its row copies, which alone building its copies changes. -/
def Ctx.uncopied (x : Ctx) : Ctx := { x with slots := [], ctl := { x.ctl with rowCopies := [] } }

theorem State.check_unslotted (s : State) (c k : Nat) (f : Check → Check) : s.CtxStays Ctx.unslotted c (s.check c k f) :=
  State.each_ctxStays (.refl s) fun t _ => State.modCtx_ctxStays (fun _ => rfl) (.refl t)
theorem State.checkedRead_unslotted (s : State) (c slot a n : Nat) (ups : List Upset) :
    s.CtxStays Ctx.unslotted c (s.checkedRead c slot a n ups) := by
  unfold State.checkedRead
  dsimp only
  have events : Keeps [.history, .memChecks, .obs] s
      ((s.perf 0x13 (hbmUnits a n) (loomOfAddr a) none none).eccEvents c (struckUnits ups a n)) :=
    State.eccEvents_keeps (State.perf_keeps (.refl s) (by decide) ..) (by decide) ..
  have counted := events.ctxStays (by decide) (.refl (π := Ctx.unslotted) (c := c) s)
  refine State.each_ctxStays ?_ fun t k => State.CtxStays.trans ?_ (State.check_unslotted ..)
  · split
    · exact counted.trans (State.check_unslotted ..)
    · exact counted
  · exact (State.readFail_keeps (B := [.history, .memChecks, .obs, .agg]) (.refl t) (by decide) ..).ctxStays (by decide) (.refl t)

theorem State.copyTo_uncopied (s : State) (c a : Nat) (src : List (Nat × Nat)) :
    s.CtxStays Ctx.uncopied c (s.copyTo c a src) := by
  have read : s.CtxStays Ctx.uncopied c (State.each src (fun s x => s.checkedRead c 0xFFFE x.1 x.2 []) s) :=
    State.each_ctxStays (.refl s) fun t x => (t.checkedRead_unslotted c 0xFFFE x.1 x.2 []).map Ctx.uncopied fun _ => rfl
  exact ⟨read.own, read.other⟩
theorem State.noteCopy_uncopied (s : State) (c a n : Nat) : s.CtxStays Ctx.uncopied c (s.noteCopy c a n) :=
  (State.noteCopy_keeps (B := [.sealed]) (.refl s) (by decide) ..).ctxStays (by decide) (.refl s)
theorem State.buildRowCopies_uncopied (s : State) (c : Nat) (plan : Bytes) (w : WeightSet) :
    s.CtxStays Ctx.uncopied c (s.buildRowCopies c plan w) := by
  unfold State.buildRowCopies
  refine State.each_ctxStays (State.modCtx_ctxStays (fun _ => rfl) (.refl s)) fun t l => ?_
  extract_lets
  split
  · exact .refl t
  · refine State.each_ctxStays (t.noteCopy_uncopied ..) fun u x => ?_
    exact State.modCtx_ctxStays (fun _ => rfl) (u.copyTo_uncopied ..)
theorem State.buildCopies_uncopied (s : State) (c : Nat) (plan : Bytes) (w : WeightSet) :
    s.CtxStays Ctx.uncopied c (s.buildCopies c plan w) := by
  refine (s.buildRowCopies_uncopied c plan w).trans (State.each_ctxStays (.refl _) fun t x => ?_)
  exact State.each_ctxStays (.refl t) fun u a => (u.copyTo_uncopied ..).trans (State.noteCopy_uncopied ..)

/-! ## Group messages (R341) -/

theorem State.sendOn_out (s : State) (ports : List Nat) (m : CtrlMsg) :
    s.out <:+ (s.sendOn ports m).out ∧ ∀ p ∈ ports, Output.ctrl p m ∈ (s.sendOn ports m).out := by
  unfold State.sendOn
  induction ports generalizing s with
  | nil => exact ⟨List.suffix_rfl, nofun⟩
  | cons q ports ih =>
    obtain ⟨grows, sent⟩ := ih ((s.emit (.ctrl q m)).sendFlits q 0 1 256)
    have first : (.ctrl q m :: s.out) <:+ _ := grows
    refine ⟨(List.suffix_cons ..).trans first, fun p hp => ?_⟩
    rcases List.mem_cons.mp hp with rfl | hp
    · exact first.subset List.mem_cons_self
    · exact sent p hp

theorem State.originate_out (s : State) (c msg pick arg arg2 : Nat) :
    s.out <:+ (s.originate c msg pick arg arg2).out ∧ ∀ p ∈ planPorts (s.image c),
      Output.ctrl p ⟨msg, planPlace (s.image c), planGroup (s.image c), pick, arg, arg2⟩ ∈
        (s.originate c msg pick arg arg2).out :=
  (s.noteMsg ..).sendOn_out ..
theorem State.relay_out (s : State) (c msg origin scope pick arg arg2 : Nat) :
    s.out <:+ (s.relay c msg origin scope pick arg arg2).out ∧ ∀ p ∈ planPorts (s.image c),
      Output.ctrl p ⟨msg, origin, scope, pick, arg, arg2⟩ ∈ (s.relay c msg origin scope pick arg arg2).out :=
  (s.noteMsg ..).sendOn_out ..
theorem State.originate_sends (s : State) (c msg pick arg arg2 : Nat) :
    Keeps [.relayed, .ports, .out] s (s.originate c msg pick arg arg2) := State.originate_keeps (.refl s) (by decide) ..
theorem State.relay_sends (s : State) (c msg origin scope pick arg arg2 : Nat) :
    Keeps [.relayed, .ports, .out] s (s.relay c msg origin scope pick arg arg2) := State.relay_keeps (.refl s) (by decide) ..
@[simp] theorem State.originate_ctx (s : State) (c msg pick arg arg2 d : Nat) :
    (s.originate c msg pick arg arg2).ctx d = s.ctx d := (s.originate_sends ..).ctx_eq (by decide) d
@[simp] theorem State.originate_clk (s : State) (c msg pick arg arg2 : Nat) :
    (s.originate c msg pick arg arg2).clk = s.clk := (s.originate_sends ..).same .clk (by decide)
@[simp] theorem State.relay_ctx (s : State) (c msg origin scope pick arg arg2 d : Nat) :
    (s.relay c msg origin scope pick arg arg2).ctx d = s.ctx d := (s.relay_sends ..).ctx_eq (by decide) d
@[simp] theorem State.relay_clk (s : State) (c msg origin scope pick arg arg2 : Nat) :
    (s.relay c msg origin scope pick arg arg2).clk = s.clk := (s.relay_sends ..).same .clk (by decide)

/-! ## To Disabled (Table 6.13) -/

/-- From `s` to `t` context `c` has gone to Disabled: it keeps its reason, and a plan where it had one; no step of it waits, no
request joins, and every other context stays. -/
structure State.Disabled (c : Nat) (s t : State) : Prop where
  state : (t.ctx c).ctl.state = 0
  launchPick : (t.ctx c).ctl.launchPick = none
  reason : (t.ctx c).ctl.reason = (s.ctx c).ctl.reason
  plan : (s.ctx c).ctl.plan.isSome = true → (t.ctx c).ctl.plan.isSome = true
  other : ∀ d, d ≠ c → t.ctx d = s.ctx d
  due : ∀ d ∈ t.sched.due, d.ctx ≠ c
  reqs : ∀ q ∈ t.srv.reqs, q ∈ s.srv.reqs

/-- Dropping steps that are not suppressed touches the schedule and what is observed of it. -/
theorem State.dropDue_keeps_observed (s : State) (p : Due → Bool) : Keeps [.sched, .obs] s (s.dropDue p false) := by
  unfold State.dropDue
  simp only [Bool.false_eq_true, if_false]
  refine State.refresh_keeps (State.each_keeps ?_ fun t d h => ?_) (by decide)
  · rw [State.mk_eq]
    apply Keeps.upd (.refl s) (fun w => w) <;> first | exact .inr rfl | exact .inl (by decide)
  · exact State.dropTag_keeps (State.voidStalls_keeps h (by decide) _) (by decide) _ _

/-- What a flip of its set leaves of a context's control. -/
def CtxCtl.unflipped (k : CtxCtl) : CtxCtl := { k with gen := 0, flips := [] }
theorem CtxCtl.unflipped_plan (k : CtxCtl) : k.unflipped.plan = k.plan := rfl

theorem State.flipSet_unflipped (s : State) (c : Nat) :
    s.CtxStays (fun x => x.ctl.unflipped) c (s.flipSet c) := by
  unfold State.flipSet
  dsimp only
  split
  · exact .refl s
  next w _ =>
    have released := (State.releaseSet_keeps (B := [.heddles, .harnesses]) (.refl s) (by decide) (s.ctx c).ctl.sealed
      { (s.ctx c).cur with harnesses := (s.ctx c).cur.harnesses.filter (fun h => !w.harnesses.contains h) }).ctxStays
        (by decide) (.refl (π := fun x : Ctx => x.ctl.unflipped) (c := c) s)
    have claimed (v : State) : v.CtxStays (fun x => x.ctl.unflipped) c (v.claimSet c 1 w) :=
      (State.claimSet_keeps (B := [.heddles]) (.refl v) (by decide) ..).ctxStays (by decide) (.refl v)
    refine State.modCtx_ctxStays (fun _ => rfl) ?_
    have moved := State.modCtx_ctxStays (f := fun y => { y with ctl := { y.ctl with gen := (y.ctl.gen + 1) % 65536 } })
      (fun _ => rfl) ((State.modCtx_ctxStays (f := fun y => { y with cur := w, staged := none }) (fun _ => rfl)
        released).trans (claimed _))
    split
    · exact State.each_ctxStays moved fun v x =>
        (State.resetStream_keeps (B := [.mem, .kvt]) (.refl v) (by decide) ..).ctxStays (by decide) (.refl v)
    · exact moved

/-- The successor plan takes the place of the plan (R251). -/
def CtxCtl.succeeded (k : CtxCtl) : CtxCtl :=
  { k with plan := (match k.successor with | some p => some p | none => k.plan), successor := none }
theorem CtxCtl.succeeded_plan {k : CtxCtl} (loaded : k.plan.isSome = true) : k.succeeded.plan.isSome = true := by
  unfold CtxCtl.succeeded
  cases k.successor
  · exact loaded
  · rfl
theorem State.flipAtStop_of_pending (h : (s.ctx c).sw.state = 3 ∨ (s.ctx c).sw.state = 4) :
    s.flipAtStop c = (s.modCtl c CtxCtl.succeeded).flipSet c := if_pos h
theorem State.flipAtStop_of_not_pending (h : ¬((s.ctx c).sw.state = 3 ∨ (s.ctx c).sw.state = 4)) : s.flipAtStop c = s :=
  if_neg h

/-- What a switch made at a stop leaves of a context's control. -/
def CtxCtl.unplanned (k : CtxCtl) : CtxCtl := { k with gen := 0, flips := [], plan := none, successor := none }

theorem State.flipAtStop_unplanned (s : State) (c : Nat) : s.CtxStays (fun x => x.ctl.unplanned) c (s.flipAtStop c) := by
  by_cases h : (s.ctx c).sw.state = 3 ∨ (s.ctx c).sw.state = 4
  · rw [State.flipAtStop_of_pending h]
    refine .trans (t := s.modCtl c CtxCtl.succeeded) (State.modCtx_ctxStays (fun _ => rfl) (.refl s)) ?_
    exact (State.flipSet_unflipped _ c).map CtxCtl.unplanned fun _ => rfl
  · rw [State.flipAtStop_of_not_pending h]
    exact .refl s
theorem State.flipAtStop_plan (loaded : (s.ctx c).ctl.plan.isSome = true) :
    ((s.flipAtStop c).ctx c).ctl.plan.isSome = true := by
  by_cases h : (s.ctx c).sw.state = 3 ∨ (s.ctx c).sw.state = 4
  · have plan := congrArg CtxCtl.plan ((s.modCtl c CtxCtl.succeeded).flipSet_unflipped c).own
    rw [State.modCtl_ctl] at plan
    rw [CtxCtl.unflipped_plan, CtxCtl.unflipped_plan] at plan
    rw [State.flipAtStop_of_pending h, plan]
    exact CtxCtl.succeeded_plan loaded
  · rwa [State.flipAtStop_of_not_pending h]

/-- A context as it enters Disabled, before a switch that is made then. -/
def Ctx.disabled (x : Ctx) : Ctx :=
  { x with
    slots := []
    ctl := { x.ctl with
      state := 0, launchPick := none, cut := false, stopEnd := none, readies := [], firstReadyWall := none
      flips := [], maskEff := x.ctl.maskReq, strictEff := x.ctl.strictReq, strictMaskEff := x.ctl.strictMaskReq } }

/-- No step of context `c` waits any longer, for its start or for an answer to its KNOT_SET. -/
def State.dropSteps (s : State) (c : Nat) : State :=
  let t := s.dropDue (fun d => d.ctx == c) false
  { t with sched := { t.sched with
    due := t.sched.due.filter (fun d => d.ctx != c), sets := t.sched.sets.filter (fun x => x.1 != c) } }
theorem State.dropSteps_keeps (s : State) (c : Nat) : Keeps [.sched, .obs] s (s.dropSteps c) := by
  rw [State.dropSteps, State.mk_eq]
  apply Keeps.upd (s.dropDue_keeps_observed _) (fun w => w) <;> first | exact .inr rfl | exact .inl (by decide)
theorem State.dropSteps_due (s : State) (c : Nat) : ∀ d ∈ (s.dropSteps c).sched.due, d.ctx ≠ c := fun d hd => by
  simpa using (List.mem_filter.mp hd).2
/-- The end of going to Disabled: a pending switch is made, waiting page commands and Done requests are settled. -/
def State.settleDisabled (s : State) (c : Nat) : State := ((s.flipAtStop c).pageSettle).prune
theorem State.disableCtx_eq (s : State) (c : Nat) :
    s.disableCtx c = ((s.dropSteps c).modCtx c Ctx.disabled).settleDisabled c := rfl
theorem State.flipAtStop_settles (s : State) (c : Nat) :
    Keeps [.mbx, .mem, .kvt, .streams, .reqs, .out] (s.flipAtStop c) (s.settleDisabled c) :=
  State.prune_keeps (State.pageSettle_keeps (.refl _) (by decide)) (by decide)
theorem State.settleDisabled_unplanned (s : State) (c : Nat) :
    s.CtxStays (fun x => x.ctl.unplanned) c (s.settleDisabled c) :=
  (s.flipAtStop_settles c).ctxStays (by decide) (s.flipAtStop_unplanned c)
theorem State.settleDisabled_plan (loaded : (s.ctx c).ctl.plan.isSome = true) :
    ((s.settleDisabled c).ctx c).ctl.plan.isSome = true := by
  rw [(s.flipAtStop_settles c).ctx_eq (by decide)]
  exact State.flipAtStop_plan loaded
theorem State.flipAtStop_moves (s : State) (c : Nat) : Keeps [.mem, .heddles, .harnesses, .kvt, .ctxs] s (s.flipAtStop c) :=
  State.flipAtStop_keeps (.refl s) (by decide) c
theorem State.settleDisabled_sched (s : State) (c : Nat) : (s.settleDisabled c).sched = s.sched :=
  ((s.flipAtStop_settles c).same .sched (by decide)).trans ((s.flipAtStop_moves c).same .sched (by decide))
theorem State.settleDisabled_reqs (s : State) (c : Nat) : ∀ q ∈ (s.settleDisabled c).srv.reqs, q ∈ s.srv.reqs := by
  have settles : Keeps [.mbx, .mem, .kvt, .streams, .out] (s.flipAtStop c) (s.flipAtStop c).pageSettle :=
    State.pageSettle_keeps (.refl _) (by decide)
  have reqs := (settles.same .reqs (by decide)).trans ((s.flipAtStop_moves c).same .reqs (by decide))
  intro q hq
  rw [← (Prod.mk.inj reqs).1]
  exact (List.mem_filter.mp hq).1

theorem State.disableCtx_disabled (s : State) (c : Nat) : s.Disabled c (s.disableCtx c) := by
  have drops := s.dropSteps_keeps c
  have ctx : ((s.dropSteps c).modCtx c Ctx.disabled).ctx c = (s.ctx c).disabled := by
    rw [State.modCtx_ctx, drops.ctx_eq (by decide)]
  have sched : ((s.dropSteps c).modCtx c Ctx.disabled).sched = (s.dropSteps c).sched := State.modCtx_sched ..
  have reqs : ((s.dropSteps c).modCtx c Ctx.disabled).srv.reqs = s.srv.reqs := (Prod.mk.inj (drops.same .reqs (by decide))).1
  have others {d : Nat} (hd : d ≠ c) : ((s.dropSteps c).modCtx c Ctx.disabled).ctx d = s.ctx d := by
    rw [State.modCtx_ctx_other _ hd, drops.ctx_eq (by decide)]
  rw [State.disableCtx_eq]
  generalize (s.dropSteps c).modCtx c Ctx.disabled = w at ctx sched reqs others
  obtain ⟨own, other⟩ := w.settleDisabled_unplanned c
  have kept {β : Type} (π : CtxCtl → β) (hπ : ∀ k, π k.unplanned = π k) :
      π ((w.settleDisabled c).ctx c).ctl = π (s.ctx c).disabled.ctl := by
    rw [← hπ, own, ctx, hπ]
  refine ⟨kept CtxCtl.state fun _ => rfl, kept CtxCtl.launchPick fun _ => rfl, kept CtxCtl.reason fun _ => rfl,
    fun loaded => State.settleDisabled_plan (by rw [ctx]; exact loaded), fun d hd => (other d hd).trans (others hd),
    fun d hd => ?_, fun q hq => reqs ▸ w.settleDisabled_reqs c q hq⟩
  rw [State.settleDisabled_sched, sched] at hd
  exact s.dropSteps_due c d hd

/-- The reason of a context that returns to Disabled. -/
def CtxCtl.failed (code : Nat) (k : CtxCtl) : CtxCtl := { k with reason := code, reasonStep := none, reasonList := 0 }
theorem CtxCtl.failed_state (code : Nat) (k : CtxCtl) : (k.failed code).state = k.state := rfl
theorem CtxCtl.failed_reason (code : Nat) (k : CtxCtl) : (k.failed code).reason = code := rfl
theorem CtxCtl.failed_launchPick (code : Nat) (k : CtxCtl) : (k.failed code).launchPick = k.launchPick := rfl
theorem State.failCtx_eq (s : State) (c code : Nat) : s.failCtx c code = (s.disableCtx c).modCtl c (CtxCtl.failed code) := rfl
theorem State.modCtl_sched (s : State) (c : Nat) (f : CtxCtl → CtxCtl) : (s.modCtl c f).sched = s.sched := rfl

/-- From `s` to `t` context `c` has returned to Disabled with reason `code`. -/
structure State.Fails (c code : Nat) (s t : State) : Prop where
  state : (t.ctx c).ctl.state = 0
  reason : (t.ctx c).ctl.reason = code
  launchPick : (t.ctx c).ctl.launchPick = none
  other : ∀ d, d ≠ c → t.ctx d = s.ctx d
  due : ∀ d ∈ t.sched.due, d.ctx ≠ c

theorem State.failCtx_fails (s : State) (c code : Nat) : s.Fails c code (s.failCtx c code) := by
  obtain ⟨state, launchPick, -, -, other, due, -⟩ := s.disableCtx_disabled c
  rw [State.failCtx_eq]
  refine ⟨?_, ?_, ?_, fun d hd => ?_, ?_⟩
  · rw [State.modCtl_ctl, CtxCtl.failed_state, state]
  · rw [State.modCtl_ctl, CtxCtl.failed_reason]
  · rw [State.modCtl_ctl, CtxCtl.failed_launchPick, launchPick]
  · rw [State.modCtl_other _ hd, other d hd]
  · rw [State.modCtl_sched]
    exact due
/-- ABORT (R173). -/
theorem State.abortCtx_fails (s : State) (c : Nat) : s.Fails c 0x0707 (s.abortCtx c) := by
  rw [State.abortCtx]
  obtain ⟨state, reason, launchPick, other, due⟩ := (s.originate c 5 s.clk.pick 0 0).failCtx_fails c 0x0707
  exact ⟨state, reason, launchPick, fun d hd => (other d hd).trans (s.originate_ctx ..), due⟩

end Sys2Proof.Machine

end

section
/-! The registers of a context (R168-R171, R174, R270, R271): what ENABLE, MASKING, STRICT and TWILL do in each of its states. -/

-- one proof at a time: side by side, their stacks and heaps do not fit beside the rest of the text
set_option Elab.async false

namespace Sys2Proof.Machine

variable {s : State} {who : Who} {j c : Nat}

/-! ## Shared operations -/

theorem le_maxNat {l : List Nat} (d : Nat) {n : Nat} (h : n ∈ l) : n ≤ maxNat d l := by
  have start : ∀ (l : List Nat) (d : Nat), d ≤ maxNat d l := fun l => by
    induction l with
    | nil => exact fun _ => le_rfl
    | cons m l ih => exact fun d => (Nat.le_max_left d m).trans (ih (d.max m))
  induction l generalizing d with
  | nil => cases h
  | cons m l ih =>
    rcases List.mem_cons.mp h with rfl | h
    · exact (Nat.le_max_right d n).trans (start l _)
    · exact ih _ h

theorem State.each_emit {α : Type} (l : List α) (f : α → Output) (s : State) :
    State.each l (fun s x => s.emit (f x)) s = { s with out := (l.map f).reverse ++ s.out } := by
  induction l generalizing s with
  | nil => rfl
  | cons x l ih => exact (ih (s.emit (f x))).trans (by simp [State.emit])

/-- A message on ports changes the ports and what is sent, nothing else. -/
theorem State.sendOn_frame (s : State) (ports : List Nat) (m : CtrlMsg) :
    s.sendOn ports m = { s with ports := (s.sendOn ports m).ports, out := (s.sendOn ports m).out } := by
  unfold State.sendOn
  induction ports generalizing s with
  | nil => rfl
  | cons p ports ih => exact ih ((s.emit (.ctrl p m)).sendFlits p 0 1 256)
theorem State.originate_srv (s : State) (c msg pick arg arg2 : Nat) : (s.originate c msg pick arg arg2).srv = s.srv := by
  rw [State.originate, State.sendGroup, State.sendOn_frame]
  rfl
theorem State.originate_arr (s : State) (c msg pick arg arg2 : Nat) : (s.originate c msg pick arg arg2).arr = s.arr := by
  rw [State.originate, State.sendGroup, State.sendOn_frame]
  rfl

theorem State.modCtl_ctx (s : State) (c : Nat) (f : CtxCtl → CtxCtl) :
    (s.modCtl c f).ctx c = { s.ctx c with ctl := f (s.ctx c).ctl } := s.modCtx_ctx ..

/-! ## ENABLE = 1 (R170, R171) -/

/-- A context whose check begins, the one before it being the check numbered `n`. -/
def CtxCtl.checking (n : Nat) (k : CtxCtl) : CtxCtl :=
  { k with state := 1, checkFrom := n + 1, reason := 0, reasonList := 0, reasonStep := none }
/-- The number of the last check that was started. -/
def State.lastCheck (s : State) : Nat := maxNat 0 (s.ctxs.map fun x => x.2.ctl.checkFrom)

theorem State.checkFrom_le_lastCheck {x : Nat × Ctx} (h : x ∈ s.ctxs) : x.2.ctl.checkFrom ≤ s.lastCheck :=
  le_maxNat 0 (List.mem_map_of_mem (f := fun x : Nat × Ctx => x.2.ctl.checkFrom) h)

theorem State.tellWindows_eq (s : State) (c : Nat) : s.tellWindows c = { s with
    out := ((s.exam c (s.image c) (s.ctx c).cur ⟨[], []⟩).sentWindows.map fun x => .windows x.1 x.2).reverse ++ s.out } :=
  State.each_emit ..
theorem State.tellWindows_sends (s : State) (c : Nat) : Keeps [.out] s (s.tellWindows c) :=
  State.tellWindows_keeps (.refl s) (by decide) c
theorem State.tellWindows_told (s : State) (c : Nat) {x : Nat × List PortWindow}
    (h : x ∈ (s.exam c (s.image c) (s.ctx c).cur ⟨[], []⟩).sentWindows) : Output.windows x.1 x.2 ∈ (s.tellWindows c).out := by
  rw [State.tellWindows_eq]
  exact List.mem_append_left _ (List.mem_reverse.mpr
    (List.mem_map_of_mem (f := fun x : Nat × List PortWindow => Output.windows x.1 x.2) h))

/-- The ports without what they have heard of the group's time. -/
def State.forgetTimes (s : State) (g : Nat) : State :=
  { s with ports := Tab.mapAll {} (fun _ x => { x with peerTime := x.peerTime.filter (fun r => r.1 != g) }) s.ports }
theorem State.forgetTimes_out (s : State) (g : Nat) : (s.forgetTimes g).out = s.out := rfl
theorem State.tellGroup_group (h : 1 < planPlaces (s.image c)) :
    s.tellGroup c = (s.forgetTimes (planGroup (s.image c))).originate c 2 s.clk.pick s.timeLeader
      (b2n (s.time.state == 1 || s.time.state == 2)) := if_pos h
theorem State.tellGroup_alone (h : planPlaces (s.image c) ≤ 1) : s.tellGroup c = s := if_neg (by omega)
theorem State.tellGroup_out (s : State) (c : Nat) : s.out <:+ (s.tellGroup c).out := by
  rcases Nat.lt_or_ge 1 (planPlaces (s.image c)) with group | alone
  · have grows := ((s.forgetTimes (planGroup (s.image c))).originate_out c 2 s.clk.pick s.timeLeader
      (b2n (s.time.state == 1 || s.time.state == 2))).1
    rw [State.forgetTimes_out] at grows
    rwa [State.tellGroup_group group]
  · rw [State.tellGroup_alone alone]
theorem State.tellGroup_sends (s : State) (c : Nat) : Keeps [.relayed, .ports, .out] s (s.tellGroup c) :=
  State.tellGroup_keeps (.refl s) (by decide) c

/-- The windows of a plan and of its group are told. -/
def State.tellPlan (s : State) (c : Nat) : State := (s.tellWindows c).tellGroup c
theorem State.tellPlan_ctxs (s : State) (c : Nat) : (s.tellPlan c).ctxs = s.ctxs :=
  ((s.tellWindows c).tellGroup_sends c |>.same .ctxs (by decide)).trans ((s.tellWindows_sends c).same .ctxs (by decide))
theorem State.tellPlan_told (s : State) (c : Nat) {x : Nat × List PortWindow}
    (h : x ∈ (s.exam c (s.image c) (s.ctx c).cur ⟨[], []⟩).sentWindows) : Output.windows x.1 x.2 ∈ (s.tellPlan c).out :=
  ((s.tellWindows c).tellGroup_out c).subset (s.tellWindows_told c h)
theorem State.tellPlan_alone (h : planPlaces (s.image c) ≤ 1) : s.tellPlan c = { s with out := (s.tellPlan c).out } := by
  have image : (s.tellWindows c).image c = s.image c := by
    rw [State.image, (s.tellWindows_sends c).ctx_eq (by decide), State.image]
  have alone : planPlaces ((s.tellWindows c).image c) ≤ 1 := by rwa [image]
  rw [State.tellPlan, State.tellGroup_alone alone, State.tellWindows_eq]

theorem State.startCheck_eq (h : (s.ctx c).ctl.state = 0) :
    s.startCheck c = (s.modCtl c (CtxCtl.checking s.lastCheck)).tellPlan c := if_pos h

/-- A check that starts: the context is Checking, its reason cleared, and its number is above that of every check before; the windows
are told, and for a plan of one place nothing else happens. -/
theorem State.startCheck_leaves (h : (s.ctx c).ctl.state = 0) :
    (s.startCheck c).ctxs = (s.modCtl c (CtxCtl.checking s.lastCheck)).ctxs ∧
      (∀ x ∈ (State.exam { s with ctxs := (s.startCheck c).ctxs } c (s.image c) (s.ctx c).cur ⟨[], []⟩).sentWindows,
        Output.windows x.1 x.2 ∈ (s.startCheck c).out) ∧
      (planPlaces (s.image c) ≤ 1 → s.startCheck c = { s with ctxs := (s.startCheck c).ctxs, out := (s.startCheck c).out }) := by
  have whole : s.modCtl c (CtxCtl.checking s.lastCheck) = { s with ctxs := (s.modCtl c (CtxCtl.checking s.lastCheck)).ctxs } := rfl
  have image : (s.modCtl c (CtxCtl.checking s.lastCheck)).image c = s.image c := by
    rw [State.image, State.modCtl_ctl]
    rfl
  have cur : ((s.modCtl c (CtxCtl.checking s.lastCheck)).ctx c).cur = (s.ctx c).cur := by rw [State.modCtl_ctx]
  rw [State.startCheck_eq h, State.tellPlan_ctxs]
  generalize s.modCtl c (CtxCtl.checking s.lastCheck) = v at whole image cur
  refine ⟨rfl, fun x hx => v.tellPlan_told c ?_, fun alone => ?_⟩
  · rwa [image, cur, whole]
  · have alone' : planPlaces (v.image c) ≤ 1 := by rwa [image]
    rw [State.tellPlan_alone alone', whole]

/-! ## ENABLE = 0 (Table 6.13, R174) -/

/-- Context `c` does not wait for a change of the power state to be enabled. -/
def State.unwait (s : State) (c : Nat) : State :=
  { s with pwr := { s.pwr with enableAfter := s.pwr.enableAfter.filter (· != c) } }
theorem State.enableZero_preparing (h : (s.ctx c).ctl.state = 1 ∨ (s.ctx c).ctl.state = 2) : s.enableZero c = s.failCtx c 0 :=
  if_pos h
theorem State.enableZero_armed (h : (s.ctx c).ctl.state = 3) : s.enableZero c = s.abortCtx c := by
  rw [State.enableZero, if_neg (by omega), if_pos h]
theorem State.enableZero_else (h : (s.ctx c).ctl.state = 0 ∨ 4 ≤ (s.ctx c).ctl.state) : s.enableZero c = s.stopCtx c := by
  rw [State.enableZero, if_neg (by omega), if_neg (by omega)]
theorem State.stopCtx_not_running (h : (s.ctx c).ctl.state ≠ 4) : s.stopCtx c = s := if_neg h

theorem State.unwait_off (h : (s.ctx c).ctl.state = 0 ∨ 5 ≤ (s.ctx c).ctl.state) : (s.unwait c).enableZero c = s.unwait c := by
  have state : ((s.unwait c).ctx c).ctl.state = (s.ctx c).ctl.state := rfl
  rw [State.enableZero_else (by omega), State.stopCtx_not_running (by omega)]

/-- A context that stops, its last iteration ending at pick `e`. -/
def CtxCtl.stopping (e : Nat) (k : CtxCtl) : CtxCtl := { k with state := 5, stopEnd := some e }
theorem State.stopAt_eq (s : State) (c p : Nat) :
    s.stopAt c p = s.modCtl c (CtxCtl.stopping (s.iterEnd c (p + planLead (s.image c)))) := rfl
theorem State.stopCtx_running (h : (s.ctx c).ctl.state = 4) :
    s.stopCtx c = (s.originate c 6 s.clk.pick 0 0).stopAt c s.clk.pick := if_pos h

/-- Of the rest of the state, the end of an iteration depends on the context alone. -/
theorem State.image_of_ctx {t : State} (h : t.ctx c = s.ctx c) : t.image c = s.image c := by
  rw [State.image, h, State.image]
theorem State.iterEnd_of_ctx {t : State} (h : t.ctx c = s.ctx c) (p : Nat) : t.iterEnd c p = s.iterEnd c p := by
  simp only [State.iterEnd, State.image_of_ctx h, h]

/-- A Running context that is stopped sends STOP and stops at the end of an iteration; nothing else of the state changes but what is
sent. -/
theorem State.stopCtx_stops (h : (s.ctx c).ctl.state = 4) :
    ((s.stopCtx c).ctx c).ctl = (s.ctx c).ctl.stopping (s.iterEnd c (s.clk.pick + planLead (s.image c))) ∧
      (∀ p ∈ planPorts (s.image c), Output.ctrl p ⟨6, planPlace (s.image c), planGroup (s.image c), s.clk.pick, 0, 0⟩ ∈
        (s.stopCtx c).out) ∧
      (s.stopCtx c).srv = s.srv ∧ (s.stopCtx c).arr = s.arr ∧ ∀ d, d ≠ c → (s.stopCtx c).ctx d = s.ctx d := by
  have sent := (s.originate_out c 6 s.clk.pick 0 0).2
  have ctx := s.originate_ctx c 6 s.clk.pick 0 0
  have srv : (s.originate c 6 s.clk.pick 0 0).srv = s.srv := State.originate_srv ..
  have arr : (s.originate c 6 s.clk.pick 0 0).arr = s.arr := State.originate_arr ..
  rw [State.stopCtx_running h, State.stopAt_eq]
  generalize s.originate c 6 s.clk.pick 0 0 = v at sent ctx srv arr
  refine ⟨?_, sent, srv, arr, fun d hd => (State.modCtl_other v hd _).trans (ctx d)⟩
  rw [State.modCtl_ctl, State.iterEnd_of_ctx (ctx c), State.image_of_ctx (ctx c), ctx]

section
variable (disabled : (s.ctx c).ctl.state = 0)
include disabled

theorem State.ctxEnable_oos (oos : s.rcv.oos = true) : s.ctxEnable c = s.report (.droppedWrite 1) := by
  rw [State.ctxEnable, if_neg (not_not.mpr disabled), if_pos oos]
theorem State.ctxEnable_retention (serves : s.rcv.oos = false) (rests : s.pwr.target = none) (mode : s.pwr.mode = 2) :
    s.ctxEnable c = { s with pwr := { s.pwr with
      enableAfter := s.pwr.enableAfter.filter (· != c) ++ [c], target := some 1, targetMbx := none } } := by
  simp [State.ctxEnable, disabled, serves, rests, mode, State.powerTo]
theorem State.ctxEnable_changing (serves : s.rcv.oos = false) (changes : s.pwr.target.isSome = true) :
    s.ctxEnable c = { s with pwr := { s.pwr with enableAfter := s.pwr.enableAfter.filter (· != c) ++ [c] } } := by
  simp [State.ctxEnable, disabled, serves, changes]
theorem State.ctxEnable_checks (serves : s.rcv.oos = false) (rests : s.pwr.target = none) (mode : s.pwr.mode ≠ 2) :
    s.ctxEnable c = s.startCheck c := by
  simp [State.ctxEnable, disabled, serves, rests, mode]
end

/-! ## MASKING, STRICT, TWILL (R168, R270, R271) -/

/-- Requested settings that are in effect at once while no batch runs. -/
def CtxCtl.settled (k : CtxCtl) : CtxCtl :=
  if k.state < 4 then { k with maskEff := k.maskReq, strictEff := k.strictReq, strictMaskEff := k.strictMaskReq } else k

/-- A context with its control replaced. -/
def Ctx.withCtl (x : Ctx) (k : CtxCtl) : Ctx := { x with ctl := k }

/-- Context `c` has its control as `k`; nothing else of the state has changed. -/
structure State.Controls (c : Nat) (k : CtxCtl) (s t : State) : Prop where
  own : t.ctx c = (s.ctx c).withCtl k
  other : ∀ d, d ≠ c → t.ctx d = s.ctx d
  rest : t = { s with ctxs := t.ctxs }

variable {t : State} {k : CtxCtl}

theorem State.Controls.ctl (h : s.Controls c k t) : (t.ctx c).ctl = k := by rw [h.own, Ctx.withCtl]
theorem State.Controls.own_ctl (h : s.Controls c k t) : t.ctx c = (s.ctx c).withCtl (t.ctx c).ctl := by rw [h.ctl, h.own]
theorem State.Controls.modCtl (h : s.Controls c k t) (f : CtxCtl → CtxCtl) : s.Controls c (f k) (t.modCtl c f) := by
  refine ⟨?_, fun d hd => (State.modCtl_other _ hd _).trans (h.other d hd), ?_⟩
  · rw [State.modCtl_ctx, h.own]
    rfl
  · rw [State.modCtl, State.modCtx, h.rest]
theorem State.Controls.refl (s : State) (c : Nat) : s.Controls c (s.ctx c).ctl s := ⟨rfl, fun _ _ => rfl, rfl⟩
theorem State.Controls.settle? (h : s.Controls c k t) : s.Controls c k.settled (t.settle? c) := by
  by_cases calm : k.state < 4
  · rw [State.settle?, h.ctl, if_pos calm, CtxCtl.settled, if_pos calm]
    exact h.modCtl fun k => { k with maskEff := k.maskReq, strictEff := k.strictReq, strictMaskEff := k.strictMaskReq }
  · rwa [State.settle?, h.ctl, if_neg calm, CtxCtl.settled, if_neg calm]

end Sys2Proof.Machine

open Sys2Proof Sys2Proof.Machine

/-- Settles O37, by the state of the context that the write finds. -/
theorem contextRegistersAct : Obligations.ContextRegistersAct := by
  unfold Obligations.ContextRegistersAct
  refine ⟨fun s who j h => ?_, fun s who j h => ?_, fun s who j h => ?_⟩
  · have runs : exec (.contextEnable who) s = .next (s.ctxEnable (s.sel j).ctx) :=
      congrArg Host.Outcome.next (State.onCtx_done h fun c s => s.ctxEnable c)
    refine ⟨fun busy => ?_, fun off oos => ?_, fun off serves rests mode => ?_, fun off serves changes => ?_,
      fun off serves rests mode => ?_⟩
    · rw [runs, State.ctxEnable, if_pos busy]
    · rw [runs, State.ctxEnable_oos off oos, State.report]
    · rw [runs, State.ctxEnable_retention off serves rests mode]
    · rw [runs, State.ctxEnable_changing off serves changes]
    · rw [State.ctxEnable_checks off serves rests mode] at runs
      obtain ⟨ctxs, told, alone⟩ := State.startCheck_leaves off
      refine yields_of runs ?_
      generalize s.startCheck (s.sel j).ctx = t at ctxs told alone
      have ctl : (t.ctx (s.sel j).ctx).ctl = (s.ctx (s.sel j).ctx).ctl.checking s.lastCheck := by
        rw [State.ctx, ctxs]
        exact State.modCtl_ctl ..
      refine ⟨by rw [ctl]; rfl, fun x hx => ?_, fun d hd => ?_, told, alone⟩
      · rw [ctl]
        exact Nat.lt_succ_of_le (State.checkFrom_le_lastCheck hx)
      · rw [State.ctx, ctxs]
        exact State.modCtl_other _ hd _
  · have runs : exec (.contextDisable who) s = .next ((s.unwait (s.sel j).ctx).enableZero (s.sel j).ctx) :=
      congrArg Host.Outcome.next (State.onCtx_done h fun c s => s.ctxDisable c)
    refine ⟨fun off => ?_, fun prepares => yields_of runs ?_, fun armed => yields_of runs ?_,
      fun running => yields_of runs ?_⟩
    · rw [runs, State.unwait_off off, State.unwait]
    · rw [State.enableZero_preparing (s := s.unwait _) prepares]
      obtain ⟨state, reason, -, -, due⟩ := (s.unwait (s.sel j).ctx).failCtx_fails (s.sel j).ctx 0
      exact ⟨state, reason, due⟩
    · rw [State.enableZero_armed (s := s.unwait _) armed]
      obtain ⟨state, reason, launchPick, -, -⟩ := (s.unwait (s.sel j).ctx).abortCtx_fails (s.sel j).ctx
      exact ⟨state, reason, launchPick⟩
    · rw [State.enableZero_else (s := s.unwait _) (.inr (Nat.le_of_eq running.symm))]
      exact State.stopCtx_stops (s := s.unwait _) running
  · refine ⟨fun on => ?_, fun strict mask => ?_, fun on => ⟨fun busy => ?_, fun off => ?_⟩⟩
    · have runs : exec (.maskingSet who on) s = .next (s.maskSet (s.sel j).ctx on) :=
        congrArg Host.Outcome.next (State.onCtx_done h fun c s => s.maskSet c on)
      have set := ((State.Controls.refl s (s.sel j).ctx).modCtl fun k => { k with maskReq := on }).settle?
      exact yields_of runs ⟨set.ctl, set.own_ctl, set.other, set.rest⟩
    · have runs : exec (.strictSet who strict mask) s = .next (s.strictSet (s.sel j).ctx strict mask) :=
        congrArg Host.Outcome.next (State.onCtx_done h fun c s => s.strictSet c strict mask)
      have set := ((State.Controls.refl s (s.sel j).ctx).modCtl fun k =>
        { k with strictReq := strict, strictMaskReq := mask &&& 0xCFE6 }).settle?
      exact yields_of runs ⟨set.ctl, set.own_ctl, set.other, set.rest⟩
    all_goals have runs : exec (.twillSet who on) s = .next (s.twillSet (s.sel j).ctx on) :=
      congrArg Host.Outcome.next (State.onCtx_done h fun c s => s.twillSet c on)
    · rw [runs, State.twillSet, if_neg busy, State.report]
    · have set := (State.Controls.refl s (s.sel j).ctx).modCtl fun k => { k with twillReq := on }
      rw [State.twillSet, if_pos off] at runs
      exact yields_of runs ⟨set.own, set.other, set.rest⟩

end

section
/-! The stop of a plan (R174): what a message does in each member of a group, STOP, and the end of the last iteration. -/

-- one proof at a time: side by side, their stacks and heaps do not fit beside the rest of the text
set_option Elab.async false

namespace Sys2Proof.Machine

variable {s t : State} {c : Nat}

/-! ## A message that every member of a group acts on (R173, R174, R341)

A context table may list a number twice, and then the member is visited twice: what is shown of a member holds after its first visit,
which finds it as it was, and after any later one. -/

section
variable {f : State → Nat → State} {l : List Nat}

theorem State.each_visited {R : Ctx → Prop} (clk : ∀ t d, (f t d).clk = t.clk)
    (other : ∀ (t : State) d e, e ≠ d → (f t d).ctx e = t.ctx e)
    (visit : ∀ t : State, t.clk = s.clk → t.ctx c = s.ctx c ∨ R (t.ctx c) → R ((f t c).ctx c)) (h : c ∈ l) :
    R ((State.each l f s).ctx c) := by
  have later (l : List Nat) : ∀ t : State, t.clk = s.clk → R (t.ctx c) → R ((State.each l f t).ctx c) := by
    induction l with
    | nil => exact fun t _ holds => holds
    | cons d l ih =>
      intro t at_ holds
      refine ih (f t d) ((clk t d).trans at_) ?_
      rcases eq_or_ne c d with rfl | ne
      · exact visit t at_ (.inr holds)
      · rwa [other t d c ne]
  have first (l : List Nat) (h : c ∈ l) : ∀ t : State, t.clk = s.clk → t.ctx c = s.ctx c → R ((State.each l f t).ctx c) := by
    induction l with
    | nil => cases h
    | cons d l ih =>
      intro t at_ same
      rcases eq_or_ne c d with rfl | ne
      · exact later l _ ((clk t c).trans at_) (visit t at_ (.inl same))
      · exact ih ((List.mem_cons.mp h).resolve_left ne) _ ((clk t d).trans at_) ((other t d c ne).trans same)
  exact first l h s rfl rfl

theorem State.each_sent {o : Output} (grows : ∀ t d, t.out <:+ (f t d).out)
    (other : ∀ (t : State) d e, e ≠ d → (f t d).ctx e = t.ctx e)
    (visit : ∀ t : State, t.ctx c = s.ctx c → o ∈ (f t c).out) (h : c ∈ l) : o ∈ (State.each l f s).out := by
  have later (l : List Nat) : ∀ t : State, o ∈ t.out → o ∈ (State.each l f t).out := by
    induction l with
    | nil => exact fun t sent => sent
    | cons d l ih => exact fun t sent => ih (f t d) ((grows t d).subset sent)
  have first (l : List Nat) (h : c ∈ l) : ∀ t : State, t.ctx c = s.ctx c → o ∈ (State.each l f t).out := by
    induction l with
    | nil => cases h
    | cons d l ih =>
      intro t same
      rcases eq_or_ne c d with rfl | ne
      · exact later l _ (visit t same)
      · exact ih ((List.mem_cons.mp h).resolve_left ne) _ ((other t d c ne).trans same)
  exact first l h s rfl
end

/-! ## STOP -/

/-- A context that stops no later than with the iteration that ends at pick `e`. -/
def CtxCtl.earlier (e : Nat) (k : CtxCtl) : CtxCtl := { k with stopEnd := k.stopEnd.map fun x => min x e }

/-- The context as a STOP that ends its iterations at pick `p` or later leaves it. -/
def Ctx.stopped (e : Nat) (x : Ctx) : Ctx :=
  if x.ctl.state = 4 then x.withCtl (x.ctl.stopping e)
  else if x.ctl.state = 5 ∧ !x.ctl.cut then x.withCtl (x.ctl.earlier e)
  else x

theorem Ctx.stopped_running {x : Ctx} (e : Nat) (h : x.ctl.state = 4) : x.stopped e = x.withCtl (x.ctl.stopping e) := if_pos h
theorem Ctx.stopped_stopping {x : Ctx} (e : Nat) (h : x.ctl.state = 5) (whole : x.ctl.cut = false) :
    x.stopped e = x.withCtl (x.ctl.earlier e) := by
  rw [Ctx.stopped, if_neg (by omega), if_pos ⟨h, by rw [whole]; rfl⟩]
theorem Ctx.stopped_else {x : Ctx} (e : Nat) (run : x.ctl.state ≠ 4) (h : x.ctl.state ≠ 5 ∨ x.ctl.cut = true) :
    x.stopped e = x := by
  rw [Ctx.stopped, if_neg run, if_neg]
  rintro ⟨stops, whole⟩
  rcases h with other | cut
  · exact other stops
  · simp [cut] at whole

/-- A second STOP that ends the iterations at the same pick changes nothing. -/
theorem Ctx.stopped_stopped (e : Nat) (x : Ctx) : (x.stopped e).stopped e = x.stopped e := by
  by_cases run : x.ctl.state = 4
  · rw [Ctx.stopped_running e run]
    cases cut : x.ctl.cut with
    | true => exact Ctx.stopped_else e (fun h : 5 = 4 => absurd h (by decide)) (.inr cut)
    | false =>
      rw [Ctx.stopped_stopping (x := x.withCtl (x.ctl.stopping e)) e rfl cut]
      simp [Ctx.withCtl, CtxCtl.stopping, CtxCtl.earlier]
  · by_cases stops : x.ctl.state = 5 ∧ x.ctl.cut = false
    · obtain ⟨stop, whole⟩ := stops
      rw [Ctx.stopped_stopping e stop whole, Ctx.stopped_stopping (x := x.withCtl (x.ctl.earlier e)) e stop whole]
      simp [Ctx.withCtl, CtxCtl.earlier, Function.comp_def]
    · have out : x.ctl.state ≠ 5 ∨ x.ctl.cut = true := by
        by_contra h
        simp only [not_or, not_not, Bool.not_eq_true] at h
        exact stops h
      rw [Ctx.stopped_else e run out, Ctx.stopped_else e run out]

/-- A STOP does not change when the iterations of its context end. -/
theorem Ctx.stopped_launchPick (e : Nat) (x : Ctx) : (x.stopped e).ctl.launchPick = x.ctl.launchPick := by
  unfold Ctx.stopped
  split_ifs <;> rfl
theorem Ctx.stopped_plan (e : Nat) (x : Ctx) : (x.stopped e).ctl.plan = x.ctl.plan := by
  unfold Ctx.stopped
  split_ifs <;> rfl

theorem State.modCtl_own (s : State) (c : Nat) (f : CtxCtl → CtxCtl) :
    (s.modCtl c f).ctx c = (s.ctx c).withCtl (f (s.ctx c).ctl) := s.modCtl_ctx c f

theorem State.stopFrom_ctx (s : State) (c p : Nat) :
    (s.stopFrom c p).ctx c = (s.ctx c).stopped (s.iterEnd c (p + planLead (s.image c))) := by
  unfold State.stopFrom Ctx.stopped
  dsimp only
  split_ifs
  · exact State.modCtl_own ..
  · exact State.modCtl_own ..
  · rfl
theorem State.stopFrom_ctx_other {d : Nat} (h : d ≠ c) (s : State) (p : Nat) : (s.stopFrom c p).ctx d = s.ctx d := by
  unfold State.stopFrom
  dsimp only
  split_ifs
  · exact State.modCtl_other _ h _
  · exact State.modCtl_other _ h _
  · rfl
theorem State.stopFrom_keeps_ctxs (s : State) (c p : Nat) : Keeps [.ctxs] s (s.stopFrom c p) :=
  State.stopFrom_keeps (.refl s) (by decide) c p

/-- STOP in a member: relayed, then obeyed. -/
def State.stopMember (g p : Nat) (s : State) (c : Nat) : State := (s.relay c 6 0 g p 0 0).stopFrom c p

theorem exec_stop (up : s.up = true) {group pick : BitVec 64} (new : s.seenStop group.toNat pick.toNat = false) :
    exec (.stop group pick) s =
      .next (State.each (s.inGroup group.toNat) (State.stopMember group.toNat pick.toNat) s) :=
  congrArg Host.Outcome.next (if_pos (by rw [up, new]; rfl))

/-- Of the rest of the state, the end of an iteration depends on the plan and the launch pick alone. -/
theorem State.image_of_plan (h : (t.ctx c).ctl.plan = (s.ctx c).ctl.plan) : t.image c = s.image c := by
  rw [State.image, h, State.image]
theorem State.iterEnd_of_plan (plan : (t.ctx c).ctl.plan = (s.ctx c).ctl.plan)
    (launch : (t.ctx c).ctl.launchPick = (s.ctx c).ctl.launchPick) (p : Nat) : t.iterEnd c p = s.iterEnd c p := by
  simp only [State.iterEnd, State.image_of_plan plan, launch]

section
variable (s : State) (g p c : Nat)

theorem State.stopMember_clk : (s.stopMember g p c).clk = s.clk := by
  rw [State.stopMember, (State.stopFrom_keeps_ctxs _ c p).same .clk (by decide), State.relay_clk]
theorem State.stopMember_other {d : Nat} (h : d ≠ c) : (s.stopMember g p c).ctx d = s.ctx d := by
  rw [State.stopMember, State.stopFrom_ctx_other h, State.relay_ctx]
theorem State.stopMember_own :
    (s.stopMember g p c).ctx c = (s.ctx c).stopped (s.iterEnd c (p + planLead (s.image c))) := by
  have same := s.relay_ctx c 6 0 g p 0 0 c
  rw [State.stopMember, State.stopFrom_ctx, State.iterEnd_of_ctx same, State.image_of_ctx same, same]
theorem State.stopMember_sends : s.out <:+ (s.stopMember g p c).out ∧
    ∀ q ∈ planPorts (s.image c), Output.ctrl q ⟨6, 0, g, p, 0, 0⟩ ∈ (s.stopMember g p c).out := by
  rw [State.stopMember, (State.stopFrom_keeps_ctxs _ c p).same .out (by decide)]
  exact s.relay_out c 6 0 g p 0 0
end

/-- What a STOP sent at pick `p` leaves of a member, once it has reached the whole group. -/
theorem State.stopGroup_ctx {l : List Nat} (h : c ∈ l) (g p : Nat) : (State.each l (State.stopMember g p) s).ctx c =
    (s.ctx c).stopped (s.iterEnd c (p + planLead (s.image c))) := by
  refine State.each_visited (f := State.stopMember g p)
    (R := fun x => x = (s.ctx c).stopped (s.iterEnd c (p + planLead (s.image c))))
    (fun t d => t.stopMember_clk g p d) (fun t d e ne => t.stopMember_other g p d ne) (fun t _ seen => ?_) h
  rw [State.stopMember_own]
  rcases seen with same | seen
  · rw [State.iterEnd_of_ctx same, State.image_of_ctx same, same]
  · have plan : (t.ctx c).ctl.plan = (s.ctx c).ctl.plan := by rw [seen, Ctx.stopped_plan]
    have launch : (t.ctx c).ctl.launchPick = (s.ctx c).ctl.launchPick := by rw [seen, Ctx.stopped_launchPick]
    rw [State.iterEnd_of_plan plan launch, State.image_of_plan plan, seen, Ctx.stopped_stopped]
theorem State.stopGroup_sends {l : List Nat} (h : c ∈ l) (g p : Nat) {q : Nat} (port : q ∈ planPorts (s.image c)) :
    Output.ctrl q ⟨6, 0, g, p, 0, 0⟩ ∈ (State.each l (State.stopMember g p) s).out := by
  refine State.each_sent (s := s) (f := State.stopMember g p) (fun t d => (t.stopMember_sends g p d).1)
    (fun t d e ne => t.stopMember_other g p d ne) (fun t same => (t.stopMember_sends g p c).2 q ?_) h
  rwa [State.image_of_ctx same]

/-- The end of an iteration that is taken for pick `p` is the first that comes no earlier. -/
theorem ceilDiv_mul_ge (a : Nat) {b : Nat} (h : 0 < b) : a ≤ ceilDiv a b * b := by
  unfold ceilDiv
  have := Nat.div_add_mod (a + b - 1) b
  have := Nat.mod_lt (a + b - 1) h
  rw [Nat.mul_comm]
  omega
theorem ceilDiv_pred_mul_lt (a : Nat) {b : Nat} (h : 0 < b) (up : 1 ≤ ceilDiv a b) : (ceilDiv a b - 1) * b < a := by
  unfold ceilDiv at *
  have := Nat.div_mul_le_self (a + b - 1) b
  have split := Nat.sub_one_mul ((a + b - 1) / b) b
  have one := Nat.le_mul_of_pos_left b up
  omega
theorem State.iterEnd_first (s : State) (c p : Nat) {lp : Nat} (launched : (s.ctx c).ctl.launchPick = some lp) :
    ∃ n, 1 ≤ n ∧ s.iterEnd c p = lp + n * max (planPeriod (s.image c)) 1 ∧
      p ≤ lp + n * max (planPeriod (s.image c)) 1 ∧ (1 < n → lp + (n - 1) * max (planPeriod (s.image c)) 1 < p) := by
  have end_ : s.iterEnd c p = lp + max 1 (ceilDiv (p - lp) (max (planPeriod (s.image c)) 1)) * max (planPeriod (s.image c)) 1 := by
    simp only [State.iterEnd, launched, Option.getD_some]
  have pos : 0 < max (planPeriod (s.image c)) 1 := by omega
  generalize max (planPeriod (s.image c)) 1 = b at end_ pos
  refine ⟨_, Nat.le_max_left 1 _, end_, ?_, fun later => ?_⟩
  · have enough := ceilDiv_mul_ge (p - lp) pos
    have wider := Nat.mul_le_mul_right b (Nat.le_max_right 1 (ceilDiv (p - lp) b))
    omega
  · have whole : max 1 (ceilDiv (p - lp) b) = ceilDiv (p - lp) b := by omega
    have short := ceilDiv_pred_mul_lt (p - lp) pos (by omega)
    rw [whole]
    omega

/-! ## The end of the last iteration -/

theorem State.finish_reqs (s : State) (q : Request) (status p : Nat) :
    ∀ r ∈ (s.finish q status p).srv.reqs, (r ∈ s.srv.reqs ∧ r.id ≠ q.id) ∨ r.state = 4 := by
  have records : Keeps [.rings] s ((s.lateCancels q.id).putRecord q.ring (recordPlace q q.emitted) none
      (recordBytes q.tag status 1 q.stream max32 0 (s.barePosition q.stream) q.emitted p)) :=
    State.putRecord_keeps (State.lateCancels_keeps (.refl s) (by decide) _) (by decide) ..
  have reqs := (Prod.mk.inj (records.same .reqs (by decide))).1
  rw [State.finish]
  generalize (s.lateCancels q.id).putRecord _ _ _ _ = v at reqs
  intro r hr
  obtain ⟨r', hr', rfl⟩ := List.mem_map.mp hr
  by_cases same : r'.id = q.id
  · exact .inr (by rw [if_pos same])
  · rw [if_neg same]
    exact .inl ⟨reqs ▸ hr', same⟩

/-- A request of a context that has reached its end goes to Done here and now. -/
def State.endRequest (s : State) (q : Request) : State := s.finish q 0x30 s.clk.pick
theorem State.endRequests_reqs (l : List Request) (s : State) :
    ∀ r ∈ (State.each l State.endRequest s).srv.reqs, (r ∈ s.srv.reqs ∧ r ∉ l) ∨ r.state = 4 := by
  induction l generalizing s with
  | nil => exact fun r hr => .inl ⟨hr, List.not_mem_nil⟩
  | cons q l ih =>
    intro r hr
    rcases ih (s.endRequest q) r hr with ⟨found, out⟩ | done
    · rcases s.finish_reqs q 0x30 s.clk.pick r found with ⟨was, other⟩ | done
      · exact .inl ⟨was, fun h => (List.mem_cons.mp h).elim (fun eq => other (by rw [eq])) out⟩
      · exact .inr done
    · exact .inr done
theorem State.endRequests_keeps (l : List Request) (s : State) : Keeps [.rings, .reqs] s (State.each l State.endRequest s) :=
  State.each_keeps (.refl s) fun t q h => State.finish_keeps h (by decide) q 0x30 t.clk.pick
theorem State.mem_admitted {q : Request} :
    q ∈ s.admitted c ↔ q ∈ s.srv.reqs ∧ q.ctx = c ∧ (q.state = 1 ∨ q.state = 2 ∨ q.state = 3) := by
  simp [State.admitted, or_assoc]

/-- The end of the last iteration of a context that stops (R174). -/
theorem exec_stopIterationEnd (up : s.up = true) {c : Fin 256} (stops : (s.ctx c.val).ctl.state = 5)
    (whole : (s.ctx c.val).ctl.cut = false) {e : Nat} (stopEnd : (s.ctx c.val).ctl.stopEnd = some e) (due : e ≤ s.clk.pick) :
    exec (.stopIterationEnd c) s =
      .next ((State.each (s.admitted c.val) State.endRequest s).disableCtx c.val) :=
  congrArg Host.Outcome.next (if_pos (by simp [up, stops, whole, stopEnd, due]))

end Sys2Proof.Machine

open Sys2Proof Sys2Proof.Machine

/-- Settles O41: a member that is visited again by the same STOP stays as the first visit left it. -/
theorem stopOfPlans : Obligations.StopOfPlans := by
  unfold Obligations.StopOfPlans
  refine ⟨fun s group pick up new => yields_of (exec_stop up new) fun c member => ?_, fun s group pick seen => ?_,
    fun s c e up stops whole stopEnd due => yields_of (exec_stopIterationEnd up stops whole stopEnd due) ?_⟩
  · have own := State.stopGroup_ctx (s := s) member group.toNat pick.toNat
    refine ⟨fun p port => State.stopGroup_sends member _ _ port, fun run out => ?_, fun stop whole => ?_, fun run lp launched => ?_⟩
    · rw [own, Ctx.stopped_else _ run out]
    · rw [own, Ctx.stopped_stopping _ stop whole, Ctx.withCtl, CtxCtl.earlier]
    · obtain ⟨n, some, end_, reached, first⟩ := s.iterEnd_first c (pick.toNat + planLead (s.image c)) launched
      refine ⟨n, some, ?_, reached, first⟩
      rw [own, Ctx.stopped_running _ run, end_, Ctx.withCtl, CtxCtl.stopping]
  · exact congrArg Host.Outcome.next (if_neg (by rw [seen]; simp))
  · have finished := s.endRequests_reqs (s.admitted c.val)
    have plan := (s.endRequests_keeps (s.admitted c.val)).ctx_eq (by decide) c.val
    generalize State.each (s.admitted c.val) State.endRequest s = v at finished plan
    obtain ⟨state, launchPick, -, keepsPlan, -, due, reqs⟩ := v.disableCtx_disabled c.val
    refine ⟨state, launchPick, fun loaded => keepsPlan (by rw [plan]; exact loaded), fun q hq own => ?_, due⟩
    rcases finished q (reqs q hq) with ⟨was, out⟩ | done
    · by_contra open_
      exact out (State.mem_admitted.mpr ⟨was, own, by omega⟩)
    · exact .inr (.inl done)

end

section
/-! Armed and READY (R173): how the leader notes the ready picks and sets the launch pick, and what its members send. -/

-- one proof at a time: side by side, their stacks and heaps do not fit beside the rest of the text
set_option Elab.async false

namespace Sys2Proof.Machine

variable {s t : State} {c : Nat}

/-! ## Ready picks -/

/-- The ready picks with that of place `place`. -/
def withReady (place pick : Nat) (readies : List (Nat × Nat)) : List (Nat × Nat) :=
  readies.filter (fun r => r.1 != place) ++ [(place, pick)]
theorem withReady_withReady (place pick : Nat) (readies : List (Nat × Nat)) :
    withReady place pick (withReady place pick readies) = withReady place pick readies := by
  simp [withReady, List.filter_append, List.filter_filter]

/-- The launch pick that the leader sets at pick `now`: LAUNCH_LEAD after the later of its pick and the latest ready pick. -/
def launchFor (img : Bytes) (now : Nat) (readies : List (Nat × Nat)) : Nat :=
  max now (maxNat 0 (readies.map (·.2))) + planLead img
theorem ready_le_launchFor (img : Bytes) (now : Nat) {readies : List (Nat × Nat)} {r : Nat × Nat} (h : r ∈ readies) :
    r.2 + planLead img ≤ launchFor img now readies :=
  Nat.add_le_add_right ((le_maxNat 0 (List.mem_map_of_mem (f := (·.2)) h)).trans (Nat.le_max_right ..)) _

/-- What the leader keeps of a READY, at wall `wall`. -/
def CtxCtl.noted (place pick wall : Nat) (k : CtxCtl) : CtxCtl :=
  { k with readies := withReady place pick k.readies, firstReadyWall := k.firstReadyWall.orElse fun _ => some wall }
/-- The leader has set its launch pick. -/
def CtxCtl.launched (l : Nat) (k : CtxCtl) : CtxCtl := { k with launchPick := some l, firstReadyWall := none }

/-- The leader is Armed without a launch pick, and holds READY from every place. -/
def CtxCtl.allReady (img : Bytes) (k : CtxCtl) : Prop :=
  k.state = 3 ∧ k.launchPick = none ∧ planPlaces img ≤ k.readies.length

theorem State.tryLaunch_launches (h : (s.ctx c).ctl.allReady (s.image c)) :
    s.tryLaunch c =
      ((s.originate c 4 s.clk.pick (launchFor (s.image c) s.clk.pick (s.ctx c).ctl.readies) 0).noteMsg 4 0
        (planGroup (s.image c)) (launchFor (s.image c) s.clk.pick (s.ctx c).ctl.readies)).modCtl c
          (CtxCtl.launched (launchFor (s.image c) s.clk.pick (s.ctx c).ctl.readies)) := if_pos h
theorem State.tryLaunch_waits (h : ¬(s.ctx c).ctl.allReady (s.image c)) : s.tryLaunch c = s := if_neg h
theorem State.noteReady_eq (s : State) (c place pick : Nat) :
    s.noteReady c place pick = (s.modCtl c (CtxCtl.noted place pick s.clk.wall)).tryLaunch c := rfl

theorem State.noteMsg_ctx (s : State) (msg origin scope pick d : Nat) : (s.noteMsg msg origin scope pick).ctx d = s.ctx d := rfl
theorem State.noteMsg_out (s : State) (msg origin scope pick : Nat) : (s.noteMsg msg origin scope pick).out = s.out := rfl
theorem State.noteMsg_clk (s : State) (msg origin scope pick : Nat) : (s.noteMsg msg origin scope pick).clk = s.clk := rfl
theorem State.modCtl_out (s : State) (c : Nat) (f : CtxCtl → CtxCtl) : (s.modCtl c f).out = s.out := rfl

/-- What a READY leaves of the leader's context, `img` being its plan and `now` the pick. -/
structure CtxCtl.Readied (img : Bytes) (now place pick : Nat) (k k' : CtxCtl) : Prop where
  plan : k'.plan = k.plan
  state : k'.state = k.state
  readies : k'.readies = withReady place pick k.readies
  launchPick : k'.launchPick =
    if k.state = 3 ∧ k.launchPick = none ∧ planPlaces img ≤ (withReady place pick k.readies).length then
      some (launchFor img now (withReady place pick k.readies)) else k.launchPick

/-- The leader's launch pick is set once: the same READY again changes none of it. -/
theorem CtxCtl.Readied.again {img : Bytes} {now place pick : Nat} {k k' k'' : CtxCtl} (h : k.Readied img now place pick k')
    (h' : k'.Readied img now place pick k'') : k.Readied img now place pick k'' := by
  obtain ⟨plan, state, readies, launchPick⟩ := h
  obtain ⟨plan', state', readies', launchPick'⟩ := h'
  rw [readies, withReady_withReady] at readies' launchPick'
  refine ⟨plan'.trans plan, state'.trans state, readies', ?_⟩
  rw [launchPick', state, launchPick]
  by_cases launches : k.state = 3 ∧ k.launchPick = none ∧ planPlaces img ≤ (withReady place pick k.readies).length
  · rw [if_pos launches, if_neg (fun again => nomatch again.2.1)]
  · rw [if_neg launches, if_neg launches]

/-- The leader's context after a READY, before it looks whether all places are ready. -/
theorem State.noted_ctl (s : State) (c place pick : Nat) :
    ((s.modCtl c (CtxCtl.noted place pick s.clk.wall)).ctx c).ctl = (s.ctx c).ctl.noted place pick s.clk.wall :=
  State.modCtl_ctl ..

theorem State.noteReady_readied (s : State) (c place pick : Nat) :
    (s.ctx c).ctl.Readied (s.image c) s.clk.pick place pick ((s.noteReady c place pick).ctx c).ctl := by
  have ctl := s.noted_ctl c place pick
  have image : (s.modCtl c (CtxCtl.noted place pick s.clk.wall)).image c = s.image c := State.image_of_plan (by rw [ctl]; rfl)
  have pick_ : (s.modCtl c (CtxCtl.noted place pick s.clk.wall)).clk.pick = s.clk.pick := rfl
  rw [State.noteReady_eq]
  generalize s.modCtl c (CtxCtl.noted place pick s.clk.wall) = v at ctl image pick_
  by_cases all : (v.ctx c).ctl.allReady (v.image c)
  · rw [State.tryLaunch_launches all, State.modCtl_ctl, State.noteMsg_ctx, State.originate_ctx, ctl, image, pick_]
    rw [CtxCtl.allReady, ctl, image] at all
    exact ⟨rfl, rfl, rfl, (if_pos all).symm⟩
  · rw [State.tryLaunch_waits all, ctl]
    rw [CtxCtl.allReady, ctl, image] at all
    exact ⟨rfl, rfl, rfl, (if_neg all).symm⟩

theorem State.noteReady_other {d : Nat} (h : d ≠ c) (s : State) (place pick : Nat) :
    (s.noteReady c place pick).ctx d = s.ctx d := by
  rw [State.noteReady_eq, ← State.modCtl_other s h (CtxCtl.noted place pick s.clk.wall)]
  generalize s.modCtl c (CtxCtl.noted place pick s.clk.wall) = v
  by_cases all : (v.ctx c).ctl.allReady (v.image c)
  · rw [State.tryLaunch_launches all, State.modCtl_other _ h, State.noteMsg_ctx, State.originate_ctx]
  · rw [State.tryLaunch_waits all]
theorem State.noteReady_out (s : State) (c place pick : Nat) : s.out <:+ (s.noteReady c place pick).out := by
  have out : (s.modCtl c (CtxCtl.noted place pick s.clk.wall)).out = s.out := rfl
  rw [State.noteReady_eq, ← out]
  generalize s.modCtl c (CtxCtl.noted place pick s.clk.wall) = v
  by_cases all : (v.ctx c).ctl.allReady (v.image c)
  · rw [State.tryLaunch_launches all, State.modCtl_out, State.noteMsg_out]
    exact (v.originate_out ..).1
  · rw [State.tryLaunch_waits all]
/-- The leader that has all ready picks sends its launch pick. -/
theorem State.noteReady_sends {place pick : Nat} (armed : (s.ctx c).ctl.state = 3) (new : (s.ctx c).ctl.launchPick = none)
    (all : planPlaces (s.image c) ≤ (withReady place pick (s.ctx c).ctl.readies).length) :
    ∀ p ∈ planPorts (s.image c), Output.ctrl p ⟨4, planPlace (s.image c), planGroup (s.image c), s.clk.pick,
      launchFor (s.image c) s.clk.pick (withReady place pick (s.ctx c).ctl.readies), 0⟩ ∈ (s.noteReady c place pick).out := by
  have ctl := s.noted_ctl c place pick
  have image : (s.modCtl c (CtxCtl.noted place pick s.clk.wall)).image c = s.image c := State.image_of_plan (by rw [ctl]; rfl)
  have pick_ : (s.modCtl c (CtxCtl.noted place pick s.clk.wall)).clk.pick = s.clk.pick := rfl
  rw [State.noteReady_eq]
  generalize s.modCtl c (CtxCtl.noted place pick s.clk.wall) = v at ctl image pick_
  have ready : (v.ctx c).ctl.allReady (v.image c) := by
    rw [CtxCtl.allReady, ctl, image]
    exact ⟨armed, new, all⟩
  have sent := (v.originate_out c 4 v.clk.pick (launchFor (v.image c) v.clk.pick (v.ctx c).ctl.readies) 0).2
  rw [State.tryLaunch_launches ready, State.modCtl_out, State.noteMsg_out]
  rw [ctl, image, pick_] at sent ⊢
  exact sent

/-! ## READY -/

/-- READY in a member: the leader notes it, any other relays it. -/
def State.readyMember (g place pick : Nat) (s : State) (c : Nat) : State :=
  if planPlace (s.image c) = 0 then (s.noteMsg 3 place g pick).noteReady c place pick else s.relay c 3 place g pick pick 0
theorem State.readyMember_leader (h : planPlace (s.image c) = 0) (g place pick : Nat) :
    s.readyMember g place pick c = (s.noteMsg 3 place g pick).noteReady c place pick := if_pos h
theorem State.readyMember_member (h : planPlace (s.image c) ≠ 0) (g place pick : Nat) :
    s.readyMember g place pick c = s.relay c 3 place g pick pick 0 := if_neg h

theorem exec_ready (up : s.up = true) {group pick : BitVec 64} {place : Fin 4096}
    (new : s.seen 3 place.val group.toNat pick.toNat = false) : exec (.ready group place pick) s =
      .next (State.each (s.inGroup group.toNat) (State.readyMember group.toNat place.val pick.toNat) s) :=
  congrArg Host.Outcome.next (if_pos (by rw [up, new]; rfl))

section
variable (s : State) (g place pick c : Nat)

theorem State.readyMember_keeps : Keeps [.ctxs, .relayed, .ports, .out] s (s.readyMember g place pick c) := by
  by_cases leads : planPlace (s.image c) = 0
  · rw [State.readyMember_leader leads]
    exact State.noteReady_keeps (State.noteMsg_keeps (.refl s) (by decide) ..) (by decide) ..
  · rw [State.readyMember_member leads]
    exact State.relay_keeps (.refl s) (by decide) ..
theorem State.readyMember_clk : (s.readyMember g place pick c).clk = s.clk :=
  (s.readyMember_keeps g place pick c).same .clk (by decide)
theorem State.readyMember_other {d : Nat} (h : d ≠ c) : (s.readyMember g place pick c).ctx d = s.ctx d := by
  by_cases leads : planPlace (s.image c) = 0
  · rw [State.readyMember_leader leads, State.noteReady_other h, State.noteMsg_ctx]
  · rw [State.readyMember_member leads, State.relay_ctx]
theorem State.readyMember_out : s.out <:+ (s.readyMember g place pick c).out := by
  by_cases leads : planPlace (s.image c) = 0
  · rw [State.readyMember_leader leads, ← State.noteMsg_out s 3 place g pick]
    exact State.noteReady_out ..
  · rw [State.readyMember_member leads]
    exact (s.relay_out ..).1
end

theorem State.readyGroup_leader {l : List Nat} (h : c ∈ l) (leads : planPlace (s.image c) = 0) (g place pick : Nat) :
    (s.ctx c).ctl.Readied (s.image c) s.clk.pick place pick ((State.each l (State.readyMember g place pick) s).ctx c).ctl := by
  refine State.each_visited (f := State.readyMember g place pick)
    (R := fun x => (s.ctx c).ctl.Readied (s.image c) s.clk.pick place pick x.ctl)
    (fun t d => t.readyMember_clk g place pick d) (fun t d e ne => t.readyMember_other g place pick d ne)
    (fun t at_ seen => ?_) h
  have plan : (t.ctx c).ctl.plan = (s.ctx c).ctl.plan := seen.elim (fun same => by rw [same]) fun ready => ready.plan
  have image : t.image c = s.image c := State.image_of_plan plan
  have step := (t.noteMsg 3 place g pick).noteReady_readied c place pick
  rw [State.readyMember_leader (by rw [image]; exact leads)]
  generalize (t.noteMsg 3 place g pick).noteReady c place pick = v at step
  rw [State.image_of_ctx (t.noteMsg_ctx 3 place g pick c), image, State.noteMsg_ctx, State.noteMsg_clk, at_] at step
  rcases seen with same | ready
  · rwa [same] at step
  · exact ready.again step
theorem State.readyGroup_member {l : List Nat} (h : c ∈ l) (follows : planPlace (s.image c) ≠ 0) (g place pick : Nat) :
    (State.each l (State.readyMember g place pick) s).ctx c = s.ctx c := by
  refine State.each_visited (f := State.readyMember g place pick) (R := fun x => x = s.ctx c)
    (fun t d => t.readyMember_clk g place pick d) (fun t d e ne => t.readyMember_other g place pick d ne)
    (fun t _ seen => ?_) h
  have same : t.ctx c = s.ctx c := seen.elim id id
  rw [State.readyMember_member (by rw [State.image_of_ctx same]; exact follows), State.relay_ctx, same]
theorem State.readyGroup_sends {l : List Nat} (h : c ∈ l) (follows : planPlace (s.image c) ≠ 0) (g place pick : Nat) {q : Nat}
    (port : q ∈ planPorts (s.image c)) :
    Output.ctrl q ⟨3, place, g, pick, pick, 0⟩ ∈ (State.each l (State.readyMember g place pick) s).out := by
  refine State.each_sent (s := s) (f := State.readyMember g place pick) (fun t d => t.readyMember_out g place pick d)
    (fun t d e ne => t.readyMember_other g place pick d ne) (fun t same => ?_) h
  have image := State.image_of_ctx same
  rw [State.readyMember_member (by rw [image]; exact follows)]
  exact (t.relay_out c 3 place g pick pick 0).2 q (by rw [image]; exact port)

/-! ## The end of Arming (R173, Table 6.13) -/

/-- A context that has become Armed at wall `wall`. -/
def CtxCtl.armed (wall : Nat) (k : CtxCtl) : CtxCtl := { k with state := 3, readyWall := wall }

/-- What ARMING_READY does once a context is Armed, `img` being its plan. -/
def State.sendReady (s : State) (c : Nat) (img : Bytes) : State :=
  if planPlaces img ≤ 1 then s.modCtl c fun k => { k with launchPick := some (s.clk.pick + planLead img) }
  else if planPlace img = 0 then s.noteReady c 0 s.clk.pick
  else s.originate c 3 s.clk.pick s.clk.pick 0
theorem State.sendReady_alone {img : Bytes} (h : planPlaces img ≤ 1) :
    s.sendReady c img = s.modCtl c fun k => { k with launchPick := some (s.clk.pick + planLead img) } := if_pos h
theorem State.sendReady_leader {img : Bytes} (h : 1 < planPlaces img) (leads : planPlace img = 0) :
    s.sendReady c img = s.noteReady c 0 s.clk.pick := by
  rw [State.sendReady, if_neg (by omega), if_pos leads]
theorem State.sendReady_member {img : Bytes} (h : 1 < planPlaces img) (follows : planPlace img ≠ 0) :
    s.sendReady c img = s.originate c 3 s.clk.pick s.clk.pick 0 := by
  rw [State.sendReady, if_neg (by omega), if_neg follows]
theorem exec_armingReady {c : Fin 256} (awake : s.awake = true) (arms : (s.ctx c.val).ctl.state = 2)
    (done : s.armingDone c.val = true) :
    exec (.armingReady c) s = .next ((s.modCtl c.val (CtxCtl.armed s.clk.wall)).sendReady c.val (s.image c.val)) :=
  congrArg Host.Outcome.next (if_pos (by simp [awake, arms, done]))
theorem exec_armingHoldTimeout {c : Fin 256} (up : s.up = true) (arms : (s.ctx c.val).ctl.state = 2) {h : Nat}
    (mem : h ∈ s.planHarnesses c.val) (held : (s.harness h).held = true)
    (late : 4000000000 ≤ s.clk.wall - (s.harness h).heldAt) :
    exec (.armingHoldTimeout c) s = .next (s.failCtx c.val 0x0406) := by
  have stuck : (s.planHarnesses c.val).any
      (fun h => (s.harness h).held && decide (4000000000 ≤ s.clk.wall - (s.harness h).heldAt)) = true :=
    List.any_eq_true.mpr ⟨h, mem, by rw [held, decide_eq_true late]; rfl⟩
  exact congrArg Host.Outcome.next (if_pos (by rw [up, arms, stuck]; rfl))

end Sys2Proof.Machine

open Sys2Proof Sys2Proof.Machine

/-- Settles O39: a READY that is heard again leaves the leader as the first one did. -/
theorem readyAndLaunch : Obligations.ReadyAndLaunch := by
  unfold Obligations.ReadyAndLaunch
  refine ⟨fun s c awake arms done => ?_, fun s c up arms ⟨h, mem, held, late⟩ => ?_, fun s group pick place up new => ?_,
    fun s group pick place seen => ?_⟩
  · have runs := exec_armingReady awake arms done
    have ctl : ((s.modCtl c.val (CtxCtl.armed s.clk.wall)).ctx c.val).ctl = (s.ctx c.val).ctl.armed s.clk.wall :=
      State.modCtl_ctl ..
    have image : (s.modCtl c.val (CtxCtl.armed s.clk.wall)).image c.val = s.image c.val :=
      State.image_of_plan (by rw [ctl]; rfl)
    have pick : (s.modCtl c.val (CtxCtl.armed s.clk.wall)).clk.pick = s.clk.pick := rfl
    have rest : s.modCtl c.val (CtxCtl.armed s.clk.wall) = { s with ctxs := (s.modCtl c.val (CtxCtl.armed s.clk.wall)).ctxs } := rfl
    generalize s.modCtl c.val (CtxCtl.armed s.clk.wall) = v at runs ctl image pick rest
    refine ⟨fun alone => yields_of runs ?_, fun group follows => yields_of runs ?_, fun group leads => yields_of runs ?_⟩
    · rw [State.sendReady_alone alone]
      refine ⟨?_, ?_⟩
      · rw [State.modCtl_ctl, ctl, pick]
        rfl
      · rw [State.modCtl, State.modCtx, rest]
    · have sent := (v.originate_out c.val 3 v.clk.pick v.clk.pick 0).2
      rw [State.sendReady_member group follows]
      rw [image, pick] at sent
      rw [pick, State.originate_ctx]
      exact ⟨ctl, sent⟩
    · obtain ⟨-, state, readies, launchPick⟩ := v.noteReady_readied c.val 0 v.clk.pick
      have sends := State.noteReady_sends (s := v) (c := c.val) (place := 0) (pick := v.clk.pick)
      rw [State.sendReady_leader group leads]
      rw [ctl] at state readies launchPick sends
      rw [image, pick] at launchPick sends
      rw [pick] at state readies
      rw [pick]
      refine ⟨state, readies, fun r hr => ready_le_launchFor _ _ hr, fun new all => ⟨?_, ?_⟩, fun few => ?_⟩
      · exact launchPick.trans (if_pos ⟨rfl, new, all⟩)
      · rw [leads] at sends
        exact sends rfl new all
      · exact launchPick.trans (if_neg fun all => absurd all.2.2 (Nat.not_le.mpr few))
  · obtain ⟨state, reason, -, -, -⟩ := s.failCtx_fails c.val 0x0406
    exact yields_of (exec_armingHoldTimeout up arms mem held late) ⟨state, reason⟩
  · refine yields_of (exec_ready up new) fun c member => ⟨fun leads => ?_, fun follows => ?_⟩
    · obtain ⟨-, state, readies, launchPick⟩ := State.readyGroup_leader member leads group.toNat place.val pick.toNat
      exact ⟨readies, state, launchPick⟩
    · exact ⟨State.readyGroup_member member follows .., fun q port => State.readyGroup_sends member follows _ _ _ port⟩
  · exact congrArg Host.Outcome.next (if_neg (by rw [seen]; simp))

end

section
/-! LAUNCH and ABORT in the members of a group, their time-outs, and the launch pick (R157, R173, R250). -/

-- one proof at a time: side by side, their stacks and heaps do not fit beside the rest of the text
set_option Elab.async false

namespace Sys2Proof.Machine

variable {s t : State} {c : Nat}

/-! ## LAUNCH -/

/-- A member that takes launch pick `l`. -/
def CtxCtl.launchesAt (l : Nat) (k : CtxCtl) : CtxCtl := { k with launchPick := some l }
/-- LAUNCH in a member that has it relayed. -/
def State.takeLaunch (s : State) (c l : Nat) : State :=
  if (s.ctx c).ctl.state ≠ 3 ∨ (s.ctx c).ctl.launchPick.isSome = true then s
  else if l < s.clk.pick + 1024 then s.abortCtx c
  else s.modCtl c (CtxCtl.launchesAt l)
def State.launchMember (g l : Nat) (s : State) (c : Nat) : State := (s.relay c 4 0 g l l 0).takeLaunch c l

theorem State.takeLaunch_else {l : Nat} (h : (s.ctx c).ctl.state ≠ 3 ∨ (s.ctx c).ctl.launchPick.isSome = true) :
    s.takeLaunch c l = s := if_pos h
section
variable {l : Nat} (armed : (s.ctx c).ctl.state = 3) (new : (s.ctx c).ctl.launchPick = none)
include armed new
theorem State.takeLaunch_late (late : l < s.clk.pick + 1024) : s.takeLaunch c l = s.abortCtx c := by
  rw [State.takeLaunch, if_neg (by simp [armed, new]), if_pos late]
theorem State.takeLaunch_takes (early : s.clk.pick + 1024 ≤ l) : s.takeLaunch c l = s.modCtl c (CtxCtl.launchesAt l) := by
  rw [State.takeLaunch, if_neg (by simp [armed, new]), if_neg (Nat.not_lt.mpr early)]
end

theorem exec_launch (up : s.up = true) {group l : BitVec 64} (new : s.seen 4 0 group.toNat l.toNat = false) :
    exec (.launch group l) s =
      .next (State.each (s.inGroup group.toNat) (State.launchMember group.toNat l.toNat) s) :=
  congrArg Host.Outcome.next (if_pos (by rw [up, new]; rfl))

theorem State.abortCtx_clk (s : State) (c : Nat) : (s.abortCtx c).clk = s.clk :=
  (State.abortCtx_keeps (B := [.mbx, .mem, .heddles, .harnesses, .kvt, .ctxs, .sched, .streams, .reqs, .relayed, .ports, .obs,
    .out]) (.refl s) (by decide) c).same .clk (by decide)
theorem State.modCtl_clk (s : State) (c : Nat) (f : CtxCtl → CtxCtl) : (s.modCtl c f).clk = s.clk := rfl

theorem State.takeLaunch_clk (s : State) (c l : Nat) : (s.takeLaunch c l).clk = s.clk := by
  unfold State.takeLaunch
  split_ifs
  · rfl
  · exact State.abortCtx_clk ..
  · exact State.modCtl_clk ..
theorem State.takeLaunch_other {d : Nat} (h : d ≠ c) (s : State) (l : Nat) : (s.takeLaunch c l).ctx d = s.ctx d := by
  unfold State.takeLaunch
  split_ifs
  · rfl
  · exact (s.abortCtx_fails c).other d h
  · exact State.modCtl_other _ h _

section
variable (s : State) (g l : Nat)
theorem State.launchMember_clk (c : Nat) : (s.launchMember g l c).clk = s.clk := by
  rw [State.launchMember, State.takeLaunch_clk, State.relay_clk]
theorem State.launchMember_other {c d : Nat} (h : d ≠ c) : (s.launchMember g l c).ctx d = s.ctx d := by
  rw [State.launchMember, State.takeLaunch_other h, State.relay_ctx]
end

/-- What LAUNCH(`l`) leaves of a member whose control is `k`, at pick `now`. -/
structure CtxCtl.Launches (now l : Nat) (k k' : CtxCtl) : Prop where
  else_ : k.state ≠ 3 ∨ k.launchPick.isSome = true → k' = k
  takes : k.state = 3 → k.launchPick = none → now + 1024 ≤ l → k' = k.launchesAt l
  late : k.state = 3 → k.launchPick = none → l < now + 1024 → k'.state = 0 ∧ k'.reason = 0x0707

theorem State.takeLaunch_launches (s : State) (c l : Nat) :
    (s.ctx c).ctl.Launches s.clk.pick l ((s.takeLaunch c l).ctx c).ctl := by
  refine ⟨fun out => ?_, fun armed new early => ?_, fun armed new late => ?_⟩
  · rw [State.takeLaunch_else out]
  · rw [State.takeLaunch_takes armed new early, State.modCtl_ctl]
  · rw [State.takeLaunch_late armed new late]
    exact ⟨(s.abortCtx_fails c).state, (s.abortCtx_fails c).reason⟩
/-- A member heeds one LAUNCH: after it the member has its launch pick or is not Armed. -/
theorem CtxCtl.Launches.again {now l : Nat} {k k' k'' : CtxCtl} (h : k.Launches now l k') (h' : k'.Launches now l k'') :
    k.Launches now l k'' := by
  have still : k'' = k' := by
    refine h'.else_ ?_
    by_cases out : k.state ≠ 3 ∨ k.launchPick.isSome = true
    · rwa [h.else_ out]
    · obtain ⟨armed, new⟩ : k.state = 3 ∧ k.launchPick = none := by simpa [not_or] using out
      rcases Nat.lt_or_ge l (now + 1024) with late | early
      · exact .inl (by rw [(h.late armed new late).1]; decide)
      · exact .inr (by rw [h.takes armed new early]; rfl)
  exact still ▸ h

theorem State.launchGroup_ctl {m : List Nat} (h : c ∈ m) (g l : Nat) :
    (s.ctx c).ctl.Launches s.clk.pick l ((State.each m (State.launchMember g l) s).ctx c).ctl := by
  refine State.each_visited (f := State.launchMember g l) (R := fun x => (s.ctx c).ctl.Launches s.clk.pick l x.ctl)
    (fun t d => t.launchMember_clk g l d) (fun t d e ne => t.launchMember_other g l ne) (fun t at_ seen => ?_) h
  have step := (t.relay c 4 0 g l l 0).takeLaunch_launches c l
  rw [State.launchMember]
  generalize (t.relay c 4 0 g l l 0).takeLaunch c l = v at step
  rw [State.relay_ctx, State.relay_clk, at_] at step
  rcases seen with same | launched
  · rwa [same] at step
  · exact launched.again step

/-! ## ABORT -/

/-- A context whose switch has ended, `x` being what it was. -/
def Ctx.switchEnded (reason : Nat) (x y : Ctx) : Ctx :=
  { y with
    sw := { reason := reason, programs := y.sw.programs }
    ctl := if x.sw.state == 4 then { y.ctl with candidates := x.sw.cands } else y.ctl }
theorem Ctx.switchEnded_sw (reason : Nat) (x y : Ctx) :
    (y.switchEnded reason x).sw = { reason := reason, programs := x.sw.programs } := rfl
theorem Ctx.switchEnded_state (reason : Nat) (x y : Ctx) : (x.switchEnded reason y).ctl.state = y.ctl.state := by
  show (if x.sw.state == 4 then { y.ctl with candidates := x.sw.cands } else y.ctl).state = _
  split_ifs <;> rfl

theorem State.endSwitch_drained (reason : Nat) (h : (s.ctx c).sw.state = 4) :
    s.endSwitch c reason = (s.modCtx c ((s.ctx c).switchEnded reason)).buildCopies c
      ((s.modCtx c ((s.ctx c).switchEnded reason)).image c) ((s.modCtx c ((s.ctx c).switchEnded reason)).ctx c).cur :=
  if_pos (beq_iff_eq.mpr h)
theorem State.endSwitch_undrained (reason : Nat) (h : (s.ctx c).sw.state ≠ 4) :
    s.endSwitch c reason = s.modCtx c ((s.ctx c).switchEnded reason) := if_neg (by simpa using h)

/-- From `s` to `t` the switch of context `c` has ended, and every other context stays. -/
structure State.SwitchEnds (c reason : Nat) (s t : State) : Prop where
  sw : (t.ctx c).sw = { reason := reason, programs := (s.ctx c).sw.programs }
  state : (t.ctx c).ctl.state = (s.ctx c).ctl.state
  other : ∀ d, d ≠ c → t.ctx d = s.ctx d

theorem State.endSwitch_ends (s : State) (c reason : Nat) : s.SwitchEnds c reason (s.endSwitch c reason) := by
  have own := s.modCtx_ctx c ((s.ctx c).switchEnded reason)
  have other : ∀ d, d ≠ c → (s.modCtx c ((s.ctx c).switchEnded reason)).ctx d = s.ctx d :=
    fun d hd => s.modCtx_ctx_other hd _
  by_cases drained : (s.ctx c).sw.state = 4
  · rw [State.endSwitch_drained reason drained]
    generalize s.modCtx c ((s.ctx c).switchEnded reason) = v at own other
    obtain ⟨copied, rest⟩ := v.buildCopies_uncopied c (v.image c) (v.ctx c).cur
    have sw := congrArg Ctx.sw copied
    have state := congrArg (fun x : Ctx => x.ctl.state) copied
    simp only [Ctx.uncopied] at sw state
    refine ⟨?_, ?_, fun d hd => (rest d hd).trans (other d hd)⟩
    · rw [sw, own]
      rfl
    · rw [state, own, Ctx.switchEnded_state]
  · rw [State.endSwitch_undrained reason drained]
    refine ⟨?_, ?_, other⟩
    · rw [own]
      rfl
    · rw [own, Ctx.switchEnded_state]

/-- ABORT in a member. -/
def State.abortMember (s : State) (c : Nat) : State :=
  if 1 ≤ (s.ctx c).ctl.state ∧ (s.ctx c).ctl.state ≤ 3 then s.abortCtx c
  else if ((s.ctx c).ctl.state = 4 ∨ (s.ctx c).ctl.state = 5) ∧ 3 ≤ (s.ctx c).sw.state then
    (s.originate c 5 s.clk.pick 0 0).endSwitch c 0x0707
  else s
theorem exec_abort (up : s.up = true) (group : BitVec 64) :
    exec (.abort group) s = .next (State.each (s.inGroup group.toNat) State.abortMember s) :=
  congrArg Host.Outcome.next (if_pos up)

theorem State.abortMember_clk (s : State) (c : Nat) : (s.abortMember c).clk = s.clk := by
  unfold State.abortMember
  split_ifs
  · exact State.abortCtx_clk ..
  · exact ((State.endSwitch_keeps (B := [.mem, .sealed, .ctxs, .history, .memChecks, .obs, .agg]) (.refl _) (by decide) c
      0x0707).same .clk (by decide)).trans (s.originate_clk ..)
  · rfl
theorem State.abortMember_other {d : Nat} (h : d ≠ c) (s : State) : (s.abortMember c).ctx d = s.ctx d := by
  unfold State.abortMember
  split_ifs
  · exact (s.abortCtx_fails c).other d h
  · exact ((State.endSwitch_ends _ c 0x0707).other d h).trans (s.originate_ctx ..)
  · rfl

/-- What ABORT leaves of a member. -/
structure Ctx.Aborts (x y : Ctx) : Prop where
  early : 1 ≤ x.ctl.state → x.ctl.state ≤ 3 → y.ctl.state = 0 ∧ y.ctl.reason = 0x0707
  switch : x.ctl.state = 4 ∨ x.ctl.state = 5 → 3 ≤ x.sw.state →
    y.ctl.state = x.ctl.state ∧ y.sw = { reason := 0x0707, programs := x.sw.programs }
  else_ : x.ctl.state = 0 ∨ (4 ≤ x.ctl.state ∧ x.sw.state < 3) → y.ctl = x.ctl ∧ y.sw = x.sw

theorem State.abortMember_aborts (s : State) (c : Nat) : (s.ctx c).Aborts ((s.abortMember c).ctx c) := by
  unfold State.abortMember
  split_ifs with early switch
  · have fails := s.abortCtx_fails c
    exact ⟨fun _ _ => ⟨fails.state, fails.reason⟩, fun h => by omega, fun h => by omega⟩
  · obtain ⟨sw, state, -⟩ := (s.originate c 5 s.clk.pick 0 0).endSwitch_ends c 0x0707
    rw [State.originate_ctx] at sw state
    exact ⟨fun h => by omega, fun _ _ => ⟨state, sw⟩, fun h => by omega⟩
  · exact ⟨fun h h' => absurd ⟨h, h'⟩ early, fun h h' => absurd ⟨h, h'⟩ switch, fun _ => ⟨rfl, rfl⟩⟩
/-- A second ABORT finds the member Disabled, or without a pending switch. -/
theorem Ctx.Aborts.again {x y z : Ctx} (h : x.Aborts y) (h' : y.Aborts z) : x.Aborts z := by
  refine ⟨fun low high => ?_, fun runs pending => ?_, fun out => ?_⟩
  · obtain ⟨state, reason⟩ := h.early low high
    obtain ⟨ctl, -⟩ := h'.else_ (.inl state)
    rw [ctl]
    exact ⟨state, reason⟩
  · obtain ⟨state, sw⟩ := h.switch runs pending
    obtain ⟨ctl, sw'⟩ := h'.else_ (.inr ⟨by omega, by rw [sw]; exact Nat.zero_lt_succ 2⟩)
    exact ⟨by rw [ctl, state], sw'.trans sw⟩
  · obtain ⟨ctl, sw⟩ := h.else_ out
    obtain ⟨ctl', sw'⟩ := h'.else_ (by rw [ctl, sw]; exact out)
    exact ⟨ctl'.trans ctl, sw'.trans sw⟩
theorem State.abortGroup_aborts {m : List Nat} (h : c ∈ m) : (s.ctx c).Aborts ((State.each m State.abortMember s).ctx c) := by
  refine State.each_visited (f := State.abortMember) (R := fun x => (s.ctx c).Aborts x) State.abortMember_clk
    (fun t d e ne => t.abortMember_other ne) (fun t _ seen => ?_) h
  have step := t.abortMember_aborts c
  rcases seen with same | aborted
  · rwa [same] at step
  · exact aborted.again step

/-! ## Time-outs -/

theorem exec_armedTimeout {c : Fin 256} (up : s.up = true) (armed : (s.ctx c.val).ctl.state = 3)
    (new : (s.ctx c.val).ctl.launchPick = none) (late : 8000000000 ≤ s.clk.wall - (s.ctx c.val).ctl.readyWall) :
    exec (.armedTimeout c) s = .next (s.abortCtx c.val) :=
  congrArg Host.Outcome.next (if_pos (by simp [up, armed, new, late]))

/-- What the leader does that has waited 1 s for the others. -/
def State.readyOverdue (s : State) (c : Nat) : State :=
  if 1 ≤ (s.ctx c).ctl.state ∧ (s.ctx c).ctl.state ≤ 3 then s.abortCtx c
  else (s.originate c 5 s.clk.pick 0 0).modCtl c fun k => { k with readies := [], firstReadyWall := none }
theorem exec_launchReadyTimeout {c : Fin 256} {w : Nat} (up : s.up = true) (first : (s.ctx c.val).ctl.firstReadyWall = some w)
    (new : (s.ctx c.val).ctl.launchPick = none) (late : 4000000000 ≤ s.clk.wall - w) :
    exec (.launchReadyTimeout c) s = .next (s.readyOverdue c.val) := by
  have due : (s.up && (s.ctx c.val).ctl.launchPick.isNone && decide (4000000000 ≤ s.clk.wall - w)) = true := by
    simp [up, new, late]
  refine congrArg Host.Outcome.next ?_
  simp only [first]
  exact if_pos due

/-! ## The launch pick (R157) -/

/-- A step of a context that falls due is due in the iteration and at the pick given. -/
def Due.Falls (c l i n p : Nat) (d : Due) : Prop := d.ctx = c ∧ d.list = l ∧ d.idx = i ∧ d.iter = n ∧ d.start = p

/-- The step is put among those that are due. -/
def State.putDue (d : Due) (s : State) : State := { s with sched := { s.sched with due := s.sched.due ++ [d] } }
theorem State.putDue_due (d : Due) (s : State) : (s.putDue d).sched.due = s.sched.due ++ [d] := rfl
theorem State.putDue_unslotted (d : Due) (h : s.CtxStays Ctx.unslotted c t) : s.CtxStays Ctx.unslotted c (t.putDue d) :=
  ⟨h.own, h.other⟩
theorem State.tagDraw_due (s : State) (c l kind : Nat) : (s.tagDraw c l kind).2.sched.due = s.sched.due := by
  rw [State.tagDraw_frame]
/-- A void step that falls due. -/
def State.voidDue (s : State) (c l i n p : Nat) : Due :=
  ⟨c, l, i, n, p, true, s.stepEndPick c (s.stepAt c l i) n, none, none, none, 0⟩
/-- A step that falls due and waits for its inputs, `x` being when they are there. -/
def State.liveDue (s : State) (c l i n p : Nat) (x : Option Nat × Option Nat × Option Nat) : Due :=
  ⟨c, l, i, n, p, false, s.stepEndPick c (s.stepAt c l i) n, x.1, x.2.1, x.2.2, 0⟩

theorem State.fallDue_unfilled {l i n p : Nat} (h : s.unfilled c (s.stepAt c l i) p = true) :
    s.fallDue c l i n p = s.putDue (s.voidDue c l i n p) := if_pos h
theorem State.fallDue_suppressed {l i n p : Nat} (filled : s.unfilled c (s.stepAt c l i) p = false)
    (h : s.suppresses c l (s.stepAt c l i) = true) : s.fallDue c l i n p =
      State.putDue (s.voidDue c l i n p) ((s.tagDraw c l (s.stepAt c l i).kind).2.check c (s.stepAt c l i).slot
        fun k => { k with suppressed := true }) := by
  unfold State.fallDue
  rw [if_neg (by rw [filled]; decide), if_pos h]
  rfl
theorem State.fallDue_live {l i n p : Nat} (filled : s.unfilled c (s.stepAt c l i) p = false)
    (h : s.suppresses c l (s.stepAt c l i) = false) : s.fallDue c l i n p =
      if (s.inputs c l (s.stepAt c l i) n p).1.isSome then
        (s.putDue (s.liveDue c l i n p (s.inputs c l (s.stepAt c l i) n p))).traceWait l i (s.stepAt c l i) n
      else s.putDue (s.liveDue c l i n p (s.inputs c l (s.stepAt c l i) n p)) := by
  unfold State.fallDue
  rw [if_neg (by rw [filled]; decide), if_neg (by rw [h]; decide)]
  rfl

theorem State.fallDue_falls (s : State) (c l i n p : Nat) :
    s.CtxStays Ctx.unslotted c (s.fallDue c l i n p) ∧
      ∃ d, Due.Falls c l i n p d ∧ (s.fallDue c l i n p).sched.due = s.sched.due ++ [d] := by
  cases filled : s.unfilled c (s.stepAt c l i) p with
  | true =>
    rw [State.fallDue_unfilled filled]
    exact ⟨State.putDue_unslotted _ (.refl s), s.voidDue c l i n p, ⟨rfl, rfl, rfl, rfl, rfl⟩, rfl⟩
  | false =>
    cases sup : s.suppresses c l (s.stepAt c l i) with
    | true =>
      have drawn := ((State.tagDraw_keeps (B := [.sched]) (.refl s) (by decide) c l (s.stepAt c l i).kind).ctxStays
        (by decide) (.refl (π := Ctx.unslotted) (c := c) s))
      have due := s.tagDraw_due c l (s.stepAt c l i).kind
      rw [State.fallDue_suppressed filled sup]
      generalize (s.tagDraw c l (s.stepAt c l i).kind).2 = v at drawn due
      have marked := (State.check_keeps (B := [.ctxs]) (.refl v) (by decide) c (s.stepAt c l i).slot fun k =>
        { k with suppressed := true }).same .sched (by decide)
      refine ⟨State.putDue_unslotted _ (drawn.trans (State.check_unslotted ..)), s.voidDue c l i n p, ⟨rfl, rfl, rfl, rfl, rfl⟩, ?_⟩
      rw [State.putDue_due, marked, due]
    | false =>
      rw [State.fallDue_live filled sup]
      have put := State.putDue_unslotted (s.liveDue c l i n p (s.inputs c l (s.stepAt c l i) n p))
        (.refl (π := Ctx.unslotted) (c := c) s)
      have due := s.putDue_due (s.liveDue c l i n p (s.inputs c l (s.stepAt c l i) n p))
      have falls : Due.Falls c l i n p (s.liveDue c l i n p (s.inputs c l (s.stepAt c l i) n p)) := ⟨rfl, rfl, rfl, rfl, rfl⟩
      generalize s.putDue (s.liveDue c l i n p (s.inputs c l (s.stepAt c l i) n p)) = v at put due
      split_ifs
      · have traced := State.traceWait_keeps (B := [.mem, .obs]) (.refl v) (by decide) l i (s.stepAt c l i) n
        exact ⟨traced.ctxStays (by decide) put, _, falls, (congrArg (·.due) (traced.same .sched (by decide))).trans due⟩
      · exact ⟨put, _, falls, due⟩

/-- Of steps that fall due each is then due, those due before among them. -/
theorem State.each_fallDue (l : List (Nat × Nat × PlanStep)) (s : State) (c n p : Nat) :
    s.CtxStays Ctx.unslotted c (State.each l (fun s x => s.fallDue c x.1 x.2.1 n p) s) ∧
      s.sched.due ⊆ (State.each l (fun s x => s.fallDue c x.1 x.2.1 n p) s).sched.due ∧
      ∀ x ∈ l, ∃ d ∈ (State.each l (fun s x => s.fallDue c x.1 x.2.1 n p) s).sched.due, Due.Falls c x.1 x.2.1 n p d := by
  induction l generalizing s with
  | nil => exact ⟨.refl s, fun _ h => h, fun x hx => nomatch hx⟩
  | cons x l ih =>
    obtain ⟨stays, d, falls, due⟩ := s.fallDue_falls c x.1 x.2.1 n p
    obtain ⟨stay, old, new⟩ := ih (s.fallDue c x.1 x.2.1 n p)
    rw [due] at old
    refine ⟨stays.trans stay, fun e he => old (List.mem_append_left _ he), fun y hy => ?_⟩
    rcases List.mem_cons.mp hy with rfl | hy
    · exact ⟨d, old (List.mem_append_right _ List.mem_cons_self), falls⟩
    · exact new y hy

/-- The steps of iteration 0 that start with it. -/
def firstSteps (img : Bytes) : List (Nat × Nat × PlanStep) :=
  (planSteps img).filter fun x => x.2.2.start == 0 && decide (0 % max x.2.2.every 1 = x.2.2.phase)
theorem State.dueAt_unslotted (s : State) (c p : Nat) : s.CtxStays Ctx.unslotted c (s.dueAt c p) := by
  unfold State.dueAt
  dsimp only
  split
  · exact .refl s
  · split
    · exact .refl s
    · exact (s.each_fallDue _ c _ p).1
theorem State.dueAt_launch (launched : (s.ctx c).ctl.launchPick = some s.clk.pick) (whole : (s.ctx c).ctl.cut = false)
    (goes : (s.ctx c).ctl.stopEnd = none) (period : planPeriod (s.image c) ≠ 0) :
    s.dueAt c s.clk.pick =
      State.each (firstSteps (s.image c)) (fun t x => t.fallDue c x.1 x.2.1 0 s.clk.pick) s := by
  unfold State.dueAt
  simp [launched, whole, goes, period, firstSteps]
  rfl

/-- A context that enters Running. -/
def Ctx.enters (x : Ctx) : Ctx :=
  { x with recs := x.recs.entered, slots := [], ctl := { x.ctl with state := 4, readies := [], firstReadyWall := none } }
theorem State.enterRunning_eq (s : State) (c : Nat) :
    s.enterRunning c = ((s.modCtx c Ctx.enters).endSampling c).dueAt c ((s.modCtx c Ctx.enters).endSampling c).clk.pick := rfl
theorem exec_launchPick {c : Fin 256} (awake : s.awake = true) (armed : (s.ctx c.val).ctl.state = 3)
    (launched : (s.ctx c.val).ctl.launchPick = some s.clk.pick) : exec (.launchPick c) s = .next (s.enterRunning c.val) :=
  congrArg Host.Outcome.next (if_pos (by simp [awake, armed, launched]))

end Sys2Proof.Machine

open Sys2Proof Sys2Proof.Machine

/-- Settles O40: a member that a message has reached stays as it is when the same message finds it again. -/
theorem launchAndAbort : Obligations.LaunchAndAbort := by
  unfold Obligations.LaunchAndAbort
  refine ⟨fun s group l up new => yields_of (exec_launch up new) fun c member => ?_,
    fun s group up => yields_of (exec_abort up group) fun c member => ?_,
    fun s c w up first new late => yields_of (exec_launchReadyTimeout up first new late) ?_,
    fun s c up armed new late => yields_of (exec_armedTimeout up armed new late) ?_,
    fun s c awake armed launched => yields_of (exec_launchPick awake armed launched) ?_⟩
  · obtain ⟨else_, takes, late⟩ := State.launchGroup_ctl member group.toNat l.toNat
    exact ⟨else_, takes, late⟩
  · obtain ⟨early, switch, else_⟩ := State.abortGroup_aborts member
    exact ⟨early, fun runs pending => (switch runs pending).2, else_⟩
  · refine ⟨fun low high => ?_, fun out => ?_⟩
    · rw [State.readyOverdue, if_pos ⟨low, high⟩]
      exact ⟨(s.abortCtx_fails c.val).state, (s.abortCtx_fails c.val).reason⟩
    · have sent := (s.originate_out c.val 5 s.clk.pick 0 0).2
      rw [State.readyOverdue, if_neg (by omega), State.modCtl_ctl, State.modCtl_out, State.originate_ctx]
      exact ⟨rfl, sent⟩
  · exact ⟨(s.abortCtx_fails c.val).state, (s.abortCtx_fails c.val).reason⟩
  · have own := s.modCtx_ctx c.val Ctx.enters
    have pick : (s.modCtx c.val Ctx.enters).clk = s.clk := rfl
    have sampled := State.endSampling_keeps (B := [.obs]) (.refl (s.modCtx c.val Ctx.enters)) (by decide) c.val
    have ctx := (sampled.ctx_eq (by decide) c.val).trans own
    have clk := (sampled.same .clk (by decide)).trans pick
    rw [State.enterRunning_eq]
    generalize (s.modCtx c.val Ctx.enters).endSampling c.val = v at ctx clk
    have stays := (v.dueAt_unslotted c.val v.clk.pick).own
    rw [ctx] at stays
    refine ⟨congrArg Ctx.ctl stays, congrArg Ctx.recs stays, fun whole goes period x hx start phase => ?_⟩
    have image : v.image c.val = s.image c.val := State.image_of_plan (by rw [ctx]; rfl)
    rw [State.dueAt_launch (by rw [ctx, clk]; exact launched) (by rw [ctx]; exact whole) (by rw [ctx]; exact goes)
      (by rw [image]; exact period), clk, image]
    have hit : x ∈ firstSteps (s.image c.val) := List.mem_filter.mpr ⟨hx, by simp [start, phase]⟩
    obtain ⟨-, -, all⟩ := v.each_fallDue (firstSteps (s.image c.val)) c.val 0 s.clk.pick
    obtain ⟨d, due, ctx_, list, idx, iter, start_⟩ := all x hit
    exact ⟨d, due, ctx_, list, idx, iter, start_⟩

end

section
/-! The check of a plan (R170, R171, R271) and the plan commands (R167, R175, R429). -/

-- one proof at a time: side by side, their stacks and heaps do not fit beside the rest of the text
set_option Elab.async false

namespace Sys2Proof.Machine

variable {s t : State} {c : Nat}

/-! ## The check -/

theorem Tab.mem_of_mem_keys {α : Type} (d : α) {k : Nat} {l : Tab α} (h : k ∈ l.map (·.1)) : (k, Tab.getD d l k) ∈ l := by
  induction l with
  | nil => cases h
  | cons x l ih =>
    by_cases same : x.1 = k
    · have found : Tab.getD d (x :: l) k = x.2 := if_pos same
      rw [found, ← same]
      exact List.mem_cons_self
    · have later : Tab.getD d (x :: l) k = Tab.getD d l k := if_neg same
      rw [later]
      exact List.mem_cons_of_mem _ (ih ((List.mem_cons.mp h).resolve_left (Ne.symm same)))
theorem State.ctx_mem_ctxs (h : c ∈ s.ctxNums) : (c, s.ctx c) ∈ s.ctxs := Tab.mem_of_mem_keys _ h

/-- The check of context `c` was started before every other that has not ended. -/
def State.firstCheck (s : State) (c : Nat) : Bool :=
  s.ctxs.all fun d => d.2.ctl.state != 1 || decide ((s.ctx c).ctl.checkFrom ≤ d.2.ctl.checkFrom)
theorem State.firstCheck_iff : s.firstCheck c = true ↔
    ∀ d ∈ s.ctxs, d.2.ctl.state = 1 → (s.ctx c).ctl.checkFrom ≤ d.2.ctl.checkFrom := by
  simp only [State.firstCheck, List.all_eq_true, Bool.or_eq_true, bne_iff_ne, decide_eq_true_eq, ne_eq, ← imp_iff_not_or]

/-- The step at which a check has failed. -/
def CtxCtl.failedAt (step : Option (Nat × Nat)) (k : CtxCtl) : CtxCtl :=
  { k with reasonList := (step.map (·.1)).getD 0, reasonStep := step.map (·.2) }
/-- A context that has passed its check: its requested settings are in effect. -/
def CtxCtl.passed (map : List (Nat × Nat × Nat × Nat)) (cands : List (Nat × List Nat)) (k : CtxCtl) : CtxCtl :=
  { k with
    unitMap := map, candidates := cands, twillEff := k.twillReq, maskEff := k.maskReq, strictEff := k.strictReq
    strictMaskEff := k.strictMaskReq }

section
variable {c : Fin 256} {grp : GroupView} (ready : s.ready = true) (checks : (s.ctx c.val).ctl.state = 1)
  (first : s.firstCheck c.val = true)
include ready checks first
theorem exec_checkComplete_fails {code : Nat} {step : Option (Nat × Nat)}
    (fails : s.planCheck c.val (s.ctx c.val).ctl.plan (s.ctx c.val).cur (s.ctx c.val).ctl.twillReq grp = some (code, step)) :
    exec (.checkComplete c grp) s = .next ((s.failCtx c.val code).modCtl c.val (CtxCtl.failedAt step)) := by
  refine congrArg Host.Outcome.next ((if_pos (by rw [ready, checks]; exact first)).trans ?_)
  simp only [fails]
  rfl
theorem exec_checkComplete_passes
    (passes : s.planCheck c.val (s.ctx c.val).ctl.plan (s.ctx c.val).cur (s.ctx c.val).ctl.twillReq grp = none) :
    exec (.checkComplete c grp) s = .next ((s.modCtl c.val (CtxCtl.passed (s.checkedMap c.val (s.image c.val) (s.ctx c.val).cur)
      (s.readCands (s.ctx c.val).cur.recipe))).arm c.val) := by
  refine congrArg Host.Outcome.next ((if_pos (by rw [ready, checks]; exact first)).trans ?_)
  simp only [passes]
  rfl
end

/-- A context in Arming. -/
def CtxCtl.arming (k : CtxCtl) : CtxCtl := { k with state := 2 }
/-- What Arming begins with: its harnesses, its copies, its knots. -/
def State.prepare (s : State) (c : Nat) : State :=
  let t := State.each (s.planHarnesses c) (fun s h => if (s.harness h).state = 1 then s.fullTrim h else s.reqActive h) s
  (t.buildCopies c (t.image c) (t.ctx c).cur).zeroKnots c
theorem State.arm_eq (s : State) (c : Nat) : s.arm c = (s.prepare c).modCtl c CtxCtl.arming := rfl
theorem State.prepare_uncopied (s : State) (c : Nat) : s.CtxStays Ctx.uncopied c (s.prepare c) := by
  have wakes : Keeps [.harnesses, .agg] s
      (State.each (s.planHarnesses c) (fun s h => if (s.harness h).state = 1 then s.fullTrim h else s.reqActive h) s) := by
    refine State.each_keeps (.refl s) fun t h keeps => ?_
    split_ifs
    · exact State.fullTrim_keeps keeps (by decide) h
    · exact State.reqActive_keeps keeps (by decide) h
  have awake := wakes.ctxStays (by decide) (.refl (π := Ctx.uncopied) (c := c) s)
  rw [State.prepare]
  generalize State.each (s.planHarnesses c) _ s = v at awake
  have copied := awake.trans (v.buildCopies_uncopied c (v.image c) (v.ctx c).cur)
  generalize v.buildCopies c (v.image c) (v.ctx c).cur = w at copied
  exact (State.zeroKnots_keeps (B := [.mem, .obs]) (.refl w) (by decide) c).ctxStays (by decide) copied

/-- What Arming leaves of the control of its context, the places of its row copies apart. -/
theorem State.arm_ctl {α : Type} (s : State) (c : Nat) (π : CtxCtl → α) (hπ : ∀ k : CtxCtl, π { k with rowCopies := [] } = π k) :
    π ((s.arm c).ctx c).ctl = π (s.ctx c).ctl.arming := by
  have own := congrArg (fun x : Ctx => π x.ctl.arming) (s.prepare_uncopied c).own
  rw [State.arm_eq, State.modCtl_ctl, ← hπ, ← hπ (s.ctx c).ctl.arming]
  exact own

/-! ## The plan commands -/

/-- From `s` to `t` a command has completed mailbox `m`, and of the rest nothing but the contexts may have changed. -/
structure State.CtxCommand (m status : Nat) (res : List Nat) (s t : State) : Prop where
  rest : t = { s with ctxs := t.ctxs, mbx := t.mbx, out := t.out }
  done : s.completes t m status res

theorem State.complete_command (s : State) (m status : Nat) (res : List Nat) :
    s.CtxCommand m status res (s.complete m status res) := ⟨s.complete_eq m status res, s.complete_completes m status res⟩
theorem State.modCtl_command (s : State) (c : Nat) (f : CtxCtl → CtxCtl) (m status : Nat) (res : List Nat) :
    s.CtxCommand m status res ((s.modCtl c f).complete m status res) := by
  have mbx : (s.modCtl c f).mbx = s.mbx := rfl
  have rest : s.modCtl c f = { s with ctxs := (s.modCtl c f).ctxs } := rfl
  have clk := s.modCtl_clk c f
  generalize s.modCtl c f = v at mbx rest clk
  refine ⟨?_, State.completes_after mbx clk m status res⟩
  rw [State.complete_eq, rest]
theorem State.complete_ctx (s : State) (m status : Nat) (res : List Nat) (d : Nat) :
    (s.complete m status res).ctx d = s.ctx d := rfl

/-- A command that is refused completes its mailbox with `status` and changes no context. -/
theorem State.refused_command (s : State) (m status : Nat) :
    s.completes (s.complete m status []) m status [] ∧ (s.complete m status []).ctxs = s.ctxs :=
  ⟨s.complete_completes m status [], rfl⟩

/-- PLAN_LOAD may copy an image (Table 6.15). -/
def State.MayLoad (s : State) (m : Nat) (b : Mailbox) : Prop :=
  b.arg 0 ≤ 255 ∧ (s.ctx (b.arg 0)).ctl.opened = true ∧ (s.ctx (b.arg 0)).ctl.state = 0 ∧ b.arg 3 ≠ 0 ∧
    pastXfer m b (b.arg2 1) (b.arg 3) = false
/-- The 4 KiB blocks of the plan pool that are taken once an image has been copied. -/
def State.poolNeed (s : State) (b : Mailbox) : Nat :=
  s.poolUsed - ceilDiv (((s.ctx (b.arg 0)).ctl.plan.map List.length).getD 0) 4096 + ceilDiv (b.arg 3) 4096
/-- PLAN_LOAD of the image that mailbox `m` names. -/
def State.loadPlan (s : State) (m : Nat) (image : Bytes) (b : Mailbox) : State :=
  if 255 < b.arg 0 || !(s.ctx (b.arg 0)).ctl.opened || (s.ctx (b.arg 0)).ctl.state != 0 || b.arg 3 == 0 ||
      pastXfer m b (b.arg2 1) (b.arg 3) then s.complete m 0x11 []
  else if poolBlocks < s.poolNeed b then s.complete m 0x39 []
  else (s.modCtl (b.arg 0) fun k => { k with plan := some (s.hostData m b (b.arg2 1) (b.arg 3) image) }).complete m 0 []
theorem exec_planLoad {m : Fin 16} (h : s.awaits m.val 0x2000) (image : Bytes) :
    exec (.planLoad m image) s = .next (s.loadPlan m.val image (s.mailbox m.val)) :=
  congrArg Host.Outcome.next (State.command_done h fun b s => s.loadPlan m.val image b)

section
variable {m : Nat} {image : Bytes} {b : Mailbox}
theorem State.mayLoad_iff : ¬(255 < b.arg 0 || !(s.ctx (b.arg 0)).ctl.opened || (s.ctx (b.arg 0)).ctl.state != 0 ||
    b.arg 3 == 0 || pastXfer m b (b.arg2 1) (b.arg 3)) = true ↔ s.MayLoad m b := by
  simp [State.MayLoad, and_assoc]
theorem State.loadPlan_refused (h : ¬s.MayLoad m b) : s.loadPlan m image b = s.complete m 0x11 [] :=
  if_pos (not_not.mp fun bad => h (State.mayLoad_iff.mp bad))
theorem State.loadPlan_full (h : s.MayLoad m b) (full : 1015808 < s.poolNeed b) :
    s.loadPlan m image b = s.complete m 0x39 [] := (if_neg (State.mayLoad_iff.mpr h)).trans (if_pos full)
theorem State.loadPlan_loads (h : s.MayLoad m b) (fits : s.poolNeed b ≤ 1015808) : s.loadPlan m image b =
    (s.modCtl (b.arg 0) fun k => { k with plan := some (s.hostData m b (b.arg2 1) (b.arg 3) image) }).complete m 0 [] :=
  (if_neg (State.mayLoad_iff.mpr h)).trans (if_neg (Nat.not_lt.mpr fits))
end

/-- PLAN_UNLOAD may remove the image of context `c`. -/
def State.MayUnload (s : State) (c : Nat) : Prop :=
  c ≤ 255 ∧ (s.ctx c).ctl.opened = true ∧ (s.ctx c).ctl.state = 0 ∧ (s.ctx c).ctl.plan ≠ none
/-- PLAN_UNLOAD of context `c`. -/
def State.unloadPlan (s : State) (m c : Nat) : State :=
  if 255 < c || !(s.ctx c).ctl.opened || (s.ctx c).ctl.state != 0 || (s.ctx c).ctl.plan.isNone then s.complete m 0x11 []
  else (s.modCtl c fun k => { k with plan := none }).complete m 0 []
theorem exec_planUnload {m : Fin 16} (h : s.awaits m.val 0x2001) :
    exec (.planUnload m) s = .next (s.unloadPlan m.val ((s.mailbox m.val).arg 0)) :=
  congrArg Host.Outcome.next (State.command_done h fun b s => s.unloadPlan m.val (b.arg 0))
theorem State.mayUnload_iff : ¬(255 < c || !(s.ctx c).ctl.opened || (s.ctx c).ctl.state != 0 ||
    (s.ctx c).ctl.plan.isNone) = true ↔ s.MayUnload c := by
  simp [State.MayUnload, and_assoc]
theorem State.unloadPlan_refused (h : ¬s.MayUnload c) (m : Nat) : s.unloadPlan m c = s.complete m 0x11 [] :=
  if_pos (not_not.mp fun bad => h (State.mayUnload_iff.mp bad))
theorem State.unloadPlan_unloads (h : s.MayUnload c) (m : Nat) :
    s.unloadPlan m c = (s.modCtl c fun k => { k with plan := none }).complete m 0 [] :=
  if_neg (State.mayUnload_iff.mpr h)

/-- PLAN_STATUS of context `c`. -/
def State.statusOf (s : State) (m c : Nat) : State :=
  if 255 < c then s.complete m 0x11 []
  else s.complete m 0 [(s.ctx c).statWord.toNat, (s.ctx c).reasonWord.toNat, (s.ctx c).rstepWord.toNat,
    lowWord (s.ctx c).launchShown, highWord (s.ctx c).launchShown, lowWord (s.iteration c), highWord (s.iteration c)]
theorem exec_planStatus {m : Fin 16} (h : s.awaits m.val 0x2002) :
    exec (.planStatus m) s = .next (s.statusOf m.val ((s.mailbox m.val).arg 0)) :=
  congrArg Host.Outcome.next (State.command_done h fun b s => s.statusOf m.val (b.arg 0))

/-- PLAN_MAP may show units (R167) of kind `kind` of loom `l` for context `c`. -/
def State.MayMap (s : State) (c l kind : Nat) : Prop :=
  c ≤ 255 ∧ (s.ctx c).ctl.opened = true ∧ (s.ctx c).ctl.device = true ∧ l ≤ 3 ∧ 1 ≤ kind ∧ kind ≤ 4
/-- The eight words of two physical indices each, from logical unit `f`. -/
def State.mapWords (s : State) (c l kind f : Nat) : List Nat :=
  (List.range 8).map fun i => s.mapEntry c l kind (f + 2 * i) + 65536 * s.mapEntry c l kind (f + 2 * i + 1)
/-- PLAN_MAP. -/
def State.mapOf (s : State) (m c l kind f : Nat) : State :=
  if 255 < c || !(s.ctx c).ctl.opened || !(s.ctx c).ctl.device || 3 < l || kind == 0 || 4 < kind then s.complete m 0x11 []
  else s.complete m 0 (s.mapWords c l kind f)
theorem exec_planMap {m : Fin 16} (h : s.awaits m.val 0x2003) :
    exec (.planMap m) s = .next (s.mapOf m.val ((s.mailbox m.val).arg 0) ((s.mailbox m.val).arg 1)
      ((s.mailbox m.val).arg 2 % 256) ((s.mailbox m.val).arg 2 / 65536)) :=
  congrArg Host.Outcome.next (State.command_done h fun b s =>
    s.mapOf m.val (b.arg 0) (b.arg 1) (b.arg 2 % 256) (b.arg 2 / 65536))
section
variable {l kind : Nat}
theorem State.mayMap_iff : ¬(255 < c || !(s.ctx c).ctl.opened || !(s.ctx c).ctl.device || 3 < l || kind == 0 || 4 < kind) = true ↔
    s.MayMap c l kind := by
  simp [State.MayMap, and_assoc, Nat.one_le_iff_ne_zero]
theorem State.mapOf_refused (h : ¬s.MayMap c l kind) (m f : Nat) : s.mapOf m c l kind f = s.complete m 0x11 [] :=
  if_pos (not_not.mp fun bad => h (State.mayMap_iff.mp bad))
theorem State.mapOf_shows (h : s.MayMap c l kind) (m f : Nat) :
    s.mapOf m c l kind f = s.complete m 0 (s.mapWords c l kind f) := if_neg (State.mayMap_iff.mpr h)
end
theorem State.mapWords_getD (s : State) (c l kind f : Nat) {i : Nat} (h : i < 8) : (s.mapWords c l kind f).getD i 0 =
    s.mapEntry c l kind (f + 2 * i) + 65536 * s.mapEntry c l kind (f + 2 * i + 1) := by
  rw [State.mapWords, List.getD_eq_getElem _ _ (by simpa using h)]
  simp

end Sys2Proof.Machine

open Sys2Proof Sys2Proof.Machine

/-- Settles O38: each command by whether it may act, the check by its first failed case. -/
theorem plansAreLoadedAndChecked : Obligations.PlansAreLoadedAndChecked := by
  unfold Obligations.PlansAreLoadedAndChecked
  refine ⟨fun s c grp ready checks first => ⟨fun code step fails => ?_, fun unloaded _ => ⟨0x010B, none, ?_, rfl⟩, fun passes => ?_⟩,
    fun s c grp d other found later => ?_, fun s m image h => ?_, fun s m h => ?_, fun s m h => ?_, fun s m h => ?_⟩
  · obtain ⟨state, reason, -, -, -⟩ := s.failCtx_fails c.val code
    refine yields_of (exec_checkComplete_fails ready checks (State.firstCheck_iff.mpr first) fails) ?_
    generalize s.failCtx c.val code = v at state reason
    rw [State.modCtl_ctl]
    refine ⟨state, reason, rfl, ?_⟩
    rintro x rfl
    rfl
  · rw [unloaded]
    rfl
  · refine yields_of (exec_checkComplete_passes ready checks (State.firstCheck_iff.mpr first) passes) ?_
    have ctl := State.modCtl_ctl (s := s) c.val (CtxCtl.passed (s.checkedMap c.val (s.image c.val) (s.ctx c.val).cur)
      (s.readCands (s.ctx c.val).cur.recipe))
    generalize s.modCtl c.val (CtxCtl.passed (s.checkedMap c.val (s.image c.val) (s.ctx c.val).cur)
      (s.readCands (s.ctx c.val).cur.recipe)) = v at ctl
    have arm {α : Type} (π : CtxCtl → α) (hπ : ∀ k : CtxCtl, π { k with rowCopies := [] } = π k) := v.arm_ctl c.val π hπ
    rw [ctl] at arm
    exact ⟨arm (·.state) fun _ => rfl, arm (·.reason) fun _ => rfl, arm (·.twillEff) fun _ => rfl, arm (·.maskEff) fun _ => rfl,
      arm (·.strictEff) fun _ => rfl, arm (·.strictMaskEff) fun _ => rfl⟩
  · have late : ¬s.firstCheck c.val = true := fun first =>
      absurd (State.firstCheck_iff.mp first _ (State.ctx_mem_ctxs found) other) (Nat.not_le.mpr later)
    refine congrArg Host.Outcome.next (if_neg fun all => late ?_)
    simp only [Bool.and_eq_true] at all
    exact all.2
  · refine yields_of (exec_planLoad h image) ?_
    by_cases ok : s.MayLoad m.val (s.mailbox m.val)
    · rcases Nat.lt_or_ge 1015808 (s.poolNeed (s.mailbox m.val)) with full | fits
      · rw [State.loadPlan_full ok full]
        exact ⟨(s.complete_command ..).rest, fun bad => absurd ok bad, fun _ _ => s.refused_command m.val 0x39,
          fun _ fits => absurd full (Nat.not_lt.mpr fits)⟩
      · obtain ⟨rest, done⟩ := s.modCtl_command ((s.mailbox m.val).arg 0)
          (fun k => { k with plan := some (s.hostData m.val (s.mailbox m.val) ((s.mailbox m.val).arg2 1)
            ((s.mailbox m.val).arg 3) image) }) m.val 0 []
        rw [State.loadPlan_loads ok fits]
        refine ⟨rest, fun bad => absurd ok bad, fun _ full => absurd full (Nat.not_lt.mpr fits),
          fun _ _ => ⟨done, fun d hd => ?_, ?_⟩⟩
        · rw [State.complete_ctx, State.modCtl_other _ hd]
        · rw [State.complete_ctx, State.modCtl_ctx]
    · rw [State.loadPlan_refused ok]
      exact ⟨(s.complete_command ..).rest, fun _ => s.refused_command m.val 0x11, fun may => absurd may ok,
        fun may => absurd may ok⟩
  · refine yields_of (exec_planUnload h) ?_
    by_cases ok : s.MayUnload ((s.mailbox m.val).arg 0)
    · obtain ⟨rest, done⟩ := s.modCtl_command ((s.mailbox m.val).arg 0) (fun k => { k with plan := none }) m.val 0 []
      rw [State.unloadPlan_unloads ok]
      refine ⟨rest, fun bad => absurd ok bad, fun _ => ⟨done, fun d hd => ?_, ?_⟩⟩
      · rw [State.complete_ctx, State.modCtl_other _ hd]
      · rw [State.complete_ctx, State.modCtl_ctx]
    · rw [State.unloadPlan_refused ok]
      exact ⟨(s.complete_command ..).rest, fun _ => s.refused_command m.val 0x11, fun may => absurd may ok⟩
  · refine yields_of (exec_planStatus h) ?_
    rcases Nat.lt_or_ge 255 ((s.mailbox m.val).arg 0) with bad | ok
    · rw [State.statusOf, if_pos bad]
      exact ⟨s.complete_eq .., fun _ => s.complete_completes .., fun ok => absurd bad (Nat.not_lt.mpr ok)⟩
    · rw [State.statusOf, if_neg (Nat.not_lt.mpr ok)]
      exact ⟨s.complete_eq .., fun bad => absurd bad (Nat.not_lt.mpr ok), fun _ => s.complete_completes ..⟩
  · refine yields_of (exec_planMap h) ?_
    by_cases ok : s.MayMap ((s.mailbox m.val).arg 0) ((s.mailbox m.val).arg 1) ((s.mailbox m.val).arg 2 % 256)
    · rw [State.mapOf_shows ok]
      exact ⟨s.complete_eq .., fun bad => absurd ok bad, fun _ => ⟨_, by simp [State.mapWords], s.complete_completes ..,
        fun i hi => s.mapWords_getD _ _ _ _ hi⟩⟩
    · rw [State.mapOf_refused ok]
      exact ⟨s.complete_eq .., fun _ => s.complete_completes .., fun may => absurd may ok⟩

end

section
/-! Remote operations that arrive (R149-R152): what is sent in answer, and what becomes of one that is not accepted. -/

-- one proof at a time: side by side, their stacks and heaps do not fit beside the rest of the text
set_option Elab.async false

namespace Sys2Proof.Machine

variable {s t : State}

/-! ## What is sent -/

/-- Issuing an operation sends it; nothing else of the state changes but the ports. -/
theorem State.issue_frame (s : State) (path : Nat) (op : RemoteOp) :
    s.issue path op = { s with ports := (s.issue path op).ports, out := .remote path op :: s.out } := by
  unfold State.issue
  dsimp only
  split_ifs <;> rfl
/-- An answer to operation `op`. -/
def answerOp (op : RemoteOp) (opc status dstAddr : Nat) (ps : List Piece) : RemoteOp :=
  sealOp ⟨opc, status, op.dstPlace, op.srcPlace, op.context, dstAddr, 0, if opc = 3 then op.length else 0, 0, ps⟩
theorem State.answer_frame (s : State) (op : RemoteOp) (path opc status dstAddr : Nat) (ps : List Piece) :
    s.answer op path opc status dstAddr ps =
      { s with
        ports := (s.answer op path opc status dstAddr ps).ports
        out := .remote path (answerOp op opc status dstAddr ps) :: s.out } := s.issue_frame ..

section
variable (s : State) (op : RemoteOp) (path opc status dstAddr : Nat) (ps : List Piece)
theorem State.answer_out : (s.answer op path opc status dstAddr ps).out = .remote path (answerOp op opc status dstAddr ps) :: s.out := by
  rw [State.answer_frame]
theorem State.answer_agg : (s.answer op path opc status dstAddr ps).agg = s.agg := by rw [State.answer_frame]
theorem State.answer_mem : (s.answer op path opc status dstAddr ps).mem = s.mem := by rw [State.answer_frame]
end

/-! ## What arrives -/

section
variable {op : RemoteOp} {path opc a n : Nat} {f : State → State} (awake : s.awake = true)
include awake

theorem State.arrive_bad (tally : op.tally ≠ crc32c (opHeader op)) : s.arrive op path opc a n f =
    if opc = 5 then s.report .headerTally else (s.report .headerTally).answer op path 7 4 0 [] := by
  rw [State.arrive, if_neg (by rw [awake]; decide), if_pos (bne_iff_ne.mpr tally)]
section
variable (tally : op.tally = crc32c (opHeader op)) (known : 1 ≤ opc ∧ opc ≤ 7) (kind : op.opc = opc)
include tally known kind
theorem State.arrive_known : s.arrive op path opc a n f =
    if s.nackStatus op.context opc a n != 0 then
      (s.report (.nackSent (s.nackStatus op.context opc a n))).answer op path 7 (s.nackStatus op.context opc a n) 0 []
    else f s := by
  rw [State.arrive, if_neg (by rw [awake]; decide), if_neg (by rw [tally]; simp), if_neg (by omega), if_neg (by rw [kind]; simp)]
theorem State.arrive_refused (refused : s.nackStatus op.context opc a n ≠ 0) : s.arrive op path opc a n f =
    (s.report (.nackSent (s.nackStatus op.context opc a n))).answer op path 7 (s.nackStatus op.context opc a n) 0 [] :=
  (State.arrive_known awake tally known kind).trans (if_pos (bne_iff_ne.mpr refused))
theorem State.arrive_accepted (accepted : s.nackStatus op.context opc a n = 0) : s.arrive op path opc a n f = f s :=
  (State.arrive_known awake tally known kind).trans (if_neg (by rw [accepted]; decide))
end
end

/-- Each command by which an operation arrives does so with its opcode and the range it reaches. -/
theorem exec_arrives {op : RemoteOp} {path : BitVec 16} {cmd : Instr} {opc a n : Nat} (s : State)
    (h : (cmd, opc, a, n) ∈ [(Instr.put op path, 1, op.dstAddr, op.length), (.get op path, 2, op.srcAddr, op.length),
      (.add48 op path, 4, op.dstAddr, op.length), (.knotSet op path, 5, op.dstAddr, 8)])
    (port : ¬(cmd = .put op path ∧ 32 ≤ path.toNat ∧ path.toNat < 36)) :
    (1 ≤ opc ∧ opc ≤ 7) ∧ ∃ f, exec cmd s = .next (s.arrive op path.toNat opc a n f) := by
  simp only [List.mem_cons, Prod.mk.injEq, List.not_mem_nil, or_false] at h
  rcases h with ⟨rfl, rfl, rfl, rfl⟩ | ⟨rfl, rfl, rfl, rfl⟩ | ⟨rfl, rfl, rfl, rfl⟩ | ⟨rfl, rfl, rfl, rfl⟩
  · exact ⟨by decide, _, congrArg Host.Outcome.next (if_neg fun twin => port ⟨rfl, twin⟩)⟩
  · exact ⟨by decide, _, rfl⟩
  · exact ⟨by decide, _, rfl⟩
  · exact ⟨by decide, _, rfl⟩

theorem State.answered_bad {err : Word} (h : err ≠ 0) (s : State) (c l i : Nat) (refused : PlanStep → State → State) :
    s.answered c l i err refused = s.report .headerTally := if_pos h

end Sys2Proof.Machine

open Sys2Proof Sys2Proof.Machine

/-- Settles O27. -/
theorem refusedOperationsWriteNothing : Obligations.RefusedOperationsWriteNothing := by
  unfold Obligations.RefusedOperationsWriteNothing
  refine ⟨fun s c l i st err bad => ?_, fun s op path cmd opc a n h port awake => ?_⟩
  · exact ⟨congrArg Host.Outcome.next (State.answered_bad bad ..), congrArg Host.Outcome.next (State.answered_bad bad ..)⟩
  · obtain ⟨known, f, runs⟩ := exec_arrives s h port
    refine ⟨fun tally kind refused => ?_, fun tally => ?_⟩
    · rw [State.arrive_refused awake tally known kind refused] at runs
      refine yields_of runs ?_
      rw [State.answer_frame]
      exact ⟨rfl, rfl, rfl, rfl⟩
    · rw [State.arrive_bad awake tally] at runs
      refine yields_of runs ?_
      split_ifs with knot
      · exact ⟨rfl, rfl, fun _ => rfl⟩
      · rw [State.answer_frame]
        exact ⟨rfl, rfl, fun is => absurd is knot⟩

end

section
/-! Bytes and reduction words that land in memory (R110, R113, R149, R257): consecutive writes leave one range of bytes, or add to
one range of words. -/

-- one proof at a time: side by side, their stacks and heaps do not fit beside the rest of the text
set_option Elab.async false

namespace Sys2Proof.Machine

variable {s t u : State}

/-! ## Ranges of bytes -/

/-- From `s` to `t` the bytes `bs` have been written from address `a` up, and every other byte stays. -/
structure State.Fills (a : Nat) (bs : Bytes) (s t : State) : Prop where
  read : t.read a bs.length = bs
  other : ∀ b, b < a ∨ a + bs.length ≤ b → t.byte b = s.byte b

theorem State.read_eq (s : State) (a n : Nat) : s.read a n = (List.range n).map fun i => s.byte (a + i) :=
  Memory.readBytes_eq s.mem a n
theorem State.read_congr {a n : Nat} (h : ∀ i, i < n → t.byte (a + i) = s.byte (a + i)) : t.read a n = s.read a n := by
  rw [State.read_eq, State.read_eq]
  exact List.map_congr_left fun i hi => h i (List.mem_range.mp hi)
theorem State.read_append (s : State) (a m n : Nat) : s.read a (m + n) = s.read a m ++ s.read (a + m) n := by
  simp [State.read_eq, List.range_add, Function.comp_def, Nat.add_assoc]
theorem State.read_of_mem (h : t.mem = s.mem) (a n : Nat) : t.read a n = s.read a n := by rw [State.read, h, State.read]
theorem State.byte_of_mem (h : t.mem = s.mem) (a : Nat) : t.byte a = s.byte a := by rw [State.byte, h, State.byte]

theorem State.Fills.none (h : t.mem = s.mem) (a : Nat) : s.Fills a [] t := ⟨rfl, fun b _ => State.byte_of_mem h b⟩
theorem State.Fills.append {a : Nat} {bs bs' : Bytes} (h : s.Fills a bs t) (h' : t.Fills (a + bs.length) bs' u) :
    s.Fills a (bs ++ bs') u := by
  refine ⟨?_, fun b out => ?_⟩
  · rw [List.length_append, State.read_append, h'.read,
      State.read_congr (s := t) fun i hi => h'.other _ (.inl (by omega)), h.read]
  · rw [List.length_append] at out
    rw [h'.other b (by omega), h.other b (by omega)]
/-- What leaves memory alone before or after a write. -/
theorem State.Fills.before {a : Nat} {bs : Bytes} (h : t.Fills a bs u) (same : t.mem = s.mem) : s.Fills a bs u :=
  ⟨h.read, fun b out => (h.other b out).trans (State.byte_of_mem same b)⟩
theorem State.Fills.after {a : Nat} {bs : Bytes} (h : s.Fills a bs t) (same : u.mem = t.mem) : s.Fills a bs u :=
  ⟨(State.read_of_mem same ..).trans h.read, fun b out => (State.byte_of_mem same b).trans (h.other b out)⟩

theorem State.write_fills (s : State) (a : Nat) (bs : Bytes) : s.Fills a bs (s.write a bs) :=
  ⟨State.read_write _ a bs, fun _ out => State.write_byte_other _ a bs out⟩
/-- Storing tallies changes no byte. -/
theorem Memory.byte_foldl_setErr (l : List Nat) (e : Word) (m : Memory) (x : Nat) :
    (l.foldl (fun m k => m.setErr k e) m).byte x = m.byte x := by
  induction l generalizing m with
  | nil => rfl
  | cons k l ih => exact ih (m.setErr k e)
theorem State.pieceWrite_byte (s : State) (a : Nat) (bs : Bytes) (e : Word) (x : Nat) :
    (s.pieceWrite a bs e).byte x = (s.write a bs).byte x := Memory.byte_foldl_setErr ..
theorem State.pieceWrite_fills (s : State) (a : Nat) (bs : Bytes) (e : Word) : s.Fills a bs (s.pieceWrite a bs e) := by
  refine ⟨?_, fun b out => ?_⟩
  · rw [State.read_congr (s := s.write a bs) fun i _ => s.pieceWrite_byte a bs e _]
    exact State.read_write _ a bs
  · rw [State.pieceWrite_byte]
    exact State.write_byte_other _ a bs out
theorem State.unitWrite_fills (s : State) (a : Nat) (bs : Bytes) : s.Fills a bs (s.unitWrite a bs) := by
  have byte (x : Nat) : (s.unitWrite a bs).byte x = (s.write a bs).byte x := Memory.byte_foldl_setErr ..
  refine ⟨?_, fun b out => (byte b).trans (State.write_byte_other _ a bs out)⟩
  rw [State.read_congr (s := s.write a bs) fun i _ => byte _]
  exact State.read_write _ a bs

/-! ## Reduction words (R110, R113) -/

theorem leNat_toLe (n v : Nat) : leNat (toLe n v) = v % 256 ^ n := by
  induction n generalizing v with
  | zero => simp [toLe, leNat, Nat.mod_one]
  | succ n ih =>
    have byte : (BitVec.ofNat 8 v).toNat = v % 256 := BitVec.toNat_ofNat v 8
    rw [toLe, leNat, ih, byte, pow_succ', Nat.mod_mul]
theorem toLe_length (n v : Nat) : (toLe n v).length = n := by
  induction n generalizing v with
  | zero => rfl
  | succ n ih => rw [toLe, List.length_cons, ih]

/-- A reduction word that its 64 bits can hold. -/
def RedWord.Fits (w : RedWord) : Prop := w.res < 8 ∧ signed 56 (unsigned 56 w.val) = w.val

theorem signed_mod (w v : Nat) : signed w (v % 2 ^ w) = signed w v := by rw [signed, signed, Nat.mod_mod]
theorem signed_mem (n v : Nat) : -(2 ^ n : Int) ≤ signed (n + 1) v ∧ signed (n + 1) v < 2 ^ n := by
  have below : v % 2 ^ (n + 1) < 2 ^ (n + 1) := Nat.mod_lt _ (Nat.two_pow_pos _)
  have two : (2 : Int) ^ (n + 1) = 2 * 2 ^ n := by ring
  rw [← signed_mod]
  generalize v % 2 ^ (n + 1) = r at below
  rcases Nat.lt_or_ge r (2 ^ n) with low | high
  · rw [signed_of_lower low]
    zify at low
    omega
  · rw [signed_of_upper high below]
    zify at high below
    omega
theorem signed_unsigned_signed (v : Nat) : signed 56 (unsigned 56 (signed 56 v)) = signed 56 v :=
  signed_unsigned (signed_mem 55 v).1 (signed_mem 55 v).2
theorem parseRed_fits (v : Nat) : (parseRed v).Fits := ⟨Nat.mod_lt _ (by decide), signed_unsigned_signed v⟩

/-- The 64 bits of a reduction word (R110). -/
def redBits (w : RedWord) : Nat := unsigned 56 w.val + w.res * 2 ^ 56 + b2n w.fail * 2 ^ 59
theorem redBytes_eq (w : RedWord) : redBytes w = toLe 8 (redBits w) := rfl
theorem redBytes_length (w : RedWord) : (redBytes w).length = 8 := toLe_length ..
theorem unsigned_lt (w : Nat) (i : Int) : unsigned w i < 2 ^ w := by
  have cast := unsigned_cast w i
  have := Int.emod_lt_of_pos i (b := 2 ^ w) (by positivity)
  zify
  omega
theorem parseRed_redBits {w : RedWord} (h : w.Fits) : parseRed (leNat (redBytes w)) = w := by
  obtain ⟨res, val⟩ := h
  have flag : b2n w.fail < 2 ^ 1 := Nat.lt_succ_of_le (b2n_le_one _)
  obtain ⟨all, low, mid, high⟩ := fld_packed (n := 56) (m := 3) (p := 59) (k := 1) (q := 60) rfl rfl (unsigned_lt 56 w.val) res flag
  have bits : leNat (redBytes w) = redBits w := by
    rw [redBytes_eq, leNat_toLe, Nat.mod_eq_of_lt]
    exact all.trans (by decide)
  rw [bits]
  have value : signed 56 (redBits w) = w.val := by
    rw [← signed_mod, redBits, low, val]
  have fail : bitOf (redBits w) 59 = w.fail := by
    have high' : redBits w / 2 ^ 59 % 2 = b2n w.fail := high
    rw [bitOf, Nat.testBit_eq_decide_div_mod_eq, high']
    cases w.fail <;> rfl
  show (⟨signed 56 (redBits w), fld (redBits w) 56 3, bitOf (redBits w) 59⟩ : RedWord) = w
  rw [value, fail]
  exact congrArg (fun r => (⟨w.val, r, w.fail⟩ : RedWord)) mid

/-- What has been done to a range of words: word `j` from address `a` up has become `f` of what it was and of operand `j` of `bs`,
and every byte outside the range stays. -/
structure State.Words (f : RedWord → RedWord → RedWord) (a : Nat) (bs : Bytes) (s t : State) : Prop where
  word : ∀ j, j < bs.length / 8 → t.redWord (a + 8 * j) = f (s.redWord (a + 8 * j)) (parseRed (le bs (8 * j) 8))
  other : ∀ b, b < a ∨ a + bs.length ≤ b → t.byte b = s.byte b

theorem State.redWord_congr {a : Nat} (h : ∀ i, i < 8 → t.byte (a + i) = s.byte (a + i)) : t.redWord a = s.redWord a := by
  rw [State.redWord, State.readLe, State.read_congr h, State.redWord, State.readLe]
theorem le_append_left {bs : Bytes} (bs' : Bytes) {off n : Nat} (h : off + n ≤ bs.length) : le (bs ++ bs') off n = le bs off n := by
  rw [le, le, List.drop_append_of_le_length (by omega), List.take_append_of_le_length (by rw [List.length_drop]; omega)]
theorem le_append_right (bs bs' : Bytes) (off n : Nat) : le (bs ++ bs') (bs.length + off) n = le bs' off n := by
  rw [le, le, List.drop_append, List.drop_eq_nil_of_le (by omega), List.nil_append, Nat.add_sub_cancel_left]

section
variable {f : RedWord → RedWord → RedWord} {a : Nat} {bs bs' : Bytes}
theorem State.Words.none (h : t.mem = s.mem) : s.Words f a [] t := ⟨nofun, fun b _ => State.byte_of_mem h b⟩
theorem State.Words.before (h : t.Words f a bs u) (same : t.mem = s.mem) : s.Words f a bs u := by
  refine ⟨fun j hj => ?_, fun b out => (h.other b out).trans (State.byte_of_mem same b)⟩
  rw [h.word j hj, State.redWord_congr (s := s) fun i _ => State.byte_of_mem same _]
theorem State.Words.after (h : s.Words f a bs t) (same : u.mem = t.mem) : s.Words f a bs u := by
  refine ⟨fun j hj => ?_, fun b out => (State.byte_of_mem same b).trans (h.other b out)⟩
  rw [State.redWord_congr (s := t) fun i _ => State.byte_of_mem same _, h.word j hj]
theorem State.Words.append (h : s.Words f a bs t) (whole : bs.length % 8 = 0) (h' : t.Words f (a + bs.length) bs' u) :
    s.Words f a (bs ++ bs') u := by
  refine ⟨fun j hj => ?_, fun b out => ?_⟩
  · rw [List.length_append] at hj
    rcases Nat.lt_or_ge j (bs.length / 8) with first | second
    · rw [State.redWord_congr (s := t) fun i hi => h'.other _ (.inl (by omega)), h.word j first, le_append_left _ (by omega)]
    · have place : a + 8 * j = a + bs.length + 8 * (j - bs.length / 8) := by omega
      have off : 8 * j = bs.length + 8 * (j - bs.length / 8) := by omega
      rw [place, h'.word (j - bs.length / 8) (by omega), State.redWord_congr (s := s) fun i hi => h.other _ (.inr (by omega)), off,
        le_append_right]
  · rw [List.length_append] at out
    rw [h'.other b (by omega), h.other b (by omega)]

/-- One word that is rewritten. -/
theorem State.write_words (s : State) (a : Nat) (word : bs.length = 8) (fits : (f (s.redWord a) (parseRed (le bs 0 8))).Fits) :
    s.Words f a bs (s.write a (redBytes (f (s.redWord a) (parseRed (le bs 0 8))))) := by
  have fills := s.write_fills a (redBytes (f (s.redWord a) (parseRed (le bs 0 8))))
  refine ⟨fun j hj => ?_, fun b out => fills.other b (by rw [redBytes_length]; omega)⟩
  obtain rfl : j = 0 := by omega
  have read := fills.read
  rw [redBytes_length] at read
  rw [Nat.mul_zero, Nat.add_zero, State.redWord, State.readLe, read, parseRed_redBits fits]

/-- A step for each word of `bs`, in turn: `g` at address `a + 8 * j` works for word `j`. -/
theorem State.each_words {g : State → Nat → State} (bs : Bytes)
    (step : ∀ (s : State) j, j < bs.length / 8 → s.Words f (a + 8 * j) ((bs.drop (8 * j)).take 8) (g s j)) (whole : bs.length % 8 = 0)
    (s : State) : s.Words f a bs (State.each (List.range (bs.length / 8)) g s) := by
  have upTo (k : Nat) (hk : k ≤ bs.length / 8) : s.Words f a (bs.take (8 * k)) (State.each (List.range k) g s) := by
    induction k with
    | zero => exact .none rfl
    | succ k ih =>
      have len : (bs.take (8 * k)).length = 8 * k := by rw [List.length_take]; omega
      have next := step (State.each (List.range k) g s) k (by omega)
      have split : bs.take (8 * (k + 1)) = bs.take (8 * k) ++ (bs.drop (8 * k)).take 8 := by
        rw [Nat.mul_succ, List.take_add]
      rw [split, List.range_succ, State.each, List.foldl_append]
      refine (ih (by omega)).append (by omega) ?_
      rw [len]
      exact next
  have all := upTo (bs.length / 8) le_rfl
  rwa [List.take_of_length_le (by omega)] at all
end

end Sys2Proof.Machine
end

section
/-! What an operation that is accepted brings about (R149-R152). -/

-- one proof at a time: side by side, their stacks and heaps do not fit beside the rest of the text
set_option Elab.async false

namespace Sys2Proof.Machine

variable {s t : State}

/-! ## Pieces that land -/

/-- What the pieces hold, in turn. -/
abbrev pieceBytes (ps : List Piece) : Bytes := ps.flatMap (·.data)

theorem State.pieceFail_mem (s : State) (a path : Nat) : (s.pieceFail a path).mem = s.mem :=
  (State.pieceFail_keeps (B := [.history, .agg]) (.refl s) (by decide) a path).same .mem (by decide)
theorem State.countWrite_mem (s : State) (a n : Nat) : (s.countWrite a n).mem = s.mem :=
  (State.countWrite_keeps (B := [.obs]) (.refl s) (by decide) a n).same .mem (by decide)

/-- Steps that each write their piece leave the pieces one after another. -/
theorem State.each_fills {g : State → Nat × Piece → State} (step : ∀ (s : State) x, s.Fills x.1 x.2.data (g s x)) (ps : List Piece)
    (s : State) (a : Nat) : s.Fills a (pieceBytes ps) (State.each (placePieces a ps) g s) := by
  induction ps generalizing s a with
  | nil => exact .none rfl a
  | cons p ps ih => exact (step s (a, p)).append (ih (g s (a, p)) (a + p.data.length))
theorem State.each_pieceWords {f : RedWord → RedWord → RedWord} {g : State → Nat × Piece → State} {good : Piece → Prop}
    (step : ∀ (s : State) a p, good p → s.Words f a p.data (g s (a, p))) (ps : List Piece)
    (all : ∀ p ∈ ps, good p ∧ p.data.length % 8 = 0) (s : State) (a : Nat) :
    s.Words f a (pieceBytes ps) (State.each (placePieces a ps) g s) := by
  induction ps generalizing s a with
  | nil => exact .none rfl
  | cons p ps ih =>
    obtain ⟨good, whole⟩ := all p List.mem_cons_self
    exact (step s a p good).append whole (ih (fun q hq => all q (List.mem_cons_of_mem _ hq)) (g s (a, p)) (a + p.data.length))

/-- A write that nothing waits for publishes nothing (R132). -/
theorem State.arrived_mem (h : s.kvt.unpublished = []) (a n : Nat) : (s.arrived a n).mem = s.mem := by
  unfold State.arrived State.publishReady
  simp [h, State.each]

/-- A piece as received. -/
def State.putPiece (path : Nat) (s : State) (x : Nat × Piece) : State :=
  State.pieceWrite ((if pieceErr x.2 = 0 then s else s.pieceFail x.1 path).countWrite x.1 x.2.data.length) x.1 x.2.data (pieceErr x.2)
theorem State.putPiece_fills (path : Nat) (s : State) (x : Nat × Piece) : s.Fills x.1 x.2.data (s.putPiece path x) := by
  refine (State.pieceWrite_fills _ _ _ _).before ((State.countWrite_mem ..).trans ?_)
  split_ifs
  · rfl
  · exact State.pieceFail_mem ..
theorem State.applyPut_bytes (s : State) (path a : Nat) (ps : List Piece) : s.applyPut false path a ps =
    (State.each (placePieces a ps) (State.putPiece path) s).arrived a (sumNat (ps.map fun p => p.data.length)) := rfl
theorem State.applyPut_fills (h : s.kvt.unpublished = []) (path a : Nat) (ps : List Piece) :
    s.Fills a (pieceBytes ps) (s.applyPut false path a ps) := by
  have kept : Keeps [.mem, .history, .obs, .agg] s (State.each (placePieces a ps) (State.putPiece path) s) := by
    refine State.each_keeps (.refl s) fun t x k => ?_
    unfold State.putPiece
    refine State.pieceWrite_keeps (State.countWrite_keeps ?_ (by decide) ..) (by decide) ..
    split_ifs
    · exact k
    · exact State.pieceFail_keeps k (by decide) ..
  have fills := State.each_fills (State.putPiece_fills path) ps s a
  have waits : (State.each (placePieces a ps) (State.putPiece path) s).kvt.unpublished = [] := by
    rw [kept.same .kvt (by decide)]
    exact h
  rw [State.applyPut_bytes]
  exact fills.after (State.arrived_mem waits ..)

/-- Adding operands: a failed piece marks its words instead. -/
def State.addPiece (path : Nat) (s : State) (x : Nat × Piece) : State :=
  State.each (List.range (x.2.data.length / 8)) (fun s j =>
      if pieceErr x.2 != 0 then s.write (x.1 + 8 * j) (redBytes { s.redWord (x.1 + 8 * j) with fail := true })
      else s.redPut false (x.1 + 8 * j) (parseRed (le x.2.data (8 * j) 8)))
    (if pieceErr x.2 != 0 then s.pieceFail x.1 path else s)
theorem State.applyAdd_eq (s : State) (path a : Nat) (ps : List Piece) :
    s.applyAdd path a ps = State.each (placePieces a ps) (State.addPiece path) s := rfl

theorem redAdd_fits (old op : RedWord) : (redAdd old op).Fits :=
  ⟨(Nat.mod_lt _ (by decide : 0 < 7)).trans (by decide), signed_unsigned_signed _⟩
/-- A word that a failed piece reaches. -/
def redFail (old _op : RedWord) : RedWord := { old with fail := true }
theorem RedWord.Fits.redFail {w : RedWord} (h : w.Fits) (op : RedWord) : (redFail w op).Fits := h
theorem State.redWord_fits (s : State) (a : Nat) : (s.redWord a).Fits := by
  rw [State.redWord]
  exact parseRed_fits _

theorem le_drop_take {bs : Bytes} {j : Nat} : le ((bs.drop (8 * j)).take 8) 0 8 = le bs (8 * j) 8 := by
  rw [le, le, List.drop_zero, List.take_take, Nat.min_self]

theorem State.addPiece_good {path : Nat} {p : Piece} (good : pieceErr p = 0) (whole : p.data.length % 8 = 0) (s : State) (a : Nat) :
    s.Words redAdd a p.data (s.addPiece path (a, p)) := by
  unfold State.addPiece
  simp only [good, bne_self_eq_false, Bool.false_eq_true, if_false]
  refine State.each_words p.data (fun s j hj => ?_) whole s
  have word : ((p.data.drop (8 * j)).take 8).length = 8 := by rw [List.length_take, List.length_drop]; omega
  have step := s.write_words (f := redAdd) (a + 8 * j) word (redAdd_fits _ _)
  rwa [le_drop_take] at step
theorem State.addPiece_bad {path : Nat} {p : Piece} (bad : pieceErr p ≠ 0) (whole : p.data.length % 8 = 0) (s : State) (a : Nat) :
    s.Words redFail a p.data (s.addPiece path (a, p)) := by
  have failed : (pieceErr p != 0) = true := bne_iff_ne.mpr bad
  unfold State.addPiece
  simp only [failed, if_true]
  refine (State.each_words p.data (fun s j hj => ?_) whole _).before (s.pieceFail_mem a path)
  have word : ((p.data.drop (8 * j)).take 8).length = 8 := by rw [List.length_take, List.length_drop]; omega
  exact s.write_words (f := redFail) (a + 8 * j) word ((s.redWord_fits _).redFail _)

/-! ## Pieces that are cut (R149) -/

/-- What is read of a range by the byte, in pieces of 4 KiB, is what is read of it at once. -/
theorem State.cutPieces_bytes {get : State → Nat → Nat → Bytes} {byte : Nat → Byte} (s seen : State)
    (read : ∀ a n, get seen a n = (List.range n).map fun i => byte (a + i)) (a n : Nat) :
    pieceBytes (s.cutPieces seen get a n) = get seen a n := by
  have upTo (k : Nat) : (List.range k).flatMap (fun j => get seen (a + 4096 * j) (min 4096 (n - 4096 * j))) =
      (List.range (min n (4096 * k))).map fun i => byte (a + i) := by
    induction k with
    | zero => simp
    | succ k ih =>
      have next : min n (4096 * (k + 1)) = min n (4096 * k) + min 4096 (n - 4096 * k) := by omega
      rw [List.range_succ, List.flatMap_append, ih, next, List.range_add, List.map_append, List.map_map, List.flatMap_singleton,
        read]
      congr 1
      refine List.map_congr_left fun i hi => congrArg byte ?_
      have := List.mem_range.mp hi
      show a + 4096 * k + i = a + (min n (4096 * k) + i)
      omega
  have all : min n (4096 * ceilDiv n 4096) = n := by
    have := ceilDiv_mul_ge n (b := 4096) (by decide)
    omega
  rw [State.cutPieces, pieceBytes, List.flatMap_map, upTo, all, read]

/-! ## Setting a knot (R152) -/

/-- The place that makes a set. -/
def State.setterPlace (s : State) : Setter → Nat
  | .step _ _ => s.place
  | .arrived p _ => p
/-- The knot's new count, and the record of its set. -/
def State.countKnot (s : State) (a n : Nat) (by_ : Setter) : State :=
  { s.write a (toLe 8 ((s.knot a + n) % 2 ^ 64)) with obs := { s.obs with
    knotLog := Tab.upd [] s.obs.knotLog a (fun l => ((s.knot a + n) % 2 ^ 64, s.clk.pick, s.setterPlace by_) :: l) } }
/-- The event record of a set that brings knot `a` to `c`. -/
def State.traceSet (s : State) (a c : Nat) (by_ : Setter) : State :=
  if s.tracesKnot a then
    match by_ with
    | .step l i => s.traceRecord (knotRecord 1 l s.place i s.clk.pick a 0xFFFF c)
    | .arrived p path => s.traceRecord (knotRecord 2 0xFF p max32 s.clk.pick a path c)
  else s
theorem State.setKnot_eq (s : State) (a n ctx : Nat) (by_ : Setter) : s.setKnot a n ctx by_ =
    (((((s.countKnot a n by_).traceSet a ((s.knot a + n) % 2 ^ 64) by_).perf 0x19 1 (loomOfAddr a) (some ctx) none).wake
      a).publishKnot a) := by
  cases by_ <;> rfl

/-! ### Its record, and the steps that run -/

theorem State.write_obs (s : State) (a : Nat) (bs : Bytes) : (s.write a bs).obs = s.obs := rfl
theorem State.placeWrite_obs (s : State) (w : Option (Nat × Option (Nat × Nat))) (bs : Bytes) : (s.placeWrite w bs).obs = s.obs := by
  unfold State.placeWrite
  split <;> rfl
theorem State.traceRecord_knotLog (s : State) (bs : Bytes) : (s.traceRecord bs).obs.knotLog = s.obs.knotLog := by
  unfold State.traceRecord
  rw [State.placeWrite_obs]
theorem State.traceSet_knotLog (s : State) (a c : Nat) (by_ : Setter) : (s.traceSet a c by_).obs.knotLog = s.obs.knotLog := by
  unfold State.traceSet
  split
  · cases by_ <;> exact State.traceRecord_knotLog ..
  · rfl
theorem State.traceSet_keeps (s : State) (a c : Nat) (by_ : Setter) : Keeps [.mem, .obs] s (s.traceSet a c by_) := by
  unfold State.traceSet
  split
  · cases by_ <;> exact State.traceRecord_keeps (.refl s) (by decide) _
  · exact .refl s
theorem State.perf_knotLog (s : State) (ev n loom : Nat) (ctx unit : Option Nat) :
    (s.perf ev n loom ctx unit).obs.knotLog = s.obs.knotLog := by
  unfold State.perf
  split <;> rfl
theorem State.traceWait_knotLog (s : State) (list idx : Nat) (st : PlanStep) (n : Nat) :
    (s.traceWait list idx st n).obs.knotLog = s.obs.knotLog := by
  unfold State.traceWait
  dsimp only
  split
  · exact State.traceRecord_knotLog ..
  · rfl
/-- The event records of the waits that a set has satisfied. -/
def State.traceWaits (s : State) (l : List Due) : State :=
  State.each l (fun s d => s.traceWait d.list d.idx (planStep (s.image d.ctx) d.list d.idx) d.iter) s
theorem State.traceWaits_knotLog (s : State) (l : List Due) : (s.traceWaits l).obs.knotLog = s.obs.knotLog := by
  unfold State.traceWaits
  induction l generalizing s with
  | nil => rfl
  | cons d l ih => exact (ih _).trans (State.traceWait_knotLog ..)
theorem State.traceWaits_keeps (s : State) (l : List Due) : Keeps [.mem, .obs] s (s.traceWaits l) :=
  State.each_keeps (.refl s) fun t d k => State.traceWait_keeps k (by decide) d.list d.idx (planStep (t.image d.ctx) d.list d.idx)
    d.iter
/-- A set wakes steps: it records their waits and notes the pick, and changes no step that runs. -/
theorem State.wake_wakes (s : State) (a : Nat) : ∃ l, (s.wake a).obs = (s.traceWaits l).obs ∧
    (s.wake a).mem = (s.traceWaits l).mem ∧ (s.wake a).sched.runs = (s.traceWaits l).sched.runs := ⟨_, rfl, rfl, rfl⟩
theorem State.wake_knotLog (s : State) (a : Nat) : (s.wake a).obs.knotLog = s.obs.knotLog := by
  obtain ⟨l, obs, -, -⟩ := s.wake_wakes a
  rw [obs, State.traceWaits_knotLog]
theorem State.wake_runs (s : State) (a : Nat) : (s.wake a).sched.runs = s.sched.runs := by
  obtain ⟨l, -, -, runs⟩ := s.wake_wakes a
  rw [runs, (s.traceWaits_keeps l).same .sched (by decide)]

theorem State.setKnot_sets (s : State) (a n ctx : Nat) (by_ : Setter) : (s.setKnot a n ctx by_).knotSets a =
    ((s.knot a + n) % 2 ^ 64, s.clk.pick, s.setterPlace by_) :: s.knotSets a := by
  have counted : (s.countKnot a n by_).knotSets a =
      ((s.knot a + n) % 2 ^ 64, s.clk.pick, s.setterPlace by_) :: s.knotSets a :=
    Tab.getD_upd_same [] s.obs.knotLog a fun l => ((s.knot a + n) % 2 ^ 64, s.clk.pick, s.setterPlace by_) :: l
  rw [State.setKnot_eq, ← counted, State.knotSets, State.knotSets]
  generalize s.countKnot a n by_ = v
  rw [(State.publishKnot_keeps (B := [.mem, .kvt]) (.refl _) (by decide) a).same .obs (by decide), State.wake_knotLog,
    State.perf_knotLog, State.traceSet_knotLog]
theorem State.setKnot_runs (s : State) (a n ctx : Nat) (by_ : Setter) : (s.setKnot a n ctx by_).sched.runs = s.sched.runs := by
  have counted : (s.countKnot a n by_).sched.runs = s.sched.runs := rfl
  rw [State.setKnot_eq, ← counted]
  generalize s.countKnot a n by_ = v
  rw [(State.publishKnot_keeps (B := [.mem, .kvt]) (.refl _) (by decide) a).same .sched (by decide), State.wake_runs,
    (State.perf_keeps (B := [.obs]) (.refl _) (by decide) 0x19 1 (loomOfAddr a) (some ctx) none).same .sched (by decide),
    (v.traceSet_keeps a ((s.knot a + n) % 2 ^ 64) by_).same .sched (by decide)]

/-! ### Its count, where nothing is recorded and no page waits -/

section
variable (off : s.obs.trcBuf.on = false)
include off
theorem State.tracesKnot_off (a : Nat) : s.tracesKnot a = false := by
  rw [State.tracesKnot, off]
  rfl
theorem State.traceSet_off (a c : Nat) (by_ : Setter) : s.traceSet a c by_ = s :=
  if_neg (by rw [State.tracesKnot_off off]; decide)
theorem State.traceWait_off (list idx : Nat) (st : PlanStep) (n : Nat) : s.traceWait list idx st n = s := by
  unfold State.traceWait
  dsimp only
  rw [if_neg (by rw [State.tracesKnot_off off, Bool.and_false]; decide)]
theorem State.traceWaits_off (l : List Due) : s.traceWaits l = s := by
  unfold State.traceWaits
  induction l with
  | nil => rfl
  | cons d l ih =>
    show State.each l _ (s.traceWait ..) = s
    rw [State.traceWait_off off]
    exact ih
theorem State.wake_mem (a : Nat) : (s.wake a).mem = s.mem := by
  obtain ⟨l, -, mem, -⟩ := s.wake_wakes a
  rw [mem, State.traceWaits_off off]
end
theorem State.publishKnot_mem (h : s.kvt.unpublished = []) (a : Nat) : (s.publishKnot a).mem = s.mem := by
  unfold State.publishKnot State.publishReady
  simp [h, State.each]
theorem State.perf_trcBuf (s : State) (ev n loom : Nat) (ctx unit : Option Nat) :
    (s.perf ev n loom ctx unit).obs.trcBuf = s.obs.trcBuf := by
  unfold State.perf
  split <;> rfl

theorem State.setKnot_mem (off : s.obs.trcBuf.on = false) (h : s.kvt.unpublished = []) (a n ctx : Nat) (by_ : Setter) :
    (s.setKnot a n ctx by_).mem = (s.write a (toLe 8 ((s.knot a + n) % 2 ^ 64))).mem := by
  have off' : (s.countKnot a n by_).obs.trcBuf.on = false := off
  have waits : (s.countKnot a n by_).kvt.unpublished = [] := h
  have mem : (s.countKnot a n by_).mem = (s.write a (toLe 8 ((s.knot a + n) % 2 ^ 64))).mem := rfl
  rw [State.setKnot_eq, ← mem]
  generalize s.countKnot a n by_ = v at off' waits
  rw [State.traceSet_off off']
  have perf := State.perf_keeps (B := [.obs]) (.refl v) (by decide) 0x19 1 (loomOfAddr a) (some ctx) none
  have trc := v.perf_trcBuf 0x19 1 (loomOfAddr a) (some ctx) none
  generalize v.perf 0x19 1 (loomOfAddr a) (some ctx) none = w at perf trc
  have kvt := (State.wake_keeps (B := [.mem, .sched, .obs]) (.refl w) (by decide) a).same .kvt (by decide)
  rw [State.publishKnot_mem (by rw [kvt, perf.same .kvt (by decide)]; exact waits), State.wake_mem (by rw [trc]; exact off'),
    perf.same .mem (by decide)]
theorem State.setKnot_knot (off : s.obs.trcBuf.on = false) (h : s.kvt.unpublished = []) (a n ctx : Nat) (by_ : Setter) :
    (s.setKnot a n ctx by_).knot a = (s.knot a + n) % 2 ^ 64 := by
  have read := ((s.write_fills a (toLe 8 ((s.knot a + n) % 2 ^ 64))).after (State.setKnot_mem off h a n ctx by_)).read
  rw [toLe_length] at read
  rw [State.knot, State.readLe, read, leNat_toLe]
  exact Nat.mod_mod _ _

/-! ## Answers (R149, R150, R152) -/

/-- A run one of whose operations has been acknowledged at pick `now`. -/
def Run.acknowledged (now : Nat) (r : Run) : Run :=
  { r with outstanding := r.outstanding - 1, ackOfs := some ((now : Int) - r.start) }
/-- `r` takes the place of the run of its step and iteration. -/
def Run.inPlace (r x : Run) : Run := if sameRun r.ctx r.list r.idx x && x.iter == r.iter then r else x
/-- The run takes the acknowledgement. -/
def State.ackRun (s : State) (r : Run) : State :=
  { s with sched := { s.sched with runs := s.sched.runs.map (r.acknowledged s.clk.pick).inPlace } }
theorem State.acked_eq (s : State) (r : Run) : s.acked r =
    if (r.acknowledged s.clk.pick).outstanding = 0 ∧ r.ended.isSome then (s.ackRun r).closeRun (r.acknowledged s.clk.pick)
    else s.ackRun r := rfl
theorem sameRun_self (r : Run) : (sameRun r.ctx r.list r.idx r && r.iter == r.iter) = true := by simp [sameRun]
theorem State.ackRun_mem {r : Run} (h : r ∈ s.sched.runs) : r.acknowledged s.clk.pick ∈ (s.ackRun r).sched.runs :=
  List.mem_map.mpr ⟨r, h, if_pos (sameRun_self r)⟩
theorem State.acked_stays {r : Run} (h : r.ended = none ∨ 1 < r.outstanding) : s.acked r = s.ackRun r := by
  rw [State.acked_eq, if_neg]
  rintro ⟨last, ended⟩
  rcases h with runs | more
  · rw [runs] at ended
    exact Bool.noConfusion ended
  · have last' : r.outstanding - 1 = 0 := last
    omega
theorem State.acked_closes {r : Run} (ended : r.ended.isSome = true) (last : r.outstanding = 1) :
    s.acked r = (s.ackRun r).closeRun (r.acknowledged s.clk.pick) := by
  have done : (r.acknowledged s.clk.pick).outstanding = 0 := by rw [Run.acknowledged, last]
  rw [State.acked_eq, if_pos ⟨done, ended⟩]

theorem State.setOf_runs (s : State) (c l i : Nat) (st : PlanStep) : (s.setOf c l i st).sched.runs = s.sched.runs := by
  unfold State.setOf
  dsimp only
  split
  · rfl
  · split
    · split
      · exact State.setKnot_runs ..
      · exact State.setKnot_runs ..
    · rw [State.issue_frame]
/-- A run that closes is no longer among those that run. -/
theorem State.closeRun_runs (s : State) (r : Run) : (s.closeRun r).sched.runs =
    s.sched.runs.filter (fun x => !(sameRun r.ctx r.list r.idx x && x.iter == r.iter)) := by
  unfold State.closeRun
  dsimp only
  rw [(State.runTag_keeps (B := [.obs]) (.refl _) (by decide) r false _).same .sched (by decide), State.setOf_runs]
  rfl

theorem State.outRun_some {c l i : Nat} {r : Run} (h : s.outRun c l i = some r) :
    r ∈ s.sched.runs ∧ (r.ctx = c ∧ r.list = l ∧ r.idx = i) ∧ r.outstanding ≠ 0 := by
  have found := List.find?_some h
  simp only [sameRun, Bool.and_eq_true, beq_iff_eq, bne_iff_ne] at found
  obtain ⟨⟨⟨ctx, list⟩, idx⟩, out⟩ := found
  exact ⟨List.mem_of_find?_eq_some h, ⟨ctx, list, idx⟩, out⟩
theorem State.getRun_mem {c path a : Nat} {r : Run} (h : s.getRun c path a = some r) : r ∈ s.sched.runs :=
  List.mem_of_find?_eq_some h

section
variable {c l i : Nat} {refused : PlanStep → State → State}
theorem State.answered_set (waits : s.sched.sets.contains (c, l, i) = true) :
    s.answered c l i 0 refused = refused (s.stepAt c l i) (s.setAnswered c l i) := by
  rw [State.answered, if_neg (by simp), if_pos waits]
theorem State.answered_run {r : Run} (none_ : s.sched.sets.contains (c, l, i) = false) (h : s.outRun c l i = some r) :
    s.answered c l i 0 refused = (refused (s.stepAt c l i) s).acked r := by
  obtain ⟨-, ⟨rfl, rfl, rfl⟩, -⟩ := State.outRun_some h
  rw [State.answered, if_neg (by simp), if_neg (by rw [none_]; decide), h]
end

/-- A NACK marks the slots of its step, and is reported and counted. -/
def State.nackMark (c l status : Nat) (st : PlanStep) (s : State) : State :=
  ((s.report (.nackGot status)).check c st.slot fun k => { k with nackBad := true }).perf 0x17 1 l (some c) (some (stepEngine l st))

/-- From `s` to `t` a NACK for a step of SLOT `slot` of context `c` has been taken. -/
structure State.Nacked (c slot status : Nat) (s t : State) : Prop where
  agg : t.agg = .nackGot status :: s.agg
  marked : ∀ k ∈ s.servedSlots c slot, (t.batch c k).attempt.nackBad = true

theorem State.nackMark_nacked (s : State) (c l status : Nat) (st : PlanStep) :
    s.Nacked c st.slot status (s.nackMark c l status st) := by
  have counted : Keeps [.obs] ((s.report (.nackGot status)).check c st.slot fun k => { k with nackBad := true })
      (s.nackMark c l status st) := State.perf_keeps (.refl _) (by decide) ..
  have checked : Keeps [.ctxs] (s.report (.nackGot status))
      ((s.report (.nackGot status)).check c st.slot fun k => { k with nackBad := true }) := State.check_keeps (.refl _) (by decide) ..
  refine ⟨(counted.same .agg (by decide)).trans (checked.same .agg (by decide)), fun k served => ?_⟩
  rw [counted.batch_eq (by decide)]
  exact State.check_attempt (p := fun a => a.nackBad = true) (fun _ => rfl) served
theorem State.nackMark_sched (s : State) (c l status : Nat) (st : PlanStep) : (s.nackMark c l status st).sched = s.sched := by
  have keeps : Keeps [.ctxs, .obs, .agg] s (s.nackMark c l status st) :=
    State.perf_keeps (State.check_keeps (State.report_keeps (.refl s) (by decide) _) (by decide) ..) (by decide) ..
  exact keeps.same .sched (by decide)

theorem State.setAnswered_agg (s : State) (c l i : Nat) : (s.setAnswered c l i).agg = s.agg := rfl
theorem State.setAnswered_servedSlots (s : State) (c l i d k : Nat) :
    (s.setAnswered c l i).servedSlots d k = s.servedSlots d k := rfl
theorem exec_nack (c : Fin 256) (l : Fin 5) (i : BitVec 18) (status : Fin 5) (s : State) : exec (.nack c l (i, 0) status) s =
    .next (s.answered c.val l.val i.toNat 0 (State.nackMark c.val l.val status.val)) := rfl
theorem exec_nack_set {c : Fin 256} {l : Fin 5} {i : BitVec 18} (waits : s.sched.sets.contains (c.val, l.val, i.toNat) = true)
    (status : Fin 5) : exec (.nack c l (i, 0) status) s =
      .next ((s.setAnswered c.val l.val i.toNat).nackMark c.val l.val status.val (s.stepAt c.val l.val i.toNat)) := by
  rw [exec_nack, State.answered_set waits]
theorem exec_nack_run {c : Fin 256} {l : Fin 5} {i : BitVec 18} {r : Run}
    (none_ : s.sched.sets.contains (c.val, l.val, i.toNat) = false) (out : s.outRun c.val l.val i.toNat = some r) (status : Fin 5) :
    exec (.nack c l (i, 0) status) s =
      .next ((s.nackMark c.val l.val status.val (s.stepAt c.val l.val i.toNat)).acked r) := by
  rw [exec_nack, State.answered_run none_ out]
theorem exec_getData {op : RemoteOp} {path : BitVec 16} {r : Run} (awake : s.awake = true)
    (tally : op.tally = crc32c (opHeader op)) (kind : op.opc = 3) (found : s.getRun op.context path.toNat op.dstAddr = some r) :
    exec (.getData op path) s = .next ((s.applyPut false path.toNat op.dstAddr op.pieces).acked r) := by
  refine congrArg Host.Outcome.next ?_
  rw [if_neg (by rw [awake]; decide), if_neg (by rw [tally]; simp), if_neg (by omega), if_neg (by rw [kind]; decide), found]

end Sys2Proof.Machine

open Sys2Proof Sys2Proof.Machine

/-- Settles O28: what lands lands piece by piece in one range, and a run that closes is no longer among those that run. -/
theorem acceptedOperationsTakeEffect : Obligations.AcceptedOperationsTakeEffect := by
  unfold Obligations.AcceptedOperationsTakeEffect
  refine ⟨fun s op path awake port tally kind accepted bytes waits => ?_, fun s op path awake tally kind accepted => ?_,
    fun s op path awake tally kind accepted good => ?_, fun s op path awake tally kind accepted bad => ?_,
    fun s op path awake tally kind accepted => ?_, fun s op path r awake tally kind found waits runs_on => ?_,
    fun s c l i r out none_ => ?_, fun s c l i st waits => ?_, fun s c l i st waits => ⟨?_, ?_⟩⟩
  · have runs : exec (.put op path) s = .next
        ((s.applyPut false path.toNat op.dstAddr op.pieces).answer op path.toNat 6 0 0 []) := by
      refine congrArg Host.Outcome.next ((if_neg port).trans ?_)
      rw [State.arrive_accepted awake tally (by decide) kind accepted, bytes]
    have fills := State.applyPut_fills waits path.toNat op.dstAddr op.pieces
    have out : (s.applyPut false path.toNat op.dstAddr op.pieces).out = s.out :=
      (State.applyPut_keeps (B := [.mem, .kvt, .history, .obs, .agg]) (.refl s) (by decide) false path.toNat op.dstAddr
        op.pieces).same .out (by decide)
    refine yields_of runs ?_
    generalize s.applyPut false path.toNat op.dstAddr op.pieces = v at fills out
    obtain ⟨read, other⟩ := fills.after (v.answer_mem op path.toNat 6 0 0 [])
    refine ⟨read, other, ?_⟩
    rw [State.answer_out, out]
    rfl
  · have runs : exec (.get op path) s = .next
        (((s.noteSealed op.srcAddr op.length).checkedRead op.context 0xFFFE op.srcAddr op.length []).answer op path.toNat 3 0
          op.dstAddr (s.cutPieces s State.outsideBytes op.srcAddr op.length)) :=
      congrArg Host.Outcome.next (State.arrive_accepted awake tally (by decide) kind accepted)
    have keeps : Keeps [.ctxs, .history, .memChecks, .obs, .agg] s
        ((s.noteSealed op.srcAddr op.length).checkedRead op.context 0xFFFE op.srcAddr op.length []) :=
      State.checkedRead_keeps (State.noteSealed_keeps (.refl s) (by decide) ..) (by decide) ..
    refine yields_of runs ?_
    generalize (s.noteSealed op.srcAddr op.length).checkedRead op.context 0xFFFE op.srcAddr op.length [] = v at keeps
    rw [State.answer_mem, State.answer_out, keeps.same .mem (by decide), keeps.same .out (by decide)]
    exact ⟨rfl, _, rfl, State.cutPieces_bytes (byte := s.outsideByte) s s (fun _ _ => rfl) _ _⟩
  · have runs : exec (.add48 op path) s = .next
        ((s.applyAdd path.toNat op.dstAddr op.pieces).answer op path.toNat 6 0 0 []) :=
      congrArg Host.Outcome.next (State.arrive_accepted awake tally (by decide) kind accepted)
    have words := State.each_pieceWords (good := fun p => pieceErr p = 0 ∧ p.data.length % 8 = 0)
      (fun s a p good => State.addPiece_good (path := path.toNat) good.1 good.2 s a) op.pieces
      (fun p hp => ⟨good p hp, (good p hp).2⟩) s op.dstAddr
    refine yields_of runs ?_
    obtain ⟨word, other⟩ := words.after (State.answer_mem _ op path.toNat 6 0 0 [])
    exact ⟨word, other⟩
  · have runs : exec (.add48 op path) s = .next
        ((s.applyAdd path.toNat op.dstAddr op.pieces).answer op path.toNat 6 0 0 []) :=
      congrArg Host.Outcome.next (State.arrive_accepted awake tally (by decide) kind accepted)
    have words := State.each_pieceWords (good := fun p => pieceErr p ≠ 0 ∧ p.data.length % 8 = 0)
      (fun s a p bad => State.addPiece_bad (path := path.toNat) bad.1 bad.2 s a) op.pieces
      (fun p hp => ⟨bad p hp, (bad p hp).2⟩) s op.dstAddr
    refine yields_of runs ?_
    obtain ⟨word, -⟩ := words.after (State.answer_mem _ op path.toNat 6 0 0 [])
    exact word
  · have runs : exec (.knotSet op path) s = .next
        ((s.setKnot op.dstAddr op.length op.context (.arrived op.srcPlace path.toNat)).answer op path.toNat 6 0 0 []) :=
      congrArg Host.Outcome.next (State.arrive_accepted awake tally (by decide) kind accepted)
    have sets := s.setKnot_sets op.dstAddr op.length op.context (.arrived op.srcPlace path.toNat)
    have count (off : s.obs.trcBuf.on = false) (waits : s.kvt.unpublished = []) :=
      State.setKnot_knot off waits op.dstAddr op.length op.context (.arrived op.srcPlace path.toNat)
    refine yields_of runs ?_
    generalize s.setKnot op.dstAddr op.length op.context (.arrived op.srcPlace path.toNat) = v at sets count
    rw [State.answer_frame]
    exact ⟨sets, count⟩
  · have fills := State.applyPut_fills waits path.toNat op.dstAddr op.pieces
    have keeps : Keeps [.mem, .kvt, .history, .obs, .agg] s (s.applyPut false path.toNat op.dstAddr op.pieces) :=
      State.applyPut_keeps (.refl s) (by decide) false path.toNat op.dstAddr op.pieces
    have runs := exec_getData awake tally kind found
    rw [State.acked_stays (.inl runs_on)] at runs
    refine yields_of runs ?_
    generalize s.applyPut false path.toNat op.dstAddr op.pieces = v at fills keeps
    have mine := State.ackRun_mem (s := v) (r := r) (by rw [keeps.same .sched (by decide)]; exact State.getRun_mem found)
    rw [keeps.same .clk (by decide)] at mine
    exact ⟨fills.read, fills.other, mine⟩
  · obtain ⟨mem, ⟨rfl_ctx, rfl_list, rfl_idx⟩, -⟩ := State.outRun_some out
    have runs : exec (.ack c l (i, 0)) s = .next (s.acked r) := congrArg Host.Outcome.next (State.answered_run none_ out)
    refine yields_of runs ⟨fun more => ?_, fun ended last x hx => ?_⟩
    · rw [State.acked_stays more]
      exact ⟨State.ackRun_mem mem, rfl⟩
    · rw [State.acked_closes ended last, State.closeRun_runs] at hx
      have other := (List.mem_filter.mp hx).2
      rintro ⟨same, iter⟩
      rw [← rfl_ctx, ← rfl_list, ← rfl_idx] at same
      have same' : sameRun (r.acknowledged s.clk.pick).ctx (r.acknowledged s.clk.pick).list (r.acknowledged s.clk.pick).idx x = true :=
        same
      have iter' : (x.iter == (r.acknowledged s.clk.pick).iter) = true := beq_iff_eq.mpr iter
      rw [same', iter'] at other
      exact Bool.noConfusion other
  · cases sets : s.sched.sets.contains (c.val, l.val, i.toNat) with
    | true =>
      have runs := exec_nack_set sets st
      obtain ⟨agg, marked⟩ := (s.setAnswered c.val l.val i.toNat).nackMark_nacked c.val l.val st.val
        (s.stepAt c.val l.val i.toNat)
      refine yields_of runs ?_
      generalize (s.setAnswered c.val l.val i.toNat).nackMark c.val l.val st.val (s.stepAt c.val l.val i.toNat) = v at agg marked
      rw [State.setAnswered_agg] at agg
      rw [State.setAnswered_servedSlots] at marked
      exact ⟨agg, marked⟩
    | false =>
      obtain ⟨r, out⟩ := Option.isSome_iff_exists.mp (waits.resolve_right (by rw [sets]; decide))
      have runs := exec_nack_run sets out st
      obtain ⟨agg, marked⟩ := s.nackMark_nacked c.val l.val st.val (s.stepAt c.val l.val i.toNat)
      refine yields_of runs ?_
      generalize s.nackMark c.val l.val st.val (s.stepAt c.val l.val i.toNat) = v at agg marked
      have keeps : Keeps [.mem, .kvt, .sched, .ports, .obs, .out] v (v.acked r) := State.acked_keeps (.refl v) (by decide) r
      refine ⟨(keeps.same .agg (by decide)).trans agg, fun k served => ?_⟩
      rw [keeps.batch_eq (by decide)]
      exact marked k served
  · exact congrArg Host.Outcome.next (State.answered_set waits)
  · refine yields_of (exec_nack_set waits st) ?_
    rw [State.nackMark_sched]
    rfl

end

section
/-! PUT, GET and ADD steps (R22, R110, R148-R150, R218): what reading the source leaves of the rest, and where the data go. -/

-- one proof at a time: side by side, their stacks and heaps do not fit beside the rest of the text
set_option Elab.async false

namespace Sys2Proof.Machine

variable {s t u : State} {B : List Block} {c : Nat}

/-! ## What reads and refusals leave -/

/-- From `s` to `t` the slots of context `c` have been marked at most: no mark of a NACK is lost and no report either, and every
other context stays. -/
structure State.Marked (c : Nat) (s t : State) : Prop where
  slots : s.SlotsStay c t
  other : ∀ d, d ≠ c → t.ctx d = s.ctx d
  nums : ∀ d, d ≠ c → (d ∈ t.ctxNums ↔ d ∈ s.ctxNums)
  nacks : ∀ k, (s.batch c k).attempt.nackBad = true → (t.batch c k).attempt.nackBad = true
  agg : s.agg ⊆ t.agg

theorem State.Marked.refl (s : State) : s.Marked c s := ⟨.refl s, fun _ _ => rfl, fun _ _ => .rfl, fun _ h => h, fun _ h => h⟩
theorem State.Marked.trans (h : s.Marked c t) (h' : t.Marked c u) : s.Marked c u :=
  ⟨h.slots.trans h'.slots, fun d hd => (h'.other d hd).trans (h.other d hd), fun d hd => (h'.nums d hd).trans (h.nums d hd),
    fun k hk => h'.nacks k (h.nacks k hk), fun _ hr => h'.agg (h.agg hr)⟩
/-- What touches neither contexts nor requests, and keeps the reports. -/
theorem Keeps.marked (k : Keeps B t u) (hb : Block.ctxs ∉ B ∧ Block.reqs ∉ B) (agg : t.agg ⊆ u.agg) : t.Marked c u := by
  have ctxs : u.ctxs = t.ctxs := k.same .ctxs hb.1
  refine ⟨k.slotsStay hb (.refl t), fun d _ => k.ctx_eq hb.1 d, fun d _ => by rw [State.ctxNums, ctxs, State.ctxNums],
    fun j hj => by rwa [k.batch_eq hb.1], agg⟩
theorem Keeps.marked_quiet (k : Keeps B t u) (hb : Block.ctxs ∉ B ∧ Block.reqs ∉ B ∧ Block.agg ∉ B) : t.Marked c u :=
  k.marked ⟨hb.1, hb.2.1⟩ (by rw [k.same .agg hb.2.2]; exact fun _ h => h)
theorem State.each_marked {α : Type} {f : State → α → State} (l : List α) (hf : ∀ (t : State) a, t.Marked c (f t a)) (s : State) :
    s.Marked c (State.each l f s) := by
  induction l generalizing s with
  | nil => exact .refl s
  | cons a l ih => exact (hf s a).trans (ih (f s a))

/-- Changing an entry leaves the other numbers that a table lists. -/
theorem Tab.mem_keys_upd_other {α : Type} [DecidableEq α] (d : α) (t : Tab α) {k j : Nat} (h : j ≠ k) (f : α → α) :
    j ∈ (Tab.upd d t k f).map (·.1) ↔ j ∈ t.map (·.1) := by
  have del (t : Tab α) : j ∈ (Tab.del k t).map (·.1) ↔ j ∈ t.map (·.1) := by
    induction t with
    | nil => exact .rfl
    | cons e t ih =>
      rw [Tab.del]
      split_ifs with same
      · rw [ih, List.map_cons, List.mem_cons, same]
        exact ⟨.inr, fun hj => hj.resolve_left h⟩
      · rw [List.map_cons, List.mem_cons, ih, List.map_cons, List.mem_cons]
  have ins (v : α) (t : Tab α) : j ∈ (Tab.ins k v t).map (·.1) ↔ j ∈ t.map (·.1) := by
    induction t with
    | nil => simpa [Tab.ins] using h
    | cons e t ih =>
      rw [Tab.ins]
      split_ifs with same before
      · simp [same]
      · simp [h]
      · rw [List.map_cons, List.mem_cons, ih, List.map_cons, List.mem_cons]
  rw [Tab.upd, Tab.put]
  split_ifs
  · exact del t
  · exact ins _ t

theorem State.modCtx_nums (s : State) {d : Nat} (h : d ≠ c) (f : Ctx → Ctx) : d ∈ (s.modCtx c f).ctxNums ↔ d ∈ s.ctxNums := by
  rw [State.ctxNums, State.ctxNums, State.modCtx]
  exact Tab.mem_keys_upd_other _ _ h f
theorem State.modBatch_marked (s : State) (c k : Nat) {f : Check → Check} (marks : ∀ x, f x ≠ {})
    (nacks : ∀ x : Check, x.nackBad = true → (f x).nackBad = true) :
    s.Marked c (s.modBatch c k fun b => { b with attempt := f b.attempt }) := by
  refine ⟨s.modBatch_slotsStay c k (fun _ => rfl) fun b e => marks b.attempt (congrArg BatchSlot.attempt e),
    fun d hd => s.modCtx_ctx_other hd _, fun d hd => s.modCtx_nums hd _, fun j hj => ?_, fun _ h => h⟩
  by_cases same : j = k
  · rw [same, State.modBatch_batch]
    exact nacks _ (same ▸ hj)
  · rwa [s.modBatch_other same]
theorem State.check_marked (s : State) (c slot : Nat) {f : Check → Check} (marks : ∀ x, f x ≠ {})
    (nacks : ∀ x : Check, x.nackBad = true → (f x).nackBad = true) : s.Marked c (s.check c slot f) :=
  State.each_marked _ (fun t k => t.modBatch_marked c k marks nacks) s

theorem State.tallyCount_agg (s : State) (a : Nat) : s.agg ⊆ (s.tallyCount a).agg := by
  have counted : (s.tallyCount a).agg = .tallyFail a :: s.agg := by
    rw [State.tallyCount, State.perf_frame]
    rfl
  rw [counted]
  exact List.subset_cons_self ..
theorem State.readFail_agg (s : State) (a ctx : Nat) : s.agg ⊆ (s.readFail a ctx).agg := by
  unfold State.readFail
  split_ifs
  · exact s.tallyCount_agg a
  · rw [State.tallyFail, (State.healthEvent_keeps (B := [.history]) (.refl _) (by decide) ..).same .agg (by decide)]
    exact s.tallyCount_agg a
theorem State.checkedRead_marked (s : State) (c slot a n : Nat) (ups : List Upset) : s.Marked c (s.checkedRead c slot a n ups) := by
  unfold State.checkedRead
  dsimp only
  have events : Keeps [.history, .memChecks, .obs] s
      ((s.perf 0x13 (hbmUnits a n) (loomOfAddr a) none none).eccEvents c (struckUnits ups a n)) :=
    State.eccEvents_keeps (State.perf_keeps (.refl s) (by decide) ..) (by decide) ..
  have counted := events.marked_quiet (c := c) (by decide)
  refine .trans ?_ (State.each_marked _ (fun t k => ?_) _)
  · split_ifs
    · exact counted.trans (State.check_marked _ c slot (fun x e => absurd (congrArg Check.eccCorr e) (by simp)) fun _ h => h)
    · exact counted
  · have failed : Keeps [.history, .memChecks, .obs, .agg] t (t.readFail (k * 4096) c) :=
      State.readFail_keeps (.refl t) (by decide) ..
    exact (failed.marked (by decide) (t.readFail_agg ..)).trans
      (State.check_marked _ c slot (fun x e => absurd (congrArg Check.tallyBad e) (by simp)) fun _ h => h)
theorem State.report_marked (s : State) (c : Nat) (r : Report) : s.Marked c (s.report r) :=
  (State.report_keeps (B := [.agg]) (.refl s) (by decide) r).marked (by decide) (List.subset_cons_self ..)
theorem State.perf_marked (s : State) (c ev n loom : Nat) (ctx unit : Option Nat) : s.Marked c (s.perf ev n loom ctx unit) :=
  (State.perf_keeps (B := [.obs]) (.refl s) (by decide) ..).marked_quiet (by decide)
theorem State.refusedHere_marked (s : State) (c l : Nat) (st : PlanStep) (status : Nat) :
    s.Marked c (s.refusedHere c l st status) :=
  (((s.report_marked c _).trans (State.report_marked _ c _)).trans
    (State.check_marked _ c st.slot (fun x e => absurd (congrArg Check.nackBad e) (by simp)) fun _ _ => rfl)).trans
      (State.perf_marked ..)
theorem State.unitRead_marked (s : State) (c l : Nat) (st : PlanStep) (a n : Nat) (ups : List Upset) :
    s.Marked c (s.unitRead c l st a n ups) := by
  unfold State.unitRead
  dsimp only
  split_ifs
  · exact .refl s
  · exact s.checkedRead_marked ..
  · exact (s.refusedHere_marked ..).trans
      ((State.fresh_keeps (B := [.tick]) (.refl _) (by decide)).marked_quiet (by decide))

/-- A refusal within the package: both ends report, and the slots of the step are marked (R22, R150). -/
structure State.RefusedAt (c slot status : Nat) (s t : State) : Prop where
  got : Report.nackGot status ∈ t.agg
  sent : Report.nackSent status ∈ t.agg
  marked : ∀ k ∈ s.servedSlots c slot, (t.batch c k).attempt.nackBad = true
theorem State.refusedHere_refused (s : State) (c l : Nat) (st : PlanStep) (status : Nat) :
    s.RefusedAt c st.slot status (s.refusedHere c l st status) := by
  have counted : Keeps [.obs] (((s.report (.nackSent status)).report (.nackGot status)).check c st.slot
      fun k => { k with nackBad := true }) (s.refusedHere c l st status) := State.perf_keeps (.refl _) (by decide) ..
  have checked := State.check_keeps (B := [.ctxs]) (.refl ((s.report (.nackSent status)).report (.nackGot status))) (by decide) c
    st.slot fun k => { k with nackBad := true }
  have agg : (s.refusedHere c l st status).agg = .nackGot status :: .nackSent status :: s.agg :=
    (counted.same .agg (by decide)).trans (checked.same .agg (by decide))
  refine ⟨by rw [agg]; exact List.mem_cons_self, by rw [agg]; exact List.mem_cons_of_mem _ List.mem_cons_self, fun k served => ?_⟩
  rw [counted.batch_eq (by decide)]
  exact State.check_attempt (p := fun a => a.nackBad = true) (fun _ => rfl) served
theorem State.RefusedAt.after {slot status : Nat} (h : s.RefusedAt c slot status t) (later : t.Marked c u) :
    s.RefusedAt c slot status u :=
  ⟨later.agg h.got, later.agg h.sent, fun k hk => later.nacks k (h.marked k hk)⟩
theorem State.RefusedAt.before {slot status : Nat} (h : t.RefusedAt c slot status u) (earlier : s.Marked c t) :
    s.RefusedAt c slot status u :=
  ⟨h.got, h.sent, fun k hk => h.marked k (earlier.slots.servedSlots slot hk)⟩

/-! ## What an access is judged by -/

/-- From `s` to `t` nothing has changed that an access by a step of context `c` is judged by. -/
structure State.Alike (c : Nat) (s t : State) : Prop where
  marked : s.Marked c t
  mem : t.mem = s.mem
  kvt : t.kvt = s.kvt
  streams : t.srv.streams = s.srv.streams
  troubled : ∀ k i, t.troubled k i = s.troubled k i

theorem Keeps.alike (k : Keeps B s t) (hb : Block.mem ∉ B ∧ Block.kvt ∉ B ∧ Block.streams ∉ B ∧ Block.domains ∉ B)
    (m : s.Marked c t) : s.Alike c t :=
  ⟨m, k.same .mem hb.1, k.same .kvt hb.2.1, k.same .streams hb.2.2.1, k.troubled_eq hb.2.2.2⟩

section
variable (h : s.Alike c t)
include h
theorem State.Alike.image : t.image c = s.image c := by rw [State.image, h.marked.slots.ctl, State.image]
theorem State.Alike.arena (d : Nat) : t.arena d = s.arena d := by rw [State.arena, h.kvt, State.arena]
theorem State.Alike.frameSize (d : Nat) : t.frameSize d = s.frameSize d := by rw [State.frameSize, h.arena, State.frameSize]
theorem State.Alike.inArena (d a n : Nat) : t.inArena d a n = s.inArena d a n := by
  rw [State.inArena, h.frameSize, h.arena, State.inArena]
theorem State.Alike.memTroubled (a : Nat) : t.memTroubled a = s.memTroubled a := by
  simp only [State.memTroubled, h.troubled]
/-- Some other enabled plan answers for the range, as before. -/
theorem State.Alike.elsewhere (p : State → Nat → Bool) (hp : ∀ d, d ≠ c → p t d = p s d) :
    t.enabled.any (fun d => d != c && p t d) = s.enabled.any fun d => d != c && p s d := by
  rw [Bool.eq_iff_iff, List.any_eq_true, List.any_eq_true]
  have enabled {d : Nat} (hd : d ≠ c) : d ∈ t.enabled ↔ d ∈ s.enabled := by
    rw [State.enabled, State.enabled, List.mem_filter, List.mem_filter, h.marked.nums d hd, h.marked.other d hd]
  constructor <;> rintro ⟨d, listed, found⟩ <;> obtain ⟨hd, answers⟩ := Bool.and_eq_true_iff.mp found
  · have hd' := bne_iff_ne.mp hd
    exact ⟨d, (enabled hd').mp listed, Bool.and_eq_true_iff.mpr ⟨hd, hp d hd' ▸ answers⟩⟩
  · have hd' := bne_iff_ne.mp hd
    exact ⟨d, (enabled hd').mpr listed, Bool.and_eq_true_iff.mpr ⟨hd, (hp d hd').symm ▸ answers⟩⟩
theorem State.Alike.answers {d : Nat} (hd : d ≠ c) (a n : Nat) :
    ((regionOf (t.image d) a n).isSome || t.inArena d a n) = ((regionOf (s.image d) a n).isSome || s.inArena d a n) := by
  rw [State.image, h.marked.other d hd, h.inArena, State.image]
theorem State.Alike.others (a n : Nat) :
    t.enabled.any (fun e => e != c && ((regionOf (t.image e) a n).isSome || t.inArena e a n)) =
      s.enabled.any (fun e => e != c && ((regionOf (s.image e) a n).isSome || s.inArena e a n)) :=
  h.elsewhere (fun v e => (regionOf (v.image e) a n).isSome || v.inArena e a n) fun _ hd => h.answers hd a n
theorem State.Alike.fabricStatus (l opc a n : Nat) : t.fabricStatus c l opc a n = s.fabricStatus c l opc a n := by
  rw [State.fabricStatus, h.memTroubled, h.inArena, h.image, h.others, State.fabricStatus]
theorem State.Alike.frameClosed (a n : Nat) : t.frameClosed a n = s.frameClosed a n := by
  simp only [State.frameClosed, State.listedEntries, State.ptEntry, State.ptAddr, State.read, h.frameSize, h.mem, h.kvt]
theorem State.Alike.takes (opc a n : Nat) : t.takes c opc a n = s.takes c opc a n := by
  rw [State.takes, h.marked.slots.ctl, h.frameClosed, h.image, h.inArena, State.takes]
theorem State.Alike.nackStatus (opc a n : Nat) : t.nackStatus c opc a n = s.nackStatus c opc a n := by
  rw [State.nackStatus, h.memTroubled, h.takes, h.others, State.nackStatus]
theorem State.Alike.wordRegion (a n : Nat) : t.wordRegion c a n = s.wordRegion c a n := by
  rw [State.wordRegion, h.image, State.wordRegion]
theorem State.Alike.handingOff (st : PlanStep) : t.handingOff c st = s.handingOff c st := by
  rw [State.handingOff, h.marked.slots.req, State.handingOff]
theorem State.Alike.stream (r : Nat) : t.stream r = s.stream r := by rw [State.stream, h.streams, State.stream]
theorem State.Alike.readLe (a n : Nat) : t.readLe a n = s.readLe a n := by
  rw [State.readLe, State.read_of_mem h.mem, State.readLe]
theorem State.Alike.smapAddr (r : Nat) : t.smapAddr r = s.smapAddr r := by rw [State.smapAddr, h.kvt, State.smapAddr]
theorem State.Alike.streamEntries (r : Nat) : t.streamEntries r = s.streamEntries r := by
  simp only [State.streamEntries, State.smapPages, State.smapPtBase, State.ptEntry, State.ptAddr, h.smapAddr, h.readLe, h.stream,
    State.read_of_mem h.mem, h.kvt]
theorem State.Alike.commitOf (r : Nat) : t.commitOf r = s.commitOf r := by
  rw [State.commitOf, h.smapAddr, h.readLe, State.commitOf]
theorem State.Alike.handOffBlocks (l i : Nat) (st : PlanStep) : t.handOffBlocks c l i st = s.handOffBlocks c l i st := by
  rw [State.handOffBlocks, State.handOffBlocks, h.handingOff]
  cases s.handingOff c st with
  | none => rfl
  | some q =>
    dsimp only
    rw [h.image, h.streamEntries, h.commitOf, h.frameSize]
theorem State.Alike.storedTally (k : Nat) : t.storedTally k = s.storedTally k := by
  rw [State.storedTally, State.read_of_mem h.mem, State.blockErr, h.mem, State.storedTally, State.blockErr]
end

/-! ## Pages that are handed off (R39, R218) -/

/-- A block of a page that leaves for another module. -/
def State.pageOutput (s : State) (path : Nat) (q : Request) (b : Nat × Nat × Nat × Nat) : Output :=
  .pageOut path (s.stream q.stream).recvPlace (s.stream q.stream).recvStream b.1 b.2.1 b.2.2.1 (s.read b.2.2.2 4096)
    (s.storedTally (b.2.2.2 / 4096))
/-- A block is read and leaves. -/
def State.sendBlock (c slot path : Nat) (x : Stream) (s : State) (b : Nat × Nat × Nat × Nat) : State :=
  (s.checkedRead c slot b.2.2.2 4096 []).emit (.pageOut path x.recvPlace x.recvStream b.1 b.2.1 b.2.2.1 (s.read b.2.2.2 4096)
    (s.storedTally (b.2.2.2 / 4096)))
theorem State.handOff_none {l i : Nat} {st : PlanStep} (h : s.handingOff c st = none) : s.handOff c l i st = s := by
  rw [State.handOff, h]
theorem State.handOff_some {l i : Nat} {st : PlanStep} {q : Request} (h : s.handingOff c st = some q) : s.handOff c l i st =
    State.each (s.handOffBlocks c l i st) (State.sendBlock c st.slot (9 * l + st.unit) (s.stream q.stream)) s := by
  rw [State.handOff, h]
  rfl
theorem State.sendBlock_alike (s : State) (c slot path : Nat) (x : Stream) (b : Nat × Nat × Nat × Nat) :
    s.Alike c (s.sendBlock c slot path x b) := by
  have read : Keeps [.ctxs, .history, .memChecks, .obs, .agg] s (s.checkedRead c slot b.2.2.2 4096 []) :=
    State.checkedRead_keeps (.refl s) (by decide) ..
  have sent : Keeps [.out] (s.checkedRead c slot b.2.2.2 4096 []) (s.sendBlock c slot path x b) :=
    State.emit_keeps (.refl _) (by decide) _
  have marked := (s.checkedRead_marked c slot b.2.2.2 4096 []).trans (sent.marked_quiet (by decide))
  have both : Keeps [.ctxs, .history, .memChecks, .obs, .agg, .out] s (s.sendBlock c slot path x b) :=
    State.emit_keeps (State.checkedRead_keeps (.refl s) (by decide) ..) (by decide) _
  exact both.alike (by decide) marked

theorem State.sendBlocks_alike (l : List (Nat × Nat × Nat × Nat)) (s : State) (c slot path : Nat) (x : Stream) :
    s.Alike c (State.each l (State.sendBlock c slot path x) s) := by
  have keeps : Keeps [.ctxs, .history, .memChecks, .obs, .agg, .out] s (State.each l (State.sendBlock c slot path x) s) :=
    State.each_keeps (.refl s) fun t b k => State.emit_keeps (State.checkedRead_keeps k (by decide) ..) (by decide) _
  exact keeps.alike (by decide) (State.each_marked l (fun t b => (t.sendBlock_alike c slot path x b).marked) s)
/-- The blocks leave one after another, as memory holds them. -/
theorem State.sendBlocks_out (l : List (Nat × Nat × Nat × Nat)) (s : State) (c slot path : Nat) (x : Stream) :
    (State.each l (State.sendBlock c slot path x) s).out =
      (l.map fun b => Output.pageOut path x.recvPlace x.recvStream b.1 b.2.1 b.2.2.1 (s.read b.2.2.2 4096)
        (s.storedTally (b.2.2.2 / 4096))).reverse ++ s.out := by
  induction l generalizing s with
  | nil => rfl
  | cons b l ih =>
    have alike := s.sendBlock_alike c slot path x b
    have first : (s.sendBlock c slot path x b).out = .pageOut path x.recvPlace x.recvStream b.1 b.2.1 b.2.2.1 (s.read b.2.2.2 4096)
        (s.storedTally (b.2.2.2 / 4096)) :: s.out := by
      rw [State.sendBlock, State.emit, (State.checkedRead_keeps (B := [.ctxs, .history, .memChecks, .obs, .agg]) (.refl s)
        (by decide) c slot b.2.2.2 4096 []).same .out (by decide)]
    refine (ih (s.sendBlock c slot path x b)).trans ?_
    simp only [State.read_of_mem alike.mem, alike.storedTally, first, List.map_cons, List.reverse_cons, List.append_assoc,
      List.singleton_append]
/-- Handing off sends blocks and reads them; nothing that an access is judged by changes. -/
theorem State.handOff_alike (s : State) (c l i : Nat) (st : PlanStep) : s.Alike c (s.handOff c l i st) := by
  cases h : s.handingOff c st with
  | none =>
    rw [State.handOff_none h]
    exact (Keeps.refl (B := []) s).alike (by decide) (.refl s)
  | some q =>
    rw [State.handOff_some h]
    exact State.sendBlocks_alike ..

/-! ## PUT and ADD -/

/-- The pieces of the source, as a unit of the loom reads it. -/
def State.sourcePieces (s : State) (c l : Nat) (st : PlanStep) (ups : List Upset) : List Piece :=
  (s.seenBy c l [] [(addrLocal st.src, st.length)]).cutPieces (s.seenBy c l ups [(addrLocal st.src, st.length)]) State.read
    (addrLocal st.src) st.length
theorem State.sourcePieces_bytes (s : State) (c l : Nat) (st : PlanStep) (ups : List Upset) :
    pieceBytes (s.sourcePieces c l st ups) =
      (s.seenBy c l ups [(addrLocal st.src, st.length)]).read (addrLocal st.src) st.length :=
  State.cutPieces_bytes (byte := (s.seenBy c l ups [(addrLocal st.src, st.length)]).byte) _ _ (fun _ _ => State.read_eq ..) _ _
theorem State.read_length (s : State) (a n : Nat) : (s.read a n).length = n := by simp [State.read_eq]

/-- The state in which a move has read its source. -/
def State.sourced (s : State) (c l : Nat) (st : PlanStep) (ups : List Upset) : State :=
  (s.perfIssued c l st).unitRead c l st (addrLocal st.src) st.length ups
theorem State.sourced_keeps (s : State) (c l : Nat) (st : PlanStep) (ups : List Upset) :
    Keeps [.tick, .ctxs, .history, .memChecks, .obs, .agg] s (s.sourced c l st ups) :=
  State.unitRead_keeps (State.perfIssued_keeps (.refl s) (by decide) ..) (by decide) ..
theorem State.sourced_alike (s : State) (c l : Nat) (st : PlanStep) (ups : List Upset) : s.Alike c (s.sourced c l st ups) :=
  (s.sourced_keeps c l st ups).alike (by decide)
    (((State.perfIssued_keeps (B := [.obs]) (.refl s) (by decide) c l st).marked_quiet (by decide)).trans (State.unitRead_marked ..))

/-- The STATUS with which the destination of a move within the package refuses it, 0 where it takes it. -/
def State.moveStatus (s : State) (c l opc : Nat) (st : PlanStep) : Nat :=
  if st.unit = 0x1F then s.fabricStatus c l opc (addrLocal st.dst) st.length else s.nackStatus c opc (addrLocal st.dst) st.length
theorem State.Alike.moveStatus (h : s.Alike c t) (l opc : Nat) (st : PlanStep) :
    t.moveStatus c l opc st = s.moveStatus c l opc st := by
  rw [State.moveStatus, h.fabricStatus, h.nackStatus, State.moveStatus]

/-- What a PUT or an ADD does with pieces `ps` once it has read its source. -/
def State.putPieces (s : State) (c l opc : Nat) (st : PlanStep) (ps : List Piece) : State :=
  if st.unit ≤ 8 then s.sendStepOp c l opc (addrPlace st.dst) (addrLocal st.dst) 0 st ps
  else if s.moveStatus c l opc st != 0 then s.refusedHere c l st (s.moveStatus c l opc st)
  else if st.unit ≠ 0x1F ∨ opc = 4 ∨ s.wordRegion c (addrLocal st.dst) st.length = true then
    s.land opc (s.wordRegion c (addrLocal st.dst) st.length) (addrLocal st.dst) ps
  else ((s.unitWrite (addrLocal st.dst) (pieceBytes ps)).countWrite (addrLocal st.dst) st.length).arrived (addrLocal st.dst) st.length
theorem State.putWork_eq (s : State) (c l opc : Nat) (st : PlanStep) (ups : List Upset) :
    s.putWork c l opc st ups = (s.sourced c l st ups).putPieces c l opc st (s.sourcePieces c l st ups) := by
  by_cases port : st.unit ≤ 8
  · rw [State.putPieces, if_pos port]
    exact if_pos port
  by_cases fabric : st.unit = 0x1F
  · rw [State.putPieces, if_neg port, State.moveStatus, if_pos fabric]
    simp only [fabric, ne_eq, not_true_eq_false, false_or]
    refine (if_neg port).trans ((if_pos fabric).trans rfl)
  · rw [State.putPieces, if_neg port, State.moveStatus, if_neg fabric]
    simp only [fabric, ne_eq, not_false_eq_true, true_or, if_true]
    exact (if_neg port).trans ((if_neg fabric).trans rfl)

section
variable {l opc : Nat} {st : PlanStep} {ps : List Piece}
theorem State.putPieces_port (port : st.unit ≤ 8) :
    s.putPieces c l opc st ps = s.sendStepOp c l opc (addrPlace st.dst) (addrLocal st.dst) 0 st ps := if_pos port
theorem State.putPieces_refused (inside : 8 < st.unit) (refused : s.moveStatus c l opc st ≠ 0) :
    s.putPieces c l opc st ps = s.refusedHere c l st (s.moveStatus c l opc st) := by
  rw [State.putPieces, if_neg (Nat.not_le.mpr inside), if_pos (bne_iff_ne.mpr refused)]
section
variable (inside : 8 < st.unit) (taken : s.moveStatus c l opc st = 0)
include inside taken
theorem State.putPieces_lands (lands : st.unit ≠ 0x1F ∨ opc = 4 ∨ s.wordRegion c (addrLocal st.dst) st.length = true) :
    s.putPieces c l opc st ps = s.land opc (s.wordRegion c (addrLocal st.dst) st.length) (addrLocal st.dst) ps := by
  rw [State.putPieces, if_neg (Nat.not_le.mpr inside), if_neg (by rw [taken]; decide), if_pos lands]
theorem State.putPieces_writes (plain : ¬(st.unit ≠ 0x1F ∨ opc = 4 ∨ s.wordRegion c (addrLocal st.dst) st.length = true)) :
    s.putPieces c l opc st ps =
      ((s.unitWrite (addrLocal st.dst) (pieceBytes ps)).countWrite (addrLocal st.dst) st.length).arrived (addrLocal st.dst)
        st.length := by
  rw [State.putPieces, if_neg (Nat.not_le.mpr inside), if_neg (by rw [taken]; decide), if_neg plain]
end
end

theorem State.Alike.trans (h : s.Alike c t) (h' : t.Alike c u) : s.Alike c u :=
  ⟨h.marked.trans h'.marked, h'.mem.trans h.mem, h'.kvt.trans h.kvt, h'.streams.trans h.streams,
    fun k i => (h'.troubled k i).trans (h.troubled k i)⟩
theorem State.Alike.refl (s : State) : s.Alike c s := (Keeps.refl (B := []) s).alike (by decide) (.refl s)

/-! ### What has been read -/

theorem State.seenBy_startRun_read (s : State) (d : Due) (out : Nat) (mid : Option Int) (c l : Nat) (ups : List Upset)
    (reads : List (Nat × Nat)) (a n : Nat) :
    ((s.startRun d out mid).seenBy c l ups reads).read a n = (s.seenBy c l ups reads).read a n := by
  rw [State.startRun_frame]
  rfl
theorem State.startRun_alike (s : State) (d : Due) (out : Nat) (mid : Option Int) (c : Nat) : s.Alike c (s.startRun d out mid) :=
  have keeps : Keeps [.sched, .obs] s (s.startRun d out mid) := State.startRun_keeps (.refl s) (by decide) ..
  keeps.alike (by decide) (keeps.marked_quiet (by decide))
/-- A unit sees its own loom's memory as it is, where no upset strikes. -/
theorem State.seenBy_own {l a : Nat} (own : loomOfAddr a = l) (s : State) (c n : Nat) : s.seenBy c l [] [(a, n)] = s := by
  have taken : s.fabricStatus c l 2 a n = 0 := if_pos own
  simp only [State.seenBy, List.foldl_cons, List.foldl_nil, taken, if_true]
  rfl
theorem State.rangeErr_clean (clean : s.mem.tallyErr = []) (a n : Nat) : s.rangeErr a n = 0 := by
  have blocks (l : List Nat) : l.foldl (fun e k => e ^^^ s.blockErr k) 0 = 0 := by
    induction l with
    | nil => rfl
    | cons k l ih =>
      have none_ : (0 : Word) ^^^ 0 = 0 := by decide
      rw [List.foldl_cons, State.blockErr, clean, Tab.getD_empty, none_]
      exact ih
  exact blocks _
/-- Pieces cut from memory whose stored tallies are in order carry their own tallies, and hold whole words of a range of whole
words. -/
theorem State.cutPieces_whole (clean : s.mem.tallyErr = []) {a n : Nat} (whole : n % 8 = 0) :
    ∀ p ∈ s.cutPieces s State.read a n, pieceErr p = 0 ∧ p.data.length % 8 = 0 := by
  intro p hp
  obtain ⟨j, -, rfl⟩ := List.mem_map.mp hp
  refine ⟨?_, ?_⟩
  · have same (x : Word) : x ^^^ 0 ^^^ x = 0 := by simp
    exact (congrArg (fun e => _ ^^^ e ^^^ _) (State.rangeErr_clean clean ..)).trans (same _)
  · rw [State.read_length]
    omega
theorem State.le_read (s : State) {a n j : Nat} (h : 8 * j + 8 ≤ n) : le (s.read a n) (8 * j) 8 = s.readLe (a + 8 * j) 8 := by
  have split : s.read a n = s.read a (8 * j) ++ (s.read (a + 8 * j) 8 ++ s.read (a + 8 * j + 8) (n - (8 * j + 8))) := by
    rw [← State.read_append, ← State.read_append]
    congr 1
    omega
  have len := s.read_length a (8 * j)
  have found := le_append_right (s.read a (8 * j)) (s.read (a + 8 * j) 8 ++ s.read (a + 8 * j + 8) (n - (8 * j + 8))) 0 8
  rw [len, show 8 * j + 0 = 8 * j from rfl] at found
  rw [split, found, le_append_left _ (by rw [State.read_length]), le, List.drop_zero,
    List.take_of_length_le (by rw [State.read_length]), State.readLe]

/-! ### Where it goes -/

theorem State.sendStepOp_frame (s : State) (c l opc dst dstAddr srcAddr : Nat) (st : PlanStep) (ps : List Piece) :
    s.sendStepOp c l opc dst dstAddr srcAddr st ps = { s with
      ports := (s.sendStepOp c l opc dst dstAddr srcAddr st ps).ports
      out := .remote (9 * l + st.unit) (sealOp ⟨opc, 0, planPlace (s.image c), dst, c, dstAddr, srcAddr, st.length, 0, ps⟩) ::
        s.out } := s.issue_frame ..

/-- What lands as received. -/
theorem State.land_put (s : State) (words : Bool) (a : Nat) (ps : List Piece) :
    s.land 1 words a ps = s.applyPut words 0xFFFF a ps := rfl
theorem State.land_add (s : State) (words : Bool) (a : Nat) (ps : List Piece) : s.land 4 words a ps = s.applyAdd 0xFFFF a ps := rfl

/-- A piece that has arrived is counted, and one that has failed is reported. -/
def State.countPiece (path : Nat) (s : State) (x : Nat × Piece) : State :=
  (if pieceErr x.2 = 0 then s else s.pieceFail x.1 path).countWrite x.1 x.2.data.length
theorem State.countPiece_keeps (h : Keeps B s t) (hB : [Block.history, .obs, .agg] ⊆ B) (path : Nat) (x : Nat × Piece) :
    Keeps B s (t.countPiece path x) := by
  refine State.countWrite_keeps ?_ (List.Subset.trans (by decide) hB) ..
  split_ifs
  · exact h
  · exact State.pieceFail_keeps h (List.Subset.trans (by decide) hB) ..
/-- A PUT of whole words into reduction words. -/
def State.storePiece (path : Nat) (s : State) (x : Nat × Piece) : State :=
  if true && pieceErr x.2 == 0 then
    State.each (List.range (x.2.data.length / 8)) (fun s j => s.redPut true (x.1 + 8 * j) (parseRed (le x.2.data (8 * j) 8)))
      (s.countPiece path x)
  else (s.countPiece path x).pieceWrite x.1 x.2.data (pieceErr x.2)
theorem State.applyPut_words (s : State) (path a : Nat) (ps : List Piece) : s.applyPut true path a ps =
    (State.each (placePieces a ps) (State.storePiece path) s).arrived a (sumNat (ps.map fun p => p.data.length)) := rfl
theorem RedWord.Fits.redStore {w : RedWord} (h : w.Fits) : (redStore w).Fits := h
theorem State.storePiece_good {path : Nat} {p : Piece} (good : pieceErr p = 0) (whole : p.data.length % 8 = 0) (s : State) (a : Nat) :
    s.Words (fun _ op => redStore op) a p.data (s.storePiece path (a, p)) := by
  have goes : (true && pieceErr p == 0) = true := by rw [good]; decide
  have counted := (State.countPiece_keeps (B := [.history, .obs, .agg]) (.refl s) (by decide) path (a, p)).same .mem (by decide)
  rw [State.storePiece, if_pos goes]
  refine (State.each_words p.data (fun s j hj => ?_) whole _).before counted
  have word : ((p.data.drop (8 * j)).take 8).length = 8 := by rw [List.length_take, List.length_drop]; omega
  have step := s.write_words (f := fun _ op => redStore op) (a + 8 * j) word (parseRed_fits _).redStore
  rwa [le_drop_take] at step
theorem State.storePieces_kvt (s : State) (path : Nat) (l : List (Nat × Piece)) :
    (State.each l (State.storePiece path) s).kvt = s.kvt := by
  have kept : Keeps [.mem, .history, .obs, .agg] s (State.each l (State.storePiece path) s) := by
    refine State.each_keeps (.refl s) fun t x k => ?_
    have counted := State.countPiece_keeps k (by decide) path x
    unfold State.storePiece
    split_ifs
    · exact State.each_keeps counted fun u j h => State.redPut_keeps h (by decide) ..
    · exact State.pieceWrite_keeps counted (by decide) ..
  exact kept.same .kvt (by decide)

/-- What a move of whole words does to a word of its destination. -/
def moveWord (opc : Nat) (old op : RedWord) : RedWord := if opc = 4 then redAdd old op else redStore op
theorem State.land_words {opc : Nat} (kind : opc = 1 ∨ opc = 4) {ps : List Piece}
    (good : ∀ p ∈ ps, pieceErr p = 0 ∧ p.data.length % 8 = 0) {words : Bool}
    (lands : opc = 4 ∨ words = true ∧ s.kvt.unpublished = []) (a : Nat) :
    s.Words (moveWord opc) a (pieceBytes ps) (s.land opc words a ps) := by
  have all : ∀ p ∈ ps, (pieceErr p = 0 ∧ p.data.length % 8 = 0) ∧ p.data.length % 8 = 0 := fun p hp => ⟨good p hp, (good p hp).2⟩
  rcases kind with rfl | rfl
  · obtain ⟨rfl, waits⟩ := lands.resolve_left (by decide)
    have kvt := s.storePieces_kvt 0xFFFF (placePieces a ps)
    have stored := State.each_pieceWords (good := fun p => pieceErr p = 0 ∧ p.data.length % 8 = 0)
      (fun s a p good => State.storePiece_good (path := 0xFFFF) good.1 good.2 s a) ps all s a
    rw [State.land_put, State.applyPut_words]
    exact stored.after (State.arrived_mem (by rw [kvt]; exact waits) ..)
  · rw [State.land_add, State.applyAdd_eq]
    exact State.each_pieceWords (good := fun p => pieceErr p = 0 ∧ p.data.length % 8 = 0)
      (fun s a p good => State.addPiece_good (path := 0xFFFF) good.1 good.2 s a) ps all s a

end Sys2Proof.Machine
end

section
/-! PUT, GET and ADD steps from their start to their end (R22, R110, R149, R150). -/

-- one proof at a time: side by side, their stacks and heaps do not fit beside the rest of the text
set_option Elab.async false

namespace Sys2Proof.Machine

variable {s t u v : State} {c l opc : Nat} {st : PlanStep} {ups : List Upset}

theorem State.refusedHere_mem (s : State) (c l : Nat) (st : PlanStep) (status : Nat) : (s.refusedHere c l st status).mem = s.mem :=
  (State.refusedHere_keeps (B := [.ctxs, .obs, .agg]) (.refl s) (by decide) ..).same .mem (by decide)

/-! ## PUT and ADD -/

section
variable (s)
variable (c l opc st ups)
/-- Through a port: the operation leaves, and nothing that an access is judged by changes. -/
theorem State.putWork_port (port : st.unit ≤ 8) : s.Alike c (s.putWork c l opc st ups) ∧
    (s.putWork c l opc st ups).out = .remote (9 * l + st.unit) (sealOp ⟨opc, 0, planPlace (s.image c), addrPlace st.dst, c,
      addrLocal st.dst, 0, st.length, 0, s.sourcePieces c l st ups⟩) :: s.out := by
  have read := s.sourced_alike c l st ups
  have out := (s.sourced_keeps c l st ups).same .out (by decide)
  rw [State.putWork_eq, State.putPieces_port port]
  have sent := State.sendStepOp_keeps (B := [.ports, .out]) (.refl (s.sourced c l st ups)) (by decide) c l opc (addrPlace st.dst)
    (addrLocal st.dst) 0 st (s.sourcePieces c l st ups)
  refine ⟨read.trans (sent.alike (by decide) (sent.marked_quiet (by decide))), ?_⟩
  rw [State.sendStepOp_frame, read.image]
  exact congrArg (_ :: ·) out
/-- Refused within the package: nothing is written. -/
theorem State.putWork_refused (inside : 8 < st.unit) (refused : s.moveStatus c l opc st ≠ 0) :
    (s.putWork c l opc st ups).mem = s.mem ∧ s.RefusedAt c st.slot (s.moveStatus c l opc st) (s.putWork c l opc st ups) := by
  have read := s.sourced_alike c l st ups
  have status := read.moveStatus l opc st
  rw [State.putWork_eq, State.putPieces_refused inside (by rwa [status]), status]
  exact ⟨(State.refusedHere_mem ..).trans read.mem,
    (State.refusedHere_refused ..).before read.marked⟩
/-- Bytes that the memory takes are copied. -/
theorem State.putWork_fills (inside : 8 < st.unit) (taken : s.moveStatus c l 1 st = 0)
    (bytes : s.wordRegion c (addrLocal st.dst) st.length = false) (waits : s.kvt.unpublished = []) :
    s.Fills (addrLocal st.dst) (pieceBytes (s.sourcePieces c l st ups)) (s.putWork c l 1 st ups) := by
  have read := s.sourced_alike c l st ups
  have taken' : (s.sourced c l st ups).moveStatus c l 1 st = 0 := by rwa [read.moveStatus]
  have bytes' : (s.sourced c l st ups).wordRegion c (addrLocal st.dst) st.length = false := by rwa [read.wordRegion]
  have waits' : (s.sourced c l st ups).kvt.unpublished = [] := by rwa [read.kvt]
  rw [State.putWork_eq]
  generalize s.sourced c l st ups = v at read taken' bytes' waits'
  refine .before ?_ read.mem
  by_cases fabric : st.unit = 0x1F
  · rw [State.putPieces_writes inside taken' (by simp [fabric, bytes'])]
    have kvt := (State.countWrite_keeps (B := [.mem, .obs]) (State.unitWrite_keeps (.refl v) (by decide) (addrLocal st.dst)
      (pieceBytes (s.sourcePieces c l st ups))) (by decide) (addrLocal st.dst) st.length).same .kvt (by decide)
    exact ((v.unitWrite_fills ..).after (State.countWrite_mem ..)).after (State.arrived_mem (by rw [kvt]; exact waits') ..)
  · rw [State.putPieces_lands inside taken' (.inl fabric), bytes', State.land_put]
    exact State.applyPut_fills waits' ..
/-- Words that the memory takes are stored or added. -/
theorem State.putWork_words (kind : opc = 1 ∨ opc = 4) (inside : 8 < st.unit) (taken : s.moveStatus c l opc st = 0)
    (own : loomOfAddr (addrLocal st.src) = l) (whole : st.length % 8 = 0) (clean : s.mem.tallyErr = [])
    (lands : opc = 4 ∨ s.wordRegion c (addrLocal st.dst) st.length = true ∧ s.kvt.unpublished = []) :
    s.Words (moveWord opc) (addrLocal st.dst) (s.read (addrLocal st.src) st.length) (s.putWork c l opc st []) := by
  have read := s.sourced_alike c l st []
  have taken' : (s.sourced c l st []).moveStatus c l opc st = 0 := by rwa [read.moveStatus]
  have bytes := s.sourcePieces_bytes c l st []
  have good : ∀ p ∈ s.sourcePieces c l st [], pieceErr p = 0 ∧ p.data.length % 8 = 0 := by
    rw [State.sourcePieces, State.seenBy_own own]
    exact State.cutPieces_whole clean whole
  rw [State.seenBy_own own] at bytes
  have lands' : opc = 4 ∨ (s.sourced c l st []).wordRegion c (addrLocal st.dst) st.length = true ∧
      (s.sourced c l st []).kvt.unpublished = [] := by rwa [read.wordRegion, read.kvt]
  rw [State.putWork_eq, State.putPieces_lands inside taken' (.inr (lands'.imp_right And.left)), ← bytes]
  exact (State.land_words kind good lands' _).before read.mem
end

/-! ## GET -/

theorem State.getWork_port (port : st.unit ≤ 8) : s.getWork c l st ups =
    (s.perfIssued c l st).sendStepOp c l 2 (addrPlace st.src) (addrLocal st.dst) (addrLocal st.src) st [] := if_pos port
theorem State.getWork_fabric (fabric : st.unit = 0x1F) : s.getWork c l st ups =
    (s.sourced c l st ups).unitStore c l st (addrLocal st.dst)
      (((s.perfIssued c l st).seenBy c l ups [(addrLocal st.src, st.length)]).read (addrLocal st.src) st.length) :=
  (if_neg (by omega)).trans (if_pos fabric)

/-- The state in which the memory behind the source has answered a GET. -/
def State.sourceAnswered (s : State) (c : Nat) (st : PlanStep) (ups : List Upset) : State :=
  (s.noteSealed (addrLocal st.src) st.length).checkedRead c st.slot (addrLocal st.src) st.length ups
/-- The pieces of that answer. -/
def State.answerPieces (s : State) (st : PlanStep) (ups : List Upset) : List Piece :=
  s.cutPieces (s.asRead ups) State.outsideBytes (addrLocal st.src) st.length
theorem State.getWork_package (inside : 8 < st.unit) (package : st.unit ≠ 0x1F) : s.getWork c l st ups =
    let s := s.perfIssued c l st
    if s.nackStatus c 2 (addrLocal st.src) st.length != 0 then s.refusedHere c l st (s.nackStatus c 2 (addrLocal st.src) st.length)
    else if (s.sourceAnswered c st ups).fabricStatus c l 1 (addrLocal st.dst) st.length != 0 then
      (s.sourceAnswered c st ups).refusedHere c l st ((s.sourceAnswered c st ups).fabricStatus c l 1 (addrLocal st.dst) st.length)
    else (s.sourceAnswered c st ups).applyPut false 0xFFFF (addrLocal st.dst) (s.answerPieces st ups) :=
  (if_neg (by omega)).trans (if_neg package)

section
variable (s)
variable (c l st ups)
theorem State.perfIssued_alike : s.Alike c (s.perfIssued c l st) :=
  have keeps : Keeps [.obs] s (s.perfIssued c l st) := State.perfIssued_keeps (.refl s) (by decide) ..
  keeps.alike (by decide) (keeps.marked_quiet (by decide))
theorem State.noteSealed_agg (a n : Nat) : s.agg ⊆ (s.noteSealed a n).agg := by
  unfold State.noteSealed
  split_ifs
  · exact List.subset_cons_self ..
  · exact fun _ h => h
theorem State.sourceAnswered_alike : s.Alike c (s.sourceAnswered c st ups) := by
  have noted : Keeps [.agg] s (s.noteSealed (addrLocal st.src) st.length) := State.noteSealed_keeps (.refl s) (by decide) ..
  have keeps : Keeps [.agg, .ctxs, .history, .memChecks, .obs] s (s.sourceAnswered c st ups) :=
    State.checkedRead_keeps (State.noteSealed_keeps (.refl s) (by decide) ..) (by decide) ..
  exact keeps.alike (by decide) ((noted.marked (by decide) (s.noteSealed_agg ..)).trans (State.checkedRead_marked ..))
theorem State.perfIssued_frame : s.perfIssued c l st = { s with obs := (s.perfIssued c l st).obs } := by
  rw [State.perfIssued, State.perf_frame, State.perf_frame s]
theorem State.answerPieces_bytes : pieceBytes (s.answerPieces st []) = s.outsideBytes (addrLocal st.src) st.length :=
  State.cutPieces_bytes (byte := s.outsideByte) _ _ (fun _ _ => rfl) _ _
end

/-- The answer to a GET within the package is written as outside readers see the source. -/
theorem State.getWork_answers (inside : 8 < st.unit) (package : st.unit ≠ 0x1F)
    (opened : s.nackStatus c 2 (addrLocal st.src) st.length = 0) (taken : s.fabricStatus c l 1 (addrLocal st.dst) st.length = 0)
    (waits : s.kvt.unpublished = []) :
    s.Fills (addrLocal st.dst) ((s.perfIssued c l st).outsideBytes (addrLocal st.src) st.length) (s.getWork c l st []) := by
  have issued := s.perfIssued_alike c l st
  have answered := (s.perfIssued c l st).sourceAnswered_alike c st []
  have landed : s.getWork c l st [] = ((s.perfIssued c l st).sourceAnswered c st []).applyPut false 0xFFFF (addrLocal st.dst)
      ((s.perfIssued c l st).answerPieces st []) := by
    rw [State.getWork_package inside package]
    dsimp only
    rw [issued.nackStatus, opened, answered.fabricStatus, issued.fabricStatus, taken]
    rfl
  have alike := issued.trans answered
  rw [landed, ← State.answerPieces_bytes]
  exact (State.applyPut_fills (by rwa [alike.kvt]) ..).before alike.mem
theorem State.getWork_refused (inside : 8 < st.unit) (refused : s.fabricStatus c l 1 (addrLocal st.dst) st.length ≠ 0)
    (opened : st.unit = 0x1F ∨ s.nackStatus c 2 (addrLocal st.src) st.length = 0) :
    ∃ u, s.Alike c u ∧ s.getWork c l st ups = u.refusedHere c l st (s.fabricStatus c l 1 (addrLocal st.dst) st.length) := by
  by_cases fabric : st.unit = 0x1F
  · have read := s.sourced_alike c l st ups
    refine ⟨_, read, ?_⟩
    rw [State.getWork_fabric fabric, State.unitStore, State.read_length, read.fabricStatus]
    exact if_neg refused
  · have issued := s.perfIssued_alike c l st
    have answered := (s.perfIssued c l st).sourceAnswered_alike c st ups
    refine ⟨_, issued.trans answered, ?_⟩
    rw [State.getWork_package inside fabric]
    dsimp only
    rw [issued.nackStatus, opened.resolve_left fabric, answered.fabricStatus, issued.fabricStatus, if_neg (by decide),
      if_pos (bne_iff_ne.mpr refused)]
theorem State.getWork_closed (inside : 8 < st.unit) (package : st.unit ≠ 0x1F)
    (closed : s.nackStatus c 2 (addrLocal st.src) st.length ≠ 0) :
    s.getWork c l st ups = (s.perfIssued c l st).refusedHere c l st (s.nackStatus c 2 (addrLocal st.src) st.length) := by
  rw [State.getWork_package inside package]
  dsimp only
  rw [(s.perfIssued_alike c l st).nackStatus, if_pos (bne_iff_ne.mpr closed)]

/-- On the local path the unit itself writes what it has read. -/
theorem State.getWork_copies (fabric : st.unit = 0x1F) (taken : s.fabricStatus c l 1 (addrLocal st.dst) st.length = 0) :
    s.Fills (addrLocal st.dst) ((s.seenBy c l ups [(addrLocal st.src, st.length)]).read (addrLocal st.src) st.length)
      (s.getWork c l st ups) := by
  have read := s.sourced_alike c l st ups
  have seen : ((s.perfIssued c l st).seenBy c l ups [(addrLocal st.src, st.length)]).read (addrLocal st.src) st.length =
      (s.seenBy c l ups [(addrLocal st.src, st.length)]).read (addrLocal st.src) st.length := by
    rw [State.perfIssued_frame]
    rfl
  rw [State.getWork_fabric fabric, seen, State.unitStore, State.read_length, read.fabricStatus]
  rw [if_pos taken]
  exact ((State.unitWrite_fills ..).after (State.countWrite_mem ..)).before read.mem

end Sys2Proof.Machine
end

section
/-! The moves and remote issues of steps, settled. -/

-- one proof at a time: side by side, their stacks and heaps do not fit beside the rest of the text
set_option Elab.async false

namespace Sys2Proof.Machine

variable {s t u v : State} {c l i opc k : Nat} {st : PlanStep} {ups : List Upset}

/-- A step has started: what an access is judged by stays, and nothing has left. -/
structure State.Started (c : Nat) (s v : State) : Prop where
  alike : s.Alike c v
  out : v.out = s.out
  seen : ∀ l ups reads a n, (v.seenBy c l ups reads).read a n = (s.seenBy c l ups reads).read a n
  outside : ∀ l st a n, (v.perfIssued c l st).outsideBytes a n = s.outsideBytes a n
theorem State.startRun_started (s : State) (d : Due) (out : Nat) (mid : Option Int) (c : Nat) :
    s.Started c (s.startRun d out mid) where
  alike := s.startRun_alike d out mid c
  out := by rw [State.startRun_frame]
  seen l ups reads a n := s.seenBy_startRun_read d out mid c l ups reads a n
  outside l st a n := by
    rw [State.perfIssued_frame, State.startRun_frame]
    rfl

/-- The blocks that a PUT step hands off leave behind what has left so far (R218). -/
theorem State.handOff_out (h : s.Alike c u) : ∃ pages, (u.handOff c l i st).out = pages ++ u.out ∧
    (s.handingOff c st = none → pages = []) ∧
    ∀ q, s.handingOff c st = some q → pages.reverse = (s.handOffBlocks c l i st).map (s.pageOutput (9 * l + st.unit) q) := by
  cases hand : s.handingOff c st with
  | none =>
    rw [State.handOff_none (by rw [h.handingOff, hand])]
    exact ⟨[], rfl, fun _ => rfl, nofun⟩
  | some q =>
    rw [State.handOff_some (q := q) (by rw [h.handingOff, hand]), State.sendBlocks_out]
    refine ⟨_, rfl, nofun, fun r same => ?_⟩
    cases same
    simp only [List.reverse_reverse, h.handOffBlocks, h.stream, State.read_of_mem h.mem, h.storedTally]
    rfl

theorem stepWork_putStep (c : Fin 256) (l : Fin 5) (i : BitVec 18) (ups : List Upset) (d : Due) (st : PlanStep) (s : State) :
    stepWork (.putStep c l i ups) d st s = (s.putWork c l 1 st ups).handOff c l i.toNat st := rfl
theorem stepWork_addStep (c : Fin 256) (l : Fin 5) (i : BitVec 18) (ups : List Upset) (d : Due) (st : PlanStep) (s : State) :
    stepWork (.addStep c l i ups) d st s = s.putWork c l 4 st ups := rfl
/-- A PUT or an ADD step that may start moves its data; behind a PUT the pages leave that it hands off. -/
theorem exec_move {c : Fin 256} {l : Fin 5} {i : BitVec 18} {d : Due} {cmd : Instr}
    (kind : (cmd = .putStep c l i ups ∧ k = 5 ∧ opc = 1) ∨ (cmd = .addStep c l i ups ∧ k = 7 ∧ opc = 4))
    (may : s.mayStart c.val l.val i.toNat k d) : ∃ v t, exec cmd s = .next t ∧ s.Started c v ∧
      (v.putWork c l opc (s.stepAt c l i.toNat) ups).Alike c t ∧
      (s.Alike c (v.putWork c l opc (s.stepAt c l i.toNat) ups) →
        ∃ pages, t.out = pages ++ (v.putWork c l opc (s.stepAt c l i.toNat) ups).out ∧
          (k = 7 ∨ s.handingOff c (s.stepAt c l i.toNat) = none → pages = []) ∧
          ∀ q, k = 5 → s.handingOff c (s.stepAt c l i.toNat) = some q → pages.reverse =
            (s.handOffBlocks c l i.toNat (s.stepAt c l i.toNat)).map
              (s.pageOutput (9 * l + (s.stepAt c l i.toNat).unit) q)) := by
  have started := s.startRun_started d (s.stepOps c l i.toNat k) none c
  generalize run : s.startRun d (s.stepOps c l i.toNat k) none = v at started
  rcases kind with ⟨rfl, rfl, rfl⟩ | ⟨rfl, rfl, rfl⟩
  · have starts := exec_stepCommand_starts (s := s) (cmd := .putStep c l i ups) rfl may
    rw [run, stepWork_putStep] at starts
    refine ⟨v, _, starts, started, State.handOff_alike .., fun moved => ?_⟩
    obtain ⟨pages, out, none_, some_⟩ := State.handOff_out (l := l) (i := i.toNat) (st := s.stepAt c l i.toNat) moved
    exact ⟨pages, out, fun h => none_ (h.resolve_left (by decide)), fun q _ => some_ q⟩
  · have starts := exec_stepCommand_starts (s := s) (cmd := .addStep c l i ups) rfl may
    rw [run, stepWork_addStep] at starts
    exact ⟨v, _, starts, started, .refl _, fun _ => ⟨[], rfl, fun _ => rfl, nofun⟩⟩
theorem exec_get {c : Fin 256} {l : Fin 5} {i : BitVec 18} {d : Due} (may : s.mayStart c.val l.val i.toNat 6 d) :
    ∃ v, exec (.getStep c l (i, ups)) s = .next (v.getWork c l (s.stepAt c l i.toNat) ups) ∧ s.Started c v :=
  ⟨_, exec_stepCommand_starts rfl may, s.startRun_started d (s.stepOps c l i.toNat 6) none c⟩

/-- The operand of word `j` is the word that stands in the source. -/
theorem State.Words.read {f : RedWord → RedWord → RedWord} {src dst n : Nat} (h : s.Words f dst (s.read src n) t) :
    (∀ j, j < n / 8 → t.redWord (dst + 8 * j) = f (s.redWord (dst + 8 * j)) (s.redWord (src + 8 * j))) ∧
      ∀ b, b < dst ∨ dst + n ≤ b → t.byte b = s.byte b := by
  have word := h.word
  have other := h.other
  rw [State.read_length] at word other
  refine ⟨fun j hj => ?_, other⟩
  rw [word j hj, s.le_read (by omega)]
  rfl
/-- A range of LENGTH bytes that has been written. -/
theorem State.Fills.length {a n : Nat} {bs : Bytes} (h : s.Fills a bs t) (len : bs.length = n) :
    t.read a n = bs ∧ ∀ b, b < a ∨ a + n ≤ b → t.byte b = s.byte b := by
  subst len
  exact ⟨h.read, h.other⟩

end Sys2Proof.Machine

open Sys2Proof Sys2Proof.Machine

/-- Settles O26: a move reads its source in a state that an access is judged alike in, so its STATUS is the one at its start; then it
leaves through its port, lands byte for byte or word for word, or is refused. -/
theorem movesAndRemoteIssues : Obligations.MovesAndRemoteIssues := by
  unfold Obligations.MovesAndRemoteIssues
  refine ⟨fun s c l i ups d cmd k opc kind may => ?_, fun s c l i ups d may => ?_⟩
  · obtain ⟨v, t, runs, started, later, pages⟩ := exec_move kind may
    dsimp only
    refine yields_of runs ⟨fun port => ?_, fun inside taken put bytes waits => ?_,
      fun inside taken quiet own whole clean lands => ?_, fun inside refused => ?_⟩
    · obtain ⟨moved, out⟩ := v.putWork_port c l opc (s.stepAt c l i.toNat) ups port
      have alike := started.alike.trans moved
      obtain ⟨behind, sent, none_, some_⟩ := pages alike
      refine ⟨(alike.trans later).mem, _, v.sourcePieces c l (s.stepAt c l i.toNat) ups, behind, ?_, rfl, ?_, none_, some_⟩
      · rw [sent, out, started.out, started.alike.image]
      · exact (v.sourcePieces_bytes ..).trans (started.seen ..)
    · subst put
      have fills := v.putWork_fills c l _ ups inside ((started.alike.moveStatus ..).trans taken)
        ((started.alike.wordRegion ..).trans bytes) (started.alike.kvt ▸ waits)
      rw [State.sourcePieces_bytes, started.seen] at fills
      exact ((fills.before started.alike.mem).after later.mem).length (State.read_length ..)
    · subst quiet
      have words := v.putWork_words c l opc (s.stepAt c l i.toNat) (kind.imp (·.2.2) (·.2.2)) inside
        ((started.alike.moveStatus ..).trans taken) own whole (started.alike.mem ▸ clean)
        (by rwa [started.alike.wordRegion, started.alike.kvt])
      rw [State.read_of_mem started.alike.mem] at words
      exact ((words.before started.alike.mem).after later.mem).read
    · have status := started.alike.moveStatus l opc (s.stepAt c l i.toNat)
      obtain ⟨mem, refusal⟩ := v.putWork_refused c l opc (s.stepAt c l i.toNat) ups inside (status.trans_ne refused)
      rw [status] at refusal
      obtain ⟨got, sent, marked⟩ := (refusal.before started.alike.marked).after later.marked
      exact ⟨later.mem.trans (mem.trans started.alike.mem), got, sent, marked⟩
  · obtain ⟨v, runs, started⟩ := exec_get (ups := ups) may
    dsimp only
    refine yields_of runs ⟨fun port => ?_, fun fabric taken => ?_, fun inside package taken opened quiet waits => ?_,
      fun inside refused opened => ?_, fun inside package closed => ?_⟩
    · have issued := v.perfIssued_alike c l (s.stepAt c l i.toNat)
      rw [State.getWork_port port, State.sendStepOp_frame, issued.image, started.alike.image, State.perfIssued_frame]
      exact ⟨started.alike.mem, congrArg (_ :: ·) started.out⟩
    · have fills := v.getWork_copies (ups := ups) fabric ((started.alike.fabricStatus ..).trans taken)
      rw [started.seen] at fills
      exact (fills.before started.alike.mem).length (State.read_length ..)
    · have fills := v.getWork_answers inside package ((started.alike.nackStatus ..).trans opened)
        ((started.alike.fabricStatus ..).trans taken) (started.alike.kvt ▸ waits)
      rw [started.outside, ← quiet] at fills
      exact (fills.before started.alike.mem).length (by simp [State.outsideBytes])
    · obtain ⟨u, answered, work⟩ := State.getWork_refused (ups := ups) inside ((started.alike.fabricStatus ..).trans_ne refused)
        (opened.imp_right (started.alike.nackStatus ..).trans)
      rw [work, started.alike.fabricStatus]
      have refusal := u.refusedHere_refused c l (s.stepAt c l i.toNat) (s.fabricStatus c l 1
        (addrLocal (s.stepAt c l i.toNat).dst) (s.stepAt c l i.toNat).length)
      exact ⟨(State.refusedHere_mem ..).trans (started.alike.trans answered).mem, refusal.got, refusal.sent⟩
    · have alike := started.alike.trans (v.perfIssued_alike c l (s.stepAt c l i.toNat))
      have status := started.alike.nackStatus 2 (addrLocal (s.stepAt c l i.toNat).src) (s.stepAt c l i.toNat).length
      rw [State.getWork_closed inside package (status.trans_ne closed), status]
      exact ⟨(State.refusedHere_mem ..).trans alike.mem, (State.refusedHere_refused ..).got⟩

end

section
/-! Rings and budgets (R191, R203, R212, R218, Table 8.10): a doorbell or a ring command changes its own ring alone, and what CQ_HEAD
moves in from the spill area goes one record at a time. -/

-- one proof at a time: side by side, their stacks and heaps do not fit beside the rest of the text
set_option Elab.async false

namespace Sys2Proof.Machine

variable {s t u : State} {who : Who} {j r n : Nat} {m : Fin 16}

/-! ## Doorbells (R191, R212, R327) -/

/-- A doorbell of a ring that is not set up, or while the host cannot be reached, is counted only. -/
theorem State.doorbell_dropped (acts : s.actsAs who j) (closed : (s.ring r).up = false ∨ s.hostDown = true)
    (f : State → State) : s.doorbell who r f = s.report (.doorbell r) := by
  rcases closed with down | away
  · simp [State.doorbell, acts.1, down]
  · simp [State.doorbell, acts.1, away]
theorem State.doorbell_done (acts : s.actsAs who j) (up : (s.ring r).up = true) (reached : s.hostDown = false)
    (f : State → State) : s.doorbell who r f = f s := by
  simp [State.doorbell, acts.1, up, reached]

/-- The ring once its oldest spilled record has moved to its tail. -/
def Ring.moveIn (g : Ring) : Ring :=
  let next := (g.cqTail + 1) % 2 ^ g.n
  { g with spilled := g.spilled.tail, cqTail := next, unread := g.unread + 1, phase := if next = 0 then !g.phase else g.phase }

/-- What `k` records that move in change of the entries, the tail and the spilled records. -/
theorem Ring.moveIn_iterate (g : Ring) (k : Nat) : (Ring.moveIn^[k] g).n = g.n ∧ (Ring.moveIn^[k] g).cqHead = g.cqHead ∧
    (Ring.moveIn^[k] g).spilled = g.spilled.drop k ∧ (Ring.moveIn^[k] g).unread = g.unread + k ∧
    (Ring.moveIn^[k] g).cqTail = if k = 0 then g.cqTail else (g.cqTail + k) % 2 ^ g.n := by
  induction k with
  | zero => exact ⟨rfl, rfl, rfl, rfl, rfl⟩
  | succ k ih =>
    obtain ⟨size, head, spilled, unread, tail⟩ := ih
    rw [Function.iterate_succ_apply']
    refine ⟨size, head, ?_, congrArg (· + 1) unread, ?_⟩
    · simp [Ring.moveIn, spilled]
    · simp only [Ring.moveIn, size, tail, Nat.add_one_ne_zero, if_false]
      split
      · next none_ => simp [none_]
      · rw [Nat.mod_add_mod, Nat.add_assoc]

/-- From `s` to `t` only serving and what has been sent may have changed, and of the rings only ring `r`. -/
structure State.RingOnly (r : Nat) (s t : State) : Prop where
  rest : t = { s with srv := t.srv, out := t.out }
  others : ∀ x, x ≠ r → t.ring x = s.ring x

theorem State.RingOnly.refl (r : Nat) (s : State) : s.RingOnly r s := ⟨rfl, fun _ _ => rfl⟩
theorem State.RingOnly.trans (h : s.RingOnly r t) (h' : t.RingOnly r u) : s.RingOnly r u :=
  ⟨h'.rest.trans (by rw [h.rest]), fun x other => (h'.others x other).trans (h.others x other)⟩
theorem State.modRing_ringOnly (s : State) (r : Nat) (f : Ring → Ring) : s.RingOnly r (s.modRing r f) :=
  ⟨rfl, fun _ other => s.modRing_ring_other other f⟩
theorem State.ringVector_ringOnly (s : State) (r v : Nat) : s.RingOnly r (s.ringVector v) := by
  unfold State.ringVector
  dsimp only
  split
  · exact .refl r s
  · exact ⟨rfl, fun _ _ => rfl⟩
theorem State.ringVector_ring (s : State) (v x : Nat) : (s.ringVector v).ring x = s.ring x := by
  unfold State.ringVector
  dsimp only
  split <;> rfl
theorem State.ringPut_ringOnly (s : State) (r : Nat) (bs : Bytes) : s.RingOnly r (s.ringPut r bs) :=
  have put (f : Ring → Ring) (o : Output) : s.RingOnly r ((s.modRing r f).emit o) := ⟨rfl, (s.modRing_ringOnly r f).others⟩
  (put _ _).trans (State.ringVector_ringOnly ..)
theorem State.RingOnly.hostDown (h : s.RingOnly r t) : t.hostDown = s.hostDown := by rw [h.rest]; rfl

/-- One step of `unspill`: the oldest spilled record goes to the ring's tail. -/
theorem State.ringPut_moveIn {b : Bytes} {rest : List Bytes} (waits : (s.ring r).spilled = b :: rest) :
    ((s.modRing r fun g => { g with spilled := rest }).ringPut r b).ring r = (s.ring r).moveIn := by
  simp [State.ringPut, State.ringVector_ring, Ring.moveIn, waits]

/-- Spilled records move in, oldest first, until none waits, the ring is full or `n` have moved. -/
theorem unspill_moves (n : Nat) (reached : s.hostDown = false) : s.RingOnly r (unspill r n s) ∧
    (unspill r n s).ring r =
      Ring.moveIn^[min n (min (s.ring r).spilled.length (2 ^ (s.ring r).n - (s.ring r).unread))] (s.ring r) := by
  induction n generalizing s with
  | zero => exact ⟨.refl r s, by simp [unspill]⟩
  | succ n ih =>
    cases waits : (s.ring r).spilled with
    | nil => simp [unspill, waits, State.RingOnly.refl]
    | cons b rest =>
      by_cases room : (s.ring r).unread < 2 ^ (s.ring r).n
      · let v := (s.modRing r fun g => { g with spilled := rest }).ringPut r b
        have only : s.RingOnly r v := (s.modRing_ringOnly r _).trans (State.ringPut_ringOnly ..)
        have moved : v.ring r = (s.ring r).moveIn := State.ringPut_moveIn waits
        obtain ⟨later, ring⟩ := ih (s := v) (only.hostDown.trans reached)
        have step : unspill r (n + 1) s = unspill r n v := by
          simp only [unspill, waits, room, reached, decide_true, Bool.not_false, Bool.and_self, if_true]; rfl
        rw [step]
        refine ⟨only.trans later, ?_⟩
        rw [ring, moved, ← Function.iterate_succ_apply]
        congr 2
        simp only [Ring.moveIn, waits, List.tail_cons, List.length_cons]
        omega
      · have full : unspill r (n + 1) s = s := by simp [unspill, waits, room]
        rw [full, Nat.sub_eq_zero_of_le (Nat.not_lt.mp room)]
        exact ⟨.refl r s, by simp⟩

theorem State.setCqHead_leaves (v : Nat) (reached : s.hostDown = false) :
    let g := s.ring r
    let freed := cqFreed g v
    let k := min g.spilled.length (2 ^ g.n - (g.unread - freed))
    let t := s.setCqHead r v
    s.RingOnly r t ∧ t.ring r = Ring.moveIn^[k] { g with cqHead := v % 2 ^ g.n, unread := g.unread - freed } := by
  have only := s.modRing_ringOnly r fun g => { g with cqHead := v % 2 ^ g.n, unread := g.unread - cqFreed g v }
  obtain ⟨later, ring⟩ := unspill_moves (r := r) (s.ring r).spilled.length (only.hostDown.trans reached)
  refine ⟨only.trans later, ?_⟩
  rw [State.setCqHead, ring, State.modRing_ring]
  simp

theorem exec_sqTailDoorbell_done {r : Fin 8192} (v : Word) (acts : s.actsAs who j) (up : (s.ring r.val).up = true)
    (reached : s.hostDown = false) : exec (.sqTailDoorbell who r v) s = .next (s.setSqTail r.val v.toNat) :=
  congrArg Host.Outcome.next (State.doorbell_done acts up reached _)
theorem exec_cqHeadDoorbell_done {r : Fin 8192} (v : Word) (acts : s.actsAs who j) (up : (s.ring r.val).up = true)
    (reached : s.hostDown = false) : exec (.cqHeadDoorbell who r v) s = .next (s.setCqHead r.val v.toNat) :=
  congrArg Host.Outcome.next (State.doorbell_done acts up reached _)

/-! ## Taking a ring down (Table 8.10) -/

theorem State.spillPut_others (s : State) (r : Nat) (bs : Bytes) {x : Nat} (other : x ≠ r) :
    (s.spillPut r bs).ring x = s.ring x := State.modRing_ring_other _ other _
theorem State.placeRecord_others (s : State) (r : Nat) (bs : Bytes) {x : Nat} (other : x ≠ r) :
    (s.placeRecord r bs).ring x = s.ring x := by
  unfold State.placeRecord
  split
  · exact (s.ringPut_ringOnly r bs).others x other
  · exact s.spillPut_others r bs other
/-- The end of a pick for one ring leaves every other ring. -/
theorem State.flushRing_others (s : State) (r : Nat) {x : Nat} (other : x ≠ r) : (s.flushRing r).ring x = s.ring x := by
  have placed (l : List FreshRecord) (t : State) : (State.each l (fun t y => t.placeRecord r y.bytes) t).ring x = t.ring x := by
    induction l generalizing t with
    | nil => rfl
    | cons y l ih => exact (ih _).trans (t.placeRecord_others r y.bytes other)
  exact (placed _ _).trans (State.modRing_ring_other _ other _)

theorem State.putRecord_others (s : State) (r order : Nat) (cancels : Option Nat) (bs : Bytes) {x : Nat} (other : x ≠ r) :
    (s.putRecord r order cancels bs).ring x = s.ring x := by
  unfold State.putRecord
  split
  · exact s.modRing_ring_other other _
  · rfl
theorem State.putRecord_reqs (s : State) (r order : Nat) (cancels : Option Nat) (bs : Bytes) :
    (s.putRecord r order cancels bs).srv.reqs = s.srv.reqs := by
  unfold State.putRecord
  split <;> rfl

/-- A request as the end of the Pending request numbered `id` in pick `p` leaves it. -/
def Request.endedAt (id p : Nat) (x : Request) : Request := if x.id = id then { x with state := 4, finalPick := some p } else x

theorem State.finishPending_reqs (s : State) (q : Request) (p : Nat) :
    (s.finishPending q p).srv.reqs = s.srv.reqs.map (Request.endedAt q.id p) :=
  congrArg (List.map _) (s.putRecord_reqs ..)
theorem State.finishPending_others (s : State) (q : Request) (p : Nat) {x : Nat} (other : x ≠ q.ring) :
    (s.finishPending q p).ring x = s.ring x := s.putRecord_others _ _ _ _ other
/-- A request that is still Pending after another has ended was Pending before, and is not the one that has ended. -/
theorem State.finishPending_pending {q x : Request} {p : Nat} (listed : x ∈ (s.finishPending q p).srv.reqs)
    (pending : x.state = 0) : x ∈ s.srv.reqs ∧ x ≠ q := by
  rw [State.finishPending_reqs] at listed
  obtain ⟨y, was, rfl⟩ := List.mem_map.mp listed
  unfold Request.endedAt at pending ⊢
  split at pending
  · cases pending
  · next differs => rw [if_neg differs]; exact ⟨was, fun same => differs (congrArg Request.id same)⟩

theorem State.each_finishPending_pending {l : List Request} {x : Request}
    (listed : x ∈ (State.each l (fun t q => t.finishPending q t.clk.pick) s).srv.reqs) (pending : x.state = 0) :
    x ∈ s.srv.reqs ∧ x ∉ l := by
  induction l generalizing s with
  | nil => exact ⟨listed, List.not_mem_nil⟩
  | cons q l ih =>
    obtain ⟨was, later⟩ := ih listed
    obtain ⟨before, differs⟩ := State.finishPending_pending was pending
    exact ⟨before, List.not_mem_cons_of_ne_of_not_mem differs later⟩
theorem State.each_finishPending_others {l : List Request} {x : Nat} (own : ∀ q ∈ l, q.ring = r) (other : x ≠ r) (s : State) :
    (State.each l (fun t q => t.finishPending q t.clk.pick) s).ring x = s.ring x := by
  induction l generalizing s with
  | nil => rfl
  | cons q l ih =>
    obtain ⟨first, later⟩ := List.forall_mem_cons.mp own
    exact (ih later _).trans (s.finishPending_others q _ (first ▸ other))

theorem State.mem_pendingOf {q : Request} : q ∈ s.pendingOf r ↔ q ∈ s.srv.reqs ∧ q.ring = r ∧ q.state = 0 := by
  simp [State.pendingOf]

/-- What RING_TEARDOWN does to ring `r` before it completes. -/
def State.tearDown (s : State) (r : Nat) : State :=
  ((State.each (s.pendingOf r) (fun t q => t.finishPending q t.clk.pick) s).prune.flushRing r).modRing r fun _ => {}

theorem State.tearDown_keeps (s : State) (r : Nat) : Keeps [.mem, .rings, .engine, .out, .reqs] s (s.tearDown r) :=
  State.modRing_keeps (State.flushRing_keeps (State.prune_keeps (State.each_keeps (.refl s) fun _ _ h =>
    State.finishPending_keeps h (by decide) ..) (by decide)) (by decide) _) (by decide) ..
theorem State.tearDown_ring (s : State) (r : Nat) : (s.tearDown r).ring r = {} := State.modRing_ring ..
theorem State.tearDown_others (s : State) (r : Nat) {x : Nat} (other : x ≠ r) : (s.tearDown r).ring x = s.ring x := by
  rw [State.tearDown, State.modRing_ring_other _ other, State.flushRing_others _ _ other]
  exact State.each_finishPending_others (fun q pending => (State.mem_pendingOf.mp pending).2.1) other s
/-- No request of the ring is Pending any more. -/
theorem State.tearDown_reqs {q : Request} (listed : q ∈ (s.tearDown r).srv.reqs) (own : q.ring = r) : q.state ≠ 0 := by
  intro pending
  let ended := State.each (s.pendingOf r) (fun t q => t.finishPending q t.clk.pick) s
  have flushed : ((ended.prune.flushRing r).srv.reqs, _) = (ended.prune.srv.reqs, _) :=
    (State.flushRing_keeps (.refl ended.prune) (List.Subset.refl _) r).same .reqs (by decide)
  have kept : q ∈ ended.prune.srv.reqs := (Prod.mk.inj flushed).1 ▸ listed
  obtain ⟨was, served⟩ := State.each_finishPending_pending (List.mem_of_mem_filter kept) pending
  exact served (State.mem_pendingOf.mpr ⟨was, own, pending⟩)

/-- RING_TEARDOWN is taken (Table 8.10). -/
def State.MayTearDown (s : State) (r : Nat) : Prop :=
  r < 8192 ∧ (s.ring r).up = true ∧ s.admittedOf r = [] ∧ (s.pendingOf r).length ≤ s.room r

theorem State.not_mayTearDown_iff : ¬ s.MayTearDown r ↔
    (8192 ≤ r ∨ (s.ring r).up = false ∨ (s.admittedOf r).length ≠ 0 ∨ s.room r < (s.pendingOf r).length) := by
  simp only [State.MayTearDown, not_and_or, Nat.not_lt, Nat.not_le, Bool.not_eq_true, ne_eq, List.length_eq_zero_iff]

theorem exec_ringTeardown_refused (waits : s.awaits m.val 0x3001) (bad : ¬ s.MayTearDown ((s.mailbox m.val).arg 0)) :
    exec (.ringTeardown m) s = .next (s.complete m.val 0x11 []) :=
  (exec_awaited rfl waits).trans (congrArg _ (if_pos (State.not_mayTearDown_iff.mp bad)))
theorem exec_ringTeardown_taken (waits : s.awaits m.val 0x3001) (good : s.MayTearDown ((s.mailbox m.val).arg 0))
    (done : s.tearDown ((s.mailbox m.val).arg 0) = t) :
    exec (.ringTeardown m) s = .next (t.complete m.val 0 [(s.pendingOf ((s.mailbox m.val).arg 0)).length]) :=
  done ▸ (exec_awaited rfl waits).trans (congrArg _ (if_neg fun bad => State.not_mayTearDown_iff.mpr bad good))

/-! ## RING_SETUP and ROLE_SET (Table 8.10, R218) -/

/-- The ring that RING_SETUP sets up. -/
def Mailbox.ringArgs (b : Mailbox) : Ring :=
  { up := true, tenant := b.arg 1, ctx := b.arg 2, n := b.arg 7, sqAddr := b.arg2 3, cqAddr := b.arg2 5
    spillAddr := b.arg2 8, spillEntries := b.arg 10 }

theorem exec_ringSetup_refused (waits : s.awaits m.val 0x3000) (bad : s.setupRefused (s.mailbox m.val) = true) :
    exec (.ringSetup m) s = .next (s.complete m.val 0x11 []) :=
  (exec_awaited rfl waits).trans (congrArg _ (if_pos bad))
theorem exec_ringSetup_taken (waits : s.awaits m.val 0x3000) (good : s.setupRefused (s.mailbox m.val) = false) :
    let b := s.mailbox m.val
    exec (.ringSetup m) s = .next ((s.modRing (b.arg 0) fun _ => b.ringArgs).complete m.val 0 []) :=
  (exec_awaited rfl waits).trans (congrArg _ (if_neg (by simp [good])))

theorem exec_roleSet_refused (waits : s.awaits m.val 0x3006) (bad : 3 < (s.mailbox m.val).arg 0 ∨ s.enabled ≠ []) :
    exec (.roleSet m) s = .next (s.complete m.val 0x11 []) :=
  (exec_awaited rfl waits).trans (congrArg _ (if_pos bad))
theorem exec_roleSet_taken (waits : s.awaits m.val 0x3006) (known : (s.mailbox m.val).arg 0 ≤ 3) (idle : s.enabled = []) :
    let t : State := { s with srv := { s.srv with role := (s.mailbox m.val).arg 0 } }
    exec (.roleSet m) s = .next (t.complete m.val 0 []) :=
  (exec_awaited rfl waits).trans (congrArg _ (if_neg (not_or.mpr ⟨Nat.not_lt.mpr known, not_not_intro idle⟩)))

/-! ## Budgets (R203) -/

/-- Changing every entry of a table: what it lists afterwards. -/
theorem Tab.mem_mapAll {α : Type} [DecidableEq α] {d : α} {f : Nat → α → α} {l : Tab α} {k : Nat} {x : α} :
    (k, x) ∈ Tab.mapAll d f l ↔ x ≠ d ∧ ∃ y, (k, y) ∈ l ∧ x = f k y := by
  induction l with
  | nil => simp [Tab.mapAll]
  | cons e l ih =>
    obtain ⟨i, a⟩ := e
    by_cases gone : f i a = d
    · simp only [Tab.mapAll, gone, if_true, ih, List.mem_cons, Prod.mk.injEq]
      refine and_congr_right fun stays => exists_congr fun y => ?_
      constructor
      · exact fun ⟨listed, same⟩ => ⟨.inr listed, same⟩
      · rintro ⟨⟨rfl, rfl⟩ | listed, same⟩
        · exact absurd (same.trans gone) stays
        · exact ⟨listed, same⟩
    · simp only [Tab.mapAll, gone, if_false, List.mem_cons, ih, Prod.mk.injEq]
      constructor
      · rintro (⟨rfl, rfl⟩ | ⟨stays, y, listed, same⟩)
        · exact ⟨gone, a, .inl ⟨rfl, rfl⟩, rfl⟩
        · exact ⟨stays, y, .inr listed, same⟩
      · rintro ⟨stays, y, ⟨rfl, rfl⟩ | listed, same⟩
        · exact .inl ⟨rfl, same⟩
        · exact .inr ⟨stays, y, listed, same⟩

/-- The balance that a refill leaves. -/
theorem Tenant.refill_eq (y : Tenant) :
    y.refill = { y with bal := if y.bal < (y.cap : Int) then min (y.bal + y.rate) y.cap else y.bal } := by
  unfold Tenant.refill
  split <;> rfl

/-- A tenant after the refill in elapsed pick `now`. -/
def Tenant.refilledAt (now : Nat) (y : Tenant) : Tenant := { y.refill with beforeRefill := some (now, y.bal) }

theorem exec_budgetRefill_due (up : s.up = true) (due : s.srv.refilled < s.clk.wall / 4000000000) :
    exec .budgetRefill s = .next { s with srv := { s.srv with
      refilled := s.srv.refilled + 1, tenants := Tab.mapAll {} (fun _ => Tenant.refilledAt s.clk.elapsed) s.srv.tenants } } :=
  congrArg _ (if_pos (by simp [up, due]))

end Sys2Proof.Machine

open Sys2Proof Sys2Proof.Machine

/-- Settles O48: a doorbell or a ring command changes its ring alone; the records that CQ_HEAD moves in are those that fit, one by one;
taking a ring down ends every Pending request of it; a refill changes each listed tenant by itself. -/
theorem ringsAndBudgets : Obligations.RingsAndBudgets := by
  refine ⟨fun s who j r v acts => ⟨fun closed => ?_, fun up reached => ⟨?_, ?_⟩⟩, fun s m waits => ⟨fun bad => ?_, fun good => ?_⟩,
    fun s m waits => ⟨fun bad => ?_, fun good => ?_⟩, fun s m waits => ?_, fun s up due => ?_⟩
  · exact ⟨congrArg _ (State.doorbell_dropped acts closed _), congrArg _ (State.doorbell_dropped acts closed _)⟩
  · exact yields_of (exec_sqTailDoorbell_done v acts up reached)
      ⟨s.modRing_ring .., fun x other => s.modRing_ring_other other _, rfl⟩
  · obtain ⟨only, ring⟩ := State.setCqHead_leaves (r := r.val) v.toNat reached
    refine yields_of (exec_cqHeadDoorbell_done v acts up reached) ?_
    rw [ring]
    obtain ⟨-, head, spilled, unread, tail⟩ := Ring.moveIn_iterate
      { s.ring r.val with cqHead := v.toNat % 2 ^ (s.ring r.val).n, unread := (s.ring r.val).unread - cqFreed (s.ring r.val) v.toNat }
      (min (s.ring r.val).spilled.length (2 ^ (s.ring r.val).n - ((s.ring r.val).unread - cqFreed (s.ring r.val) v.toNat)))
    exact ⟨head, spilled, unread, tail, only.others, only.rest⟩
  · exact yields_refused (exec_ringSetup_refused waits bad)
  · exact yields_of (exec_ringSetup_taken waits good)
      ⟨State.completes_after rfl rfl .., s.modRing_ring .., fun x other => s.modRing_ring_other other _, rfl⟩
  · exact yields_refused (exec_ringTeardown_refused waits bad)
  · obtain ⟨t, done⟩ : ∃ t, s.tearDown ((s.mailbox m.val).arg 0) = t := ⟨_, rfl⟩
    have keeps := s.tearDown_keeps ((s.mailbox m.val).arg 0)
    have gone := s.tearDown_ring ((s.mailbox m.val).arg 0)
    have others x := s.tearDown_others ((s.mailbox m.val).arg 0) (x := x)
    have ended q := State.tearDown_reqs (s := s) (r := (s.mailbox m.val).arg 0) (q := q)
    rw [done] at keeps gone others ended
    exact yields_of (exec_ringTeardown_taken waits good done)
      ⟨State.completes_after (keeps.same .mbx (by decide)) (keeps.same .clk (by decide)) .., gone, others, ended⟩
  · by_cases bad : 3 < (s.mailbox m.val).arg 0 ∨ s.enabled ≠ []
    · refine yields_of (exec_roleSet_refused waits bad) ⟨fun _ => ⟨s.complete_completes .., rfl⟩, fun known idle => ?_, rfl⟩
      exact absurd bad (not_or.mpr ⟨Nat.not_lt.mpr known, not_not_intro idle⟩)
    · obtain ⟨known, idle⟩ := not_or.mp bad
      exact yields_of (exec_roleSet_taken waits (Nat.not_lt.mp known) (not_not.mp idle)) ⟨fun refused => absurd refused bad,
        fun _ _ => ⟨State.completes_after rfl rfl .., rfl⟩, rfl⟩
  · refine yields_of (exec_budgetRefill_due up due) ⟨rfl, fun k x => ?_, rfl⟩
    simp only [Tab.mem_mapAll, Tenant.refilledAt, Tenant.refill_eq]

end

section
/-! Entries and cancels (R192-R196, R213, R327): a record of this pick joins its ring's fresh records behind those that stand there,
so a cancel's own record is still there once the request that it names has ended. -/

-- one proof at a time: side by side, their stacks and heaps do not fit beside the rest of the text
set_option Elab.async false

namespace Sys2Proof.Machine

variable {s t : State} {c r x : Nat} {m : Fin 16} {e : Bytes} {q : Request}

/-! ## Records (Table 8.2) -/

section
variable (tag status flags stream token check position index pick : Nat)
theorem recordBytes_tag : le (recordBytes tag status flags stream token check position index pick) 0 4 = tag % 2 ^ 32 :=
  leNat_toLe 4 tag
theorem recordBytes_status : byteAt (recordBytes tag status flags stream token check position index pick) 4 = status % 2 ^ 8 :=
  BitVec.toNat_ofNat ..
theorem recordBytes_flags : byteAt (recordBytes tag status flags stream token check position index pick) 5 = flags % 2 ^ 8 :=
  BitVec.toNat_ofNat ..
end

theorem leNat_lt (bs : Bytes) : leNat bs < 256 ^ bs.length := by
  induction bs with
  | nil => exact Nat.one_pos
  | cons b bs ih =>
    have byte : b.toNat < 256 := b.isLt
    rw [leNat, List.length_cons, pow_succ]
    omega
theorem entTag_lt (e : Bytes) : entTag e < 2 ^ 32 :=
  (leNat_lt _).trans_le (Nat.pow_le_pow_right (n := 256) (by decide) (List.length_take_le ..))

/-- A record without a token that this pick writes. -/
def State.bare (s : State) (place : Nat) (cancels : Option Nat) (tag status flags stream : Nat) : FreshRecord :=
  ⟨place, cancels, recordBytes tag status flags stream max32 0 (s.barePosition stream) 0 s.clk.pick⟩

section
variable {place tag status flags stream : Nat} {cancels : Option Nat}
theorem State.bare_tag : le (s.bare place cancels tag status flags stream).bytes 0 4 = tag % 2 ^ 32 := recordBytes_tag ..
theorem State.bare_status : byteAt (s.bare place cancels tag status flags stream).bytes 4 = status % 2 ^ 8 := recordBytes_status ..
theorem State.bare_flags : byteAt (s.bare place cancels tag status flags stream).bytes 5 = flags % 2 ^ 8 := recordBytes_flags ..

/-- A ring that is set up takes the record behind those of the pick that stand there. -/
theorem State.bareRecord_up (up : (s.ring r).up = true) : s.bareRecord r place cancels tag status flags stream =
    s.modRing r fun g => { g with fresh := g.fresh ++ [s.bare place cancels tag status flags stream] } := if_pos up

/-- A record leaves a ring as it is but for the records of the pick, which it joins. -/
theorem State.bareRecord_ring (s : State) (r x : Nat) : ∃ more,
    (s.bareRecord r place cancels tag status flags stream).ring x = { s.ring x with fresh := (s.ring x).fresh ++ more } := by
  by_cases own : x = r
  · subst own
    by_cases up : (s.ring x).up = true
    · exact ⟨_, by rw [State.bareRecord_up up, State.modRing_ring]⟩
    · have dropped : s.bareRecord x place cancels tag status flags stream = s := if_neg up
      exact ⟨[], by rw [dropped, List.append_nil]⟩
  · exact ⟨[], by rw [State.bareRecord, State.putRecord_others _ _ _ _ _ own, List.append_nil]⟩
end

/-! ## Entries that are fetched (R192-R194) -/

theorem State.passEntry_ring (s : State) (r : Nat) :
    (s.passEntry r).ring r = { s.ring r with sqHead := ((s.ring r).sqHead + 1) % 2 ^ (s.ring r).n } := s.modRing_ring ..
theorem State.passEntry_others (s : State) (r : Nat) (other : x ≠ r) : (s.passEntry r).ring x = s.ring x :=
  s.modRing_ring_other other _

theorem State.passEntry_up (s : State) (r x : Nat) : ((s.passEntry r).ring x).up = (s.ring x).up := by
  by_cases own : x = r
  · rw [own, State.passEntry_ring]
  · rw [State.passEntry_others _ _ own]

theorem State.up_of_canFetch (fetches : s.canFetch r = true) : (s.ring r).up = true := by
  simp only [State.canFetch, Bool.and_eq_true] at fetches
  tauto

/-- A refused entry: SQ_HEAD passes it, one record, BAD_ENTRY, and nothing else. -/
theorem State.refuseEntry_leaves (up : (s.ring r).up = true) (e : Bytes) (status flags : Nat) : ∃ t place,
    s.refuseEntry r e status flags = t ∧
    t.ring r = { s.ring r with
      sqHead := ((s.ring r).sqHead + 1) % 2 ^ (s.ring r).n
      fresh := (s.ring r).fresh ++ [s.bare place none (entTag e) status flags (entStream e)]
      badEntry := true, setAt := (t.ring r).setAt } ∧
    (∀ x, x ≠ r → t.ring x = s.ring x) ∧ t = { s with srv := { s.srv with rings := t.srv.rings } } := by
  refine ⟨_, if flags = 9 then 0 else slotless, rfl, ?_⟩
  rw [State.refuseEntry, State.bareRecord_up ((s.passEntry_up r r).trans up)]
  refine ⟨?_, fun x other => ?_, rfl⟩
  · simp only [State.modRing_ring, State.passEntry_ring]
    rfl
  · simp only [State.modRing_ring_other _ other, State.passEntry_others _ _ other]

/-- GENERATE, and PREFILL for an entry of OPCODE 2, fetch the entry (R192). -/
def Fetches (cmd : Instr) (r : Fin 8192) (e : Bytes) (prompt : List Word) : Prop :=
  (cmd = .generate r e prompt ∧ entOpcode e ≠ 2 ∧ entOpcode e ≠ 3) ∨ (cmd = .prefill r e prompt ∧ entOpcode e = 2)

section
variable {cmd : Instr} {r : Fin 8192} {prompt : List Word} (kind : Fetches cmd r e prompt)
include kind

theorem exec_fetch : exec cmd s = .next (if s.canFetch r.val = true then s.fetch r.val e prompt else s) := by
  rcases kind with ⟨rfl, notPrefill, notCancel⟩ | ⟨rfl, prefill⟩
  · simp [exec, execGenerate, notPrefill, notCancel]
  · simp [exec, execPrefill, prefill]
theorem exec_fetch_stays (stays : s.canFetch r.val = false ∨ (s.entStatus r.val e ≠ 0 ∧ s.room r.val = 0) ∨
    (s.entStatus r.val e = 0 ∧ s.promptFits (entPromptLen e) = false)) : exec cmd s = .next s := by
  rw [exec_fetch kind]
  rcases stays with idle | ⟨bad, full⟩ | ⟨good, long⟩
  · rw [if_neg (by simp [idle])]
  · have waits : s.fetch r.val e prompt = s := (if_pos bad).trans (if_neg (by simp [full]))
    rw [waits, ite_self]
  · have waits : s.fetch r.val e prompt = s := (if_neg (not_not_intro good)).trans (if_neg (by simp [long]))
    rw [waits, ite_self]
theorem exec_fetch_refused (fetches : s.canFetch r.val = true) (bad : s.entStatus r.val e ≠ 0) (room : 1 ≤ s.room r.val) :
    exec cmd s = .next (s.refuseEntry r.val e (s.entStatus r.val e) 1) := by
  rw [exec_fetch kind, if_pos fetches, State.fetch, if_pos bad, if_pos room]
theorem exec_fetch_taken (fetches : s.canFetch r.val = true) (good : s.entStatus r.val e = 0)
    (fits : s.promptFits (entPromptLen e) = true) :
    let v := s.passEntry r.val
    exec cmd s = .next { v with srv := { v.srv with
      reqs := v.srv.reqs ++ [entRequest s.srv.nextReq r.val (s.ring r.val).ctx e prompt], nextReq := v.srv.nextReq + 1 } } := by
  rw [exec_fetch kind, if_pos fetches, State.fetch, if_neg (not_not_intro good), if_pos fits]
end

/-- The statuses of R194 fit their byte. -/
theorem State.entStatus_lt (s : State) (r : Nat) (e : Bytes) : s.entStatus r e < 2 ^ 8 := by
  unfold State.entStatus
  dsimp only
  (repeat' split) <;> decide

/-! ## Host reads that fail (R327) -/

theorem State.endHeld_completes {h : HeldLoad} (held : (s.ctx c).held = some h) (status : Nat) (tier : Option Nat) :
    s.completes (s.endHeld c status tier) h.mbx status [] := by
  have keeps := State.dropHeld_keeps (.refl s) (List.Subset.refl _) c status tier
  rw [State.endHeld, held]
  exact State.completes_after (keeps.same .mbx (by decide)) (keeps.same .clk (by decide)) ..
/-- The command of the mailbox ends with 0x38, a held load or not. -/
theorem State.failCommand_completes (s : State) (m : Nat) : s.completes (s.failCommand m) m 0x38 [] := by
  unfold State.failCommand
  split
  · next c found =>
    have holds := List.find?_some found
    cases held : (s.ctx c).held with
    | none => simp [held] at holds
    | some h =>
      obtain rfl : h.mbx = m := by simpa [held] using holds
      exact State.endHeld_completes held ..
  · dsimp only
    split
    · exact State.completes_after rfl rfl ..
    · exact s.complete_completes ..

theorem exec_hostReadFail_ring {r : Fin 8192} (fetches : s.canFetch r.val = true) : exec (.hostReadFail (.ring r)) s =
    .next ((s.report .hostReadFail).modRing r.val fun g => { g with fetchBlocked := true }) :=
  congrArg Host.Outcome.next (if_pos fetches)
theorem exec_hostReadFail_mailbox (serves : s.serves = true) (busy : (s.mailbox m.val).busy = true)
    (reads : readsHost (s.mailbox m.val).opcode = true) (outside : viaXfer m.val (s.mailbox m.val) = false)
    (free : s.cmdBarred m.val (s.mailbox m.val) = false) :
    exec (.hostReadFail (.mailbox m)) s = .next ((s.report .hostReadFail).failCommand m.val) := by
  simp [exec, execHostReadFail, serves, busy, reads, outside, free]

/-! ## Cancels (R196, R213) -/

/-- The request that a cancel names is listed. -/
theorem State.cancelTarget_mem {stream tag : Nat} (named : s.cancelTarget stream tag = some q) : q ∈ s.srv.reqs := by
  unfold State.cancelTarget at named
  dsimp only at named
  split at named
  · next found =>
    cases named
    exact List.mem_of_mem_filter (List.mem_of_find?_eq_some found)
  · exact List.mem_of_mem_filter (List.mem_of_head? named)

theorem State.cancelRequest_none {o : Option Request} (ended : o = none ∨ ∃ q, o = some q ∧ q.state = 4) :
    s.cancelRequest o = s := by
  rcases ended with rfl | ⟨q, rfl, done⟩
  · rfl
  · exact if_pos done
theorem State.cancelRequest_pending (pending : q.state = 0) :
    s.cancelRequest (some q) = (s.finishPending q s.clk.pick).prune := by
  simp [State.cancelRequest, pending]
/-- An admitted request that a cancel marks in pick `p`, the first such pick standing. -/
def Request.markedAt (p : Nat) (y : Request) : Request := { y with cancelAt := some (y.cancelAt.getD p) }
theorem State.cancelRequest_admitted (running : q.state ≠ 0) (open_ : q.state ≠ 4) :
    s.cancelRequest (some q) = s.modRequest q.id (Request.markedAt s.clk.pick) := by
  refine ((if_neg open_).trans (if_neg running)).trans (congrArg (s.modRequest q.id) (funext fun y => ?_))
  cases marked : y.cancelAt <;> simp [Request.markedAt, marked]

/-- A cancel leaves a ring as it is but for the records of the pick. -/
theorem State.cancelRequest_ring (s : State) (o : Option Request) (x : Nat) :
    ∃ more, (s.cancelRequest o).ring x = { s.ring x with fresh := (s.ring x).fresh ++ more } := by
  have none_ : ∃ more, s.ring x = { s.ring x with fresh := (s.ring x).fresh ++ more } := ⟨[], by rw [List.append_nil]⟩
  cases o with
  | none => exact none_
  | some q =>
    by_cases done : q.state = 4
    · rwa [State.cancelRequest_none (.inr ⟨q, rfl, done⟩)]
    by_cases pending : q.state = 0
    · rw [State.cancelRequest_pending pending]
      exact s.bareRecord_ring q.ring x
    · rwa [State.cancelRequest_admitted pending done]

theorem State.cancelRequest_ends (pending : q.state = 0) {y : Request} (listed : y ∈ (s.cancelRequest (some q)).srv.reqs)
    (same : y.id = q.id) : y.state = 4 := by
  rw [State.cancelRequest_pending pending] at listed
  have ended : y ∈ (s.finishPending q s.clk.pick).srv.reqs := List.mem_of_mem_filter listed
  rw [State.finishPending_reqs] at ended
  obtain ⟨z, -, rfl⟩ := List.mem_map.mp ended
  unfold Request.endedAt at same ⊢
  split
  · rfl
  · next differs => rw [if_neg differs] at same; exact absurd same differs
theorem State.cancelRequest_records (pending : q.state = 0) (up : (s.ring q.ring).up = true) :
    ∃ z ∈ ((s.cancelRequest (some q)).ring q.ring).fresh,
      le z.bytes 0 4 = q.tag % 2 ^ 32 ∧ byteAt z.bytes 4 = 0x10 ∧ byteAt z.bytes 5 = 1 := by
  refine ⟨s.bare slotless none q.tag 0x10 1 q.stream, ?_, State.bare_tag, State.bare_status, State.bare_flags⟩
  have ring : (s.cancelRequest (some q)).ring q.ring = (s.bareRecord q.ring slotless none q.tag 0x10 1 q.stream).ring q.ring := by
    rw [State.cancelRequest_pending pending]
    rfl
  rw [ring, State.bareRecord_up up, State.modRing_ring]
  exact List.mem_append_right _ List.mem_cons_self
theorem State.cancelRequest_marks (listed : q ∈ s.srv.reqs) (running : q.state ≠ 0) (open_ : q.state ≠ 4) :
    ∃ y ∈ (s.cancelRequest (some q)).srv.reqs, y.id = q.id ∧ y.cancelAt = some (q.cancelAt.getD s.clk.pick) := by
  rw [State.cancelRequest_admitted running open_]
  refine ⟨_, List.mem_map_of_mem listed, ?_⟩
  rw [if_pos rfl]
  exact ⟨rfl, rfl⟩

/-- What a cancel leaves in the request table, in the words of R213. -/
structure State.Cancels (s : State) (o : Option Request) (t : State) : Prop where
  ends : ∀ q, o = some q → q.state = 0 → ∀ y ∈ t.srv.reqs, y.id = q.id → y.state = 4
  marks : ∀ q, o = some q → q.state ≠ 0 → q.state ≠ 4 →
    ∃ y ∈ t.srv.reqs, y.id = q.id ∧ y.cancelAt = some (q.cancelAt.getD s.clk.pick)
  stays : (o = none ∨ ∃ q, o = some q ∧ q.state = 4) → t.srv.reqs = s.srv.reqs

theorem State.cancelRequest_cancels {o : Option Request} (listed : ∀ q, o = some q → q ∈ s.srv.reqs) :
    s.Cancels o (s.cancelRequest o) where
  ends q named pending y := by subst named; exact State.cancelRequest_ends pending
  marks q named running open_ := by subst named; exact State.cancelRequest_marks (listed q rfl) running open_
  stays ended := by rw [State.cancelRequest_none ended]

/-- A cancel that is accepted (R196, R213): its own record, of place 0 and not of a request that ends, then its effect. -/
theorem State.acceptCancel_cancels {o : Option Request} (listed : ∀ q, o = some q → q ∈ s.srv.reqs) (r tag stream : Nat) :
    s.Cancels o (s.acceptCancel r tag stream o) :=
  have reqs : (s.bareRecord r 0 (o.map (·.id)) tag (cancelStatus o) 8 stream).srv.reqs = s.srv.reqs := s.putRecord_reqs ..
  have clk : (s.bareRecord r 0 (o.map (·.id)) tag (cancelStatus o) 8 stream).clk = s.clk :=
    (State.bareRecord_keeps (.refl s) (List.Subset.refl _) ..).same .clk (by decide)
  have after := State.cancelRequest_cancels (fun q named => reqs ▸ listed q named)
  ⟨after.ends, by rw [← clk]; exact after.marks, fun ended => (after.stays ended).trans reqs⟩
theorem State.acceptCancel_ring (s : State) (r tag stream : Nat) (o : Option Request) (up : (s.ring r).up = true) :
    ∃ more, (s.acceptCancel r tag stream o).ring r = { s.ring r with
      fresh := (s.ring r).fresh ++ [s.bare 0 (o.map (·.id)) tag (cancelStatus o) 8 stream] ++ more } := by
  obtain ⟨more, ring⟩ := (s.bareRecord r 0 (o.map (·.id)) tag (cancelStatus o) 8 stream).cancelRequest_ring o r
  refine ⟨more, ring.trans ?_⟩
  rw [State.bareRecord_up up, State.modRing_ring]
theorem State.acceptCancel_records (r tag stream : Nat) (pending : q.state = 0) (up : (s.ring q.ring).up = true) :
    ∃ z ∈ ((s.acceptCancel r tag stream (some q)).ring q.ring).fresh,
      le z.bytes 0 4 = q.tag % 2 ^ 32 ∧ byteAt z.bytes 4 = 0x10 ∧ byteAt z.bytes 5 = 1 := by
  obtain ⟨more, ring⟩ := s.bareRecord_ring (place := 0) (cancels := (some q).map (·.id)) (tag := tag)
    (status := cancelStatus (some q)) (flags := 8) (stream := stream) r q.ring
  exact State.cancelRequest_records pending (by rw [ring]; exact up)

theorem cancelStatus_lt (o : Option Request) : cancelStatus o < 2 ^ 8 := by
  unfold cancelStatus
  (repeat' split) <;> decide
theorem cancelStatus_eq (o : Option Request) :
    cancelStatus o = match o with | none => 0x13 | some x => if x.state = 4 then 0x12 else 0 := by cases o <;> rfl

theorem exec_cancel {r : Fin 8192} (fetches : s.canFetch r.val = true) (kind : entOpcode e = 3) :
    exec (.cancel r e) s = .next (s.fetchCancel r.val e) :=
  congrArg Host.Outcome.next (if_pos (by simp [fetches, kind]))
theorem State.fetchCancel_bad (bad : s.cancelOk r e = false) :
    s.fetchCancel r e = if 1 ≤ s.room r then s.refuseEntry r e 0x11 9 else s := if_neg (by simp [bad])
theorem State.fetchCancel_good (good : s.cancelOk r e = true) :
    let o := s.cancelTarget (entStream e) (entCancelTag e)
    s.fetchCancel r e = if s.cancelRoom r o = true then (s.passEntry r).acceptCancel r (entTag e) (entStream e) o else s :=
  if_pos good

theorem exec_reqCancel (waits : s.awaits m.val 0x3005) {b : Mailbox} (box : s.mailbox m.val = b)
    (named : s.cancelTarget (b.arg 0) (b.arg 1) = some q) (up : (s.ring q.ring).up = true)
    (room : s.cancelRoom q.ring (some q) = true) : exec (.reqCancel m) s =
      .next ((s.acceptCancel q.ring (b.arg 1) (b.arg 0) (some q)).complete m.val 0 []) := by
  subst box
  rw [exec_awaited (cmd := .reqCancel m) rfl waits]
  simp only [named, up, room, Bool.and_self, if_true]
theorem exec_reqCancel_refused (waits : s.awaits m.val 0x3005)
    (bad : let o := s.cancelTarget ((s.mailbox m.val).arg 0) ((s.mailbox m.val).arg 1)
      o = none ∨ ∃ q, o = some q ∧ ((s.ring q.ring).up = false ∨ s.cancelRoom q.ring o = false)) :
    exec (.reqCancel m) s = .next (s.complete m.val 0x11 []) := by
  rw [exec_awaited (cmd := .reqCancel m) rfl waits]
  rcases bad with unnamed | ⟨q, named, closed⟩
  · simp only [unnamed]
  · rw [named] at closed
    rcases closed with closed | closed <;> simp [named, closed]

end Sys2Proof.Machine

open Sys2Proof Sys2Proof.Machine

/-- Settles O49: an entry that is refused and a cancel write their record on a ring that is set up, where it joins the records of the
pick; what becomes of a request is a change of the entries of its number alone. -/
theorem requestsAreFetchedAndCancelled : Obligations.RequestsAreFetchedAndCancelled := by
  refine ⟨fun s r e prompt cmd kind => ⟨exec_fetch_stays kind, fun fetches bad room => ?_, fun fetches good fits => ?_⟩,
    fun s r fetches => ?_, fun s m serves busy reads outside free => ?_,
    fun s r e fetches kind bad => ⟨fun full => ?_, fun room => ?_⟩,
    fun s r e fetches kind good => ⟨fun full => ?_, fun room => ?_⟩,
    fun s m waits => ⟨fun q named up room => ?_, fun bad => yields_refused (exec_reqCancel_refused waits bad)⟩⟩
  · obtain ⟨t, place, done, ring, others, rest⟩ :=
      State.refuseEntry_leaves (State.up_of_canFetch fetches) e (s.entStatus r.val e) 1
    refine yields_of (done ▸ exec_fetch_refused kind fetches bad room) ⟨⟨_, ring, rfl, ?_, ?_, State.bare_flags⟩, others, rest⟩
    · exact State.bare_tag.trans (Nat.mod_eq_of_lt (entTag_lt e))
    · exact State.bare_status.trans (Nat.mod_eq_of_lt (s.entStatus_lt ..))
  · exact yields_of (exec_fetch_taken kind fetches good fits)
      ⟨rfl, rfl, s.passEntry_ring r.val, fun x other => s.passEntry_others r.val other, rfl⟩
  · exact yields_of (exec_hostReadFail_ring fetches)
      ⟨State.modRing_ring .., fun x other => State.modRing_ring_other _ other _, rfl⟩
  · have keeps := State.failCommand_keeps (.refl (s.report .hostReadFail)) (List.Subset.refl _) m.val
    have agg : ((s.report .hostReadFail).failCommand m.val).agg = .hostReadFail :: s.agg := keeps.same .agg (by decide)
    exact yields_of (exec_hostReadFail_mailbox serves busy reads outside free)
      ⟨State.failCommand_completes .., agg ▸ List.mem_cons_self⟩
  · rw [exec_cancel fetches kind, State.fetchCancel_bad bad, if_neg (by simp [full])]
  · obtain ⟨t, place, done, ring, -, rest⟩ := State.refuseEntry_leaves (State.up_of_canFetch fetches) e 0x11 9
    refine yields_of (t := t) (by rw [exec_cancel fetches kind, State.fetchCancel_bad bad, if_pos room, done])
      ⟨by rw [ring], ⟨_, by rw [ring], ?_, State.bare_status⟩, rest⟩
    exact State.bare_tag.trans (Nat.mod_eq_of_lt (entTag_lt e))
  · rw [exec_cancel fetches kind, State.fetchCancel_good good, if_neg (by simp [full])]
  · let o := s.cancelTarget (entStream e) (entCancelTag e)
    have passed := (s.passEntry_up r.val r.val).trans (State.up_of_canFetch fetches)
    obtain ⟨more, ring⟩ := (s.passEntry r.val).acceptCancel_ring r.val (entTag e) (entStream e) o passed
    have after := State.acceptCancel_cancels (s := s.passEntry r.val) (o := o) (fun q named => State.cancelTarget_mem named) r.val
      (entTag e) (entStream e)
    refine yields_of (t := (s.passEntry r.val).acceptCancel r.val (entTag e) (entStream e) o)
      (by rw [exec_cancel fetches kind, State.fetchCancel_good good, if_pos room]) ⟨?_,
        ⟨(s.passEntry r.val).bare 0 (o.map (·.id)) (entTag e) (cancelStatus o) 8 (entStream e), ?_, rfl, rfl, ?_,
          State.bare_flags, ?_⟩,
        fun q named pending => ⟨after.ends q named pending, fun open_ => ?_⟩, after.marks, after.stays⟩
    · rw [ring, State.passEntry_ring]
    · rw [ring]
      exact List.mem_append_left _ (List.mem_append_right _ List.mem_cons_self)
    · exact State.bare_tag.trans (Nat.mod_eq_of_lt (entTag_lt e))
    · exact State.bare_status.trans ((Nat.mod_eq_of_lt (cancelStatus_lt o)).trans (cancelStatus_eq o))
    · rw [show o = some q from named]
      exact State.acceptCancel_records _ _ _ pending ((s.passEntry_up r.val q.ring).trans open_)
  · let b := s.mailbox m.val
    have keeps := State.acceptCancel_keeps (.refl s) (List.Subset.refl _) q.ring (b.arg 1) (b.arg 0) (some q)
    have listed : ∀ x, some q = some x → x ∈ s.srv.reqs := fun x same => State.cancelTarget_mem (named.trans same)
    have after := State.acceptCancel_cancels listed q.ring (b.arg 1) (b.arg 0)
    rw [named] at room
    exact yields_of (exec_reqCancel waits rfl named up room)
      ⟨State.completes_after (keeps.same .mbx (by decide)) (keeps.same .clk (by decide)) .., after.ends q rfl, after.marks q rfl⟩

end

section
/-! The last records of a request look through every ring for cancels that came too late (R213, Table 8.9), which keeps no default
entry: in a table that lists a ring twice, which no update makes, the second entry may then show, and with it another tenant. EMIT is
stated of every state, also of these. -/

-- one proof at a time: side by side, their stacks and heaps do not fit beside the rest of the text
set_option Elab.async false

namespace Sys2Proof.Machine

/-- A plan image of period 100 whose hub list alone holds a step: EMIT, of LEN 8 and SLOT 0. Its parameters are all zero, so that it
reads one token at address 0. -/
def emittingImage : Bytes :=
  toLe 4 0 ++ toLe 4 100 ++ toLe 6 0 ++ toLe 2 1 ++ toLe 24 0 ++ toLe 8 0x58 ++ toLe 32 0 ++ toLe 4 0x58 ++ toLe 4 1 ++
    (toLe 4 0 ++ toLe 4 8 ++ toLe 1 0xD ++ toLe 55 0)

/-- That step, due since pick 0. -/
def emitDue : Due := ⟨1, 4, 0, 0, 0, false, 8, some 0, some 0, some 0, 0⟩

/-- A Generating request of ring 0 that may emit one token more. -/
def endingRequest : Request := ⟨7, 1, false, 2, 9, [0], 1, 0, 0, 1, 0, 0, 0, 0, 2, 1, 0, 0, none, false, false, none⟩

/-- Context 1 runs the plan, its slot 0 holds the request, and address 0 lies in its arena. Ring 0 is listed as not set up, and then
again with tenant 5. -/
def ringListedTwice : State :=
  { State.reset with
    clk := { pick := 1 }
    sched := { due := [emitDue] }
    kvt := { arenas := [(1, { frames := 1, frameBlk := 1 })] }
    ctxs := [(1, {
      ctl := { opened := true, state := 4, launchPick := some 0, plan := some emittingImage }
      slots := [(0, { req := some 7 })] })]
    srv := { rings := [(0, {}), (0, { tenant := 5 })], reqs := [endingRequest] } }

/-- The balance of tenant `k` after a command. -/
def balanceAfter (k : Nat) : Host.Outcome State Fault Refusal → Int
  | .next t => (t.tenant k).bal
  | _ => 0

/-- The step may start, in a context without twill or strict mode; its slot holds the request and nothing has been raised. -/
theorem ringListedTwice_starts : let c := (1 : Fin 256).val
    ringListedTwice.mayStart c 4 (0 : BitVec 18).toNat 0xD emitDue ∧
    (ringListedTwice.stepAt c 4 (0 : BitVec 18).toNat).slot = 0 ∧ ringListedTwice.slotReq c 0 = some endingRequest ∧
    (ringListedTwice.ctx c).ctl.twillEff = false ∧ (ringListedTwice.ctx c).ctl.strictEff = false ∧
    (ringListedTwice.batch c 0).attempt = {} ∧ (ringListedTwice.batch c 0).check = {} ∧
    (ringListedTwice.batch c 0).raised = [] := by
  refine ⟨?_, ?_, ?_, ?_, ?_, ?_, ?_, ?_⟩ <;> decide +kernel

/-- The step reads one token, and no proposal; the read checks clean. -/
theorem ringListedTwice_reads : let c := (1 : Fin 256).val
    let p := stepParam (ringListedTwice.image c) (ringListedTwice.stepAt c 4 (0 : BitVec 18).toNat) 32
    max (emitW p) 1 = 1 ∧ ringListedTwice.fabricStatus c 4 2 (addrLocal (emitMain p)) 4 = 0 ∧
    ringListedTwice.failingBlocks [] (addrLocal (emitMain p)) 4 = [] := by
  refine ⟨?_, ?_, ?_⟩ <;> decide +kernel

/-- By its first entry ring 0 belongs to tenant 0. Tenant 5 is charged, and tenant 0 is not. -/
theorem ringListedTwice_charged :
    (ringListedTwice.ring 0).tenant = 0 ∧ ringListedTwice.tenant 0 = {} ∧
    balanceAfter 0 (exec (.emitStep 1 4 (0, [])) ringListedTwice) = 0 ∧
    balanceAfter 5 (exec (.emitStep 1 4 (0, [])) ringListedTwice) = -1 := by
  refine ⟨?_, ?_, ?_, ?_⟩ <;> decide +kernel

/-- A window's charge leaves no balance of 0. -/
theorem charged_negative (n : Nat) : max ((0 : Int) - (max n 1 : Nat)) (-(2 ^ 31 : Int)) ≤ -1 := by omega

/-- A request that may emit one token more needs no open record: its only record is its last. -/
theorem cutTokens_last (stop0 stop1 : Nat) (ys : List Nat) :
    let cut := cutTokens stop0 stop1 1 ys
    (if cut.2 then cut.1.length - 1 else cut.1.length) = 0 := by
  cases ys with
  | nil => rfl
  | cons y ys => by_cases stop : y = stop0 ∨ y = stop1 <;> simp [cutTokens, stop]

end Sys2Proof.Machine

open Sys2Proof Sys2Proof.Machine

/-- Refutes O30: the last token of a request of ring 0, which belongs to tenant 0 by its first entry; the entry, a default, is dropped
with the search for late cancels, and the window is charged to tenant 5 by the second. -/
theorem not_emitAdvancesTheRequest : ¬ Obligations.EmitAdvancesTheRequest := by
  rintro ⟨emits, -⟩
  obtain ⟨may, slot, filled, twill, strict, attempt, check, raised⟩ := ringListedTwice_starts
  obtain ⟨one, allowed, clean⟩ := ringListedTwice_reads
  obtain ⟨owner, unspent, kept, -⟩ := ringListedTwice_charged
  have own : endingRequest.ring = 0 := rfl
  have served := emits ringListedTwice 1 0 [] emitDue endingRequest may (by rw [slot]; exact filled) rfl rfl twill strict
    (fun _ struck => absurd struck List.not_mem_nil)
  simp only [one, slot, own] at served
  obtain ⟨t, ran, -, -, -, charged, -⟩ := served
    (by rw [if_neg (lt_irrefl 1)]; exact List.forall_mem_singleton.mpr ⟨allowed, clean⟩) attempt check raised
    ((cutTokens_last ..).trans_le (Nat.zero_le _))
  rw [owner, unspent] at charged
  have spent : (t.tenant 0).bal ≤ -1 := (charged (by decide) (by decide)).trans_le (charged_negative _)
  rw [ran] at kept
  exact absurd (kept.symm.trans_le spent) (by decide)

end

section
/-! Weights that come and go (R226, R227, R234, R243): what programming, releasing and zeroing leave of the arrays, and the commands that
open and close a context and fill its key slot. -/

-- one proof at a time: side by side, their stacks and heaps do not fit beside the rest of the text
set_option Elab.async false

namespace Sys2Proof.Machine

variable {s t u : State} {c h g : Nat}

/-! ## Work done in turn -/

section
variable {α : Type} {f : State → α → State} {P I : State → Prop} {l : List α} {a : α}

/-- What every turn keeps holds at the end. -/
theorem State.each_holds (turn : ∀ t, ∀ b ∈ l, P t → P (f t b)) (start : P s) : P (State.each l f s) := by
  induction l generalizing s with
  | nil => exact start
  | cons b l ih => exact ih (fun t e he => turn t e (.tail _ he)) (turn s b (.head _) start)
/-- What the turn of `a` brings about, and no other turn undoes, holds at the end. -/
theorem State.each_reaches (listed : a ∈ l) (turn : ∀ t b, I t → I (f t b)) (stays : ∀ t b, P t → P (f t b))
    (visit : ∀ t, I t → P (f t a)) (start : I s) : P (State.each l f s) := by
  induction l generalizing s with
  | nil => cases listed
  | cons b l ih =>
    rcases List.mem_cons.mp listed with rfl | listed
    · exact State.each_holds (P := P) (s := f s a) (fun t e _ => stays t e) (visit s start)
    · exact ih listed (turn s b start)
theorem State.each_visits (P : State → Prop) (listed : a ∈ l) (stays : ∀ t b, P t → P (f t b)) (visit : ∀ t, P (f t a))
    (s : State) : P (State.each l f s) :=
  State.each_reaches (I := fun _ => True) listed (fun _ _ _ => trivial) stays (fun t _ => visit t) trivial
end

/-! ## Arrays and memory alone -/

/-- From `s` to `t` only the arrays and memory may have changed. -/
def State.ArraysOnly (s t : State) : Prop := ∃ arr mem, t = { s with arr := arr, mem := mem }

theorem State.ArraysOnly.refl (s : State) : s.ArraysOnly s := ⟨_, _, rfl⟩
theorem State.ArraysOnly.trans (h : s.ArraysOnly t) (h' : t.ArraysOnly u) : s.ArraysOnly u := by
  obtain ⟨arr, mem, rfl⟩ := h
  obtain ⟨arr', mem', rfl⟩ := h'
  exact ⟨_, _, rfl⟩
theorem State.ArraysOnly.frame (h : s.ArraysOnly t) : t = { s with arr := t.arr, mem := t.mem } := by
  obtain ⟨arr, mem, rfl⟩ := h
  rfl
theorem State.ArraysOnly.ctx (h : s.ArraysOnly t) (d : Nat) : t.ctx d = s.ctx d := by
  obtain ⟨arr, mem, rfl⟩ := h
  rfl
theorem State.ArraysOnly.outOfUse (h : s.ArraysOnly t) (kind idx : Nat) : t.outOfUse kind idx = s.outOfUse kind idx := by
  obtain ⟨arr, mem, rfl⟩ := h
  rfl
theorem State.modHeddle_arrays (s : State) (g : Nat) (f : Heddle → Heddle) : s.ArraysOnly (s.modHeddle g f) := ⟨_, _, rfl⟩
theorem State.modHarness_arrays (s : State) (h : Nat) (f : Harness → Harness) : s.ArraysOnly (s.modHarness h f) := ⟨_, _, rfl⟩
theorem State.each_arrays {α : Type} {f : State → α → State} (turn : ∀ (t : State) a, t.ArraysOnly (f t a))
    (l : List α) (s : State) : s.ArraysOnly (State.each l f s) :=
  State.each_holds (P := fun t => s.ArraysOnly t) (fun t b _ only => only.trans (turn t b)) (.refl s)

/-! ## Release (R243) -/

theorem mem_heddlesOf : g ∈ heddlesOf h ↔ g / 64 = h := by
  simp only [heddlesOf, List.mem_map, List.mem_range]
  exact ⟨fun ⟨i, small, e⟩ => by omega, fun e => ⟨g % 64, by omega, by omega⟩⟩

/-- A heddle of a harness that has become free, or that is out of use. -/
def Heddle.freed (out : Bool) (x : Heddle) : Heddle :=
  { x with role := if out then 3 else 0, context := 0, programmed := false, marginal := false, patternLost := false, repair := [] }
theorem State.releaseHarness_sealed (s : State) (h : Nat) :
    s.releaseHarness true h = s.modHarness h fun x => { x with zeroing := true } := rfl
theorem State.releaseHarness_open (s : State) (h : Nat) : s.releaseHarness false h =
    State.each (heddlesOf h) (fun s g => s.modHeddle g (Heddle.freed (s.outOfUse 1 h))) s := rfl
theorem State.releaseHarness_arrays (s : State) (sealed_ : Bool) (h : Nat) : s.ArraysOnly (s.releaseHarness sealed_ h) := by
  cases sealed_ with
  | true => exact s.modHarness_arrays ..
  | false => exact State.each_arrays (fun t g => t.modHeddle_arrays ..) _ s
theorem State.releaseSet_arrays (s : State) (sealed_ : Bool) (w : WeightSet) : s.ArraysOnly (s.releaseSet sealed_ w) :=
  State.each_arrays (fun t _ => t.releaseHarness_arrays ..) _ s

/-- Harness `h` has left a set: it waits to be zeroed, or none of its heddles is programmed and each has the role of a free one. -/
def State.Released (s : State) (sealed_ : Bool) (h : Nat) : Prop :=
  if sealed_ then (s.harness h).zeroing = true
  else ∀ i, i < 64 → (s.heddle (64 * h + i)).programmed = false ∧
    (s.heddle (64 * h + i)).role = if s.outOfUse 1 h then 3 else 0

theorem State.releaseHarness_heddle {sealed_ : Bool} (away : g / 64 ≠ h) (s : State) :
    (s.releaseHarness sealed_ h).heddle g = s.heddle g := by
  cases sealed_ with
  | true => rfl
  | false =>
    rw [State.releaseHarness_open]
    refine State.each_holds (P := fun t => t.heddle g = s.heddle g) (fun t b own same => ?_) rfl
    have other : g ≠ b := fun e => away (e ▸ mem_heddlesOf.mp own)
    rw [State.modHeddle_heddle_other _ other, same]
theorem State.releaseHarness_releases (s : State) (sealed_ : Bool) (h : Nat) : (s.releaseHarness sealed_ h).Released sealed_ h := by
  cases sealed_ with
  | true => exact congrArg Harness.zeroing (s.modHarness_harness h _)
  | false =>
    intro i small
    have own : 64 * h + i ∈ heddlesOf h := mem_heddlesOf.mpr (by omega)
    generalize 64 * h + i = g at own
    have freed (t : State) : let x := (t.modHeddle g (Heddle.freed (t.outOfUse 1 h))).heddle g
        x.programmed = false ∧ x.role = if t.outOfUse 1 h then 3 else 0 := by
      rw [State.modHeddle_heddle]
      exact ⟨rfl, rfl⟩
    rw [State.releaseHarness_open]
    refine State.each_visits (fun t => (t.heddle g).programmed = false ∧ (t.heddle g).role = if t.outOfUse 1 h then 3 else 0)
      own (fun t b released => ?_) freed s
    rcases eq_or_ne g b with rfl | other
    · exact freed t
    · rwa [State.modHeddle_heddle_other _ other]
theorem State.Released.releaseHarness {sealed_ : Bool} (done : s.Released sealed_ h) (k : Nat) :
    (s.releaseHarness sealed_ k).Released sealed_ h := by
  rcases eq_or_ne h k with rfl | other
  · exact s.releaseHarness_releases sealed_ h
  cases sealed_ with
  | true =>
    rw [State.Released, State.releaseHarness_sealed, State.modHarness_harness_other _ other]
    exact done
  | false =>
    intro i small
    rw [State.releaseHarness_heddle (by omega), (s.releaseHarness_arrays false k).outOfUse]
    exact done i small
theorem State.Released.releaseSet {sealed_ : Bool} (done : s.Released sealed_ h) (w : WeightSet) :
    (s.releaseSet sealed_ w).Released sealed_ h :=
  State.each_holds (P := fun t => t.Released sealed_ h) (fun _ k _ done => done.releaseHarness k) done
theorem State.releaseSet_releases {w : WeightSet} (uses : h ∈ w.harnesses) (s : State) (sealed_ : Bool) :
    (s.releaseSet sealed_ w).Released sealed_ h :=
  State.each_visits (fun t => t.Released sealed_ h) uses (fun _ k done => done.releaseHarness k)
    (fun t => t.releaseHarness_releases sealed_ h) s

/-! ## Commands that change a context (Table 9.5) -/

theorem State.modCtx_command (s : State) (c : Nat) (f : Ctx → Ctx) (m status : Nat) (res : List Nat) :
    s.CtxCommand m status res ((s.modCtx c f).complete m status res) := by
  have rest : s.modCtx c f = { s with ctxs := (s.modCtx c f).ctxs } := rfl
  have mbx : (s.modCtx c f).mbx = s.mbx := rfl
  have clk : (s.modCtx c f).clk = s.clk := rfl
  generalize s.modCtx c f = v at rest mbx clk
  refine ⟨?_, State.completes_after mbx clk m status res⟩
  rw [State.complete_eq, rest]
theorem State.modCtx_complete_ctx (s : State) (c : Nat) (f : Ctx → Ctx) (m status : Nat) (res : List Nat) :
    ((s.modCtx c f).complete m status res).ctx c = f (s.ctx c) := by
  rw [State.complete_ctx, State.modCtx_ctx]
theorem State.modCtx_complete_other {d : Nat} (other : d ≠ c) (s : State) (f : Ctx → Ctx) (m status : Nat) (res : List Nat) :
    ((s.modCtx c f).complete m status res).ctx d = s.ctx d := by
  rw [State.complete_ctx, s.modCtx_ctx_other other]

/-! ### CTX_OPEN (R221) -/

section
variable {m : Fin 16} {recipe : Bytes}

/-- The length of the recipe that CTX_OPEN of an open class names. -/
def State.recipeLength (s : State) (m : Nat) (recipe : Bytes) : Nat :=
  let b := s.mailbox m
  if b.arg 2 = 0 then recSize (s.hostData m b (b.arg2 3) 64 recipe) else 0
/-- CTX_OPEN may open the context. -/
def State.MayOpen (s : State) (m : Nat) (recipe : Bytes) : Prop :=
  let b := s.mailbox m
  b.arg 0 ≤ 255 ∧ (s.ctx (b.arg 0)).ctl.opened = false ∧ b.arg 1 ≤ 1 ∧ b.arg 2 ≤ 1 ∧ b.arg2 5 % 4096 = 0 ∧
    b.arg2 5 + b.arg2 7 ≤ hubBase ∧ pastXfer m b (b.arg2 3) (s.recipeLength m recipe) = false
/-- A context that CTX_OPEN has opened. -/
def State.openedCtx (s : State) (m : Nat) (recipe : Bytes) (x : Ctx) : Ctx :=
  let b := s.mailbox m
  { x with
    cur := { recipe := if b.arg 2 = 0 then s.hostData m b (b.arg2 3) (s.recipeLength m recipe) recipe else [] }
    ctl := { x.ctl with
      opened := true, device := b.arg 1 == 1, sealed := b.arg 2 == 1, auxBase := b.arg2 5, auxSize := b.arg2 7, gen := 0 } }

theorem State.not_mayOpen_iff {m : Nat} : ¬ s.MayOpen m recipe ↔ let b := s.mailbox m
    255 < b.arg 0 ∨ (s.ctx (b.arg 0)).ctl.opened = true ∨ 1 < b.arg 1 ∨ 1 < b.arg 2 ∨ b.arg2 5 % 4096 ≠ 0 ∨
      hubBase < b.arg2 5 + b.arg2 7 ∨ pastXfer m b (b.arg2 3) (s.recipeLength m recipe) = true := by
  simp only [State.MayOpen, not_and_or, Nat.not_le, Bool.not_eq_false, ne_eq]
theorem exec_ctxOpen_refused (waits : s.awaits m.val 0x1000) (bad : ¬ s.MayOpen m.val recipe) :
    exec (.ctxOpen m recipe) s = .next (s.complete m.val 0x11 []) :=
  (exec_awaited rfl waits).trans (congrArg _ (if_pos (State.not_mayOpen_iff.mp bad)))
theorem exec_ctxOpen_opens (waits : s.awaits m.val 0x1000) (good : s.MayOpen m.val recipe) : exec (.ctxOpen m recipe) s =
    .next ((s.modCtx ((s.mailbox m.val).arg 0) (s.openedCtx m.val recipe)).complete m.val 0 []) :=
  (exec_awaited rfl waits).trans (congrArg _ (if_neg fun bad => State.not_mayOpen_iff.mpr bad good))
end

/-! ### CTX_CLOSE (R227, R243) -/

section
variable {m : Fin 16}

/-- CTX_CLOSE may close context `c`: Disabled, without a load in progress and without an open stream. -/
def State.MayClose (s : State) (c : Nat) : Prop :=
  c ≤ 255 ∧ (s.ctx c).ctl.opened = true ∧ (s.ctx c).ctl.state = 0 ∧ (s.ctx c).held = none ∧
    ∀ e ∈ s.srv.streams, e.2.opened = true → e.2.ctx ≠ c
/-- What is left of a closed context: its records, and what its control registers ask for. -/
def Ctx.closed (x : Ctx) : Ctx :=
  { recs := x.recs
    ctl := { maskReq := x.ctl.maskReq, maskEff := x.ctl.maskEff, strictReq := x.ctl.strictReq, strictEff := x.ctl.strictEff
             strictMaskReq := x.ctl.strictMaskReq, strictMaskEff := x.ctl.strictMaskEff, twillReq := x.ctl.twillReq
             reason := x.ctl.reason, reasonList := x.ctl.reasonList, reasonStep := x.ctl.reasonStep } }
/-- Both sets of context `c` are released. -/
def State.releaseSets (s : State) (c : Nat) : State :=
  State.each (s.ctx c).sets (fun t w => t.releaseSet (s.ctx c).ctl.sealed w) s
theorem State.closeCtx_eq (s : State) (c : Nat) : s.closeCtx c = (s.releaseSets c).modCtx c Ctx.closed := rfl
theorem State.releaseSets_frame (s : State) (c : Nat) : s.releaseSets c = { s with arr := (s.releaseSets c).arr } := by
  have keeps : Keeps [.heddles, .harnesses] s (s.releaseSets c) :=
    State.each_keeps (.refl s) fun _ _ h => State.releaseSet_keeps h (by decide) ..
  have only : s.ArraysOnly (s.releaseSets c) := State.each_arrays (fun t _ => t.releaseSet_arrays ..) _ s
  have mem : (s.releaseSets c).mem = s.mem := keeps.same .mem (by decide)
  exact mem ▸ only.frame
theorem State.releaseSets_releases {w : WeightSet} (own : w ∈ (s.ctx c).sets) (uses : h ∈ w.harnesses) :
    (s.releaseSets c).Released (s.ctx c).ctl.sealed h :=
  State.each_visits (fun t => t.Released (s.ctx c).ctl.sealed h) own (fun _ w done => done.releaseSet w)
    (State.releaseSet_releases uses · _) s

theorem State.not_mayClose_iff : ¬ s.MayClose c ↔ (255 < c || !(s.ctx c).ctl.opened || (s.ctx c).ctl.state != 0 ||
    (s.ctx c).held.isSome || s.srv.streams.any (fun t => t.2.opened && t.2.ctx == c)) = true := by
  simp only [State.MayClose, not_and_or, not_forall, Bool.or_eq_true, decide_eq_true_eq, Nat.not_le, Bool.not_eq_true, Bool.not_eq_true',
    bne_iff_ne, ne_eq, List.any_eq_true, Bool.and_eq_true, beq_iff_eq, or_assoc, not_not, Option.isSome_iff_ne_none, exists_prop]
theorem exec_ctxClose_refused (waits : s.awaits m.val 0x1001) (bad : ¬ s.MayClose ((s.mailbox m.val).arg 0)) :
    exec (.ctxClose m) s = .next (s.complete m.val 0x11 []) :=
  (exec_awaited rfl waits).trans (congrArg _ (if_pos (State.not_mayClose_iff.mp bad)))
theorem exec_ctxClose_closes (waits : s.awaits m.val 0x1001) (good : s.MayClose ((s.mailbox m.val).arg 0)) :
    exec (.ctxClose m) s = .next ((s.closeCtx ((s.mailbox m.val).arg 0)).complete m.val 0 []) :=
  (exec_awaited rfl waits).trans (congrArg _ (if_neg fun bad => State.not_mayClose_iff.mpr bad good))
end

/-! ### WGT_KEY (R226, R393) -/

section
variable {m : Fin 16} {record : Bytes}

/-- WGT_KEY may look at the record: of an open sealed context, and without debug access. -/
def State.MayKey (s : State) (m : Nat) : Prop :=
  let b := s.mailbox m
  b.arg 0 ≤ 255 ∧ (s.ctx (b.arg 0)).ctl.opened = true ∧ (s.ctx (b.arg 0)).ctl.sealed = true ∧ s.sec.debug = false ∧
    pastXfer m b (b.arg2 1) 2048 = false
/-- The content key that the record gives. -/
def State.recordKey (s : State) (m : Nat) (record : Bytes) : Option Bytes :=
  let b := s.mailbox m
  unwrapKey (b.arg 0) (s.hostData m b (b.arg2 1) 2048 record)

theorem State.not_mayKey_iff {m : Nat} : ¬ s.MayKey m ↔ let b := s.mailbox m
    (255 < b.arg 0 || !(s.ctx (b.arg 0)).ctl.opened || !(s.ctx (b.arg 0)).ctl.sealed || s.sec.debug ||
      pastXfer m b (b.arg2 1) 2048) = true := by
  simp only [State.MayKey, not_and_or, Nat.not_le, Bool.or_eq_true, decide_eq_true_eq, Bool.not_eq_true', Bool.not_eq_true,
    Bool.not_eq_false, or_assoc]
theorem exec_wgtKey_refused (waits : s.awaits m.val 0x1002) (bad : ¬ s.MayKey m.val) :
    exec (.wgtKey m record) s = .next (s.complete m.val 0x11 []) :=
  (exec_awaited rfl waits).trans (congrArg _ (if_pos (State.not_mayKey_iff.mp bad)))

variable (waits : s.awaits m.val 0x1002) (good : s.MayKey m.val)
include waits good

/-- What WGT_KEY does that may look at the record. -/
theorem exec_wgtKey_looks : exec (.wgtKey m record) s = .next (
    if s.sec.derivationEnded = false then s
    else if s.sec.keysReady = false then s.complete m.val 0x11 []
    else match s.recordKey m.val record with
      | none => s.complete m.val 0x16 []
      | some key => (s.modCtl ((s.mailbox m.val).arg 0) fun k => { k with keyHeld := true, key := key }).complete m.val 0 []) := by
  refine (exec_awaited rfl waits).trans (congrArg _ ((if_neg fun bad => State.not_mayKey_iff.mpr bad good).trans ?_))
  simp only [Bool.not_eq_true']
  rfl
theorem exec_wgtKey_waits (derives : s.sec.derivationEnded = false) : exec (.wgtKey m record) s = .next s := by
  rw [exec_wgtKey_looks waits good, if_pos derives]
theorem exec_wgtKey_fails (ended : s.sec.derivationEnded = true) (fails : s.sec.keysReady = false ∨ s.recordKey m.val record = none) :
    exec (.wgtKey m record) s = .next (s.complete m.val (if s.sec.keysReady then 0x16 else 0x11) []) := by
  rw [exec_wgtKey_looks waits good, ended]
  cases ready : s.sec.keysReady with
  | false => rfl
  | true =>
    rw [fails.resolve_left (by simp [ready])]
    rfl
theorem exec_wgtKey_fills (ended : s.sec.derivationEnded = true) (ready : s.sec.keysReady = true) {x : Bytes}
    (key : s.recordKey m.val record = some x) : exec (.wgtKey m record) s =
      .next ((s.modCtl ((s.mailbox m.val).arg 0) fun k => { k with keyHeld := true, key := x }).complete m.val 0 []) := by
  rw [exec_wgtKey_looks waits good, ended, ready, key]
  rfl
end

end Sys2Proof.Machine

open Sys2Proof Sys2Proof.Machine

/-- Settles O42: each command is refused or changes its context alone; a harness that a close releases stays released whatever other
harness is released after it. -/
theorem contextsOpenAndClose : Obligations.ContextsOpenAndClose := by
  refine ⟨fun s m recipe waits => ?_, fun s m waits => ?_, fun s m record waits => ⟨fun bad => ?_, fun good derives => ?_,
    fun good ended fails => ?_, fun x good ended ready key => ?_⟩, fun s who j n acts => ?_⟩
  · by_cases good : s.MayOpen m.val recipe
    · obtain ⟨rest, done⟩ := s.modCtx_command ((s.mailbox m.val).arg 0) (s.openedCtx m.val recipe) m.val 0 []
      exact yields_of (exec_ctxOpen_opens waits good) ⟨rest, fun d other => State.modCtx_complete_other other ..,
        fun bad => absurd good bad, fun _ => ⟨done, State.modCtx_complete_ctx ..⟩⟩
    · exact yields_of (exec_ctxOpen_refused waits good) ⟨s.complete_eq .., fun _ _ => rfl, fun _ => s.refused_command ..,
        fun ok => absurd ok good⟩
  · by_cases good : s.MayClose ((s.mailbox m.val).arg 0)
    · have released (w) (own : w ∈ (s.ctx ((s.mailbox m.val).arg 0)).sets) (h) (uses : h ∈ w.harnesses) :=
        State.releaseSets_releases own uses
      refine yields_of (exec_ctxClose_closes waits good) ?_
      rw [State.closeCtx_eq]
      rw [State.releaseSets_frame] at released ⊢
      generalize (s.releaseSets ((s.mailbox m.val).arg 0)).arr = arr at released
      have own := State.modCtx_complete_ctx { s with arr := arr } ((s.mailbox m.val).arg 0) Ctx.closed m.val 0 []
      refine ⟨rfl, fun d other => State.modCtx_complete_other other .., fun bad => absurd good bad, fun _ =>
        ⟨State.completes_after rfl rfl .., ?_⟩⟩
      rw [own]
      exact ⟨rfl, rfl, rfl, rfl, rfl, rfl, rfl, rfl, rfl, released⟩
    · exact yields_of (exec_ctxClose_refused waits good) ⟨s.complete_eq .., fun _ _ => rfl,
        fun _ => ⟨s.complete_completes .., rfl, rfl⟩, fun ok => absurd ok good⟩
  · exact yields_refused (exec_wgtKey_refused waits bad)
  · exact exec_wgtKey_waits waits good derives
  · exact yields_of (exec_wgtKey_fails waits good ended fails) ⟨s.complete_completes .., s.complete_eq ..⟩
  · obtain ⟨rest, done⟩ := s.modCtl_command ((s.mailbox m.val).arg 0) (fun k => { k with keyHeld := true, key := x }) m.val 0 []
    exact yields_of (exec_wgtKey_fills waits good ended ready key)
      ⟨done, State.modCtx_complete_ctx .., fun d other => State.modCtx_complete_other other .., rest⟩
  · exact congrArg Host.Outcome.next (State.prvWrite_done acts _)

end

section
/-! Held loads (R235, R236, R238) and harnesses that wait to be zeroed (R243). -/

-- one proof at a time: side by side, their stacks and heaps do not fit beside the rest of the text
set_option Elab.async false

namespace Sys2Proof.Machine

variable {s t : State} {c g k : Nat} {h : HeldLoad} {w : Nat × ImageAt × Bytes}

/-! ## Writing a heddle (R234) -/

/-- From `s` to `t` no heddle that was programmed has ceased to be. -/
def State.Programs (s t : State) : Prop := ∀ k, (s.heddle k).programmed = true → (t.heddle k).programmed = true

theorem State.Programs.refl (s : State) : s.Programs s := fun _ done => done
theorem State.Programs.trans {u : State} (h : s.Programs t) (h' : t.Programs u) : s.Programs u := fun k done => h' k (h k done)
theorem Keeps.programs {B : List Block} (keeps : Keeps B s t) (other : Block.heddles ∉ B) : s.Programs t := fun k done => by
  rwa [keeps.heddle_eq other]
theorem State.modHeddle_programs {f : Heddle → Heddle} (hf : ∀ x, x.programmed = true → (f x).programmed = true) (s : State)
    (g : Nat) : s.Programs (s.modHeddle g f) := fun k done => by
  rcases eq_or_ne k g with rfl | other
  · rw [State.modHeddle_heddle]
    exact hf _ done
  · rwa [State.modHeddle_heddle_other _ other]
theorem State.programHeddle_programs (s : State) (g : Nat) : s.Programs (s.programHeddle g) :=
  s.modHeddle_programs (fun _ _ => rfl) g
theorem State.programHeddle_programmed (s : State) (g : Nat) : ((s.programHeddle g).heddle g).programmed = true :=
  congrArg Heddle.programmed (s.modHeddle_heddle g _)
theorem State.patternGone_programs (s : State) (g : Nat) : s.Programs (s.patternGone g) :=
  s.modHeddle_programs (f := fun x => { x with patternLost := true }) (fun _ done => done) g
theorem State.reprogram_programs (s : State) (h : Nat) : s.Programs (s.reprogram h) := by
  refine State.each_holds (P := fun t => s.Programs t) (fun t i _ done => done.trans ?_) (.refl s)
  have read : t.Programs (t.patternRead i.heddle []).2 :=
    (State.patternRead_keeps (.refl t) (List.Subset.refl _) ..).programs (by decide)
  dsimp only
  split
  · exact read.trans (State.programHeddle_programs _ _)
  · exact read.trans (State.patternGone_programs _ _)
theorem State.wakeHarness_programs (s : State) (h : Nat) : s.Programs (s.wakeHarness h) := by
  have active (t : State) : t.Programs ((t.modHarness h fun x =>
      { x with req := 1, state := 1, goal := none, held := false, reprogram := false }).trimmed h) :=
    (State.trimmed_keeps (B := [.harnesses, .looms, .windows]) (State.modHarness_keeps (.refl t) (by decide) ..) (by decide)
      h).programs (by decide)
  unfold State.wakeHarness
  dsimp only
  split_ifs
  · exact .refl s
  · exact (s.reprogram_programs h).trans (active _)
  · exact active s
theorem State.writeHeddle_programs (s : State) (w : Nat × ImageAt × Bytes) : s.Programs (s.writeHeddle w) := by
  have woken := s.wakeHarness_programs (harnessOfHeddle w.2.1.heddle)
  have copied := (State.unitWrite_keeps (.refl (s.wakeHarness (harnessOfHeddle w.2.1.heddle))) (List.Subset.refl _)
    (patternAddr w.2.1.heddle) (padTo 0 0x9000 w.2.2)).programs (by decide)
  exact (woken.trans copied).trans (State.programHeddle_programs _ _)
theorem State.writeHeddle_programmed (s : State) (w : Nat × ImageAt × Bytes) :
    ((s.writeHeddle w).heddle w.2.1.heddle).programmed = true := State.programHeddle_programmed ..

/-! ## Held writes that are made (R235) -/

/-- The writes of a list are made. -/
def State.writeAll (s : State) (l : List (Nat × ImageAt × Bytes)) : State := State.each l State.writeHeddle s
theorem State.writeAll_keeps (s : State) (l : List (Nat × ImageAt × Bytes)) :
    Keeps [.mem, .heddles, .harnesses, .looms, .scrub, .windows, .history, .memChecks, .obs, .agg] s (s.writeAll l) :=
  State.each_keeps (.refl s) fun _ w keeps => State.writeHeddle_keeps keeps (List.Subset.refl _) w
theorem State.writeAll_programmed {l : List (Nat × ImageAt × Bytes)} (listed : w ∈ l) (s : State) :
    ((s.writeAll l).heddle w.2.1.heddle).programmed = true :=
  State.each_visits (fun t => (t.heddle w.2.1.heddle).programmed = true) listed
    (fun t b done => t.writeHeddle_programs b _ done) (fun t => t.writeHeddle_programmed w) s

/-- The held writes that cannot be made yet. -/
def State.stillHeld (s : State) (c : Nat) (h : HeldLoad) : List (Nat × ImageAt × Bytes) :=
  h.writes.filter fun w => !s.mayWrite c h w
/-- The held writes that can be made now are made. -/
def State.writeHeld (s : State) (c : Nat) (h : HeldLoad) : State := s.writeAll (h.writes.filter (s.mayWrite c h))
theorem State.writeHeld_programmed (listed : w ∈ h.writes) (may : s.mayWrite c h w = true) :
    ((s.writeHeld c h).heddle w.2.1.heddle).programmed = true :=
  s.writeAll_programmed (List.mem_filter.mpr ⟨listed, may⟩)

theorem State.loadDone_ctx (s : State) (m c status : Nat) (tier : Option Nat) (res : List Nat) : (s.loadDone m c status tier res).ctx c =
    { s.ctx c with ctl := { (s.ctx c).ctl with loadLast := status, loadTier := tier } } := by
  rw [State.loadDone, State.complete_ctx, State.modCtl_ctx]
theorem State.loadDone_heddle (s : State) (m c status : Nat) (tier : Option Nat) (res : List Nat) (g : Nat) :
    (s.loadDone m c status tier res).heddle g = s.heddle g :=
  (State.loadDone_keeps (.refl s) (List.Subset.refl _) ..).heddle_eq (by decide) g
theorem State.loadDone_completes (mbx : t.mbx = s.mbx) (clk : t.clk = s.clk) (m c status : Nat) (tier : Option Nat) (res : List Nat) :
    s.completes (t.loadDone m c status tier res) m status res := State.completes_after (u := t.modCtl c _) mbx clk ..

/-- The load `h` is held for the context. -/
def Ctx.holding (h : HeldLoad) (x : Ctx) : Ctx := { x with held := some h }

theorem exec_loadTierResume_ends {c : Fin 256} (awake : s.awake = true) (held : (s.ctx c.val).held = some h)
    (none_ : s.stillHeld c.val h = []) : exec (.loadTierResume c) s =
      .next (((s.writeHeld c.val h).modCtx c.val fun x => { x with held := none }).loadDone h.mbx c.val 0 none h.result) := by
  have rest : (h.writes.filter fun w => !s.mayWrite c.val h w).isEmpty = true := List.isEmpty_iff.mpr none_
  refine congrArg Host.Outcome.next ?_
  simp only [held, awake, rest, if_true]
  rfl
theorem exec_loadTierResume_holds {c : Fin 256} (awake : s.awake = true) (held : (s.ctx c.val).held = some h)
    (some_ : s.stillHeld c.val h ≠ []) : exec (.loadTierResume c) s =
      .next ((s.writeHeld c.val h).modCtx c.val (Ctx.holding { h with
        writes := s.stillHeld c.val h, tiers := ((s.stillHeld c.val h).map (·.1)).eraseDups })) := by
  have rest : ¬ (h.writes.filter fun w => !s.mayWrite c.val h w).isEmpty = true := fun e => some_ (List.isEmpty_iff.mp e)
  refine congrArg Host.Outcome.next ?_
  simp only [held, awake, rest, if_true]
  rfl

/-! ## A load that is taken back (R236, R238, R243) -/

/-- The first of a sorted list is its least element. -/
theorem sortBy_head {l : List Nat} {m : Nat} (listed : m ∈ l) (least : ∀ x ∈ l, m ≤ x) :
    (sortBy (fun a b => decide (a ≤ b)) l).head? = some m := by
  have insert (a : Nat) : ∀ l : List Nat, (insertBy (fun a b => decide (a ≤ b)) a l).head? = some (l.head?.elim a (min a)) := by
    rintro (_ | ⟨b, l⟩)
    · rfl
    · by_cases le : a ≤ b
      · simp [insertBy, le]
      · simp [insertBy, le, Nat.le_of_not_le le]
  have among (l : List Nat) : ∀ b ∈ (sortBy (fun a b => decide (a ≤ b)) l).head?, b ∈ l := by
    induction l with
    | nil => nofun
    | cons a l ih =>
      rw [sortBy, List.foldr_cons, insert, ← sortBy]
      cases first : (sortBy (fun a b => decide (a ≤ b)) l).head? with
      | none => simp
      | some e =>
        have := ih e first
        rcases min_choice a e with low | low <;> simp [low, this]
  induction l with
  | nil => cases listed
  | cons a l ih =>
    obtain ⟨low, least⟩ := List.forall_mem_cons.mp least
    rw [sortBy, List.foldr_cons, insert, ← sortBy]
    by_cases later : m ∈ l
    · rw [ih later least]
      exact congrArg some (Nat.min_eq_right low)
    · have own : m = a := (List.mem_cons.mp listed).resolve_right later
      rw [← own]
      cases first : (sortBy (fun a b => decide (a ≤ b)) l).head? with
      | none => rfl
      | some e => exact congrArg some (Nat.min_eq_left (least e (among l e first)))

/-- The heddles that a load has written are no longer programmed, and wait to be zeroed where their context is sealed. -/
def State.unwrite (s : State) (sealed_ : Bool) (before after : WeightSet) : State :=
  State.each (after.images.filter fun i => !before.images.contains i)
    (fun s i => s.modHeddle i.heddle fun x => { x with programmed := false, zeroing := sealed_ }) s
/-- The set of a context as it was before a load. -/
def Ctx.restored (staged : Bool) (before : WeightSet) (x : Ctx) : Ctx :=
  if staged then { x with staged := some before } else { x with cur := before }
/-- The harnesses that a load took are released. -/
def State.releaseTaken (s : State) (sealed_ : Bool) (before after : WeightSet) : State :=
  State.each (after.harnesses.filter fun h => !before.harnesses.contains h) (fun s h => s.releaseHarness sealed_ h) s
theorem State.rollLoad_eq (s : State) (c : Nat) (staged : Bool) (before after : WeightSet) : s.rollLoad c staged before after =
    (((s.unwrite (s.ctx c).ctl.sealed before after).modCtx c (Ctx.restored staged before))).releaseTaken
      (s.ctx c).ctl.sealed before after := rfl

section
variable {sealed_ staged : Bool} {before after : WeightSet}

theorem State.unwrite_arrays (s : State) : s.ArraysOnly (s.unwrite sealed_ before after) :=
  State.each_arrays (fun t _ => t.modHeddle_arrays ..) _ s
theorem State.releaseTaken_arrays (s : State) : s.ArraysOnly (s.releaseTaken sealed_ before after) :=
  State.each_arrays (fun t _ => t.releaseHarness_arrays ..) _ s

/-- Heddle `g` holds no image, and is zeroed in time where its context is sealed. -/
def State.Unwritten (s : State) (sealed_ : Bool) (g : Nat) : Prop :=
  (s.heddle g).programmed = false ∧ (sealed_ = true → (s.heddle g).zeroing = true)
theorem State.unwrite_unwrites {i : ImageAt} (wrote : i ∈ after.images) (new : i ∉ before.images) (s : State) :
    (s.unwrite sealed_ before after).Unwritten sealed_ i.heddle := by
  have listed : i ∈ after.images.filter fun i => !before.images.contains i := List.mem_filter.mpr ⟨wrote, by simpa using new⟩
  have own (t : State) : (t.modHeddle i.heddle fun x => { x with programmed := false, zeroing := sealed_ }).Unwritten sealed_ i.heddle := by
    rw [State.Unwritten, State.modHeddle_heddle]
    exact ⟨rfl, id⟩
  refine State.each_visits (fun t => t.Unwritten sealed_ i.heddle) listed (fun t b done => ?_) own s
  rcases eq_or_ne i.heddle b.heddle with same | other
  · exact same ▸ own t
  · rw [State.Unwritten, State.modHeddle_heddle_other _ other]
    exact done
theorem State.Unwritten.releaseHarness (done : s.Unwritten sealed_ g) (k : Nat) : (s.releaseHarness sealed_ k).Unwritten sealed_ g := by
  cases sealed_ with
  | true => exact done
  | false =>
    refine ⟨?_, nofun⟩
    by_cases away : g / 64 = k
    · obtain ⟨free, -⟩ := s.releaseHarness_releases false k (g % 64) (Nat.mod_lt _ (by decide))
      rwa [show 64 * k + g % 64 = g by omega] at free
    · rw [State.releaseHarness_heddle away]
      exact done.1
theorem State.Unwritten.releaseTaken (done : s.Unwritten sealed_ g) : (s.releaseTaken sealed_ before after).Unwritten sealed_ g :=
  State.each_holds (P := fun t => t.Unwritten sealed_ g) (fun _ k _ done => done.releaseHarness k) done
theorem State.releaseTaken_releases {x : Nat} (took : x ∈ after.harnesses) (new : x ∉ before.harnesses) (s : State) :
    (s.releaseTaken sealed_ before after).Released sealed_ x :=
  State.each_visits (fun t => t.Released sealed_ x) (List.mem_filter.mpr ⟨took, by simpa using new⟩)
    (fun _ k done => done.releaseHarness k) (fun t => t.releaseHarness_releases sealed_ x) s

theorem State.rollLoad_ctx (s : State) (c : Nat) : (s.rollLoad c staged before after).ctx c = (s.ctx c).restored staged before := by
  rw [State.rollLoad_eq, (State.releaseTaken_arrays _).ctx, State.modCtx_ctx, (State.unwrite_arrays s).ctx]
theorem State.rollLoad_unwrites {i : ImageAt} (wrote : i ∈ after.images) (new : i ∉ before.images) (s : State) (c : Nat) :
    (s.rollLoad c staged before after).Unwritten (s.ctx c).ctl.sealed i.heddle :=
  State.Unwritten.releaseTaken (s := (s.unwrite _ before after).modCtx c (Ctx.restored staged before)) (s.unwrite_unwrites wrote new)
theorem State.rollLoad_releases {x : Nat} (took : x ∈ after.harnesses) (new : x ∉ before.harnesses) (s : State) (c : Nat) :
    (s.rollLoad c staged before after).Released (s.ctx c).ctl.sealed x := State.releaseTaken_releases took new _
end

/-- The context of a held load that has ended, before its set is as it was. -/
def Ctx.unheld (status : Nat) (tier : Option Nat) (x : Ctx) : Ctx :=
  { x with held := none, ctl := { x.ctl with loadLast := status, loadTier := tier } }
theorem State.endHeld_eq (held : (s.ctx c).held = some h) (status : Nat) (tier : Option Nat) : s.endHeld c status tier =
    ((s.modCtx c (Ctx.unheld status tier)).rollLoad c h.staged h.before h.after).complete h.mbx status [] := by
  simp only [State.endHeld, State.dropHeld, held]
  rfl

theorem exec_loadTierTimeout_late {c : Fin 256} {cold : Nat} (up : s.up = true) (held : (s.ctx c.val).held = some h)
    (late : 4000000000 ≤ s.clk.wall - h.since) (listed : cold ∈ h.tiers) (out : s.tierInWindow cold = false)
    (least : ∀ t ∈ h.tiers, s.tierInWindow t = false → cold ≤ t) :
    exec (.loadTierTimeout c) s = .next (s.endHeld c.val 0x14 (some cold)) := by
  have first := sortBy_head (l := h.tiers.filter fun t => !s.tierInWindow t) (List.mem_filter.mpr ⟨listed, by simp [out]⟩)
    fun t away => by
      obtain ⟨listed, away⟩ := List.mem_filter.mp away
      exact least t listed (by simpa using away)
  have some_ : (sortBy (fun a b => decide (a ≤ b)) (h.tiers.filter fun t => !s.tierInWindow t)).isEmpty = false := by
    cases sorted : sortBy (fun a b => decide (a ≤ b)) (h.tiers.filter fun t => !s.tierInWindow t) with
    | nil => rw [sorted] at first; cases first
    | cons => rfl
  refine congrArg Host.Outcome.next ?_
  simp only [held, up, late, some_, first, decide_true, Bool.not_false, Bool.and_self, if_true]

/-! ## Zeroing (R243) -/

theorem Tab.getD_cut {α : Type} (d : α) (lo hi k : Nat) (l : Tab α) :
    Tab.getD d (Tab.cut lo hi l) k = if lo ≤ k ∧ k < hi then d else Tab.getD d l k := by
  induction l with
  | nil => simp [Tab.cut, Tab.getD]
  | cons e l ih =>
    obtain ⟨j, a⟩ := e
    by_cases gone : lo ≤ j ∧ j < hi
    · rw [Tab.cut, if_pos gone, ih]
      split_ifs with inside
      · rfl
      · have other : j ≠ k := fun e => inside (e ▸ gone)
        simp [Tab.getD, other]
    · rw [Tab.cut, if_neg gone]
      by_cases own : j = k
      · subst own
        simp [Tab.getD, gone]
      · simp [Tab.getD, own, ih]
theorem State.zero_byte (s : State) (a n x : Nat) : (s.zero a n).byte x = if a ≤ x ∧ x < a + n then 0 else s.byte x :=
  Tab.getD_cut ..

/-- A heddle programmed to zero. -/
def Heddle.zeroed (x : Heddle) : Heddle :=
  { x with rows := [], exps := [], programmed := false, zeroing := false, marginal := false, patternLost := false, repair := [] }
theorem State.zeroHeddle_eq (s : State) (g : Nat) : s.zeroHeddle g = (s.modHeddle g Heddle.zeroed).zero (patternAddr g) 0x9000 := rfl
theorem State.zeroHeddle_arrays (s : State) (g : Nat) : s.ArraysOnly (s.zeroHeddle g) := ⟨_, _, rfl⟩
theorem State.zeroHeddle_heddle (s : State) (g : Nat) : (s.zeroHeddle g).heddle g = (s.heddle g).zeroed := s.modHeddle_heddle ..
theorem State.zeroHeddle_other (other : k ≠ g) (s : State) : (s.zeroHeddle g).heddle k = s.heddle k := s.modHeddle_heddle_other other _

/-- Heddle `g` of harness `h` is zeroed and free, and so is its pattern slot. -/
def State.ZeroFree (s : State) (h g : Nat) : Prop :=
  (s.heddle g).rows = [] ∧ (s.heddle g).exps = [] ∧ (s.heddle g).programmed = false ∧
    (s.heddle g).role = (if s.outOfUse 1 h then 3 else 0) ∧
    ∀ a, patternAddr g ≤ a → a < patternAddr g + 0x9000 → s.byte a = 0
/-- A heddle of harness `h` is zeroed, and free again. -/
def State.zeroFree (h : Nat) (s : State) (g : Nat) : State :=
  (s.zeroHeddle g).modHeddle g fun x => { x with role := if s.outOfUse 1 h then 3 else 0, context := 0 }
theorem State.zeroHarness_eq (s : State) (h : Nat) :
    s.zeroHarness h = (State.each (heddlesOf h) (State.zeroFree h) s).modHarness h fun x => { x with zeroing := false } := rfl
theorem State.zeroFree_arrays (s : State) (h g : Nat) : s.ArraysOnly (s.zeroFree h g) :=
  (s.zeroHeddle_arrays g).trans (State.modHeddle_arrays ..)
theorem State.zeroFree_byte (s : State) (h g x : Nat) :
    (s.zeroFree h g).byte x = if patternAddr g ≤ x ∧ x < patternAddr g + 0x9000 then 0 else s.byte x :=
  (s.modHeddle g Heddle.zeroed).zero_byte ..
theorem State.zeroFree_own (s : State) (h g : Nat) : (s.zeroFree h g).ZeroFree h g := by
  have own : (s.zeroFree h g).heddle g =
      { (s.heddle g).zeroed with role := if s.outOfUse 1 h then 3 else 0, context := 0 } := by
    rw [State.zeroFree, State.modHeddle_heddle, State.zeroHeddle_heddle]
  rw [State.ZeroFree, own, (s.zeroFree_arrays h g).outOfUse]
  exact ⟨rfl, rfl, rfl, rfl, fun a lo hi => (s.zeroFree_byte h g a).trans (if_pos ⟨lo, hi⟩)⟩
theorem State.ZeroFree.zeroFree {h : Nat} (done : s.ZeroFree h g) (k : Nat) : (s.zeroFree h k).ZeroFree h g := by
  rcases eq_or_ne g k with rfl | other
  · exact s.zeroFree_own h g
  · have same : (s.zeroFree h k).heddle g = s.heddle g := by
      rw [State.zeroFree, State.modHeddle_heddle_other _ other, State.zeroHeddle_other other]
    obtain ⟨rows, exps, free, role, bytes⟩ := done
    rw [State.ZeroFree, same, (s.zeroFree_arrays h k).outOfUse]
    refine ⟨rows, exps, free, role, fun a lo hi => ?_⟩
    rw [State.zeroFree_byte, bytes a lo hi, ite_self]
theorem State.ZeroFree.modHarness {h : Nat} (done : s.ZeroFree h g) (k : Nat) (f : Harness → Harness) :
    (s.modHarness k f).ZeroFree h g := done
theorem State.zeroHarness_zeroes {h : Nat} (own : g ∈ heddlesOf h) (s : State) : (s.zeroHarness h).ZeroFree h g := by
  have zeroed : (State.each (heddlesOf h) (State.zeroFree h) s).ZeroFree h g :=
    State.each_visits (fun t => t.ZeroFree h g) own (fun _ k done => done.zeroFree k) (fun t => t.zeroFree_own h g) s
  rw [State.zeroHarness_eq]
  exact zeroed.modHarness ..
theorem State.zeroHarness_arrays (s : State) (h : Nat) : s.ArraysOnly (s.zeroHarness h) :=
  (State.each_arrays (fun t g => t.zeroFree_arrays h g) _ s).trans (State.modHarness_arrays ..)
theorem State.zeroHarness_own (s : State) (h : Nat) : ((s.zeroHarness h).harness h).zeroing = false := by
  rw [State.zeroHarness_eq, State.modHarness_harness]
theorem State.zeroHarness_other {h x : Nat} (other : x ≠ h) (s : State) : (s.zeroHarness h).harness x = s.harness x := by
  have keeps : Keeps [.mem, .heddles] s (State.each (heddlesOf h) (State.zeroFree h) s) :=
    State.each_keeps (.refl s) fun _ _ keeps =>
      State.modHeddle_keeps (State.zeroHeddle_keeps keeps (by decide) _) (by decide) ..
  have same : (State.each (heddlesOf h) (State.zeroFree h) s).arr.harnesses = s.arr.harnesses := keeps.same .harnesses (by decide)
  rw [State.zeroHarness_eq, State.modHarness_harness_other _ other, State.harness, same, State.harness]

/-- The heddles of harness `h` that a failed load left are zeroed. -/
def State.zeroLeft (s : State) (h : Nat) : State := State.each ((heddlesOf h).filter fun g => (s.heddle g).zeroing) State.zeroHeddle s
theorem State.zeroLeft_arrays (s : State) (h : Nat) : s.ArraysOnly (s.zeroLeft h) :=
  State.each_arrays (fun t g => t.zeroHeddle_arrays g) _ s
theorem State.zeroLeft_heddle (s : State) (h g : Nat) : (s.zeroLeft h).heddle g =
    if g ∈ heddlesOf h ∧ (s.heddle g).zeroing = true then (s.heddle g).zeroed else s.heddle g := by
  split_ifs with left_
  · have visit (t : State) (seen : t.heddle g = s.heddle g ∨ t.heddle g = (s.heddle g).zeroed) :
        (t.zeroHeddle g).heddle g = (s.heddle g).zeroed := by
      rw [State.zeroHeddle_heddle]
      rcases seen with same | same
      · rw [same]
      · rw [same]
        rfl
    have turn (t : State) (b : Nat) (seen : t.heddle g = s.heddle g ∨ t.heddle g = (s.heddle g).zeroed) :
        (t.zeroHeddle b).heddle g = s.heddle g ∨ (t.zeroHeddle b).heddle g = (s.heddle g).zeroed := by
      rcases eq_or_ne g b with rfl | other
      · exact .inr (visit t seen)
      · rwa [State.zeroHeddle_other other]
    refine State.each_reaches (P := fun t => t.heddle g = (s.heddle g).zeroed) (List.mem_filter.mpr left_) turn
      (fun t b done => ?_) visit (.inl rfl)
    rcases eq_or_ne g b with rfl | other
    · exact visit t (.inr done)
    · rwa [State.zeroHeddle_other other]
  · refine State.each_holds (P := fun t => t.heddle g = s.heddle g) (fun t b listed same => ?_) rfl
    have other : g ≠ b := fun e => left_ (e ▸ List.mem_filter.mp listed)
    rw [State.zeroHeddle_other other, same]

section
variable {h : Fin 4096}

theorem exec_sealedHarnessRelease_harness (awake : s.awake = true) (waits : (s.harness h.val).zeroing = true)
    (warm : s.tierInWindow (tierOfHarness h.val) = true) : exec (.sealedHarnessRelease h) s = .next (s.zeroHarness h.val) :=
  congrArg Host.Outcome.next ((if_pos (by rw [awake, warm]; rfl)).trans (if_pos waits))
theorem exec_sealedHarnessRelease_heddles (awake : s.awake = true) (settled : (s.harness h.val).zeroing = false)
    (warm : s.tierInWindow (tierOfHarness h.val) = true) : exec (.sealedHarnessRelease h) s = .next (s.zeroLeft h.val) :=
  congrArg Host.Outcome.next ((if_pos (by rw [awake, warm]; rfl)).trans (if_neg (by rw [settled]; decide)))
theorem exec_sealedHarnessRelease_asleep (idle : (s.awake && s.tierInWindow (tierOfHarness h.val)) = false) :
    exec (.sealedHarnessRelease h) s = .next s :=
  congrArg Host.Outcome.next (if_neg (by rw [idle]; decide))
end

end Sys2Proof.Machine

open Sys2Proof Sys2Proof.Machine

/-- Settles O44: a heddle once programmed, released or zeroed stays so while the command goes on with the others. -/
theorem heldLoadsAndRelease : Obligations.HeldLoadsAndRelease := by
  refine ⟨fun s c h awake held => ?_, fun s c h cold up held late listed out least => ?_, fun s c none_ => ⟨?_, ?_⟩,
    fun s h awake waits warm => ?_, fun s h awake settled warm => ?_, fun s h idle => ?_⟩
  · have keeps := s.writeAll_keeps (h.writes.filter (s.mayWrite c.val h))
    have done (w) (listed : w ∈ h.writes) (may : s.mayWrite c.val h w = true) := State.writeHeld_programmed listed may
    change Keeps _ s (s.writeHeld c.val h) at keeps
    have mbx := keeps.same .mbx (by decide)
    have clk := keeps.same .clk (by decide)
    by_cases none_ : s.stillHeld c.val h = []
    · refine yields_of (exec_loadTierResume_ends awake held none_) ?_
      generalize s.writeHeld c.val h = u at done mbx clk
      refine ⟨fun w listed may => ?_, fun _ => ⟨State.loadDone_completes (t := u.modCtx ..) mbx clk .., ?_⟩,
        fun some_ => absurd none_ some_⟩
      · rw [State.loadDone_heddle]
        exact done w listed may
      · rw [State.loadDone_ctx, State.modCtx_ctx]
        exact ⟨rfl, rfl⟩
    · refine yields_of (exec_loadTierResume_holds awake held none_) ?_
      generalize s.writeHeld c.val h = u at done mbx clk
      refine ⟨done, fun all => absurd all none_, fun _ => ⟨?_, mbx⟩⟩
      rw [State.modCtx_ctx]
      rfl
  · refine yields_of (exec_loadTierTimeout_late up held late listed out least) ⟨s.endHeld_completes held .., ?_⟩
    rw [State.endHeld_eq held]
    generalize before : s.modCtx c.val (Ctx.unheld 0x14 (some cold)) = u
    have ctx : u.ctx c.val = (s.ctx c.val).unheld 0x14 (some cold) := by rw [← before, State.modCtx_ctx]
    have sealed_ : (u.ctx c.val).ctl.sealed = (s.ctx c.val).ctl.sealed := by rw [ctx]; rfl
    rw [State.complete_ctx, State.rollLoad_ctx, ctx, ← sealed_]
    have unwritten (i) (wrote : i ∈ h.after.images) (new : i ∉ h.before.images) :=
      State.rollLoad_unwrites (staged := h.staged) wrote new u c.val
    have released (x) (took : x ∈ h.after.harnesses) (new : x ∉ h.before.harnesses) :=
      State.rollLoad_releases (staged := h.staged) took new u c.val
    generalize u.rollLoad c.val h.staged h.before h.after = v at unwritten released
    refine ⟨?_, ?_, ?_, ?_, unwritten, fun own x took new => ?_⟩
    · cases h.staged <;> rfl
    · cases h.staged <;> rfl
    · cases h.staged <;> rfl
    · cases h.staged with
      | true => exact ⟨rfl, rfl⟩
      | false => exact ⟨rfl, rfl⟩
    · have waits := released x took new
      rwa [State.Released, if_pos own] at waits
  · exact congrArg Host.Outcome.next (by rw [none_])
  · exact congrArg Host.Outcome.next (by rw [none_])
  · refine yields_of (exec_sealedHarnessRelease_harness awake waits warm) ⟨s.zeroHarness_own h.val, (s.zeroHarness_arrays h.val).frame,
      fun x other => State.zeroHarness_other other s, fun i small => ?_⟩
    have zeroed := s.zeroHarness_zeroes (h := h.val) (g := 64 * h.val + i) (mem_heddlesOf.mpr (by omega))
    rwa [State.ZeroFree, (s.zeroHarness_arrays h.val).outOfUse] at zeroed
  · exact yields_of (exec_sealedHarnessRelease_heddles awake settled warm) ⟨(s.zeroLeft_arrays h.val).frame, s.zeroLeft_heddle h.val⟩
  · rcases idle with cold | ⟨settled, none_⟩
    · exact exec_sealedHarnessRelease_asleep (by rw [cold, Bool.and_false])
    · by_cases works : (s.awake && s.tierInWindow (tierOfHarness h.val)) = true
      · obtain ⟨awake, warm⟩ := Bool.and_eq_true_iff.mp works
        have left_ : (heddlesOf h.val).filter (fun g => (s.heddle g).zeroing) = [] :=
          List.filter_eq_nil_iff.mpr fun g own => by rw [none_ g own]; decide
        rw [exec_sealedHarnessRelease_heddles awake settled warm, State.zeroLeft, left_]
        rfl
      · exact exec_sealedHarnessRelease_asleep (Bool.eq_false_iff.mpr works)

end

section
/-! WGT_COMMIT (R239), WGT_STAGE_OPEN (R245) and WGT_RESTORE (R242). -/

-- one proof at a time: side by side, their stacks and heaps do not fit beside the rest of the text
set_option Elab.async false

namespace Sys2Proof.Machine

variable {s t u : State} {c : Nat} {m : Fin 16}

/-! ## WGT_COMMIT (R239) -/

section
variable {w : WeightSet}

/-- The set that WGT_COMMIT names. -/
def State.commitTarget (s : State) (m : Nat) : Option WeightSet :=
  let b := s.mailbox m
  let x := s.ctx (b.arg 0)
  if b.arg 1 = 0 then some x.cur else if b.arg 1 = 1 then x.staged else none
/-- WGT_COMMIT may look at the set: of an open context without a load in progress. -/
def State.MayCommit (s : State) (c : Nat) : Prop := c ≤ 255 ∧ (s.ctx c).ctl.opened = true ∧ (s.ctx c).held = none
/-- The generation of a context that commits its current set. -/
def State.nextGen (s : State) (c : Nat) : Nat := ((s.ctx c).ctl.gen + 1) % 65536
/-- A context whose current set `w` is committed as generation `gen`. -/
def Ctx.committedAs (w : WeightSet) (gen : Nat) (x : Ctx) : Ctx :=
  { x with cur := { w with committed := true }, ctl := { x.ctl with gen := gen } }
/-- A context whose staged set `w` is committed. -/
def Ctx.stagedCommitted (w : WeightSet) (x : Ctx) : Ctx := { x with staged := some { w with committed := true } }

theorem State.not_mayCommit_iff :
    ¬ s.MayCommit c ↔ (255 < c || !(s.ctx c).ctl.opened || (s.ctx c).held.isSome) = true := by
  simp only [State.MayCommit, not_and_or, Nat.not_le, Bool.not_eq_true, Bool.or_eq_true, decide_eq_true_eq, Bool.not_eq_true',
    or_assoc, Option.isSome_iff_ne_none, ne_eq]

section
variable (waits : s.awaits m.val 0x1005)
include waits

theorem exec_wgtCommit_barred (bad : ¬ s.MayCommit ((s.mailbox m.val).arg 0)) :
    exec (.wgtCommit m) s = .next (s.complete m.val 0x11 []) :=
  (exec_awaited rfl waits).trans (congrArg _ (if_pos (State.not_mayCommit_iff.mp bad)))
theorem exec_wgtCommit_looks (good : s.MayCommit ((s.mailbox m.val).arg 0)) : exec (.wgtCommit m) s = .next (
    match s.commitTarget m.val with
    | none => s.complete m.val 0x11 []
    | some w =>
      if w.committed then s.complete m.val 0x11 []
      else if !w.complete then s.complete m.val 0x15 []
      else if (s.mailbox m.val).arg 1 = 0 then
        (s.modCtx ((s.mailbox m.val).arg 0) (Ctx.committedAs w (s.nextGen ((s.mailbox m.val).arg 0)))).complete m.val 0
          [s.nextGen ((s.mailbox m.val).arg 0)]
      else (s.modCtx ((s.mailbox m.val).arg 0) (Ctx.stagedCommitted w)).complete m.val 0 [(s.ctx ((s.mailbox m.val).arg 0)).ctl.gen]) :=
  (exec_awaited rfl waits).trans (congrArg _ (if_neg fun bad => State.not_mayCommit_iff.mpr bad good))
theorem exec_wgtCommit_refused (bad : ¬ s.MayCommit ((s.mailbox m.val).arg 0) ∨ s.commitTarget m.val = none ∨
    ∃ w, s.commitTarget m.val = some w ∧ w.committed = true) : exec (.wgtCommit m) s = .next (s.complete m.val 0x11 []) := by
  by_cases good : s.MayCommit ((s.mailbox m.val).arg 0)
  · rw [exec_wgtCommit_looks waits good]
    rcases bad.resolve_left (not_not.mpr good) with none_ | ⟨w, target, done⟩
    · rw [none_]
    · rw [target]
      exact congrArg _ (if_pos done)
  · exact exec_wgtCommit_barred waits good

variable (good : s.MayCommit ((s.mailbox m.val).arg 0)) (target : s.commitTarget m.val = some w) (open_ : w.committed = false)
include good target open_

theorem exec_wgtCommit_incomplete (part : w.complete = false) : exec (.wgtCommit m) s = .next (s.complete m.val 0x15 []) := by
  rw [exec_wgtCommit_looks waits good, target]
  simp only [open_, part, Bool.not_false, if_true, if_false, reduceCtorEq]
theorem exec_wgtCommit_current (whole : w.complete = true) (cur : (s.mailbox m.val).arg 1 = 0) : exec (.wgtCommit m) s =
    .next ((s.modCtx ((s.mailbox m.val).arg 0) (Ctx.committedAs w (s.nextGen ((s.mailbox m.val).arg 0)))).complete m.val 0
      [s.nextGen ((s.mailbox m.val).arg 0)]) := by
  rw [exec_wgtCommit_looks waits good, target]
  simp only [open_, whole, cur, Bool.not_true, if_true, if_false, reduceCtorEq]
theorem exec_wgtCommit_staged (whole : w.complete = true) (staged : (s.mailbox m.val).arg 1 ≠ 0) : exec (.wgtCommit m) s =
    .next ((s.modCtx ((s.mailbox m.val).arg 0) (Ctx.stagedCommitted w)).complete m.val 0
      [(s.ctx ((s.mailbox m.val).arg 0)).ctl.gen]) := by
  rw [exec_wgtCommit_looks waits good, target]
  simp only [open_, whole, staged, Bool.not_true, if_false, reduceCtorEq]
end
end

/-! ## WGT_STAGE_OPEN (R245) -/

section
variable {recipe : Bytes}

/-- The length of the recipe that WGT_STAGE_OPEN names: none in a sealed class. -/
def State.stageLength (s : State) (m : Nat) (recipe : Bytes) : Nat :=
  let b := s.mailbox m
  if (s.ctx (b.arg 0)).ctl.sealed then 0 else recSize (s.hostData m b (b.arg2 1) 64 recipe)
/-- WGT_STAGE_OPEN may open a staged set. -/
def State.MayStage (s : State) (m : Nat) (recipe : Bytes) : Prop :=
  let b := s.mailbox m
  let x := s.ctx (b.arg 0)
  b.arg 0 ≤ 255 ∧ x.ctl.opened = true ∧ x.cur.committed = true ∧ x.staged = none ∧
    pastXfer m b (b.arg2 1) (s.stageLength m recipe) = false
/-- A context that has opened a staged set. -/
def State.stagedCtx (s : State) (m : Nat) (recipe : Bytes) (x : Ctx) : Ctx :=
  let b := s.mailbox m
  { x with staged := some { recipe :=
      if (s.ctx (b.arg 0)).ctl.sealed then [] else s.hostData m b (b.arg2 1) (s.stageLength m recipe) recipe } }

theorem State.not_mayStage_iff {m : Nat} : ¬ s.MayStage m recipe ↔ let b := s.mailbox m
    let x := s.ctx (b.arg 0)
    (255 < b.arg 0 || !x.ctl.opened || !x.cur.committed || x.staged.isSome ||
      pastXfer m b (b.arg2 1) (s.stageLength m recipe)) = true := by
  simp only [State.MayStage, not_and_or, Nat.not_le, Bool.not_eq_true, Bool.or_eq_true, decide_eq_true_eq, Bool.not_eq_true',
    Bool.not_eq_false, or_assoc, Option.isSome_iff_ne_none, ne_eq]
theorem exec_wgtStageOpen_refused (waits : s.awaits m.val 0x1006) (bad : ¬ s.MayStage m.val recipe) :
    exec (.wgtStageOpen m recipe) s = .next (s.complete m.val 0x11 []) :=
  (exec_awaited rfl waits).trans (congrArg _ (if_pos (State.not_mayStage_iff.mp bad)))
theorem exec_wgtStageOpen_opens (waits : s.awaits m.val 0x1006) (good : s.MayStage m.val recipe) : exec (.wgtStageOpen m recipe) s =
    .next ((s.modCtx ((s.mailbox m.val).arg 0) (s.stagedCtx m.val recipe)).complete m.val 0 []) :=
  (exec_awaited rfl waits).trans (congrArg _ (if_neg fun bad => State.not_mayStage_iff.mpr bad good))
end

/-! ## WGT_RESTORE (R242) -/

/-- From `x` to `y` only the pattern copy has changed, and only where it was lost. -/
structure Heddle.Repaired (x y : Heddle) : Prop where
  rest : y = { x with patternLost := y.patternLost, imageCrc := y.imageCrc }
  whole : x.patternLost = false → y = x

theorem Heddle.Repaired.refl (x : Heddle) : x.Repaired x := ⟨rfl, fun _ => rfl⟩
theorem Heddle.Repaired.trans {x y z : Heddle} (h : x.Repaired y) (h' : y.Repaired z) : x.Repaired z := by
  refine ⟨?_, fun holds => ?_⟩
  · rw [h'.rest, h.rest]
  · have same := h.whole holds
    rw [h'.whole (same ▸ holds), same]
theorem Heddle.Repaired.holds {x y : Heddle} (h : x.Repaired y) (holds : x.patternLost = false) : y.patternLost = false := by
  rwa [h.whole holds]

/-- From `s` to `t` only lost pattern copies have been rewritten. -/
structure State.Restored (s t : State) : Prop where
  only : s.ArraysOnly t
  heddle : ∀ g, (s.heddle g).Repaired (t.heddle g)

theorem State.Restored.refl (s : State) : s.Restored s := ⟨.refl s, fun _ => .refl _⟩
theorem State.Restored.trans (h : s.Restored t) (h' : t.Restored u) : s.Restored u :=
  ⟨h.only.trans h'.only, fun g => (h.heddle g).trans (h'.heddle g)⟩

/-- The lost pattern copy of heddle `g` is written again. -/
def State.rewritePattern (s : State) (g : Nat) (bytes : Bytes) : State :=
  (s.unitWrite (patternAddr g) (padTo 0 0x9000 bytes)).modHeddle g fun y =>
    { y with patternLost := false, imageCrc := le bytes 0x24 4 }
theorem State.rewritePattern_heddle (s : State) (g : Nat) (bytes : Bytes) : (s.rewritePattern g bytes).heddle g =
    { s.heddle g with patternLost := false, imageCrc := le bytes 0x24 4 } := State.modHeddle_heddle ..
theorem State.rewritePattern_restored {g : Nat} (lost : (s.heddle g).patternLost = true) (bytes : Bytes) :
    s.Restored (s.rewritePattern g bytes) := by
  refine ⟨⟨_, _, rfl⟩, fun k => ?_⟩
  rcases eq_or_ne k g with rfl | other
  · rw [State.rewritePattern_heddle]
    exact ⟨rfl, fun holds => absurd (lost.symm.trans holds) (by decide)⟩
  · rw [show (s.rewritePattern g bytes).heddle k = s.heddle k from State.modHeddle_heddle_other _ other _]
    exact .refl _

section
variable {lost : List Nat} {acc : State × Nat × Bool} {x : Bool × Nat × LoadRec}

/-- The bytes that rewrite the pattern copy of a re-delivered record. -/
def State.restoredBytes (s : State) (c : Nat) (x : Bool × Nat × LoadRec) : Bytes :=
  patternBytes c (s.heddle x.2.1).width (s.patternGen c x.1) x.2.2
/-- One re-delivered record: a lost pattern copy is rewritten where its image matches. -/
def restoreOne (c : Nat) (lost : List Nat) (acc : State × Nat × Bool) (x : Bool × Nat × LoadRec) : State × Nat × Bool :=
  if !(acc.1.heddle x.2.1).patternLost then acc
  else if (acc.1.cleanCrcs lost x.2.1).contains (le (acc.1.restoredBytes c x) 0x24 4) then
    (acc.1.rewritePattern x.2.1 (acc.1.restoredBytes c x), acc.2.1 + 1, acc.2.2)
  else (acc.1, acc.2.1, true)
theorem State.restorePatterns_eq (s : State) (c : Nat) (lost : List Nat) (rs : List (Bool × Nat × LoadRec)) :
    s.restorePatterns c lost rs = rs.foldl (restoreOne c lost) (s, 0, false) := rfl

theorem restoreOne_restored : acc.1.Restored (restoreOne c lost acc x).1 := by
  unfold restoreOne
  split_ifs with holds clean
  · exact .refl _
  · exact State.rewritePattern_restored (by simpa using holds) _
  · exact .refl _
theorem restoreOne_good (good : (restoreOne c lost acc x).2.2 = false) :
    acc.2.2 = false ∧ ((restoreOne c lost acc x).1.heddle x.2.1).patternLost = false := by
  unfold restoreOne at good ⊢
  split_ifs at good ⊢ with holds clean
  · exact ⟨good, by simpa using holds⟩
  · exact ⟨good, congrArg Heddle.patternLost (State.rewritePattern_heddle ..)⟩
theorem foldl_restoreOne_restored (rs : List (Bool × Nat × LoadRec)) : acc.1.Restored (rs.foldl (restoreOne c lost) acc).1 := by
  induction rs generalizing acc with
  | nil => exact .refl _
  | cons x rs ih => exact restoreOne_restored.trans ih
theorem foldl_restoreOne_good {rs : List (Bool × Nat × LoadRec)} (good : (rs.foldl (restoreOne c lost) acc).2.2 = false) :
    acc.2.2 = false ∧ ∀ x ∈ rs, ((rs.foldl (restoreOne c lost) acc).1.heddle x.2.1).patternLost = false := by
  induction rs generalizing acc with
  | nil => exact ⟨good, nofun⟩
  | cons x rs ih =>
    obtain ⟨good, rest⟩ := ih good
    obtain ⟨good, own⟩ := restoreOne_good good
    exact ⟨good, List.forall_mem_cons.mpr ⟨((foldl_restoreOne_restored rs).heddle _).holds own, rest⟩⟩
end

/-! ### The SRAM words that were struck -/

theorem State.sramStruck_one_unslotted {u : Upset} (holds : ∀ b, u = .sram b → (secded b.toNat).detected = 0) (c slot : Nat) :
    s.CtxStays Ctx.unslotted c (s.sramStruck c slot [u]) := by
  cases u
  case sram b =>
    simp only [State.sramStruck, State.each, List.foldl, holds b rfl, if_true]
    split_ifs
    · exact .refl s
    · have counted : Keeps [.memChecks, .obs] s (s.eccCorrected 28) := State.eccCorrected_keeps (.refl s) (by decide) _
      exact (counted.ctxStays (by decide) (.refl s)).trans (State.check_unslotted ..)
  all_goals exact .refl s
theorem State.sramStruck_unslotted {ups : List Upset} (holds : sramHolds ups) (c slot : Nat) :
    s.CtxStays Ctx.unslotted c (s.sramStruck c slot ups) := by
  induction ups generalizing s with
  | nil => exact .refl s
  | cons u ups ih =>
    have one : ∀ b, u = .sram b → (secded b.toNat).detected = 0 := fun b e => holds b (e ▸ .head _)
    exact (State.sramStruck_one_unslotted one c slot).trans (ih fun b hb => holds b (.tail _ hb))
theorem State.CtxStays.unslotted {d : Nat} (h : s.CtxStays Ctx.unslotted d t) (c : Nat) :
    (t.ctx c).unslotted = (s.ctx c).unslotted := by
  rcases eq_or_ne c d with rfl | other
  · exact h.own
  · rw [h.other c other]
theorem State.restoreRecs_eq (same : (t.ctx c).unslotted = (s.ctx c).unslotted) (rs : List LoadRec) :
    t.restoreRecs c rs = s.restoreRecs c rs := by
  have device : (t.ctx c).ctl.device = (s.ctx c).ctl.device := congrArg (·.ctl.device) same
  have cur : (t.ctx c).cur = (s.ctx c).cur := (congrArg Ctx.cur same :)
  have staged : (t.ctx c).staged = (s.ctx c).staged := (congrArg Ctx.staged same :)
  simp only [State.restoreRecs, device, cur, staged]

section
variable {chunks : List Chunk} {data : OpenData} {ups : List (Fin 262144 × BitVec 64)}

/-- The SRAM words that WGT_RESTORE reads have been struck. -/
def State.crcsStruck (s : State) (ups : List (Fin 262144 × BitVec 64)) : State :=
  s.sramStruck 0xFF 0xFFFE (ups.map fun u => .sram u.2)
/-- The records have been restored one by one: the state, how many copies were rewritten, and whether an image did not match. -/
def State.restoredAll (s : State) (c : Nat) (ups : List (Fin 262144 × BitVec 64)) (rs : List LoadRec) : State × Nat × Bool :=
  ((s.crcsStruck ups).restoreRecs c rs).foldl
    (restoreOne c ((ups.filter (fun u => (secded u.2.toNat).detected != 0)).map (·.1.val))) (s.crcsStruck ups, 0, false)

theorem State.crcsStruck_holds (holds : ∀ u ∈ ups, (secded u.2.toNat).detected = 0) : sramHolds (ups.map fun u => .sram u.2) := by
  intro b listed
  obtain ⟨u, own, e⟩ := List.mem_map.mp listed
  cases e
  exact holds u own

variable (waits : s.awaits m.val 0x100A)
include waits

theorem exec_wgtRestore_refused (bad : ¬ ((s.mailbox m.val).arg 0 ≤ 255 ∧ (s.ctx ((s.mailbox m.val).arg 0)).ctl.opened = true)) :
    exec (.wgtRestore m chunks (data, ups)) s = .next (s.complete m.val 0x11 []) := by
  refine (exec_awaited rfl waits).trans (congrArg _ (if_pos ?_))
  simpa only [not_and_or, Nat.not_le, Bool.not_eq_true, Bool.or_eq_true, decide_eq_true_eq, Bool.not_eq_true'] using bad

variable (good : (s.mailbox m.val).arg 0 ≤ 255 ∧ (s.ctx ((s.mailbox m.val).arg 0)).ctl.opened = true)
include good

/-- What WGT_RESTORE of an open context does. -/
theorem exec_wgtRestore_looks : exec (.wgtRestore m chunks (data, ups)) s = .next (
    match s.restoreData m.val (s.mailbox m.val) ((s.mailbox m.val).arg 0) chunks data with
    | .error e => s.complete m.val e []
    | .ok rs =>
      let done := s.restoredAll ((s.mailbox m.val).arg 0) ups rs
      done.1.complete m.val (if done.2.2 then 0x16 else 0) [done.2.1]) := by
  refine (exec_awaited rfl waits).trans (congrArg _ ((if_neg ?_).trans ?_))
  · simpa only [Bool.not_eq_true, Bool.or_eq_false_iff, decide_eq_false_iff_not, Nat.not_lt, Bool.not_eq_false'] using good
  · rfl
theorem exec_wgtRestore_fails {e : Nat}
    (bad : s.restoreData m.val (s.mailbox m.val) ((s.mailbox m.val).arg 0) chunks data = .error e) :
    exec (.wgtRestore m chunks (data, ups)) s = .next (s.complete m.val e []) := by
  rw [exec_wgtRestore_looks waits good, bad]
theorem exec_wgtRestore_restores {rs : List LoadRec}
    (records : s.restoreData m.val (s.mailbox m.val) ((s.mailbox m.val).arg 0) chunks data = .ok rs) :
    exec (.wgtRestore m chunks (data, ups)) s = .next (
      let done := s.restoredAll ((s.mailbox m.val).arg 0) ups rs
      done.1.complete m.val (if done.2.2 then 0x16 else 0) [done.2.1]) := by
  rw [exec_wgtRestore_looks waits good, records]
end

end Sys2Proof.Machine

open Sys2Proof Sys2Proof.Machine

/-- Settles O45: a commit or a staged set changes its context alone; a restore goes through the records one by one, and a copy that is
whole stays so. -/
theorem commitStageAndRestore : Obligations.CommitStageAndRestore := by
  refine ⟨fun s m waits => ?_, fun s m recipe waits => ?_, fun s m chunks data ups waits => ⟨fun bad => ?_, fun e good bad => ?_,
    fun rs good records holds => ?_⟩⟩
  · have refusal (status : Nat) := s.refused_command m.val status
    by_cases bad : ¬ s.MayCommit ((s.mailbox m.val).arg 0) ∨ s.commitTarget m.val = none ∨
      ∃ w, s.commitTarget m.val = some w ∧ w.committed = true
    · refine yields_of (exec_wgtCommit_refused waits bad) ⟨s.complete_eq .., fun _ _ => rfl, fun _ => refusal _,
        fun w good target open_ => ?_⟩
      rcases bad with barred | none_ | ⟨v, same, done⟩
      · exact absurd good barred
      · exact absurd (none_.symm.trans target) (by simp)
      · obtain rfl := Option.some.inj (same.symm.trans target)
        exact absurd done (Bool.eq_false_iff.mp open_)
    · obtain ⟨good, some_, fresh⟩ := (not_or.mp bad).imp not_not.mp not_or.mp
      obtain ⟨w, target⟩ := Option.ne_none_iff_exists'.mp some_
      have open_ : w.committed = false := Bool.eq_false_iff.mpr fun done => fresh ⟨w, target, done⟩
      have only (v : WeightSet) (same : s.commitTarget m.val = some v) : v = w := Option.some.inj (same.symm.trans target)
      by_cases whole : w.complete = true
      · by_cases cur : (s.mailbox m.val).arg 1 = 0
        · obtain ⟨rest, done⟩ := s.modCtx_command ((s.mailbox m.val).arg 0)
            (Ctx.committedAs w (s.nextGen ((s.mailbox m.val).arg 0))) m.val 0 [s.nextGen ((s.mailbox m.val).arg 0)]
          refine yields_of (exec_wgtCommit_current waits good target open_ whole cur)
            ⟨rest, fun d other => State.modCtx_complete_other other .., fun no => absurd no bad, fun v _ same _ => ?_⟩
          obtain rfl := only v same
          exact ⟨fun part => absurd whole (Bool.eq_false_iff.mp part), fun _ _ => ⟨done, State.modCtx_complete_ctx ..⟩,
            fun _ staged => absurd (cur.symm.trans staged) Nat.zero_ne_one⟩
        · obtain ⟨rest, done⟩ := s.modCtx_command ((s.mailbox m.val).arg 0)
            (Ctx.stagedCommitted w) m.val 0 [(s.ctx ((s.mailbox m.val).arg 0)).ctl.gen]
          refine yields_of (exec_wgtCommit_staged waits good target open_ whole cur)
            ⟨rest, fun d other => State.modCtx_complete_other other .., fun no => absurd no bad, fun v _ same _ => ?_⟩
          obtain rfl := only v same
          exact ⟨fun part => absurd whole (Bool.eq_false_iff.mp part), fun _ first => absurd first cur,
            fun _ _ => ⟨done, State.modCtx_complete_ctx ..⟩⟩
      · have part := Bool.eq_false_iff.mpr whole
        refine yields_of (exec_wgtCommit_incomplete waits good target open_ part) ⟨s.complete_eq .., fun _ _ => rfl,
          fun no => absurd no bad, fun v _ same _ => ?_⟩
        obtain rfl := only v same
        exact ⟨fun _ => refusal _, fun done => absurd done whole, fun done => absurd done whole⟩
  · by_cases good : s.MayStage m.val recipe
    · obtain ⟨rest, done⟩ := s.modCtx_command ((s.mailbox m.val).arg 0) (s.stagedCtx m.val recipe) m.val 0 []
      exact yields_of (exec_wgtStageOpen_opens waits good) ⟨rest, fun d other => State.modCtx_complete_other other ..,
        fun bad => absurd good bad, fun _ => ⟨done, State.modCtx_complete_ctx ..⟩⟩
    · exact yields_of (exec_wgtStageOpen_refused waits good) ⟨s.complete_eq .., fun _ _ => rfl, fun _ => s.refused_command ..,
        fun ok => absurd ok good⟩
  · exact yields_of (exec_wgtRestore_refused waits bad) ⟨s.complete_completes .., s.complete_eq ..⟩
  · exact yields_of (exec_wgtRestore_fails waits good bad) ⟨s.complete_completes .., s.complete_eq ..⟩
  · have struck : Keeps [.ctxs, .memChecks, .obs] s (s.crcsStruck ups) :=
      State.sramStruck_keeps_of_holds (State.crcsStruck_holds holds) ..
    have recs : (s.crcsStruck ups).restoreRecs ((s.mailbox m.val).arg 0) rs = s.restoreRecs ((s.mailbox m.val).arg 0) rs :=
      State.restoreRecs_eq ((State.sramStruck_unslotted (State.crcsStruck_holds holds) ..).unslotted _) rs
    have restored : (s.crcsStruck ups).Restored (s.restoredAll ((s.mailbox m.val).arg 0) ups rs).1 :=
      foldl_restoreOne_restored (acc := (s.crcsStruck ups, 0, false)) _
    have all (fine : (s.restoredAll ((s.mailbox m.val).arg 0) ups rs).2.2 = false) : ∀ x ∈ s.restoreRecs ((s.mailbox m.val).arg 0) rs,
        ((s.restoredAll ((s.mailbox m.val).arg 0) ups rs).1.heddle x.2.1).patternLost = false :=
      recs ▸ (foldl_restoreOne_good fine).2
    refine yields_of (exec_wgtRestore_restores waits good records) ?_
    generalize s.restoredAll ((s.mailbox m.val).arg 0) ups rs = done at restored all
    obtain ⟨t, n, bad⟩ := done
    refine ⟨fun none_ => ?_, fun g => ?_, if bad then 0x16 else 0, n, ?_, ?_, fun fine => all ?_⟩
    · subst none_
      obtain ⟨arr, mem, rfl⟩ := restored.only
      exact State.complete_eq ..
    · rw [← struck.heddle_eq (by decide) g]
      exact ⟨(restored.heddle g).rest, (restored.heddle g).whole⟩
    · have mbx : t.mbx = s.mbx := (congrArg State.mbx restored.only.frame).trans (struck.same .mbx (by decide))
      have clk : t.clk = s.clk := (congrArg State.clk restored.only.frame).trans (struck.same .clk (by decide))
      exact State.completes_after mbx clk ..
    · cases bad with
      | true => exact .inr rfl
      | false => exact .inl rfl
    · cases bad with
      | true => exact absurd fine (by decide)
      | false => rfl

end

section
/-! WGT_SWITCH, WGT_STAGE_PLAN and WGT_STAGE_DROP, the end of draining and its limit (R245-R251). -/

-- one proof at a time: side by side, their stacks and heaps do not fit beside the rest of the text
set_option Elab.async false

namespace Sys2Proof.Machine

variable {s t u : State} {c : Nat} {m : Fin 16}

/-! ## Where an iteration ends -/

theorem State.iterEnd_ge (s : State) (c p : Nat) : p ≤ s.iterEnd c p := by
  unfold State.iterEnd
  dsimp only
  have pos : 0 < max (planPeriod (s.image c)) 1 := by omega
  generalize max (planPeriod (s.image c)) 1 = b at pos
  have enough := ceilDiv_mul_ge (p - (s.ctx c).ctl.launchPick.getD 0) pos
  have wider := Nat.mul_le_mul_right b (Nat.le_max_right 1 (ceilDiv (p - (s.ctx c).ctl.launchPick.getD 0) b))
  omega
theorem State.iterEnd_whole (s : State) (c p : Nat) :
    (s.iterEnd c p - (s.ctx c).ctl.launchPick.getD 0) % max (planPeriod (s.image c)) 1 = 0 := by
  unfold State.iterEnd
  rw [Nat.add_sub_cancel_left, Nat.mul_mod_left]

/-! ## The set becomes current (R249, R251) -/

section
variable {w : WeightSet}

/-- A context whose staged set has become current, with the next generation. -/
def Ctx.tookStaged (w : WeightSet) (x : Ctx) : Ctx :=
  { x with cur := w, staged := none, ctl := { x.ctl with gen := (x.ctl.gen + 1) % 65536 } }
/-- A context whose switch has been made; the requests whose streams are still to be reset are `resets`. -/
def Ctx.switched (resets : List Nat) (x : Ctx) : Ctx :=
  { x with
    ctl := { x.ctl with flips := x.ctl.flips ++ x.sw.programs.map (fun p => (1, p.1, p.2, false)) }
    sw := { reason := x.sw.reason, resetPending := resets } }
/-- A context whose staged set `w` has become current. -/
def Ctx.flipped (w : WeightSet) (resets : List Nat) (x : Ctx) : Ctx := (x.tookStaged w).switched resets

/-- The staged set `w` takes the place of the current one, whose other harnesses are released. -/
def State.moveSet (s : State) (c : Nat) (w : WeightSet) : State :=
  (((s.releaseSet (s.ctx c).ctl.sealed
      { (s.ctx c).cur with harnesses := (s.ctx c).cur.harnesses.filter fun h => !w.harnesses.contains h }).modCtx c
    fun y => { y with cur := w, staged := none }).claimSet c 1 w).modCtl c fun k => { k with gen := (k.gen + 1) % 65536 }
/-- The open streams of a context. -/
def State.openStreams (s : State) (c : Nat) : List Nat := (s.srv.streams.filter fun e => e.2.opened && e.2.ctx == c).map (·.1)
/-- The open streams of a context without a pending request are reset, where the switch asks for it. -/
def State.resetOpen (s : State) (c : Nat) (resets : Bool) : State :=
  if resets then State.each ((s.openStreams c).filter fun t => !s.hasPending t) (fun s t => s.resetStream t) s else s

theorem State.flipSet_of_staged (staged : (s.ctx c).staged = some w) :
    ∃ resets, s.flipSet c = ((s.moveSet c w).resetOpen c (s.ctx c).sw.resetStreams).modCtx c (Ctx.switched resets) := by
  simp only [State.flipSet, staged]
  exact ⟨_, rfl⟩
theorem State.moveSet_ctx (s : State) (c : Nat) (w : WeightSet) : (s.moveSet c w).ctx c = (s.ctx c).tookStaged w := by
  rw [State.moveSet, State.modCtl_ctx, (State.claimSet_keeps (B := [.heddles]) (.refl _) (by decide) ..).ctx_eq (by decide),
    State.modCtx_ctx, (s.releaseSet_arrays ..).ctx]
  rfl
theorem State.resetOpen_keeps (s : State) (c : Nat) (resets : Bool) : Keeps [.mem, .kvt] s (s.resetOpen c resets) := by
  cases resets with
  | true => exact State.each_keeps (.refl s) fun _ _ h => State.resetStream_keeps h (by decide) _
  | false => exact .refl s
theorem State.flipSet_ctx (staged : (s.ctx c).staged = some w) : ∃ resets, (s.flipSet c).ctx c = (s.ctx c).flipped w resets := by
  obtain ⟨resets, made⟩ := State.flipSet_of_staged staged
  exact ⟨resets, by rw [made, State.modCtx_ctx, (State.resetOpen_keeps ..).ctx_eq (by decide), State.moveSet_ctx]; rfl⟩
end

/-! ## WGT_STAGE_PLAN -/

section
variable {image : Bytes}

/-- WGT_STAGE_PLAN may keep a successor: of an open context without a pending switch. -/
def State.MayStagePlan (s : State) (m : Nat) : Prop :=
  let b := s.mailbox m
  let x := s.ctx (b.arg 0)
  b.arg 0 ≤ 255 ∧ x.ctl.opened = true ∧ x.sw.state < 3 ∧ b.arg 3 ≠ 0 ∧ pastXfer m b (b.arg2 1) (b.arg 3) = false
/-- The blocks of the pool in use once the successor is kept. -/
def State.stagePlanNeed (s : State) (m : Nat) : Nat :=
  let b := s.mailbox m
  s.poolUsed - ceilDiv (((s.ctx (b.arg 0)).ctl.successor.map List.length).getD 0) 4096 + ceilDiv (b.arg 3) 4096
/-- The successor plan is kept. -/
def State.keepSuccessor (s : State) (m : Nat) (image : Bytes) (k : CtxCtl) : CtxCtl :=
  let b := s.mailbox m
  { k with successor := some (s.hostData m b (b.arg2 1) (b.arg 3) image) }

theorem State.not_mayStagePlan_iff {m : Nat} : ¬ s.MayStagePlan m ↔ let b := s.mailbox m
    let x := s.ctx (b.arg 0)
    (255 < b.arg 0 || !x.ctl.opened || decide (3 ≤ x.sw.state) || b.arg 3 == 0 || pastXfer m b (b.arg2 1) (b.arg 3)) = true := by
  simp only [State.MayStagePlan, not_and_or, Nat.not_le, Nat.not_lt, Bool.not_eq_true, Bool.or_eq_true, decide_eq_true_eq,
    Bool.not_eq_true', Bool.not_eq_false, or_assoc, beq_iff_eq, ne_eq, not_not]

variable (waits : s.awaits m.val 0x1007)
include waits

theorem exec_wgtStagePlan_refused (bad : ¬ s.MayStagePlan m.val) :
    exec (.wgtStagePlan m image) s = .next (s.complete m.val 0x11 []) :=
  (exec_awaited rfl waits).trans (congrArg _ (if_pos (State.not_mayStagePlan_iff.mp bad)))
theorem exec_wgtStagePlan_full (good : s.MayStagePlan m.val) (full : poolBlocks < s.stagePlanNeed m.val) :
    exec (.wgtStagePlan m image) s = .next (s.complete m.val 0x39 []) :=
  (exec_awaited rfl waits).trans (congrArg _ ((if_neg fun bad => State.not_mayStagePlan_iff.mpr bad good).trans (if_pos full)))
theorem exec_wgtStagePlan_keeps (good : s.MayStagePlan m.val) (room : s.stagePlanNeed m.val ≤ poolBlocks) :
    exec (.wgtStagePlan m image) s =
      .next ((s.modCtl ((s.mailbox m.val).arg 0) (s.keepSuccessor m.val image)).complete m.val 0 []) :=
  (exec_awaited rfl waits).trans
    (congrArg _ ((if_neg fun bad => State.not_mayStagePlan_iff.mpr bad good).trans (if_neg (Nat.not_lt.mpr room))))
end

/-! ## WGT_SWITCH (R246) -/

section
variable {grp : GroupView} {w : WeightSet}

/-- WGT_SWITCH may look at the staged set: of an open context without a load in progress or a pending switch. -/
def State.SwitchFits (s : State) (m : Nat) : Prop :=
  let b := s.mailbox m
  let x := s.ctx (b.arg 0)
  b.arg 0 ≤ 255 ∧ x.ctl.opened = true ∧ x.held = none ∧ x.sw.state < 3 ∧ 1 ≤ b.arg 1 ∧ b.arg 1 ≤ 2 ^ 24 ∧ b.arg 4 ≤ 1
/-- The check of the staged set with the plan that runs with it. -/
def State.switchVerdict (s : State) (c : Nat) (w : WeightSet) (grp : GroupView) : Option (Nat × Option (Nat × Nat)) :=
  let x := s.ctx c
  s.planCheck c x.nextPlan w (if x.ctl.state = 0 then x.ctl.twillReq else x.ctl.twillEff) grp
/-- The switch is accepted; a Disabled context takes its staged set at once. -/
def State.switchTo (s : State) (m : Nat) (w : WeightSet) : State :=
  let b := s.mailbox m
  let x := s.ctx (b.arg 0)
  let t := s.acceptSwitch (b.arg 0) b (x.nextPlan.getD []) w
  if x.ctl.state = 0 then t.flipAtStop (b.arg 0) else t
/-- The reason of the failed check is kept. -/
def Ctx.switchFailed (code : Nat) (x : Ctx) : Ctx := { x with sw := { x.sw with reason := code } }

theorem State.not_switchFits_iff {m : Nat} : ¬ s.SwitchFits m ↔ let b := s.mailbox m
    let x := s.ctx (b.arg 0)
    255 < b.arg 0 ∨ x.ctl.opened = false ∨ x.held.isSome = true ∨ 3 ≤ x.sw.state ∨ b.arg 1 = 0 ∨
      2 ^ 24 < b.arg 1 ∨ 1 < b.arg 4 := by
  simp only [State.SwitchFits, not_and_or, Nat.not_le, Nat.not_lt, Bool.not_eq_true, Option.isSome_iff_ne_none, ne_eq, Nat.lt_one_iff]

variable (waits : s.awaits m.val 0x1008)
include waits

theorem exec_wgtSwitch_refused
    (bad : ¬ s.SwitchFits m.val ∨ ∀ w, (s.ctx ((s.mailbox m.val).arg 0)).staged = some w → w.committed = false) :
    exec (.wgtSwitch m grp) s = .next (s.complete m.val 0x11 []) := by
  refine (exec_awaited rfl waits).trans (congrArg _ (if_pos ?_))
  simp only [Bool.or_eq_true, decide_eq_true_eq, Bool.not_eq_true', beq_iff_eq]
  rcases bad with bad | open_
  · rcases State.not_switchFits_iff.mp bad with h | h | h | h | h | h | h <;> simp only [h, true_or, or_true]
  · have open_ : ((s.ctx ((s.mailbox m.val).arg 0)).staged.map (·.committed)).getD false = false := by
      cases staged : (s.ctx ((s.mailbox m.val).arg 0)).staged with
      | none => rfl
      | some w => exact open_ w staged
    simp only [open_, true_or, or_true]

variable (good : s.SwitchFits m.val) (staged : (s.ctx ((s.mailbox m.val).arg 0)).staged = some w) (done : w.committed = true)
include good staged done

/-- What WGT_SWITCH of a committed staged set does. -/
theorem exec_wgtSwitch_looks : exec (.wgtSwitch m grp) s = .next (
    match s.switchVerdict ((s.mailbox m.val).arg 0) w grp with
    | some (code, _) => (s.modCtx ((s.mailbox m.val).arg 0) (Ctx.switchFailed code)).complete m.val 0x11 []
    | none => (s.switchTo m.val w).complete m.val 0 []) := by
  have ready : ((s.ctx ((s.mailbox m.val).arg 0)).staged.map (·.committed)).getD false = true := by rw [staged]; exact done
  have own : (s.ctx ((s.mailbox m.val).arg 0)).staged.getD {} = w := by rw [staged]; rfl
  refine (exec_awaited rfl waits).trans (congrArg _ ((if_neg ?_).trans ?_))
  · simp only [Bool.or_eq_true, decide_eq_true_eq, Bool.not_eq_true', beq_iff_eq]
    have fits := mt State.not_switchFits_iff.mpr (not_not.mpr good)
    simp only [not_or] at fits ⊢
    obtain ⟨h1, h2, h3, h4, h5, h6, h7⟩ := fits
    exact ⟨⟨⟨⟨⟨⟨⟨h1, h2⟩, h3⟩, by simp [ready]⟩, h4⟩, h5⟩, h6⟩, h7⟩
  · rw [own]
    rfl
theorem exec_wgtSwitch_fails {code : Nat} {step : Option (Nat × Nat)}
    (verdict : s.switchVerdict ((s.mailbox m.val).arg 0) w grp = some (code, step)) :
    exec (.wgtSwitch m grp) s = .next ((s.modCtx ((s.mailbox m.val).arg 0) (Ctx.switchFailed code)).complete m.val 0x11 []) := by
  rw [exec_wgtSwitch_looks waits good staged done, verdict]
theorem exec_wgtSwitch_passes (verdict : s.switchVerdict ((s.mailbox m.val).arg 0) w grp = none) :
    exec (.wgtSwitch m grp) s = .next ((s.switchTo m.val w).complete m.val 0 []) := by
  rw [exec_wgtSwitch_looks waits good staged done, verdict]
end

section
variable {w : WeightSet}

theorem State.acceptSwitch_ctx (s : State) (c : Nat) (b : Mailbox) (plan : Bytes) (w : WeightSet) :
    ∃ sw, (s.acceptSwitch c b plan w).ctx c = { s.ctx c with sw := sw } ∧ sw.state = 3 ∧ sw.drainIter = b.arg 1 ∧
      sw.switchId = b.arg2 2 ∧ sw.resetStreams = (b.arg 4 == 1) ∧ sw.fromIter = s.drainFrom c ∧ sw.flipPick = none ∧
      sw.idleFrom = none := by
  refine ⟨_, State.modCtx_ctx .., ?_⟩
  exact ⟨rfl, rfl, rfl, rfl, rfl, rfl, rfl⟩
theorem CtxCtl.succeeded_successor {k : CtxCtl} {p : Bytes} (successor : k.successor = some p) : k.succeeded.plan = some p := by
  simp only [CtxCtl.succeeded, successor]
theorem State.switchTo_running (runs : (s.ctx ((s.mailbox m.val).arg 0)).ctl.state ≠ 0) : s.switchTo m.val w =
    s.acceptSwitch ((s.mailbox m.val).arg 0) (s.mailbox m.val) ((s.ctx ((s.mailbox m.val).arg 0)).nextPlan.getD []) w := if_neg runs
theorem State.switchTo_disabled (disabled : (s.ctx ((s.mailbox m.val).arg 0)).ctl.state = 0) : s.switchTo m.val w =
    (s.acceptSwitch ((s.mailbox m.val).arg 0) (s.mailbox m.val) ((s.ctx ((s.mailbox m.val).arg 0)).nextPlan.getD []) w).flipAtStop
      ((s.mailbox m.val).arg 0) := if_pos disabled
theorem State.switchTo_mbx (s : State) (m : Nat) (w : WeightSet) : (s.switchTo m w).mbx = s.mbx ∧ (s.switchTo m w).clk = s.clk := by
  unfold State.switchTo
  dsimp only
  split_ifs
  · have moves := State.flipAtStop_moves (s.acceptSwitch ((s.mailbox m).arg 0) (s.mailbox m)
      ((s.ctx ((s.mailbox m).arg 0)).nextPlan.getD []) w) ((s.mailbox m).arg 0)
    exact ⟨moves.same .mbx (by decide), moves.same .clk (by decide)⟩
  · exact ⟨rfl, rfl⟩
/-- A switch that is made at once: the staged set is current, and a successor plan is the plan. -/
theorem State.switchTo_flips (disabled : (s.ctx ((s.mailbox m.val).arg 0)).ctl.state = 0)
    (staged : (s.ctx ((s.mailbox m.val).arg 0)).staged = some w) : ∃ sw resets, (s.switchTo m.val w).ctx ((s.mailbox m.val).arg 0) =
      Ctx.flipped w resets
        { s.ctx ((s.mailbox m.val).arg 0) with sw := sw, ctl := (s.ctx ((s.mailbox m.val).arg 0)).ctl.succeeded } := by
  rw [State.switchTo_disabled disabled]
  obtain ⟨sw, ctx, pending, -⟩ := s.acceptSwitch_ctx ((s.mailbox m.val).arg 0) (s.mailbox m.val)
    ((s.ctx ((s.mailbox m.val).arg 0)).nextPlan.getD []) w
  generalize s.acceptSwitch ((s.mailbox m.val).arg 0) (s.mailbox m.val)
    ((s.ctx ((s.mailbox m.val).arg 0)).nextPlan.getD []) w = v at ctx
  have succeeded := v.modCtl_ctx ((s.mailbox m.val).arg 0) CtxCtl.succeeded
  rw [State.flipAtStop_of_pending (.inl (by rw [ctx]; exact pending))]
  obtain ⟨resets, made⟩ := State.flipSet_ctx (s := v.modCtl ((s.mailbox m.val).arg 0) CtxCtl.succeeded)
    (by rw [succeeded, ctx]; exact staged)
  exact ⟨sw, resets, by rw [made, succeeded, ctx]⟩
end

/-! ## WGT_STAGE_DROP (R245) -/

/-- What a switch that ends leaves of its context, the places of its row copies apart. -/
theorem State.endSwitch_own (s : State) (c reason : Nat) :
    ((s.endSwitch c reason).ctx c).uncopied = ((s.ctx c).switchEnded reason (s.ctx c)).uncopied := by
  by_cases drained : (s.ctx c).sw.state = 4
  · rw [State.endSwitch_drained reason drained, (State.buildCopies_uncopied ..).own, State.modCtx_ctx]
  · rw [State.endSwitch_undrained reason drained, State.modCtx_ctx]
/-- A pending switch ends, its reason kept. -/
def State.dropSwitch (s : State) (c : Nat) : State :=
  if (s.ctx c).sw.state = 3 ∨ (s.ctx c).sw.state = 4 then s.endSwitch c (s.ctx c).sw.reason else s
theorem State.dropSwitch_keeps (s : State) (c : Nat) : Keeps [.mem, .sealed, .ctxs, .history, .memChecks, .obs, .agg] s (s.dropSwitch c) :=
  .ite (State.endSwitch_keeps (.refl s) (by decide) ..) (.refl s)
theorem State.dropSwitch_state (s : State) (c : Nat) : ((s.dropSwitch c).ctx c).sw.state =
    if (s.ctx c).sw.state = 3 ∨ (s.ctx c).sw.state = 4 then 0 else (s.ctx c).sw.state := by
  unfold State.dropSwitch
  split_ifs
  · rw [(s.endSwitch_ends c _).sw]
  · rfl
theorem State.dropSwitch_held (s : State) (c : Nat) : ((s.dropSwitch c).ctx c).held = (s.ctx c).held ∧
    ((s.dropSwitch c).ctx c).cur = (s.ctx c).cur := by
  unfold State.dropSwitch
  split_ifs
  · have own := s.endSwitch_own c (s.ctx c).sw.reason
    exact ⟨(congrArg Ctx.held own :), (congrArg Ctx.cur own :)⟩
  · exact ⟨rfl, rfl⟩

/-- A context whose staged set is dropped with what runs with it. -/
def Ctx.unstaged (x : Ctx) : Ctx :=
  { x with staged := none, sw := { x.sw with programs := [] }, ctl := { x.ctl with successor := none } }
/-- The staged set of the context is dropped, no load into it being held. -/
def State.dropSet (s : State) (c : Nat) : State :=
  ((s.dropSwitch c).modCtx c Ctx.unstaged).releaseSet (s.ctx c).ctl.sealed ((s.ctx c).staged.getD {})
theorem State.dropStaged_held {h : HeldLoad} (held : (s.ctx c).held = some h) (own : h.staged = true) :
    s.dropStaged c = (s.endHeld c 0x11 none).dropSet c := by
  rw [State.dropStaged, held]
  exact congrArg (fun u : State => u.dropSet c) (if_pos own)
theorem State.dropStaged_free (free : ∀ h, (s.ctx c).held = some h → h.staged = false) : s.dropStaged c = s.dropSet c := by
  have none_ : ((s.ctx c).held.map (·.staged)).getD false = false := by
    cases held : (s.ctx c).held with
    | none => rfl
    | some h => exact free h held
  rw [State.dropStaged, none_]
  rfl
theorem State.endHeld_ctx {h : HeldLoad} (held : (s.ctx c).held = some h) (status : Nat) (tier : Option Nat) :
    (s.endHeld c status tier).ctx c = ((s.ctx c).unheld status tier).restored h.staged h.before := by
  rw [State.endHeld_eq held, State.complete_ctx, State.rollLoad_ctx, State.modCtx_ctx]
theorem State.dropSet_releases {w : WeightSet} {h : Nat} (staged : (s.ctx c).staged = some w) (own : (s.ctx c).ctl.sealed = true)
    (uses : h ∈ w.harnesses) : ((s.dropSet c).harness h).zeroing = true := by
  have released := State.releaseSet_releases uses ((s.dropSwitch c).modCtx c Ctx.unstaged) true
  rw [State.dropSet, staged, own]
  rwa [State.Released, if_pos rfl] at released
theorem State.dropSet_ctx (s : State) (c : Nat) : (s.dropSet c).ctx c = ((s.dropSwitch c).ctx c).unstaged := by
  rw [State.dropSet, (State.releaseSet_arrays ..).ctx, State.modCtx_ctx]
theorem State.dropSet_mbx (s : State) (c : Nat) : (s.dropSet c).mbx = s.mbx ∧ (s.dropSet c).clk = s.clk := by
  obtain ⟨arr, mem, made⟩ := State.releaseSet_arrays ((s.dropSwitch c).modCtx c Ctx.unstaged) (s.ctx c).ctl.sealed
    ((s.ctx c).staged.getD {})
  have keeps := s.dropSwitch_keeps c
  rw [State.dropSet, made]
  exact ⟨keeps.same .mbx (by decide), keeps.same .clk (by decide)⟩

section
variable (waits : s.awaits m.val 0x1009)
include waits

theorem exec_wgtStageDrop_refused (bad : (s.ctx ((s.mailbox m.val).arg 0)).staged = none ∨ 255 < (s.mailbox m.val).arg 0 ∨
    (s.ctx ((s.mailbox m.val).arg 0)).sw.flipPick.isSome = true) : exec (.wgtStageDrop m) s = .next (s.complete m.val 0x11 []) := by
  refine (exec_awaited rfl waits).trans (congrArg _ (if_pos ?_))
  simp only [Bool.or_eq_true, decide_eq_true_eq, Option.isNone_iff_eq_none]
  tauto
theorem exec_wgtStageDrop_drops (low : (s.mailbox m.val).arg 0 ≤ 255) (staged : (s.ctx ((s.mailbox m.val).arg 0)).staged.isSome = true)
    (free : (s.ctx ((s.mailbox m.val).arg 0)).sw.flipPick = none) :
    exec (.wgtStageDrop m) s = .next ((s.dropStaged ((s.mailbox m.val).arg 0)).complete m.val 0 []) := by
  refine (exec_awaited rfl waits).trans (congrArg _ (if_neg ?_))
  simp only [Bool.or_eq_true, decide_eq_true_eq, Option.isNone_iff_eq_none, free, Option.isSome_none, Bool.false_eq_true, or_false,
    not_or]
  exact ⟨Nat.not_lt.mpr low, Option.isSome_iff_ne_none.mp staged⟩
end

/-! ## Drained (R247, R249) -/

/-- A context with the DRAINED of place `e.1` for switch `e.2`. -/
def Ctx.heardDrained (e : Nat × Nat) (x : Ctx) : Ctx :=
  { x with sw := { x.sw with drainedFrom := x.sw.drainedFrom.filter (· != e) ++ [e] } }
/-- The leader holds DRAINED from every place of the plan. -/
abbrev Ctx.AllDrained (img : Bytes) (x : Ctx) : Prop :=
  x.sw.state = 4 ∧ x.sw.flipPick = none ∧ planPlace img = 0 ∧
    planPlaces img ≤ (x.sw.drainedFrom.filter (fun r => r.2 == x.sw.switchId)).length
/-- A context whose flip is at pick `f`. -/
def Ctx.flipsAt (f : Nat) (x : Ctx) : Ctx := { x with sw := { x.sw with flipPick := some f } }
/-- The leader takes `f` for its flip where it holds every DRAINED. -/
def Ctx.flipChosen (img : Bytes) (f : Nat) (x : Ctx) : Ctx := if x.AllDrained img then x.flipsAt f else x

theorem Ctx.flipChosen_rest (img : Bytes) (f : Nat) (x : Ctx) :
    ∃ p, x.flipChosen img f = { x with sw := { x.sw with flipPick := p } } := by
  unfold Ctx.flipChosen
  split_ifs
  · exact ⟨some f, rfl⟩
  · exact ⟨x.sw.flipPick, rfl⟩

/-- The pick that a leader takes for its flip. -/
def State.flipEnd (s : State) (c : Nat) : Nat := s.iterEnd c (s.clk.pick + planLead (s.image c))
/-- FLIP goes to every member. -/
def State.sendFlip (s : State) (c : Nat) : State :=
  (s.originate c 0xA s.clk.pick (s.flipEnd c) (lowWord (s.ctx c).sw.switchId)).noteMsg 0xA 0 (planGroup (s.image c)) (s.flipEnd c)
theorem State.tryFlip_flips (all : (s.ctx c).AllDrained (s.image c)) :
    s.tryFlip c = (s.sendFlip c).modCtx c (Ctx.flipsAt (s.flipEnd c)) := if_pos all
theorem State.tryFlip_waits (part : ¬ (s.ctx c).AllDrained (s.image c)) : s.tryFlip c = s := if_neg part
theorem State.sendFlip_ctx (s : State) (c d : Nat) : (s.sendFlip c).ctx d = s.ctx d := by
  rw [State.sendFlip, State.noteMsg_ctx, State.originate_ctx]
theorem State.tryFlip_ctx (s : State) (c : Nat) : (s.tryFlip c).ctx c = (s.ctx c).flipChosen (s.image c) (s.flipEnd c) := by
  by_cases all : (s.ctx c).AllDrained (s.image c)
  · rw [State.tryFlip_flips all, State.modCtx_ctx, State.sendFlip_ctx, Ctx.flipChosen, if_pos all]
  · rw [State.tryFlip_waits all, Ctx.flipChosen, if_neg all]
theorem State.noteDrained_ctx (s : State) (c place id : Nat) : (s.noteDrained c place id).ctx c =
    ((s.ctx c).heardDrained (place, id)).flipChosen (s.image c) (s.flipEnd c) := by
  have own := s.modCtx_ctx c (Ctx.heardDrained (place, id))
  have made : s.noteDrained c place id = (s.modCtx c (Ctx.heardDrained (place, id))).tryFlip c := rfl
  have clk : (s.modCtx c (Ctx.heardDrained (place, id))).clk = s.clk := rfl
  rw [made]
  generalize s.modCtx c (Ctx.heardDrained (place, id)) = v at own clk
  have plan : (v.ctx c).ctl.plan = (s.ctx c).ctl.plan := by rw [own]; rfl
  have launch : (v.ctx c).ctl.launchPick = (s.ctx c).ctl.launchPick := by rw [own]; rfl
  rw [State.tryFlip_ctx, State.flipEnd, State.flipEnd, State.iterEnd_of_plan plan launch, State.image_of_plan plan, own, clk]

/-- A context that has drained: its candidates are those of the staged set. -/
def Ctx.drained (x : Ctx) : Ctx :=
  { x with sw := { x.sw with state := 4, cands := x.ctl.candidates }, ctl := { x.ctl with candidates := x.sw.cands } }
/-- The context has drained, and the copies of its staged set are built. -/
def State.drainDone (s : State) (c : Nat) (w : WeightSet) : State :=
  (s.modCtx c Ctx.drained).buildCopies c ((s.ctx c).nextPlan.getD (s.image c)) w
/-- The pick at which iteration `n` ends. -/
def State.iterationEnd (s : State) (c n : Nat) : Nat := (s.ctx c).ctl.launchPick.getD 0 + (n + 1) * planPeriod (s.image c)
theorem State.drainDone_own (s : State) (c : Nat) (w : WeightSet) : ((s.drainDone c w).ctx c).uncopied = (s.ctx c).drained.uncopied := by
  rw [State.drainDone, (State.buildCopies_uncopied ..).own, State.modCtx_ctx]
theorem State.drainDone_clk (s : State) (c : Nat) (w : WeightSet) : (s.drainDone c w).clk = s.clk :=
  (State.buildCopies_keeps (.refl (s.modCtx c Ctx.drained)) (List.Subset.refl _) ..).same .clk (by decide)

theorem exec_switchDrained_drains {c : Fin 256} {n : Nat} {w : WeightSet} (awake : s.awake = true)
    (idle : (s.ctx c.val).sw.idleFrom = some n) (staged : (s.ctx c.val).staged = some w) (drains : (s.ctx c.val).sw.state = 3)
    (runs : (s.ctx c.val).ctl.state = 4) (ended : s.iterationEnd c.val n ≤ s.clk.pick) : exec (.switchDrained c) s = .next (
      let v := s.drainDone c.val w
      if planPlaces (s.image c.val) ≤ 1 then
        v.modCtx c.val (Ctx.flipsAt (v.iterEnd c.val (max (s.iterationEnd c.val n + planLead (s.image c.val)) (v.clk.pick + 1))))
      else if planPlace (s.image c.val) = 0 then v.noteDrained c.val 0 (s.ctx c.val).sw.switchId
      else v.originate c.val 9 v.clk.pick (s.ctx c.val).sw.switchId 0) := by
  have now : (s.awake && (s.ctx c.val).sw.state == 3 && (s.ctx c.val).ctl.state == 4 &&
      decide ((s.ctx c.val).ctl.launchPick.getD 0 + (n + 1) * planPeriod (s.image c.val) ≤ s.clk.pick)) = true := by
    rw [awake, drains, runs]
    exact decide_eq_true ended
  refine congrArg Host.Outcome.next ?_
  simp only [idle, staged]
  exact if_pos now

/-! ## The drain limit (R248) -/

/-- A request that the drain limit ends, unless it has been cancelled. -/
def Request.limited (p : Nat) (q : Request) : Request := if q.cancelAt.isNone then { q with cancelAt := some p, drainEnd := true } else q
theorem Request.limited_cancelled (p : Nat) (q : Request) : (q.limited p).cancelAt ≠ none := by
  unfold Request.limited
  split_ifs with open_
  · simp
  · simpa using open_
theorem Request.limited_stays (p : Nat) (q : Request) :
    (q.limited p).id = q.id ∧ (q.limited p).ctx = q.ctx ∧ (q.limited p).state = q.state := by
  unfold Request.limited
  split_ifs <;> exact ⟨rfl, rfl, rfl⟩
theorem Request.limited_limited (p : Nat) (q : Request) : (q.limited p).limited p = q.limited p := by
  rw [Request.limited, if_neg (by simpa using q.limited_cancelled p)]
/-- The drain limit ends request `q`. -/
def State.limitRequest (s : State) (q : Request) : State := s.modRequest q.id (Request.limited s.clk.pick)
theorem State.limitRequests (l : List Request) (s : State) : State.each l State.limitRequest s =
    { s with srv := { s.srv with reqs := s.srv.reqs.map fun q => if q.id ∈ l.map (·.id) then q.limited s.clk.pick else q } } := by
  induction l generalizing s with
  | nil => simp [State.each]
  | cons a l ih =>
    have step : State.each (a :: l) State.limitRequest s = State.each l State.limitRequest (s.limitRequest a) := rfl
    have same : (fun q : Request => if q.id ∈ l.map (·.id) then q.limited s.clk.pick else q) ∘
        (fun q => if q.id = a.id then q.limited s.clk.pick else q) =
        fun q => if q.id ∈ (a :: l).map (·.id) then q.limited s.clk.pick else q := by
      funext q
      by_cases own : q.id = a.id
      · simp [own, (q.limited_stays _).1, Request.limited_limited]
      · simp [own]
    rw [step, ih, ← same, ← List.map_map]
    rfl
/-- The limit of its draining is reached. -/
def Ctx.limitReached (x : Ctx) : Ctx := { x with sw := { x.sw with limitReached := true } }
theorem exec_drainLimit_ends {c : Fin 256} {l : Nat} (up : s.up = true) (drains : (s.ctx c.val).sw.state = 3)
    (new : (s.ctx c.val).sw.limitReached = false) (launched : (s.ctx c.val).ctl.launchPick = some l)
    (late : l + ((s.ctx c.val).sw.fromIter + (s.ctx c.val).sw.drainIter) * planPeriod (s.image c.val) ≤ s.clk.pick) :
    exec (.drainLimit c) s = .next (State.each (s.admitted c.val) State.limitRequest (s.modCtx c.val Ctx.limitReached)) := by
  refine congrArg Host.Outcome.next (if_pos ?_)
  simp only [up, drains, new, launched, Option.getD_some, Option.isSome_some, decide_eq_true late]
  rfl

end Sys2Proof.Machine

open Sys2Proof Sys2Proof.Machine

/-- Settles O46: a switch that is accepted leaves the sets as they are, one made at once moves the staged set; what drains, is dropped
or reaches its limit is read off the context that the command leaves. -/
theorem switchIsAcceptedAndDrained : Obligations.SwitchIsAcceptedAndDrained := by
  refine ⟨fun s m image waits => ?_, fun s m grp waits => ⟨fun bad => ?_, fun w good staged done => ⟨fun code step verdict => ?_,
      fun verdict runs => ?_, fun verdict disabled => ?_⟩⟩,
    fun s m waits => ⟨fun bad => ?_, fun h low some_ free held own apart => ?_, fun w staged low free unset => ?_⟩,
    fun s c n w awake idle staged drains runs ended => ?_, fun s c l up drains new launched late => ?_⟩
  · by_cases good : s.MayStagePlan m.val
    · rcases Nat.lt_or_ge poolBlocks (s.stagePlanNeed m.val) with full | room
      · exact yields_of (exec_wgtStagePlan_full waits good full) ⟨s.complete_eq .., fun bad => absurd good bad,
          fun _ _ => s.refused_command .., fun _ room => absurd full (Nat.not_lt.mpr room)⟩
      · obtain ⟨rest, done⟩ := s.modCtl_command ((s.mailbox m.val).arg 0) (s.keepSuccessor m.val image) m.val 0 []
        exact yields_of (exec_wgtStagePlan_keeps waits good room) ⟨rest, fun bad => absurd good bad,
          fun _ full => absurd full (Nat.not_lt.mpr room), fun _ _ => ⟨done, fun d other => State.modCtx_complete_other other ..,
            State.modCtx_complete_ctx ..⟩⟩
    · exact yields_of (exec_wgtStagePlan_refused waits good) ⟨s.complete_eq .., fun _ => s.refused_command ..,
        fun ok => absurd ok good, fun ok => absurd ok good⟩
  · exact yields_of (exec_wgtSwitch_refused waits bad) ⟨s.complete_completes .., s.complete_eq ..⟩
  · obtain ⟨rest, done'⟩ := s.modCtx_command ((s.mailbox m.val).arg 0) (Ctx.switchFailed code) m.val 0x11 []
    exact yields_of (exec_wgtSwitch_fails waits good staged done verdict) ⟨done', State.modCtx_complete_ctx .., rest⟩
  · obtain ⟨mbx, clk⟩ := s.switchTo_mbx m.val w
    refine yields_of (exec_wgtSwitch_passes waits good staged done verdict) ⟨State.completes_after mbx clk .., ?_⟩
    obtain ⟨sw, ctx, state, iter, id, resets, from_, flip, first⟩ := s.acceptSwitch_ctx ((s.mailbox m.val).arg 0) (s.mailbox m.val)
      ((s.ctx ((s.mailbox m.val).arg 0)).nextPlan.getD []) w
    rw [State.complete_ctx, State.switchTo_running runs, ctx]
    exact ⟨state, iter, id, resets, from_, flip, first, rfl, rfl, rfl⟩
  · obtain ⟨mbx, clk⟩ := s.switchTo_mbx m.val w
    refine yields_of (exec_wgtSwitch_passes waits good staged done verdict) ⟨State.completes_after mbx clk .., ?_⟩
    obtain ⟨sw, resets, ctx⟩ := State.switchTo_flips disabled staged
    rw [State.complete_ctx, ctx]
    exact ⟨rfl, rfl, rfl, rfl, disabled, rfl, fun p successor => CtxCtl.succeeded_successor successor⟩
  · exact yields_of (exec_wgtStageDrop_refused waits bad) ⟨s.complete_completes .., s.complete_eq ..⟩
  · have ended := s.endHeld_completes held 0x11 none
    have ctx := State.endHeld_ctx held 0x11 none
    refine yields_of (exec_wgtStageDrop_drops waits low some_ free) ?_
    rw [State.dropStaged_held held own]
    generalize s.endHeld ((s.mailbox m.val).arg 0) 0x11 none = u at ended ctx
    obtain ⟨heldBox, -, -⟩ := ended
    obtain ⟨mbx, clk⟩ := u.dropSet_mbx ((s.mailbox m.val).arg 0)
    obtain ⟨box, others, -⟩ := State.completes_after (s := u) mbx clk m.val 0 []
    obtain ⟨none_, cur⟩ := u.dropSwitch_held ((s.mailbox m.val).arg 0)
    rw [others h.mbx apart, box, heldBox, State.complete_ctx, State.dropSet_ctx]
    refine ⟨rfl, rfl, rfl, rfl, none_.trans ?_, rfl, cur.trans ?_⟩
    · rw [ctx, own]
      rfl
    · rw [ctx, own]
      rfl
  · obtain ⟨mbx, clk⟩ := s.dropSet_mbx ((s.mailbox m.val).arg 0)
    obtain ⟨-, cur⟩ := s.dropSwitch_held ((s.mailbox m.val).arg 0)
    refine yields_of (exec_wgtStageDrop_drops waits low (by rw [staged]; rfl) unset) ?_
    rw [State.dropStaged_free free]
    refine ⟨State.completes_after mbx clk .., ?_⟩
    rw [State.complete_ctx, State.dropSet_ctx]
    exact ⟨rfl, rfl, cur, s.dropSwitch_state _, fun own h uses => State.dropSet_releases staged own uses⟩
  · refine yields_of (exec_switchDrained_drains awake idle staged drains runs ended) ?_
    have own := s.drainDone_own c.val w
    have clk := s.drainDone_clk c.val w
    generalize s.drainDone c.val w = v at own clk
    have sw : (v.ctx c.val).sw = (s.ctx c.val).drained.sw := (congrArg Ctx.sw own :)
    have candidates : (v.ctx c.val).ctl.candidates = (s.ctx c.val).sw.cands := (congrArg (·.ctl.candidates) own :)
    have cur : (v.ctx c.val).cur = (s.ctx c.val).cur := (congrArg Ctx.cur own :)
    have plan : (v.ctx c.val).ctl.plan = (s.ctx c.val).ctl.plan := (congrArg (·.ctl.plan) own :)
    have launch : (v.ctx c.val).ctl.launchPick = (s.ctx c.val).ctl.launchPick := (congrArg (·.ctl.launchPick) own :)
    have image : v.image c.val = s.image c.val := State.image_of_plan plan
    dsimp only
    split_ifs with alone leads
    · rw [State.modCtx_ctx, State.iterEnd_of_plan plan launch, clk]
      have ge := s.iterEnd_ge c.val (max (s.iterationEnd c.val n + planLead (s.image c.val)) (s.clk.pick + 1))
      refine ⟨congrArg Switch.state sw, candidates, cur, fun _ => ⟨_, rfl, ?_, ?_, s.iterEnd_whole ..⟩,
        fun many => absurd alone (Nat.not_le.mpr many), fun many => absurd alone (Nat.not_le.mpr many)⟩
      · exact (Nat.le_max_left ..).trans ge
      · exact (Nat.le_max_right ..).trans ge
    · obtain ⟨p, chosen⟩ := Ctx.flipChosen_rest (v.image c.val) (v.flipEnd c.val)
        ((v.ctx c.val).heardDrained (0, (s.ctx c.val).sw.switchId))
      rw [State.noteDrained_ctx, chosen]
      exact ⟨congrArg Switch.state sw, candidates, cur, fun one => absurd one alone, fun _ member => absurd leads member,
        fun _ _ => List.mem_append_right _ (.head _)⟩
    · have sent := (v.originate_out c.val 9 v.clk.pick (s.ctx c.val).sw.switchId 0).2
      rw [image, clk] at sent
      rw [State.originate_ctx, clk]
      exact ⟨congrArg Switch.state sw, candidates, cur, fun one => absurd one alone, fun _ _ => sent,
        fun _ lead => absurd lead leads⟩
  · refine yields_of (exec_drainLimit_ends up drains new launched late) ?_
    rw [State.limitRequests]
    refine ⟨congrArg Ctx.sw (s.modCtx_ctx c.val Ctx.limitReached), fun q listed own state => ?_,
      fun q listed own state open_ => ?_, rfl⟩
    · obtain ⟨r, was, rfl⟩ := List.mem_map.mp listed
      by_cases ends : r.id ∈ (s.admitted c.val).map (·.id)
      · rw [if_pos ends]
        exact r.limited_cancelled _
      · rw [if_neg ends] at own state
        exact absurd (List.mem_map.mpr ⟨r, State.mem_admitted.mpr ⟨was, own, state⟩, rfl⟩) ends
    · have ends : q.id ∈ (s.admitted c.val).map (·.id) := List.mem_map.mpr ⟨q, State.mem_admitted.mpr ⟨listed, own, state⟩, rfl⟩
      refine ⟨q.limited s.clk.pick, List.mem_map.mpr ⟨q, listed, if_pos ends⟩, (q.limited_stays _).1, ?_⟩
      rw [Request.limited, if_pos (by rw [open_]; rfl)]
      exact ⟨rfl, rfl⟩

end

section
/-! The flip of a switch (R249) and the messages that agree on it (R250). -/

-- one proof at a time: side by side, their stacks and heaps do not fit beside the rest of the text
set_option Elab.async false

namespace Sys2Proof.Machine

variable {s t u : State} {c : Nat}

/-! ## Steps that fall due leave the runs -/

theorem State.fallDue_runs (s : State) (c l i n p : Nat) : (s.fallDue c l i n p).sched.runs = s.sched.runs := by
  cases filled : s.unfilled c (s.stepAt c l i) p with
  | true =>
    rw [State.fallDue_unfilled filled]
    rfl
  | false =>
    cases sup : s.suppresses c l (s.stepAt c l i) with
    | true =>
      have drawn : (s.tagDraw c l (s.stepAt c l i).kind).2.sched.runs = s.sched.runs := by rw [State.tagDraw_frame]
      rw [State.fallDue_suppressed filled sup]
      generalize (s.tagDraw c l (s.stepAt c l i).kind).2 = v at drawn
      have marked := (State.check_keeps (B := [.ctxs]) (.refl v) (by decide) c (s.stepAt c l i).slot fun k =>
        { k with suppressed := true }).same .sched (by decide)
      exact (congrArg (·.runs) marked).trans drawn
    | false =>
      rw [State.fallDue_live filled sup]
      have put : (s.putDue (s.liveDue c l i n p (s.inputs c l (s.stepAt c l i) n p))).sched.runs = s.sched.runs := rfl
      generalize s.putDue (s.liveDue c l i n p (s.inputs c l (s.stepAt c l i) n p)) = v at put
      split_ifs
      · have traced := State.traceWait_keeps (B := [.mem, .obs]) (.refl v) (by decide) l i (s.stepAt c l i) n
        exact (congrArg (·.runs) (traced.same .sched (by decide))).trans put
      · exact put
theorem State.dueAt_runs (s : State) (c p : Nat) : (s.dueAt c p).sched.runs = s.sched.runs := by
  unfold State.dueAt
  dsimp only
  split
  · rfl
  · split
    · rfl
    · exact State.each_holds (P := fun t => t.sched.runs = s.sched.runs) (fun t x _ same => (t.fallDue_runs ..).trans same) rfl

/-! ## The successor plan (R249) -/

/-- A context whose successor plan `p` is its plan and starts iteration 0 at pick `f`. -/
def Ctx.succeededBy (p : Bytes) (f : Nat) (x : Ctx) : Ctx :=
  { x with recs := x.recs.entered, slots := [], ctl := { x.ctl with plan := some p, successor := none, launchPick := some f } }
/-- The units of the steps that still run are free. -/
def State.freeUnits (s : State) (c : Nat) : State := State.each (s.sched.runs.filter fun r => r.ctx == c) (fun s r => s.freeUnit r) s
/-- No step of context `c` runs any longer. -/
def State.dropRuns (s : State) (c : Nat) : State :=
  let t := (s.dropSteps c).freeUnits c
  { t with sched := { t.sched with runs := t.sched.runs.filter fun r => r.ctx != c } }
theorem State.takeSuccessor_eq (s : State) (c f : Nat) (p : Bytes) : s.takeSuccessor c f p =
    ((((s.dropRuns c).modCtx c (Ctx.succeededBy p f)).zeroKnots c).endSampling c).prune := rfl
theorem State.dropRuns_keeps (s : State) (c : Nat) : Keeps [.sched, .obs] s (s.dropRuns c) := by
  have freed : Keeps [.sched, .obs] s ((s.dropSteps c).freeUnits c) :=
    State.each_keeps (s.dropSteps_keeps c) fun _ r h => State.freeUnit_keeps h (by decide) r
  rw [State.dropRuns, State.mk_eq]
  apply Keeps.upd freed (fun w => w) <;> first | exact .inr rfl | exact .inl (by decide)
theorem State.dropRuns_runs (s : State) (c : Nat) : ∀ r ∈ (s.dropRuns c).sched.runs, r.ctx ≠ c := fun r hr => by
  simpa using (List.mem_filter.mp hr).2
/-- What follows the entry into the successor plan: knots, sampling and Done requests are settled. -/
theorem State.settleEntry_keeps (s : State) (c : Nat) : Keeps [.mem, .obs, .reqs] s (((s.zeroKnots c).endSampling c).prune) :=
  State.prune_keeps (State.endSampling_keeps (State.zeroKnots_keeps (.refl s) (by decide) c) (by decide) c) (by decide)
theorem State.takeSuccessor_ctx (s : State) (c f : Nat) (p : Bytes) :
    (s.takeSuccessor c f p).ctx c = (s.ctx c).succeededBy p f := by
  rw [State.takeSuccessor_eq, (State.settleEntry_keeps ..).ctx_eq (by decide), State.modCtx_ctx, (s.dropRuns_keeps c).ctx_eq (by decide)]
theorem State.takeSuccessor_runs (s : State) (c f : Nat) (p : Bytes) : ∀ r ∈ (s.takeSuccessor c f p).sched.runs, r.ctx ≠ c := by
  have same : (s.takeSuccessor c f p).sched = (s.dropRuns c).sched :=
    (((s.dropRuns c).modCtx c (Ctx.succeededBy p f)).settleEntry_keeps c).same .sched (by decide)
  rw [same]
  exact s.dropRuns_runs c

/-! ## The flip (R249) -/

/-- The successor plan, where there is one, starts here and now. -/
def State.flipStart (s : State) (c : Nat) : State :=
  match (s.ctx c).ctl.successor with
  | some p => s.takeSuccessor c s.clk.pick p
  | none => s
/-- The units that the staged set was checked with are the context's. -/
def State.takeUnits (s : State) (c : Nat) : State := (s.flipStart c).modCtl c fun k => { k with unitMap := (s.ctx c).sw.unitMap }
/-- The context as its successor plan leaves it. -/
def Ctx.flipStarted (f : Nat) (x : Ctx) : Ctx :=
  match x.ctl.successor with
  | some p => x.succeededBy p f
  | none => x

theorem State.flipNow_eq (s : State) (c : Nat) :
    s.flipNow c = (((s.takeUnits c).flipSet c).pageSettle).dueAt c (s.takeUnits c).clk.pick := rfl
theorem State.flipStart_ctx (s : State) (c : Nat) : (s.flipStart c).ctx c = (s.ctx c).flipStarted s.clk.pick := by
  unfold State.flipStart Ctx.flipStarted
  split
  · exact s.takeSuccessor_ctx ..
  · rfl
theorem State.flipStart_runs {p : Bytes} (successor : (s.ctx c).ctl.successor = some p) :
    ∀ r ∈ (s.flipStart c).sched.runs, r.ctx ≠ c := by
  simp only [State.flipStart, successor]
  exact s.takeSuccessor_runs c _ p
theorem Ctx.flipStarted_of_successor {x : Ctx} {p : Bytes} (successor : x.ctl.successor = some p) (f : Nat) :
    x.flipStarted f = x.succeededBy p f := by
  simp only [Ctx.flipStarted, successor]
theorem Ctx.flipStarted_of_none {x : Ctx} (none_ : x.ctl.successor = none) (f : Nat) : x.flipStarted f = x := by
  simp only [Ctx.flipStarted, none_]
theorem Ctx.flipStarted_rest (x : Ctx) (f : Nat) : (x.flipStarted f).staged = x.staged ∧ (x.flipStarted f).sw = x.sw ∧
    (x.flipStarted f).ctl.gen = x.ctl.gen ∧ (x.flipStarted f).ctl.state = x.ctl.state := by
  cases successor : x.ctl.successor with
  | some p =>
    rw [Ctx.flipStarted_of_successor successor]
    exact ⟨rfl, rfl, rfl, rfl⟩
  | none =>
    rw [Ctx.flipStarted_of_none successor]
    exact ⟨rfl, rfl, rfl, rfl⟩
/-- The context with the units that its staged set was checked with. -/
def Ctx.withUnits (x y : Ctx) : Ctx := { y with ctl := { y.ctl with unitMap := x.sw.unitMap } }
/-- What a flip leaves of its context, its batch slots apart. -/
theorem State.flipNow_own {w : WeightSet} (staged : (s.ctx c).staged = some w) : ∃ resets, ((s.flipNow c).ctx c).unslotted =
    (((s.ctx c).withUnits ((s.ctx c).flipStarted s.clk.pick)).flipped w resets).unslotted := by
  have units : (s.takeUnits c).ctx c = (s.ctx c).withUnits ((s.ctx c).flipStarted s.clk.pick) := by
    rw [State.takeUnits, State.modCtl_ctx, State.flipStart_ctx]
    rfl
  obtain ⟨resets, made⟩ := State.flipSet_ctx (s := s.takeUnits c) (c := c) (w := w)
    (by rw [units]; exact ((s.ctx c).flipStarted_rest _).1.trans staged)
  refine ⟨resets, ?_⟩
  rw [State.flipNow_eq, (State.dueAt_unslotted ..).own,
    (State.pageSettle_keeps (.refl ((s.takeUnits c).flipSet c)) (List.Subset.refl _)).ctx_eq (by decide), made, units]
theorem State.flipNow_runs (s : State) (c : Nat) : (s.flipNow c).sched.runs = (s.flipStart c).sched.runs := by
  have settled : Keeps [.mbx, .mem, .heddles, .harnesses, .kvt, .ctxs, .streams, .out] (s.takeUnits c)
      ((s.takeUnits c).flipSet c).pageSettle :=
    State.pageSettle_keeps (State.flipSet_keeps (.refl _) (by decide) c) (by decide)
  rw [State.flipNow_eq, State.dueAt_runs]
  exact congrArg (·.runs) (settled.same .sched (by decide))
theorem State.flipNow_clk (s : State) (c : Nat) : (s.flipNow c).clk = s.clk :=
  (State.flipNow_keeps (.refl s) (List.Subset.refl _) c).same .clk (by decide)

/-- No harness that the staged set waits for can be programmed yet. -/
theorem State.stagedPrograms_ctx (cold : ∀ p ∈ (s.ctx c).sw.programs, s.tierInWindow (tierOfHarness p.2) = false) :
    (s.stagedPrograms c).ctx c = s.ctx c := by
  have none_ : (s.ctx c).sw.programs.filter (fun p => s.tierInWindow (tierOfHarness p.2)) = [] :=
    List.filter_eq_nil_iff.mpr fun p listed => by rw [cold p listed]; decide
  have all : (s.ctx c).sw.programs.filter (fun p => !([] : List (Nat × Nat)).contains p) = (s.ctx c).sw.programs :=
    List.filter_eq_self.mpr fun _ _ => rfl
  have nothing (f : State → Nat × Nat → State) : State.each [] f s = s := rfl
  rw [State.stagedPrograms, none_, State.modCtx_ctx, nothing, all]
theorem State.stagedPrograms_clk (s : State) (c : Nat) : (s.stagedPrograms c).clk = s.clk :=
  (State.stagedPrograms_keeps (.refl s) (List.Subset.refl _) c).same .clk (by decide)

theorem exec_weightFlip {c : Fin 256} (awake : s.awake = true) (runs : (s.ctx c.val).ctl.state = 4) (drained : (s.ctx c.val).sw.state = 4)
    (due : (s.ctx c.val).sw.flipPick = some s.clk.pick) : exec (.weightFlip c) s = .next (
      let v := s.stagedPrograms c.val
      if (v.ctx c.val).sw.programs.isEmpty then v.flipNow c.val
      else v.modCtx c.val (Ctx.flipsAt (v.clk.pick + max 1 (planPeriod (v.image c.val))))) :=
  congrArg Host.Outcome.next (if_pos (by rw [awake, runs, drained, due]; simp))

/-! ## DRAINED (R250) -/

theorem Ctx.heardDrained_again (e : Nat × Nat) (x : Ctx) : (x.heardDrained e).heardDrained e = x.heardDrained e := by
  have same : (x.sw.drainedFrom.filter (· != e) ++ [e]).filter (· != e) = x.sw.drainedFrom.filter (· != e) := by simp
  simp only [Ctx.heardDrained, same]
theorem Ctx.flipChosen_again (img : Bytes) (f : Nat) (e : Nat × Nat) (x : Ctx) :
    (((x.heardDrained e).flipChosen img f).heardDrained e).flipChosen img f = (x.heardDrained e).flipChosen img f := by
  have again := x.heardDrained_again e
  generalize x.heardDrained e = y at again
  by_cases all : y.AllDrained img
  · have chosen : y.flipChosen img f = y.flipsAt f := if_pos all
    have kept : (y.flipsAt f).heardDrained e = (y.heardDrained e).flipsAt f := rfl
    rw [chosen, kept, again]
    exact if_neg fun ⟨_, unset, _⟩ => nomatch unset
  · have waits : y.flipChosen img f = y := if_neg all
    rw [waits, again, waits]

/-- DRAINED in a member: the leader notes it, any other relays it. -/
def State.drainedMember (g place id : Nat) (s : State) (c : Nat) : State :=
  if planPlace (s.image c) = 0 then (s.noteMsg 9 place g id).noteDrained c place id else s.relay c 9 place g id id 0
theorem exec_drained (up : s.up = true) {group switchId : BitVec 64} {place : Fin 4096}
    (new : s.seen 9 place.val group.toNat switchId.toNat = false) : exec (.drained group place switchId) s =
      .next (State.each (s.inGroup group.toNat) (State.drainedMember group.toNat place.val switchId.toNat) s) :=
  congrArg Host.Outcome.next (if_pos (by rw [up, new]; rfl))

theorem State.tryFlip_other {d : Nat} (other : d ≠ c) (s : State) : (s.tryFlip c).ctx d = s.ctx d := by
  by_cases all : (s.ctx c).AllDrained (s.image c)
  · rw [State.tryFlip_flips all, State.modCtx_ctx_other _ other, State.sendFlip_ctx]
  · rw [State.tryFlip_waits all]
theorem State.sendFlip_out (s : State) (c : Nat) : s.out <:+ (s.sendFlip c).out := by
  rw [State.sendFlip, State.noteMsg_out]
  exact (s.originate_out ..).1
theorem State.tryFlip_out (s : State) (c : Nat) : s.out <:+ (s.tryFlip c).out := by
  by_cases all : (s.ctx c).AllDrained (s.image c)
  · rw [State.tryFlip_flips all, State.modCtx_out]
    exact s.sendFlip_out c
  · rw [State.tryFlip_waits all]
theorem State.noteDrained_out (s : State) (c place id : Nat) : s.out <:+ (s.noteDrained c place id).out := by
  have out : (s.modCtx c (Ctx.heardDrained (place, id))).out = s.out := State.modCtx_out ..
  rw [← out]
  exact State.tryFlip_out ..

section
variable (s : State) (g place id c : Nat)

theorem State.drainedMember_leader (leads : planPlace (s.image c) = 0) :
    s.drainedMember g place id c = (s.noteMsg 9 place g id).noteDrained c place id := if_pos leads
theorem State.drainedMember_member (member : planPlace (s.image c) ≠ 0) :
    s.drainedMember g place id c = s.relay c 9 place g id id 0 := if_neg member
theorem State.drainedMember_clk : (s.drainedMember g place id c).clk = s.clk := by
  by_cases leads : planPlace (s.image c) = 0
  · rw [State.drainedMember_leader _ _ _ _ _ leads]
    exact (State.noteDrained_keeps (B := [.ctxs, .relayed, .ports, .out]) (.refl _) (by decide) ..).same .clk (by decide)
  · rw [State.drainedMember_member _ _ _ _ _ leads, State.relay_clk]
theorem State.drainedMember_other {d : Nat} (other : d ≠ c) : (s.drainedMember g place id c).ctx d = s.ctx d := by
  by_cases leads : planPlace (s.image c) = 0
  · rw [State.drainedMember_leader _ _ _ _ _ leads]
    exact (State.tryFlip_other other _).trans (State.modCtx_ctx_other _ other _)
  · rw [State.drainedMember_member _ _ _ _ _ leads, State.relay_ctx]
theorem State.drainedMember_out : s.out <:+ (s.drainedMember g place id c).out := by
  by_cases leads : planPlace (s.image c) = 0
  · rw [State.drainedMember_leader _ _ _ _ _ leads]
    rw [← State.noteMsg_out s 9 place g id]
    exact State.noteDrained_out ..
  · rw [State.drainedMember_member _ _ _ _ _ leads]
    exact (s.relay_out ..).1
theorem State.drainedMember_leads (leads : planPlace (s.image c) = 0) : (s.drainedMember g place id c).ctx c =
    ((s.ctx c).heardDrained (place, id)).flipChosen (s.image c) (s.flipEnd c) := by
  rw [State.drainedMember_leader _ _ _ _ _ leads, State.noteDrained_ctx]
  rfl
end

section
variable {l : List Nat} (listed : c ∈ l) (g place id : Nat)
include listed

theorem State.drainedGroup_leader (leads : planPlace (s.image c) = 0) : (State.each l (State.drainedMember g place id) s).ctx c =
    ((s.ctx c).heardDrained (place, id)).flipChosen (s.image c) (s.flipEnd c) := by
  refine State.each_visited (s := s) (c := c)
    (R := fun y => y = ((s.ctx c).heardDrained (place, id)).flipChosen (s.image c) (s.flipEnd c))
    (fun t d => t.drainedMember_clk ..) (fun t d e ne => t.drainedMember_other g place id d ne) (fun t clk seen => ?_) listed
  have plan : (t.ctx c).ctl.plan = (s.ctx c).ctl.plan ∧ (t.ctx c).ctl.launchPick = (s.ctx c).ctl.launchPick := by
    rcases seen with same | noted
    · rw [same]
      exact ⟨rfl, rfl⟩
    · obtain ⟨p, chosen⟩ := Ctx.flipChosen_rest (s.image c) (s.flipEnd c) ((s.ctx c).heardDrained (place, id))
      rw [noted, chosen]
      exact ⟨rfl, rfl⟩
  have image : t.image c = s.image c := State.image_of_plan plan.1
  have end_ : t.flipEnd c = s.flipEnd c := by
    rw [State.flipEnd, State.flipEnd, State.iterEnd_of_plan plan.1 plan.2, image, clk]
  rw [t.drainedMember_leads g place id c (by rw [image]; exact leads), image, end_]
  rcases seen with same | noted
  · rw [same]
  · rw [noted, Ctx.flipChosen_again]
theorem State.drainedGroup_member (member : planPlace (s.image c) ≠ 0) :
    (State.each l (State.drainedMember g place id) s).ctx c = s.ctx c := by
  refine State.each_visited (s := s) (c := c) (R := fun y => y = s.ctx c)
    (fun t d => t.drainedMember_clk ..) (fun t d e ne => t.drainedMember_other g place id d ne) (fun t _ seen => ?_) listed
  have same := or_self_iff.mp seen
  rw [State.drainedMember_member _ _ _ _ _ (by rwa [State.image_of_ctx same]), State.relay_ctx, same]
theorem State.drainedGroup_sends (member : planPlace (s.image c) ≠ 0) {q : Nat} (port : q ∈ planPorts (s.image c)) :
    Output.ctrl q ⟨9, place, g, id, id, 0⟩ ∈ (State.each l (State.drainedMember g place id) s).out := by
  refine State.each_sent (s := s) (c := c) (fun t d => t.drainedMember_out ..)
    (fun t d e ne => t.drainedMember_other g place id d ne) (fun t same => ?_) listed
  have image := State.image_of_ctx same
  rw [State.drainedMember_member _ _ _ _ _ (by rwa [image])]
  exact (t.relay_out c 9 place g id id 0).2 q (by rwa [image])
end

/-! ## FLIP (R250) -/

/-- The drained context waits for the FLIP of the switch whose low word is `low`. -/
def Ctx.Named (low : Nat) (x : Ctx) : Prop := x.sw.state = 4 ∧ x.sw.flipPick = none ∧ x.sw.switchId % 2 ^ 32 = low
theorem Ctx.not_named_iff {low : Nat} {x : Ctx} :
    ¬ x.Named low ↔ x.sw.state ≠ 4 ∨ x.sw.flipPick.isSome = true ∨ lowWord x.sw.switchId ≠ low := by
  rw [Ctx.Named, not_and_or, not_and_or, Option.isSome_iff_ne_none, lowWord]

/-- What a member does with FLIP once it has forwarded it. -/
def State.takeFlip (s : State) (c f low : Nat) : State :=
  let x := s.ctx c
  if x.sw.state ≠ 4 ∨ x.sw.flipPick.isSome = true ∨ lowWord x.sw.switchId ≠ low then s
  else if f < s.clk.pick + 1024 then (s.originate c 5 s.clk.pick 0 0).endSwitch c 0x0707
  else s.modCtx c (Ctx.flipsAt f)
/-- FLIP in a member. -/
def State.flipMember (g f low : Nat) (s : State) (c : Nat) : State := (s.relay c 0xA 0 g f f low).takeFlip c f low
theorem exec_flip (up : s.up = true) {group f : BitVec 64} {low : Word} (new : s.seen 0xA 0 group.toNat f.toNat = false) :
    exec (.flip group f low) s = .next (State.each (s.inGroup group.toNat) (State.flipMember group.toNat f.toNat low.toNat) s) :=
  congrArg Host.Outcome.next (if_pos (by rw [up, new]; rfl))

section
variable {f low : Nat}

theorem State.takeFlip_unnamed (unnamed : ¬ (s.ctx c).Named low) : s.takeFlip c f low = s := if_pos (Ctx.not_named_iff.mp unnamed)
theorem State.takeFlip_late (named : (s.ctx c).Named low) (late : f < s.clk.pick + 1024) :
    s.takeFlip c f low = (s.originate c 5 s.clk.pick 0 0).endSwitch c 0x0707 :=
  (if_neg fun no => Ctx.not_named_iff.mpr no named).trans (if_pos late)
theorem State.takeFlip_early (named : (s.ctx c).Named low) (early : s.clk.pick + 1024 ≤ f) :
    s.takeFlip c f low = s.modCtx c (Ctx.flipsAt f) :=
  (if_neg fun no => Ctx.not_named_iff.mpr no named).trans (if_neg (Nat.not_lt.mpr early))

/-- What FLIP leaves of a member's context, `p` being the pick. -/
structure Ctx.TakesFlip (f low p : Nat) (x y : Ctx) : Prop where
  unnamed : ¬ x.Named low → y = x
  early : x.Named low → p + 1024 ≤ f → y = x.flipsAt f
  late : x.Named low → f < p + 1024 → y.sw = { reason := 0x0707, programs := x.sw.programs }
/-- A second FLIP finds nothing that waits for it. -/
theorem Ctx.TakesFlip.done {p : Nat} {x y : Ctx} (h : x.TakesFlip f low p y) : ¬ y.Named low := by
  by_cases named : x.Named low
  · rintro ⟨state, unset, -⟩
    rcases Nat.lt_or_ge f (p + 1024) with late | early
    · rw [h.late named late] at state
      exact absurd (show 0 = 4 from state) (by decide)
    · rw [h.early named early] at unset
      exact nomatch unset
  · rwa [h.unnamed named]
theorem State.takeFlip_takes (s : State) (c f low : Nat) : (s.ctx c).TakesFlip f low s.clk.pick ((s.takeFlip c f low).ctx c) := by
  by_cases named : (s.ctx c).Named low
  · rcases Nat.lt_or_ge f (s.clk.pick + 1024) with late | early
    · rw [State.takeFlip_late named late]
      refine ⟨fun no => absurd named no, fun _ early => absurd late (Nat.not_lt.mpr early), fun _ _ => ?_⟩
      rw [(State.endSwitch_ends ..).sw, State.originate_ctx]
    · rw [State.takeFlip_early named early]
      exact ⟨fun no => absurd named no, fun _ _ => s.modCtx_ctx .., fun _ late => absurd late (Nat.not_lt.mpr early)⟩
  · rw [State.takeFlip_unnamed named]
    exact ⟨fun _ => rfl, fun yes => absurd yes named, fun yes => absurd yes named⟩
theorem State.takeFlip_other {d : Nat} (other : d ≠ c) (s : State) : (s.takeFlip c f low).ctx d = s.ctx d := by
  by_cases named : (s.ctx c).Named low
  · rcases Nat.lt_or_ge f (s.clk.pick + 1024) with late | early
    · rw [State.takeFlip_late named late, (State.endSwitch_ends ..).other d other, State.originate_ctx]
    · rw [State.takeFlip_early named early, State.modCtx_ctx_other _ other]
  · rw [State.takeFlip_unnamed named]
theorem State.takeFlip_clk (s : State) (c : Nat) : (s.takeFlip c f low).clk = s.clk := by
  by_cases named : (s.ctx c).Named low
  · rcases Nat.lt_or_ge f (s.clk.pick + 1024) with late | early
    · rw [State.takeFlip_late named late]
      exact ((State.endSwitch_keeps (.refl _) (List.Subset.refl _) ..).same .clk (by decide)).trans (s.originate_clk ..)
    · rw [State.takeFlip_early named early]
      rfl
  · rw [State.takeFlip_unnamed named]
theorem State.flipGroup_takes {l : List Nat} (listed : c ∈ l) (g : Nat) :
    (s.ctx c).TakesFlip f low s.clk.pick ((State.each l (State.flipMember g f low) s).ctx c) := by
  refine State.each_visited (s := s) (c := c) (fun t d => ?_) (fun t d e ne => ?_) (fun t clk seen => ?_) listed
  · rw [State.flipMember, State.takeFlip_clk, State.relay_clk]
  · rw [State.flipMember, State.takeFlip_other ne, State.relay_ctx]
  · have takes := (t.relay c 0xA 0 g f f low).takeFlip_takes c f low
    rw [State.relay_ctx, State.relay_clk, clk] at takes
    rw [State.flipMember]
    rcases seen with same | taken
    · rwa [same] at takes
    · rwa [takes.unnamed taken.done]
end

/-! ## The members that accept (R250) -/

/-- The leader has waited 1 s for a member's acceptance: the switch ends. -/
def State.acceptOverdue (s : State) (c : Nat) : State := (s.originate c 5 s.clk.pick 0 0).endSwitch c 0x0707

section
variable {c : Fin 256} {heard : List (Fin 4096)}

/-- The leader knows that place `p` has accepted. -/
def State.Accepted (s : State) (c : Nat) (heard : List (Fin 4096)) (p : Nat) : Prop :=
  p = 0 ∨ (∃ h ∈ heard, h.val = p) ∨ (p, (s.ctx c).sw.switchId) ∈ (s.ctx c).sw.drainedFrom
/-- A place of the plan has not accepted. -/
def State.anyUnheard (s : State) (c : Nat) (heard : List (Fin 4096)) : Bool :=
  (List.range (planPlaces (s.image c))).any fun p =>
    !(p == 0 || heard.any (fun h => h.val == p) || (s.ctx c).sw.drainedFrom.contains (p, (s.ctx c).sw.switchId))
theorem State.anyUnheard_iff {c : Nat} : s.anyUnheard c heard = true ↔ ∃ p < planPlaces (s.image c), ¬ s.Accepted c heard p := by
  simp only [State.anyUnheard, State.Accepted, List.any_eq_true, List.mem_range, Bool.not_eq_true', Bool.or_eq_false_iff, not_or,
    beq_eq_false_iff_ne, List.any_eq_false, beq_iff_eq, List.contains_eq_mem, decide_eq_false_iff_not, not_exists, not_and, and_assoc,
    ne_eq]

theorem exec_switchAcceptTimeout_overdue (up : s.up = true) (pending : 3 ≤ (s.ctx c.val).sw.state)
    (unset : (s.ctx c.val).sw.flipPick = none) (leads : planPlace (s.image c.val) = 0) (many : 1 < planPlaces (s.image c.val))
    (missing : ∃ p < planPlaces (s.image c.val), ¬ s.Accepted c.val heard p)
    (late : 4000000000 ≤ s.clk.wall - (s.ctx c.val).sw.acceptWall) :
    exec (.switchAcceptTimeout (c, heard)) s = .next (s.acceptOverdue c.val) := by
  refine congrArg Host.Outcome.next (if_pos ?_)
  change (_ && s.anyUnheard c.val heard && _) = true
  simp only [up, decide_eq_true pending, unset, leads, decide_eq_true many, State.anyUnheard_iff.mpr missing, decide_eq_true late]
  rfl
theorem exec_switchAcceptTimeout_accepted (all : ∀ p < planPlaces (s.image c.val), s.Accepted c.val heard p) :
    exec (.switchAcceptTimeout (c, heard)) s = .next s := by
  refine congrArg Host.Outcome.next (if_neg ?_)
  change ¬ (_ && s.anyUnheard c.val heard && _) = true
  have heard_ : s.anyUnheard c.val heard = false :=
    Bool.eq_false_iff.mpr fun any => by
      obtain ⟨p, low, missing⟩ := State.anyUnheard_iff.mp any
      exact missing (all p low)
  rw [heard_, Bool.and_false, Bool.false_and]
  decide
end

end Sys2Proof.Machine

open Sys2Proof Sys2Proof.Machine

/-- Settles O47: the flip is read off the context that it leaves, and a message that reaches a context twice changes nothing more. -/
theorem switchFlips : Obligations.SwitchFlips := by
  refine ⟨fun s c w awake runs drained due staged none_ => ?_, fun s c awake runs drained due some_ cold => ?_,
    fun s group switchId place up new => ?_, fun s group f low up new => ?_, fun s group f switchId place low =>
      ⟨fun seen => ?_, fun seen => ?_⟩,
    fun s c heard up => ⟨fun pending unset leads many missing late => ?_, fun all => ?_⟩⟩
  · have ctx := State.stagedPrograms_ctx (s := s) (c := c.val) (by rw [none_]; nofun)
    have clk := s.stagedPrograms_clk c.val
    refine yields_of (exec_weightFlip awake runs drained due) ?_
    generalize s.stagedPrograms c.val = v at ctx clk
    dsimp only
    rw [if_pos (by rw [ctx, none_]; rfl), ← clk]
    rw [← ctx] at staged runs ⊢
    obtain ⟨resets, own⟩ := State.flipNow_own staged
    have runs_ := v.flipNow_runs c.val
    obtain ⟨-, sw, gen, state⟩ := (v.ctx c.val).flipStarted_rest v.clk.pick
    have clk_ := v.flipNow_clk c.val
    generalize v.flipNow c.val = t at own runs_ clk_
    have gen_ : (t.ctx c.val).ctl.gen = (((v.ctx c.val).flipStarted v.clk.pick).ctl.gen + 1) % 65536 := (congrArg (·.ctl.gen) own :)
    have state_ : (t.ctx c.val).ctl.state = ((v.ctx c.val).flipStarted v.clk.pick).ctl.state := (congrArg (·.ctl.state) own :)
    have plan_ : (t.ctx c.val).ctl.plan = ((v.ctx c.val).flipStarted v.clk.pick).ctl.plan := (congrArg (·.ctl.plan) own :)
    have successor_ : (t.ctx c.val).ctl.successor = ((v.ctx c.val).flipStarted v.clk.pick).ctl.successor :=
      (congrArg (·.ctl.successor) own :)
    have launch_ : (t.ctx c.val).ctl.launchPick = ((v.ctx c.val).flipStarted v.clk.pick).ctl.launchPick :=
      (congrArg (·.ctl.launchPick) own :)
    have recs_ : (t.ctx c.val).recs = ((v.ctx c.val).flipStarted v.clk.pick).recs := (congrArg Ctx.recs own :)
    rw [gen_, state_, plan_, successor_, launch_, recs_, gen, state]
    refine ⟨(congrArg Ctx.cur own :), (congrArg Ctx.staged own :), (congrArg (·.sw.state) own :), rfl,
      (congrArg (·.ctl.unitMap) own :), runs, congrArg Clock.pick clk_, fun p successor => ?_, fun unplanned => ?_⟩
    · rw [Ctx.flipStarted_of_successor successor, runs_]
      exact ⟨rfl, rfl, rfl, rfl, State.flipStart_runs successor⟩
    · rw [Ctx.flipStarted_of_none unplanned]
      exact ⟨rfl, rfl, rfl⟩
  · have ctx := State.stagedPrograms_ctx cold
    have clk := s.stagedPrograms_clk c.val
    refine yields_of (exec_weightFlip awake runs drained due) ?_
    generalize s.stagedPrograms c.val = v at ctx clk
    dsimp only
    rw [if_neg (by rw [ctx]; exact mt List.isEmpty_iff.mp some_), State.modCtx_ctx, clk, State.image_of_ctx ctx, ctx]
    rfl
  · refine yields_of (exec_drained up new) fun c listed => ⟨fun member => ?_, fun leads => ?_⟩
    · exact ⟨State.drainedGroup_member listed _ _ _ member, fun p port => State.drainedGroup_sends listed _ _ _ member port⟩
    · rw [State.drainedGroup_leader listed _ _ _ leads]
      obtain ⟨p, chosen⟩ := Ctx.flipChosen_rest (s.image c) (s.flipEnd c) ((s.ctx c).heardDrained (place.val, switchId.toNat))
      refine ⟨by rw [chosen]; rfl, fun drained unset all => ?_⟩
      rw [Ctx.flipChosen, if_pos ⟨drained, unset, leads, all⟩]
      exact ⟨_, rfl, s.iterEnd_ge .., s.iterEnd_whole ..⟩
  · refine yields_of (exec_flip up new) fun c listed => ?_
    have takes := State.flipGroup_takes (s := s) (f := f.toNat) (low := low.toNat) listed group.toNat
    exact ⟨takes.unnamed, takes.early, takes.late⟩
  · exact congrArg Host.Outcome.next (if_neg (by rw [seen, Bool.not_true, Bool.and_false]; decide))
  · exact congrArg Host.Outcome.next (if_neg (by rw [seen, Bool.not_true, Bool.and_false]; decide))
  · refine yields_of (exec_switchAcceptTimeout_overdue up pending unset leads many missing late) ?_
    have own := (s.originate c.val 5 s.clk.pick 0 0).endSwitch_own c.val 0x0707
    have ends := (s.originate c.val 5 s.clk.pick 0 0).endSwitch_ends c.val 0x0707
    rw [State.originate_ctx] at own
    have sw := ends.sw
    rw [State.originate_ctx] at sw
    rw [State.acceptOverdue]
    generalize (s.originate c.val 5 s.clk.pick 0 0).endSwitch c.val 0x0707 = t at own sw
    exact ⟨sw, (congrArg Ctx.staged own :), (congrArg Ctx.cur own :)⟩
  · exact exec_switchAcceptTimeout_accepted all

end

section
/-! A load wakes the harness that it writes (R234), and the trim of the wake may let a re-trim of the loom begin, which sets every listed
harness anew (R58). In a table that lists a harness twice, which no update makes, its first entry then drops out where it has become the
default, and the second shows. A load is stated of every state, also of these. -/

-- one proof at a time: side by side, their stacks and heaps do not fit beside the rest of the text
set_option Elab.async false

namespace Sys2Proof.Machine

variable {s t v : State} {c : Nat} {w : WeightSet} {p : Placed}

/-! ## A load of one heddle -/

section
variable {m : Fin 16} {data : OpenData}

/-- The descriptor that WGT_LOAD_OPEN names. -/
def State.openDesc (s : State) (m : Nat) (data : OpenData) : OpenDesc :=
  parseDesc (s.hostData m (s.mailbox m) ((s.mailbox m).arg2 1) 96 data.descriptor)
/-- The data of an open load of the set `w`. -/
def State.openSource (s : State) (m : Nat) (w : WeightSet) (data : OpenData) : Bytes × Bytes × Bytes :=
  s.openData m (s.mailbox m) w.recipe (s.openDesc m data) data
/-- The host data of an open load pass the transfer buffer. -/
def State.openPast (s : State) (m : Nat) (w : WeightSet) (data : OpenData) : Bool :=
  let b := s.mailbox m
  let d := s.openDesc m data
  let x := s.openSource m w data
  pastXfer m b d.srcAddr x.1.length || pastXfer m b d.scaleAddr x.2.1.length || pastXfer m b d.tileMap x.2.2.length
/-- The tiers of the tile map that lie outside their window. -/
def State.openCold (s : State) (m : Nat) (w : WeightSet) (data : OpenData) : List Nat :=
  (mapTiers (s.openSource m w data).2.2).filter fun t => !s.tierInWindow t
/-- WGT_LOAD_OPEN is refused whatever its set. -/
def State.openBad (s : State) (m : Nat) (data : OpenData) : Bool :=
  (s.ctx ((s.mailbox m).arg 0)).ctl.sealed || pastXfer m (s.mailbox m) ((s.mailbox m).arg2 1) 96 || (s.openDesc m data).bad

theorem exec_wgtLoadOpen_runs (waits : s.awaits m.val 0x1004) (low : (s.mailbox m.val).arg 0 ≤ 255)
    (free : (s.ctx ((s.mailbox m.val).arg 0)).held = none) (good : s.openBad m.val data = false)
    (target : s.loadTarget ((s.mailbox m.val).arg 0) (s.openDesc m.val data).target = some w)
    (fits : s.openPast m.val w data = false) (warm : s.openCold m.val w data = [])
    (placed : s.placeOpen ((s.mailbox m.val).arg 0) ((s.openDesc m.val data).target == 1) w (s.openDesc m.val data)
      (s.openSource m.val w data) = .ok p) :
    exec (.wgtLoadOpen m data) s = .next (s.runLoad m.val ((s.mailbox m.val).arg 0) ((s.openDesc m.val data).target == 1) w p
      [p.writes.length]) := by
  have held : ((s.ctx ((s.mailbox m.val).arg 0)).held.isSome &&
      (s.ctx ((s.mailbox m.val).arg 0)).held.map (·.mbx) == some m.val) = false := by rw [free]; rfl
  refine (exec_awaited rfl waits).trans (congrArg _ ((if_neg (Nat.not_lt.mpr low)).trans
    ((if_neg (Bool.eq_false_iff.mp held)).trans ((if_neg (Bool.eq_false_iff.mp good)).trans ?_))))
  simp only [State.openDesc] at target
  simp only [target]
  refine (if_neg (Bool.eq_false_iff.mp fits)).trans ((if_neg ?_).trans ?_)
  · change ¬ (!(sortBy _ (s.openCold m.val w data)).isEmpty) = true
    rw [warm]
    decide
  · simp only [State.openDesc, State.openSource] at placed
    simp only [placed]
    rfl
/-- What O43 says of the harnesses that an open load into the current set writes. -/
theorem openLoad_wakes (holds : Obligations.LoadsAreAllOrNothing) (waits : s.awaits m.val 0x1004) (arg : (s.mailbox m.val).arg 0 = c)
    (low : c ≤ 255) (free : (s.ctx c).held = none) (good : s.openBad m.val data = false)
    (current : ((s.openDesc m.val data).target == 1) = false) (target : s.loadTarget c (s.openDesc m.val data).target = some w)
    (fits : s.openPast m.val w data = false) (warm : s.openCold m.val w data = [])
    (placed : s.placeOpen c false w (s.openDesc m.val data) (s.openSource m.val w data) = .ok p)
    (spares : s.sparesShort w p.set = false) : ∀ x ∈ p.writes, s.tierInWindow x.1 = true →
      ((s.runLoad m.val c false w p [p.writes.length]).harness (harnessOfHeddle x.2.1.heddle)).state = 1 := by
  subst arg
  rw [← current] at placed ⊢
  have runs := exec_wgtLoadOpen_runs waits low free good target fits warm placed
  obtain ⟨-, opens⟩ := holds
  obtain ⟨-, -, loads⟩ := opens s m data waits
  have fine : ¬ ((s.ctx ((s.mailbox m.val).arg 0)).ctl.sealed = true ∨
      pastXfer m.val (s.mailbox m.val) ((s.mailbox m.val).arg2 1) 96 = true ∨ (s.openDesc m.val data).bad = true) := by
    simpa only [State.openBad, Bool.or_eq_false_iff, Bool.not_eq_true, not_or, and_assoc] using good
  obtain ⟨-, -, kept⟩ := loads w low fine target
  have inside : ¬ (pastXfer m.val (s.mailbox m.val) (s.openDesc m.val data).srcAddr (s.openSource m.val w data).1.length = true ∨
      pastXfer m.val (s.mailbox m.val) (s.openDesc m.val data).scaleAddr (s.openSource m.val w data).2.1.length = true ∨
      pastXfer m.val (s.mailbox m.val) (s.openDesc m.val data).tileMap (s.openSource m.val w data).2.2.length = true) := by
    simpa only [State.openPast, Bool.or_eq_false_iff, Bool.not_eq_true, not_or, and_assoc] using fits
  obtain ⟨-, taken⟩ := (kept inside warm).2 p placed
  obtain ⟨-, written, -⟩ := yields_exec (taken spares) runs
  exact fun x listed inside => (written x listed inside).2
end

theorem State.tierInWindow_congr (thm : t.thm = s.thm) (k : Nat) : t.tierInWindow k = s.tierInWindow k := by
  have key (u : State) : u.tierInWindow k = ({ State.reset with thm := u.thm } : State).tierInWindow k := rfl
  rw [key t, key s, thm]

/-- The set of the load is the current one, and its heddles and auxiliary blocks are claimed and written. -/
def State.installLoad (s : State) (c : Nat) (before : WeightSet) (p : Placed) : State :=
  State.each p.aux (fun s a => s.unitWrite a.1 a.2) ((s.modCtx c fun x => { x with cur := p.set }).claimSet c 1
    { p.set with harnesses := p.set.harnesses.filter fun h => !before.harnesses.contains h })
theorem State.installLoad_keeps (s : State) (c : Nat) (before : WeightSet) (p : Placed) :
    Keeps [.mem, .heddles, .ctxs] s (s.installLoad c before p) :=
  State.each_keeps (State.claimSet_keeps (State.modCtx_keeps (.refl s) (by decide) ..) (by decide) ..) fun _ _ h =>
    State.unitWrite_keeps h (by decide) ..
/-- A load into the current set of which every write can be made at once. -/
theorem State.runLoad_all {m : Nat} {before : WeightSet} {res : List Nat} (spares : s.sparesShort before p.set = false)
    (warm : ∀ w ∈ p.writes, s.tierInWindow w.1 = true) :
    s.runLoad m c false before p res = ((s.installLoad c before p).writeAll p.writes).loadDone m c 0 none res := by
  have thm := (s.installLoad_keeps c before p).same .thm (by decide)
  have now : p.writes.filter (fun w => (s.installLoad c before p).tierInWindow w.1) = p.writes :=
    List.filter_eq_self.mpr fun w listed => by rw [State.tierInWindow_congr thm, warm w listed]
  have rest : p.writes.filter (fun w => !(s.installLoad c before p).tierInWindow w.1) = [] :=
    List.filter_eq_nil_iff.mpr fun w listed => by rw [State.tierInWindow_congr thm, warm w listed]; decide
  refine (if_neg (Bool.eq_false_iff.mp spares)).trans ?_
  change (if (p.writes.filter fun w => !(s.installLoad c before p).tierInWindow w.1).isEmpty then
    ((s.installLoad c before p).writeAll (p.writes.filter fun w => (s.installLoad c before p).tierInWindow w.1)).loadDone m c 0 none res
    else _) = _
  rw [now, rest]
  rfl
theorem State.writeHeddle_harness (s : State) (w : Nat × ImageAt × Bytes) (h : Nat) :
    (s.writeHeddle w).harness h = (s.wakeHarness (harnessOfHeddle w.2.1.heddle)).harness h := by
  have keeps : Keeps [.mem, .heddles] (s.wakeHarness (harnessOfHeddle w.2.1.heddle)) (s.writeHeddle w) :=
    State.programHeddle_keeps (State.unitWrite_keeps (.refl _) (by decide) ..) (by decide) _
  have same : (s.writeHeddle w).arr.harnesses = _ := keeps.same .harnesses (by decide)
  rw [State.harness, same, State.harness]

/-! ## A harness that is listed twice -/

section
variable {x : Harness}

/-- The sensors of tier 0 read 25 degrees. -/
def warmTier : Thermal := { State.reset.thm with sensors := (tierSensors 0).map fun n => (n, { reading := 100 }) }
/-- What the trims of loom 0 turn on is as in `listedTwice x`, with tier 0 inside its window. -/
structure State.ListsTwice (x : Harness) (v : State) : Prop where
  harnesses : v.arr.harnesses = (listedTwice x).arr.harnesses
  looms : v.arr.looms = (listedTwice x).arr.looms
  thm : v.thm = warmTier
  clk : v.clk = State.reset.clk
/-- A re-trim of the loom is over. -/
def Loom.retrimmed (y : Loom) : Loom := { y with retrimBusy := false }

theorem State.ListsTwice.harness (h : v.ListsTwice x) (k : Nat) : v.harness k = (listedTwice x).harness k := by
  rw [State.harness, h.harnesses, State.harness]
theorem State.ListsTwice.keeps {B : List Block} {u : State} (h : v.ListsTwice x) (k : Keeps B v u) (harnesses : Block.harnesses ∉ B)
    (looms : Block.looms ∉ B) (thm : Block.thm ∉ B) (clk : Block.clk ∉ B) : u.ListsTwice x :=
  ⟨(k.same .harnesses harnesses).trans h.harnesses, (k.same .looms looms).trans h.looms, (k.same .thm thm).trans h.thm,
    (k.same .clk clk).trans h.clk⟩
theorem State.ListsTwice.modHarness (h : v.ListsTwice x) {f : Harness → Harness} (some_ : f x ≠ {}) :
    (v.modHarness 0 f).ListsTwice (f x) := by
  refine ⟨?_, h.looms, h.thm, h.clk⟩
  rw [← listedTwice_modHarness some_]
  exact congrArg (Tab.upd {} · 0 f) h.harnesses
theorem State.retrimStart_harness {u : State} (same : v.arr.harnesses = u.arr.harnesses) (l h : Nat) :
    (v.retrimStart l).harness h = (u.retrimStart l).harness h := by
  simp only [State.retrimStart, State.harness, State.modLoom, same]
/-- The reference of loom 0 lies far above its sensors. -/
theorem State.ListsTwice.drifted (h : v.ListsTwice x) : (v.modLoom 0 Loom.retrimmed).drifted 0 = true := by
  have key : (v.modLoom 0 Loom.retrimmed).drifted 0 =
    (State.modLoom { State.reset with thm := v.thm, arr := { State.reset.arr with looms := v.arr.looms } } 0 Loom.retrimmed).drifted
      0 := rfl
  have looms : v.arr.looms = [(0, { tRef := 1000, retrimBusy := true })] := h.looms
  rw [key, h.thm, looms]
  decide +kernel
/-- The re-trim of loom 0 that was in progress is complete once harness 0 has applied its trim; another begins, and the second entry of
harness 0 shows. -/
theorem State.ListsTwice.retrimCheck (h : v.ListsTwice { retrimWindows := 4 }) : ((v.retrimCheck 0).harness 0).state = 0 := by
  have busy : (v.loom 0).retrimBusy = true := by rw [State.loom, h.looms]; rfl
  have done : v.retrimDone 0 = true := by
    rw [← listedTwice_retrimDone (x := { retrimWindows := 4 }) le_rfl]
    simp only [State.retrimDone, h.harness]
  have again : v.retrimCheck 0 = (v.modLoom 0 Loom.retrimmed).retrimStart 0 := State.retrimCheck_again busy done h.drifted
  have other : (listedTwice { retrimWindows := 4 }).retrimCheck 0 =
      ((listedTwice { retrimWindows := 4 }).modLoom 0 Loom.retrimmed).retrimStart 0 :=
    State.retrimCheck_again (by decide +kernel) (listedTwice_retrimDone le_rfl) (by decide +kernel)
  rw [again, State.retrimStart_harness (v := v.modLoom 0 _) (u := (listedTwice { retrimWindows := 4 }).modLoom 0 Loom.retrimmed)
    h.harnesses, ← other, listedTwice_retrimCheck]
  rfl
/-- A harness as its wake makes it Active. -/
def Harness.woken (x : Harness) : Harness := { x with req := 1, state := 1, goal := none, held := false, reprogram := false }
/-- A harness as it applies a full trim in pick `p`. -/
def Harness.trimApplied (p : Nat) (x : Harness) : Harness :=
  let again := x.trimBit && notedNow x.setAt 9 p
  { x with
    trimBit := again, trimBusy := again && x.state == 1, trimWindows := 0, trimOld := false
    retrimWindows := if x.trimOld then x.retrimWindows else 4, calBase := 0
    calAt := if x.state = 1 then some p else none }
theorem State.trimmed_eq (s : State) (h : Nat) :
    s.trimmed h = (s.modHarness h (Harness.trimApplied s.clk.elapsed)).retrimCheck (loomOfHarness h) := rfl
theorem State.wakeHarness_retained {h : Nat} (retained : (s.harness h).state = 2) (whole : (s.harness h).reprogram = false) :
    s.wakeHarness h = (s.modHarness h Harness.woken).trimmed h := by
  rw [State.wakeHarness, retained, whole]
  rfl
/-- A harness in Retention that a load wakes reads Off at the end of its trim. -/
theorem State.ListsTwice.wakes (h : v.ListsTwice { state := 2, calBase := 1 }) : ((v.wakeHarness 0).harness 0).state = 0 := by
  have asleep : v.harness 0 = { state := 2, calBase := 1 } := h.harness 0
  have awake : (v.modHarness 0 Harness.woken).ListsTwice { calBase := 1 } := h.modHarness (f := Harness.woken) (by decide)
  have elapsed : (v.modHarness 0 Harness.woken).clk.elapsed = 0 := by rw [awake.clk]; rfl
  have trimmed : ((v.modHarness 0 Harness.woken).modHarness 0 (Harness.trimApplied 0)).ListsTwice { retrimWindows := 4 } :=
    awake.modHarness (f := Harness.trimApplied 0) (by decide)
  rw [State.wakeHarness_retained (by rw [asleep]) (by rw [asleep]), State.trimmed_eq, elapsed]
  exact trimmed.retrimCheck
end

/-! ## The load -/

/-- A recipe of one layer of 64 channels and one 8-bit tensor of 64 rows and one column. -/
def oneTensor : Bytes :=
  toLe 2 1 ++ toLe 2 1 ++ toLe 2 1 ++ toLe 58 0 ++
    (toLe 1 8 ++ toLe 7 0 ++ toLe 4 0x3F800000 ++ toLe 4 64 ++ toLe 8 0 ++ toLe 2 0 ++ toLe 2 1 ++ toLe 4 0) ++
    (toLe 1 8 ++ toLe 1 8 ++ toLe 2 0 ++ toLe 4 0x3F800000 ++ toLe 4 64 ++ toLe 4 1)
/-- The digest of 64 zero bytes. -/
def zeroDigest : Bytes :=
  [245, 165, 253, 66, 209, 106, 32, 48, 39, 152, 239, 110, 211, 9, 151, 155, 67, 0, 61, 35, 32, 217, 240, 232, 234, 152, 49, 169, 39,
    89, 251, 75]
/-- The tensor, all zero, for heddle 0 of harness 0. -/
def zeroTensor : OpenData :=
  { descriptor := toLe 2 0 ++ toLe 1 9 ++ toLe 1 0 ++ toLe 4 0x3F800000 ++ toLe 8 0 ++ toLe 8 0 ++ toLe 8 1 ++
      zeroDigest ++ toLe 32 0
    elements := List.replicate 64 0, scales := [], tileMap := List.replicate 4 0 }
/-- An open set that holds nothing yet. -/
def emptySet : WeightSet := { recipe := oneTensor }
/-- Mailbox 0 holds WGT_LOAD_OPEN into context 1; harness 0 is listed as in Retention, and then again. -/
def loadTwice : State :=
  { listedTwice { state := 2, calBase := 1 } with
    sec := { State.reset.sec with stage := 4 }
    mbx := [(0, { slot := 64, held := true, opcode := 0x1004, busy := true, args := [(0, 1)] })]
    thm := warmTier
    ctxs := [(1, { ctl := { opened := true }, cur := emptySet })]
    arr := { (listedTwice { state := 2, calBase := 1 }).arr with spareCfg := 0 } }

/-- The one heddle is placed, and its tier keeps its spares. -/
def placedOne : Except Nat Placed → Bool
  | .ok p => p.writes.map (fun w => (w.1, w.2.1.heddle)) == [(0, 0)] && !loadTwice.sparesShort emptySet p.set
  | .error _ => false
theorem placedOne_ok {r : Except Nat Placed} (one : placedOne r = true) : ∃ p i bytes, r = .ok p ∧ p.writes = [(0, i, bytes)] ∧
    i.heddle = 0 ∧ loadTwice.sparesShort emptySet p.set = false := by
  cases r with
  | error e => exact absurd one Bool.false_ne_true
  | ok p =>
    obtain ⟨writes, spares⟩ := Bool.and_eq_true_iff.mp one
    obtain ⟨⟨tier, i, bytes⟩, own, heddle⟩ := List.map_eq_singleton_iff.mp (beq_iff_eq.mp writes)
    obtain ⟨rfl, first⟩ := Prod.mk.inj heddle
    exact ⟨p, i, bytes, rfl, own, first, by simpa using spares⟩
theorem loadTwice_places : placedOne (loadTwice.placeOpen 1 false emptySet (loadTwice.openDesc 0 zeroTensor)
    (loadTwice.openSource 0 emptySet zeroTensor)) = true := by decide +kernel

theorem loadTwice_lists : loadTwice.ListsTwice { state := 2, calBase := 1 } := ⟨rfl, rfl, rfl, rfl⟩
theorem loadTwice_warm : loadTwice.tierInWindow 0 = true := by decide +kernel
/-- The load leaves harness 0 Off. -/
theorem loadTwice_harness {p : Placed} {i : ImageAt} {bytes : Bytes} {res : List Nat}
    (spares : loadTwice.sparesShort emptySet p.set = false)
    (writes : p.writes = [(0, i, bytes)]) (first : i.heddle = 0) :
    ((loadTwice.runLoad 0 1 false emptySet p res).harness 0).state = 0 := by
  have warm : ∀ w ∈ p.writes, loadTwice.tierInWindow w.1 = true := by
    rw [writes]
    exact List.forall_mem_singleton.mpr loadTwice_warm
  have installed : (loadTwice.installLoad 1 emptySet p).ListsTwice { state := 2, calBase := 1 } :=
    loadTwice_lists.keeps (loadTwice.installLoad_keeps ..) (by decide) (by decide) (by decide) (by decide)
  rw [State.runLoad_all spares warm, writes]
  generalize loadTwice.installLoad 1 emptySet p = v at installed
  have one : (v.writeAll [(0, i, bytes)]).harness 0 = (v.wakeHarness 0).harness 0 := by
    have written := v.writeHeddle_harness (0, i, bytes) 0
    rwa [first] at written
  have done : Keeps [.mbx, .ctxs, .out] (v.writeAll [(0, i, bytes)]) ((v.writeAll [(0, i, bytes)]).loadDone 0 1 0 none res) :=
    State.loadDone_keeps (.refl _) (by decide) ..
  have same : ((v.writeAll [(0, i, bytes)]).loadDone 0 1 0 none res).arr.harnesses = _ := done.same .harnesses (by decide)
  rw [State.harness, same, ← State.harness, one]
  exact installed.wakes

end Sys2Proof.Machine

open Sys2Proof Sys2Proof.Machine

/-- Refutes O43: a load writes a heddle of a harness in Retention, in a state that lists the harness twice; its trim lets a re-trim of
the loom begin, which drops the harness's first entry, and the harness reads Off by the second. -/
theorem not_loadsAreAllOrNothing : ¬ Obligations.LoadsAreAllOrNothing := by
  intro holds
  obtain ⟨p, i, bytes, placed, writes, first, spares⟩ := placedOne_ok loadTwice_places
  have active := openLoad_wakes (m := 0) holds (by decide +kernel) (by decide +kernel) (by decide) (by decide +kernel)
    (by decide +kernel) (by decide +kernel) (by decide +kernel) (by decide +kernel) (by decide +kernel) placed spares
    (0, i, bytes) (by rw [writes]; exact .head _) loadTwice_warm
  rw [first] at active
  exact absurd ((loadTwice_harness spares writes first).symm.trans active) (by decide)

end

section
/-! What only the health commands and test windows write (R275-R284): the events in flash with the next SEQ, the pack, the cursors
and their counts. Everything else queues events (R276) and takes captures (R285), and leaves these as they are. -/

-- one proof at a time: side by side, their stacks and heaps do not fit beside the rest of the text
set_option Elab.async false

namespace Sys2Proof.Machine

variable {s t : State} {B : List Block}

/-- What a step or the loss of a unit leaves of the health history, though it queues events and takes captures. -/
def Health.ledger (h : Health) :
    List HealthEvent × Nat × List PackItem × List (Nat × Nat × Nat × Bool) × Nat × Nat :=
  (h.events, h.nextSeq, h.pack, h.cursors, h.packRun, h.packFailed)
def State.ledger (s : State) := s.health.ledger

theorem Health.ledger_inj {h h' : Health} (same : h'.ledger = h.ledger) :
    h'.events = h.events ∧ h'.nextSeq = h.nextSeq ∧ h'.pack = h.pack ∧ h'.cursors = h.cursors ∧ h'.packRun = h.packRun ∧
      h'.packFailed = h.packFailed := by
  simpa only [Health.ledger, Prod.mk.injEq] using same

theorem State.ledger_of_health (h : t.health = s.health) : t.ledger = s.ledger := congrArg Health.ledger h
theorem Keeps.ledger (h : Keeps B s t) (history : Block.history ∉ B) (packs : Block.packs ∉ B) : t.ledger = s.ledger := by
  have events := h.same .history history
  have cursors := h.same .packs packs
  simp only [Block.same, Prod.mk.injEq] at events cursors
  simp only [State.ledger, Health.ledger, events, cursors]
theorem State.each_ledger {α : Type} {l : List α} {f : State → α → State} (h : ∀ t a, (f t a).ledger = t.ledger)
    (s : State) : (State.each l f s).ledger = s.ledger :=
  State.each_holds (P := fun t => t.ledger = s.ledger) (fun t a _ same => (h t a).trans same) rfl

/-! ## Operations that write none of it -/

theorem State.modCtx_ledger (s : State) (c : Nat) (f : Ctx → Ctx) : (s.modCtx c f).ledger = s.ledger := rfl
theorem State.modCtl_ledger (s : State) (c : Nat) (f : CtxCtl → CtxCtl) : (s.modCtl c f).ledger = s.ledger := rfl
theorem State.modHeddle_ledger (s : State) (g : Nat) (f : Heddle → Heddle) : (s.modHeddle g f).ledger = s.ledger := rfl
theorem State.modLoom_ledger (s : State) (l : Nat) (f : Loom → Loom) : (s.modLoom l f).ledger = s.ledger := rfl
theorem State.modShuttle_ledger (s : State) (x : Nat) (f : Shuttle → Shuttle) : (s.modShuttle x f).ledger = s.ledger := rfl
theorem State.modBatch_ledger (s : State) (c i : Nat) (f : BatchSlot → BatchSlot) : (s.modBatch c i f).ledger = s.ledger := rfl
theorem State.unitWrite_ledger (s : State) (a : Nat) (bs : Bytes) : (s.unitWrite a bs).ledger = s.ledger := rfl
theorem State.setMem_ledger (s : State) (m : Memory) : (s.setMem m).ledger = s.ledger := rfl
theorem State.emit_ledger (s : State) (o : Output) : (s.emit o).ledger = s.ledger := rfl
theorem State.report_ledger (s : State) (r : Report) : (s.report r).ledger = s.ledger := rfl
theorem State.sendFlits_ledger (s : State) (p vc n c : Nat) : (s.sendFlits p vc n c).ledger = s.ledger := rfl
theorem State.twin_ledger (s : State) (x : Twin) : ({ s with twin := x } : State).ledger = s.ledger := rfl
theorem State.refresh_ledger (s : State) : s.refresh.ledger = s.ledger := rfl
theorem State.perf_ledger (s : State) (ev n loom : Nat) (ctx unit : Option Nat) :
    (s.perf ev n loom ctx unit).ledger = s.ledger :=
  (State.perf_keeps (.refl s) (List.Subset.refl _) ..).ledger (by decide) (by decide)
theorem State.check_ledger (s : State) (c slot : Nat) (f : Check → Check) : (s.check c slot f).ledger = s.ledger :=
  (State.check_keeps (.refl s) (List.Subset.refl _) ..).ledger (by decide) (by decide)
theorem State.tallyCount_ledger (s : State) (a : Nat) : (s.tallyCount a).ledger = s.ledger :=
  (State.tallyCount_keeps (.refl s) (List.Subset.refl _) a).ledger (by decide) (by decide)
theorem State.programHeddle_ledger (s : State) (g : Nat) : (s.programHeddle g).ledger = s.ledger :=
  (State.programHeddle_keeps (.refl s) (List.Subset.refl _) g).ledger (by decide) (by decide)
theorem State.patternGone_ledger (s : State) (g : Nat) : (s.patternGone g).ledger = s.ledger :=
  (State.patternGone_keeps (.refl s) (List.Subset.refl _) g).ledger (by decide) (by decide)
theorem State.trimmed_ledger (s : State) (h : Nat) : (s.trimmed h).ledger = s.ledger :=
  (State.trimmed_keeps (.refl s) (List.Subset.refl _) h).ledger (by decide) (by decide)
theorem State.releaseHarness_ledger (s : State) (sealed_ : Bool) (h : Nat) : (s.releaseHarness sealed_ h).ledger = s.ledger :=
  (State.releaseHarness_keeps (.refl s) (List.Subset.refl _) ..).ledger (by decide) (by decide)
theorem State.claimFor_ledger (s : State) (c role new : Nat) : (s.claimFor c role new).ledger = s.ledger :=
  (State.claimFor_keeps (.refl s) (List.Subset.refl _) ..).ledger (by decide) (by decide)
theorem State.enableZero_ledger (s : State) (c : Nat) : (s.enableZero c).ledger = s.ledger :=
  (State.enableZero_keeps (.refl s) (List.Subset.refl _) c).ledger (by decide) (by decide)
theorem State.gstop_ledger (s : State) (c cause : Nat) (records : Bool) : (s.gstop c cause records).ledger = s.ledger :=
  (State.gstop_keeps (.refl s) (List.Subset.refl _) ..).ledger (by decide) (by decide)
theorem State.noteCopy_ledger (s : State) (c a n : Nat) : (s.noteCopy c a n).ledger = s.ledger :=
  (State.noteCopy_keeps (.refl s) (List.Subset.refl _) ..).ledger (by decide) (by decide)
theorem State.shadowSend_ledger (s : State) (p : Nat) (r : ShadowRec) : (s.shadowSend p r).ledger = s.ledger :=
  (State.shadowSend_keeps (.refl s) (List.Subset.refl _) ..).ledger (by decide) (by decide)
theorem State.suppressDue_ledger (s : State) : s.suppressDue.ledger = s.ledger :=
  (State.suppressDue_keeps (.refl s) (List.Subset.refl _)).ledger (by decide) (by decide)
theorem State.eccCorrected_ledger (s : State) (m : Nat) : (s.eccCorrected m).ledger = s.ledger :=
  (State.eccCorrected_keeps (.refl s) (List.Subset.refl _) ..).ledger (by decide) (by decide)
theorem State.eccUncorrected_ledger (s : State) (m : Nat) : (s.eccUncorrected m).ledger = s.ledger :=
  (State.eccUncorrected_keeps (.refl s) (List.Subset.refl _) ..).ledger (by decide) (by decide)
theorem State.dentFail_ledger (s : State) (g : Nat) (f : LastFail) : (s.dentFail g f).ledger = s.ledger :=
  (State.dentFail_keeps (.refl s) (List.Subset.refl _) ..).ledger (by decide) (by decide)
theorem State.perfConversions_ledger (s : State) (n loom : Nat) (ctx unit : Option Nat) :
    (s.perfConversions n loom ctx unit).ledger = s.ledger :=
  (State.perfConversions_keeps (.refl s) (List.Subset.refl _) ..).ledger (by decide) (by decide)

/-! ## Events and captures -/

theorem State.healthEvent_ledger (s : State) (kind unitKind unit c capture detail : Nat) :
    (s.healthEvent kind unitKind unit c capture detail).ledger = s.ledger := by
  unfold State.healthEvent
  dsimp only
  split <;> rfl
theorem State.capture_ledger (s : State) (kind : Nat) (units : List (Nat × Nat)) (data : Bytes) :
    (s.capture kind units data).2.ledger = s.ledger := by
  unfold State.capture
  dsimp only
  split
  · rfl
  · split <;> rfl

/-! ## Reads that check -/

theorem State.readFail_ledger (s : State) (a c : Nat) : (s.readFail a c).ledger = s.ledger := by
  unfold State.readFail
  split
  · exact s.tallyCount_ledger a
  · exact (State.healthEvent_ledger ..).trans (s.tallyCount_ledger a)
theorem State.eccEvents_ledger (s : State) (c : Nat) (units : List (Nat × Decoded)) :
    (s.eccEvents c units).ledger = s.ledger := by
  refine State.each_ledger (fun t x => ?_) s
  refine (State.each_ledger (fun u _ => ?_) _).trans (State.each_ledger (fun u _ => ?_) t)
  · exact (State.healthEvent_ledger ..).trans (State.eccUncorrected_ledger ..)
  · exact State.eccCorrected_ledger ..
theorem State.checkedRead_ledger (s : State) (c slot a n : Nat) (ups : List Upset) :
    (s.checkedRead c slot a n ups).ledger = s.ledger := by
  unfold State.checkedRead
  dsimp only
  refine (State.each_ledger (fun t k => (State.check_ledger ..).trans (State.readFail_ledger ..)) _).trans ?_
  split
  · exact (State.check_ledger ..).trans ((State.eccEvents_ledger ..).trans (State.perf_ledger ..))
  · exact (State.eccEvents_ledger ..).trans (State.perf_ledger ..)
theorem State.patternRead_ledger (s : State) (g : Nat) (ups : List Upset) : (s.patternRead g ups).2.ledger = s.ledger :=
  (State.each_ledger (fun _ _ => State.readFail_ledger ..) _).trans (State.eccEvents_ledger ..)

/-! ## What the loss of a unit leaves -/

theorem State.reprogram_ledger (s : State) (h : Nat) : (s.reprogram h).ledger = s.ledger := by
  refine State.each_ledger (fun t i => ?_) s
  have read := State.patternRead_ledger t i.heddle []
  generalize t.patternRead i.heddle [] = r at read ⊢
  dsimp only
  split
  · exact (State.programHeddle_ledger ..).trans read
  · exact (State.patternGone_ledger ..).trans read
theorem State.wakeHarness_ledger (s : State) (h : Nat) : (s.wakeHarness h).ledger = s.ledger := by
  unfold State.wakeHarness
  dsimp only
  split
  · rfl
  · refine (State.trimmed_ledger ..).trans ((State.ledger_of_health (State.modHarness_health ..)).trans ?_)
    split
    · exact s.reprogram_ledger h
    · rfl
theorem State.programFrom_ledger (s : State) (old new : Nat) (w : WeightSet) :
    (s.programFrom old new w).ledger = s.ledger := by
  refine (State.each_ledger (fun t j => ?_) _).trans (s.wakeHarness_ledger new)
  have read := State.patternRead_ledger t (old * 64 + j) []
  generalize t.patternRead (old * 64 + j) [] = r at read ⊢
  dsimp only
  split
  · exact (State.programHeddle_ledger ..).trans ((State.unitWrite_ledger ..).trans read)
  · exact (State.patternGone_ledger ..).trans read
theorem State.spareFor_ledger (s : State) (c old : Nat) : (s.spareFor c old).ledger = s.ledger := by
  unfold State.spareFor
  split
  · exact s.enableZero_ledger c
  · dsimp only
    refine (State.modCtl_ledger ..).trans ?_
    split
    · exact (State.trimmed_ledger ..).trans ((State.programFrom_ledger ..).trans (State.claimFor_ledger ..))
    · exact State.claimFor_ledger ..

/-! ### Sets that are staged -/

theorem State.copyTo_ledger (s : State) (c a : Nat) (src : List (Nat × Nat)) : (s.copyTo c a src).ledger = s.ledger := by
  unfold State.copyTo
  dsimp only
  refine (State.setMem_ledger ..).trans ((State.unitWrite_ledger ..).trans ?_)
  exact State.each_ledger (fun _ _ => State.checkedRead_ledger ..) s
theorem State.buildRowCopies_ledger (s : State) (c : Nat) (plan : Bytes) (w : WeightSet) :
    (s.buildRowCopies c plan w).ledger = s.ledger := by
  unfold State.buildRowCopies
  refine (State.each_ledger (fun t l => ?_) _).trans (State.modCtl_ledger ..)
  extract_lets
  split
  · rfl
  · refine (State.each_ledger (fun u x => ?_) _).trans (State.noteCopy_ledger ..)
    exact (State.modCtl_ledger ..).trans (u.copyTo_ledger ..)
theorem State.buildCopies_ledger (s : State) (c : Nat) (plan : Bytes) (w : WeightSet) :
    (s.buildCopies c plan w).ledger = s.ledger := by
  unfold State.buildCopies State.buildAuxCopies
  refine (State.each_ledger (fun t x => State.each_ledger (fun u a => ?_) t) _).trans (s.buildRowCopies_ledger c plan w)
  exact (State.noteCopy_ledger ..).trans (u.copyTo_ledger ..)
theorem State.endSwitch_ledger (s : State) (c reason : Nat) : (s.endSwitch c reason).ledger = s.ledger := by
  unfold State.endSwitch
  dsimp only
  split
  · exact (State.buildCopies_ledger ..).trans (State.modCtx_ledger ..)
  · rfl
theorem State.stagedProgram_ledger (s : State) (c old new : Nat) (w : WeightSet) :
    (s.stagedProgram c old new w).ledger = s.ledger :=
  (State.releaseHarness_ledger ..).trans ((State.trimmed_ledger ..).trans (State.programFrom_ledger ..))
theorem State.stagedGone_ledger (s : State) (c h : Nat) : (s.stagedGone c h).ledger = s.ledger := by
  unfold State.stagedGone
  dsimp only
  split
  · rfl
  split
  · rfl
  split
  · split
    · rfl
    refine (State.modCtx_ledger ..).trans ?_
    split
    · exact (State.stagedProgram_ledger ..).trans (State.claimFor_ledger ..)
    · exact State.claimFor_ledger ..
  · split
    · exact s.endSwitch_ledger ..
    · rfl

/-! ### Contexts that are handed over -/

theorem State.shadowBlock_ledger (s : State) (p a : Nat) : (s.shadowBlock p a).ledger = s.ledger := by
  unfold State.shadowBlock
  dsimp only
  refine (State.sendFlits_ledger ..).trans ((State.emit_ledger ..).trans ?_)
  exact State.each_ledger (fun _ _ => State.readFail_ledger ..) s
theorem State.sendShadow_ledger (s : State) (x : Nat) : (s.sendShadow x).ledger = s.ledger := by
  unfold State.sendShadow
  split
  · rfl
  · extract_lets ks blocks sent
    have read : blocks.ledger = s.ledger := State.each_ledger (fun _ _ => State.shadowBlock_ledger ..) s
    exact (State.twin_ledger sent _).trans ((State.shadowSend_ledger blocks ..).trans read)
theorem State.handOver_ledger (s : State) (c : Nat) : (s.handOver c).ledger = s.ledger := by
  unfold State.handOver
  extract_lets opened t0 waiting t1 t2 gone t3 t4 t5
  have sent : t0.ledger = s.ledger := State.each_ledger (fun t x => t.sendShadow_ledger x) s
  have asked : t1.ledger = t0.ledger := State.each_ledger (fun t q => by
    split
    · rfl
    · exact State.shadowSend_ledger ..) t0
  have kept : Keeps [.mbx, .mem, .kvt, .streams, .reqs, .ports, .out] t1 t5 := by
    refine State.each_keeps ?_ fun _ _ h => State.closeStream_keeps h (by decide) _
    refine State.prune_keeps (State.pageSettle_keeps ?_ (by decide)) (by decide)
    exact State.each_keeps (State.sendTwin_keeps (.refl _) (by decide) ..) fun _ _ h => State.dropRequest_keeps h (by decide) _
  exact (State.twin_ledger t5 _).trans ((kept.ledger (by decide) (by decide)).trans (asked.trans sent))
theorem State.handMasked_ledger (s : State) (c : Nat) : (s.handMasked c).ledger = s.ledger := by
  unfold State.handMasked
  split
  · exact s.handOver_ledger c
  · rfl
theorem State.replaceUnit_ledger (s : State) (c kind idx : Nat) : (s.replaceUnit c kind idx).ledger = s.ledger := by
  unfold State.replaceUnit
  dsimp only
  split
  · exact (State.enableZero_ledger ..).trans (s.handMasked_ledger c)
  · rfl

/-! ### The unit -/

theorem State.unitGoneFor_ledger (s : State) (c kind idx cause : Nat) : (s.unitGoneFor c kind idx cause).ledger = s.ledger := by
  have stops : ((s.handMasked c).enableZero c).ledger = s.ledger :=
    (State.enableZero_ledger ..).trans (s.handMasked_ledger c)
  unfold State.unitGoneFor
  dsimp only
  split_ifs
  · exact s.gstop_ledger ..
  · exact (State.spareFor_ledger ..).trans (s.handMasked_ledger c)
  · exact s.enableZero_ledger c
  · exact s.replaceUnit_ledger ..
  · exact stops
  · exact stops
theorem State.unitGone_ledger (s : State) (kind idx cause : Nat) : (s.unitGone kind idx cause).ledger = s.ledger :=
  (State.each_ledger (fun t _ => State.each_ledger (fun _ _ => State.stagedGone_ledger ..) t) _).trans
    (State.each_ledger (fun _ _ => State.unitGoneFor_ledger ..) s)
theorem State.permanent_ledger (s : State) (kind idx cause : Nat) : (s.permanent kind idx cause).ledger = s.ledger := by
  unfold State.permanent
  dsimp only
  split
  · rfl
  · refine Eq.trans ?_ (Keeps.ledger (B := [.time, .heddles, .harnesses, .windows, .unitMap, .ctxs, .ports])
      (State.takeDown_keeps (State.joinMap_keeps (.refl s) (by decide) kind idx) (by decide) kind idx) (by decide) (by decide))
    rw [State.refresh_ledger, State.unitGone_ledger, State.suppressDue_ledger]
    split
    · rfl
    · rfl

/-! ## What the checks of a test window leave -/

theorem State.residueFail_ledger (s : State) (c slot : Nat) (path : ResPath) (l kind uk unit : Nat) (data : Bytes) :
    (s.residueFail c slot path l kind uk unit data).ledger = s.ledger :=
  (State.perf_ledger ..).trans ((State.healthEvent_ledger ..).trans ((State.capture_ledger ..).trans
    ((State.check_ledger ..).trans ((State.report_ledger ..).trans (State.modLoom_ledger ..)))))
theorem State.shuttleFails_ledger (s : State) (c l : Nat) (st : PlanStep) (shuttle : Nat) (residue stat : Bool) (data : Bytes) :
    (s.shuttleFails c l st shuttle residue stat data).ledger = s.ledger := by
  have fails (t : State) (f : Shuttle → Shuttle) (path : ResPath) (kind : Nat) :
      ((t.modShuttle shuttle f).residueFail c st.slot path l kind 2 shuttle data).ledger = t.ledger :=
    (State.residueFail_ledger ..).trans (State.modShuttle_ledger ..)
  unfold State.shuttleFails
  extract_lets t
  have first : t.ledger = s.ledger := by
    unfold t
    split
    · exact fails ..
    · rfl
  split
  · exact (fails ..).trans first
  · exact first
theorem State.tableEcc_ledger (s : State) (c slot l unit : Nat) (data : Bytes) (ups : List Upset) :
    (s.tableEcc c slot l unit data ups).ledger = s.ledger := by
  refine State.each_ledger (fun t u => ?_) s
  split
  · dsimp only
    split
    · rfl
    · exact State.residueFail_ledger ..
  · rfl
theorem State.testChecks_ledger (s : State) (c l : Nat) (st : PlanStep) (u : Nat × Nat) (data : Bytes) (ups : List Upset) :
    (s.testChecks c l st u data ups).ledger = s.ledger := by
  unfold State.testChecks
  extract_lets bad t
  split
  · exact State.shuttleFails_ledger ..
  split
  · split
    · exact (State.residueFail_ledger ..).trans (State.tableEcc_ledger ..)
    · exact State.tableEcc_ledger ..
  split
  · exact State.residueFail_ledger ..
  · rfl

theorem State.uncorrectedDent_ledger (s : State) (c slot g : Nat) (f : LastFail) (data : Bytes) :
    (s.uncorrectedDent c slot g f data).ledger = s.ledger := by
  unfold State.uncorrectedDent
  extract_lets detail d slots again first masked t noted waits waiting reported target
  have marked : noted.ledger = s.ledger := by
    unfold noted
    split
    · exact State.check_ledger ..
    · refine (State.healthEvent_ledger ..).trans ((State.report_ledger ..).trans ?_)
      exact (State.capture_ledger ..).trans (State.check_ledger ..)
  split
  · exact marked
  have batches : waiting.ledger = s.ledger := (State.each_ledger (fun t i => State.modBatch_ledger ..) _).trans marked
  have reports : reported.ledger = s.ledger := by
    unfold reported
    split
    · exact batches
    · exact batches
  exact (State.ledger_of_health (s := reported) rfl).trans reports
theorem State.dentEvents_ledger (s : State) (c slot l g aw : Nat) (ws : List (DentWork × Option ActBlock)) :
    (s.dentEvents c slot l g aw ws).ledger = s.ledger := by
  unfold State.dentEvents
  extract_lets n corr e counted t checked bad all listed failed
  have counts : t.ledger = s.ledger := (State.perf_ledger ..).trans (State.perfConversions_ledger ..)
  have checks : checked.ledger = s.ledger := by
    unfold checked
    split
    · exact counts
    · exact (State.check_ledger ..).trans counts
  have recorded : failed.ledger = s.ledger :=
    (State.perf_ledger ..).trans ((State.each_ledger (fun _ _ => State.dentFail_ledger ..) _).trans checks)
  refine (State.each_ledger (fun t d => ?_) _).trans recorded
  split
  · exact State.uncorrectedDent_ledger ..
  · rfl

theorem foldl_ledger {α β : Type} {l : List α} {f : State × β → α → State × β}
    (h : ∀ p a, (f p a).1.ledger = p.1.ledger) (p : State × β) : (l.foldl f p).1.ledger = p.1.ledger := by
  induction l generalizing p with
  | nil => rfl
  | cons a l ih => exact (ih (f p a)).trans (h p a)
theorem State.testHeddle_ledger (s : State) (c l bank : Nat) (input : Bytes) (i : Fin 64) (g : Nat) (ups : List Upset) :
    (s.testHeddle c l bank input i g ups).1.ledger = s.ledger := by
  unfold State.testHeddle
  extract_lets h ws accs bad r
  have read : r.2.ledger = s.ledger :=
    (State.patternRead_ledger ..).trans ((State.modHeddle_ledger ..).trans (State.dentEvents_ledger ..))
  dsimp only
  split
  · exact read
  · exact (State.patternGone_ledger ..).trans read
theorem State.testHarness_ledger (s : State) (c l bank harness : Nat) (record input : Bytes) (ups : List Upset) :
    (s.testHarness c l bank harness record input ups).1.ledger = s.ledger := by
  unfold State.testHarness
  extract_lets held r
  have each : r.1.ledger = s.ledger := by
    unfold r
    refine foldl_ledger (fun p i => ?_) (s, false, false)
    exact State.testHeddle_ledger ..
  dsimp only
  split
  · exact (State.residueFail_ledger ..).trans each
  · exact each
end Sys2Proof.Machine

end

section
/-! The health history and the disabled-unit map (R275-R281): what the writing of an event leaves, and what the return of a unit
clears. -/

-- one proof at a time: side by side, their stacks and heaps do not fit beside the rest of the text
set_option Elab.async false

namespace Sys2Proof.Machine

variable {s t : State}

/-! ## Events (R275-R277) -/

section
variable {h : Health} {e : HealthEvent} {rest : List HealthEvent} (queue : h.queue = e :: rest)
include queue

theorem Health.writeEvent_queue : h.writeEvent.queue = rest := by simp [Health.writeEvent, queue]
theorem Health.writeEvent_nextSeq : h.writeEvent.nextSeq = h.nextSeq + 1 := by simp [Health.writeEvent, queue]
theorem Health.writeEvent_flashSeconds : h.writeEvent.flashSeconds = h.seconds := by simp [Health.writeEvent, queue]
theorem Health.writeEvent_events : h.writeEvent.events =
    (h.events ++ [{ e with seq := h.nextSeq }]).drop (h.events.length + 1 - eventCap) := by simp [Health.writeEvent, queue]
/-- The newest event is in flash, which the full region makes room for. -/
theorem Health.writeEvent_mem : { e with seq := h.nextSeq } ∈ h.writeEvent.events := by
  have cap : h.events.length + 1 - eventCap ≤ h.events.length := by simp only [eventCap]; omega
  rw [Health.writeEvent_events queue, List.drop_append_of_le_length cap]
  exact List.mem_append_right _ (List.mem_singleton.mpr rfl)
theorem Health.writeEvent_length : h.writeEvent.events.length ≤ eventCap := by
  rw [Health.writeEvent_events queue, List.length_drop, List.length_append, List.length_singleton]
  omega

end

/-- Writing an event leaves the map, and the powered time. -/
theorem Health.writeEvent_map (h : Health) : h.writeEvent.dumap = h.dumap ∧ h.writeEvent.gen = h.gen ∧
    h.writeEvent.seconds = h.seconds := by
  unfold Health.writeEvent
  split
  · exact ⟨rfl, rfl, rfl⟩
  · exact ⟨rfl, rfl, rfl⟩

/-- An event makes its unit permanent (R277): at once, or as one of three within 30 days. -/
def HealthEvent.condemns (h : Health) (e : HealthEvent) : Bool :=
  permanentKind e.kind || (countingKind e.kind && threeInSpan (h.counted e.unitKind e.unit))

theorem State.eventWritten_condemns {e : HealthEvent} {rest : List HealthEvent} (queue : s.health.queue = e :: rest)
    (now : e.condemns s.health.writeEvent = true) :
    s.eventWritten = State.permanent { s with health := s.health.writeEvent } e.unitKind e.unit 0 := by
  simp only [State.eventWritten, queue]
  exact if_pos now
theorem State.eventWritten_only {e : HealthEvent} {rest : List HealthEvent} (queue : s.health.queue = e :: rest)
    (never : e.condemns s.health.writeEvent = false) : s.eventWritten = { s with health := s.health.writeEvent } := by
  simp only [State.eventWritten, queue]
  exact if_neg (Bool.eq_false_iff.mp never)

theorem HealthEvent.condemns_of_kind {e : HealthEvent} {h : Health}
    (kind : e.kind = 0xB ∨ e.kind = 0xC ∨
      (e.kind ∈ [1, 3, 4, 5, 6, 7, 8, 0xA] ∧ threeInSpan (h.counted e.unitKind e.unit) = true)) :
    e.condemns h = true := by
  rcases kind with kind | kind | ⟨counts, three⟩
  · simp [HealthEvent.condemns, permanentKind, kind]
  · simp [HealthEvent.condemns, permanentKind, kind]
  · have counts : countingKind e.kind = true := by simpa [countingKind] using counts
    simp [HealthEvent.condemns, counts, three]
theorem HealthEvent.not_condemns_of_kind {e : HealthEvent} (h : Health)
    (kind : e.kind = 0 ∨ e.kind = 2 ∨ e.kind = 9 ∨ 0xD ≤ e.kind) : e.condemns h = false := by
  have never : permanentKind e.kind = false := by simp [permanentKind]; omega
  have uncounted : countingKind e.kind = false := by simp [countingKind]; omega
  simp [HealthEvent.condemns, never, uncounted]

/-! ## Joining the map (R277) -/

theorem mem_insPair (p : Nat × Nat) (l : List (Nat × Nat)) : p ∈ insPair p l := by
  induction l with
  | nil => exact List.mem_singleton.mpr rfl
  | cons q l ih =>
    unfold insPair
    split_ifs with same below
    · exact same ▸ List.mem_cons_self
    · exact List.mem_cons_self
    · exact List.mem_cons_of_mem _ ih

theorem State.disabled_iff {k i : Nat} : s.disabled k i = true ↔ (k, i) ∈ s.health.dumap := List.contains_iff_mem
theorem Keeps.disabled_eq {B : List Block} (h : Keeps B s t) (unitMap : Block.unitMap ∉ B) (k i : Nat) :
    t.disabled k i = s.disabled k i := by
  have same := h.same .unitMap unitMap
  simp only [Block.same, Prod.mk.injEq] at same
  simp only [State.disabled, same]

theorem State.joinMap_disabled (s : State) (k i : Nat) : (s.joinMap k i).disabled k i = true := by
  unfold State.joinMap
  split
  · assumption
  · dsimp only
    rw [(State.each_keeps (B := [.ctxs]) (.refl _) fun t a h => State.modRecs_keeps h (by decide) ..).disabled_eq (by decide)]
    exact State.disabled_iff.mpr (mem_insPair ..)
/-- What a unit's retirement does to the plans that used it leaves the unit on the map. -/
theorem State.permanent_disabled (s : State) (k i cause : Nat) : (s.permanent k i cause).disabled k i = true := by
  unfold State.permanent
  split
  · assumption
  · extract_lets down gone
    have kept : Keeps (allBut [.unitMap]) (s.joinMap k i) gone :=
      Keeps.ite (State.takeDown_keeps (.refl _) (by decide) k i)
        (State.modDomain_keeps (State.takeDown_keeps (.refl _) (by decide) k i) (by decide) ..)
    rw [(State.refresh_keeps (State.unitGone_keeps (State.suppressDue_keeps kept (by decide)) (by decide) k i cause)
      (by decide)).disabled_eq (by decide)]
    exact s.joinMap_disabled k i

/-! ## Leaving the map (R281) -/

theorem State.each_health {α : Type} {l : List α} {f : State → α → State} (turn : ∀ t a, (f t a).health = t.health)
    (s : State) : (State.each l f s).health = s.health :=
  State.each_holds (P := fun t => t.health = s.health) (fun t a _ h => (turn t a).trans h) rfl

theorem State.leaveMap_health (s : State) (k i : Nat) : (s.leaveMap k i).health =
    if s.disabled k i then s.health.withMap (s.health.dumap.filter fun e => e != (k, i)) else s.health := by
  unfold State.leaveMap
  cases s.disabled k i with
  | false => rfl
  | true =>
    extract_lets t served back
    have health : served.health = t.health := by
      unfold served
      split
      · rfl
      · rfl
    have same (u : State) (p : Nat) : (back u p).health = u.health := by
      unfold back
      split
      · rfl
      · rfl
    simp only [Bool.not_true, Bool.false_eq_true, if_false, if_true]
    split
    · exact (same ..).trans health
    · split
      · exact (State.each_health same _).trans health
      · exact health
theorem State.leaveMap_dumap (s : State) (k i : Nat) :
    (s.leaveMap k i).health.dumap = s.health.dumap.filter fun e => e != (k, i) := by
  rw [State.leaveMap_health]
  split
  · rfl
  · next off =>
    refine (List.filter_eq_self.mpr fun e listed => bne_iff_ne.mpr ?_).symm
    rintro rfl
    exact off (State.disabled_iff.mpr listed)
theorem State.leaveMap_gen (s : State) (k i : Nat) :
    (s.leaveMap k i).health.gen = if s.disabled k i then (s.health.gen + 1) % 65536 else s.health.gen := by
  rw [State.leaveMap_health]
  split
  · rfl
  · rfl
/-- Neither the events nor the powered time depend on the map. -/
theorem State.leaveMap_history (s : State) (k i : Nat) : (s.leaveMap k i).health.queue = s.health.queue ∧
    (s.leaveMap k i).health.events = s.health.events ∧ (s.leaveMap k i).health.seconds = s.health.seconds := by
  rw [State.leaveMap_health]
  split
  · exact ⟨rfl, rfl, rfl⟩
  · exact ⟨rfl, rfl, rfl⟩
theorem State.leaveMap_disabled (s : State) (k i : Nat) : (s.leaveMap k i).disabled k i = false := by
  rw [Bool.eq_false_iff, ne_eq, State.disabled_iff, State.leaveMap_dumap]
  simp

/-! ## HEALTH_UNIT_RESTORE (R281) -/

/-- The event that is queued where none like it stands (R275, R276). -/
def State.newEvent (s : State) (kind unitKind unit c capture detail : Nat) : HealthEvent :=
  ⟨0, s.health.seconds, kind, unitKind, c, capture, unit, detail, s.clk.pick % 2 ^ 32⟩
/-- An event is queued, unless one of its kind stands against the unit in this second. -/
theorem State.healthEvent_cases (s : State) (kind unitKind unit c capture detail : Nat) :
    s.noted kind unitKind unit ∧ s.healthEvent kind unitKind unit c capture detail = s ∨
      s.healthEvent kind unitKind unit c capture detail = { s with health := { s.health with
        queue := s.health.queue ++ [s.newEvent kind unitKind unit c capture detail] } } := by
  unfold State.healthEvent
  extract_lets h same
  split
  · next known =>
    obtain ⟨e, listed, is⟩ : ∃ e ∈ h.queue ++ h.events, same e = true := by simpa [or_and_right, exists_or] using known
    simp only [same, Bool.and_eq_true, beq_iff_eq] at is
    obtain ⟨⟨⟨isKind, isUnitKind⟩, isUnit⟩, isNow⟩ := is
    exact .inl ⟨⟨e, listed, isKind, isUnitKind, isUnit, isNow⟩, rfl⟩
  · exact .inr rfl
theorem State.healthEvent_noted (s : State) (kind unitKind unit c capture detail : Nat) :
    (s.healthEvent kind unitKind unit c capture detail).noted kind unitKind unit := by
  rcases s.healthEvent_cases kind unitKind unit c capture detail with ⟨noted, same⟩ | queued
  · exact same.symm ▸ noted
  · rw [queued]
    exact ⟨_, List.mem_append_left _ (List.mem_append_right _ (List.mem_singleton.mpr rfl)), rfl, rfl, rfl, rfl⟩

/-- The event of a restoring joins the queue, and every queued event is written (R281). -/
def State.restoreWritten (s : State) (k i : Nat) : State :=
  let s := s.healthEvent 0xD k i 0xFF 0xFF 0
  State.each s.health.queue (fun s _ => s.eventWritten) s

/-- With nothing else queued, the restoring is in flash: it is the newest event, or one of this second, and the map stays. -/
structure Health.Restored (h : Health) (k i : Nat) (h' : Health) : Prop where
  queue : h'.queue = []
  dumap : h'.dumap = h.dumap
  gen : h'.gen = h.gen
  noted : ∃ e ∈ h'.queue ++ h'.events, e.kind = 0xD ∧ e.unitKind = k ∧ e.unit = i ∧ e.time = h'.seconds
  counts : (∀ e ∈ h.events, e.seq < h.nextSeq ∧ e.time < h.seconds) → h'.counted k i = []

theorem Health.counted_of_events {h h' : Health} (same : h'.events = h.events) (k i : Nat) : h'.counted k i = h.counted k i := by
  simp only [Health.counted, same]
/-- No event counts that is older than a restoring of its unit. -/
theorem Health.counted_eq_nil {h : Health} {e : HealthEvent} (listed : e ∈ h.events) (restores : e.kind = 0xD)
    (older : ∀ x ∈ h.events, x.seq ≤ e.seq) : h.counted e.unitKind e.unit = [] := by
  refine List.filter_eq_nil_iff.mpr fun x mine counts => ?_
  obtain ⟨_, since⟩ := Bool.and_eq_true_iff.mp counts
  have newest : e.seq + 1 ≤ maxNat 0 (((h.events.filter fun x => x.unitKind == e.unitKind && x.unit == e.unit).filter
      fun x => x.kind == 0xD).map fun x => x.seq + 1) :=
    le_maxNat 0 (List.mem_map_of_mem (by simp [listed, restores]))
  have young : e.seq + 1 ≤ x.seq := newest.trans (of_decide_eq_true since)
  exact absurd (older x (List.mem_filter.mp mine).1) (by omega)

/-- A restoring that is written leaves no event that counts against its unit. -/
theorem Health.restored_of_written {h : Health} {e : HealthEvent} (restores : e.kind = 0xD)
    (now : e.time = h.seconds) : h.Restored e.unitKind e.unit ({ h with queue := [e] } : Health).writeEvent := by
  have one : ({ h with queue := [e] } : Health).queue = e :: [] := rfl
  obtain ⟨dumap, gen, seconds⟩ := ({ h with queue := [e] } : Health).writeEvent_map
  have newest := Health.writeEvent_mem one
  refine ⟨Health.writeEvent_queue one, dumap, gen, ?_, fun fresh => ?_⟩
  · exact ⟨_, List.mem_append_right _ newest, restores, rfl, rfl, now.trans seconds.symm⟩
  · refine Health.counted_eq_nil (e := { e with seq := h.nextSeq }) newest restores fun x listed => ?_
    rw [Health.writeEvent_events one] at listed
    rcases List.mem_append.mp (List.mem_of_mem_drop listed) with old | new
    · exact (fresh x old).1.le
    · exact (List.mem_singleton.mp new) ▸ le_rfl

theorem State.restoreWritten_quiet {k i : Nat} (quiet : s.health.queue = []) :
    ∃ h', s.restoreWritten k i = { s with health := h' } ∧ s.health.Restored k i h' := by
  unfold State.restoreWritten
  dsimp only
  rcases s.healthEvent_cases 0xD k i 0xFF 0xFF 0 with ⟨noted, same⟩ | queued
  · rw [same, quiet]
    refine ⟨s.health, rfl, quiet, rfl, rfl, noted, fun fresh => ?_⟩
    obtain ⟨e, listed, _, _, _, now⟩ := noted
    rw [quiet, List.nil_append] at listed
    exact absurd now (fresh e listed).2.ne
  · rw [queued, quiet, List.nil_append]
    refine ⟨_, ?_, Health.restored_of_written (e := s.newEvent 0xD k i 0xFF 0xFF 0) rfl rfl⟩
    exact State.eventWritten_only (s := { s with health := { s.health with queue := [s.newEvent 0xD k i 0xFF 0xFF 0] } }) rfl
      (HealthEvent.not_condemns_of_kind _ (.inr (.inr (.inr le_rfl))))

end Sys2Proof.Machine

end

section
/-! Test windows (R282-R286): the replay of a capture, and the pack item at the unit's cursor. -/

-- one proof at a time: side by side, their stacks and heaps do not fit beside the rest of the text
set_option Elab.async false

namespace Sys2Proof.Machine

variable {s t : State} {c l : Nat} {d : Due} {st : PlanStep} {u : Nat × Nat}

/-! ## Replays (R286) -/

theorem Tab.mem_ins {α : Type} (k : Nat) (v : α) (t : Tab α) : (k, v) ∈ Tab.ins k v t := by
  induction t with
  | nil => exact List.mem_singleton.mpr rfl
  | cons e t ih =>
    unfold Tab.ins
    split_ifs
    · exact List.mem_cons_self
    · exact List.mem_cons_self
    · exact List.mem_cons_of_mem _ ih

theorem State.healthEvent_captures (s : State) (kind unitKind unit c capture detail : Nat) :
    (s.healthEvent kind unitKind unit c capture detail).health.captures = s.health.captures := by
  rcases s.healthEvent_cases kind unitKind unit c capture detail with ⟨_, same⟩ | queued
  · rw [same]
  · rw [queued]
theorem State.replayCapture_captures (s : State) (c slot : Nat) (x : Capture) (u : Nat × Nat) (differs : Bool) :
    (slot, x.replayed u differs) ∈ (s.replayCapture c slot x u differs).health.captures := by
  unfold State.replayCapture
  dsimp only
  split
  · rw [State.healthEvent_captures]
    exact Tab.mem_ins ..
  · exact Tab.mem_ins ..
theorem State.replayCapture_noted (s : State) (c slot : Nat) (x : Capture) (u : Nat × Nat) :
    (s.replayCapture c slot x u true).noted 0xB u.1 u.2 := State.healthEvent_noted ..
theorem State.replayCapture_ledger (s : State) (c slot : Nat) (x : Capture) (u : Nat × Nat) (differs : Bool) :
    (s.replayCapture c slot x u differs).ledger = s.ledger := by
  unfold State.replayCapture
  dsimp only
  split
  · exact State.healthEvent_ledger ..
  · rfl

/-! ## Pack items (R283, R284) -/

theorem Health.cursor_of_ledger {h h' : Health} (same : h'.ledger = h.ledger) (u : Nat × Nat) : h'.cursor u = h.cursor u := by
  obtain ⟨_, _, _, cursors, _, _⟩ := Health.ledger_inj same
  simp only [Health.cursor, cursors]
theorem Health.cursor_setCursor (h : Health) (u : Nat × Nat) (n : Nat) (failed : Bool) :
    (h.setCursor u n failed).cursor u = (n, failed) := by
  have others : (h.cursors.filter fun e => !(e.1 == u.1 && e.2.1 == u.2)).find?
      (fun e => e.1 == u.1 && e.2.1 == u.2) = none :=
    List.find?_eq_none.mpr fun e listed => Bool.eq_false_iff.mp ((Bool.not_eq_true' _).mp (List.mem_filter.mp listed).2)
  simp only [Health.cursor, Health.setCursor, List.find?_append, others]
  simp

/-- The counts and the unit's cursor after an item has run on it. -/
structure Health.Ran (h : Health) (u : Nat × Nat) (differs : Bool) (h' : Health) : Prop where
  run : h'.packRun = min 0xFFFF (h.packRun + 1)
  failed : h'.packFailed = min 0xFFFF (h.packFailed + b2n differs)
  again : differs = true → (h.cursor u).2 = false → h'.cursor u = ((h.cursor u).1, true)
  past : differs = false → (h'.cursor u).2 = false

theorem Health.Ran.of_ledger {h v h' : Health} {differs : Bool} (ran : v.Ran u differs h') (same : v.ledger = h.ledger) :
    h.Ran u differs h' := by
  obtain ⟨_, _, _, _, run, failed⟩ := Health.ledger_inj same
  have cursor := Health.cursor_of_ledger same u
  exact ⟨run ▸ ran.run, failed ▸ ran.failed, cursor ▸ ran.again, ran.past⟩
theorem State.runItem_ran (s : State) (c : Nat) (u : Nat × Nat) (differs : Bool) :
    s.health.Ran u differs (s.runItem c u differs).health := by
  have events (t : State) (kind : Nat) :
      (if differs then t.healthEvent kind u.1 u.2 c 0xFF 0 else t).health.ledger = t.health.ledger := by
    split
    · exact State.healthEvent_ledger ..
    · rfl
  unfold State.runItem
  extract_lets h n cur again counted t
  obtain ⟨_, _, _, _, run, failed⟩ := Health.ledger_inj (events t (if cur.2 then 0xB else 0xA))
  have cursor := (Health.cursor_of_ledger (events t (if cur.2 then 0xB else 0xA)) u).trans (Health.cursor_setCursor ..)
  refine ⟨run, failed, fun differs first => ?_, fun same => ?_⟩
  · simpa [again, cur, h, first, differs] using cursor
  · simpa [again, same] using congrArg Prod.snd cursor
theorem State.runItem_noted (s : State) (c : Nat) (u : Nat × Nat) :
    (s.runItem c u true).noted (if (s.health.cursor u).2 then 0xB else 0xA) u.1 u.2 := State.healthEvent_noted ..

/-! ## The window -/

/-- An item is compared with its reference, on a state with the cursor and counts of the window. -/
theorem State.itemWork_runs (s : State) (c l : Nat) (d : Due) (st : PlanStep) (u : Nat × Nat) (x : PackItem) (output : Bytes)
    (ups : List Upset) : ∃ (v : State) (differs : Bool), s.itemWork c l d st u x output ups = v.runItem c u differs ∧
      v.ledger = s.ledger ∧ (u.1 ≠ 1 → differs = (crc32c output != x.crc)) := by
  unfold State.itemWork
  extract_lets read record bank
  have reads : read.ledger = s.ledger := State.checkedRead_ledger ..
  by_cases harness : u.1 = 1
  · simp only [harness, if_true]
    exact ⟨_, _, rfl, (State.testHarness_ledger ..).trans reads, fun other => absurd rfl other⟩
  · simp only [harness, if_false]
    exact ⟨_, _, rfl, (State.testChecks_ledger ..).trans reads, fun _ => rfl⟩

/-- A capture that waits for the unit is replayed; cursors and counts stay. -/
theorem State.testWork_replays {slot : Nat} {x : Capture} (waits : s.health.captureFor (testUnit l st) = some (slot, x))
    (c : Nat) (d : Due) (seen : TestSeen) :
    let u := testUnit l st
    let t := s.testWork c l d st seen
    let differs := seen.output != seen.reference
    (slot, x.replayed u differs) ∈ t.health.captures ∧ (differs = true → t.noted 0xB u.1 u.2) ∧ t.ledger = s.ledger := by
  simp only [State.testWork, waits]
  refine ⟨State.replayCapture_captures .., fun differs => ?_,
    (State.replayCapture_ledger ..).trans (State.testChecks_ledger ..)⟩
  rw [differs]
  exact State.replayCapture_noted ..
/-- Else the item at the unit's cursor runs. -/
theorem State.testWork_runs {x : PackItem} (free : s.health.captureFor (testUnit l st) = none)
    (fits : s.health.itemFor (testUnit l st) st.len = some x) (c : Nat) (d : Due) (seen : TestSeen) :
    let u := testUnit l st
    let t := s.testWork c l d st seen
    ∃ differs : Bool, (u.1 ≠ 1 → differs = (crc32c seen.output != x.crc)) ∧ s.health.Ran u differs t.health ∧
      (differs = true → t.noted (if (s.health.cursor u).2 then 0xB else 0xA) u.1 u.2) := by
  simp only [State.testWork, free, fits]
  obtain ⟨v, differs, done, ledger, compared⟩ := s.itemWork_runs c l d st (testUnit l st) x seen.output seen.ups
  rw [done]
  refine ⟨differs, compared, (v.runItem_ran c _ differs).of_ledger ledger, fun fails => ?_⟩
  rw [fails, ← Health.cursor_of_ledger ledger]
  exact v.runItem_noted ..
theorem State.testWork_idle (free : s.health.captureFor (testUnit l st) = none)
    (idle : s.health.itemFor (testUnit l st) st.len = none) (c : Nat) (d : Due) (seen : TestSeen) :
    s.testWork c l d st seen = s := by
  simp only [State.testWork, free, idle]

/-- A TEST step that may start does its window's work on the health and memory that it finds. -/
theorem exec_testStep_starts {c : Fin 256} {l : Fin 5} {i : BitVec 18} (may : s.mayStart c.val l.val i.toNat 0xA d)
    (seen : TestSeen) :
    ∃ t : State, exec (.testStep c l i seen) s = .next (t.testWork c.val l.val d (s.stepAt c.val l.val i.toNat) seen) ∧
      t.health = s.health ∧ t.mem = s.mem ∧ t.arr = s.arr := by
  refine ⟨_, exec_stepCommand_starts rfl may, ?_⟩
  rw [State.startRun_frame]
  exact ⟨rfl, rfl, rfl⟩

end Sys2Proof.Machine

end

section
/-! The health commands (Table 10.8) and the health history, settled. -/

-- one proof at a time: side by side, their stacks and heaps do not fit beside the rest of the text
set_option Elab.async false

namespace Sys2Proof.Machine

variable {s t : State} {m : Fin 16}

/-! ## Results that are returned (R425, R431) -/

/-- Where bytes are returned to the transfer buffer they are there; else they are sent to the host. -/
theorem State.completeWith_returns (s : State) (m addr len : Nat) (bs : Bytes) (res : List Nat) :
    s.returns (s.completeWith m (s.mailbox m) addr len bs res) m addr len bs res := by
  unfold State.completeWith
  refine ⟨fun past => ?_, fun inside long => ?_, fun inside fits => ?_⟩
  · rw [if_pos past]
    exact ⟨s.complete_completes .., s.complete_eq ..⟩
  · rw [if_neg (Bool.eq_false_iff.mp inside), if_pos long]
    exact ⟨s.complete_completes .., s.complete_eq ..⟩
  · rw [if_neg (Bool.eq_false_iff.mp inside), if_neg (Nat.not_lt.mpr fits)]
    unfold State.hostPut
    cases viaXfer m (s.mailbox m) with
    | true => exact ⟨State.completes_after rfl rfl .., fun _ => ⟨State.read_write .., rfl⟩, nofun⟩
    | false => exact ⟨State.completes_after rfl rfl .., nofun, fun _ => ⟨.tail _ (.head _), rfl⟩⟩

/-! ## The commands (Table 10.8) -/

theorem exec_healthDumapRead (waits : s.awaits m.val 0x4000) :
    let b := s.mailbox m.val
    exec (.healthDumapRead m) s =
      .next (s.completeWith m.val b (b.arg2 0) (b.arg 2) s.dumapBytes [s.health.dumap.length, s.health.gen]) :=
  congrArg Host.Outcome.next (State.command_done waits _)

theorem exec_healthEventRead (waits : s.awaits m.val 0x4001) :
    let b := s.mailbox m.val
    let es := (s.health.events.filter (fun e => decide (b.arg 0 ≤ e.seq))).take (b.arg 1)
    exec (.healthEventRead m) s = .next (s.completeWith m.val b (b.arg2 2) (es.flatMap HealthEvent.bytes).length
      (es.flatMap HealthEvent.bytes) [es.length, (s.health.events.head?.map (fun e => e.seq)).getD s.health.nextSeq]) :=
  congrArg Host.Outcome.next (State.command_done waits _)

theorem exec_healthCaptureRead_refused (waits : s.awaits m.val 0x4005) (bad : 64 ≤ (s.mailbox m.val).arg 0) :
    exec (.healthCaptureRead m) s = .next (s.complete m.val 0x11 []) :=
  (exec_awaited rfl waits).trans (congrArg _ (if_pos bad))
theorem exec_healthCaptureRead_held {j : Nat} {x : Capture} (waits : s.awaits m.val 0x4005) (slot : (s.mailbox m.val).arg 0 < 64)
    (held : s.health.captures.find? (fun e => e.1 == (s.mailbox m.val).arg 0) = some (j, x)) : exec (.healthCaptureRead m) s =
      .next (s.completeWith m.val (s.mailbox m.val) ((s.mailbox m.val).arg2 1) 8192 (slice x.data 0 8192) [x.state]) := by
  refine (exec_awaited rfl waits).trans (congrArg _ ((if_neg (Nat.not_le.mpr slot)).trans ?_))
  rw [held]

theorem exec_healthUnitRestore_refused (waits : s.awaits m.val 0x4002)
    (bad : s.enabled ≠ [] ∨ unitCount ((s.mailbox m.val).arg 0) ≤ (s.mailbox m.val).arg 1) :
    exec (.healthUnitRestore m) s = .next (s.complete m.val 0x11 []) :=
  (exec_awaited rfl waits).trans (congrArg _ (if_pos bad))
/-- The unit comes off the map once its event is in flash (R281). -/
theorem exec_healthUnitRestore {k i : Nat} (waits : s.awaits m.val 0x4002) (kind : (s.mailbox m.val).arg 0 = k)
    (unit : (s.mailbox m.val).arg 1 = i) (idle : s.enabled = []) (known : i < unitCount k) : exec (.healthUnitRestore m) s =
      .next (((s.restoreWritten k i).leaveMap k i).complete m.val 0 [((s.restoreWritten k i).leaveMap k i).health.gen]) := by
  subst kind unit
  refine (exec_awaited rfl waits).trans (congrArg _ (if_neg ?_))
  exact not_or.mpr ⟨not_not.mpr idle, Nat.not_le.mpr known⟩

/-- What HEALTH_PACK_LOAD makes of the pack `o` (R282). -/
def State.packLoaded (s : State) (o : Bytes) : State :=
  let s := s.unitWrite packBase o
  { s with health := { s.health with
      packId := some (Config.packIdOf (objBody o) % 65536), pack := packOf (objBody o), packLen := o.length, cursors := [] } }
theorem exec_healthPackLoad (object : Bytes) (waits : s.awaits m.val 0x4003) :
    let b := s.mailbox m.val
    let o := s.hostData m.val b (b.arg2 0) (b.arg 2) object
    exec (.healthPackLoad m object) s = .next (
      if pastXfer m.val b (b.arg2 0) (b.arg 2) = true ∨ 0x1000000 < b.arg 2 then s.complete m.val 0x11 []
      else if objStatus s.sec.revoked o ≠ 0 then s.complete m.val (objStatus s.sec.revoked o) []
      else if objType o ≠ 4 ∨ Config.packVersion (objBody o) ≠ 1 ∨ Config.packProfile (objBody o) ≠ arithProfile then
        s.complete m.val 0x11 []
      else (s.packLoaded o).complete m.val 0 [Config.packIdOf (objBody o) % 65536]) := by
  refine (congrArg Host.Outcome.next (State.command_done waits _)).trans ?_
  simp only [Bool.or_eq_true, decide_eq_true_eq]
  rfl
theorem exec_healthPackUnload (waits : s.awaits m.val 0x4004) : exec (.healthPackUnload m) s = .next (State.complete
    { s with health := { s.health with packId := none, pack := [], packLen := 0, cursors := [] } } m.val 0 []) :=
  congrArg Host.Outcome.next (State.command_done waits _)

/-! ## What they bring about -/

/-- An event that is written (R275, R277). -/
theorem exec_healthEventWrite (up : s.up = true) : exec .healthEventWrite s = .next s.eventWritten :=
  congrArg Host.Outcome.next (if_pos up)
theorem State.eventWritten_writes {e : HealthEvent} {rest : List HealthEvent} (queue : s.health.queue = e :: rest) :
    s.eventWritten.ledger = s.health.writeEvent.ledger ∧ s.eventWritten.health.flashSeconds = s.health.seconds := by
  have flash := Health.writeEvent_flashSeconds queue
  cases now : e.condemns s.health.writeEvent with
  | true =>
    rw [State.eventWritten_condemns queue now]
    have lifetime := Keeps.same (State.permanent_keeps (.refl { s with health := s.health.writeEvent }) (List.Subset.refl _)
      e.unitKind e.unit 0) .lifetime (by decide)
    exact ⟨State.permanent_ledger .., (Prod.mk.inj lifetime).2.trans flash⟩
  | false =>
    rw [State.eventWritten_only queue now]
    exact ⟨rfl, flash⟩

/-- The mailbox of a restoring shows the unit off the map, its event in flash, and its counts cleared (R281). -/
theorem State.leaveMap_restored {k i : Nat} {h : Health} (restored : s.health.Restored k i h) (m : Nat) :
    let u := State.leaveMap { s with health := h } k i
    let t := u.complete m 0 [u.health.gen]
    s.completes t m 0 [t.health.gen] ∧ t.noted 0xD k i ∧ t.health.queue = [] ∧
      (∀ v, v ≠ (k, i) → (v ∈ t.health.dumap ↔ v ∈ s.health.dumap)) ∧
      t.health.gen = (if s.disabled k i then (s.health.gen + 1) % 65536 else s.health.gen) ∧
      ((∀ e ∈ s.health.events, e.seq < s.health.nextSeq ∧ e.time < s.health.seconds) → t.health.counted k i = []) := by
  intro u t
  have kept : Keeps _ { s with health := h } u := State.leaveMap_keeps (.refl _) (List.Subset.refl _) k i
  obtain ⟨queue, events, seconds⟩ := State.leaveMap_history { s with health := h } k i
  have on : State.disabled { s with health := h } k i = s.disabled k i := by simp only [State.disabled, restored.dumap]
  refine ⟨State.completes_after (kept.same .mbx (by decide)) (kept.same .clk (by decide)) .., ?_, queue.trans restored.queue,
    fun v other => ?_, ?_, fun fresh => (Health.counted_of_events events k i).trans (restored.counts fresh)⟩
  · obtain ⟨e, listed, kind, unitKind, unit, now⟩ := restored.noted
    exact ⟨e, by rwa [← queue, ← events] at listed, kind, unitKind, unit, now.trans seconds.symm⟩
  · change v ∈ u.health.dumap ↔ _
    rw [State.leaveMap_dumap]
    simp [restored.dumap, other]
  · change u.health.gen = _
    rw [State.leaveMap_gen, on]
    simp only [restored.gen]

/-- A pack that is taken lies in memory, and replaces the old one. -/
theorem State.packLoaded_fills (s : State) (o : Bytes) : s.Fills packBase o (s.packLoaded o) :=
  (s.unitWrite_fills packBase o).after rfl

end Sys2Proof.Machine

open Sys2Proof Sys2Proof.Machine

/-- Settles O51: what becomes of a permanent unit leaves the events in flash as written (`State.permanent_ledger`) and the unit on
the map (`State.permanent_disabled`); a restoring is the newest event of its unit, so that none older counts
(`Health.restored_of_written`); the checks of a test window leave pack, cursors and counts (`State.itemWork_runs`). -/
theorem healthHistory : Obligations.HealthHistory := by
  refine ⟨fun s e rest up queue => ?_, fun s powered => ?_, fun s m waits => ?_, fun s m waits => ?_,
    fun s m waits => ⟨fun bad => ?_, fun x slot held => ?_⟩, fun s m waits => ⟨fun bad => ?_, fun idle known => ?_⟩,
    fun s m object waits => ?_, fun s m waits => ?_, fun s c l i ups output reference d may =>
    ⟨fun slot x held => ?_, fun item free fits => ?_, fun free none => ?_⟩⟩
  · obtain ⟨ledger, flash⟩ := State.eventWritten_writes queue
    obtain ⟨events, nextSeq, -⟩ := Health.ledger_inj ledger
    refine yields_of (exec_healthEventWrite up) ⟨events ▸ Health.writeEvent_mem queue,
      nextSeq.trans (Health.writeEvent_nextSeq queue), flash, events ▸ Health.writeEvent_length queue,
      fun kind => ?_, fun kind => ?_⟩
    · rw [State.eventWritten_condemns queue (HealthEvent.condemns_of_kind kind)]
      exact State.permanent_disabled ..
    · rw [State.eventWritten_only queue (HealthEvent.not_condemns_of_kind _ kind)]
      exact ⟨rfl, Health.writeEvent_queue queue, (Health.writeEvent_map _).1⟩
  · exact congrArg Host.Outcome.next (if_pos powered)
  · exact yields_of (exec_healthDumapRead waits) (State.completeWith_returns ..)
  · refine yields_of (exec_healthEventRead waits) ?_
    cases s.health.events with
    | nil => exact State.completeWith_returns ..
    | cons e es => exact State.completeWith_returns ..
  · exact yields_refused (exec_healthCaptureRead_refused waits bad)
  · exact yields_of (exec_healthCaptureRead_held waits slot held) (State.completeWith_returns ..)
  · exact yields_refused (exec_healthUnitRestore_refused waits bad)
  · generalize kind : (s.mailbox m.val).arg 0 = k at *
    generalize unit : (s.mailbox m.val).arg 1 = i at *
    refine yields_of (exec_healthUnitRestore waits kind unit idle known) ?_
    generalize written : s.restoreWritten k i = w
    obtain ⟨ended, -, -⟩ := (w.leaveMap k i).complete_completes m.val 0 [(w.leaveMap k i).health.gen]
    refine ⟨by rw [ended], by rw [ended], w.leaveMap_disabled k i, fun quiet _ => ?_⟩
    obtain ⟨h, rfl, restored⟩ : ∃ h, { s with health := h } = w ∧ s.health.Restored k i h := by
      obtain ⟨h, is, restored⟩ := State.restoreWritten_quiet (k := k) (i := i) quiet
      exact ⟨h, is.symm.trans written, restored⟩
    exact State.leaveMap_restored restored m.val
  · refine yields_of (exec_healthPackLoad object waits) ?_
    refine ⟨fun bad => ?_, fun good status => ?_, fun good status wrong => ?_, fun good status right => ?_⟩
    · rw [if_pos bad]
      exact ⟨s.complete_completes .., rfl⟩
    · rw [if_neg good, if_pos status]
      exact ⟨s.complete_completes .., rfl⟩
    · rw [if_neg good, if_neg (not_not.mpr status), if_pos wrong]
      exact ⟨s.complete_completes .., rfl⟩
    · rw [if_neg good, if_neg (not_not.mpr status), if_neg right]
      obtain ⟨stored, others⟩ := s.packLoaded_fills (s.hostData m.val (s.mailbox m.val) ((s.mailbox m.val).arg2 0)
        ((s.mailbox m.val).arg 2) object)
      exact ⟨_, State.completes_after rfl rfl .., rfl, rfl, stored, others⟩
  · exact yields_of (exec_healthPackUnload waits) ⟨State.completes_after rfl rfl .., rfl⟩
  · obtain ⟨t, ran, health, -, -⟩ := exec_testStep_starts may ⟨ups, output, reference⟩
    obtain ⟨replayed, noted, ledger⟩ := State.testWork_replays (s := t) (health ▸ held) c d ⟨ups, output, reference⟩
    obtain ⟨-, -, -, cursors, run, -⟩ := Health.ledger_inj (ledger.trans (State.ledger_of_health health))
    exact yields_of ran ⟨replayed, noted, cursors, run⟩
  · obtain ⟨t, ran, health, mem, -⟩ := exec_testStep_starts may ⟨ups, output, reference⟩
    have same := Keeps.same (State.testWork_keeps (.refl t) (List.Subset.refl _) c l d (s.stepAt c l i.toNat)
      ⟨ups, output, reference⟩) .mem (by decide)
    obtain ⟨differs, compared, item, noted⟩ := State.testWork_runs (s := t) (health ▸ free) (health ▸ fits) c d
      ⟨ups, output, reference⟩
    rw [health] at item noted
    exact yields_of ran ⟨differs, compared, item.run, item.failed, noted, item.again, item.past, same.trans mem⟩
  · obtain ⟨t, ran, health, -, arr⟩ := exec_testStep_starts may ⟨ups, output, reference⟩
    rw [State.testWork_idle (s := t) (health ▸ free) (health ▸ none)] at ran
    exact yields_of ran ⟨health, congrArg Arrays.heddles arr⟩

end

section
/-! A cut ends a context that does not run (R304, R305), but passes over one that is cut already. No update makes a context that
waits to run and is cut; GSTOP is stated of every state, also of these. -/

-- one proof at a time: side by side, their stacks and heaps do not fit beside the rest of the text
set_option Elab.async false

namespace Sys2Proof.Machine

/-- After power-on: context 1, of plan group 0, is Checking and is marked as cut. -/
def checkingCut : State :=
  { State.reset with ctxs := [(1, { ctl := { opened := true, state := 1, cut := true, plan := some [] } })] }

/-- The state of context `c` after a command. -/
def ctxStateAfter (c : Nat) : Host.Outcome State Fault Refusal → Nat
  | .next t => (t.ctx c).ctl.state
  | _ => 0

/-- The group's GSTOP is new, and context 1 is a member that does not run yet. -/
theorem checkingCut_stops : checkingCut.up = true ∧ checkingCut.seen 7 0 0 0 = false ∧ 1 ∈ checkingCut.ofGroup 0 ∧
    (checkingCut.ctx 1).ctl.state = 1 := by
  refine ⟨?_, ?_, ?_, ?_⟩ <;> decide +kernel

theorem checkingCut_stays : ctxStateAfter 1 (exec (.gstop 0 0 0 0) checkingCut) = 1 := by decide +kernel

end Sys2Proof.Machine

open Sys2Proof Sys2Proof.Machine

/-- Refutes O53: the GSTOP of its group leaves context 1 Checking, which is marked as cut. -/
theorem not_cutsNoticesAndStorms : ¬ Obligations.CutsNoticesAndStorms := by
  rintro ⟨-, gstop, -⟩
  obtain ⟨up, new, listed, waits⟩ := checkingCut_stops
  obtain ⟨t, ran, members⟩ := (gstop checkingCut 0 0 0 0).2 up new
  obtain ⟨-, disables, -⟩ := members 1 listed
  have stays := checkingCut_stays
  rw [ran] at stays
  exact absurd (stays.symm.trans (disables (by rw [waits]; decide))) (by decide)

end

section
/-! The reset of the ring engine clears the flags of every listed ring (R14), and a table lists no default: in a table that lists a ring
twice, which no update makes, the second entry shows. The reset is stated of every state, also of these. -/

-- one proof at a time: side by side, their stacks and heaps do not fit beside the rest of the text
set_option Elab.async false

namespace Sys2Proof.Machine

/-- After power-on: hub function 1 is held in reset; ring 0 is listed with OVERFLOW set and as not set up, and then again with
2^3 entries. -/
def resetRingTwice : State :=
  { State.reset with
    rcv := { domains := [(domKey 0xA 1, { phase := 4 })] }
    srv := { rings := [(0, { overflow := true }), (0, { n := 3 })] } }

/-- The log of the size of ring `r` after a command. -/
def ringSizeAfter (r : Nat) : Host.Outcome State Fault Refusal → Nat
  | .next t => (t.ring r).n
  | _ => 0

/-- By its first entry ring 0 has no entries; after the reset its second entry shows. -/
theorem resetRingTwice_released : resetRingTwice.powered = true ∧ (resetRingTwice.domain 0xA 1).phase = 4 ∧
    (resetRingTwice.ring 0).n = 0 ∧ ringSizeAfter 0 (exec (.resetRelease 0xA 1) resetRingTwice) = 3 := by
  refine ⟨?_, ?_, ?_, ?_⟩ <;> decide +kernel

end Sys2Proof.Machine

open Sys2Proof Sys2Proof.Machine

/-- Refutes O54: ring 0, whose first entry the reset of hub function 1 turns into a default and drops, has another size afterwards. -/
theorem not_phasesOfRecovery : ¬ Obligations.PhasesOfRecovery := by
  rintro ⟨-, -, -, released, -⟩
  obtain ⟨powered, phase, size, shows⟩ := resetRingTwice_released
  obtain ⟨t, ran, -, -, -, -, -, -, idles⟩ := released resetRingTwice 0xA 1 powered phase
  obtain ⟨-, rings⟩ := idles rfl rfl
  rw [ran] at shows
  have kept := congrArg Ring.n (rings 0)
  exact absurd (shows.symm.trans (kept.trans size)) (by decide)

end

section
/-! The commands that read and free dumps and log entries, and MODULE_RETURN (R290, R299, R302, R312, R316). -/

-- one proof at a time: side by side, their stacks and heaps do not fit beside the rest of the text
set_option Elab.async false

namespace Sys2Proof.Machine

variable {s t : State} {m : Fin 16}

/-! ## Results in host memory (R425) -/

/-- Bytes that a command has put are in the transfer buffer or on their way to the host, and its mailbox is all else that changes. -/
theorem State.hostPut_complete (s : State) (m : Nat) (b : Mailbox) (a : Nat) (bs : Bytes) (status : Nat) (res : List Nat) :
    let t := (s.hostPut m b a bs).complete m status res
    s.completes t m status res ∧ (viaXfer m b = false → Output.hostWrite (s.hostLink a) a bs ∈ t.out) ∧
      (viaXfer m b = true → t.read (xferBase + a) bs.length = bs) ∧ t = { s with mem := t.mem, mbx := t.mbx, out := t.out } := by
  unfold State.hostPut
  cases viaXfer m b with
  | true => exact ⟨State.completes_after rfl rfl .., nofun, fun _ => State.read_write .., rfl⟩
  | false => exact ⟨State.completes_after rfl rfl .., fun _ => .tail _ (.head _), nofun, rfl⟩

/-- The link of a host access depends on the links alone. -/
theorem Keeps.hostLink_eq {B : List Block} (k : Keeps B s t) (acc : Block.acc ∉ B) (a : Nat) : t.hostLink a = s.hostLink a := by
  have same : t.acc = s.acc := k.same .acc acc
  rw [State.hostLink, same, State.hostLink]
/-- What a command completes with does not depend on what it has changed outside the mailboxes and the clock. -/
theorem State.completes_of_keeps {B : List Block} {u : State} {k status : Nat} {res : List Nat} (k' : Keeps B s t)
    (mbx : Block.mbx ∉ B) (clk : Block.clk ∉ B) (ends : t.completes u k status res) : s.completes u k status res := by
  have boxes : t.mbx = s.mbx := k'.same .mbx mbx
  have now : t.clk = s.clk := k'.same .clk clk
  simpa only [State.completes, State.mailbox, boxes, now] using ends

/-! ## Retention SRAM (R260, R261) -/

theorem State.eccCorrected_rcv (s : State) (n : Nat) : (s.eccCorrected n).rcv = s.rcv := by
  rw [State.eccCorrected, State.perf_frame]
theorem State.sramRead_rcv (s : State) (bits : List (BitVec 64)) : (s.sramRead bits).2.rcv = s.rcv :=
  State.each_holds (P := fun t => t.rcv = s.rcv) (fun _ _ _ same =>
    State.each_holds (P := fun t => t.rcv = s.rcv) (fun _ _ _ same => same)
      (State.each_holds (P := fun t => t.rcv = s.rcv) (fun _ _ _ same => (State.eccCorrected_rcv ..).trans same) same)) rfl
/-- A word of the SRAM that is read cannot be corrected. -/
def lostWord (bits : List (BitVec 64)) : Bool := bits.any fun u => (secded u.toNat).detected != 0
theorem State.sramRead_lost (s : State) (bits : List (BitVec 64)) : (s.sramRead bits).1 = lostWord bits :=
  List.any_map ..

/-! ## DUMP_READ -/

/-- Dump `x` once the dump with SEQ `seq` has been read. -/
def Dump.afterRead (seq : Nat) (bad : Bool) (x : Dump) : Dump :=
  if x.seq = seq then { x with read := true, damaged := x.damaged || bad } else x
/-- Dump `d` has been read, with words of the SRAM struck. -/
def State.dumpTaken (s : State) (d : Dump) (ups : List (BitVec 64)) : State :=
  let t := (s.sramRead ups).2
  let u := if lostWord ups then t.noteDamage else t
  { u with rcv := { u.rcv with dumps := u.rcv.dumps.map (Dump.afterRead d.seq (lostWord ups)) } }
/-- The dump as it is copied out. -/
def State.dumpBytes (s : State) (d : Dump) (ups : List (BitVec 64)) : Bytes :=
  Dump.bytes { d with damaged := d.damaged || lostWord ups } (s.dumpRoot d)

theorem Dump.afterRead_seq (seq : Nat) (bad : Bool) (x : Dump) : (x.afterRead seq bad).seq = x.seq := by
  unfold Dump.afterRead
  split
  · rfl
  · rfl
theorem Dump.afterRead_marks {seq : Nat} {bad : Bool} {x : Dump} (named : (x.afterRead seq bad).seq = seq) :
    (x.afterRead seq bad).read = true ∧ (bad = true → (x.afterRead seq bad).damaged = true) := by
  rw [Dump.afterRead_seq] at named
  rw [Dump.afterRead, if_pos named]
  exact ⟨rfl, fun lost => by rw [lost, Bool.or_true]⟩

theorem State.dumpTaken_keeps (s : State) (d : Dump) (ups : List (BitVec 64)) :
    Keeps [.memChecks, .obs, .dumps, .marks] s (s.dumpTaken d ups) := by
  have read : Keeps [.memChecks, .obs, .dumps, .marks] s (s.sramRead ups).2 := State.sramRead_keeps (.refl s) (by decide) ups
  rw [State.dumpTaken, State.mk_eq]
  apply Keeps.upd (Keeps.ite (State.noteDamage_keeps read (by decide)) read) (fun w => w) <;>
    first | exact .inr rfl | exact .inl (by decide)
theorem State.dumpTaken_dumps (s : State) (d : Dump) (ups : List (BitVec 64)) :
    (s.dumpTaken d ups).rcv.dumps = s.rcv.dumps.map (Dump.afterRead d.seq (lostWord ups)) := by
  have read := congrArg Recovery.dumps (s.sramRead_rcv ups)
  unfold State.dumpTaken
  cases lostWord ups with
  | true => exact congrArg _ read
  | false => exact congrArg _ read
theorem State.dumpTaken_damaged {ups : List (BitVec 64)} (lost : lostWord ups = true) (s : State) (d : Dump) :
    (s.dumpTaken d ups).rcv.dumpDamaged = true := by
  rw [State.dumpTaken, lost]
  rfl
theorem State.dumpTaken_clean (s : State) (d : Dump) :
    s.dumpTaken d [] = { s with rcv := { s.rcv with dumps := (s.dumpTaken d []).rcv.dumps } } := rfl

theorem exec_dumpRead_unknown {ups : List (BitVec 64)} (waits : s.awaits m.val 0x4010)
    (unknown : s.namedDump ((s.mailbox m.val).arg 0) = none) : exec (.dumpRead (m, ups)) s = .next (s.complete m.val 0x11 []) := by
  refine (exec_awaited rfl waits).trans ?_
  rw [unknown]
theorem exec_dumpRead_named {ups : List (BitVec 64)} {d : Dump} (waits : s.awaits m.val 0x4010)
    (named : s.namedDump ((s.mailbox m.val).arg 0) = some d) : let b := s.mailbox m.val
    exec (.dumpRead (m, ups)) s = .next (
      if pastXfer m.val b (b.arg2 1) (b.arg 3) then s.complete m.val 0x11 []
      else if b.arg 3 < (s.dumpBytes d ups).length then s.complete m.val 0x11 [(s.dumpBytes d ups).length]
      else ((s.dumpTaken d ups).hostPut m.val b (b.arg2 1) (s.dumpBytes d ups)).complete m.val 0
        [d.seq, (s.dumpBytes d ups).length]) := by
  refine (exec_awaited rfl waits).trans ?_
  rw [named]
  dsimp only
  rw [State.sramRead_lost]
  rfl
theorem exec_dumpRead_fits {ups : List (BitVec 64)} {d : Dump} (waits : s.awaits m.val 0x4010)
    (named : s.namedDump ((s.mailbox m.val).arg 0) = some d)
    (inside : pastXfer m.val (s.mailbox m.val) ((s.mailbox m.val).arg2 1) ((s.mailbox m.val).arg 3) = false)
    (fits : (s.dumpBytes d ups).length ≤ (s.mailbox m.val).arg 3) : exec (.dumpRead (m, ups)) s =
      .next (((s.dumpTaken d ups).hostPut m.val (s.mailbox m.val) ((s.mailbox m.val).arg2 1) (s.dumpBytes d ups)).complete m.val 0
        [d.seq, (s.dumpBytes d ups).length]) :=
  (exec_dumpRead_named waits named).trans
    (congrArg _ ((if_neg (Bool.eq_false_iff.mp inside)).trans (if_neg (Nat.not_lt.mpr fits))))

/-! ## ERRLOG_READ -/

/-- The entries held of the range that the command of mailbox `b` names, in order of SEQ. -/
def State.logRange (s : State) (b : Mailbox) : List LogEntry :=
  s.rcv.log.reverse.filter fun e => decide (b.arg 0 ≤ e.seq ∧ e.seq < b.arg 0 + b.arg 1)
/-- The SEQ of the entries of which a struck word cannot be corrected. -/
def lostEntries (es : List LogEntry) (ups : List (Nat × BitVec 64)) : List Nat :=
  (ups.filter fun u => decide ((secded u.2.toNat).detected ≠ 0)).filterMap fun u => es[u.1]?.map (·.seq)
/-- An entry once those with a SEQ in `lost` are DAMAGED. -/
def LogEntry.spoilt (lost : List Nat) (e : LogEntry) : LogEntry := { e with damaged := e.damaged || lost.contains e.seq }
/-- The log once the entries `es` have been read, with words of the SRAM struck. -/
def State.logTaken (s : State) (es : List LogEntry) (ups : List (Nat × BitVec 64)) : State :=
  let t := (s.sramRead ((ups.filter fun u => decide (u.1 < es.length)).map (·.2))).2
  if (lostEntries es ups).isEmpty then t
  else ({ t with rcv := { t.rcv with log := t.rcv.log.map (LogEntry.spoilt (lostEntries es ups)) } }).noteDamage

theorem mem_lostEntries {es : List LogEntry} {ups : List (Nat × BitVec 64)} {n : Nat} {w : BitVec 64} {e : LogEntry}
    (struck : (n, w) ∈ ups) (entry : es[n]? = some e) (lost : (secded w.toNat).detected ≠ 0) : e.seq ∈ lostEntries es ups :=
  List.mem_filterMap.mpr ⟨(n, w), List.mem_filter.mpr ⟨struck, decide_eq_true lost⟩, by rw [entry]; rfl⟩
theorem lostEntries_of_good {ups : List (Nat × BitVec 64)} (good : ups.all (fun u => (secded u.2.toNat).detected == 0) = true)
    (es : List LogEntry) : lostEntries es ups = [] := by
  have none : ups.filter (fun u => decide ((secded u.2.toNat).detected ≠ 0)) = [] :=
    List.filter_eq_nil_iff.mpr fun u listed => by simpa using List.all_eq_true.mp good u listed
  rw [lostEntries, none, List.filterMap_nil]
theorem LogEntry.spoilt_damaged {lost : List Nat} {e : LogEntry} (listed : e.seq ∈ lost) : (e.spoilt lost).damaged = true := by
  simp [LogEntry.spoilt, listed]
theorem LogEntry.spoilt_nil : LogEntry.spoilt [] = id := funext fun e => by simp [LogEntry.spoilt]

theorem State.logTaken_keeps (s : State) (es : List LogEntry) (ups : List (Nat × BitVec 64)) :
    Keeps [.memChecks, .obs, .log, .dumps, .marks] s (s.logTaken es ups) := by
  have read (bits : List (BitVec 64)) : Keeps [.memChecks, .obs, .log, .dumps, .marks] s (s.sramRead bits).2 :=
    State.sramRead_keeps (.refl s) (by decide) bits
  refine Keeps.ite (read _) (State.noteDamage_keeps ?_ (by decide))
  rw [State.mk_eq]
  apply Keeps.upd (read _) (fun w => w) <;> first | exact .inr rfl | exact .inl (by decide)
theorem State.logTaken_clean {es : List LogEntry} {ups : List (Nat × BitVec 64)} (clean : lostEntries es ups = []) (s : State) :
    (s.logTaken es ups).rcv = s.rcv := by
  rw [State.logTaken, clean]
  exact s.sramRead_rcv _
theorem State.logTaken_damages {es : List LogEntry} {ups : List (Nat × BitVec 64)} {q : Nat} (lost : q ∈ lostEntries es ups)
    (s : State) : (s.logTaken es ups).rcv.dumpDamaged = true ∧
      ∀ x ∈ (s.logTaken es ups).rcv.log, x.seq = q → x.damaged = true := by
  have some : (lostEntries es ups).isEmpty = false := List.isEmpty_eq_false_iff_exists_mem.mpr ⟨q, lost⟩
  rw [State.logTaken, some]
  refine ⟨rfl, fun x listed named => ?_⟩
  obtain ⟨e, -, rfl⟩ := List.mem_map.mp listed
  exact LogEntry.spoilt_damaged (e := e) (by rw [show e.seq = q from named]; exact lost)

theorem exec_errlogRead {ups : List (Nat × BitVec 64)} (waits : s.awaits m.val 0x4012) : let b := s.mailbox m.val
    let es := s.logRange b
    let t := s.logTaken es ups
    exec (.errlogRead (m, ups)) s = .next (
      if pastXfer m.val b (b.arg2 2) (32 * b.arg 1) then s.complete m.val 0x11 []
      else (t.hostPut m.val b (b.arg2 2) ((es.map (LogEntry.spoilt (lostEntries es ups))).flatMap LogEntry.bytes)).complete m.val 0
        [es.length, ((t.rcv.log.getLast?).map (·.seq)).getD t.rcv.logSeq]) :=
  congrArg Host.Outcome.next (State.command_done waits _)

/-! ## DUMP_RELEASE and MODULE_RETURN -/

theorem exec_dumpRelease (waits : s.awaits m.val 0x4011) : let seq := (s.mailbox m.val).arg 0
    exec (.dumpRelease m) s = .next (
      if s.rcv.dumps.any (fun d => d.seq == seq) then
        ({ s with rcv := { s.rcv with dumps := s.rcv.dumps.filter (fun d => d.seq != seq) } } : State).complete m.val 0 []
      else s.complete m.val 0x11 []) :=
  congrArg Host.Outcome.next (State.command_done waits _)
theorem exec_moduleReturn (waits : s.awaits m.val 0x4015) : exec (.moduleReturn m) s = .next (
    if s.rcv.oos then ({ s with rcv := { s.rcv with oos := false, modStarts := [] } } : State).complete m.val 0 []
    else s.complete m.val 0x11 []) :=
  congrArg Host.Outcome.next (State.command_done waits _)

end Sys2Proof.Machine

open Sys2Proof Sys2Proof.Machine

/-- Settles O55: a read leaves the dumps or the log as `State.dumpTaken` or `State.logTaken` says, and then puts its bytes. -/
theorem dumpsAndReturn : Obligations.DumpsAndReturn := by
  refine ⟨fun s m ups waits => ⟨fun unknown => yields_refused (exec_dumpRead_unknown waits unknown), fun d named =>
    ⟨fun refused => ?_, fun inside fits => ?_⟩⟩, fun s m waits => ?_, fun s m ups waits =>
    ⟨fun n w e struck entry lost inside => ?_, fun good => ?_⟩, fun s m waits => ?_⟩
  · refine yields_of (exec_dumpRead_named waits named) ?_
    rcases Bool.eq_false_or_eq_true (pastXfer m.val (s.mailbox m.val) ((s.mailbox m.val).arg2 1) ((s.mailbox m.val).arg 3))
      with past | inside
    · rw [if_pos past, if_pos past]
      exact ⟨s.complete_completes .., s.complete_eq ..⟩
    · have long : _ < (s.dumpBytes d ups).length := refused.resolve_left (Bool.eq_false_iff.mp inside)
      rw [if_neg (Bool.eq_false_iff.mp inside), if_pos long, if_neg (Bool.eq_false_iff.mp inside)]
      exact ⟨s.complete_completes .., s.complete_eq ..⟩
  · have ran := exec_dumpRead_fits (ups := ups) waits named inside fits
    have kept := s.dumpTaken_keeps d ups
    obtain ⟨ends, host, xfer, frame⟩ := (s.dumpTaken d ups).hostPut_complete m.val (s.mailbox m.val)
      ((s.mailbox m.val).arg2 1) (s.dumpBytes d ups) 0 [d.seq, (s.dumpBytes d ups).length]
    rw [kept.hostLink_eq (by decide)] at host
    have rcv := congrArg State.rcv frame
    refine yields_of ran ⟨State.completes_of_keeps kept (by decide) (by decide) ends, host, xfer, fun x listed seq => ?_, ?_,
      fun lost => ?_, fun clean => ?_⟩
    · rw [rcv] at listed
      obtain ⟨y, -, rfl⟩ := List.mem_map.mp (s.dumpTaken_dumps d ups ▸ listed)
      exact Dump.afterRead_marks seq
    · rw [rcv]
      exact (congrArg List.length (s.dumpTaken_dumps d ups)).trans (List.length_map _)
    · rw [rcv]
      exact State.dumpTaken_damaged lost s d
    · subst clean
      refine frame.trans ?_
      rw [rcv, s.dumpTaken_clean d]
  · refine yields_of (exec_dumpRelease waits) ?_
    split
    next known =>
      refine ⟨fun none => ?_, fun _ => ⟨State.completes_after rfl rfl .., fun d => ?_⟩, rfl⟩
      · obtain ⟨d, listed, is⟩ := List.any_eq_true.mp known
        exact absurd (beq_iff_eq.mp is) (none d listed)
      · exact List.mem_filter.trans (and_congr_right' bne_iff_ne)
    next unknown =>
      refine ⟨fun _ => ⟨s.complete_completes .., rfl⟩, fun ⟨d, listed, is⟩ => absurd ?_ unknown, rfl⟩
      exact (List.any_eq_true.mpr ⟨d, listed, beq_iff_eq.mpr is⟩)
  · have ran := exec_errlogRead (ups := ups) waits
    dsimp only at ran
    rw [if_neg (Bool.eq_false_iff.mp inside)] at ran
    obtain ⟨-, -, -, frame⟩ := (s.logTaken (s.logRange (s.mailbox m.val)) ups).hostPut_complete m.val (s.mailbox m.val) _ _ _ _
    refine yields_of ran ?_
    rw [congrArg State.rcv frame]
    exact State.logTaken_damages (mem_lostEntries struck entry lost) s
  · have clean := lostEntries_of_good good (s.logRange (s.mailbox m.val))
    have rcv := State.logTaken_clean clean s
    refine yields_of (exec_errlogRead waits) ?_
    rcases Bool.eq_false_or_eq_true (pastXfer m.val (s.mailbox m.val) ((s.mailbox m.val).arg2 2) (32 * (s.mailbox m.val).arg 1))
      with past | inside
    · rw [if_pos past]
      exact ⟨rfl, fun _ => s.complete_completes .., fun inside => absurd past (Bool.eq_false_iff.mp inside)⟩
    · rw [if_neg (Bool.eq_false_iff.mp inside), clean, LogEntry.spoilt_nil, List.map_id]
      have kept := s.logTaken_keeps (s.logRange (s.mailbox m.val)) ups
      obtain ⟨ends, host, xfer, frame⟩ := (s.logTaken (s.logRange (s.mailbox m.val)) ups).hostPut_complete m.val
        (s.mailbox m.val) ((s.mailbox m.val).arg2 2) ((s.logRange (s.mailbox m.val)).flatMap LogEntry.bytes) 0 _
      rw [kept.hostLink_eq (by decide)] at host
      exact ⟨(congrArg State.rcv frame).trans rcv, fun past => absurd past (Bool.eq_false_iff.mp inside),
        fun _ => ⟨⟨_, State.completes_of_keeps kept (by decide) (by decide) ends⟩, host, xfer⟩⟩
  · refine yields_of (exec_moduleReturn waits) ?_
    cases s.rcv.oos with
    | true => exact ⟨nofun, fun _ => ⟨State.completes_after rfl rfl .., rfl⟩, rfl⟩
    | false => exact ⟨fun _ => ⟨s.complete_completes .., rfl⟩, nofun, rfl⟩

end

section
/-! The twin pair (R306-R311): what a side sends of its streams, what the other keeps of them, and how they are adopted. -/

-- one proof at a time: side by side, their stacks and heaps do not fit beside the rest of the text
set_option Elab.async false

namespace Sys2Proof.Machine

variable {s t : State} {m : Fin 16} {B : List Block}

/-! ## Twin messages (R342) -/

theorem State.sendTwin_sends (s : State) (msg pick arg : Nat) : Keeps [.ports, .out] s (s.sendTwin msg pick arg) :=
  State.sendTwin_keeps (.refl s) (by decide) ..
theorem exec_heartbeatSend (up : s.up = true) (paired : s.twin.state = 1) (due : s.clk.pick % 1024 = 0) :
    exec .heartbeatSend s = .next (s.sendTwin 0x10 s.clk.pick 0) :=
  congrArg Host.Outcome.next (if_pos (by rw [up, paired, due]; rfl))
theorem exec_heartbeat {port : Fin 36} (up : s.up = true) (twin : 32 ≤ port.val) (paired : s.twin.state = 1) :
    exec (.heartbeat port) s = .next { s with twin := { s.twin with lastBeat := s.clk.elapsed } } :=
  congrArg Host.Outcome.next (if_pos (by rw [up, paired, decide_eq_true twin]; rfl))

/-! ## Pairing (R306) -/

/-- Why the pairing that the command of mailbox `b` asks for, over the contexts `cs`, is refused. -/
def State.pairRefused (s : State) (m : Nat) (b : Mailbox) (cs : List Nat) (peer : PeerView) : Bool :=
  pastXfer m b (b.arg2 1) 32 || decide (1 < b.arg 0 ∨ 1 < b.arg 3) || s.twin.state == 1 || s.twinPorts.isEmpty ||
    peer.side == b.arg 0 || peer.profile != arithProfile || peer.fwForm != s.fwForm ||
    !cs.all (s.pairable peer) || !(cs.all (fun c => s.inHalf c (b.arg 0)) && peer.ownHalves) ||
    s.time.role == 0 || peer.leader != s.timeLeader ||
    !(s.time.state == 1 || s.time.state == 2) || !(peer.timeState == 1 || peer.timeState == 2)
theorem exec_twinPair (bitmap : Bytes) (peer : PeerView) (waits : s.awaits m.val 0x4016) : let b := s.mailbox m.val
    let cs := bitmapCtxs (s.hostData m.val b (b.arg2 1) 32 bitmap)
    exec (.twinPair m bitmap peer) s = .next (if s.pairRefused m.val b cs peer then s.complete m.val 0x11 []
      else ({ s with twin := { state := 1, side := b.arg 0, adopt := b.arg 3 == 1, contexts := cs, dropped := s.twin.dropped
                               lastBeat := s.clk.elapsed } } : State).complete m.val 0 []) :=
  congrArg Host.Outcome.next (State.command_done waits _)

/-! ## Sending the shadow (R307) -/

/-- What is read of a stream's shadow does not depend on what sending it changes. -/
theorem Keeps.shadowRec_eq (k : Keeps B s t)
    (hb : Block.mem ∉ B ∧ Block.kvt ∉ B ∧ Block.ctxs ∉ B ∧ Block.streams ∉ B ∧ Block.reqs ∉ B) (u : Nat) :
    t.shadowRec u = s.shadowRec u ∧ t.commitOf u = s.commitOf u := by
  obtain ⟨hmem, hkvt, hctxs, hstreams, hreqs⟩ := hb
  have mem : t.mem = s.mem := k.same .mem hmem
  have kvt : t.kvt = s.kvt := k.same .kvt hkvt
  have streams : t.srv.streams = s.srv.streams := k.same .streams hstreams
  have reqs : t.srv.reqs = s.srv.reqs := congrArg Prod.fst (k.same .reqs hreqs)
  constructor
  · simp only [State.shadowRec, State.stream, State.smapAddr, State.commitOf, State.streamEntries, State.smapPages,
      State.smapPtBase, State.ptEntry, State.ptAddr, State.readLe, State.read, State.batch, State.promptDone, State.chunk,
      State.image, k.ctx_eq hctxs, mem, kvt, streams, reqs]
  · simp only [State.commitOf, State.smapAddr, State.readLe, State.read, mem, kvt]

theorem State.storedTally_of_mem (h : t.mem = s.mem) (k : Nat) : t.storedTally k = s.storedTally k := by
  rw [State.storedTally, State.read_of_mem h, State.blockErr, h, State.storedTally, State.blockErr]
/-- The block at `a` has been read to be sent: what fails its check there is counted and reported. -/
def State.blockRead (s : State) (a : Nat) : State :=
  State.each (s.failingBlocks [] a 4096) (fun s k => s.readFail (k * 4096) 0xFF) s
theorem State.blockRead_counts (s : State) (a : Nat) : Keeps [.history, .memChecks, .obs, .agg] s (s.blockRead a) :=
  State.each_keeps (.refl s) fun _ _ h => State.readFail_keeps h (by decide) ..
theorem State.shadowBlock_eq (s : State) (p a : Nat) : s.shadowBlock p a =
    ((s.blockRead a).emit (.shadowPut p a ((s.blockRead a).read a 4096)
      ((s.blockRead a).storedTally (a / 4096)))).sendFlits p 2 (ceilDiv (32 + 4096 + 4) 240) 256 := rfl
theorem State.sendFlits_out (s : State) (p vc n c : Nat) : (s.sendFlits p vc n c).out = s.out := rfl
/-- A block that is put leaves with its bytes and its stored tally, after everything sent before. -/
theorem State.shadowBlock_out (s : State) (p a : Nat) :
    (s.shadowBlock p a).out = .shadowPut p a (s.read a 4096) (s.storedTally (a / 4096)) :: s.out := by
  have mem := (s.blockRead_counts a).same .mem (by decide)
  have out := (s.blockRead_counts a).same .out (by decide)
  have read := State.read_of_mem mem a 4096
  have tally := State.storedTally_of_mem mem (a / 4096)
  rw [State.shadowBlock_eq, State.sendFlits_out]
  show _ :: (s.blockRead a).out = _
  rw [out, read, tally]
theorem State.shadowBlock_sends (s : State) (p a : Nat) :
    Keeps [.history, .memChecks, .ports, .obs, .agg, .out] s (s.shadowBlock p a) := State.shadowBlock_keeps (.refl s) (by decide) ..

/-- The blocks of a stream that have changed since it was last sent have been put on port `p`. -/
def State.blocksSent (s : State) (u p : Nat) : State :=
  State.each (s.changedBlocks u (Tab.getD 0 s.twin.sent u) (s.commitOf u)) (fun s k => s.shadowBlock p (k * 4096)) s
theorem State.blocksSent_sends (s : State) (u p : Nat) :
    Keeps [.history, .memChecks, .ports, .obs, .agg, .out] s (s.blocksSent u p) :=
  State.each_keeps (.refl s) fun _ _ h => State.shadowBlock_keeps h (by decide) ..
theorem State.blocksSent_out {u k : Nat} (p : Nat)
    (changed : k ∈ s.changedBlocks u (Tab.getD 0 s.twin.sent u) (s.commitOf u)) :
    Output.shadowPut p (k * 4096) (s.read (k * 4096) 4096) (s.storedTally k) ∈ (s.blocksSent u p).out := by
  have held (t : State) (a : Nat) : (t.shadowBlock p a).mem = t.mem := (t.shadowBlock_sends p a).same .mem (by decide)
  refine State.each_reaches (I := fun t => t.mem = s.mem)
    (P := fun t => Output.shadowPut p (k * 4096) (s.read (k * 4096) 4096) (s.storedTally k) ∈ t.out) changed (fun t b same => (held t _).trans same)
    (fun t b sent => ?_) (fun t same => ?_) rfl
  · rw [State.shadowBlock_out]
    exact .tail _ sent
  · rw [State.shadowBlock_out, Nat.mul_div_cancel k (by decide), State.read_of_mem same, State.storedTally_of_mem same]
    exact .head _

/-- The stream is sent up to COMMIT and no longer waits. -/
def Twin.streamSent (x : Twin) (u commit : Nat) : Twin :=
  { x with dirty := x.dirty.filter (fun d => d.1 != u), sent := Tab.put 0 x.sent u commit }
def State.streamSent (s : State) (u : Nat) : State := { s with twin := s.twin.streamSent u (s.commitOf u) }
theorem State.sendShadow_eq {u p : Nat} (port : s.twinPortOf u = some p) : s.sendShadow u =
    ((s.blocksSent u p).shadowSend p ((s.blocksSent u p).shadowRec u)).streamSent u := by
  rw [State.sendShadow, port]
  rfl
theorem State.sendShadow_sends {u p : Nat} (port : s.twinPortOf u = some p) :
    (s.sendShadow u).twin = s.twin.streamSent u (s.commitOf u) ∧
      (s.sendShadow u).out = .shadow p (s.shadowRec u) :: (s.blocksSent u p).out := by
  have sent := s.blocksSent_sends u p
  have last := State.shadowSend_keeps sent (by decide) p (s.shadowRec u)
  rw [State.sendShadow_eq port, (sent.shadowRec_eq (by decide) u).1]
  refine ⟨?_, rfl⟩
  rw [State.streamSent, (last.shadowRec_eq (by decide) u).2]
  exact congrArg (Twin.streamSent · u (s.commitOf u)) (last.same .twin (by decide))
theorem exec_shadowRecordSend {u : BitVec 16} (awake : s.awake = true) (paired : s.twin.state = 1)
    (dirty : ∃ d ∈ s.twin.dirty, d.1 = u.toNat) : exec (.shadowRecordSend u) s = .next (s.sendShadow u.toNat) := by
  have waits : s.twin.dirty.any (fun d => d.1 == u.toNat) = true := by simpa using dirty
  exact congrArg Host.Outcome.next (if_pos (by rw [awake, paired, waits]; rfl))

/-! ## Holding the shadow (R307) -/

theorem exec_shadowRecord_pending {r : ShadowRec} (awake : s.awake = true) (shadowed : s.shadows r.context = true)
    (pending : r.pendingOnly = true) : exec (.shadowRecord r) s =
      .next { s with twin := { s.twin with forwarded := s.twin.forwarded ++ [r] } } :=
  congrArg Host.Outcome.next ((if_pos (by rw [awake, shadowed]; rfl)).trans (if_pos pending))
theorem exec_shadowRecord {r : ShadowRec} (awake : s.awake = true) (shadowed : s.shadows r.context = true)
    (whole : r.pendingOnly = false) : exec (.shadowRecord r) s = .next (s.applyShadow r) :=
  congrArg Host.Outcome.next ((if_pos (by rw [awake, shadowed]; rfl)).trans (if_neg (Bool.eq_false_iff.mp whole)))

/-- The map entry that the receiver keeps of a shadow: VALID 0, at the shadow's COMMIT. -/
def shadowEntry (r : ShadowRec) : Bytes := slice r.smapEntry 0 7 ++ [0] ++ toLe 4 r.commit ++ toLe 4 0
theorem shadowEntry_length (r : ShadowRec) : (shadowEntry r).length = 16 := by
  have seven : (slice r.smapEntry 0 7).length = 7 := by
    simp only [slice, List.length_append, List.length_replicate, List.length_take]
    omega
  simp only [shadowEntry, List.length_append, seven, toLe, List.length_cons, List.length_nil]

/-- From `s` to `t` only bytes of memory may have changed. -/
def State.MemOnly (s t : State) : Prop := ∃ mem, t = { s with mem := mem }
theorem State.MemOnly.each {α : Type} {l : List α} {f : State → α → State} (h : s.MemOnly t)
    (hf : ∀ t x, ∃ mem, f t x = { t with mem := mem }) : s.MemOnly (State.each l f t) :=
  State.each_holds (P := s.MemOnly)
    (fun u x _ ⟨mem, same⟩ => by
      obtain ⟨mem', is⟩ := hf u x
      exact ⟨mem', by rw [is, same]⟩) h

/-- A whole record is kept: its entry in the map, its name among the shadows, and nothing else than memory changed. -/
theorem State.applyShadow_holds (s : State) (r : ShadowRec) : (r.stream, r) ∈ (s.applyShadow r).twin.shadows ∧
    (s.applyShadow r).read (s.smapAddr r.stream) 16 = shadowEntry r ∧
    s.applyShadow r = { s with mem := (s.applyShadow r).mem, twin := (s.applyShadow r).twin } := by
  unfold State.applyShadow
  extract_lets inFrame mine blocks entries map
  obtain ⟨mem, same⟩ : s.MemOnly entries :=
    (State.MemOnly.each ⟨s.mem, rfl⟩ fun _ _ => ⟨_, rfl⟩ : s.MemOnly blocks).each fun _ _ => ⟨_, rfl⟩
  have at_ : entries.smapAddr r.stream = s.smapAddr r.stream := by rw [same]; rfl
  refine ⟨Tab.mem_ins .., ?_, ?_⟩
  · rw [← at_, ← shadowEntry_length r]
    exact entries.read_write ..
  · have written : map = entries.write (entries.smapAddr r.stream) (shadowEntry r) := rfl
    obtain ⟨mem', same'⟩ : s.MemOnly map := ⟨_, by rw [written, same]; rfl⟩
    clear_value map
    rw [same']

/-! ## Adoption (R309, R311) -/

/-- What adopting a stream leaves: the stream opened, its name among the adopted, no request and no other stream changed. -/
theorem State.adoptStream_adopts (s : State) (r : ShadowRec) : let t := s.adoptStream r
    t.twin = { s.twin with adopted := r.stream :: s.twin.adopted } ∧ t.srv.reqs = s.srv.reqs ∧ (t.stream r.stream).opened = true ∧
      ∀ u, u ≠ r.stream → t.stream u = s.stream u := by
  unfold State.adoptStream
  extract_lets valid listed opened
  have kept : Keeps [.mem, .kvt] s listed :=
    State.each_keeps (State.write_keeps (.refl s) (by decide) ..) fun _ _ h => State.publish_keeps h (by decide) ..
  have streams : listed.srv.streams = s.srv.streams := kept.same .streams (by decide)
  refine ⟨?_, ?_, ?_, fun u other => ?_⟩
  · exact congrArg (fun x : Twin => { x with adopted := r.stream :: x.adopted }) (kept.same .twin (by decide))
  · exact (congrArg Prod.fst (kept.same .reqs (by decide)) : listed.srv.reqs = s.srv.reqs)
  · exact congrArg Stream.opened (State.modStream_stream ..)
  · refine (State.modStream_stream_other _ other _).trans ?_
    rw [State.stream, streams, State.stream]

/-- Placing requests takes numbers for them and counts those that are dropped. -/
theorem State.placeAll_places (l : List ShadowRec) (s : State) :
    ∃ next dropped, (s.placeAll l).1 = { s with srv := { s.srv with nextReq := next }, twin := { s.twin with dropped := dropped } } := by
  induction l generalizing s with
  | nil => exact ⟨_, _, rfl⟩
  | cons r l ih =>
    rw [State.placeAll]
    split
    · exact ih s
    next q _ =>
      obtain ⟨next, dropped, placed⟩ := ih (s.place? r q).1
      refine ⟨next, dropped, Eq.trans placed ?_⟩
      unfold State.place?
      dsimp only
      split
      · rfl
      · rfl

/-- From `s` to `t` the shadowed streams that `p` selects have been adopted. -/
structure State.Adopts (p : ShadowRec → Bool) (s t : State) : Prop where
  state : t.twin.state = s.twin.state
  contexts : t.twin.contexts = s.twin.contexts
  shadows : t.twin.shadows = s.twin.shadows.filter fun e => !p e.2
  streams : ∀ x ∈ s.twin.shadows, p x.2 = true → (t.stream x.2.stream).opened = true ∧ x.2.stream ∈ t.twin.adopted
  reqs : ∀ q ∈ s.srv.reqs, q ∈ t.srv.reqs

/-- The streams of the shadows that `p` selects have become live. -/
def State.streamsAdopted (s : State) (p : ShadowRec → Bool) : State :=
  State.each ((s.twin.shadows.map (·.2)).filter p) (fun s r => s.adoptStream r) s
theorem State.streamsAdopted_twin (s : State) (p : ShadowRec → Bool) :
    (s.streamsAdopted p).twin = { s.twin with adopted := (s.streamsAdopted p).twin.adopted } ∧
      (s.streamsAdopted p).srv.reqs = s.srv.reqs :=
  State.each_holds (P := fun t => t.twin = { s.twin with adopted := t.twin.adopted } ∧ t.srv.reqs = s.srv.reqs)
    (fun t r _ ⟨twin, reqs⟩ => by
      obtain ⟨adopted, same, -, -⟩ := t.adoptStream_adopts r
      exact ⟨by rw [adopted, twin], same.trans reqs⟩) ⟨rfl, rfl⟩
theorem State.streamsAdopted_streams {p : ShadowRec → Bool} {x : Nat × ShadowRec} (listed : x ∈ s.twin.shadows)
    (chosen : p x.2 = true) : ((s.streamsAdopted p).stream x.2.stream).opened = true ∧
      x.2.stream ∈ (s.streamsAdopted p).twin.adopted := by
  have mine : x.2 ∈ (s.twin.shadows.map (·.2)).filter p := List.mem_filter.mpr ⟨List.mem_map_of_mem listed, chosen⟩
  refine State.each_visits (fun t => (t.stream x.2.stream).opened = true ∧ x.2.stream ∈ t.twin.adopted) mine
    (fun t r ⟨opened, adopted⟩ => ?_) (fun t => ?_) s
  · obtain ⟨twin, -, own, other⟩ := t.adoptStream_adopts r
    refine ⟨?_, by rw [twin]; exact .tail _ adopted⟩
    rcases eq_or_ne x.2.stream r.stream with same | ne
    · rwa [same]
    · rwa [other _ ne]
  · obtain ⟨twin, -, own, -⟩ := t.adoptStream_adopts x.2
    exact ⟨own, by rw [twin]; exact .head _⟩

/-- The records of the shadow and of the requests handed over that `p` selects. -/
def State.adopted (s : State) (p : ShadowRec → Bool) : List ShadowRec :=
  (s.twin.shadows.map (·.2)).filter p ++ s.twin.forwarded.filter p
/-- The streams that `p` selects are live and their requests have been placed. -/
def State.requestsPlaced (s : State) (p : ShadowRec → Bool) : State × List Request :=
  (s.streamsAdopted p).placeAll (s.adopted p)
/-- A request waits on a context that adopts, behind what is adopted. -/
def State.stepsBack (s : State) (p : ShadowRec → Bool) (ahead : Bool) (q : Request) : Bool :=
  ahead && q.state == 0 && ((s.adopted p).map (·.context)).contains q.ctx
theorem State.adopt_eq (s : State) (p : ShadowRec → Bool) (ahead : Bool) : s.adopt p ahead =
    { (s.requestsPlaced p).1 with
      srv := { (s.requestsPlaced p).1.srv with
        reqs := (s.requestsPlaced p).1.srv.reqs.filter (fun q => !s.stepsBack p ahead q) ++ (s.requestsPlaced p).2 ++
          (s.requestsPlaced p).1.srv.reqs.filter (s.stepsBack p ahead) }
      twin := { (s.requestsPlaced p).1.twin with
        shadows := (s.requestsPlaced p).1.twin.shadows.filter (fun e => !p e.2)
        forwarded := (s.requestsPlaced p).1.twin.forwarded.filter (fun r => !p r)
        blocks := if ahead then (s.requestsPlaced p).1.twin.blocks else [] } } := rfl

theorem State.adopt_adopts (s : State) (p : ShadowRec → Bool) (ahead : Bool) : s.Adopts p (s.adopt p ahead) := by
  obtain ⟨next, dropped, placed⟩ := State.placeAll_places (s.adopted p) (s.streamsAdopted p)
  obtain ⟨twin, reqs⟩ := s.streamsAdopted_twin p
  have is : (s.requestsPlaced p).1 = { s.streamsAdopted p with
      srv := { (s.streamsAdopted p).srv with nextReq := next }
      twin := { (s.streamsAdopted p).twin with dropped := dropped } } := placed
  rw [State.adopt_eq, is]
  refine ⟨by rw [twin], by rw [twin], by rw [twin], fun x listed chosen => State.streamsAdopted_streams listed chosen,
    fun q listed => ?_⟩
  rw [reqs, List.append_assoc, List.mem_append, List.mem_append, List.mem_filter, List.mem_filter]
  cases back : s.stepsBack p ahead q
  · exact .inl ⟨listed, rfl⟩
  · exact .inr (.inr ⟨listed, rfl⟩)

/-- A peer that leaves, or that is lost with ADOPT set, has its whole shadow adopted. -/
theorem State.peerGone_adopts {always : Bool} (paired : s.twin.state = 1) (adopts : always = true ∨ s.twin.adopt = true) :
    s.peerGone always = (s.adopt (fun _ => true) false).unpair 2 := by
  have all : (s.twin.adopt || always) = true := by rwa [Bool.or_comm, Bool.or_eq_true]
  exact (if_neg (by rw [paired]; decide)).trans (if_pos all)
theorem State.peerGone_keepsShadow (paired : s.twin.state = 1) (clear : s.twin.adopt = false) :
    s.peerGone false = { s with twin := { s.twin with state := 3, dirty := [], blocks := [] } } :=
  (if_neg (by rw [paired]; decide)).trans (if_neg (by rw [clear]; decide))
theorem exec_peerLost (up : s.up = true) (paired : s.twin.state = 1) (silent : 8192 ≤ s.clk.elapsed - s.twin.lastBeat) :
    exec .peerLost s = .next (s.peerGone false) :=
  congrArg Host.Outcome.next (if_pos (by rw [up, paired, decide_eq_true silent]; rfl))
theorem exec_depart {port : Fin 36} (up : s.up = true) (twin : 32 ≤ port.val) : exec (.depart port) s = .next (s.peerGone true) :=
  congrArg Host.Outcome.next (if_pos (by rw [up, decide_eq_true twin]; rfl))
theorem exec_handover {port : Fin 36} {c : Fin 256} {h : BitVec 64} (up : s.up = true) (twin : 32 ≤ port.val)
    (shadowed : s.shadows c.val = true) : exec (.handover port c h) s = .next (s.adopt (fun r => r.context == c.val) true) :=
  congrArg Host.Outcome.next (if_pos (by rw [up, decide_eq_true twin, shadowed]; rfl))

/-! ## The end of a pairing (R310) -/

theorem State.dropShadow_pagesOnly (s : State) (r : ShadowRec) : s.PagesOnly (s.dropShadow r) :=
  (State.PagesOnly.each (.refl s) fun t _ h => h.trans (t.unmapPage_pagesOnly ..)).write ..
/-- Detaching unmaps the shadow and ends the pairing, and changes nothing else. -/
theorem State.detach_detaches (s : State) : s.detach.twin.state = 0 ∧ s.detach.twin.shadows = [] ∧
    s.detach.twin.contexts = [] ∧ s.detach.twin.adopted = s.twin.adopted ∧
    s.detach = { s with mem := s.detach.mem, kvt := s.detach.kvt, twin := s.detach.twin } := by
  obtain ⟨mem, unpublished, arrived, same⟩ : s.PagesOnly (State.each (s.twin.shadows.map (·.2)) (fun s r => s.dropShadow r) s) :=
    State.PagesOnly.each (.refl s) fun t r h => h.trans (t.dropShadow_pagesOnly r)
  rw [State.detach, same]
  exact ⟨rfl, rfl, rfl, rfl, rfl⟩
theorem exec_detach {port : Fin 36} (up : s.up = true) (twin : 32 ≤ port.val) (held : s.twin.state = 1 ∨ s.twin.state = 3) :
    exec (.detach port) s = .next s.detach := by
  have ends : (s.twin.state == 1 || s.twin.state == 3) = true := by simpa using held
  exact congrArg Host.Outcome.next (if_pos (by rw [up, decide_eq_true twin, ends]; rfl))
theorem exec_twinDetach (waits : s.awaits m.val 0x4017) : exec (.twinDetach m) s = .next
    (if s.twin.state = 1 ∨ s.twin.state = 3 then ((s.sendTwin 0x12 s.clk.pick 0).detach).complete m.val 0 []
      else s.complete m.val 0x11 []) :=
  congrArg Host.Outcome.next (State.command_done waits _)

theorem State.pairRefused_iff (s : State) (m : Nat) (b : Mailbox) (cs : List Nat) (peer : PeerView) :
    s.pairRefused m b cs peer = false ↔ pastXfer m b (b.arg2 1) 32 = false ∧ b.arg 0 ≤ 1 ∧ b.arg 3 ≤ 1 ∧ s.twin.state ≠ 1 ∧
      s.twinPorts ≠ [] ∧ peer.side ≠ b.arg 0 ∧ peer.profile = arithProfile ∧ peer.fwForm = s.fwForm ∧
      (∀ c ∈ cs, s.pairable peer c = true) ∧ (∀ c ∈ cs, s.inHalf c (b.arg 0) = true) ∧ peer.ownHalves = true ∧
      s.time.role ≠ 0 ∧ peer.leader = s.timeLeader ∧
      (s.time.state = 1 ∨ s.time.state = 2) ∧ (peer.timeState = 1 ∨ peer.timeState = 2) := by
  simp only [State.pairRefused, Bool.or_eq_false_iff, decide_eq_false_iff_not, not_or, not_lt, beq_eq_false_iff_ne, ne_eq,
    List.isEmpty_eq_false_iff, bne_eq_false_iff_eq, Bool.not_eq_false', List.all_eq_true, Bool.and_eq_true, Bool.or_eq_true,
    beq_iff_eq, and_assoc]
end Sys2Proof.Machine

open Sys2Proof Sys2Proof.Machine

/-- Settles O57: each command of the pair by its equation, the adoption by what it keeps of the requests and of the pairing. -/
theorem twinPair : Obligations.TwinPair := by
  unfold Obligations.TwinPair
  refine ⟨fun s m bitmap peer waits => ?_, fun s up paired due => ?_, fun s port up twin paired => ?_,
    fun s u p awake paired dirty port => ?_, fun s r awake shadowed => ⟨fun pending => ?_, fun whole => ?_⟩,
    fun s cmd up paired gone => ⟨fun adopts => ?_, fun lost clear => ?_⟩,
    fun s m waits => ⟨fun held => ?_, fun single kept => ?_⟩, fun s port up twin held => ?_, fun s port c h up twin shadowed => ?_⟩
  · intro b cs side ok
    have agrees : s.pairRefused m.val b cs peer = false ↔ ok := s.pairRefused_iff ..
    have ran := exec_twinPair (bitmap := bitmap) (peer := peer) waits
    dsimp only at ran
    by_cases refused : s.pairRefused m.val b cs peer = true
    · rw [if_pos refused] at ran
      refine yields_of ran ⟨rfl, fun _ => ⟨s.complete_completes .., rfl⟩, fun formed => ?_⟩
      exact absurd refused (Bool.eq_false_iff.mp (agrees.mpr formed))
    · rw [if_neg refused] at ran
      refine yields_of ran ⟨rfl, fun not => absurd (agrees.mp (Bool.eq_false_iff.mpr refused)) not, fun _ => ⟨?_, rfl⟩⟩
      exact State.completes_after (by rfl) (by rfl) ..
  · exact yields_of (exec_heartbeatSend up paired due) ⟨(s.sendOn_out ..).2, s.sendOn_frame ..⟩
  · exact exec_heartbeat up twin paired
  · obtain ⟨twin, out⟩ := State.sendShadow_sends port
    refine yields_of (exec_shadowRecordSend awake paired dirty) ⟨?_, fun k changed => ?_, fun d => ?_, ?_⟩
    · rw [out]
      exact .head _
    · rw [out]
      exact .tail _ (State.blocksSent_out p changed)
    · rw [twin]
      simp [Twin.streamSent]
    · rw [twin]
      exact Tab.getD_put_same ..
  · exact exec_shadowRecord_pending awake shadowed pending
  · exact yields_of (exec_shadowRecord awake shadowed whole) (s.applyShadow_holds r)
  · have ran : exec cmd s = .next ((s.adopt (fun _ => true) false).unpair 2) := by
      rcases gone with ⟨rfl, silent⟩ | ⟨p, rfl, twin⟩
      · exact (exec_peerLost up paired silent).trans
          (congrArg _ (State.peerGone_adopts paired (.inr (adopts.resolve_left fun ne => ne rfl))))
      · exact (exec_depart up twin).trans (congrArg _ (State.peerGone_adopts paired (.inl rfl)))
    have adopted := s.adopt_adopts (fun _ => true) false
    exact yields_of ran ⟨rfl, rfl, rfl, fun x listed => (adopted.streams x listed rfl).1, adopted.reqs⟩
  · subst lost
    obtain ⟨_, silent⟩ | ⟨p, no, _⟩ := gone
    · exact (exec_peerLost up paired silent).trans (congrArg _ (State.peerGone_keepsShadow paired clear))
    · cases no
  · have ran := exec_twinDetach waits
    rw [if_pos held] at ran
    obtain ⟨state, shadows, contexts, -, frame⟩ := (s.sendTwin 0x12 s.clk.pick 0).detach_detaches
    have sent : (s.sendTwin 0x12 s.clk.pick 0).detach.out = (s.sendTwin 0x12 s.clk.pick 0).out := by rw [frame]
    have kept := s.sendTwin_sends 0x12 s.clk.pick 0
    refine yields_of ran ⟨State.completes_after ?_ ?_ .., state, shadows, contexts, fun p listed => ?_⟩
    · rw [frame]
      exact kept.same .mbx (by decide)
    · rw [frame]
      exact kept.same .clk (by decide)
    · rw [State.complete_eq, sent]
      refine .tail _ ?_
      exact (s.sendOn_out ..).2 p listed
  · have ran := exec_twinDetach waits
    rw [if_neg (not_or.mpr ⟨single, kept⟩)] at ran
    exact yields_refused ran
  · exact yields_of (exec_detach up twin held) s.detach_detaches
  · have adopted := s.adopt_adopts (fun r => r.context == c.val) true
    have paired : s.twin.state = 1 := by
      have both := shadowed
      rw [State.shadows, Bool.and_eq_true, beq_iff_eq] at both
      exact both.1
    refine yields_of (exec_handover up twin shadowed) ⟨adopted.state.trans paired, adopted.contexts,
      fun x listed mine => adopted.streams x listed (by simpa using mine), fun x => ?_, adopted.reqs⟩
    rw [adopted.shadows]
    simp
end

section
/-! Faults: what a fault declared against a domain leaves of its log entry and of the domain, and what cutting a context leaves of it. -/

-- one proof at a time: side by side, their stacks and heaps do not fit beside the rest of the text
set_option Elab.async false

namespace Sys2Proof.Machine

variable {s t u : State} {B : List Block} {c kind idx det : Nat}

theorem Keeps.mono {B' : List Block} (h : Keeps B s t) (hB : B ⊆ B') : Keeps B' s t :=
  ⟨h.queue, h.wf, fun b out => h.same b fun listed => out (hB listed)⟩

/-! ## Declaring (R312) -/

theorem Keeps.domain_eq (h : Keeps B s t) (hb : Block.domains ∉ B) (k i : Nat) : t.domain k i = s.domain k i := by
  have same : t.rcv.domains = s.rcv.domains := h.same .domains hb
  rw [State.domain, same, State.domain]
theorem State.storm_logSeq (s : State) (e : LogEntry) : (s.storm e).rcv.logSeq = s.rcv.logSeq := by
  unfold State.storm
  dsimp only
  split
  · rfl
  · unfold State.alertStorm
    split <;> rfl
theorem State.notify_sends (s : State) (e : LogEntry) : Keeps [.relayed, .ports, .out] s (s.notify e) :=
  State.notify_keeps (.refl s) (by decide) e
theorem State.declare_logSeq (s : State) (k i d : Nat) : (s.declare k i d).rcv.logSeq = s.rcv.logSeq + 1 := by
  rw [State.declare, ((State.notify_sends _ _).log_eq (by decide)).2, State.storm_logSeq]
  rfl
theorem State.declareEcho_logSeq (s : State) (k i d : Nat) : (s.declareEcho k i d).rcv.logSeq = s.rcv.logSeq + 1 := by
  rw [State.declareEcho, ((State.notify_sends _ _).log_eq (by decide)).2]
  rfl
/-- Declaring a fault logs, opens or feeds a storm, and sends; nothing else changes. -/
theorem State.declare_tells (s : State) (k i d : Nat) :
    Keeps [.log, .storm, .relayed, .marks, .alerts, .ports, .out] s (s.declare k i d) := State.declare_keeps (.refl s) (by decide) ..
theorem State.declareEcho_tells (s : State) (k i d : Nat) :
    Keeps [.log, .storm, .relayed, .ports, .out] s (s.declareEcho k i d) := State.declareEcho_keeps (.refl s) (by decide) ..

/-! ## F1 (R293) -/

/-- The drain limit of a domain that is fenced now: 64 picks past the end of its last flight, but no later than 65,536 picks on. -/
def State.drainLimit (s : State) (kind idx : Nat) : Nat :=
  let ends := (s.flights kind idx).map (fun r => s.stepEndPick r.ctx (s.stepAt r.ctx r.list r.idx) r.iter)
  if ends.isEmpty then s.clk.pick + 16 else min (maxNat 0 ends + 64) (s.clk.pick + 65536)
theorem State.drainLimit_le (s : State) (kind idx : Nat) : s.drainLimit kind idx ≤ s.clk.pick + 65536 := by
  unfold State.drainLimit
  dsimp only
  split
  · omega
  · exact min_le_right _ _
/-- A domain that a fence counts, with its limit. -/
theorem State.fence_limits (s : State) (k i d o q : Nat) :
    ((s.fence k i d o q).domain k i).total = min 0xFFFF ((s.domain k i).total + 1) ∧
      ((s.fence k i d o q).domain k i).drainBy = s.drainLimit k i := by
  unfold State.fence
  dsimp only
  generalize hx : State.modDomain s k i _ = u
  have marked : (u.domain k i).total = min 0xFFFF ((s.domain k i).total + 1) ∧ (u.domain k i).drainBy = s.drainLimit k i := by
    subst hx
    rw [State.modDomain_domain]
    exact ⟨rfl, rfl⟩
  have drops : Keeps [.mbx, .mem, .heddles, .harnesses, .kvt, .ctxs, .sched, .rings, .streams, .reqs, .cuts, .relayed, .ports,
      .obs, .out] u u.suppressDue := State.suppressDue_keeps (.refl u) (by decide)
  have cuts (l : List Nat) := State.each_keeps (l := l) (f := fun s c => s.gstop c 0 true) drops fun _ _ h =>
    State.gstop_keeps h (by decide) ..
  split
  · rwa [(cuts _).domain_eq (by decide)]
  · split
    · rwa [(cuts _).domain_eq (by decide)]
    · rwa [drops.domain_eq (by decide)]

/-- From `s` to `t` a fault with detector `det` has been charged to a domain (R290, R291, R293). -/
def State.Fences (s t : State) (kind idx det : Nat) : Prop :=
  s.logged t kind idx det ∧ t.rcv.logSeq = s.rcv.logSeq + 1 ∧
  (s.troubled kind idx = true → t.domain kind idx = s.domain kind idx) ∧
  (s.troubled kind idx = false →
    let d := t.domain kind idx
    d.phase = 2 ∧ d.detector = det ∧ d.originPick = s.clk.pick ∧ d.fencePick = s.clk.pick ∧ d.logSeq = s.rcv.logSeq ∧
    d.total = min 0xFFFF ((s.domain kind idx).total + 1) ∧ d.drainBy ≤ s.clk.pick + 65536)

theorem State.fault_of_troubled (hk : kind ≠ 0xB) (recovering : s.troubled kind idx = true) (det : Nat) :
    s.fault kind idx det = s.declareEcho kind idx det := (if_neg hk).trans (if_pos recovering)
theorem State.fault_of_free (hk : kind ≠ 0xB) (free : s.troubled kind idx = false) (det : Nat) :
    s.fault kind idx det = (s.declare kind idx det).fence kind idx det s.clk.pick s.rcv.logSeq :=
  (if_neg hk).trans (if_neg (Bool.eq_false_iff.mp free))
theorem State.fault_fences (hk : kind ≠ 0xB) (s : State) (idx det : Nat) : s.Fences (s.fault kind idx det) kind idx det := by
  refine ⟨s.fault_logged kind idx det (.inl hk), ?_, fun recovering => ?_, fun free => ?_⟩
  · rcases Bool.eq_false_or_eq_true (s.troubled kind idx) with recovering | free
    · rw [State.fault_of_troubled hk recovering, State.declareEcho_logSeq]
    · have fenced : Keeps [.mbx, .mem, .heddles, .harnesses, .kvt, .ctxs, .sched, .rings, .streams, .reqs, .domains, .cuts, .relayed,
          .ports, .obs, .out] (s.declare kind idx det) (s.fault kind idx det) := by
        rw [State.fault_of_free hk free]
        exact State.fence_keeps (.refl _) (by decide) ..
      rw [(fenced.log_eq (by decide)).2, State.declare_logSeq]
  · rw [State.fault_of_troubled hk recovering, (s.declareEcho_tells kind idx det).domain_eq (by decide)]
  · have tells := s.declare_tells kind idx det
    have clk : (s.declare kind idx det).clk = s.clk := tells.same .clk (by decide)
    have domain := tells.domain_eq (by decide) kind idx
    rw [State.fault_of_free hk free]
    obtain ⟨phase, detector, origin, fenced, seq⟩ := (s.declare kind idx det).fence_domain kind idx det s.clk.pick s.rcv.logSeq
    obtain ⟨total, limit⟩ := (s.declare kind idx det).fence_limits kind idx det s.clk.pick s.rcv.logSeq
    have within := (s.declare kind idx det).drainLimit_le kind idx
    rw [clk] at fenced within
    rw [domain] at total
    exact ⟨phase, detector, origin, fenced, seq, total, by rw [limit]; exact within⟩
theorem State.logged_of_keeps (k : Keeps B s u) (hb : Block.log ∉ B ∧ Block.clk ∉ B) (h : u.logged t kind idx det) :
    s.logged t kind idx det := by
  have clk : u.clk = s.clk := k.same .clk hb.2
  unfold State.logged at *
  rwa [(k.log_eq hb.1).2, clk] at h
/-- What changes before a fault is charged does not matter to it, unless it is the log, the clock or the domains. -/
theorem State.Fences.of_keeps (f : u.Fences t kind idx det) (k : Keeps B s u)
    (hb : Block.log ∉ B ∧ Block.domains ∉ B ∧ Block.clk ∉ B) : s.Fences t kind idx det := by
  obtain ⟨hlog, hdomains, hclk⟩ := hb
  obtain ⟨logged, seq, recovering, free⟩ := f
  have clk : u.clk = s.clk := k.same .clk hclk
  have logSeq := (k.log_eq hlog).2
  rw [k.troubled_eq hdomains, k.domain_eq hdomains] at recovering free
  rw [clk, logSeq] at free
  exact ⟨State.logged_of_keeps k ⟨hlog, hclk⟩ logged, seq.trans (by rw [logSeq]), recovering, free⟩

/-! ## Detectors -/

theorem exec_memoryTimeout {ch : Fin 768} (up : s.awake = true) : exec (.memoryTimeout ch) s = .next (s.fault 5 ch.val 5) :=
  congrArg Host.Outcome.next (if_pos up)
theorem exec_tierTimeout {tier : Fin 32} (up : s.awake = true) : exec (.tierTimeout tier) s = .next (s.fault 8 tier.val 6) :=
  congrArg Host.Outcome.next (if_pos up)
theorem exec_sequencerFault {l : Fin 4} (up : s.awake = true) : exec (.sequencerFault l) s = .next (s.fault 9 l.val 7) :=
  congrArg Host.Outcome.next (if_pos up)
theorem exec_hubWatchdog {f : Fin 8} (up : s.up = true) : exec (.hubWatchdog f) s = .next (s.fault 0xA f.val 8) :=
  congrArg Host.Outcome.next (if_pos up)
theorem exec_weaverHeartbeat (up : s.ready = true) : exec .weaverHeartbeat s = .next (s.fault 0xA 0 9) :=
  congrArg Host.Outcome.next (if_pos up)
theorem exec_sramUncorrectable (up : s.up = true) : exec .sramUncorrectable s = .next ((s.eccUncorrected 28).fault 0xA 0 0xB) :=
  congrArg Host.Outcome.next (if_pos up)
theorem exec_mailboxTimeout {m : Fin 16} {w : Nat} (up : s.booted = true) (limit : s.limitFrom (s.mailbox m.val) = some w)
    (busy : (s.mailbox m.val).busy = true) (past : mailboxLimit (s.mailbox m.val) ≤ s.clk.wall - w) :
    exec (.mailboxTimeout m) s = .next (s.fault 0xA 0 0xA) := by
  refine congrArg Host.Outcome.next ?_
  dsimp only
  rw [limit]
  exact if_pos (by rw [up, busy, decide_eq_true past]; rfl)

/-! ## RESET of a harness (R71) -/

/-- The harness waits for its reset. -/
def Harness.resetMarked (x : Harness) (now : Nat) : Harness := { x with resetBit := true, setAt := note x.setAt 8 now }
theorem State.harnessReset_eq (s : State) (h : Nat) :
    s.harnessReset h = (s.modHarness h fun x => x.resetMarked s.clk.elapsed).fault 1 h 0xD := rfl
theorem State.modHarness_marks (s : State) (h : Nat) (f : Harness → Harness) : Keeps [.harnesses] s (s.modHarness h f) :=
  State.modHarness_keeps (.refl s) (by decide) ..
/-- A fault that is charged to a harness leaves the harnesses as they are. -/
theorem State.harnessFault_harnesses (s : State) (h det : Nat) : (s.fault 1 h det).arr.harnesses = s.arr.harnesses := by
  rcases Bool.eq_false_or_eq_true (s.troubled 1 h) with recovering | free
  · rw [State.fault_of_troubled (by decide) recovering]
    exact (s.declareEcho_tells 1 h det).same .harnesses (by decide)
  · rw [State.fault_of_free (by decide) free]
    refine Eq.trans ?_ ((s.declare_tells 1 h det).same .harnesses (by decide))
    exact (State.suppressDue_keeps (B := [.mem, .kvt, .ctxs, .sched, .ports, .obs, .out]) (.refl _) (by decide)).same .harnesses
      (by decide)
theorem State.harnessReset_resets (s : State) (h : Nat) :
    s.Fences (s.harnessReset h) 1 h 0xD ∧ ((s.harnessReset h).harness h).resetBit = true := by
  rw [State.harnessReset_eq]
  refine ⟨(State.fault_fences (by decide) ..).of_keeps (s.modHarness_marks h _) (by decide), ?_⟩
  rw [State.harness, State.harnessFault_harnesses]
  show ((s.modHarness h _).harness h).resetBit = true
  rw [State.modHarness_harness]
  rfl

/-! ## Steps that have left (R294) -/

theorem State.dropTag_runs (s : State) (d : Due) (supp : Bool) : (s.dropTag d supp).sched.runs = s.sched.runs := by
  have drawn : (s.tagDraw d.ctx d.list (s.stepAt d.ctx d.list d.idx).kind).2.sched.runs = s.sched.runs := by
    rw [State.tagDraw_frame]
  unfold State.dropTag
  dsimp only
  split
  · rw [(State.tagQueue_keeps (B := [.obs]) (.refl _) (by decide) _).same .sched (by decide), drawn]
  · exact drawn
theorem State.dropDue_runs (s : State) (p : Due → Bool) : (s.dropDue p false).sched.runs = s.sched.runs := by
  unfold State.dropDue
  simp only [Bool.false_eq_true, if_false]
  show (State.each _ _ _).sched.runs = _
  refine State.each_holds (P := fun t => t.sched.runs = s.sched.runs) (fun t d _ same => ?_) rfl
  have stalls : Keeps [.obs] t (t.voidStalls d) := State.voidStalls_keeps (.refl t) (by decide) d
  rw [State.dropTag_runs, stalls.same .sched (by decide), same]
theorem State.disableCtx_runs (s : State) (c : Nat) : (s.disableCtx c).sched.runs = s.sched.runs := by
  rw [State.disableCtx_eq, State.settleDisabled_sched, State.modCtx_sched]
  exact s.dropDue_runs _
theorem State.cutSettle_runs (s : State) (c : Nat) : (s.cutSettle c).sched.runs = s.sched.runs := by
  unfold State.cutSettle
  split
  · exact s.disableCtx_runs c
  · rfl
theorem State.check_sched (s : State) (c k : Nat) (f : Check → Check) : (s.check c k f).sched = s.sched :=
  State.each_holds (P := fun t => t.sched = s.sched) (fun t _ _ same => (t.modCtx_sched c _).trans same) rfl
/-- A step that is abandoned is no longer among those that run. -/
theorem State.abandon_runs (s : State) (r : Run) : (s.abandon r).sched.runs =
    s.sched.runs.filter (fun x => !(sameRun r.ctx r.list r.idx x && x.iter == r.iter)) := by
  unfold State.abandon
  dsimp only
  show (State.runTag _ r true none).sched.runs = _
  rw [(State.runTag_keeps (B := [.obs]) (.refl _) (by decide) ..).same .sched (by decide),
    State.check_sched, State.setOf_runs]
  rfl
theorem State.abandon_cutSettle_keeps (s : State) (r : Run) (c : Nat) :
    Keeps [.mbx, .mem, .heddles, .harnesses, .kvt, .ctxs, .sched, .streams, .reqs, .ports, .obs, .out] s ((s.abandon r).cutSettle c) :=
  State.cutSettle_keeps (State.abandon_keeps (.refl s) (by decide) r) (by decide) c

theorem stepDomain_ne_module (l : Nat) (st : PlanStep) : (stepDomain l st).1 ≠ 0xB := by
  unfold stepDomain
  split_ifs <;> simp
/-- An overrun is never charged to the whole module. -/
theorem overrunDomain_ne_module (r : Run) (st : PlanStep) : (overrunDomain r st).1 ≠ 0xB := by
  unfold overrunDomain
  split_ifs
  · exact stepDomain_ne_module r.list st
  · exact (by decide : 7 ≠ 0xB)
  · exact (by decide : 9 ≠ 0xB)
  · exact (by decide : 9 ≠ 0xB)
/-- The fault of an overrun; in a cut context there is none. -/
def State.overrunFault (s : State) (c : Nat) (d : Nat × Nat) : State := if (s.ctx c).ctl.cut then s else s.fault d.1 d.2 1
theorem exec_overrun {c : Fin 256} {l : Fin 5} {i : BitVec 18} {r : Run} (up : s.up = true)
    (found : s.sched.runs.find? (fun r => sameRun c.val l.val i.toNat r) = some r)
    (past : r.began + (s.stepAt r.ctx r.list r.idx).len + 64 ≤ s.clk.pick)
    (free : s.suppresses r.ctx r.list (s.stepAt r.ctx r.list r.idx) = false) : exec (.overrun c l i) s = .next
      (((s.overrunFault c.val (overrunDomain r (s.stepAt r.ctx r.list r.idx))).abandon r).cutSettle c.val) := by
  refine congrArg Host.Outcome.next ?_
  dsimp only
  rw [found]
  exact if_pos (by rw [up, decide_eq_true past, free]; rfl)

/-! ## A cut context (R304, R305) -/

/-- The context has been cut: it is Disabled, or it stops and no step of it starts. -/
def Ctx.CutOff (x : Ctx) : Prop := x.ctl.state = 0 ∨ (x.ctl.state = 5 ∧ x.ctl.cut = true)
/-- The context runs iterations and has not been cut. -/
def Ctx.Uncut (x : Ctx) : Prop := (x.ctl.state = 4 ∨ x.ctl.state = 5) ∧ x.ctl.cut = false

theorem State.disableCtx_only (s : State) (c : Nat) : s.CtxOnly c (s.disableCtx c) := ⟨rfl, (s.disableCtx_disabled c).other⟩
theorem State.cutSettle_only (s : State) (c : Nat) : s.CtxOnly c (s.cutSettle c) := by
  unfold State.cutSettle
  split
  · exact s.disableCtx_only c
  · exact .refl s
theorem State.cutSettle_cutOff (off : (s.ctx c).CutOff) : ((s.cutSettle c).ctx c).CutOff := by
  unfold State.cutSettle
  split
  · exact .inl (s.disableCtx_disabled c).state
  · exact off
theorem State.cutSettle_reqs (s : State) (c : Nat) : ∀ q ∈ (s.cutSettle c).srv.reqs, q ∈ s.srv.reqs := by
  unfold State.cutSettle
  split
  · exact (s.disableCtx_disabled c).reqs
  · exact fun _ h => h

/-- ERR_GSTOP names the context and the cause. -/
def State.noteCut (s : State) (c cause : Nat) : State :=
  { s with rcv := { s.rcv with cutCtx := c, cutCause := cause, cutValid := true, cuts := satAdd max16 s.rcv.cuts 1 } }
/-- The admitted requests of the context end with 0x42, where records are written. -/
def State.endCut (s : State) (c : Nat) (records : Bool) : State :=
  if records then State.each (s.admitted c) (fun s q => s.finish q 0x42 s.clk.pick) s else s
/-- No step of the context waits any longer. -/
def State.dropWaiting (s : State) (c : Nat) : State :=
  let t := s.dropDue (fun d => d.ctx == c) false
  { t with sched := { t.sched with due := t.sched.due.filter (fun d => d.ctx != c) } }
/-- A cut up to the mark in the context itself. -/
def State.cutBegun (s : State) (c cause : Nat) (records : Bool) : State := ((s.noteCut c cause).endCut c records).dropWaiting c
def CtxCtl.cutOff (k : CtxCtl) : CtxCtl := { k with state := 5, cut := true }

theorem State.cut_of_uncut (runs : (s.ctx c).Uncut) (cause : Nat) (records : Bool) :
    s.cut c cause records = ((s.cutBegun c cause records).modCtl c CtxCtl.cutOff).cutSettle c := by
  obtain ⟨state, whole⟩ := runs
  refine (if_neg ?_).trans (if_neg ?_)
  · rw [whole]
    simp only [Bool.false_eq_true, false_or]
    omega
  · omega
theorem State.cut_of_cutOff (off : (s.ctx c).CutOff) (cause : Nat) (records : Bool) : s.cut c cause records = s :=
  if_pos (off.elim .inr fun stops => .inl stops.2)
/-- Whatever its state was, a context that is to be cut stays, goes to Disabled at once, or is marked and settles. -/
theorem State.cut_cases (s : State) (c cause : Nat) (records : Bool) : s.cut c cause records = s ∨
    s.cut c cause records = s.disableCtx c ∨
    s.cut c cause records = ((s.cutBegun c cause records).modCtl c CtxCtl.cutOff).cutSettle c := by
  unfold State.cut
  dsimp only
  split
  · exact .inl rfl
  · split
    · exact .inr (.inl rfl)
    · exact .inr (.inr rfl)

theorem State.noteCut_keeps (s : State) (c cause : Nat) : Keeps [.cuts] s (s.noteCut c cause) := by
  rw [State.noteCut, State.mk_eq]
  apply Keeps.upd (.refl s) (fun w => w) <;> first | exact .inr rfl | exact .inl (by decide)
theorem State.endCut_keeps (s : State) (c : Nat) (records : Bool) : Keeps [.rings, .reqs] s (s.endCut c records) :=
  Keeps.ite (State.each_keeps (.refl s) fun t q h => State.finish_keeps h (by decide) q 0x42 t.clk.pick) (.refl s)
theorem State.dropWaiting_keeps (s : State) (c : Nat) : Keeps [.sched, .obs] s (s.dropWaiting c) := by
  rw [State.dropWaiting, State.mk_eq]
  apply Keeps.upd (s.dropDue_keeps_observed _) (fun w => w) <;> first | exact .inr rfl | exact .inl (by decide)
theorem State.cutBegun_after_note (s : State) (c cause : Nat) (records : Bool) :
    Keeps [.sched, .obs, .rings, .reqs] (s.noteCut c cause) (s.cutBegun c cause records) :=
  (((s.noteCut c cause).endCut_keeps c records).mono (by decide)).trans ((State.dropWaiting_keeps _ c).mono (by decide))
theorem State.cutBegun_keeps (s : State) (c cause : Nat) (records : Bool) :
    Keeps [.sched, .obs, .rings, .reqs, .cuts] s (s.cutBegun c cause records) :=
  ((s.noteCut_keeps c cause).mono (by decide)).trans ((s.cutBegun_after_note c cause records).mono (by decide))

theorem State.cut_only (s : State) (c cause : Nat) (records : Bool) : s.CtxOnly c (s.cut c cause records) := by
  rcases s.cut_cases c cause records with same | disabled | marked
  · rw [same]
    exact .refl s
  · rw [disabled]
    exact s.disableCtx_only c
  · rw [marked]
    refine State.CtxStays.trans ?_ (State.cutSettle_only _ c)
    exact State.modCtl_only _ ((s.cutBegun_keeps c cause records).ctxStays (by decide) (.refl s))
theorem State.cut_cutOff (runs : (s.ctx c).Uncut) (cause : Nat) (records : Bool) : ((s.cut c cause records).ctx c).CutOff := by
  rw [State.cut_of_uncut runs]
  refine State.cutSettle_cutOff (.inr ?_)
  rw [State.modCtl_ctx]
  exact ⟨rfl, rfl⟩
/-- What ERR_GSTOP shows of a cut. -/
theorem State.cut_noted (runs : (s.ctx c).Uncut) (cause : Nat) (records : Bool) :
    (s.cut c cause records).rcv.cutValid = true ∧ (s.cut c cause records).rcv.cutCtx = c ∧
      (s.cut c cause records).rcv.cutCause = cause := by
  rw [State.cut_of_uncut runs]
  have settles : Keeps [.mbx, .mem, .heddles, .harnesses, .kvt, .ctxs, .sched, .streams, .reqs, .ports, .obs, .out]
      ((s.cutBegun c cause records).modCtl c CtxCtl.cutOff)
      (((s.cutBegun c cause records).modCtl c CtxCtl.cutOff).cutSettle c) := State.cutSettle_keeps (.refl _) (by decide) c
  have noted := Eq.trans (settles.same .cuts (by decide)) ((s.cutBegun_after_note c cause records).same .cuts (by decide))
  simp only [Prod.mk.injEq] at noted
  obtain ⟨ctx, cause, valid, -⟩ := noted
  exact ⟨valid, ctx, cause⟩

/-- Every request of the list has come to its end. -/
theorem State.finishAll_reqs (l : List Request) (st : Nat) (s : State) :
    ∀ r ∈ (State.each l (fun s q => s.finish q st s.clk.pick) s).srv.reqs, (r ∈ s.srv.reqs ∧ r ∉ l) ∨ r.state = 4 := by
  induction l generalizing s with
  | nil => exact fun r hr => .inl ⟨hr, List.not_mem_nil⟩
  | cons q l ih =>
    intro r hr
    rcases ih (s.finish q st s.clk.pick) r hr with ⟨found, out⟩ | done
    · rcases s.finish_reqs q st s.clk.pick r found with ⟨was, other⟩ | done
      · exact .inl ⟨was, fun h => (List.mem_cons.mp h).elim (fun eq => other (by rw [eq])) out⟩
      · exact .inr done
    · exact .inr done
theorem State.cut_endsRequests (runs : (s.ctx c).Uncut) (cause : Nat) :
    ∀ q ∈ (s.cut c cause true).srv.reqs, q.ctx = c → q.state ≠ 1 ∧ q.state ≠ 2 ∧ q.state ≠ 3 := by
  rw [State.cut_of_uncut runs]
  intro q listed own
  have was := State.cutSettle_reqs _ c q listed
  have drops := Prod.mk.inj ((((s.noteCut c cause).endCut c true).dropWaiting_keeps c).same .reqs (by decide))
  have ended : q ∈ ((s.noteCut c cause).endCut c true).srv.reqs := drops.1 ▸ was
  rcases State.finishAll_reqs _ 0x42 (s.noteCut c cause) q ended with ⟨held, out⟩ | done
  · by_contra admitted
    exact out (State.mem_admitted.mpr ⟨held, own, by omega⟩)
  · omega

/-! ## GSTOP (R304) -/

theorem State.gstop_of_running (runs : (s.ctx c).ctl.state = 4 ∨ (s.ctx c).ctl.state = 5) (cause : Nat) (records : Bool) :
    s.gstop c cause records = (s.originate c 7 s.clk.pick 0 cause).cut c cause records := if_pos runs
theorem State.gstop_of_idle (idle : ¬ ((s.ctx c).ctl.state = 4 ∨ (s.ctx c).ctl.state = 5)) (cause : Nat) (records : Bool) :
    s.gstop c cause records = s := if_neg idle
theorem State.gstop_only (s : State) (c cause : Nat) (records : Bool) : s.CtxOnly c (s.gstop c cause records) := by
  by_cases runs : (s.ctx c).ctl.state = 4 ∨ (s.ctx c).ctl.state = 5
  · rw [State.gstop_of_running runs]
    exact .trans ((s.originate_sends c 7 s.clk.pick 0 cause).ctxStays (by decide) (.refl s)) (State.cut_only ..)
  · rw [State.gstop_of_idle runs]
    exact .refl s
theorem State.gstop_cuts (s : State) (c cause : Nat) (records : Bool) :
    Keeps [.mbx, .mem, .heddles, .harnesses, .kvt, .ctxs, .sched, .rings, .streams, .reqs, .cuts, .relayed, .ports, .obs, .out] s
      (s.gstop c cause records) := State.gstop_keeps (.refl s) (by decide) ..
theorem State.originate_uncut (runs : (s.ctx c).Uncut) (msg pick arg arg2 : Nat) :
    ((s.originate c msg pick arg arg2).ctx c).Uncut := by rwa [State.originate_ctx]
theorem State.gstop_cutOff (runs : (s.ctx c).Uncut) (cause : Nat) (records : Bool) :
    ((s.gstop c cause records).ctx c).CutOff := by
  rw [State.gstop_of_running runs.1]
  exact State.cut_cutOff (State.originate_uncut runs ..) cause records
theorem State.gstop_stays_cutOff (off : (s.ctx c).CutOff) (cause : Nat) (records : Bool) :
    ((s.gstop c cause records).ctx c).CutOff := by
  by_cases runs : (s.ctx c).ctl.state = 4 ∨ (s.ctx c).ctl.state = 5
  · rw [State.gstop_of_running runs, State.cut_of_cutOff (by rwa [State.originate_ctx]), State.originate_ctx]
    exact off
  · rwa [State.gstop_of_idle runs]
/-- Each context of a list that runs uncut is cut when all of them are. -/
theorem State.gstopAll_cutOff {l : List Nat} (listed : c ∈ l) (runs : (s.ctx c).Uncut) (cause : Nat) (records : Bool) :
    ((State.each l (fun s c => s.gstop c cause records) s).ctx c).CutOff := by
  refine State.each_visited (R := Ctx.CutOff) (fun t d => (t.gstop_cuts d cause records).same .clk (by decide))
    (fun t d e ne => (t.gstop_only d cause records).other e ne) (fun t _ seen => ?_) listed
  rcases seen with same | off
  · exact State.gstop_cutOff (same ▸ runs) cause records
  · exact State.gstop_stays_cutOff off cause records

theorem exec_starved {c : Fin 256} {l : Fin 5} {i : BitVec 18} (up : s.up = true)
    (waits : ∃ d ∈ s.sched.due, sameStep c.val l.val i.toNat d = true ∧ d.void = false ∧ d.voidEnd + 64 ≤ s.clk.pick) :
    exec (.starved c l i) s = .next ((s.declare 0 0 3).gstop c.val 3 true) := by
  obtain ⟨d, listed, same, live, late⟩ := waits
  refine congrArg Host.Outcome.next (if_pos ?_)
  rw [up, Bool.true_and, List.any_eq_true]
  exact ⟨d, listed, by rw [same, live, decide_eq_true late]; rfl⟩

/-! ## The module reset (R302, R308) -/

/-- The pairing ends before F1. -/
def State.departs (s : State) : State :=
  let u := if s.twin.state = 1 then s.sendTwin 0x11 s.clk.pick 0 else s
  if u.twin.state = 0 then u else u.unpair 0
theorem State.departs_single (s : State) : s.departs.twin.state = 0 := by
  unfold State.departs
  extract_lets u
  split
  · assumption
  · rfl
theorem State.departs_keeps (s : State) : Keeps [.twin, .ports, .out] s s.departs := by
  have told : Keeps [.twin, .ports, .out] s (if s.twin.state = 1 then s.sendTwin 0x11 s.clk.pick 0 else s) :=
    Keeps.ite (State.sendTwin_keeps (.refl s) (by decide) ..) (.refl s)
  exact Keeps.ite told (State.unpair_keeps told (by decide) 0)
/-- The reset has been logged and counted. -/
def State.moduleNoted (s : State) (det : Nat) : State := (s.departs.declare 0xB 0 det).countModule
/-- Its Running contexts are cut, without records. -/
def State.moduleCut (s : State) (det : Nat) : State :=
  State.each (s.moduleNoted det).running (fun s c => s.gstop c 0 false) (s.moduleNoted det)
theorem State.moduleReset_of_free (free : (s.domain 0xB 0).phase = 0) (det : Nat) : ∃ knots, s.moduleReset det =
    ((s.moduleCut det).fence 0xB 0 det (s.moduleCut det).clk.pick s.rcv.logSeq).modDomain 0xB 0 fun d => { d with knots := knots } :=
  ⟨_, if_neg (by rw [free]; decide)⟩
theorem State.moduleReset_of_fenced (fenced : (s.domain 0xB 0).phase ≠ 0) (det : Nat) :
    s.moduleReset det = s.declareEcho 0xB 0 det := if_pos (by simpa using fenced)
theorem State.moduleNoted_keeps (s : State) (det : Nat) :
    Keeps [.log, .storm, .modResets, .relayed, .marks, .alerts, .twin, .ports, .out] s (s.moduleNoted det) :=
  State.countModule_keeps (State.declare_keeps (s.departs_keeps.mono (by decide)) (by decide) ..) (by decide)
theorem State.moduleCut_cuts (s : State) (det : Nat) :
    Keeps [.mbx, .mem, .heddles, .harnesses, .kvt, .ctxs, .sched, .rings, .streams, .reqs, .cuts, .relayed, .ports, .obs, .out]
      (s.moduleNoted det) (s.moduleCut det) :=
  State.each_keeps (.refl _) fun _ _ h => State.gstop_keeps h (by decide) ..

theorem State.check_ctl (s : State) (c k : Nat) (f : Check → Check) (d : Nat) : ((s.check c k f).ctx d).ctl = (s.ctx d).ctl := by
  obtain ⟨own, other⟩ := s.check_unslotted c k f
  rcases eq_or_ne d c with rfl | ne
  · have same := congrArg Ctx.ctl own
    exact same
  · rw [other d ne]
/-- The fence of a domain that takes no context with it. -/
theorem State.fence_alone (loom : kind ≠ 9) (hub : ¬ (kind = 0xA ∧ 1 ≤ idx ∧ idx ≤ 4)) (s : State) (det o q : Nat) :
    ∃ f, s.fence kind idx det o q = (s.modDomain kind idx f).suppressDue := ⟨_, (if_neg loom).trans (if_neg hub)⟩
/-- Dropping steps marks the checks of slots, and leaves the contexts' control alone. -/
theorem State.dropDue_ctl (s : State) (p : Due → Bool) (supp : Bool) (d : Nat) :
    ((s.dropDue p supp).ctx d).ctl = (s.ctx d).ctl := by
  have marked (t : State) (x : Due) (f : Check → Check) : ((t.check x.ctx (t.stepAt x.ctx x.list x.idx).slot f).ctx d).ctl =
      (t.ctx d).ctl := t.check_ctl ..
  unfold State.dropDue
  dsimp only
  show ((State.each _ _ _).ctx d).ctl = _
  refine State.each_holds (P := fun t => (t.ctx d).ctl = (s.ctx d).ctl) (fun t x _ same => ?_) rfl
  have tagged : Keeps [.sched, .obs] t ((t.voidStalls x).dropTag x supp) :=
    State.dropTag_keeps (State.voidStalls_keeps (.refl t) (by decide) x) (by decide) ..
  have still : (((t.voidStalls x).dropTag x supp).ctx d).ctl = (s.ctx d).ctl := by rw [tagged.ctx_eq (by decide), same]
  split
  · split
    · rw [(State.setOf_keeps (B := [.mem, .kvt, .sched, .ports, .obs, .out]) (.refl _) (by decide) ..).ctx_eq (by decide),
        State.check_ctl, still]
    · exact (State.check_ctl ..).trans still
  · exact still
theorem State.suppressDue_ctl (s : State) (d : Nat) : (s.suppressDue.ctx d).ctl = (s.ctx d).ctl := s.dropDue_ctl ..

theorem State.setOos_total (s : State) : s.setOos.rcv.modTotal = s.rcv.modTotal := by
  unfold State.setOos
  split
  · rfl
  · rfl
theorem State.countModule_total (s : State) : s.countModule.rcv.modTotal = min 0xFFFF (s.rcv.modTotal + 1) := by
  unfold State.countModule
  extract_lets out l t
  split
  · exact State.setOos_total _
  · rfl
theorem State.moduleNoted_total (s : State) (det : Nat) :
    (s.moduleNoted det).rcv.modTotal = min 0xFFFF (s.rcv.modTotal + 1) := by
  have declared : Keeps [.twin, .log, .storm, .relayed, .marks, .alerts, .ports, .out] s (s.departs.declare 0xB 0 det) :=
    State.declare_keeps (s.departs_keeps.mono (by decide)) (by decide) ..
  have total := (Prod.mk.inj (declared.same .modResets (by decide))).2
  rw [State.moduleNoted, State.countModule_total, total]
/-- After its Running contexts have been cut, a module reset touches no context's control, and neither the pairing nor the counts. -/
theorem State.moduleReset_fences (free : (s.domain 0xB 0).phase = 0) (det : Nat) :
    Keeps [.mem, .kvt, .ctxs, .sched, .domains, .ports, .obs, .out] (s.moduleCut det) (s.moduleReset det) ∧
      (∀ d, ((s.moduleReset det).ctx d).ctl = ((s.moduleCut det).ctx d).ctl) ∧
      ((s.moduleReset det).domain 0xB 0).phase = 2 ∧ ((s.moduleReset det).domain 0xB 0).detector = det := by
  obtain ⟨knots, reset⟩ := State.moduleReset_of_free free det
  obtain ⟨phase, detector, -⟩ := (s.moduleCut det).fence_domain 0xB 0 det (s.moduleCut det).clk.pick s.rcv.logSeq
  obtain ⟨f, alone⟩ := (s.moduleCut det).fence_alone (kind := 0xB) (idx := 0) (by decide) (by decide) det
    (s.moduleCut det).clk.pick s.rcv.logSeq
  have fenced : Keeps [.mem, .kvt, .ctxs, .sched, .domains, .ports, .obs, .out] (s.moduleCut det)
      ((s.moduleCut det).fence 0xB 0 det (s.moduleCut det).clk.pick s.rcv.logSeq) := by
    rw [alone]
    exact State.suppressDue_keeps (State.modDomain_keeps (.refl _) (by decide) ..) (by decide)
  have ctl (d : Nat) : (((s.moduleCut det).fence 0xB 0 det (s.moduleCut det).clk.pick s.rcv.logSeq).ctx d).ctl =
      ((s.moduleCut det).ctx d).ctl := by
    rw [alone]
    exact State.suppressDue_ctl _ d
  generalize (s.moduleCut det).fence 0xB 0 det (s.moduleCut det).clk.pick s.rcv.logSeq = v at *
  rw [reset, State.modDomain_domain]
  exact ⟨State.modDomain_keeps fenced (by decide) .., ctl, phase, detector⟩
theorem State.moduleReset_ends (free : (s.domain 0xB 0).phase = 0) (det : Nat) :
    (s.moduleReset det).twin.state = 0 ∧ (s.moduleReset det).rcv.modTotal = min 0xFFFF (s.rcv.modTotal + 1) := by
  obtain ⟨fenced, -, -, -⟩ := State.moduleReset_fences free det
  have cuts := s.moduleCut_cuts det
  have noted : Keeps [.log, .storm, .modResets, .relayed, .marks, .alerts, .ports, .out] s.departs (s.moduleNoted det) :=
    State.countModule_keeps (State.declare_keeps (.refl _) (by decide) ..) (by decide)
  have twin : (s.moduleReset det).twin = s.departs.twin :=
    (fenced.same .twin (by decide)).trans ((cuts.same .twin (by decide)).trans (noted.same .twin (by decide)))
  have total := (Prod.mk.inj ((fenced.same .modResets (by decide)).trans (cuts.same .modResets (by decide)))).2
  exact ⟨by rw [twin, State.departs_single], by rw [total, State.moduleNoted_total]⟩
theorem State.moduleReset_cutOff (free : (s.domain 0xB 0).phase = 0) (runs : c ∈ s.running) (uncut : (s.ctx c).Uncut) (det : Nat) :
    ((s.moduleReset det).ctx c).CutOff := by
  obtain ⟨-, ctl, -, -⟩ := State.moduleReset_fences free det
  have noted := s.moduleNoted_keeps det
  have ctxs : (s.moduleNoted det).ctxs = s.ctxs := noted.same .ctxs (by decide)
  have running : (s.moduleNoted det).running = s.running := by simp only [State.running, State.ctxNums, State.ctx, ctxs]
  have cut : ((s.moduleCut det).ctx c).CutOff := State.gstopAll_cutOff (by rwa [running])
    (by rwa [noted.ctx_eq (by decide)]) 0 false
  rwa [Ctx.CutOff, ctl c]
theorem exec_lockStepMismatch (up : s.up = true) : exec .lockStepMismatch s = .next (s.moduleReset 0xC) :=
  congrArg Host.Outcome.next (if_pos up)

/-! ## A mailbox that has been answered stays so -/

/-- The mailbox has been answered with status 0. -/
def State.Answered (s : State) (m : Nat) : Prop := (s.mailbox m).busy = false ∧ (s.mailbox m).status = 0

section
variable {m : Nat}

theorem Keeps.answered (k : Keeps B s t) (hb : Block.mbx ∉ B) (done : s.Answered m) : t.Answered m := by
  have same : t.mbx = s.mbx := k.same .mbx hb
  rwa [State.Answered, State.mailbox, same, ← State.mailbox]
theorem State.complete_answered (s : State) (m : Nat) (res : List Nat) : (s.complete m 0 res).Answered m := by
  obtain ⟨own, -, -⟩ := s.complete_completes m 0 res
  rw [State.Answered, own]
  exact ⟨rfl, rfl⟩
theorem State.complete_stays_answered (done : s.Answered m) (k : Nat) (res : List Nat) : (s.complete k 0 res).Answered m := by
  rcases eq_or_ne m k with rfl | ne
  · exact s.complete_answered m res
  · rwa [State.Answered, (s.complete_completes k 0 res).2.1 m ne]
/-- Page commands that waited are answered with status 0. -/
theorem State.pageSettle_answered (done : s.Answered m) : s.pageSettle.Answered m := by
  refine State.each_holds (P := fun t => t.Answered m) (fun t u _ done => ?_) done
  refine State.each_holds (P := fun t => t.Answered m) (fun t x _ done => ?_) done
  have ran : Keeps [.mem, .kvt, .streams] t (t.pageCmd x.2) := State.pageCmd_keeps (.refl t) (by decide) x.2
  exact State.complete_stays_answered (ran.answered (by decide) done) x.1 []
theorem State.disableCtx_answered (done : s.Answered m) (c : Nat) : (s.disableCtx c).Answered m := by
  rw [State.disableCtx_eq]
  have disabled : Keeps [.sched, .obs, .ctxs] s ((s.dropSteps c).modCtx c Ctx.disabled) :=
    State.modCtx_keeps ((s.dropSteps_keeps c).mono (by decide)) (by decide) ..
  have flipped := (State.flipAtStop_moves _ c).answered (by decide) (disabled.answered (by decide) done)
  exact (State.prune_keeps (B := [.reqs]) (.refl _) (by decide)).answered (by decide) (State.pageSettle_answered flipped)
theorem State.cutSettle_answered (done : s.Answered m) (c : Nat) : (s.cutSettle c).Answered m := by
  unfold State.cutSettle
  split
  · exact State.disableCtx_answered done c
  · exact done
theorem State.cut_answered (done : s.Answered m) (c cause : Nat) (records : Bool) : (s.cut c cause records).Answered m := by
  rcases s.cut_cases c cause records with same | disabled | marked
  · rwa [same]
  · rw [disabled]
    exact State.disableCtx_answered done c
  · rw [marked]
    have begun : Keeps [.sched, .obs, .rings, .reqs, .cuts, .ctxs] s ((s.cutBegun c cause records).modCtl c CtxCtl.cutOff) :=
      State.modCtl_keeps ((s.cutBegun_keeps c cause records).mono (by decide)) (by decide) ..
    exact State.cutSettle_answered (begun.answered (by decide) done) c
theorem State.gstop_answered (done : s.Answered m) (c cause : Nat) (records : Bool) : (s.gstop c cause records).Answered m := by
  by_cases runs : (s.ctx c).ctl.state = 4 ∨ (s.ctx c).ctl.state = 5
  · rw [State.gstop_of_running runs]
    exact State.cut_answered ((s.originate_sends ..).answered (by decide) done) ..
  · rwa [State.gstop_of_idle runs]
theorem State.moduleReset_answered (done : s.Answered m) (det : Nat) : (s.moduleReset det).Answered m := by
  by_cases free : (s.domain 0xB 0).phase = 0
  · obtain ⟨fenced, -, -, -⟩ := State.moduleReset_fences free det
    refine fenced.answered (by decide) ?_
    exact State.each_holds (P := fun t => t.Answered m) (fun t c _ done => State.gstop_answered done c 0 false)
      ((s.moduleNoted_keeps det).answered (by decide) done)
  · rw [State.moduleReset_of_fenced free]
    exact (s.declareEcho_tells ..).answered (by decide) done
/-- A fault charged to the weaver core, or to the whole module, leaves an answered mailbox answered. -/
theorem State.fault_answered (done : s.Answered m) (first : kind = 0xB ∨ (kind = 0xA ∧ idx = 0)) (det : Nat) :
    (s.fault kind idx det).Answered m := by
  rcases first with rfl | ⟨rfl, rfl⟩
  · exact State.moduleReset_answered done det
  · rcases Bool.eq_false_or_eq_true (s.troubled 0xA 0) with recovering | free
    · rw [State.fault_of_troubled (by decide) recovering]
      exact (s.declareEcho_tells ..).answered (by decide) done
    · rw [State.fault_of_free (by decide) free]
      obtain ⟨f, alone⟩ := (s.declare 0xA 0 det).fence_alone (kind := 0xA) (idx := 0) (by decide) (by decide) det
        s.clk.pick s.rcv.logSeq
      rw [alone]
      have fenced : Keeps [.mem, .kvt, .ctxs, .sched, .domains, .ports, .obs, .out] (s.declare 0xA 0 det)
          ((s.declare 0xA 0 det).modDomain 0xA 0 f).suppressDue :=
        State.suppressDue_keeps (State.modDomain_keeps (.refl _) (by decide) ..) (by decide)
      exact fenced.answered (by decide) ((s.declare_tells ..).answered (by decide) done)
end

/-! ## DOMAIN_RESET (R316, R432) -/

/-- What DOMAIN_RESET of domain (k, i) does, once its mailbox `m` is served. -/
def State.resetDomain (s : State) (m k i : Nat) : State :=
  if domainCount k ≤ i then s.complete m 0x11 []
  else if k = 0xB ∨ (k = 0xA ∧ i = 0) then (s.complete m 0 []).fault k i 0xD
  else if s.rcv.domains.any (fun d => d.2.mbx == some m) then s
  else if (s.domain k i).retired then (s.fault k i 0xD).complete m 0 []
  else
    let s := s.fault k i 0xD
    if (s.domain k i).phase = 0 then s.complete m 0 [] else s.modDomain k i fun d => { d with mbx := some m }
theorem exec_domainReset {m : Fin 16} (waits : s.awaits m.val 0x4013) : exec (.domainReset m) s =
    .next (s.resetDomain m.val ((s.mailbox m.val).arg 0) ((s.mailbox m.val).arg 1)) :=
  congrArg Host.Outcome.next (State.command_done waits _)

section
variable {m k i : Nat}

theorem State.resetDomain_refused (past : domainCount k ≤ i) : s.resetDomain m k i = s.complete m 0x11 [] := if_pos past
theorem State.resetDomain_first (within : i < domainCount k) (first : k = 0xB ∨ (k = 0xA ∧ i = 0)) :
    s.resetDomain m k i = (s.complete m 0 []).fault k i 0xD := (if_neg (by omega)).trans (if_pos first)
theorem State.resetDomain_waits (within : i < domainCount k) (later : ¬ (k = 0xB ∨ (k = 0xA ∧ i = 0)))
    (waits : s.rcv.domains.any (fun d => d.2.mbx == some m) = true) : s.resetDomain m k i = s :=
  (if_neg (by omega)).trans ((if_neg later).trans (if_pos waits))
theorem State.resetDomain_retired (within : i < domainCount k) (later : ¬ (k = 0xB ∨ (k = 0xA ∧ i = 0)))
    (idle : s.rcv.domains.any (fun d => d.2.mbx == some m) = false) (retired : (s.domain k i).retired = true) :
    s.resetDomain m k i = (s.fault k i 0xD).complete m 0 [] :=
  (if_neg (by omega)).trans ((if_neg later).trans ((if_neg (Bool.eq_false_iff.mp idle)).trans (if_pos retired)))
theorem State.resetDomain_fences (within : i < domainCount k) (later : ¬ (k = 0xB ∨ (k = 0xA ∧ i = 0)))
    (idle : s.rcv.domains.any (fun d => d.2.mbx == some m) = false) (live : (s.domain k i).retired = false)
    (fenced : ((s.fault k i 0xD).domain k i).phase ≠ 0) :
    s.resetDomain m k i = (s.fault k i 0xD).modDomain k i fun d => { d with mbx := some m } :=
  (if_neg (by omega)).trans ((if_neg later).trans ((if_neg (Bool.eq_false_iff.mp idle)).trans
    ((if_neg (Bool.eq_false_iff.mp live)).trans (if_neg fenced))))
theorem State.troubled_of_retired (retired : (s.domain k i).retired = true) : s.troubled k i = true := by
  rw [State.troubled, List.any_eq_true]
  exact ⟨(k, i), mem_enclosing k i, by rw [retired, Bool.or_true]⟩
theorem State.live_of_free (free : s.troubled k i = false) : (s.domain k i).retired = false :=
  Bool.eq_false_iff.mpr fun retired => by
    rw [State.troubled_of_retired retired] at free
    cases free
theorem domainCount_module {k i : Nat} (within : i < domainCount k) : k ≠ 0xB ∨ i = 0 := by
  by_cases module : k = 0xB
  · subst module
    exact .inr (Nat.lt_one_iff.mp within)
  · exact .inl module
end
end Sys2Proof.Machine

open Sys2Proof Sys2Proof.Machine

/-- Settles O52: a fault by its log entry and its fence, a cut by what it leaves of the context, through all contexts that are cut
with it, and a reset's mailbox by what can still answer it. -/
theorem detectorsFenceTheirDomain : Obligations.DetectorsFenceTheirDomain := by
  unfold Obligations.DetectorsFenceTheirDomain
  intro fences cutNow
  refine ⟨fun s cmd kind idx det detects => ?_, fun s who j acts low => ?_,
    fun s c l i r up found past free =>
      yields_of (exec_overrun up found past free) ⟨fun x runs => ?_, fun whole => ?_, fun cut => ?_⟩,
    fun s c l i up waits => yields_of (exec_starved up waits) ⟨?_, fun runs whole => ?_, fun runs whole => ?_⟩,
    fun s up => yields_of (exec_lockStepMismatch up) ⟨s.moduleReset_logged 0xC, fun fenced => ?_, fun free => ?_⟩,
    fun s m waits => ?_⟩
  · have faulted (h : kind ≠ 0xB) := State.fault_fences h s idx det
    rcases detects with ⟨ch, rfl, rfl, rfl, rfl, up⟩ | ⟨tier, rfl, rfl, rfl, rfl, up⟩ | ⟨l, rfl, rfl, rfl, rfl, up⟩ |
      ⟨f, rfl, rfl, rfl, rfl, up⟩ | ⟨rfl, rfl, rfl, rfl, up⟩ | ⟨m, w, rfl, rfl, rfl, rfl, up, limit, busy, past⟩ |
      ⟨rfl, rfl, rfl, rfl, up⟩
    · exact yields_of (exec_memoryTimeout up) (faulted (by decide))
    · exact yields_of (exec_tierTimeout up) (faulted (by decide))
    · exact yields_of (exec_sequencerFault up) (faulted (by decide))
    · exact yields_of (exec_hubWatchdog up) (faulted (by decide))
    · exact yields_of (exec_weaverHeartbeat up) (faulted (by decide))
    · exact yields_of (exec_mailboxTimeout up limit busy past) (faulted (by decide))
    · have counted : Keeps [.memChecks] s (s.eccUncorrected 28) := State.eccUncorrected_keeps (.refl s) (by decide) 28
      exact yields_of (exec_sramUncorrectable up) ((State.fault_fences (by decide) _ 0 0xB).of_keeps counted (by decide))
  · exact yields_of (congrArg Host.Outcome.next (State.onHarness_done acts _)) (s.harnessReset_resets (s.sel j).harn)
  · rw [State.cutSettle_runs, State.abandon_runs, List.mem_filter] at runs
    rintro ⟨same, iter⟩
    rw [same, iter] at runs
    simp at runs
  · refine State.logged_of_eq (s.fault_logged _ _ 1 (.inl (overrunDomain_ne_module r _))) ?_
    rw [State.overrunFault, whole]
    exact (((s.fault _ _ 1).abandon_cutSettle_keeps r c.val).log_eq (by decide)).1
  · rw [State.overrunFault, if_pos cut]
    exact ((s.abandon_cutSettle_keeps r c.val).log_eq (by decide)).1
  · exact State.logged_of_eq (s.declare_logged 0 0 3) (((s.declare 0 0 3).gstop_cuts c.val 3 true).log_eq (by decide)).1
  · have uncut : ((s.declare 0 0 3).ctx c.val).Uncut := by
      rw [(s.declare_tells 0 0 3).ctx_eq (by decide)]
      exact ⟨runs, whole⟩
    exact State.gstop_cutOff uncut 3 true
  · have uncut : ((s.declare 0 0 3).ctx c.val).Uncut := by
      rw [(s.declare_tells 0 0 3).ctx_eq (by decide)]
      exact ⟨runs, whole⟩
    rw [State.gstop_of_running uncut.1]
    have still := State.originate_uncut uncut 7 (s.declare 0 0 3).clk.pick 0 3
    obtain ⟨valid, ctx, cause⟩ := State.cut_noted still 3 true
    exact ⟨valid, ctx, cause, State.cut_endsRequests still 3⟩
  · rw [State.moduleReset_of_fenced fenced, (s.declareEcho_tells 0xB 0 0xC).domain_eq (by decide)]
  · obtain ⟨-, -, phase, detector⟩ := State.moduleReset_fences free 0xC
    obtain ⟨twin, total⟩ := State.moduleReset_ends free 0xC
    exact ⟨phase, detector, twin, total, fun c runs state whole => State.moduleReset_cutOff free runs ⟨state, whole⟩ 0xC⟩
  · have ran := exec_domainReset waits
    intro k i waiting first
    refine ⟨fun past => ?_, fun within isFirst => ?_, fun within later held => ?_, fun within later idle free => ?_,
      fun within later idle retired => ?_⟩
    · rw [State.resetDomain_refused past] at ran
      exact yields_refused ran
    · rw [State.resetDomain_first within isFirst] at ran
      have done := State.fault_answered (s.complete_answered m.val []) isFirst 0xD
      have answered : Keeps [.mbx, .out] s (s.complete m.val 0 []) := State.complete_keeps (.refl s) (by decide) ..
      exact yields_of ran ⟨State.logged_of_keeps answered (by decide)
        (State.fault_logged _ k i 0xD (domainCount_module within)), done.1, done.2⟩
    · rwa [State.resetDomain_waits within later held] at ran
    · have other : k ≠ 0xB := fun module => later (.inl module)
      obtain ⟨logged, -, -, fenced⟩ := State.fault_fences other s i 0xD
      obtain ⟨phase, -⟩ := fenced free
      rw [State.resetDomain_fences within later idle (State.live_of_free free) (by rw [phase]; decide)] at ran
      refine yields_of ran ⟨State.logged_of_eq logged rfl, ?_, ?_⟩
      · rw [State.modDomain_domain]
        exact phase
      · rw [State.modDomain_domain]
    · have other : k ≠ 0xB := fun module => later (.inl module)
      obtain ⟨logged, -, stays, -⟩ := State.fault_fences other s i 0xD
      rw [State.resetDomain_retired within later idle retired] at ran
      exact yields_of ran ⟨State.logged_of_eq logged rfl, stays (State.troubled_of_retired retired),
        (State.complete_answered _ m.val []).1⟩
end

section
/-! The host site's signals and the rail-control bus (R319, R320). -/

-- one proof at a time: side by side, their stacks and heaps do not fit beside the rest of the text
set_option Elab.async false

namespace Sys2Proof.Machine

variable {s : State}

/-! ## Bits of HUB_ALERT_STAT that a fault leaves alone -/

/-- The bits of HUB_ALERT_STAT that tell of a host-site shutdown and of a link failure. -/
def Recovery.siteAlerts (r : Recovery) : Bool × Bool := (r.alertHsShutdown, r.alertLinkFail)

theorem State.storm_siteAlerts (s : State) (e : LogEntry) : (s.storm e).rcv.siteAlerts = s.rcv.siteAlerts := by
  unfold State.storm
  dsimp only
  split
  · rfl
  · unfold State.alertStorm
    split <;> rfl
theorem Keeps.siteAlerts {B : List Block} {t : State} (k : Keeps B s t) (hb : Block.alerts ∉ B) :
    t.rcv.siteAlerts = s.rcv.siteAlerts := by
  have same := k.same .alerts hb
  simp only [Block.same, Prod.mk.injEq] at same
  obtain ⟨-, -, shutdown, -, linkFail, -⟩ := same
  rw [Recovery.siteAlerts, shutdown, linkFail, Recovery.siteAlerts]
theorem State.declare_siteAlerts (s : State) (kind idx det : Nat) : (s.declare kind idx det).rcv.siteAlerts = s.rcv.siteAlerts :=
  ((State.notify_sends _ _).siteAlerts (by decide)).trans (State.storm_siteAlerts ..)
theorem State.fault_siteAlerts {kind : Nat} (below : kind ≠ 0xB) (s : State) (idx det : Nat) :
    (s.fault kind idx det).rcv.siteAlerts = s.rcv.siteAlerts := by
  rcases Bool.eq_false_or_eq_true (s.troubled kind idx) with recovering | free
  · rw [State.fault_of_troubled below recovering]
    exact (s.declareEcho_tells kind idx det).siteAlerts (by decide)
  · rw [State.fault_of_free below free]
    have fenced := State.fence_keeps (B := [.mbx, .mem, .heddles, .harnesses, .kvt, .ctxs, .sched, .rings, .streams, .reqs,
      .domains, .cuts, .relayed, .ports, .obs, .out]) (.refl (s.declare kind idx det)) (by decide) kind idx det s.clk.pick
      s.rcv.logSeq
    exact (fenced.siteAlerts (by decide)).trans (s.declare_siteAlerts ..)
/-- The blocks that a fault may change. -/
theorem State.fault_changes (s : State) (kind idx det : Nat) :
    Keeps [.mbx, .mem, .heddles, .harnesses, .kvt, .ctxs, .sched, .rings, .streams, .reqs, .log, .storm, .domains, .modResets,
      .cuts, .relayed, .marks, .alerts, .twin, .ports, .obs, .out] s (s.fault kind idx det) :=
  State.fault_keeps (.refl s) (by decide) ..

/-! ## Host-site signals (R319) -/

theorem exec_hsResetRelease (on : s.powered = true) (good : s.hs.pwrgd = true) (held : s.hs.resetReleased = false)
    (due : s.hs.pwrgdWall + 40000000 ≤ s.clk.wall) :
    exec .hsResetRelease s = .next { s with hs := { s.hs with resetReleased := true } } := by
  have past : 40000000 ≤ s.clk.wall - s.hs.pwrgdWall := by omega
  exact congrArg Host.Outcome.next (if_pos (by rw [on, good, held, decide_eq_true past]; rfl))
theorem exec_hsThrottleEval (on : s.powered = true) (rails : s.hs.railsOn = true) (mw : Nat) :
    exec (.hsThrottleEval mw) s = .next { s with hs := { s.hs with
      throttle := if 400000 < mw then true else if mw < 380000 then false else s.hs.throttle } } := by
  refine congrArg Host.Outcome.next ((if_pos (by rw [on, rails]; rfl)).trans ?_)
  split_ifs
  · rfl
  · rfl
  · rfl
theorem exec_hsThermAssert (on : s.powered = true) (bonded : s.hs.present = true) (cool : s.hs.therm = false) :
    exec .hsThermAssert s =
      .next { s with hs := { s.hs with therm := true, thermSince := s.clk.wall } }.alertHsTherm :=
  congrArg Host.Outcome.next (if_pos (by rw [on, bonded, cool]; rfl))
theorem exec_hsThermDeassert (on : s.powered = true) (hot : s.hs.therm = true) :
    exec .hsThermDeassert s = .next { s with hs := { s.hs with therm := false } } :=
  congrArg Host.Outcome.next (if_pos (by rw [on, hot]; rfl))

/-- Setting HS_THERM: the interrupts go out where it was clear, and the rest stays. -/
theorem State.alertHsTherm_sets (s : State) : s.alertHsTherm.hs = s.hs ∧ s.alertHsTherm.rcv.alertHsTherm = true ∧
    (s.rcv.alertHsTherm = false → s.alertHsTherm.out = .ibi s.alertHsTherm.alertStat :: .msix 0 :: s.out) ∧
    s.alertHsTherm = { s with
      rcv := { s.rcv with alertHsTherm := true, setAt := s.alertHsTherm.rcv.setAt }, out := s.alertHsTherm.out } := by
  unfold State.alertHsTherm
  dsimp only
  split
  next raised => exact ⟨rfl, rfl, fun clear => absurd raised (Bool.eq_false_iff.mp clear), rfl⟩
  next => exact ⟨rfl, rfl, fun _ => rfl, rfl⟩
theorem State.alertHsShutdown_set (s : State) : s.alertHsShutdown.rcv.alertHsShutdown = true := by
  unfold State.alertHsShutdown
  dsimp only
  split
  · rfl
  · rfl

/-- The host site as a shutdown leaves it. -/
def HostSite.off (h : HostSite) (cause : HsCause) : HostSite :=
  { h with railsOn := false, pwrgd := false, resetReleased := false, throttle := false, shut := true
           faultRail := h.faultRail || cause == .railCurrent }
theorem exec_hsShutdown {c : HsCause} (on : s.powered = true) (rails : s.hs.railsOn = true)
    (due : c = .therm → s.hs.therm = true ∧ s.hs.thermSince + 400000000 ≤ s.clk.wall) : exec (.hsShutdown c) s =
      .next (({ s with hs := s.hs.off c } : State).alertHsShutdown.report .hsShutdown).hostOff := by
  refine congrArg Host.Outcome.next (if_pos ?_)
  rw [on, rails]
  cases c with
  | therm =>
    obtain ⟨hot, since⟩ := due rfl
    have past : 400000000 ≤ s.clk.wall - s.hs.thermSince := by omega
    simp [hot, past]
  | _ => rfl
/-- With the site off no link is up, hub function 6 is fenced, and what was reported stays. -/
theorem State.hostOff_turnsOff (s : State) : s.hostOff.hs = s.hs ∧ s.hostOff.acc.linksUp = [] ∧ s.hostOff.agg = s.agg ∧
    s.hostOff.rcv.siteAlerts = s.rcv.siteAlerts ∧ s.hostOff.troubled 0xA 6 = true := by
  have kept := State.fault_changes { s with acc := { s.acc with linksUp := [], linksHalf := [] } } 0xA 6 8
  exact ⟨kept.same .hs (by decide), congrArg Access.linksUp (kept.same .acc (by decide)), kept.same .agg (by decide),
    State.fault_siteAlerts (by decide) .., State.fault_troubled _ 0xA 6 8 (by decide)⟩

/-! ## The rail-control bus (R320) -/

theorem exec_voutCommand_core (on : s.powered = true) (page : s.hs.pmbPage = 0) (v : BitVec 16) :
    exec (.voutCommand v) s = .next { s with hs :=
      (if 110 ≤ voutStep v.toNat ∧ voutStep v.toNat ≤ 210 then { s.hs with setCore := v.toNat } else { s.hs with cml := true }) } :=
  congrArg Host.Outcome.next ((if_pos on).trans (congrArg (fun h => { s with hs := h }) (if_pos page)))
theorem exec_voutCommand_soc (on : s.powered = true) (page : s.hs.pmbPage = 1) (v : BitVec 16) :
    exec (.voutCommand v) s = .next { s with hs :=
      (if 140 ≤ voutStep v.toNat ∧ voutStep v.toNat ≤ 180 then { s.hs with setSoc := v.toNat } else { s.hs with cml := true }) } :=
  congrArg Host.Outcome.next ((if_pos on).trans (congrArg (fun h => { s with hs := h }) (if_neg (by omega))))

/-- CML is bit 1 of STATUS_WORD. -/
theorem State.pmbusStatus_cml (s : State) : s.pmbusStatus.testBit 1 = s.hs.cml := by
  have layout : ∀ cml rail off : Bool, (2 * b2n cml + 16 * b2n rail + 64 * b2n off).testBit 1 = cml := by decide
  exact layout ..

end Sys2Proof.Machine

open Sys2Proof Sys2Proof.Machine

/-- Settles O9: each signal changes the host site; a shutdown's fault of hub function 6 leaves the site, the reports and
HS_SHUTDOWN as they were set. -/
theorem hostSiteSignals : Obligations.HostSiteSignals := by
  refine ⟨fun s on good held due => exec_hsResetRelease on good held due, fun s mw on rails => exec_hsThrottleEval on rails mw,
    fun s c on rails due => ?_, fun s on bonded cool => ?_, fun s on hot => exec_hsThermDeassert on hot⟩
  · generalize started : ({ s with hs := s.hs.off c } : State) = u
    have alerted := State.alertHsShutdown_keeps (B := [.marks, .alerts, .out]) (.refl u) (by decide)
    have site : u.alertHsShutdown.hs = s.hs.off c := (alerted.same .hs (by decide)).trans (by rw [← started])
    obtain ⟨hs, links, agg, alerts, fenced⟩ := (u.alertHsShutdown.report .hsShutdown).hostOff_turnsOff
    replace hs := hs.trans site
    refine yields_of (started ▸ exec_hsShutdown on rails due) ⟨by rw [hs]; rfl, by rw [hs]; rfl, by rw [hs]; rfl, by rw [hs]; rfl, ?_, ?_,
      links, fenced⟩
    · exact (congrArg Prod.fst alerts).trans u.alertHsShutdown_set
    · rw [agg]
      exact .head _
  · obtain ⟨hs, set, raised, frame⟩ :=
      ({ s with hs := { s.hs with therm := true, thermSince := s.clk.wall } } : State).alertHsTherm_sets
    refine yields_of (exec_hsThermAssert on bonded cool) ⟨hs, set, raised, ?_⟩
    rw [hs]
    exact frame

/-- Settles O10: a set point's branch is chosen by its page and its range; every other command is one field or one answer. -/
theorem railControlBus : Obligations.RailControlBus := by
  refine ⟨fun s v on => ?_, fun s v on page low high => ?_, fun s v on page low high => ?_, fun s v on outside => ?_, fun s on => ?_,
    fun s on => ?_, fun s raw on => ⟨?_, ?_⟩, fun s on => ?_⟩
  · exact congrArg Host.Outcome.next (if_pos on)
  · rw [exec_voutCommand_core on page, if_pos ⟨low, high⟩]
  · rw [exec_voutCommand_soc on page, if_pos ⟨low, high⟩]
  · rcases outside with ⟨core, range⟩ | ⟨soc, range⟩
    · rw [exec_voutCommand_core on core, if_neg (by omega)]
    · rw [exec_voutCommand_soc on soc, if_neg (by omega)]
  · exact congrArg Host.Outcome.next (if_pos on)
  · exact yields_of (congrArg Host.Outcome.next (if_pos on)) ⟨_, Nat.mod_lt _ (by decide), rfl⟩
  · exact congrArg Host.Outcome.next (if_pos on)
  · exact congrArg Host.Outcome.next (if_pos on)
  · exact yields_of (congrArg Host.Outcome.next (if_pos on)) ⟨_, rfl, s.pmbusStatus_cml⟩
end

section
/-! Accesses from outside (R324, R326, R349): BAR4 reads and writes, UCIe links, the I3C target. -/

-- one proof at a time: side by side, their stacks and heaps do not fit beside the rest of the text
set_option Elab.async false

namespace Sys2Proof.Machine

variable {s : State} {rid : BitVec 16} {link : Fin 8} {j : Nat}

/-! ## BAR4 (R326) -/

/-- A host requester with a slot reaches BAR4 over every link that is up, and takes no slot anew. -/
theorem State.access4_host (up : s.up = true) (stage : s.sec.stage ≠ 5) (linked : s.acc.linksUp.contains link.val = true)
    (slot : s.slotOfRid rid.toNat = some j) : s.access4 (.host rid link) = (some j, s) := by
  have known : s.assignSlot rid.toNat = (j, s) := by
    rw [State.assignSlot, slot]
  unfold State.access4
  rw [if_neg (by simp [up, stage])]
  dsimp only
  rw [if_pos linked, known]
theorem exec_bar4Read_host (up : s.up = true) (stage : s.sec.stage ≠ 5) (linked : s.acc.linksUp.contains link.val = true)
    (slot : s.slotOfRid rid.toNat = some j) (off : BitVec 36) (n : Fin 4097) :
    exec (.bar4Read (.host rid link) off n) s = .next (s.readBar4 j off.toNat n.val) := by
  refine congrArg Host.Outcome.next ?_
  rw [State.access4_host up stage linked slot]
theorem exec_bar4Write_host (up : s.up = true) (stage : s.sec.stage ≠ 5) (linked : s.acc.linksUp.contains link.val = true)
    (slot : s.slotOfRid rid.toNat = some j) (off : BitVec 36) (data : Bytes) :
    exec (.bar4Write (.host rid link) off data) s = .next (s.writeBar4 j off.toNat data) := by
  refine congrArg Host.Outcome.next ?_
  rw [State.access4_host up stage linked slot]

section
variable {off n : Nat}

theorem State.readBar4_absent (silent : s.answers (s.winAddr j off) n = false) :
    s.readBar4 j off n = (s.report (.badBar4 j)).emit (.readBytes j (List.replicate n 0xFF)) :=
  if_pos (by rw [silent]; rfl)
theorem State.readBar4_hub (answers : s.answers (s.winAddr j off) n = true) (hub : inHub (s.winAddr j off) n = true) :
    s.readBar4 j off n = (s.report .hubRegion).emit (.readBytes j (List.replicate n 0)) :=
  (if_neg (by rw [answers]; decide)).trans (if_pos hub)
theorem State.readBar4_memory (answers : s.answers (s.winAddr j off) n = true) (free : inHub (s.winAddr j off) n = false) :
    s.readBar4 j off n = (s.noteSealed (s.winAddr j off) n).emit (.readBytes j (s.outsideBytes (s.winAddr j off) n)) :=
  (if_neg (by rw [answers]; decide)).trans (if_neg (Bool.eq_false_iff.mp free))
theorem State.writeBar4_barred {data : Bytes} {r : Report} (some_ : data ≠ [])
    (barred : s.writeBarred j (s.winAddr j off) data.length = some r) : s.writeBar4 j off data = s.report r := by
  unfold State.writeBar4
  rw [if_neg (by simpa using some_), barred]
theorem State.writeBar4_stored {data : Bytes} (some_ : data ≠ [])
    (open_ : s.writeBarred j (s.winAddr j off) data.length = none) :
    s.writeBar4 j off data = s.write (s.winAddr j off) data := by
  unfold State.writeBar4
  rw [if_neg (by simpa using some_), open_]
end

theorem State.outsideBytes_length (s : State) (a n : Nat) : (s.outsideBytes a n).length = n := by
  simp [State.outsideBytes]
theorem State.outsideBytes_getElem (s : State) (a : Nat) {n i : Nat} (h : i < n) :
    (s.outsideBytes a n)[i]? = some (if s.sealedAt (a + i) then 0 else s.filteredByte (a + i)) := by
  simp [State.outsideBytes, State.outsideByte, h]
/-- An access to sealed data is counted, one to other data is not. -/
theorem State.noteSealed_eq (s : State) (a n : Nat) : s.noteSealed a n = { s with agg := (s.noteSealed a n).agg } := by
  unfold State.noteSealed
  split
  · rfl
  · rfl
theorem State.noteSealed_sealed {a n : Nat} (held : ∃ i, i < n ∧ s.sealedAt (a + i) = true) :
    (s.noteSealed a n).agg = .sealedRead :: s.agg := by
  unfold State.noteSealed
  rw [if_pos (by simpa using held)]
  rfl
theorem State.noteSealed_clear {a n : Nat} (clear : ∀ i, i < n → s.sealedAt (a + i) = false) : (s.noteSealed a n).agg = s.agg := by
  unfold State.noteSealed
  rw [if_neg (by simpa using clear)]

theorem Memory.writeBytes_tallyErr (m : Memory) (a : Nat) (bs : Bytes) : (m.writeBytes a bs).tallyErr = m.tallyErr := by
  induction bs generalizing m a with
  | nil => rfl
  | cons b bs ih => exact ih ..
/-- A write stores its bytes. -/
theorem State.write_byte_same (s : State) (a : Nat) (bs : Bytes) {i : Nat} (h : i < bs.length) :
    some ((s.write a bs).byte (a + i)) = bs[i]? := by
  rw [List.getElem?_eq_getElem h]
  exact congrArg some (Memory.byte_writeBytes_same _ _ _ h)

theorem State.writeBarred_absent {a n : Nat} (silent : s.answers a n = false) : s.writeBarred j a n = some (.badBar4 j) :=
  if_pos (by rw [silent]; rfl)
theorem State.writeBarred_hub {a n : Nat} (answers : s.answers a n = true) (hub : inHub a n = true) :
    s.writeBarred j a n = some .hubRegion :=
  (if_neg (by rw [answers]; decide)).trans (if_pos hub)

/-! ## UCIe links (R324) -/

/-- The links without link `l`. -/
def Access.linkDown (x : Access) (l : Nat) : Access :=
  { x with linksUp := x.linksUp.filter (· != l), linksHalf := x.linksHalf.filter (· != l) }
theorem exec_ucieLinkDown (up : s.up = true) (linked : s.acc.linksUp.contains link.val = true) :
    exec (.ucieLinkDown link) s = .next (
      let t : State := { s with acc := s.acc.linkDown link.val }
      if t.acc.linksUp.isEmpty then t.fault 0xA 6 8 else t) :=
  congrArg Host.Outcome.next (if_pos (by rw [up, linked]; rfl))
theorem State.barLink_none (down : s.acc.linksUp = []) : s.barLink = none := by
  rw [State.barLink, down]
  rfl

/-- The links with link `l` trained, at half width where `half` says so. -/
def Access.linkTrained (x : Access) (l : Nat) (half : Bool) : Access :=
  { x with
    linksUp := x.linksUp.filter (· != l) ++ [l]
    linksHalf := if half then x.linksHalf.filter (· != l) ++ [l] else x.linksHalf.filter (· != l)
    linksEver := x.linksEver.filter (· != l) ++ [l]
    retrains := if x.linksEver.contains l then (x.retrains + 1) % 256 else x.retrains }
theorem exec_ucieLinkTrained (up : s.up = true) (bonded : s.hs.present = true) (out : s.hs.resetReleased = true)
    (first : 1 ≤ s.sec.stage) (last : s.sec.stage ≤ 4) (half : Bool) :
    exec (.ucieLinkTrained link half) s = .next { s with acc := s.acc.linkTrained link.val half } :=
  congrArg Host.Outcome.next (if_pos (by rw [up, bonded, out, decide_eq_true ⟨first, last⟩]; rfl))
theorem Access.mem_linksUp_linkTrained (x : Access) (l k : Nat) (half : Bool) :
    k ∈ (x.linkTrained l half).linksUp ↔ k = l ∨ k ∈ x.linksUp := by
  by_cases same : k = l
  · simp [Access.linkTrained, same]
  · simp [Access.linkTrained, same]
theorem Access.mem_linksHalf_linkTrained (x : Access) (l k : Nat) (half : Bool) :
    k ∈ (x.linkTrained l half).linksHalf ↔ if k = l then half = true else k ∈ x.linksHalf := by
  by_cases same : k = l
  · cases half <;> simp [Access.linkTrained, same]
  · cases half <;> simp [Access.linkTrained, same]

/-! ## The I3C target (R349) -/

theorem State.readReg_priv {r : Reg} (priv : s.priv j = true) : s.readReg j r = (s.regWord j r, s.readEffect j r) :=
  if_pos (by rw [priv]; rfl)
/-- A privileged requester's read changes nothing but what it latches. -/
theorem State.readEffect_latches (priv : s.priv j = true) (r : Reg) : s.readEffect j r = { s with
    acc := { s.acc with latches := (s.readEffect j r).acc.latches }
    obs := { s.obs with pmcHi := (s.readEffect j r).obs.pmcHi } } := by
  unfold State.readEffect
  split
  case h_4 =>
    rw [State.readPmc, State.prvRead, if_pos priv]
    rfl
  all_goals rfl
theorem State.writeReg_priv {r : Reg} (fields : r.prvMask ≠ 0) (whole : r.mixed = false) (priv : s.priv j = true) (v : Word) :
    s.writeReg j r v = s.writePrv j r v.toNat := by
  rw [State.writeReg, State.writeOpen_of_prvOnly fields whole]
  exact (if_neg (by simpa using fields)).trans (if_pos priv)
/-- A privileged write of PWR_CEIL sets the ceiling, which stays between 500 and 3,300 (Table 13.1). -/
theorem State.writeReg_ceil (priv : s.priv j = true) (v : Word) :
    s.writeReg j .ceil v = { s with pwr := { s.pwr with ceil := min 3300 (max 500 (v.toNat % 2 ^ 12)) } } := by
  have field : fld v.toNat 0 12 = v.toNat % 2 ^ 12 := congrArg (· % 2 ^ 12) (Nat.div_one _)
  rw [State.writeReg_priv (by decide) rfl priv, ← field]
  rfl

end Sys2Proof.Machine

open Sys2Proof Sys2Proof.Machine

/-- Settles O19: what answers is decided before the hub region, and both before the bytes; a write is barred whole or stored whole. -/
theorem windowReadsAndWrites : Obligations.WindowReadsAndWrites := by
  refine ⟨fun s rid link j off n up stage linked slot => ?_, fun s rid link j off data up stage linked slot some_ => ?_⟩
  · have ran := exec_bar4Read_host up stage linked slot off n
    refine ⟨fun silent => ?_, fun answers hub => ?_, fun answers free => ?_⟩
    · exact ran.trans (congrArg _ (State.readBar4_absent silent))
    · exact ran.trans (congrArg _ (State.readBar4_hub answers hub))
    · refine yields_of (ran.trans (congrArg _ (State.readBar4_memory answers free))) ⟨s.outsideBytes (s.winAddr j off.toNat) n.val, ?_,
        s.outsideBytes_length .., fun i h => s.outsideBytes_getElem _ h, State.noteSealed_sealed, State.noteSealed_clear⟩
      rw [State.noteSealed_eq]
      rfl
  · have ran := exec_bar4Write_host up stage linked slot off data
    refine ⟨fun r barred => ?_, fun open_ => ?_, State.writeBarred_absent, State.writeBarred_hub⟩
    · exact ran.trans (congrArg _ (State.writeBar4_barred some_ barred))
    · exact yields_of (ran.trans (congrArg _ (State.writeBar4_stored some_ open_)))
        ⟨fun i h => s.write_byte_same _ _ h, fun b h => s.write_byte_other _ _ h, s.mem.writeBytes_tallyErr .., rfl⟩

/-- Settles O20: a link that goes down is taken from the lists, and the last one faults hub function 6; the I3C target acts as
slot 62. -/
theorem linksAndI3cTarget : Obligations.LinksAndI3cTarget := by
  refine ⟨fun s l up linked others => ?_, fun s l up last free => ?_, fun s l half up bonded out first lim => ?_, fun s off up => ?_,
    fun s a up => ?_, fun s r up stage aligned outside reg priv => ?_, fun s v up stage offset priv => ?_⟩
  · obtain ⟨k, listed, ne⟩ := others
    have left : k ∈ (s.acc.linkDown l.val).linksUp := List.mem_filter.mpr ⟨listed, by simpa using ne⟩
    refine (exec_ucieLinkDown up linked).trans (congrArg Host.Outcome.next (if_neg ?_))
    simpa using List.ne_nil_of_mem left
  · have down : (s.acc.linkDown l.val).linksUp = [] := by simp [Access.linkDown, last]
    have ran := (exec_ucieLinkDown up (link := l) (by simp [last])).trans (congrArg Host.Outcome.next (if_pos (by simp [down])))
    have kept := State.fault_changes { s with acc := s.acc.linkDown l.val } 0xA 6 8
    have logged := State.fault_logged { s with acc := s.acc.linkDown l.val } 0xA 6 8 (.inl (by decide))
    have gone := (congrArg Access.linksUp (kept.same .acc (by decide))).trans down
    exact yields_of ran ⟨gone, State.barLink_none gone, logged, State.fault_troubled _ 0xA 6 8 (by decide)⟩
  · refine yields_of (exec_ucieLinkTrained up bonded out first lim half) ⟨fun k => s.acc.mem_linksUp_linkTrained ..,
      fun k => s.acc.mem_linksHalf_linkTrained .., ?_, rfl⟩
    simp [Access.linkTrained]
  · exact congrArg Host.Outcome.next (if_pos up)
  · exact congrArg Host.Outcome.next (if_pos up)
  · have ran := (exec_i3cRegisterAccess_read up).trans
      (congrArg Host.Outcome.next (State.bar0Read_reg (State.actsAs_i3c up stage) aligned outside reg))
    rw [State.readReg_priv priv] at ran
    refine yields_of ran ?_
    rw [State.readEffect_latches priv]
    exact ⟨rfl, rfl⟩
  · rw [exec_i3cRegisterAccess_write up, offset,
      State.bar0Write_reg (State.actsAs_i3c up stage) (by decide) (by decide) (r := .ceil) (by decide), State.writeReg_ceil priv]
end

section
/-! Time domains (R343-R347): roles and SYNC, TIME_ALIGN and its messages, changes of the pick length. -/

-- one proof at a time: side by side, their stacks and heaps do not fit beside the rest of the text
set_option Elab.async false

namespace Sys2Proof.Machine

variable {s t : State}

/-! ## A port apart from its flits -/

/-- A port without the flits that it sends and holds: what sending changes is left out. -/
def Port.link (x : Port) : Port := { x with waiting := [], unacked := [], txSeq := 0, credits := [], ackPick := 0 }
theorem Port.pump_link (now n : Nat) (x : Port) : (x.pump now n).link = x.link := by
  induction n generalizing x with
  | zero => rfl
  | succ n ih =>
    rw [Port.pump]
    split
    · rfl
    · split
      · exact ih _
      · rfl

/-- The links of the module: every port apart from its flits. -/
def State.links (s : State) (p : Nat) : Port := (s.port p).link
theorem State.links_of_ports (same : t.ports = s.ports) : t.links = s.links := by
  funext p
  rw [State.links, State.port, same, State.links, State.port]
theorem Keeps.links_eq {B : List Block} (k : Keeps B s t) (hb : Block.ports ∉ B) : t.links = s.links :=
  State.links_of_ports (k.same .ports hb)
theorem State.modPort_links {p : Nat} {f : Port → Port} (stays : ∀ x, (f x).link = x.link) : (s.modPort p f).links = s.links := by
  funext q
  rcases eq_or_ne q p with rfl | other
  · rw [State.links, State.modPort_port, stays, State.links]
  · rw [State.links, State.modPort_port_other _ other, State.links]
theorem State.sendFlits_links (s : State) (p vc n c : Nat) : (s.sendFlits p vc n c).links = s.links :=
  State.modPort_links fun _ => Port.pump_link ..
theorem State.sendFlits_port_other {p q : Nat} (other : q ≠ p) (s : State) (vc n c : Nat) :
    (s.sendFlits p vc n c).port q = s.port q := s.modPort_port_other other _
theorem State.each_links {α : Type} {l : List α} {f : State → α → State} (turn : ∀ t a, (f t a).links = t.links) (s : State) :
    (State.each l f s).links = s.links :=
  State.each_holds (P := fun t => t.links = s.links) (fun t a _ same => (turn t a).trans same) rfl
/-- A message on ports leaves every link as it is. -/
theorem State.sendOn_links (s : State) (ports : List Nat) (m : CtrlMsg) : (s.sendOn ports m).links = s.links :=
  State.each_links (fun t p => (t.emit (.ctrl p m)).sendFlits_links p 0 1 256) s
theorem State.sendOn_port_other {q : Nat} {ports : List Nat} (out : q ∉ ports) (s : State) (m : CtrlMsg) :
    (s.sendOn ports m).port q = s.port q :=
  State.each_holds (P := fun t => t.port q = s.port q)
    (fun t p listed same => (State.sendFlits_port_other (ne_of_mem_of_not_mem listed out).symm (t.emit (.ctrl p m)) 0 1 256).trans same) rfl
/-- What is read of a port apart from its flits is read of its link. -/
theorem State.port_of_links {α : Type} (f : Port → α) (same : t.links = s.links) (own : ∀ x : Port, f x.link = f x) (p : Nat) :
    f (t.port p) = f (s.port p) := by
  rw [← own, ← own (s.port p)]
  exact congrArg f (congrFun same p)
theorem State.treePorts_of_links (same : t.links = s.links) (e : Nat) : t.treePorts e = s.treePorts e := by
  have state := State.port_of_links Port.state same fun _ => rfl
  simp only [State.treePorts, state]
theorem State.childPorts_of_links (same : t.links = s.links) (time : t.time = s.time) (sec : t.sec = s.sec) :
    t.childPorts = s.childPorts := by
  have leader := State.port_of_links Port.leader same fun _ => rfl
  have depth := State.port_of_links Port.peerDepth same fun _ => rfl
  simp only [State.childPorts, State.upPort, State.timeLeader, State.treePorts_of_links same, leader, depth, time, sec]

/-! ## Time messages -/

section
variable (s) (ports : List Nat) (msg pick arg arg2 : Nat)

theorem State.sendTime_frame : s.sendTime ports msg pick arg arg2 = { s with
    ports := (s.sendTime ports msg pick arg arg2).ports, out := (s.sendTime ports msg pick arg arg2).out } := s.sendOn_frame ..
@[simp] theorem State.sendTime_time : (s.sendTime ports msg pick arg arg2).time = s.time := by rw [State.sendTime_frame]
@[simp] theorem State.sendTime_clk : (s.sendTime ports msg pick arg arg2).clk = s.clk := by rw [State.sendTime_frame]
@[simp] theorem State.sendTime_mbx : (s.sendTime ports msg pick arg arg2).mbx = s.mbx := by rw [State.sendTime_frame]
theorem State.sendTime_timeBusy : (s.sendTime ports msg pick arg arg2).timeBusy = s.timeBusy := by
  rw [State.sendTime_frame]
  rfl
theorem State.sendTime_treeLen : (s.sendTime ports msg pick arg arg2).treeLen = s.treeLen := by
  rw [State.sendTime_frame]
  rfl
theorem State.sendTime_ownLead : (s.sendTime ports msg pick arg arg2).ownLead = s.ownLead := by
  rw [State.sendTime_frame]
  rfl
theorem State.sendTime_childPorts : (s.sendTime ports msg pick arg arg2).childPorts = s.childPorts :=
  State.childPorts_of_links (s.sendOn_links ..) (s.sendTime_time ..) (by rw [State.sendTime_frame])
theorem State.sendTime_sends : s.out <:+ (s.sendTime ports msg pick arg arg2).out ∧
    ∀ p ∈ ports, Output.ctrl p ⟨msg, 0xFFFF, 0, pick, arg, arg2⟩ ∈ (s.sendTime ports msg pick arg arg2).out := s.sendOn_out ..
end

/-! ## Roles and SYNC (R343, R344, R346) -/

theorem State.timeRole_busy (busy : s.timeBusy = true) (role up : Nat) : s.timeRole role up = s.report (.droppedWrite 3) :=
  if_pos busy
theorem State.timeRole_free (free : s.timeBusy = false) (role up : Nat) : s.timeRole role up = { s with time := { s.time with
    role := if role = 3 then s.time.role else role, upstream := up
    state := if (if role = 3 then s.time.role else role) = 1 then 1 else 0, ahead := false, depth := 0, ofs := 0, leader := 0
    upAligned := false, holdoverSince := none, remoteReqs := [], sched := [] } } := if_neg (Bool.eq_false_iff.mp free)

theorem exec_syncSend {p : Fin 36} (awake : s.awake = true) (linked : (s.port p.val).state = 2) : exec (.syncSend p) s =
    .next ((s.modPort p.val fun y => { y with lastSyncHere := s.clk.pick }).emit
      (.sync p.val s.clk.pick 0 (s.port p.val).lastSyncPick (s.port p.val).lastSyncPhase s.timeLeader)) :=
  congrArg Host.Outcome.next (if_pos (by rw [awake, linked]; rfl))

/-- The peer's stamps kept on port `p`. -/
def State.syncKept (s : State) (p : Nat) (st : SyncStamps) : State :=
  s.modPort p fun y => { y with lastSyncPick := st.pickHere, lastSyncPhase := st.phaseHere, leader := st.leader, peerDepth := st.depth }
theorem exec_syncReceive {p : Fin 36} (awake : s.awake = true) (linked : (s.port p.val).state = 2) (st : SyncStamps) :
    exec (.syncReceive p st) s = .next (let u := s.syncKept p.val st
      if s.time.role = 2 ∧ p.val = s.time.upstream then
        ({ u with time := { s.time with leader := st.leader, depth := min (st.depth + 1) 255 } }).followOffset
          (s.offsetFrom (s.port p.val).lastSyncHere st) st.aligned
      else u) :=
  congrArg Host.Outcome.next (if_pos (by rw [awake, linked]; rfl))

/-- A follower's new offset, after the step forward that a lag at two SYNCs in a row brings (log entry 31). -/
def State.offsetTaken (s : State) (ofs : Int) : State :=
  let picks := ((-ofs) / s.clk.lenQ).toNat
  if decide (ofs < -4000) && decide (s.time.ofs < -4000) && !s.timeBusy && s.sched.runs.isEmpty && picks != 0 then
    let clk : Clock := { s.clk with pick := (s.clk.pick + picks) % 2 ^ 64 }
    { s with clk := clk.logChange true, time := { s.time with ofs := ofs + picks * s.clk.lenQ } }
  else { s with time := { s.time with ofs := ofs } }
theorem State.followOffset_eq (s : State) (ofs : Int) (up : Bool) : s.followOffset ofs up =
    let u := s.offsetTaken ofs
    let aligned := up && decide (-4 ≤ u.time.ofs ∧ u.time.ofs ≤ 4)
    { u with time := { u.time with
      upAligned := up, holdoverSince := none, state := if aligned then 1 else 3, ahead := !aligned && decide (0 < u.time.ofs) } } := rfl
theorem State.offsetTaken_time (s : State) (ofs : Int) :
    (s.offsetTaken ofs).time = { s.time with ofs := (s.offsetTaken ofs).time.ofs } := by
  unfold State.offsetTaken
  dsimp only
  split
  · rfl
  · rfl
theorem State.offsetTaken_kept {ofs : Int}
    (stays : -4000 ≤ ofs ∨ -4000 ≤ s.time.ofs ∨ s.timeBusy = true ∨ s.sched.runs ≠ []) :
    s.offsetTaken ofs = { s with time := { s.time with ofs := ofs } } := by
  refine if_neg ?_
  simp only [Bool.and_eq_true, decide_eq_true_eq, Bool.not_eq_true', List.isEmpty_iff]
  rintro ⟨⟨⟨⟨now, before⟩, free⟩, idle⟩, -⟩
  rcases stays with near | near | busy | runs
  · omega
  · omega
  · rw [free] at busy
    cases busy
  · exact runs idle
/-- A lag of more than 1 microsecond is at least one pick, whatever the pick length. -/
theorem lag_ne_zero {ofs : Int} {len : Nat} (lags : ofs < -4000) (some_ : 0 < len) (short : len ≤ 64) :
    ((-ofs) / len).toNat ≠ 0 := by
  have one : (1 : Int) ≤ (-ofs) / len := (Int.le_ediv_iff_mul_le (by omega)).mpr (by omega)
  omega
theorem State.offsetTaken_stepped {ofs : Int} (now : ofs < -4000) (before : s.time.ofs < -4000) (free : s.timeBusy = false)
    (idle : s.sched.runs = []) (some_ : 0 < s.clk.lenQ) (short : s.clk.lenQ ≤ 64) :
    let n := ((-ofs) / s.clk.lenQ).toNat
    (s.offsetTaken ofs).clk.pick = (s.clk.pick + n) % 2 ^ 64 ∧ (s.offsetTaken ofs).time.ofs = ofs + n * s.clk.lenQ ∧
      (s.offsetTaken ofs).clk.elapsed = s.clk.elapsed := by
  have picks := lag_ne_zero now some_ short
  have stepped : s.offsetTaken ofs = _ := if_pos (by simp [now, before, free, idle, picks])
  rw [stepped]
  exact ⟨rfl, rfl, rfl⟩
theorem State.followOffset_state (s : State) (ofs : Int) (up : Bool) : let u := s.followOffset ofs up
    (u.time.state = 1 ↔ up = true ∧ -4 ≤ u.time.ofs ∧ u.time.ofs ≤ 4) ∧ (u.time.state = 1 ∨ u.time.state = 3) := by
  rw [State.followOffset_eq]
  dsimp only
  split
  next aligned => simpa using aligned
  next other => simpa using other

/-! ## Alignment (R345) -/

/-- The leads and the busy members that have been told of are gone, and no query is out. -/
def TimeDomain.answered (x : TimeDomain) : TimeDomain := { x with query := false, alignReplies := [] }
/-- A busy member has answered: no command waits any longer. -/
def State.alignDropped (s : State) : State := { s with time := { s.time.answered with alignMbx := none } }
/-- The domain is to step to pick `v` at the leader's pick `a`; TIME_ALIGN waits for it. -/
def State.alignPlanned (s : State) (a v : Nat) : State :=
  { s with time := { s.time.answered with step := some (a, v), alignDone := some (v + 16) } }

theorem State.alignGo_waits {p : Nat} (child : p ∈ s.childPorts) (silent : ∀ r ∈ s.time.alignReplies, r.1 ≠ p) :
    s.alignGo = s := by
  refine if_neg ?_
  simp only [Bool.and_eq_true, List.all_eq_true, List.any_eq_true, beq_iff_eq, not_and]
  intro _ all
  obtain ⟨r, listed, same⟩ := all p child
  exact silent r listed same

section
variable (asked : s.time.query = true) (all : ∀ p ∈ s.childPorts, ∃ r ∈ s.time.alignReplies, r.1 = p)
include asked all

theorem State.alignGo_guard :
    (s.time.query && s.childPorts.all (fun p => s.time.alignReplies.any (fun r => r.1 == p))) = true := by
  simpa [asked] using all
theorem State.alignGo_follower (follows : s.time.role ≠ 1) : s.alignGo =
    ({ s with time := s.time.answered } : State).sendTime [s.time.upstream] 0x0E s.clk.pick s.treeLead.1 (b2n s.treeLead.2) :=
  (if_pos (State.alignGo_guard asked all)).trans (if_neg follows)
theorem State.alignGo_leader {m : Nat} (leads : s.time.role = 1) (mine : s.time.alignMbx = some m) : s.alignGo =
    if s.treeLead.2 = true then s.alignDropped.complete m 0x11 []
    else (s.alignPlanned (s.clk.pick + 65536) (s.clk.pick + 65536 + s.treeLead.1 + 1024)).sendTime
      (s.treePorts 36) 0x0F (s.clk.pick + 65536) (s.clk.pick + 65536 + s.treeLead.1 + 1024) 0 := by
  refine (if_pos (State.alignGo_guard asked all)).trans ((if_pos leads).trans ?_)
  dsimp only
  split
  next none_ => cases none_.symm.trans mine
  next k own =>
    obtain rfl : k = m := Option.some.inj (own.symm.trans mine)
    rfl
end

/-- Without a module below, the lead to tell of is the module's own. -/
theorem State.treeLead_alone (none_ : s.time.alignReplies = []) : s.treeLead = ((max 0 s.ownLead).toNat, s.timeBusy) := by
  simp [State.treeLead, none_, maxNat]
theorem exec_timeAlign_refused {m : Fin 16} (waits : s.awaits m.val 0x0010) (other : s.time.role ≠ 1) :
    exec (.timeAlign m) s = .next (s.complete m.val 0x11 []) :=
  congrArg Host.Outcome.next ((State.command_done waits _).trans (if_pos other))
/-- A query is out: the command of mailbox `m` waits for its answers. -/
def State.alignAsked (s : State) (m : Nat) : State :=
  { s with time := { s.time with alignMbx := some m, alignSince := s.clk.wall, alignReplies := [], query := true } }
theorem exec_timeAlign {m : Fin 16} (waits : s.awaits m.val 0x0010) (leads : s.time.role = 1) (idle : s.time.alignMbx = none) :
    exec (.timeAlign m) s =
      .next ((s.alignAsked m.val).sendTime (s.treePorts 36) 0x0D s.clk.pick 0 0).alignGo :=
  congrArg Host.Outcome.next ((State.command_done waits _).trans ((if_neg (not_not.mpr leads)).trans (if_neg (by simp [idle]))))
/-- A query has come from upstream. -/
def State.queried (s : State) : State := { s with time := { s.time with alignReplies := [], query := true } }
theorem exec_timeQuery {p : Fin 36} (up : s.up = true) (follows : s.time.role = 2) (above : p.val = s.time.upstream) :
    exec (.timeQuery p) s = .next (s.queried.sendTime (s.treePorts p.val) 0x0D s.clk.pick 0 0).alignGo :=
  congrArg Host.Outcome.next (if_pos (by rw [up, follows, ← above]; simp))
/-- The one reply that has come: the lead below port `p`, and whether a member there is busy. -/
def State.told (s : State) (p lead : Nat) (busy : Bool) : State :=
  { s with time := { s.time with alignReplies := [(p, lead, busy)] } }
/-- A leader with one module below takes the lead that this one has told of. -/
theorem State.told_treeLead (leads : s.time.role = 1) (p lead : Nat) (busy : Bool) :
    (s.told p lead busy).treeLead = (lead, s.timeBusy || busy) := by
  have own : (s.told p lead busy).ownLead = 0 := if_neg (ne_of_eq_of_ne leads (by decide))
  have busies : (s.told p lead busy).timeBusy = s.timeBusy := rfl
  have replies : (s.told p lead busy).time.alignReplies = [(p, lead, busy)] := rfl
  simp [State.treeLead, own, busies, replies, maxNat]
theorem exec_timeReply {p : Fin 36} (up : s.up = true) (leads : s.time.role = 1) (asked : s.time.query = true)
    (first : s.time.alignReplies = []) (lead : BitVec 64) (busy : Bool) : exec (.timeReply p lead busy) s =
      .next (s.told p.val lead.toNat busy).alignGo := by
  have below : p.val ≠ s.upPort := by
    rw [State.upPort, if_neg (by omega)]
    omega
  refine congrArg Host.Outcome.next ((if_pos (by simp [up, asked, below])).trans ?_)
  rw [first]
  rfl
theorem exec_timeAlignTimeout {m : Nat} (up : s.up = true) (asked : s.time.query = true) (mine : s.time.alignMbx = some m)
    (late : 40000000 ≤ s.clk.wall - s.time.alignSince) : exec .timeAlignTimeout s = .next
      (({ s with time := { s.time with query := false, alignReplies := [], alignMbx := none } } : State).complete m 0x11 []) := by
  refine congrArg Host.Outcome.next ?_
  rw [mine]
  exact if_pos (by rw [up, asked, decide_eq_true late]; rfl)
theorem exec_timeStep {p : Fin 36} (up : s.up = true) (follows : s.time.role = 2) (above : p.val = s.time.upstream)
    (a v : BitVec 64) : exec (.timeStep p a v) s = .next
      (({ s with time := { s.time with step := some (a.toNat, v.toNat) } } : State).sendTime (s.treePorts p.val) 0x0F a.toNat v.toNat 0) :=
  congrArg Host.Outcome.next (if_pos (by rw [up, follows, ← above]; simp))
theorem exec_timeStepApply {a v : Nat} (up : s.up = true) (noted : s.time.step = some (a, v)) (idle : s.sched.runs = [])
    (due : (a : Int) + s.ownLead ≤ s.clk.pick) (forward : s.clk.pick ≤ v) (fits : v < 2 ^ 64) :
    exec .timeStepApply s = .next { s with
      clk := ({ s.clk with pick := v } : Clock).logChange true, time := { s.time with step := none } } := by
  refine congrArg Host.Outcome.next ?_
  rw [noted]
  dsimp only
  rw [if_pos (by simp [up, idle, due]), if_pos forward, Nat.mod_eq_of_lt fits]

/-! ## Changes of the pick length (R33, R347) -/

/-- The longest length requested below port `p` is noted. -/
def State.lenNoted (s : State) (p len : Nat) : State :=
  { s with time := { s.time with remoteReqs := Tab.put 16 s.time.remoteReqs p len } }
theorem exec_picklenReq {p : Fin 36} {len : Fin 128} (up : s.up = true) (member : s.time.role ≠ 0)
    (linked : (s.port p.val).state = 2) (below : p.val ≠ s.upPort) (low : 16 ≤ len.val) (high : len.val ≤ 64) :
    exec (.picklenReq p len) s = .next (let u := s.lenNoted p.val len.val
      if u.treeLen = s.treeLen then u else u.lenUp) :=
  congrArg Host.Outcome.next (if_pos (by simp [up, member, linked, below, lenOk, low, high]))
theorem exec_picklenReq_bad {p : Fin 36} {len : Fin 128} (bad : len.val < 16 ∨ 64 < len.val) :
    exec (.picklenReq p len) s = .next s := by
  have not_ok : lenOk len.val = false := by
    simp only [lenOk, decide_eq_false_iff_not]
    omega
  exact congrArg Host.Outcome.next (if_neg (by simp [not_ok]))

theorem State.lenUp_leader (leads : s.time.role = 1) : s.lenUp = s.leaderLen := if_pos leads
/-- A follower tells its upstream module, where this one is reached. -/
theorem State.lenUp_follower (follows : s.time.role = 2) : s.lenUp.time = s.time ∧ s.lenUp.treeLen = s.treeLen ∧
    ((s.port s.time.upstream).state = 2 →
      .ctrl s.time.upstream ⟨0x0B, 0xFFFF, 0, s.clk.pick, 0, s.treeLen⟩ ∈ s.lenUp.out) := by
  have tells : s.lenUp = if (s.port s.time.upstream).state = 2 then s.sendTime [s.time.upstream] 0x0B s.clk.pick 0 s.treeLen else s :=
    (if_neg (by omega)).trans (if_pos follows)
  rw [tells]
  split
  next linked => exact ⟨s.sendTime_time .., s.sendTime_treeLen .., fun _ => (s.sendTime_sends ..).2 _ (List.mem_singleton_self _)⟩
  next down => exact ⟨rfl, rfl, fun linked => absurd linked down⟩

/-- The leader has planned the changes `l`, the last of which comes at pick `e`, and told every module of it. -/
def State.planned (s : State) (l : List PickSwitch) (e : Nat) : State :=
  ({ s with time := { s.time with sched := l } } : State).fresh.sendTime (s.treePorts 36) 0x0C s.clk.pick e s.treeLen
theorem State.planned_time (s : State) (l : List PickSwitch) (e : Nat) : (s.planned l e).time = { s.time with sched := l } :=
  State.sendTime_time ..
theorem State.planned_treeLen (s : State) (l : List PickSwitch) (e : Nat) : (s.planned l e).treeLen = s.treeLen :=
  State.sendTime_treeLen ..
theorem State.planned_sched (s : State) (l : List PickSwitch) (e : Nat) : (s.planned l e).time.sched = l :=
  congrArg TimeDomain.sched (s.planned_time l e)
/-- Choosing a switch pick changes what is planned, not what is requested. -/
theorem State.leaderLen_requests (s : State) :
    s.leaderLen.time.remoteReqs = s.time.remoteReqs ∧ s.leaderLen.treeLen = s.treeLen := by
  have chosen : s.leaderLen = s ∨ ∃ l e, s.leaderLen = s.planned l e := by
    unfold State.leaderLen
    extract_lets target e0 stand before planned e told
    split
    · exact .inl rfl
    · exact .inr ⟨_, e, rfl⟩
  rcases chosen with same | ⟨l, e, told⟩
  · rw [same]
    exact ⟨rfl, rfl⟩
  · rw [told, State.planned_time, State.planned_treeLen]
    exact ⟨rfl, rfl⟩
/-- The switch pick of a new change: the deepest path's time on, and for a length below `len` not before pick `least`. -/
def State.switchPick (s : State) (len least : Nat) : Nat :=
  if s.treeLen < len then max (s.clk.pick + 256 + Config.freeNat s.tick) least else s.clk.pick + 256 + Config.freeNat s.tick
theorem State.le_switchPick (s : State) (len least : Nat) : s.clk.pick + 256 ≤ s.switchPick len least := by
  unfold State.switchPick
  split
  · omega
  · omega
theorem State.least_le_switchPick {len : Nat} (shorter : s.treeLen < len) (least : Nat) : least ≤ s.switchPick len least := by
  rw [State.switchPick, if_pos shorter]
  exact le_max_right _ _
/-- With no change planned, a shorter length comes 1,000 picks after the last change. -/
theorem State.leaderLen_first (none_ : s.time.sched = []) (new : s.treeLen ≠ s.clk.lenQ) :
    let e := s.switchPick s.clk.lenQ (s.clk.pick + (1000 - (s.clk.elapsed - s.clk.lastChange)))
    s.leaderLen = s.planned [⟨e, s.treeLen, false, false, false⟩] e := by
  unfold State.leaderLen
  rw [none_]
  exact if_neg new
/-- After a change that stands, a shorter length comes 1,000 picks later. -/
theorem State.leaderLen_next {x : PickSwitch} (one : s.time.sched = [x]) (stands : x.pick < s.clk.pick + 256)
    (shorter : s.treeLen < x.len) :
    let e := s.switchPick x.len (x.pick + 1000)
    s.leaderLen = s.planned [x, ⟨e, s.treeLen, false, false, false⟩] e := by
  have kept (n : Nat) : [x].filter (fun e => decide (e.pick < s.clk.pick + 256 + n)) = [x] := by
    rw [List.filter_eq_self]
    simp only [List.mem_singleton, decide_eq_true_eq]
    rintro _ rfl
    omega
  unfold State.leaderLen
  rw [one]
  dsimp only
  rw [kept]
  exact if_neg shorter.ne

theorem exec_picklen {p : Fin 36} {len : Fin 128} (up : s.up = true) (follows : s.time.role = 2) (above : p.val = s.time.upstream)
    (low : 16 ≤ len.val) (high : len.val ≤ 64) (e : BitVec 64) (th pw sc : Bool) :
    exec (.picklen p e len th pw sc) s = .next (
      let u := s.sendTime (s.treePorts p.val) 0x0C s.clk.pick e.toNat len.val
      let at_ := if e.toNat < s.clk.pick then s.clk.pick + 1 else e.toNat
      { u with time := { s.time with
        lateLen := s.time.lateLen || decide (e.toNat < s.clk.pick)
        setAt := if e.toNat < s.clk.pick then note s.time.setAt 4 s.clk.elapsed else s.time.setAt
        sched := s.time.sched.filter (fun x => decide (x.pick < at_)) ++ [⟨at_, len.val, th, pw, sc⟩] } }) := by
  refine congrArg Host.Outcome.next ((if_pos (by rw [up, follows, ← above]; simp [lenOk, low, high])).trans ?_)
  simp only [State.sendTime_time, State.sendTime_clk, decide_eq_true_eq]

end Sys2Proof.Machine

open Sys2Proof Sys2Proof.Machine

/-- Settles O13: a role is written whole or not at all; a follower's offset is taken, and stepped where it lags twice. -/
theorem timeRolesAndSync : Obligations.TimeRolesAndSync := by
  refine ⟨fun s who j role up acts busy => ?_, fun s who j role up acts free => ?_, fun s p awake linked => ?_,
    fun s p st awake linked other => ?_, fun s p st awake linked follows above some_ => ?_, fun s w up holds since late => ?_⟩
  · exact congrArg Host.Outcome.next ((State.prvWrite_done acts _).trans (State.timeRole_busy busy ..))
  · refine yields_of (congrArg Host.Outcome.next ((State.prvWrite_done acts _).trans (State.timeRole_free free ..))) ?_
    have leave : role.val = 3 ↔ role = 3 := ⟨fun h => Fin.ext h, fun h => h ▸ rfl⟩
    exact ⟨if_congr leave rfl rfl, rfl, fun leads => if_pos leads, rfl, rfl, rfl⟩
  · exact yields_of (exec_syncSend awake linked) ⟨rfl, (State.emit_get_port ..).trans (s.modPort_port ..),
      fun q other => (State.emit_get_port ..).trans (s.modPort_port_other other _), rfl⟩
  · have ran := exec_syncReceive awake linked st
    rw [if_neg other] at ran
    exact yields_of ran ⟨s.modPort_port .., fun q ne => s.modPort_port_other ne _, rfl⟩
  · have ran := exec_syncReceive awake linked st
    rw [if_pos ⟨follows, above⟩, State.followOffset_eq] at ran
    generalize s.offsetFrom (s.port p.val).lastSyncHere st = o at *
    generalize taken : ({ s.syncKept p.val st with time := { s.time with leader := st.leader, depth := min (st.depth + 1) 255 } } :
      State) = u at *
    have time := u.offsetTaken_time o
    refine yields_of ran ⟨?_, ?_, rfl, fun stays => ?_, fun now before free idle short => ?_, ?_⟩
    · exact (congrArg TimeDomain.leader time).trans (by rw [← taken])
    · exact (congrArg TimeDomain.depth time).trans (by rw [← taken])
    · rw [State.offsetTaken_kept (s := u) (by rw [← taken]; exact stays), ← taken]
      exact ⟨rfl, rfl⟩
    · have stepped := State.offsetTaken_stepped (s := u) now (by rw [← taken]; exact before) (by rw [← taken]; exact free)
        (by rw [← taken]; exact idle) (by rw [← taken]; exact some_) (by rw [← taken]; exact short)
      have clk : u.clk = s.clk := by rw [← taken]; rfl
      rwa [clk] at stepped
    · exact u.followOffset_state o st.aligned
  · refine congrArg Host.Outcome.next ?_
    dsimp only
    rw [since]
    exact if_pos (by rw [up, holds, decide_eq_true late]; rfl)

/-- Settles O14: each message changes the member's notes and is passed on; the ports it goes out on keep their place in the tree. -/
theorem timeDomainMessages : Obligations.TimeDomainMessages := by
  refine ⟨fun s m waits other => ?_, fun s m waits leads idle children => ?_, fun s p up follows above leaf => ?_,
    fun s p lead busy m up leads asked child none_ mine => ?_, fun s m up asked mine late => ?_, fun s p a v up follows above => ?_,
    fun s a v up noted idle due forward fits => ?_, fun s p len up follows linked other low high => ?_,
    fun s p len up leads linked low high => ?_, fun s p len bad => exec_picklenReq_bad bad,
    fun s p e len th pw sc up follows above low high => ?_⟩
  · exact yields_refused (exec_timeAlign_refused waits other)
  · obtain ⟨p, child⟩ := List.exists_mem_of_ne_nil _ children
    have ran := exec_timeAlign waits leads idle
    generalize sent : (s.alignAsked m.val).sendTime (s.treePorts 36) 0x0D s.clk.pick 0 0 = u at ran
    have time : u.time = (s.alignAsked m.val).time := by rw [← sent, State.sendTime_time]
    have mbx : u.mbx = s.mbx := by rw [← sent, State.sendTime_mbx]; rfl
    have clk : u.clk = s.clk := by rw [← sent, State.sendTime_clk]; rfl
    rw [State.alignGo_waits (p := p) (by rw [← sent, State.sendTime_childPorts]; exact child) (by rw [time]; nofun)] at ran
    refine yields_of ran ⟨time, fun q listed => ?_, ?_, clk⟩
    · rw [← sent]
      exact (State.sendTime_sends ..).2 q listed
    · rw [State.mailbox, mbx]
      exact waits.2.1
  · have ran := exec_timeQuery up follows above
    generalize sent : s.queried.sendTime (s.treePorts p.val) 0x0D s.clk.pick 0 0 = u at ran
    have time : u.time = s.queried.time := by rw [← sent, State.sendTime_time]
    have clk : u.clk = s.clk := by rw [← sent, State.sendTime_clk]; rfl
    have lead : u.treeLead = ((max 0 s.ownLead).toNat, s.timeBusy) := by
      rw [State.treeLead_alone (by rw [time]; rfl), ← sent, State.sendTime_ownLead, State.sendTime_timeBusy]
      rfl
    have leaf' : u.childPorts = [] := by rw [← sent, State.sendTime_childPorts]; exact leaf
    rw [State.alignGo_follower (by rw [time]; rfl) (by rw [leaf']; nofun) (by rw [time]; exact ne_of_eq_of_ne follows (by decide)), lead, clk,
      time] at ran
    refine yields_of ran ⟨State.sendTime_time .., ?_⟩
    rw [above]
    exact (State.sendTime_sends ..).2 _ (List.mem_singleton_self _)
  · have ran := exec_timeReply (p := p) up leads asked none_ lead busy
    have all : ∀ q ∈ (s.told p.val lead.toNat busy).childPorts, ∃ r ∈ (s.told p.val lead.toNat busy).time.alignReplies, r.1 = q := by
      intro q (listed : q ∈ s.childPorts)
      rw [child, List.mem_singleton] at listed
      exact ⟨_, List.mem_singleton_self _, listed.symm⟩
    rw [State.alignGo_leader (s := s.told p.val lead.toNat busy) asked all leads mine, State.told_treeLead leads] at ran
    refine yields_of ran ⟨fun refuses => ?_, fun quiet free => ?_⟩
    · have busies : (s.timeBusy || busy) = true := by rwa [Bool.or_eq_true, or_comm]
      rw [if_pos busies]
      exact ⟨State.completes_after (s := s) (u := (s.told p.val lead.toNat busy).alignDropped) rfl rfl m 0x11 [], rfl⟩
    · have quiets : ¬(s.timeBusy || busy) = true := by simp [quiet, free]
      rw [if_neg quiets, State.sendTime_time]
      exact ⟨rfl, rfl, (State.sendTime_sends ..).2⟩
  · exact yields_of (exec_timeAlignTimeout up asked mine late) ⟨State.completes_after rfl rfl .., rfl, rfl⟩
  · exact yields_of (exec_timeStep up follows above a v) ⟨State.sendTime_time .., (State.sendTime_sends ..).2⟩
  · exact yields_of (exec_timeStepApply up noted idle due forward fits) ⟨rfl, rfl, rfl, rfl, rfl⟩
  · have upstream : s.upPort = s.time.upstream := if_pos follows
    have ran := exec_picklenReq up (by omega) linked (by rwa [upstream]) low high
    dsimp only at ran
    generalize noted : s.lenNoted p.val len.val = u at ran
    split at ran
    next same => exact yields_of ran ⟨by rw [← noted]; rfl, fun new => absurd same new⟩
    next new =>
      obtain ⟨time, treeLen, tells⟩ := State.lenUp_follower (s := u) (by rw [← noted]; exact follows)
      refine yields_of ran ⟨by rw [time, ← noted]; rfl, fun _ upLinked => ?_⟩
      rw [treeLen]
      subst noted
      exact tells upLinked
  · have top : s.upPort = 36 := if_neg (by omega)
    have ran := exec_picklenReq up (by omega) linked (by rw [top]; omega) low high
    dsimp only at ran
    split at ran
    next same => exact yields_of ran ⟨rfl, fun new => absurd same new, fun x new => absurd same new⟩
    next new =>
      rw [State.lenUp_leader (s := s.lenNoted p.val len.val) leads] at ran
      obtain ⟨reqs, treeLen⟩ := (s.lenNoted p.val len.val).leaderLen_requests
      refine yields_of ran ⟨reqs, fun _ none_ longer => ?_, fun x _ one stands shorter => ?_⟩
      · rw [treeLen] at longer ⊢
        have chosen := State.leaderLen_first (s := s.lenNoted p.val len.val) none_ longer
        refine ⟨_, (congrArg (fun t => t.time.sched) chosen).trans (State.planned_sched ..), (s.lenNoted p.val len.val).le_switchPick ..,
          fun shorter => State.least_le_switchPick shorter _, fun q listed => ?_⟩
        rw [chosen]
        exact (State.sendTime_sends ..).2 q listed
      · rw [treeLen] at shorter ⊢
        have chosen := State.leaderLen_next (s := s.lenNoted p.val len.val) one stands shorter
        exact ⟨_, (congrArg (fun t => t.time.sched) chosen).trans (State.planned_sched ..), (s.lenNoted p.val len.val).le_switchPick ..,
          State.least_le_switchPick shorter _⟩
  · exact yields_of (exec_picklen up follows above low high e th pw sc) ⟨rfl, (State.sendTime_sends ..).2⟩
end

section
/-! Xeast ports (R333-R342): flits and their replay, retrains and failures, training, PLAN_ID. -/

-- one proof at a time: side by side, their stacks and heaps do not fit beside the rest of the text
set_option Elab.async false

namespace Sys2Proof.Machine

variable {s t : State} {B : List Block} {p q : Nat}

theorem Keeps.port_eq (k : Keeps B s t) (hb : Block.ports ∉ B) (p : Nat) : t.port p = s.port p := by
  have same : t.ports = s.ports := k.same .ports hb
  rw [State.port, same, State.port]

/-! ## Resends (R336) -/

/-- Port `p` after `n` flits have been sent again at pick `now`. -/
def Port.resent (x : Port) (n now : Nat) : Port :=
  { x with retry := satAdd max32 x.retry n, resends := x.resends + 1, ackPick := now }
/-- Every unacknowledged flit of port `p` has gone out again; only the checks of the steps that wait for it are still to be marked. -/
def State.resent (s : State) (p : Nat) : State :=
  ({ s with out := ((s.port p).unacked.map fun f => .resend p f.1).reverse ++ s.out } : State).modPort p fun y =>
    y.resent (s.port p).unacked.length s.clk.elapsed
theorem State.resendAll_none (none_ : (s.port p).unacked = []) : s.resendAll p = s := if_pos (by rw [none_]; rfl)
theorem State.resendAll_some (some_ : (s.port p).unacked ≠ []) : Keeps [.ctxs, .obs] (s.resent p) (s.resendAll p) := by
  unfold State.resendAll
  dsimp only
  rw [if_neg (by simpa using some_), State.each_emit]
  refine State.each_keeps (State.perf_keeps (.refl (s.resent p)) (by decide) ..) fun t r kept => State.check_keeps kept (by decide) ..
theorem State.resendAll_port (some_ : (s.port p).unacked ≠ []) :
    (s.resendAll p).port p = (s.port p).resent (s.port p).unacked.length s.clk.elapsed :=
  ((State.resendAll_some some_).port_eq (by decide) p).trans (State.modPort_port ..)
theorem State.resendAll_port_other (other : q ≠ p) : (s.resendAll p).port q = s.port q := by
  rcases eq_or_ne (s.port p).unacked [] with none_ | some_
  · rw [State.resendAll_none none_]
  · exact ((State.resendAll_some some_).port_eq (by decide) q).trans (State.modPort_port_other _ other _)
theorem State.resendAll_clk (s : State) (p : Nat) : (s.resendAll p).clk = s.clk :=
  (State.resendAll_keeps (B := [.ctxs, .ports, .obs, .out]) (.refl s) (by decide) p).same .clk (by decide)
/-- Each unacknowledged flit goes out again, after what was sent before. -/
theorem State.resendAll_out (s : State) (p : Nat) : s.out <:+ (s.resendAll p).out ∧
    ∀ e ∈ (s.port p).unacked, Output.resend p e.1 ∈ (s.resendAll p).out := by
  rcases eq_or_ne (s.port p).unacked [] with none_ | some_
  · rw [State.resendAll_none none_, none_]
    exact ⟨List.suffix_rfl, nofun⟩
  · have out : (s.resendAll p).out = ((s.port p).unacked.map fun f => .resend p f.1).reverse ++ s.out :=
      (State.resendAll_some some_).same .out (by decide)
    rw [out]
    refine ⟨List.suffix_append .., fun e listed => List.mem_append_left _ (List.mem_reverse.mpr ?_)⟩
    exact List.mem_map_of_mem (f := fun f : Nat × Nat × Nat => Output.resend p f.1) listed
/-- A port apart from what a resend counts. -/
def Port.unsent (x : Port) : Port := { x with retry := 0, resends := 0, ackPick := 0 }
theorem State.resendAll_unsent (s : State) (p : Nat) : ((s.resendAll p).port p).unsent = (s.port p).unsent := by
  rcases eq_or_ne (s.port p).unacked [] with none_ | some_
  · rw [State.resendAll_none none_]
  · rw [State.resendAll_port some_]
    rfl
/-- What is read of a port apart from these is the same after a resend. -/
theorem State.resendAll_same {α : Type} (f : Port → α) (own : ∀ x : Port, f x.unsent = f x) (s : State) (p : Nat) :
    f ((s.resendAll p).port p) = f (s.port p) := by
  rw [← own, ← own (s.port p)]
  exact congrArg f (s.resendAll_unsent p)

theorem exec_replayTimeout {port : Fin 36} (awake : s.awake = true) (up : (s.port port.val).state = 2)
    (trained : (s.port port.val).retrain = false) (some_ : (s.port port.val).unacked ≠ [])
    (late : (s.port port.val).ackPick + 256 ≤ s.clk.elapsed) : exec (.replayTimeout port) s = .next (s.resendAll port.val) :=
  congrArg Host.Outcome.next (if_pos (by simp [awake, up, trained, some_, late]))

/-! ## Flits (R334, R336) -/

theorem State.lossOn_port (s : State) (p : Nat) : (s.lossOn p).port p = { s.port p with nakOwed := true } := by
  unfold State.lossOn
  dsimp only
  split
  next owed => exact congrArg (fun b => { s.port p with nakOwed := b }) owed
  next => exact (State.emit_get_port ..).trans (s.modPort_port ..)
theorem State.lossOn_port_other (other : q ≠ p) : (s.lossOn p).port q = s.port q := by
  unfold State.lossOn
  dsimp only
  split
  · rfl
  · exact (State.emit_get_port ..).trans (s.modPort_port_other other _)
theorem State.lossOn_out (s : State) (p : Nat) : s.out <:+ (s.lossOn p).out ∧
    ((s.port p).nakOwed = false → (s.lossOn p).out = .nak p (((s.port p).rxSeq + 4095) % 4096) :: s.out) := by
  unfold State.lossOn
  dsimp only
  split
  next owed => exact ⟨List.suffix_rfl, fun free => absurd owed (Bool.eq_false_iff.mp free)⟩
  next => exact ⟨List.suffix_cons .., fun _ => rfl⟩

/-- The port after a sequenced flit: the expected SEQ is taken, a later one is a loss, an earlier one a repeat. -/
def Port.seqTaken (x : Port) (seq : Nat) : Port :=
  if seq = x.rxSeq then { x with rxSeq := (x.rxSeq + 1) % 4096, nakOwed := false }
  else { x with nakOwed := x.nakOwed || decide ((seq + 4096 - x.rxSeq) % 4096 < 2048) }
theorem State.takeSeq_port (s : State) (p seq : Nat) : (s.takeSeq p seq).port p = (s.port p).seqTaken seq := by
  unfold State.takeSeq Port.seqTaken
  dsimp only
  split_ifs with same later
  · exact s.modPort_port ..
  · rw [State.lossOn_port, decide_eq_true later, Bool.or_true]
  · rw [decide_eq_false later, Bool.or_false]
theorem State.takeSeq_port_other (other : q ≠ p) (seq : Nat) : (s.takeSeq p seq).port q = s.port q := by
  unfold State.takeSeq
  dsimp only
  split_ifs
  · exact s.modPort_port_other other _
  · exact State.lossOn_port_other other
  · rfl
theorem State.takeSeq_out (s : State) (p seq : Nat) : s.out <:+ (s.takeSeq p seq).out := by
  unfold State.takeSeq
  dsimp only
  split_ifs
  · exact List.suffix_rfl
  · exact (s.lossOn_out p).1
  · exact List.suffix_rfl

/-- What an ACK leaves is fewer flits, or all of them. -/
theorem afterAck_length (a : Nat) (l : List (Nat × Nat × Nat)) : (afterAck a l).length < l.length ∨ afterAck a l = l := by
  unfold afterAck
  split
  next known =>
    obtain ⟨f, listed, -⟩ := List.any_eq_true.mp known
    have some_ := List.length_pos_of_mem listed
    have fewer := (List.dropWhile_suffix (fun f : Nat × Nat × Nat => f.1 != a) (l := l)).length_le
    refine .inl ?_
    rw [List.length_drop]
    omega
  next => exact .inr rfl
theorem Port.takeAck_unacked (now ack vc credits : Nat) (x : Port) :
    (x.takeAck now ack vc credits).unacked = afterAck ack x.unacked := by
  unfold Port.takeAck
  dsimp only
  split
  · rfl
  next same => exact ((afterAck_length ack x.unacked).resolve_left same).symm
/-- What a port counts and what it expects: errors, SEQ, whether a loss is still to be made good. -/
def Port.heard (x : Port) : Nat × Nat × Bool := (x.crc, x.rxSeq, x.nakOwed)
theorem Port.takeAck_heard (now ack vc credits : Nat) (x : Port) :
    (x.takeAck now ack vc credits).heard = x.heard ∧ (x.takeAck now ack vc credits).retry = x.retry := by
  unfold Port.takeAck
  dsimp only
  split
  · exact ⟨rfl, rfl⟩
  · exact ⟨rfl, rfl⟩

/-- The steps by which an intact flit `b` is taken: its ACK and credits, a resend where it is a NAK, its SEQ where it is sequenced. -/
def State.ackTaken (s : State) (p : Nat) (b : Bytes) : State :=
  s.modPort p fun x => x.takeAck s.clk.elapsed (fld (le b 3 2) 0 12) (byteAt b 5) (le b 6 2)
def State.nakTaken (s : State) (p : Nat) (b : Bytes) : State := if bitOf (byteAt b 0) 6 then s.resendAll p else s
def State.seqTaken (s : State) (p : Nat) (b : Bytes) : State :=
  if fld (byteAt b 0) 0 4 = 1 ∨ fld (byteAt b 0) 0 4 = 2 then s.takeSeq p (fld (le b 1 2) 0 12) else s
def State.flitTaken (s : State) (p : Nat) (b : Bytes) : State := ((s.ackTaken p b).nakTaken p b).seqTaken p b
theorem State.flit_intact {f : Flit} (good : crc32 (slice f.bytes 0 252) = f.crc) : s.flit p f =
    (s.flitTaken p (slice f.bytes 0 252)).modPort p fun x => x.pump s.clk.elapsed x.waiting.length := if_neg (not_not.mpr good)
theorem State.flit_broken {f : Flit} (bad : crc32 (slice f.bytes 0 252) ≠ f.crc) :
    s.flit p f = (s.modPort p fun x => { x with crc := satAdd max16 x.crc 1 }).lossOn p := if_pos bad
theorem exec_xeastFlit {port : Fin 36} (awake : s.awake = true) (live : (s.port port.val).state = 1 ∨ (s.port port.val).state = 2)
    (f : Flit) : exec (.xeastFlit port f) s = .next (s.flit port.val f) :=
  congrArg Host.Outcome.next (if_pos (by simpa [awake] using live))

theorem State.nakTaken_heard (s : State) (p : Nat) (b : Bytes) : ((s.nakTaken p b).port p).heard = (s.port p).heard := by
  unfold State.nakTaken
  split
  · exact s.resendAll_same Port.heard (fun _ => rfl) p
  · rfl
theorem State.nakTaken_port_other (other : q ≠ p) (b : Bytes) : (s.nakTaken p b).port q = s.port q := by
  unfold State.nakTaken
  split
  · exact State.resendAll_port_other other
  · rfl
theorem State.seqTaken_port (s : State) (p : Nat) (b : Bytes) : (s.seqTaken p b).port p =
    if fld (byteAt b 0) 0 4 = 1 ∨ fld (byteAt b 0) 0 4 = 2 then (s.port p).seqTaken (fld (le b 1 2) 0 12) else s.port p := by
  unfold State.seqTaken
  split
  · exact s.takeSeq_port ..
  · rfl
theorem State.seqTaken_port_other (other : q ≠ p) (b : Bytes) : (s.seqTaken p b).port q = s.port q := by
  unfold State.seqTaken
  split
  · exact State.takeSeq_port_other other _
  · rfl
theorem State.seqTaken_out (s : State) (p : Nat) (b : Bytes) : s.out <:+ (s.seqTaken p b).out := by
  unfold State.seqTaken
  split
  · exact s.takeSeq_out ..
  · exact List.suffix_rfl
theorem Port.seqTaken_expected {x : Port} {seq : Nat} (same : seq = x.rxSeq) :
    x.seqTaken seq = { x with rxSeq := (x.rxSeq + 1) % 4096, nakOwed := false } := if_pos same
theorem Port.seqTaken_other {x : Port} {seq : Nat} (other : seq ≠ x.rxSeq) : x.seqTaken seq =
    { x with nakOwed := x.nakOwed || decide ((seq + 4096 - x.rxSeq) % 4096 < 2048) } := if_neg other
theorem Port.seqTaken_counts (x : Port) (seq : Nat) : (x.seqTaken seq).crc = x.crc ∧ (x.seqTaken seq).retry = x.retry := by
  unfold Port.seqTaken
  split
  · exact ⟨rfl, rfl⟩
  · exact ⟨rfl, rfl⟩

/-- The port that takes an intact flit is as before it in what it has counted and expects, but for the flit's own SEQ. -/
theorem State.flitTaken_port (s : State) (p : Nat) (b : Bytes) : ∃ x : Port, x.heard = (s.port p).heard ∧
    (bitOf (byteAt b 0) 6 = false → x.retry = (s.port p).retry) ∧ (s.flitTaken p b).port p =
      if fld (byteAt b 0) 0 4 = 1 ∨ fld (byteAt b 0) 0 4 = 2 then x.seqTaken (fld (le b 1 2) 0 12) else x := by
  have acked : (s.ackTaken p b).port p = _ := State.modPort_port ..
  obtain ⟨heard, retry⟩ := Port.takeAck_heard s.clk.elapsed (fld (le b 3 2) 0 12) (byteAt b 5) (le b 6 2) (s.port p)
  refine ⟨((s.ackTaken p b).nakTaken p b).port p, ?_, fun plain => ?_, State.seqTaken_port ..⟩
  · rw [State.nakTaken_heard, acked, heard]
  · have same : (s.ackTaken p b).nakTaken p b = s.ackTaken p b := if_neg (Bool.eq_false_iff.mp plain)
    rw [same, acked, retry]
theorem State.flitTaken_port_other (other : q ≠ p) (b : Bytes) : (s.flitTaken p b).port q = s.port q :=
  (State.seqTaken_port_other other b).trans ((State.nakTaken_port_other other b).trans (State.modPort_port_other _ other _))
/-- A NAK resends every flit that its ACK leaves. -/
theorem State.flitTaken_resends {b : Bytes} (nak : bitOf (byteAt b 0) 6 = true) :
    ∀ e ∈ afterAck (fld (le b 3 2) 0 12) (s.port p).unacked, Output.resend p e.1 ∈ (s.flitTaken p b).out := by
  have acked : ((s.ackTaken p b).port p).unacked = afterAck (fld (le b 3 2) 0 12) (s.port p).unacked := by
    rw [State.ackTaken, State.modPort_port, Port.takeAck_unacked]
  have resent : (s.ackTaken p b).nakTaken p b = (s.ackTaken p b).resendAll p := if_pos nak
  intro e listed
  have sent := ((s.ackTaken p b).resendAll_out p).2 e (acked ▸ listed)
  rw [← resent] at sent
  exact (State.seqTaken_out ..).subset sent

/-! ## Retrains (R337) -/

theorem State.startRetrain_begins (up : (s.port p).state = 2) (trained : (s.port p).retrain = false) : s.startRetrain p =
    s.modPort p fun y => { y with
      setAt := note y.setAt 1 s.clk.elapsed, retrain := true, retrains := satAdd max8 y.retrains 1
      retrainStarts := (s.port p).retrainStarts.filter (fun w => decide (s.clk.wall < w + 4000000000)) ++ [s.clk.wall]
      retrainWall := s.clk.wall, resends := 0, equalised := false, identSeen := false, wrongPeer := false } :=
  if_pos ⟨up, trained⟩
theorem State.startRetrain_notes (not_ : (s.port p).state ≠ 2 ∨ (s.port p).retrain = true) :
    s.startRetrain p = s.modPort p fun y => { y with setAt := note y.setAt 1 s.clk.elapsed } := by
  refine if_neg ?_
  rintro ⟨up, trained⟩
  rcases not_ with down | busy
  · exact down up
  · rw [trained] at busy
    cases busy
/-- A retrain leaves the flits and the port's state, and after it the port is in a retrain where it is Up. -/
theorem State.startRetrain_port (s : State) (p : Nat) : ((s.startRetrain p).port p).unacked = (s.port p).unacked ∧
    ((s.startRetrain p).port p).state = (s.port p).state ∧
    ((s.port p).retrain = false → (((s.startRetrain p).port p).retrain = true ↔ (s.port p).state = 2)) := by
  unfold State.startRetrain
  dsimp only
  split
  next begins =>
    rw [State.modPort_port]
    exact ⟨rfl, rfl, fun _ => ⟨fun _ => begins.1, fun _ => rfl⟩⟩
  next stays =>
    rw [State.modPort_port]
    exact ⟨rfl, rfl, fun trained => ⟨fun busy => by simp [trained] at busy, fun up => absurd ⟨up, trained⟩ stays⟩⟩
theorem State.startRetrain_out (s : State) (p : Nat) : (s.startRetrain p).out = s.out := by
  unfold State.startRetrain
  dsimp only
  split
  · rfl
  · rfl
theorem exec_xlRetrain {who : Option Who} {port : Fin 36} (asks : (who = none ∧ s.awake = true ∧ 8 ≤ (s.port port.val).resends) ∨
    (∃ w j, who = some w ∧ s.actsPrv w j ∧ (s.sel j).port = port.val)) :
    exec (.xlRetrain who port) s = .next (s.startRetrain port.val) := by
  refine congrArg Host.Outcome.next ?_
  rcases asks with ⟨rfl, awake, resends⟩ | ⟨w, j, rfl, acts, selected⟩
  · exact if_pos (by rw [awake, decide_eq_true resends]; rfl)
  · exact (State.prvWrite_done acts _).trans (if_pos selected)

/-- The retrain of port `p` has ended: every unacknowledged flit has been sent again. -/
def State.trained (s : State) (p : Nat) : State :=
  let t := (s.modPort p fun y => { y with retrain := false }).resendAll p
  t.modPort p fun y => { y with resends := 0, ackPick := t.clk.elapsed }
theorem State.trained_clk (s : State) (p : Nat) : (s.trained p).clk = s.clk := by
  rw [State.trained, State.modPort_clk, State.resendAll_clk, State.modPort_clk]
theorem State.trained_port (s : State) (p : Nat) : ((s.trained p).port p).retrain = false ∧
    ((s.trained p).port p).unacked = (s.port p).unacked ∧ ((s.trained p).port p).state = (s.port p).state := by
  generalize cleared : (s.modPort p fun y => { y with retrain := false }) = u
  have port : u.port p = { s.port p with retrain := false } := by rw [← cleared, State.modPort_port]
  rw [State.trained, cleared, State.modPort_port]
  exact ⟨(u.resendAll_same Port.retrain (fun _ => rfl) p).trans (by rw [port]),
    (u.resendAll_same Port.unacked (fun _ => rfl) p).trans (by rw [port]),
    (u.resendAll_same Port.state (fun _ => rfl) p).trans (by rw [port])⟩
theorem State.trained_out (s : State) (p : Nat) : ∀ e ∈ (s.port p).unacked, Output.resend p e.1 ∈ (s.trained p).out := by
  have sent := ((s.modPort p fun y => { y with retrain := false }).resendAll_out p).2
  rw [State.modPort_port] at sent
  intro e listed
  rw [State.trained, State.modPort_out]
  exact sent e listed
theorem exec_retrainComplete {port : Fin 36} (awake : s.awake = true) (busy : (s.port port.val).retrain = true)
    (seen : (s.port port.val).identSeen = true) (same : (s.port port.val).wrongPeer = false)
    (within : s.clk.wall ≤ (s.port port.val).retrainWall + 20000000) : exec (.retrainComplete port) s = .next (
      let t := s.trained port.val
      if notedNow (s.port port.val).setAt 1 t.clk.elapsed then t.startRetrain port.val else t) :=
  congrArg Host.Outcome.next (if_pos (by simp [awake, busy, seen, same, within]))

/-! ## What a fault leaves of the links -/

theorem State.originate_links (s : State) (c msg pick arg arg2 : Nat) : (s.originate c msg pick arg arg2).links = s.links :=
  State.sendOn_links ..
theorem State.declare_links (s : State) (kind idx det : Nat) : (s.declare kind idx det).links = s.links := by
  have logged := State.storm_keeps (B := [.log, .storm, .marks, .alerts, .out])
    (State.pushLog_keeps (.refl s) (by decide) (s.entry kind idx det false)) (by decide) (s.entry kind idx det false)
  exact (State.each_links (fun t c => t.originate_links ..) _).trans (logged.links_eq (by decide))
theorem State.issue_links (s : State) (path : Nat) (op : RemoteOp) : (s.issue path op).links = s.links := by
  unfold State.issue
  dsimp only
  split
  · exact State.sendFlits_links ..
  · rfl
theorem State.setOf_links (s : State) (c l i : Nat) (st : PlanStep) : (s.setOf c l i st).links = s.links := by
  have knot (a n : Nat) (by_ : Setter) : (s.setKnot a n c by_).links = s.links :=
    (State.setKnot_keeps (B := [.mem, .kvt, .sched, .obs]) (.refl s) (by decide) ..).links_eq (by decide)
  unfold State.setOf
  dsimp only
  split_ifs
  · rfl
  · exact knot ..
  · exact knot ..
  · exact State.issue_links ..
  · exact State.issue_links ..
theorem State.suppressDue_links (s : State) : s.suppressDue.links = s.links := by
  unfold State.suppressDue State.dropDue
  dsimp only
  show (State.each _ _ _).links = _
  refine State.each_links (fun t d => ?_) _
  have marked := State.check_keeps (B := [.sched, .obs, .ctxs]) (State.dropTag_keeps (State.voidStalls_keeps (.refl t) (by decide) d)
    (by decide) d true) (by decide) d.ctx (t.stepAt d.ctx d.list d.idx).slot fun k => { k with suppressed := true }
  rw [if_pos rfl]
  split
  · exact (State.setOf_links ..).trans (marked.links_eq (by decide))
  · exact State.links_of_ports (marked.same .ports (by decide))
/-- A fault of a domain that takes no context with it changes no link. -/
theorem State.fault_links {kind idx : Nat} (below : kind ≠ 0xB) (loom : kind ≠ 9) (hub : ¬(kind = 0xA ∧ 1 ≤ idx ∧ idx ≤ 4)) (s : State)
    (det : Nat) : (s.fault kind idx det).links = s.links := by
  rcases Bool.eq_false_or_eq_true (s.troubled kind idx) with recovering | free
  · rw [State.fault_of_troubled below recovering]
    exact (State.each_links (fun t c => t.originate_links ..) _).trans rfl
  · rw [State.fault_of_free below free]
    obtain ⟨f, alone⟩ := (s.declare kind idx det).fence_alone loom hub det s.clk.pick s.rcv.logSeq
    rw [alone]
    exact (State.suppressDue_links _).trans (s.declare_links kind idx det)

/-! ## Failures (R337) -/

/-- The port's failure is counted and told, before its domain is fenced. -/
def State.failureTold (s : State) (p : Nat) : State :=
  (s.modPort p fun x => { x with fails := satAdd max8 x.fails 1, retrain := false, retrainStarts := [] }).alertLinkFail
theorem State.alertLinkFail_set (s : State) : s.alertLinkFail.rcv.alertLinkFail = true := by
  unfold State.alertLinkFail
  dsimp only
  split
  · rfl
  · rfl
theorem State.failureTold_tells (s : State) (p : Nat) : Keeps [.ports, .marks, .alerts, .out] s (s.failureTold p) :=
  State.alertLinkFail_keeps (State.modPort_keeps (.refl s) (by decide) ..) (by decide)
theorem State.failureTold_fails (s : State) (p : Nat) : ((s.failureTold p).port p).fails = min 0xFF ((s.port p).fails + 1) := by
  have told := State.alertLinkFail_keeps (B := [.marks, .alerts, .out])
    (.refl (s.modPort p fun x => { x with fails := satAdd max8 x.fails 1, retrain := false, retrainStarts := [] })) (by decide)
  rw [State.failureTold, told.port_eq (by decide), State.modPort_port]
  rfl
theorem exec_linkFailure {port : Fin 36} {cause : LinkCause} (awake : s.awake = true) (up : (s.port port.val).state = 2)
    (holds : s.linkFailed (s.port port.val) cause = true) :
    exec (.linkFailure port cause) s = .next ((s.failureTold port.val).fault 7 port.val 4) :=
  congrArg Host.Outcome.next (if_pos (by rw [awake, up, holds]; rfl))

/-! ## Training (R338, R342) -/

theorem State.portEnable_on (within : p < 36) : s.portEnable p true = s.modPort p fun y =>
    if y.state = 0 ∧ s.awake = true then { y.fresh 1 with enable := true } else { y with enable := true } :=
  (if_neg (by omega)).trans (if_pos rfl)
theorem State.portEnable_used (within : p < 36) (used : s.portInPlan p = true) : s.portEnable p false = s.report (.droppedWrite 4) :=
  (if_neg (by omega)).trans ((if_neg Bool.false_ne_true).trans (if_pos used))
theorem State.portEnable_off (within : p < 36) (unused : s.portInPlan p = false) : s.portEnable p false =
    if (s.port p).state = 3 then s.modPort p fun y => { y with enable := false }
    else (s.upstreamDown p).modPort p fun y => { y.fresh 0 with enable := false } :=
  (if_neg (by omega)).trans ((if_neg Bool.false_ne_true).trans (if_neg (Bool.eq_false_iff.mp unused)))
/-- A port whose ENABLE is written keeps its counts; it is trained from Down, and held Down without ENABLE. -/
theorem State.portEnable_sets (within : p < 36) {on : Bool} (free : on = true ∨ s.portInPlan p = false) : let x := s.port p
    let y := (s.portEnable p on).port p
    y.enable = on ∧ y.crc = x.crc ∧ y.retry = x.retry ∧
      y.state = (if x.state = 3 then 3 else if on = false then 0 else if x.state = 0 ∧ s.awake = true then 1 else x.state) ∧
      ∀ q, q ≠ p → (s.portEnable p on).port q = s.port q := by
  dsimp only
  cases on with
  | true =>
    rw [State.portEnable_on within, State.modPort_port]
    split
    next trains => exact ⟨rfl, rfl, rfl, by simp [Port.fresh, trains], fun q other => State.modPort_port_other _ other _⟩
    next stays =>
      refine ⟨rfl, rfl, rfl, ?_, fun q other => State.modPort_port_other _ other _⟩
      dsimp only
      split
      next retired => exact retired
      next => rfl
  | false =>
    rw [State.portEnable_off within (free.resolve_left Bool.false_ne_true)]
    have down := State.upstreamDown_keeps (B := [.time]) (.refl s) (by decide) p
    split
    next retired =>
      rw [State.modPort_port]
      exact ⟨rfl, rfl, rfl, retired, fun q other => State.modPort_port_other _ other _⟩
    next =>
      rw [State.modPort_port, down.port_eq (by decide)]
      exact ⟨rfl, rfl, rfl, rfl, fun q other => (State.modPort_port_other _ other _).trans (down.port_eq (by decide) q)⟩

theorem exec_portEqualised {port : Fin 36} (awake : s.awake = true)
    (trains : ((s.port port.val).enable = true ∧ (s.port port.val).state = 1) ∨
      ((s.port port.val).state = 2 ∧ (s.port port.val).retrain = true))
    (fresh : (s.port port.val).equalised = false) : exec (.portEqualised port) s =
      .next ((s.modPort port.val fun y => { y with equalised := true }).sendOn [port.val]
        ⟨1, 0xFFFF, 0, s.fwForm, s.sec.moduleId, port.val + 256 * arithProfile⟩) :=
  congrArg Host.Outcome.next (if_pos (by simpa [awake, fresh] using trains))

section
variable {id peerPort profile fw : Nat}

/-- IDENT in training names the peer; the port is Up with its hop latency where it is wired as it has to be. -/
theorem State.takeIdent_trains (trains : (s.port p).state = 1) (equalised : (s.port p).equalised = true) :
    ∃ hop, (s.takeIdent p id peerPort profile fw).port p = { s.port p with
      peer := id, peerPort := peerPort, peerProfile := profile, peerFw := fw, identSeen := true
      miswired := !(decide (p < 32) || s.twinWired p id peerPort)
      planPlace := if (s.port p).peer = id then (s.port p).planPlace else [], hop := hop
      state := if decide (p < 32) || s.twinWired p id peerPort then 2 else 1 } := by
  unfold State.takeIdent
  dsimp only
  rw [if_pos ⟨trains, equalised⟩]
  exact ⟨_, State.modPort_port ..⟩
/-- IDENT after a retrain shows whether the peer is the same. -/
theorem State.takeIdent_compares (up : (s.port p).state = 2) (retrains : (s.port p).retrain = true)
    (equalised : (s.port p).equalised = true) : s.takeIdent p id peerPort profile fw = s.modPort p fun y => { y with
      identSeen := true, peerFw := fw, wrongPeer := decide (y.peer ≠ id ∨ y.peerPort ≠ peerPort) } := by
  unfold State.takeIdent
  dsimp only
  rw [if_neg (by omega), if_pos ⟨up, retrains, equalised⟩]
theorem State.takeIdent_early (fresh : (s.port p).equalised = false) : s.takeIdent p id peerPort profile fw = s := by
  unfold State.takeIdent
  dsimp only
  rw [if_neg (by simp [fresh]), if_neg (by simp [fresh])]
end
theorem exec_ident {port : Fin 36} (awake : s.awake = true) (id : BitVec 64) (peerPort : Fin 64) (profile : BitVec 16)
    (fw : BitVec 64) : exec (.ident port id peerPort profile fw) s =
      .next (s.takeIdent port.val id.toNat peerPort.val profile.toNat fw.toNat) := congrArg Host.Outcome.next (if_pos awake)

/-! ## PLAN_ID (R341) -/

theorem exec_planId {port : Fin 36} (awake : s.awake = true) (up : (s.port port.val).state = 2) (group leader : BitVec 64)
    (origin : Fin 4096) (aligned : Bool) : exec (.planId port group origin leader aligned) s =
      .next (s.takePlanId port.val group.toNat origin.val leader.toNat aligned) :=
  congrArg Host.Outcome.next (if_pos (by rw [awake, up]; rfl))

section
variable {g origin leader : Nat} {aligned : Bool}

/-- The first place that the group's messages name on a port is that of its other end; the sender's leader and alignment are kept. -/
def Port.placed (x : Port) (g origin leader : Nat) (aligned : Bool) : Port :=
  { x with
    planPlace := if Tab.getD 0 x.planPlace g = 0 then Tab.put 0 x.planPlace g (origin + 1) else x.planPlace
    peerTime := (g, origin, leader, aligned) :: x.peerTime.filter (fun r => !(r.1 == g && r.2.1 == origin)) }
theorem Port.placed_planPlace (x : Port) : Tab.getD 0 (x.placed g origin leader aligned).planPlace g =
    if Tab.getD 0 x.planPlace g = 0 then origin + 1 else Tab.getD 0 x.planPlace g := by
  unfold Port.placed
  dsimp only
  split
  · exact Tab.getD_put_same ..
  · rfl
/-- PLAN_ID relayed for context `c`, but not to the port that it came from. -/
def State.planRelayed (p g origin leader : Nat) (aligned : Bool) (s : State) (c : Nat) : State :=
  (s.noteMsg 2 origin g leader).sendOn ((s.groupPorts c).filter (· != p)) ⟨2, origin, g, s.clk.pick, leader, b2n aligned⟩
theorem State.planRelayed_sends (s : State) (c : Nat) :
    Keeps [.relayed, .ports, .out] s (s.planRelayed p g origin leader aligned c) :=
  State.sendOn_keeps (State.noteMsg_keeps (.refl s) (by decide) ..) (by decide) ..
theorem State.planRelayed_grows (s : State) (c : Nat) : s.out <:+ (s.planRelayed p g origin leader aligned c).out ∧
    ∀ q ∈ (s.groupPorts c).filter (· != p), Output.ctrl q ⟨2, origin, g, s.clk.pick, leader, b2n aligned⟩ ∈
      (s.planRelayed p g origin leader aligned c).out := (s.noteMsg 2 origin g leader).sendOn_out ..
theorem State.takePlanId_unknown (none_ : s.inGroup g = []) : s.takePlanId p g origin leader aligned = s :=
  if_pos (by rw [none_]; rfl)
theorem State.takePlanId_known (some_ : s.inGroup g ≠ []) : s.takePlanId p g origin leader aligned =
    let u := s.modPort p fun x => x.placed g origin leader aligned
    if s.seen 2 origin g leader then u
    else State.each ((s.inGroup g).filter fun c => (s.ctx c).ctl.state == 1 || (s.ctx c).ctl.state == 4)
      (State.planRelayed p g origin leader aligned) u := if_neg (by simpa using some_)
/-- Relaying for every context of the group leaves the links, and tells each other port of their plans. -/
theorem State.planRelayed_links (l : List Nat) (s : State) :
    (State.each l (State.planRelayed p g origin leader aligned) s).links = s.links :=
  State.each_links (fun t _ => State.sendOn_links (t.noteMsg 2 origin g leader) ..) s
theorem State.planRelayed_out {l : List Nat} {c : Nat} (listed : c ∈ l) (port : q ∈ planPorts (s.image c)) (other : q ≠ p) :
    Output.ctrl q ⟨2, origin, g, s.clk.pick, leader, b2n aligned⟩ ∈
      (State.each l (State.planRelayed p g origin leader aligned) s).out := by
  refine State.each_reaches (I := fun t => t.clk = s.clk ∧ t.ctx c = s.ctx c)
    (P := fun t => Output.ctrl q ⟨2, origin, g, s.clk.pick, leader, b2n aligned⟩ ∈ t.out) listed (fun t d ⟨clk, ctx⟩ => ?_)
    (fun t d sent => ?_) (fun t ⟨clk, ctx⟩ => ?_) ⟨rfl, rfl⟩
  · have kept := t.planRelayed_sends (p := p) (g := g) (origin := origin) (leader := leader) (aligned := aligned) d
    exact ⟨(kept.same .clk (by decide)).trans clk, (kept.ctx_eq (by decide) c).trans ctx⟩
  · exact (t.planRelayed_grows d).1.subset sent
  · have toward : q ∈ (t.groupPorts c).filter (· != p) := by
      rw [State.groupPorts, State.image, ctx]
      exact List.mem_filter.mpr ⟨port, by simpa using other⟩
    rw [← clk]
    exact (t.planRelayed_grows c).2 q toward
end
end Sys2Proof.Machine
open Sys2Proof Sys2Proof.Machine

/-- Settles O56: a flit is taken in steps, each of which leaves the others' counts; resends, retrains and messages leave what a link
has agreed on. -/
theorem xeastPorts : Obligations.XeastPorts := by
  refine ⟨fun s port f awake live => ⟨fun bad => ?_, fun good => ?_⟩,
    fun s port awake up trained some_ late => ?_, fun s who port asks => ⟨fun up trained => ?_, fun not_ => ?_⟩,
    fun s port awake busy seen same within => ?_, fun s port cause awake up free holds => ?_,
    fun s who j on acts within => ⟨fun off used => ?_, fun free => ?_⟩, fun s port awake trains fresh => ?_,
    fun s port id fw peerPort profile awake => ⟨fun trains equalised => ?_, fun up retrains equalised => ?_, fun live fresh => ?_⟩,
    fun s port group leader origin aligned awake up => ⟨fun none_ => ?_, fun some_ => ?_⟩⟩
  · have ran := exec_xeastFlit awake live f
    rw [State.flit_broken bad] at ran
    generalize counted : (s.modPort port.val fun x => { x with crc := satAdd max16 x.crc 1 }) = u at ran
    have port' : u.port port.val = { s.port port.val with crc := satAdd max16 (s.port port.val).crc 1 } := by
      rw [← counted, State.modPort_port]
    have lost := (u.lossOn_port port.val).trans (by rw [port'])
    refine yields_of ran ⟨by rw [lost]; rfl, by rw [lost], by rw [lost], by rw [lost], fun free => ?_, fun q other => ?_⟩
    · rw [(u.lossOn_out port.val).2 (by rw [port']; exact free), port', ← counted]
      rfl
    · rw [State.lossOn_port_other other, ← counted, State.modPort_port_other _ other]
  · have ran := exec_xeastFlit awake live f
    rw [State.flit_intact good] at ran
    obtain ⟨y, heard, retry, port'⟩ := s.flitTaken_port port.val (slice f.bytes 0 252)
    have crc' : y.crc = (s.port port.val).crc := congrArg Prod.fst heard
    have rxSeq : y.rxSeq = (s.port port.val).rxSeq := congrArg (fun h => h.2.1) heard
    have nakOwed : y.nakOwed = (s.port port.val).nakOwed := congrArg (fun h => h.2.2) heard
    generalize taken : s.flitTaken port.val (slice f.bytes 0 252) = u at ran port'
    have links : (u.modPort port.val fun x => x.pump s.clk.elapsed x.waiting.length).links = u.links :=
      State.modPort_links fun _ => Port.pump_link ..
    have field {α : Type} (g : Port → α) (own : ∀ x : Port, g x.link = g x) := State.port_of_links g links own port.val
    refine yields_of ran ⟨(field Port.crc fun _ => rfl).trans ?_, fun sequenced same => ⟨(field Port.rxSeq fun _ => rfl).trans ?_,
      (field Port.nakOwed fun _ => rfl).trans ?_⟩, fun sequenced other => ⟨(field Port.rxSeq fun _ => rfl).trans ?_,
      (field Port.nakOwed fun _ => rfl).trans ?_⟩, fun plain => ⟨(field Port.rxSeq fun _ => rfl).trans ?_,
      (field Port.nakOwed fun _ => rfl).trans ?_⟩, fun nak => ?_, fun plain => (field Port.retry fun _ => rfl).trans ?_,
      fun q other => ?_⟩
    · rw [port']
      split
      · exact (y.seqTaken_counts _).1.trans crc'
      · exact crc'
    · rw [port', if_pos sequenced, Port.seqTaken_expected (same.trans rxSeq.symm), rxSeq]
    · rw [port', if_pos sequenced, Port.seqTaken_expected (same.trans rxSeq.symm)]
    · rw [port', if_pos sequenced, Port.seqTaken_other (ne_of_ne_of_eq other rxSeq.symm)]
      exact rxSeq
    · rw [port', if_pos sequenced, Port.seqTaken_other (ne_of_ne_of_eq other rxSeq.symm), rxSeq, nakOwed]
    · rw [port', if_neg plain]
      exact rxSeq
    · rw [port', if_neg plain]
      exact nakOwed
    · have sent := State.flitTaken_resends (s := s) (p := port.val) nak
      rw [taken] at sent
      exact sent
    · rw [port']
      split
      · exact (y.seqTaken_counts _).2.trans (retry plain)
      · exact retry plain
    · refine (State.modPort_port_other _ other _).trans ?_
      rw [← taken]
      exact State.flitTaken_port_other other _
  · refine yields_of (exec_replayTimeout awake up trained some_ late)
      ⟨(s.resendAll_out port.val).2, State.resendAll_port some_, fun q other => State.resendAll_port_other other⟩
  · have ran := exec_xlRetrain asks
    rw [State.startRetrain_begins up trained] at ran
    refine yields_of ran ?_
    rw [State.modPort_port]
    exact ⟨rfl, rfl, rfl, rfl, rfl, rfl, rfl, rfl, fun q other => State.modPort_port_other _ other _, rfl⟩
  · have ran := exec_xlRetrain asks
    rw [State.startRetrain_notes not_] at ran
    exact yields_of ran ⟨State.modPort_port .., fun q other => State.modPort_port_other _ other _, rfl⟩
  · obtain ⟨ended, unacked, state⟩ := s.trained_port port.val
    have sent := s.trained_out port.val
    have ran := exec_retrainComplete awake busy seen same within
    dsimp only at ran
    split at ran
    next again =>
      rw [State.trained_clk] at again
      obtain ⟨unacked', state', begins⟩ := (s.trained port.val).startRetrain_port port.val
      refine yields_of ran ⟨?_, unacked'.trans unacked, state'.trans state, ?_⟩
      · rw [begins ended, state]
        exact ⟨fun up => ⟨again, up⟩, And.right⟩
      · rw [State.startRetrain_out]
        exact sent
    next once =>
      rw [State.trained_clk] at once
      refine yields_of ran ⟨⟨fun on => ?_, fun both => absurd both.1 once⟩, unacked, state, sent⟩
      rw [ended] at on
      cases on
  · have failed : s.linkFailed (s.port port.val) cause = true := by
      rcases holds with ⟨rfl, retrains, late⟩ | ⟨rfl, retrains, wrong⟩ | ⟨rfl, four⟩
      · show (_ && _) = true
        rw [retrains, decide_eq_true late]
        rfl
      · show (_ && _) = true
        rw [retrains, wrong]
        rfl
      · exact decide_eq_true four
    have told := s.failureTold_tells port.val
    obtain ⟨logged, -, -, fenced⟩ := (State.fault_fences (kind := 7) (by decide) (s.failureTold port.val) port.val 4).of_keeps told (by decide)
    have links := State.fault_links (kind := 7) (idx := port.val) (by decide) (by decide) (by simp) (s.failureTold port.val) 4
    refine yields_of (exec_linkFailure awake up failed) ⟨logged, (fenced free).1, ?_, ?_⟩
    · exact (State.port_of_links Port.fails links (fun _ => rfl) port.val).trans (s.failureTold_fails port.val)
    · exact (congrArg Prod.snd (State.fault_siteAlerts (by decide) (s.failureTold port.val) port.val 4)).trans (State.alertLinkFail_set _)
  · subst off
    exact congrArg Host.Outcome.next ((State.prvWrite_done acts _).trans (State.portEnable_used within used))
  · exact yields_of (congrArg Host.Outcome.next (State.prvWrite_done acts _)) (State.portEnable_sets within free)
  · have ran := exec_portEqualised awake trains fresh
    generalize equalised : (s.modPort port.val fun y => { y with equalised := true }) = u at ran
    have port' : u.port port.val = { s.port port.val with equalised := true } := by rw [← equalised, State.modPort_port]
    generalize message : (⟨1, 0xFFFF, 0, s.fwForm, s.sec.moduleId, port.val + 256 * arithProfile⟩ : CtrlMsg) = msg at *
    have links := u.sendOn_links [port.val] msg
    refine yields_of ran ⟨?_, ?_, ?_, fun q other => ?_, (u.sendOn_out [port.val] msg).2 _ (List.mem_singleton_self _)⟩
    · exact (State.port_of_links Port.equalised links (fun _ => rfl) _).trans (by rw [port'])
    · exact (State.port_of_links Port.state links (fun _ => rfl) _).trans (by rw [port'])
    · exact (State.port_of_links Port.retrain links (fun _ => rfl) _).trans (by rw [port'])
    · rw [State.sendOn_port_other (by simpa using other), ← equalised, State.modPort_port_other _ other]
  · obtain ⟨hop, named⟩ := State.takeIdent_trains (id := id.toNat) (peerPort := peerPort.val) (profile := profile.toNat)
      (fw := fw.toNat) trains equalised
    have wires : (decide (port.val < 32) || s.twinWired port.val id.toNat peerPort.val) = true ↔
        (port.val < 32 ∨ s.twinWired port.val id.toNat peerPort.val = true) := by
      rw [Bool.or_eq_true, decide_eq_true_eq]
    refine yields_of (exec_ident awake id peerPort profile fw) ?_
    rw [named]
    refine ⟨rfl, rfl, rfl, rfl, fun right => ?_, fun wrong => ?_⟩
    · rw [wires.mpr right]
      exact ⟨rfl, rfl⟩
    · rw [Bool.eq_false_iff.mpr (fun right => wrong (wires.mp right))]
      exact ⟨rfl, rfl⟩
  · refine yields_of (exec_ident awake id peerPort profile fw) ?_
    rw [State.takeIdent_compares up retrains equalised, State.modPort_port]
  · rw [exec_ident awake, State.takeIdent_early fresh]
  · rw [exec_planId awake up, State.takePlanId_unknown none_]
  · have ran := exec_planId awake up group leader origin aligned
    rw [State.takePlanId_known some_] at ran
    dsimp only at ran
    generalize placed : (s.modPort port.val fun x => x.placed group.toNat origin.val leader.toNat aligned) = u at ran
    have port' : u.port port.val = (s.port port.val).placed group.toNat origin.val leader.toNat aligned := by
      rw [← placed, State.modPort_port]
    have place := (s.port port.val).placed_planPlace (g := group.toNat) (origin := origin.val) (leader := leader.toNat)
      (aligned := aligned)
    rw [← port'] at place
    have time : (group.toNat, origin.val, leader.toNat, aligned) ∈ (u.port port.val).peerTime := by
      rw [port']
      exact .head _
    split at ran
    next known => exact yields_of ran ⟨place, time, fun new => absurd known (Bool.eq_false_iff.mp new)⟩
    next =>
      have links := State.planRelayed_links (p := port.val) (g := group.toNat) (origin := origin.val) (leader := leader.toNat)
        (aligned := aligned) ((s.inGroup group.toNat).filter fun c => (s.ctx c).ctl.state == 1 || (s.ctx c).ctl.state == 4) u
      refine yields_of ran ⟨?_, ?_, fun _ c member live q used other => ?_⟩
      · exact (congrArg (fun l => Tab.getD 0 l group.toNat) (State.port_of_links Port.planPlace links (fun _ => rfl) _)).trans place
      · exact (State.port_of_links Port.peerTime links (fun _ => rfl) port.val) ▸ time
      · have alive : c ∈ (s.inGroup group.toNat).filter fun c => (s.ctx c).ctl.state == 1 || (s.ctx c).ctl.state == 4 :=
          List.mem_filter.mpr ⟨member, by simpa using live⟩
        subst placed
        exact State.planRelayed_out alive used other
end
